-- ==== Sys2Proof/Word.lean ====
section
/-! DEFINITION. The word types of the model: 64-bit scalars and addresses, bytes (00 R5). -/
namespace Sys2Proof

/-- A 64-bit scalar register, address or doubleword. -/
abbrev Word := BitVec 64

/-- The unit of memory. -/
abbrev Byte := BitVec 8

end Sys2Proof
end

