-- ==== Sys2Proof/Machine/Bits.lean ====
section
/-! DEFINITION. Bit fields, signs, byte lists and small integer helpers used by every chapter (00 R5, R6; 02 R42, R69). -/
namespace Sys2Proof.Machine

/-- Bits [lo + w - 1 : lo] of a number. -/
def field (x lo w : Nat) : Nat := x / 2 ^ lo % 2 ^ w

/-- A number with bits [lo + w - 1 : lo] replaced. -/
def setField (x lo w v : Nat) : Nat :=
  x / 2 ^ (lo + w) * 2 ^ (lo + w) + v % 2 ^ w * 2 ^ lo + x % 2 ^ lo

/-- Bit `i` of a number. -/
def bitAt (x i : Nat) : Bool := x / 2 ^ i % 2 == 1

/-- One bit as a number. -/
def b2n (b : Bool) : Nat := if b then 1 else 0

/-- Two's-complement reading of the low `w` bits. -/
def sgn (w x : Nat) : Int :=
  let y := x % 2 ^ w
  if y < 2 ^ (w - 1) then (y : Int) else (y : Int) - 2 ^ w

/-- wrap(x, n) as a bit pattern of `w` bits (02 R42, R69). -/
def wrapI (w : Nat) (x : Int) : Nat := (x % (2 ^ w : Int)).toNat

/-- Sign extension from `w` bits to 64 bits. -/
def sext64 (w x : Nat) : Nat := wrapI 64 (sgn w x)

/-- sat(x, lo, hi) (02 R69). -/
def satI (x lo hi : Int) : Int := if x < lo then lo else if hi < x then hi else x

/-- bitlen(n) (02 R69). -/
def bitlen (n : Nat) : Nat := if n = 0 then 0 else Nat.log2 n + 1

/-- Quotient rounded up. -/
def ceilDiv (a b : Nat) : Nat := (a + b - 1) / b

/-- Signed truncating quotient of integer division (02 R42). -/
def truncDiv (a b : Int) : Int := Int.tdiv a b

/-- Remainder of truncating division. -/
def truncMod (a b : Int) : Int := Int.tmod a b

/-- The first `n` bytes of a number, lowest first (00 R5). -/
def toBytes : Nat → Nat → List Byte
  | 0, _ => []
  | n + 1, x => BitVec.ofNat 8 x :: toBytes n (x / 256)

/-- The number of a list of bytes, lowest first (00 R5). -/
def ofBytes : List Byte → Nat
  | [] => 0
  | b :: bs => b.toNat + 256 * ofBytes bs

/-- Number of one bits among the low `n` bits. -/
def popcount : Nat → Nat → Nat
  | 0, _ => 0
  | n + 1, x => x % 2 + popcount n (x / 2)

/-- Trailing zeros of an `n`-bit number; `n` when it is 0. -/
def ctzN : Nat → Nat → Nat
  | 0, _ => 0
  | n + 1, x => if x % 2 = 1 then 0 else 1 + ctzN n (x / 2)

/-- The low `n` bits of a number in reverse order. -/
def revBits : Nat → Nat → Nat
  | 0, _ => 0
  | n + 1, x => x % 2 * 2 ^ n + revBits n (x / 2)

/-- Integer square root by `fuel` binary digits: the largest r below 2^fuel with r * r ≤ n. -/
def isqrtAux (n : Nat) : Nat → Nat → Nat
  | 0, r => r
  | fuel + 1, r => let t := r + 2 ^ fuel; isqrtAux n fuel (if t * t ≤ n then t else r)

/-- Integer square root. -/
def isqrt (n : Nat) : Nat := isqrtAux n (Nat.log2 n / 2 + 1) 0

/-- b^e mod p by binary digits of e, least first. -/
def powModAux (p : Nat) : Nat → Nat → Nat → Nat
  | 0, _, _ => 1 % p
  | fuel + 1, b, e =>
    let r := powModAux p fuel (b * b % p) (e / 2)
    if e % 2 = 1 then b * r % p else r

/-- b^e mod p. -/
def powMod (b e p : Nat) : Nat := powModAux p (bitlen e) (b % p) e

/-- Extended Euclid on (r0, s0), (r1, s1) with fuel: the coefficient of the last non-zero remainder. -/
def egcdAux : Nat → Int → Int → Int → Int → Int
  | 0, _, s0, _, _ => s0
  | fuel + 1, r0, s0, r1, s1 => if r1 = 0 then s0 else egcdAux fuel r1 s1 (r0 % r1) (s0 - r0 / r1 * s1)

/-- The inverse of a modulo p, for gcd(a, p) = 1 (02 R68). -/
def invMod (a p : Nat) : Nat := ((egcdAux (2 * bitlen p + 2) (a % p) 1 p 0) % p).toNat

/-- Split a list into pieces of n elements, at most `fuel` pieces. -/
def chunks (n : Nat) : Nat → List α → List (List α)
  | 0, _ => []
  | _ + 1, [] => []
  | fuel + 1, x :: xs => (x :: xs).take n :: chunks n fuel ((x :: xs).drop n)

/-- Replace the first entry that satisfies p. -/
def updateFirst (p : α → Bool) (f : α → α) : List α → List α
  | [] => []
  | x :: xs => if p x then f x :: xs else x :: updateFirst p f xs

/-- Look up a key. -/
def lookupKey (k : Nat) : List (Nat × α) → Option α
  | [] => none
  | (a, v) :: t => if a = k then some v else lookupKey k t

/-- Put a value under a key, keeping the keys in rising order. -/
def insertKey (k : Nat) (v : α) : List (Nat × α) → List (Nat × α)
  | [] => [(k, v)]
  | (a, w) :: t => if k < a then (k, v) :: (a, w) :: t else if a = k then (k, v) :: t else (a, w) :: insertKey k v t

/-- Remove a key. -/
def eraseKey (k : Nat) : List (Nat × α) → List (Nat × α)
  | [] => []
  | (a, w) :: t => if a = k then t else (a, w) :: eraseKey k t

/-- Insert a number into a rising list without repeats. -/
def insertNat (k : Nat) : List Nat → List Nat
  | [] => [k]
  | a :: t => if k < a then k :: a :: t else if a = k then a :: t else a :: insertNat k t

/-- The position of the least entry by a measure, the first among equals. -/
def minBy (f : α → Nat) : List α → Option α
  | [] => none
  | x :: xs =>
    match minBy f xs with
    | none => some x
    | some y => if f y < f x then some y else some x

end Sys2Proof.Machine
end

