-- ==== Sys2Proof/Syntax.lean ====
section
/-! DEFINITION. Syntax: operand types and the one inductive `Instr`, one constructor per row of the opcode table:
247 instructions (chapters 3 to 9) and the 91 steps of the part that are not instructions (95_what_each_step_holds). -/
namespace Sys2Proof

/-! ### Register names (03 R72) -/

/-- `s0` to `s31`. -/
abbrev SReg := Fin 32
/-- `v0` to `v31`. -/
abbrev VIdx := Fin 32
/-- `m0` to `m7`. -/
abbrev MIdx := Fin 8
/-- `a0` to `a3`. -/
abbrev AIdx := Fin 4
/-- `q0` to `q7`. -/
abbrev QIdx := Fin 8
/-- `tk0` to `tk15`. -/
abbrev TkIdx := Fin 16

/-! ### Small codes -/

/-- Element width codes (01 Table 1-5). -/
inductive EW | e8 | e16 | e32 | e64 | e4
  deriving DecidableEq, Repr
/-- Address spaces, the codes of MTR (01 Table 1-5). -/
inductive Space | loc | peer | glb | host
  deriving DecidableEq, Repr
/-- Scope codes (03 R83). -/
inductive Scope | hart | spire | cupola | die | package | system
  deriving DecidableEq, Repr
/-- Integer widths of func6[5:4] (03 R85). -/
inductive IWidth | w8 | w16 | w32 | w64
  deriving DecidableEq, Repr
/-- Scalar floating-point format: major 0x0C or 0x0D (03 R81). -/
inductive SFmt | fp32 | fp64
  deriving DecidableEq, Repr
/-- Vector floating-point formats, majors 0x22 to 0x25 (03 Table 3-5). -/
inductive FFmt | fp64 | fp32 | fp16 | bf16
  deriving DecidableEq, Repr
/-- FP8 formats, func6[5] of major 0x26. -/
inductive F8Fmt | e4m3 | e5m2
  deriving DecidableEq, Repr
/-- Complex formats, func6[5] of major 0x27. -/
inductive CFmt | cbf16 | cfp32
  deriving DecidableEq, Repr
/-- Format codes 0x00 to 0x1C (03 Table 3-11). -/
inductive Format
  | i8 | i16 | i32 | i64 | ui8 | ui16 | ui32 | ui64 | fp64 | fp32 | fp16 | bf16
  | e4m3 | e5m2 | e3m2 | e2m3 | e2m1 | mxe4m3 | mxe5m2 | mxe3m2 | mxe2m3 | mxe2m1 | mxint8
  | cbf16 | cfp32 | rxbf | xbf | m32 | m64
  deriving DecidableEq, Repr
/-- MX element formats, codes 0x11 to 0x16 (06 R160). -/
inductive MxFmt | e4m3 | e5m2 | e3m2 | e2m3 | e2m1 | int8
  deriving DecidableEq, Repr
/-- The plain side of an MX conversion (06 R160, R161). -/
inductive MxSide | fp32 | fp16 | bf16
  deriving DecidableEq, Repr
/-- Operations of `vatom` (03 R84). -/
inductive AtomOp | add | and | or | xor | min | max | minu | maxu | swap | cas | fmin | fmax
  deriving DecidableEq, Repr
/-- Groups of a reduction, func6[5:3] (06 R156). -/
inductive RedGroup | i8 | i16 | i32 | i64 | fp64 | fp32 | fp16 | bf16
  deriving DecidableEq, Repr
/-- Types of major 0x30 (07 R163). -/
inductive BflyT | cbf16 | cfp32 | xbf | rxbf
  deriving DecidableEq, Repr
/-- Residue widths, func6[5] of major 0x31. -/
inductive MWidth | m32 | m64
  deriving DecidableEq, Repr
/-- Selector of `mchk` (07 R182). -/
inductive MchkSel | p0 | p1 | pp
  deriving DecidableEq, Repr
/-- Formats of `twget` (07 R168). -/
inductive TwFmt | cbf16 | cfp32 | xbf | m32 | m64
  deriving DecidableEq, Repr
/-- Types of `opa` and `ops` (08 R185). -/
inductive OpaT | bf16 | fp16 | e4m3 | e5m2 | i8 | e2m1
  deriving DecidableEq, Repr
/-- Output formats of `aepi` (08 R191). -/
inductive AepiOut | i8 | i32 | fp32 | fp16 | bf16 | e4m3 | e5m2
  deriving DecidableEq, Repr
/-- Forms of `copy` (09 R212). -/
inductive CopyForm | linear | twoD | transpose
  deriving DecidableEq, Repr
/-- Kinds of `coll` (09 R213). -/
inductive CollKind | allReduce | reduce | broadcast | allGather | reduceScatter
  deriving DecidableEq, Repr
/-- Combining operators of `coll` (09 R213). -/
inductive CollOp | add | max | min | xor | exactAdd
  deriving DecidableEq, Repr

/-! ### Operands (03 R73) -/

/-- b operand of an instruction that takes vv, vs and vi. -/
inductive BOp3 | vv (v : VIdx) | vs (s : SReg) | vi (i : BitVec 5)
  deriving DecidableEq, Repr
/-- b operand of an instruction that takes vv and vs. -/
inductive BOp2 | vv (v : VIdx) | vs (s : SReg)
  deriving DecidableEq, Repr
/-- b operand of a slide: vs, or vi unsigned. -/
inductive BOpS | vs (s : SReg) | vi (i : BitVec 5)
  deriving DecidableEq, Repr
/-- b operand of a butterfly: vv, or vi unsigned. -/
inductive BOpB | vv (v : VIdx) | vi (h : BitVec 5)
  deriving DecidableEq, Repr

/-- The common payload word W1 of the engine commands (09 Table 9-5). -/
structure CmdW1 where
  dspace : Space
  sspace : Space
  sidx   : BitVec 13
  ston   : Bool
  tkon   : Bool
  tk     : TkIdx
  deriving DecidableEq, Repr

/-! ### Parameters of the steps that are not instructions -/

/-- A hart by context, team number (its acceptance number) and LHID (01 R14). -/
structure HartId where
  ctx  : Nat
  team : Nat
  lhid : Nat
  deriving DecidableEq, Repr
/-- A link granule (05 R134): a scratchpad word of a physical Spire, or a 64-byte device line (its number). -/
inductive Granule | spad (p w : Nat) | line (n : Nat)
  deriving DecidableEq, Repr
/-- A word of a protected array (11 Table 11-1, R256): those that the patrol scrubber reads, and those of a hart: an 8-byte word of a
vector register (its scale slice follows its data), of a tile, and of an entry of its strip buffer. -/
inductive ScrubSite | spad (p w : Nat) | port (p w : Nat) | sdm (ctx team lsid w : Nat) | dev (w : Nat)
  | vreg (h : HartId) (r : VIdx) (w : Nat) | tile (h : HartId) (r : AIdx) (w : Nat) | buf (h : HartId) (e w : Nat)
  deriving DecidableEq, Repr
/-- Arriving bytes of a `put.e` (13 R311): `cmd` is the local command, absent for a remote issuer; `port` the Etesian port that brought
them. -/
structure PutIn where
  ctx    : Nat
  tag    : Nat
  addr   : Word
  bytes  : List Byte
  poison : List Bool
  cmd    : Option Nat
  port   : Option Nat
  deriving DecidableEq, Repr
/-- Where the distributor reads a packet from (12 R277). -/
inductive PktSrc | slot (n : Nat) | cmd (k : Nat) | remote (ctx : Nat) (bytes : List Byte)
  deriving DecidableEq, Repr
/-- One power measurement (16 R369): package watts, and the Cupola sensors in degrees Celsius. -/
structure PowerSample where
  watts : Nat
  temps : List (Nat × Nat)
  deriving DecidableEq, Repr
/-- One CXL.mem access of the host (16 R372). -/
structure HostAccess where
  write  : Bool
  addr   : Nat
  bytes  : List Byte
  poison : Bool
  deriving DecidableEq, Repr
/-- What a flit from another package carries (16 R375, R377). -/
inductive FlitLoad
  | put (x : PutIn) | packet (ctx : Nat) (bytes : List Byte) | ack (seq : Nat) | ended (cmd code done : Nat) | other
  deriving DecidableEq, Repr
/-- A flit at a receiver: from a source die to a die, or from another package at a port, with the credits that its header returns (16
R374, R375, R377); or an idle at a port (16 R376). -/
inductive FlitIn
  | tramontane (src dst seq : Nat) | etesian (port pkg seq credit : Nat) (load : FlitLoad) | idle (port : Nat)
  deriving DecidableEq, Repr
/-- The measures of one day for one resource (16 R380). -/
inductive WearReport
  | spire (p daysPerStep : Nat) | stack (s eol : Nat) | port (n eol eye fec : Nat)
  deriving DecidableEq, Repr
/-- Privilege levels, and the host (01 R15). -/
inductive Level | team | runtime | firmware | host
  deriving DecidableEq, Repr
/-- Registers whose write has no step of its own (00 R7; Tables 11-6, 12-1, 12-4, 13-4, 14-9, 15-4, 16-5). -/
inductive MgrReg
  | ctxdesc (p : Nat) | splog (p : Nat) | invva (die : Nat) | quantum | ageint | csel | cblog | cbloglen
  | pktbind (n : Nat) | slotWord (n w : Nat) | ovfbase | ovflen | tmarg | tmimg | tmlen | tmdesc | cxsave | cxslots
  | fimg (c : Nat) | fbank (c : Nat) | fstat (c : Nat) | almstat | nonce (mgr : Bool) (w : Nat)
  | hcr (h : HartId) (num : Nat) | dctl | spd (p : Nat) | retcmd | pwrlim | readOnly
  deriving DecidableEq, Repr
/-- One write of a register by an agent. -/
structure RegWrite where
  reg : MgrReg
  who : Level
  val : Word
  deriving DecidableEq, Repr

/-- One constructor per row of the opcode table. The docstring of a constructor is its row: rule and summary. -/
inductive Instr
  /-- ADD (R100): Scalar add: s_d := wrap(s_a + s_b, 64). -/
  | add (d : SReg) (a : SReg) (b : SReg)
  /-- SUB (R100): Scalar subtract: s_d := wrap(s_a - s_b, 64). -/
  | sub (d : SReg) (a : SReg) (b : SReg)
  /-- AND (R100): Scalar bitwise and. -/
  | and (d : SReg) (a : SReg) (b : SReg)
  /-- OR (R100): Scalar bitwise or. -/
  | or (d : SReg) (a : SReg) (b : SReg)
  /-- XOR (R100): Scalar bitwise exclusive or. -/
  | xor (d : SReg) (a : SReg) (b : SReg)
  /-- SLL (R100): Scalar shift left by s_b[5:0]. -/
  | sll (d : SReg) (a : SReg) (b : SReg)
  /-- SRL (R100): Scalar logical shift right by s_b[5:0]. -/
  | srl (d : SReg) (a : SReg) (b : SReg)
  /-- SRA (R100): Scalar arithmetic shift right by s_b[5:0]. -/
  | sra (d : SReg) (a : SReg) (b : SReg)
  /-- SLT (R100): Set s_d to 1 when s_a < s_b signed. -/
  | slt (d : SReg) (a : SReg) (b : SReg)
  /-- SLTU (R100): Set s_d to 1 when s_a < s_b unsigned. -/
  | sltu (d : SReg) (a : SReg) (b : SReg)
  /-- SEQ (R100): Set s_d to 1 when s_a = s_b. -/
  | seq (d : SReg) (a : SReg) (b : SReg)
  /-- MIN (R100): Signed minimum of two scalars. -/
  | min (d : SReg) (a : SReg) (b : SReg)
  /-- MAX (R100): Signed maximum of two scalars. -/
  | max (d : SReg) (a : SReg) (b : SReg)
  /-- MINU (R100): Unsigned minimum of two scalars. -/
  | minu (d : SReg) (a : SReg) (b : SReg)
  /-- MAXU (R100): Unsigned maximum of two scalars. -/
  | maxu (d : SReg) (a : SReg) (b : SReg)
  /-- CLZ (R100): Count leading zero bits of s_a. -/
  | clz (d : SReg) (a : SReg)
  /-- CTZ (R100): Count trailing zero bits of s_a. -/
  | ctz (d : SReg) (a : SReg)
  /-- POPC (R100): Count one bits of s_a. -/
  | popc (d : SReg) (a : SReg)
  /-- MUL (R100): Low 64 bits of the product. -/
  | mul (d : SReg) (a : SReg) (b : SReg)
  /-- MULH (R100): High 64 bits of the signed product. -/
  | mulh (d : SReg) (a : SReg) (b : SReg)
  /-- MULHU (R100): High 64 bits of the unsigned product. -/
  | mulhu (d : SReg) (a : SReg) (b : SReg)
  /-- MULHSU (R100): High 64 bits of the signed-by-unsigned product. -/
  | mulhsu (d : SReg) (a : SReg) (b : SReg)
  /-- DIV (R100): Signed quotient under R42. -/
  | div (d : SReg) (a : SReg) (b : SReg)
  /-- DIVU (R100): Unsigned quotient under R42. -/
  | divu (d : SReg) (a : SReg) (b : SReg)
  /-- REM (R100): Signed remainder under R42. -/
  | rem (d : SReg) (a : SReg) (b : SReg)
  /-- REMU (R100): Unsigned remainder under R42. -/
  | remu (d : SReg) (a : SReg) (b : SReg)
  /-- ADDI (R101): Add a sign-extended 16-bit immediate. -/
  | addi (d : SReg) (a : SReg) (imm : BitVec 16)
  /-- SLLI (R101): Shift left by an immediate of 0 to 63. -/
  | slli (d : SReg) (a : SReg) (sh : BitVec 6)
  /-- SRLI (R101): Logical shift right by an immediate. -/
  | srli (d : SReg) (a : SReg) (sh : BitVec 6)
  /-- SRAI (R101): Arithmetic shift right by an immediate. -/
  | srai (d : SReg) (a : SReg) (sh : BitVec 6)
  /-- ANDI (R101): And with a zero-extended immediate. -/
  | andi (d : SReg) (a : SReg) (imm : BitVec 16)
  /-- ORI (R101): Or with a zero-extended immediate. -/
  | ori (d : SReg) (a : SReg) (imm : BitVec 16)
  /-- LUI (R101): Load sign-extended immediate shifted left by 16. -/
  | lui (d : SReg) (imm : BitVec 16)
  /-- LDB (R102): Scalar load of one byte, sign-extended, from LOC or GLB. -/
  | ldb (glb : Bool) (d : SReg) (a : SReg) (off : BitVec 13)
  /-- LDH (R102): Scalar load of two bytes, sign-extended. -/
  | ldh (glb : Bool) (d : SReg) (a : SReg) (off : BitVec 13)
  /-- LDW (R102): Scalar load of four bytes, sign-extended. -/
  | ldw (glb : Bool) (d : SReg) (a : SReg) (off : BitVec 13)
  /-- LDD (R102): Scalar load of eight bytes. -/
  | ldd (glb : Bool) (d : SReg) (a : SReg) (off : BitVec 13)
  /-- LDBU (R102): Scalar load of one byte, zero-extended. -/
  | ldbu (glb : Bool) (d : SReg) (a : SReg) (off : BitVec 13)
  /-- LDHU (R102): Scalar load of two bytes, zero-extended. -/
  | ldhu (glb : Bool) (d : SReg) (a : SReg) (off : BitVec 13)
  /-- LDWU (R102): Scalar load of four bytes, zero-extended. -/
  | ldwu (glb : Bool) (d : SReg) (a : SReg) (off : BitVec 13)
  /-- STB (R102): Scalar store of one byte into the strip buffer. -/
  | stb (glb : Bool) (d : SReg) (a : SReg) (off : BitVec 13)
  /-- STH (R102): Scalar store of two bytes into the strip buffer. -/
  | sth (glb : Bool) (d : SReg) (a : SReg) (off : BitVec 13)
  /-- STW (R102): Scalar store of four bytes into the strip buffer. -/
  | stw (glb : Bool) (d : SReg) (a : SReg) (off : BitVec 13)
  /-- STD (R102): Scalar store of eight bytes into the strip buffer. -/
  | std (glb : Bool) (d : SReg) (a : SReg) (off : BitVec 13)
  /-- FADD (R106): Scalar FP32 or FP64 addition. -/
  | fadd (f : SFmt) (d : SReg) (a : SReg) (b : SReg)
  /-- FSUB (R106): Scalar FP subtraction. -/
  | fsub (f : SFmt) (d : SReg) (a : SReg) (b : SReg)
  /-- FMUL (R106): Scalar FP multiplication. -/
  | fmul (f : SFmt) (d : SReg) (a : SReg) (b : SReg)
  /-- FDIV (R106): Scalar FP division. -/
  | fdiv (f : SFmt) (d : SReg) (a : SReg) (b : SReg)
  /-- FMADD (R106): Scalar fused multiply-add with s_d as addend. -/
  | fmadd (f : SFmt) (d : SReg) (a : SReg) (b : SReg)
  /-- FMIN (R106): Scalar minimumNumber. -/
  | fmin (f : SFmt) (d : SReg) (a : SReg) (b : SReg)
  /-- FMAX (R106): Scalar maximumNumber. -/
  | fmax (f : SFmt) (d : SReg) (a : SReg) (b : SReg)
  /-- FSQRT (R106): Scalar FP square root. -/
  | fsqrt (f : SFmt) (d : SReg) (a : SReg)
  /-- FNEG (R106): Invert the sign bit. -/
  | fneg (f : SFmt) (d : SReg) (a : SReg)
  /-- FABS (R106): Clear the sign bit. -/
  | fabs (f : SFmt) (d : SReg) (a : SReg)
  /-- FSGNJ (R106): Take the sign of s_b. -/
  | fsgnj (f : SFmt) (d : SReg) (a : SReg) (b : SReg)
  /-- FEQ (R106): Scalar FP equality compare. -/
  | feq (f : SFmt) (d : SReg) (a : SReg) (b : SReg)
  /-- FLT (R106): Scalar FP less-than compare. -/
  | flt (f : SFmt) (d : SReg) (a : SReg) (b : SReg)
  /-- FLE (R106): Scalar FP less-or-equal compare. -/
  | fle (f : SFmt) (d : SReg) (a : SReg) (b : SReg)
  /-- FCVT_FP64_FP32 (R107): Convert FP32 to FP64. -/
  | fcvtFp64Fp32 (d : SReg) (a : SReg)
  /-- FCVT_FP32_FP64 (R107): Convert FP64 to FP32. -/
  | fcvtFp32Fp64 (d : SReg) (a : SReg)
  /-- FCVT_FP32_I64 (R107): Convert a signed 64-bit integer to FP32. -/
  | fcvtFp32I64 (d : SReg) (a : SReg)
  /-- FCVT_FP64_I64 (R107): Convert a signed 64-bit integer to FP64. -/
  | fcvtFp64I64 (d : SReg) (a : SReg)
  /-- FCVT_FP32_UI64 (R107): Convert an unsigned 64-bit integer to FP32. -/
  | fcvtFp32Ui64 (d : SReg) (a : SReg)
  /-- FCVT_FP64_UI64 (R107): Convert an unsigned 64-bit integer to FP64. -/
  | fcvtFp64Ui64 (d : SReg) (a : SReg)
  /-- FCVT_I64_FP32 (R107): Convert FP32 to a signed 64-bit integer. -/
  | fcvtI64Fp32 (d : SReg) (a : SReg)
  /-- FCVT_I64_FP64 (R107): Convert FP64 to a signed 64-bit integer. -/
  | fcvtI64Fp64 (d : SReg) (a : SReg)
  /-- FCVT_UI64_FP32 (R107): Convert FP32 to an unsigned 64-bit integer. -/
  | fcvtUi64Fp32 (d : SReg) (a : SReg)
  /-- FCVT_UI64_FP64 (R107): Convert FP64 to an unsigned 64-bit integer. -/
  | fcvtUi64Fp64 (d : SReg) (a : SReg)
  /-- FCVT_FP16_FP32 (R107): Convert FP32 to FP16. -/
  | fcvtFp16Fp32 (d : SReg) (a : SReg)
  /-- FCVT_FP32_FP16 (R107): Convert FP16 to FP32. -/
  | fcvtFp32Fp16 (d : SReg) (a : SReg)
  /-- FCVT_BF16_FP32 (R107): Convert FP32 to BF16, stochastic under RMODE 4. -/
  | fcvtBf16Fp32 (d : SReg) (a : SReg)
  /-- FCVT_FP32_BF16 (R107): Convert BF16 to FP32. -/
  | fcvtFp32Bf16 (d : SReg) (a : SReg)
  /-- BEQ (R108): Branch when s_a = s_b. -/
  | beq (a : SReg) (b : SReg) (off : BitVec 16)
  /-- BNE (R108): Branch when s_a differs from s_b. -/
  | bne (a : SReg) (b : SReg) (off : BitVec 16)
  /-- BMANY (R111): Branch when any mask bit governing elements below VL is set. -/
  | bmany (m : MIdx) (off : BitVec 16)
  /-- BMNONE (R111): Branch when no mask bit governing elements below VL is set. -/
  | bmnone (m : MIdx) (off : BitVec 16)
  /-- JALR (R109): Jump to s_b plus offset and link in s31. -/
  | jalr (b : SReg) (off : BitVec 16)
  /-- JR (R109): Jump to s_b plus offset without link. -/
  | jr (b : SReg) (off : BitVec 16)
  /-- JAL (R108): PC-relative jump writing PC + 4 to s31. -/
  | jal (off : BitVec 26)
  /-- HCRR (R112): Read a hart control register into s_d. -/
  | hcrr (d : SReg) (num : BitVec 16)
  /-- HCRW (R112): Write s_a to a hart control register. -/
  | hcrw (a : SReg) (num : BitVec 16)
  /-- TRAP (R224): Commit the strip and raise the trap-instruction cause. -/
  | trap (code : BitVec 16)
  /-- BRK (R224): Commit the strip and raise the breakpoint cause. -/
  | brk (code : BitVec 16)
  /-- FENCE (R223): Strip-terminal fence at a scope. -/
  | fence (sc : Scope)
  /-- BAR_ARRIVE (R219): Record the hart's arrival at a barrier episode. -/
  | barArrive (id : BitVec 6)
  /-- BAR_WAIT (R220): Wait until the episode of the latest arrival completes. -/
  | barWait (id : BitVec 6)
  /-- AWAIT (R216): Park until every selected token counter is at least 1. -/
  | await (a : SReg)
  /-- TKWAIT (R217): Wait within the strip until a token counter covers the count. -/
  | tkwait (n : TkIdx) (a : SReg)
  /-- FARM_INIT (R221): Buffer a command starting a new farm epoch at commit. -/
  | farmInit (a : SReg) (b : SReg)
  /-- FARM_NEXT (R222): Request a farm claim from the distributor. -/
  | farmNext (d : SReg)
  /-- SETVL (R116): Commit and open a strip with new VL and EW. -/
  | setvl (d : SReg) (a : SReg) (w : EW)
  /-- SETVL_ACQ (R118): setvl with acquire ordering at a scope. -/
  | setvlAcq (d : SReg) (a : SReg) (w : EW) (sc : Scope)
  /-- STRIP (R116): Commit and open a strip keeping VL and EW. -/
  | strip (d : SReg)
  /-- STRIP_REL (R117): strip with release ordering at a scope. -/
  | stripRel (d : SReg) (sc : Scope)
  /-- VLD (R125): Unit-stride vector load. -/
  | vld (d : VIdx) (a : SReg) (m : MIdx)
  /-- VLDS (R125): Strided vector load. -/
  | vlds (d : VIdx) (a : SReg) (st : SReg) (m : MIdx)
  /-- VLDX (R125): Indexed vector load. -/
  | vldx (d : VIdx) (a : SReg) (ix : VIdx) (m : MIdx)
  /-- VLDFF (R127): First-fault unit-stride load that shortens VL. -/
  | vldff (d : VIdx) (a : SReg) (m : MIdx)
  /-- VLDSC (R130): Sequentially consistent indexed load with tickets. -/
  | vldsc (d : VIdx) (a : SReg) (ix : VIdx) (m : MIdx)
  /-- VGL (R134): Gather-linked load replacing the link set. -/
  | vgl (d : VIdx) (a : SReg) (ix : VIdx) (m : MIdx)
  /-- VTAKE (R139): Presence load that empties full words. -/
  | vtake (d : VIdx) (a : SReg) (ix : VIdx) (m : MIdx)
  /-- VREAD (R139): Presence load of full words leaving them full. -/
  | vread (d : VIdx) (a : SReg) (ix : VIdx) (m : MIdx)
  /-- VST (R126): Unit-stride vector store into the strip buffer. -/
  | vst (d : VIdx) (a : SReg) (m : MIdx)
  /-- VSTS (R126): Strided vector store. -/
  | vsts (d : VIdx) (a : SReg) (st : SReg) (m : MIdx)
  /-- VSTX (R126): Indexed vector store. -/
  | vstx (d : VIdx) (a : SReg) (ix : VIdx) (m : MIdx)
  /-- VSTSC (R130): Sequentially consistent indexed store. -/
  | vstsc (d : VIdx) (a : SReg) (ix : VIdx) (m : MIdx)
  /-- VSC (R135): Scatter-conditional store with success bits. -/
  | vsc (d : VIdx) (a : SReg) (ix : VIdx) (m : MIdx)
  /-- VPUT (R139): Presence store that fills empty words. -/
  | vput (d : VIdx) (a : SReg) (ix : VIdx) (m : MIdx)
  /-- VATOM (R132): Indexed atomic read-modify-write, operation from sub. -/
  | vatom (op : AtomOp) (d : VIdx) (a : SReg) (ix : VIdx) (m : MIdx)
  /-- VADD_I (R148): Vector integer add. -/
  | vaddI (w : IWidth) (d : VIdx) (a : VIdx) (b : BOp3) (m : MIdx)
  /-- VSUB_I (R148): Vector integer subtract. -/
  | vsubI (w : IWidth) (d : VIdx) (a : VIdx) (b : BOp3) (m : MIdx)
  /-- VMUL_I (R148): Vector integer multiply, low half. -/
  | vmulI (w : IWidth) (d : VIdx) (a : VIdx) (b : BOp3) (m : MIdx)
  /-- VMULH (R148): Vector signed multiply, high half. -/
  | vmulh (w : IWidth) (d : VIdx) (a : VIdx) (b : BOp3) (m : MIdx)
  /-- VMULHU (R148): Vector unsigned multiply, high half. -/
  | vmulhu (w : IWidth) (d : VIdx) (a : VIdx) (b : BOp3) (m : MIdx)
  /-- VMIN_I (R148): Vector signed minimum. -/
  | vminI (w : IWidth) (d : VIdx) (a : VIdx) (b : BOp3) (m : MIdx)
  /-- VMAX_I (R148): Vector signed maximum. -/
  | vmaxI (w : IWidth) (d : VIdx) (a : VIdx) (b : BOp3) (m : MIdx)
  /-- VMINU (R148): Vector unsigned minimum. -/
  | vminu (w : IWidth) (d : VIdx) (a : VIdx) (b : BOp3) (m : MIdx)
  /-- VMAXU (R148): Vector unsigned maximum. -/
  | vmaxu (w : IWidth) (d : VIdx) (a : VIdx) (b : BOp3) (m : MIdx)
  /-- VAND (R148): Vector bitwise and. -/
  | vand (w : IWidth) (d : VIdx) (a : VIdx) (b : BOp3) (m : MIdx)
  /-- VOR (R148): Vector bitwise or. -/
  | vor (w : IWidth) (d : VIdx) (a : VIdx) (b : BOp3) (m : MIdx)
  /-- VXOR (R148): Vector bitwise exclusive or. -/
  | vxor (w : IWidth) (d : VIdx) (a : VIdx) (b : BOp3) (m : MIdx)
  /-- VSLL (R148): Vector shift left. -/
  | vsll (w : IWidth) (d : VIdx) (a : VIdx) (b : BOp3) (m : MIdx)
  /-- VSRL (R148): Vector logical shift right. -/
  | vsrl (w : IWidth) (d : VIdx) (a : VIdx) (b : BOp3) (m : MIdx)
  /-- VSRA (R148): Vector arithmetic shift right. -/
  | vsra (w : IWidth) (d : VIdx) (a : VIdx) (b : BOp3) (m : MIdx)
  /-- VMADD (R148): Vector integer multiply-add, tied. -/
  | vmadd (w : IWidth) (d : VIdx) (a : VIdx) (b : VIdx) (m : MIdx)
  /-- VSADD (R148): Vector signed saturating add. -/
  | vsadd (w : IWidth) (d : VIdx) (a : VIdx) (b : BOp3) (m : MIdx)
  /-- VSADDU (R148): Vector unsigned saturating add. -/
  | vsaddu (w : IWidth) (d : VIdx) (a : VIdx) (b : BOp3) (m : MIdx)
  /-- VSSUB (R148): Vector signed saturating subtract. -/
  | vssub (w : IWidth) (d : VIdx) (a : VIdx) (b : BOp3) (m : MIdx)
  /-- VSSUBU (R148): Vector unsigned saturating subtract. -/
  | vssubu (w : IWidth) (d : VIdx) (a : VIdx) (b : BOp3) (m : MIdx)
  /-- VDIV_I (R148): Vector signed divide. -/
  | vdivI (w : IWidth) (d : VIdx) (a : VIdx) (b : BOp3) (m : MIdx)
  /-- VDIVU (R148): Vector unsigned divide. -/
  | vdivu (w : IWidth) (d : VIdx) (a : VIdx) (b : BOp3) (m : MIdx)
  /-- VREM (R148): Vector signed remainder. -/
  | vrem (w : IWidth) (d : VIdx) (a : VIdx) (b : BOp3) (m : MIdx)
  /-- VREMU (R148): Vector unsigned remainder. -/
  | vremu (w : IWidth) (d : VIdx) (a : VIdx) (b : BOp3) (m : MIdx)
  /-- VABS_I (R148): Vector integer absolute value. -/
  | vabsI (w : IWidth) (d : VIdx) (a : VIdx) (m : MIdx)
  /-- VCEQ_I (R149): Integer equality compare into a mask. -/
  | vceqI (w : IWidth) (d : MIdx) (a : VIdx) (b : BOp3) (m : MIdx)
  /-- VCNE_I (R149): Integer inequality compare into a mask. -/
  | vcneI (w : IWidth) (d : MIdx) (a : VIdx) (b : BOp3) (m : MIdx)
  /-- VCLT_I (R149): Signed less-than compare into a mask. -/
  | vcltI (w : IWidth) (d : MIdx) (a : VIdx) (b : BOp3) (m : MIdx)
  /-- VCLTU (R149): Unsigned less-than compare into a mask. -/
  | vcltu (w : IWidth) (d : MIdx) (a : VIdx) (b : BOp3) (m : MIdx)
  /-- VCLE_I (R149): Signed less-or-equal compare into a mask. -/
  | vcleI (w : IWidth) (d : MIdx) (a : VIdx) (b : BOp3) (m : MIdx)
  /-- VCLEU (R149): Unsigned less-or-equal compare into a mask. -/
  | vcleu (w : IWidth) (d : MIdx) (a : VIdx) (b : BOp3) (m : MIdx)
  /-- VADD_F (R150): Vector FP64/FP32/FP16/BF16 add (majors 0x22 to 0x25). -/
  | vaddF (k : FFmt) (d : VIdx) (a : VIdx) (b : BOp2) (m : MIdx)
  /-- VSUB_F (R150): Vector FP subtract. -/
  | vsubF (k : FFmt) (d : VIdx) (a : VIdx) (b : BOp2) (m : MIdx)
  /-- VMUL_F (R150): Vector FP multiply. -/
  | vmulF (k : FFmt) (d : VIdx) (a : VIdx) (b : BOp2) (m : MIdx)
  /-- VDIV_F (R150): Vector FP divide. -/
  | vdivF (k : FFmt) (d : VIdx) (a : VIdx) (b : BOp2) (m : MIdx)
  /-- VFMA_F (R150): Vector FP fused multiply-add, tied. -/
  | vfmaF (k : FFmt) (d : VIdx) (a : VIdx) (b : VIdx) (m : MIdx)
  /-- VFMS (R150): Vector FP fused multiply-subtract, tied. -/
  | vfms (k : FFmt) (d : VIdx) (a : VIdx) (b : VIdx) (m : MIdx)
  /-- VFNMA (R150): Vector FP negated fused multiply-add, tied. -/
  | vfnma (k : FFmt) (d : VIdx) (a : VIdx) (b : VIdx) (m : MIdx)
  /-- VMIN_F (R150): Vector FP minimumNumber. -/
  | vminF (k : FFmt) (d : VIdx) (a : VIdx) (b : BOp2) (m : MIdx)
  /-- VMAX_F (R150): Vector FP maximumNumber. -/
  | vmaxF (k : FFmt) (d : VIdx) (a : VIdx) (b : BOp2) (m : MIdx)
  /-- VSQRT (R150): Vector FP square root. -/
  | vsqrt (k : FFmt) (d : VIdx) (a : VIdx) (m : MIdx)
  /-- VABS_F (R150): Vector FP absolute value. -/
  | vabsF (k : FFmt) (d : VIdx) (a : VIdx) (m : MIdx)
  /-- VNEG (R150): Vector FP negate. -/
  | vneg (k : FFmt) (d : VIdx) (a : VIdx) (m : MIdx)
  /-- VSGNJ (R150): Vector FP sign injection. -/
  | vsgnj (k : FFmt) (d : VIdx) (a : VIdx) (b : BOp2) (m : MIdx)
  /-- VCEQ_F (R151): Vector FP equality compare into a mask. -/
  | vceqF (k : FFmt) (d : MIdx) (a : VIdx) (b : BOp2) (m : MIdx)
  /-- VCNE_F (R151): Vector FP inequality compare into a mask. -/
  | vcneF (k : FFmt) (d : MIdx) (a : VIdx) (b : BOp2) (m : MIdx)
  /-- VCLT_F (R151): Vector FP less-than compare into a mask. -/
  | vcltF (k : FFmt) (d : MIdx) (a : VIdx) (b : BOp2) (m : MIdx)
  /-- VCLE_F (R151): Vector FP less-or-equal compare into a mask. -/
  | vcleF (k : FFmt) (d : MIdx) (a : VIdx) (b : BOp2) (m : MIdx)
  /-- VCUN (R151): Vector FP unordered compare into a mask. -/
  | vcun (k : FFmt) (d : MIdx) (a : VIdx) (b : BOp2) (m : MIdx)
  /-- VADD_F8 (R150): Vector FP8 add. -/
  | vaddF8 (t : F8Fmt) (d : VIdx) (a : VIdx) (b : BOp2) (m : MIdx)
  /-- VSUB_F8 (R150): Vector FP8 subtract. -/
  | vsubF8 (t : F8Fmt) (d : VIdx) (a : VIdx) (b : BOp2) (m : MIdx)
  /-- VMUL_F8 (R150): Vector FP8 multiply. -/
  | vmulF8 (t : F8Fmt) (d : VIdx) (a : VIdx) (b : BOp2) (m : MIdx)
  /-- VFMA_F8 (R150): Vector FP8 fused multiply-add, tied. -/
  | vfmaF8 (t : F8Fmt) (d : VIdx) (a : VIdx) (b : VIdx) (m : MIdx)
  /-- VMIN_F8 (R150): Vector FP8 minimum. -/
  | vminF8 (t : F8Fmt) (d : VIdx) (a : VIdx) (b : BOp2) (m : MIdx)
  /-- VMAX_F8 (R150): Vector FP8 maximum. -/
  | vmaxF8 (t : F8Fmt) (d : VIdx) (a : VIdx) (b : BOp2) (m : MIdx)
  /-- VADD_C (R152): Complex add. -/
  | vaddC (t : CFmt) (d : VIdx) (a : VIdx) (b : BOp2) (m : MIdx)
  /-- VSUB_C (R152): Complex subtract. -/
  | vsubC (t : CFmt) (d : VIdx) (a : VIdx) (b : BOp2) (m : MIdx)
  /-- VMUL_C (R152): Complex multiply. -/
  | vmulC (t : CFmt) (d : VIdx) (a : VIdx) (b : BOp2) (m : MIdx)
  /-- VFMA_C (R152): Complex fused multiply-add, tied. -/
  | vfmaC (t : CFmt) (d : VIdx) (a : VIdx) (b : VIdx) (m : MIdx)
  /-- VMULC (R152): Complex multiply by the conjugate. -/
  | vmulc (t : CFmt) (d : VIdx) (a : VIdx) (b : BOp2) (m : MIdx)
  /-- VCONJ (R152): Complex conjugate. -/
  | vconj (t : CFmt) (d : VIdx) (a : VIdx) (m : MIdx)
  /-- VMULI (R152): Complex multiply by i. -/
  | vmuli (t : CFmt) (d : VIdx) (a : VIdx) (m : MIdx)
  /-- MAND (R153): Mask and. -/
  | mand (d : MIdx) (a : MIdx) (b : MIdx) (m : MIdx)
  /-- MOR (R153): Mask or. -/
  | mor (d : MIdx) (a : MIdx) (b : MIdx) (m : MIdx)
  /-- MXOR (R153): Mask exclusive or. -/
  | mxor (d : MIdx) (a : MIdx) (b : MIdx) (m : MIdx)
  /-- MANDN (R153): Mask and-not. -/
  | mandn (d : MIdx) (a : MIdx) (b : MIdx) (m : MIdx)
  /-- MNOT (R153): Mask complement. -/
  | mnot (d : MIdx) (a : MIdx) (m : MIdx)
  /-- VMFIRST (R153): Set mask bits up to and including the first true element. -/
  | vmfirst (d : MIdx) (a : MIdx) (m : MIdx)
  /-- VPOPC (R153): Count active true mask bits into a scalar. -/
  | vpopc (d : SReg) (a : MIdx) (m : MIdx)
  /-- VIOTA (R153): Exclusive prefix count of mask bits into a vector. -/
  | viota (d : VIdx) (a : MIdx) (m : MIdx)
  /-- MSET (R153): Set active mask bits. -/
  | mset (d : MIdx) (m : MIdx)
  /-- MCLR (R153): Clear active mask bits. -/
  | mclr (d : MIdx) (m : MIdx)
  /-- VMERGE (R154): Select elements of va or vb by mask. -/
  | vmerge (d : VIdx) (a : VIdx) (b : VIdx) (m : MIdx)
  /-- VSLIDEUP (R155): Slide up inserting zeros. -/
  | vslideup (d : VIdx) (a : VIdx) (b : BOpS) (m : MIdx)
  /-- VSLIDEDOWN (R155): Slide down inserting zeros. -/
  | vslidedown (d : VIdx) (a : VIdx) (b : BOpS) (m : MIdx)
  /-- VSLIDEUPK (R155): Slide up keeping vd at inserted positions. -/
  | vslideupk (d : VIdx) (a : VIdx) (b : BOpS) (m : MIdx)
  /-- VSLIDEDOWNK (R155): Slide down keeping vd at inserted positions. -/
  | vslidedownk (d : VIdx) (a : VIdx) (b : BOpS) (m : MIdx)
  /-- VPERM (R154): Permute va by the indices in vb. -/
  | vperm (d : VIdx) (a : VIdx) (b : VIdx) (m : MIdx)
  /-- VMV (R154): Vector move. -/
  | vmv (d : VIdx) (a : VIdx) (m : MIdx)
  /-- VMV_XS (R154): Broadcast a scalar into vector elements. -/
  | vmvXs (d : VIdx) (b : SReg) (m : MIdx)
  /-- VMV_SX (R154): Move element 0 into a scalar. -/
  | vmvSx (d : SReg) (a : VIdx)
  /-- VEXT (R154): Extract the element indexed by a scalar. -/
  | vext (d : SReg) (a : VIdx) (b : SReg)
  /-- VREDSUM (R156): Tree-ordered sum reduction, integer or FP group. -/
  | vredsum (g : RedGroup) (d : VIdx) (a : VIdx) (m : MIdx)
  /-- VREDMIN (R156): Minimum reduction. -/
  | vredmin (g : RedGroup) (d : VIdx) (a : VIdx) (m : MIdx)
  /-- VREDMAX (R156): Maximum reduction. -/
  | vredmax (g : RedGroup) (d : VIdx) (a : VIdx) (m : MIdx)
  /-- VREDMINU (R156): Unsigned minimum reduction. -/
  | vredminu (w : IWidth) (d : VIdx) (a : VIdx) (m : MIdx)
  /-- VREDMAXU (R156): Unsigned maximum reduction. -/
  | vredmaxu (w : IWidth) (d : VIdx) (a : VIdx) (m : MIdx)
  /-- VREDAND (R156): Bitwise and reduction. -/
  | vredand (w : IWidth) (d : VIdx) (a : VIdx) (m : MIdx)
  /-- VREDOR (R156): Bitwise or reduction. -/
  | vredor (w : IWidth) (d : VIdx) (a : VIdx) (m : MIdx)
  /-- VREDXOR (R156): Bitwise exclusive-or reduction. -/
  | vredxor (w : IWidth) (d : VIdx) (a : VIdx) (m : MIdx)
  /-- VCVT (R157): Element format conversion. -/
  | vcvt (dst : Format) (src : Format) (md : Bool) (d : VIdx) (a : VIdx) (m : MIdx)
  /-- VMXQ (R160): Quantise to an MX format. -/
  | vmxq (mx : MxFmt) (src : MxSide) (sr : Bool) (d : VIdx) (a : VIdx) (m : MIdx)
  /-- VMXD (R161): Dequantise from an MX format. -/
  | vmxd (dst : MxSide) (mx : MxFmt) (d : VIdx) (a : VIdx) (m : MIdx)
  /-- BFLY2 (R169): Radix-2 butterfly stage in CBF16, CFP32 or XBF. -/
  | bfly2 (t : BflyT) (d : VIdx) (a : VIdx) (b : BOpB) (m : MIdx)
  /-- BFLY4 (R169): Radix-4 butterfly stage. -/
  | bfly4 (t : BflyT) (d : VIdx) (a : VIdx) (b : BOpB) (m : MIdx)
  /-- BFLYG (R174): Per-pair 2x2 block butterfly with coefficients. -/
  | bflyg (t : BflyT) (d : VIdx) (a : VIdx) (b : VIdx) (m : MIdx)
  /-- MMUL (R179): Modular multiply. -/
  | mmul (w : MWidth) (p1 : Bool) (d : VIdx) (a : VIdx) (b : BOp2) (m : MIdx)
  /-- MADD (R179): Modular add. -/
  | madd (w : MWidth) (p1 : Bool) (d : VIdx) (a : VIdx) (b : BOp2) (m : MIdx)
  /-- MSUB (R179): Modular subtract. -/
  | msub (w : MWidth) (p1 : Bool) (d : VIdx) (a : VIdx) (b : BOp2) (m : MIdx)
  /-- MRED (R179): Reduce signed integers into the modular domain. -/
  | mred (w : MWidth) (p1 : Bool) (d : VIdx) (a : VIdx) (m : MIdx)
  /-- MLIFT (R180): Lift residues to the signed range checking BND. -/
  | mlift (w : MWidth) (p1 : Bool) (d : VIdx) (a : VIdx) (m : MIdx)
  /-- BFLY2_M (R173): Modular radix-2 butterfly. -/
  | bfly2M (w : MWidth) (p1 : Bool) (d : VIdx) (a : VIdx) (b : BOpB) (m : MIdx)
  /-- BFLY4_M (R173): Modular radix-4 butterfly. -/
  | bfly4M (w : MWidth) (p1 : Bool) (d : VIdx) (a : VIdx) (b : BOpB) (m : MIdx)
  /-- MCRT (R181): Two-prime CRT reconstruction. -/
  | mcrt (d : VIdx) (a : VIdx) (b : VIdx) (m : MIdx)
  /-- MCHK (R182): Static convolution bound check setting flags. -/
  | mchk (c : MchkSel) (d : SReg) (a : SReg) (b : SReg)
  /-- TWSET (R166): Write TWG in transform-queue order. -/
  | twset (b : SReg)
  /-- TWGET (R168): Write twiddles for consecutive group indices. -/
  | twget (t : TwFmt) (d : VIdx) (m : MIdx)
  /-- VDREV (R175): Mixed-radix digit-reversal permutation. -/
  | vdrev (d : VIdx) (a : VIdx) (imm : BitVec 5) (m : MIdx)
  /-- VTRN (R176): Transpose elements as a power-of-two matrix. -/
  | vtrn (d : VIdx) (a : VIdx) (imm : BitVec 5) (m : MIdx)
  /-- XBFN (R178): Align XBF blocks to one exponent. -/
  | xbfn (cplx : Bool) (d : VIdx) (a : VIdx) (m : MIdx)
  /-- OPA (R187): Outer-product accumulate into a tile. -/
  | opa (t : OpaT) (d : AIdx) (a : VIdx) (b : VIdx) (m : MIdx)
  /-- OPS (R187): Outer-product subtract into a tile. -/
  | ops (t : OpaT) (d : AIdx) (a : VIdx) (b : VIdx) (m : MIdx)
  /-- AZERO (R189): Zero a tile. -/
  | azero (d : AIdx)
  /-- ALD (R190): Load a whole tile from the scratchpad. -/
  | ald (d : AIdx) (a : SReg)
  /-- AST (R190): Store a whole tile into the strip buffer. -/
  | ast (d : AIdx) (a : SReg)
  /-- AROW (R189): Read a tile row into a vector. -/
  | arow (d : VIdx) (a : AIdx) (b : SReg) (m : MIdx)
  /-- ACOL (R189): Read a tile column into a vector. -/
  | acol (d : VIdx) (a : AIdx) (b : SReg) (m : MIdx)
  /-- AWROW (R189): Write a vector into a tile row. -/
  | awrow (d : AIdx) (a : VIdx) (b : SReg) (m : MIdx)
  /-- AWCOL (R189): Write a vector into a tile column. -/
  | awcol (d : AIdx) (a : VIdx) (b : SReg) (m : MIdx)
  /-- AMOV (R189): Copy a whole tile. -/
  | amov (d : AIdx) (a : AIdx)
  /-- AEPI (R191): Scale, convert and emit a tile through an output stream. -/
  | aepi (out : AepiOut) (i32 : Bool) (d : QIdx) (a : AIdx) (b : SReg)
  /-- SBIND (R197): Attach a stream register to vector registers. -/
  | sbind (d : QIdx) (b : VIdx)
  /-- SUNBIND (R197): Detach a stream register. -/
  | sunbind (d : QIdx)
  /-- SISECT (R208): Make a derived intersection stream. -/
  | sisect (d : QIdx) (a : QIdx) (b : QIdx)
  /-- SUNITE (R208): Make a derived union stream. -/
  | sunite (d : QIdx) (a : QIdx) (b : QIdx)
  /-- SSKIP (R209): Advance a fibre or derived stream to a coordinate. -/
  | sskip (d : QIdx) (a : SReg)
  /-- SSAVE (R210): Store stream register state to LOC. -/
  | ssave (d : QIdx) (a : SReg)
  /-- SREST (R210): Restore stream register state from LOC. -/
  | srest (d : QIdx) (a : SReg)
  /-- SAFF (R200): Long form setting one level of an affine stream. -/
  | saff (q : QIdx) (base : SReg) (stride : SReg) (lv : Fin 4) (go : Bool) (cnt : BitVec 32) (fmt : Format) (out : Bool) (sp : Space)
  /-- SIDX (R202): Long form making level 3 indirect. -/
  | sidx (q : QIdx) (a : SReg) (go : Bool) (iw : Bool)
  /-- SFIB (R203): Long form starting a fibre stream. -/
  | sfib (q : QIdx) (a : SReg) (b : SReg) (lvk : Fin 4) (iw : Bool) (size : BitVec 32) (len : BitVec 32) (p : SReg) (sp : Space)
  /-- COPY (R212): Long form buffering a copy-engine command. -/
  | copy (d : SReg) (a : SReg) (b : SReg) (form : CopyForm) (es : Fin 4) (w1 : CmdW1) (spitch : BitVec 32) (dpitch : BitVec 32)
  /-- COLL (R213): Long form buffering a collective command. -/
  | coll (d : SReg) (a : SReg) (b : SReg) (kind : CollKind) (w1 : CmdW1) (fmt : BitVec 5) (op : CollOp) (id : BitVec 8) (root : BitVec 16)
  /-- PUT_E (R214): Long form buffering a remote write to another package. -/
  | putE (d : SReg) (a : SReg) (b : SReg) (w1 : CmdW1) (tag : BitVec 32) (pkg : BitVec 16)
  /-- TASK_PUT (R215): Long form buffering a task-packet enqueue. -/
  | taskPut (d : SReg) (w1 : CmdW1) (pkg : BitVec 16)
  /-- TERET (R226): Commit the handler strip, clear in_handler and resume at TEPC. -/
  | teret
  /-- HALT (R227): Drain, commit and move the hart to HALTED. -/
  | halt
  /-- HINT (R79): No-op hint changing only PC. -/
  | hint
  /-- STRIP_COMMIT (R29): After the drain, perform the strip buffer, release port writes and place engine commands. -/
  | stripCommit
  /-- COMMIT_END (R31): Commit finishes and the next strip opens or the hart proceeds. -/
  | commitEnd
  /-- STRIP_WATCHDOG (R33): Resident strip time reaches WDOG and the watchdog trap is raised. -/
  | stripWatchdog
  /-- FQBASE_WRITE (R271): Setting a ring base writes held fault records in order. -/
  | fqbaseWrite
  /-- FQHEAD_WRITE (R271): Advancing the head frees ring slots so held records are written. -/
  | fqheadWrite
  /-- SCALAR_LOAD_RETURN (R105): Data of an issued scalar load arrives in s_d. -/
  | scalarLoadReturn
  /-- STRIP_TERMINAL_COMPLETE (R128): A performing strip-terminal instruction completes and a strip opens after it. -/
  | stripTerminalComplete
  /-- PRESENCE_DEFERRAL_SERVE (R140): A word changes state and the oldest matching deferred element performs. -/
  | presenceDeferralServe
  /-- LINK_RESERVATION_EXPIRY (R137): A granule reservation lapses after 4,096 die-clock cycles. -/
  | linkReservationExpiry
  /-- AWAIT_COMPLETE (R216): All selected token counters reach 1; decrement them and complete. -/
  | awaitComplete
  /-- TKWAIT_SATISFIED (R217): The token counter covers the pending count and the wait ends. -/
  | tkwaitSatisfied
  /-- LAZY_VECTOR_MOVE (R350): First vector use after switch-in moves vector, mask and tile arrays. -/
  | lazyVectorMove
  /-- PAGE_RESTORE_COMPLETE (R259): Restore ends; the frame is resident and waiting accesses proceed. -/
  | pageRestoreComplete
  /-- SPSAVE (R261): Writing 1 to an SPSAVE bit starts a snapshot save of a frame. -/
  | spsave
  /-- SPSAVE_COMPLETE (R261): A frame save ends and its bit reads 0. -/
  | spsaveComplete
  /-- PATROL_SCRUB (R256): Patrol scrubber reads words at lowest priority. -/
  | patrolScrub
  /-- TRANSLATION_WALK (R266): A table walk for a missed translation completes with a leaf or fault. -/
  | translationWalk
  /-- INVCTL_GO (R272): Start invalidation of cached translations. -/
  | invctlGo
  /-- INVALIDATION_COMPLETE (R272): Matching entries removed and accesses performed; busy clears. -/
  | invalidationComplete
  /-- COPY_EXECUTE (R212): A copy engine begins a queued copy command. -/
  | copyExecute
  /-- COMMAND_END (R211): Engine command ends; write status then increment token. -/
  | commandEnd
  /-- PKRESP_RETRY (R304): Runtime verdict 0 makes the engine walk again. -/
  | pkrespRetry
  /-- PKRESP_FAIL (R304): Runtime verdict 1 ends the parked command with code 0x02. -/
  | pkrespFail
  /-- COLL_EXECUTE (R305): A rank joins a collective episode and headers are exchanged. -/
  | collExecute
  /-- COLL_CHUNK_ARRIVAL (R310): A collective chunk arrives, combined or appended to the overflow list. -/
  | collChunkArrival
  /-- PUT_E_LANDING (R311): Target package lands put.e bytes and counts them toward the arrival entry. -/
  | putELanding
  /-- STREAM_DELIVERY (R198): Input stream delivers its next unit into attached registers. -/
  | streamDelivery
  /-- STREAM_FETCH_AHEAD (R293): Stream engine fetches elements ahead, holding any fault. -/
  | streamFetchAhead
  /-- SLOT_RESERVATION (R199): A waiting port-out write obtains its slot reservation. -/
  | slotReservation
  /-- SLOT_LANDS (R315): An in-flight slot lands at its destination. -/
  | slotLands
  /-- NODE_FIRE (R326): A fabric node fires indivisibly on landed inputs. -/
  | nodeFire
  /-- CONTROL_TOKEN_ARRIVAL (R327): A control token lands at a destination terminal. -/
  | controlTokenArrival
  /-- FCMD_LOAD (R331): Runtime requests a fabric image load from FIMG. -/
  | fcmdLoad
  /-- FCMD_ABORT (R336): Abandon LOADING or DRAIN and return to RUN. -/
  | fcmdAbort
  /-- FABRIC_LOAD_COMPLETE (R331): Firmware finishes checking and writing the inactive bank and sets FSTAT. -/
  | fabricLoadComplete
  /-- FABRIC_FLIP (R336): At the quiescent point every router makes the inactive bank active. -/
  | fabricFlip
  /-- EPISODE_COMPLETE (R219): All harts arrived or halted; episode advances and waits complete. -/
  | episodeComplete
  /-- FARM_NEXT_SERVE (R222): Distributor answers a farm.next with a claim. -/
  | farmNextServe
  /-- PKTSTAT_GO (R278): Host submits a packet-port slot, latching its binding. -/
  | pktstatGo
  /-- TASK_PACKET_ACCEPT (R279): Distributor reads and validates a packet and enqueues it. -/
  | taskPacketAccept
  /-- TASK_COMPLETE (R281): A task completes and decrements or credits its successors. -/
  | taskComplete
  /-- TASK_PLACEMENT (R286): Distributor selects a ready task and places it on Spires. -/
  | taskPlacement
  /-- AGEING_STEP (R284): A waiting task's effective priority rises after AGEINT. -/
  | ageingStep
  /-- QUANTUM_EXPIRY (R288): A running team passes QUANTUM and becomes a pre-emption candidate. -/
  | quantumExpiry
  /-- HART_SWITCH_OUT (R347): A hart counts as switched out once discarded, drained and saved. -/
  | hartSwitchOut
  /-- DCANCEL (R283): Cancel a live task that is not running. -/
  | dcancel
  /-- TM_FREEZE (R353): Team-management op 1 starts freezing a team. -/
  | tmFreeze
  /-- FREEZE_COMPLETE (R353): Team state written into its save slot; team frozen. -/
  | freezeComplete
  /-- TM_WRITE_IMAGE (R358): Op 2 writes a frozen team's Strelran image at TMIMG. -/
  | tmWriteImage
  /-- TM_RESUME (R359): Op 3 checks and accepts a frozen team or image as a ready task. -/
  | tmResume
  /-- RESUME_PLACEMENT (R359): A resumed team is placed and its state loaded. -/
  | resumePlacement
  /-- TM_END (R363): Op 4 ends a team and frees its resources. -/
  | tmEnd
  /-- TM_RESTART (R344): Op 5 restarts a hart in OUT at its opening instruction. -/
  | tmRestart
  /-- TM_REFLECT (R344): Op 6 reflects a system fault to the team handler. -/
  | tmReflect
  /-- TM_UNASSIGNED_OP (R358): Unassigned op code completes with code 0x0C. -/
  | tmUnassignedOp
  /-- SPEED_CHANGE (R366): A changed speed-table entry takes effect on the Spire clock. -/
  | speedChange
  /-- SPD_AGE_WRITE (R366): Firmware raises a Spire's ageing derate. -/
  | spdAgeWrite
  /-- DROOP_DETECT (R368): Supply sag stretches the Spire clock. -/
  | droopDetect
  /-- SAG_STEP_DOWN (R368): 100 ms without a stretch lowers the sag component. -/
  | sagStepDown
  /-- POWER_MEASUREMENT (R369): Periodic power and temperature measurement adds or removes cap steps. -/
  | powerMeasurement
  /-- PWRLIM_WRITE (R369): Firmware sets the power limit, clamped at 3,200 W. -/
  | pwrlimWrite
  /-- HOST_CXL_MEM_ACCESS (R372): Host CXL.mem access performs at the line's home cache. -/
  | hostCxlMemAccess
  /-- HOST_STORE_COMPLETION (R372): Host returns completion for a HOST store over CXL.cache. -/
  | hostStoreCompletion
  /-- TRAMONTANE_CRC_FAIL (R373): Failed flit CRC triggers replay, retrain or link down. -/
  | tramontaneCrcFail
  /-- FLIT_RECEIVE (R374): Destination delivers flits in sequence order, discarding duplicates. -/
  | flitReceive
  /-- ETESIAN_CRC_FAIL (R375): Etesian flit CRC failure replays from the port buffer. -/
  | etesianCrcFail
  /-- LANE_AUTO_RETIRE (R376): Corrected-codeword rate past the limit retires a lane. -/
  | laneAutoRetire
  /-- SPARE_SWITCH_COMPLETE (R376): Spare lane switched in and port resumes. -/
  | spareSwitchComplete
  /-- PORT_DOWN_TIMEOUT (R376): No flit or idle for 20 us marks a port down. -/
  | portDownTimeout
  /-- E2E_RESEND_TIMEOUT (R377): Unacknowledged flit resent after 100 us. -/
  | e2eResendTimeout
  /-- UNREACHABLE_TIMEOUT (R377): No route for 50 us ends commands with code 0x07. -/
  | unreachableTimeout
  /-- RETIRE_SPIRE (R378): RETCMD class 0 retires a Spire, freezing and resuming its team. -/
  | retireSpire
  /-- RETIRE_ROUTER (R378): RETCMD class 1 retires a router and its Spire. -/
  | retireRouter
  /-- RETIRE_ETESIAN_LANE (R376): RETCMD class 2 retires an Etesian lane. -/
  | retireEtesianLane
  /-- RETIRE_TRAMONTANE_LINK (R373): RETCMD class 3 makes a link detour permanent. -/
  | retireTramontaneLink
  /-- RETIRE_HBM_ROW (R379): RETCMD class 4 spares an HBM row. -/
  | retireHbmRow
  /-- RETIRE_INVALID_CLASS (R378): RETCMD class 5 to 15 ends with code 0x01. -/
  | retireInvalidClass
  /-- WEAR_PREDICTION (R380): Daily fit of wear trends publishes end-of-life predictions. -/
  | wearPrediction
  /-- PACKAGE_RESET (R381): Belfry boots from ROM, verifying and measuring firmware stages. -/
  | packageReset
  /-- DCTL_WRITE (R381): Firmware sets or clears distributor enable. -/
  | dctlWrite
  /-- MAILBOX_REPORT (R383): Mailbox op 1 builds and signs an attestation report. -/
  | mailboxReport
  /-- MAILBOX_FIRMWARE_UPDATE (R383): Mailbox op 2 verifies and writes a firmware image to flash. -/
  | mailboxFirmwareUpdate
  /-- MAILBOX_UNASSIGNED_OP (R383): Unassigned mailbox op ends with status 2. -/
  | mailboxUnassignedOp
  /-- SECURITY_ALARM (R384): An alarm source fires and the fused policy acts. -/
  | securityAlarm
  /-- POWER_REMOVAL (R384): Removal of power ends a policy-2 reset hold. -/
  | powerRemoval
  /-- REGISTER_WRITE (R7): Write to a register without behaviour of its own, per access code. -/
  | registerWrite
  /-- STORE_WRITTEN_AT_HOME (R232): A committed GLB or HOST store that was only performed at Spire scope reaches its order point or home and takes its place in the coherence order. -/
  | storeWrittenAtHome
  /-- TRAMONTANE_RETRAIN_END (R373): A Tramontane link retrain, lasting up to 100 us, ends with the link up again or taken down with traffic detoured. -/
  | tramontaneRetrainEnd
  /-- SUPPLY_RECOVERY (R368): The Spire supply recovers from a sag and the droop detector releases the clock stretch. -/
  | supplyRecovery
  /-- HOST_SNOOP (R372): A CXL.cache snoop from the host arrives and is answered as finding no line. -/
  | hostSnoop
  /-- BACK_INVALIDATE_RESPONSE (R372): The host's response to a back-invalidate snoop arrives and the held store to that line performs at its home. -/
  | backInvalidateResponse
  deriving DecidableEq, Repr

end Sys2Proof
end

