-- ==== Sys2Proof/Machine/Num.lean ====
section
/-! DEFINITION. Number formats and their exact arithmetic (02): floating-point values as exact dyadics, rounding with
flags, conversions, MX and XBF blocks, residues. -/
namespace Sys2Proof
open Machine

/-! ### Flags (01 Table 1-4) -/

/-- A set of exception flags, at the bit numbers of FFLAGS. -/
abbrev FlagSet := BitVec 16
/-- Inexact. -/
def flNx : FlagSet := 0x01#16
/-- Underflow. -/
def flUf : FlagSet := 0x02#16
/-- Overflow. -/
def flOf : FlagSet := 0x04#16
/-- Division by zero. -/
def flDz : FlagSet := 0x08#16
/-- Invalid operation. -/
def flNv : FlagSet := 0x10#16
/-- XBF block exponent saturated. -/
def flBovf : FlagSet := 0x20#16
/-- Modular bound overflow. -/
def flMovf : FlagSet := 0x40#16
/-- Non-canonical residue or invalid modulus. -/
def flMrange : FlagSet := 0x80#16
/-- A flag raised under a condition. -/
def flagIf (c : Bool) (f : FlagSet) : FlagSet := if c then f else 0#16

/-! ### Formats (02 Tables 2-1 and 2-2) -/

/-- Which encodings a format gives to infinities and NaNs. -/
inductive NanKind | ieee | e4m3 | none
  deriving DecidableEq, Repr

/-- A floating-point format: exponent and fraction widths, bias, largest finite magnitude encoding, special encodings,
canonical NaN and emax. -/
structure Fp where
  eb   : Nat
  fb   : Nat
  bias : Int
  maxE : Nat
  nan  : NanKind
  cnan : Nat
  emax : Int
  /-- FENABLE.fz applies to the format (02 R50). -/
  fz   : Bool
  deriving DecidableEq, Repr

/-- FP64. -/
def fpFP64 : Fp := ⟨11, 52, 1023, 0x7FEFFFFFFFFFFFFF, .ieee, 0x7FF8000000000000, 1023, true⟩
/-- FP32. -/
def fpFP32 : Fp := ⟨8, 23, 127, 0x7F7FFFFF, .ieee, 0x7FC00000, 127, true⟩
/-- FP16. -/
def fpFP16 : Fp := ⟨5, 10, 15, 0x7BFF, .ieee, 0x7E00, 15, true⟩
/-- BF16. -/
def fpBF16 : Fp := ⟨8, 7, 127, 0x7F7F, .ieee, 0x7FC0, 127, true⟩
/-- FP8 E4M3. -/
def fpE4M3 : Fp := ⟨4, 3, 7, 0x7E, .e4m3, 0x7F, 8, false⟩
/-- FP8 E5M2. -/
def fpE5M2 : Fp := ⟨5, 2, 15, 0x7B, .ieee, 0x7E, 15, false⟩
/-- FP6 E3M2. -/
def fpE3M2 : Fp := ⟨3, 2, 3, 0x1F, .none, 0, 4, false⟩
/-- FP6 E2M3. -/
def fpE2M3 : Fp := ⟨2, 3, 1, 0x1F, .none, 0, 2, false⟩
/-- FP4 E2M1. -/
def fpE2M1 : Fp := ⟨2, 1, 1, 0x7, .none, 0, 2, false⟩

/-- Position of the sign bit. -/
def Fp.sb (F : Fp) : Nat := F.eb + F.fb
/-- Encoding of +infinity, for the formats that have one. -/
def Fp.infE (F : Fp) : Nat := (2 ^ F.eb - 1) * 2 ^ F.fb
/-- The format has infinities. -/
def Fp.hasInf (F : Fp) : Bool := F.nan == .ieee
/-- A magnitude with its sign. -/
def Fp.signed (F : Fp) (neg : Bool) (mag : Nat) : Nat := b2n neg * 2 ^ F.sb + mag
/-- Exponent of one unit of the subnormal grid. -/
def Fp.emin (F : Fp) : Int := 1 - F.bias - F.fb

/-- Formats of the vector floating-point instructions. -/
def FFmt.fp : FFmt → Fp
  | .fp64 => fpFP64
  | .fp32 => fpFP32
  | .fp16 => fpFP16
  | .bf16 => fpBF16
/-- Container width. -/
def FFmt.width : FFmt → Nat
  | .fp64 => 64
  | .fp32 => 32
  | .fp16 => 16
  | .bf16 => 16
/-- FP8 formats. -/
def F8Fmt.fp : F8Fmt → Fp
  | .e4m3 => fpE4M3
  | .e5m2 => fpE5M2
/-- Scalar formats. -/
def SFmt.fp : SFmt → Fp
  | .fp32 => fpFP32
  | .fp64 => fpFP64
/-- Width of a scalar format. -/
def SFmt.width : SFmt → Nat
  | .fp32 => 32
  | .fp64 => 64
/-- Component format of a complex format. -/
def CFmt.fp : CFmt → Fp
  | .cbf16 => fpBF16
  | .cfp32 => fpFP32
/-- Component width of a complex format. -/
def CFmt.comp : CFmt → Nat
  | .cbf16 => 16
  | .cfp32 => 32
/-- Width of an integer width code. -/
def IWidth.bits : IWidth → Nat
  | .w8 => 8
  | .w16 => 16
  | .w32 => 32
  | .w64 => 64
/-- Width of a residue. -/
def MWidth.bits : MWidth → Nat
  | .m32 => 32
  | .m64 => 64

/-! ### Values -/

/-- A floating-point datum: NaN, infinity, or the exact value (-1)^neg * m * 2^e, where m = 0 is a signed zero. -/
inductive FVal
  | nan (signalling : Bool)
  | inf (neg : Bool)
  | fin (neg : Bool) (m : Nat) (e : Int)
  deriving DecidableEq, Repr

/-- The value of an encoding, subnormals read as zero when `fz` (02 R43, R44, R50). Bits above the sign are ignored. -/
def Fp.unpack (F : Fp) (fz : Bool) (bits : Nat) : FVal :=
  let neg := bitAt bits F.sb
  let e := field bits F.fb F.eb
  let f := field bits 0 F.fb
  let top := e = 2 ^ F.eb - 1
  if F.nan = .ieee ∧ top then
    if f = 0 then .inf neg else .nan (!bitAt bits (F.fb - 1))
  else if F.nan = .e4m3 ∧ top ∧ f = 2 ^ F.fb - 1 then .nan false
  else if e = 0 then .fin neg (if fz && F.fz then 0 else f) F.emin
  else .fin neg (2 ^ F.fb + f) (F.emin + e - 1)

/-- NaN test. -/
def FVal.isNan : FVal → Bool
  | .nan _ => true
  | _ => false
/-- Signalling NaN test. -/
def FVal.isSnan : FVal → Bool
  | .nan s => s
  | _ => false
/-- Negation. -/
def FVal.neg : FVal → FVal
  | .nan s => .nan s
  | .inf n => .inf (!n)
  | .fin n m e => .fin (!n) m e
/-- Infinity or NaN. -/
def FVal.special : FVal → Bool
  | .fin _ _ _ => false
  | _ => true
/-- The signed mantissa of a finite value. -/
def FVal.mant : FVal → Int
  | .fin n m _ => if n then -(m : Int) else m
  | _ => 0
/-- The exponent of a finite value. -/
def FVal.expo : FVal → Int
  | .fin _ _ e => e
  | _ => 0

/-! ### Rounding (02 R47, R48) -/

/-- Rounding modes; `sto u` is stochastic rounding with the draw u. -/
inductive Rnd | rne | rtz | rdn | rup | sto (u : Nat)
  deriving DecidableEq, Repr

/-- The magnitude is rounded up, given q odd, remainder `rem` of 2^k. -/
def Rnd.up (r : Rnd) (neg odd : Bool) (rem k : Nat) : Bool :=
  match r with
  | .rne => 2 ^ k < 2 * rem || (2 * rem == 2 ^ k && odd)
  | .rtz => false
  | .rdn => neg && rem != 0
  | .rup => !neg && rem != 0
  | .sto u => u < rem * 65536 / 2 ^ k

/-- Round m * 2^e to a multiple of 2^u: the multiple, and exactness. -/
def roundGrid (r : Rnd) (neg : Bool) (m : Nat) (e u : Int) : Nat × Bool :=
  if u ≤ e then (m * 2 ^ (e - u).toNat, true)
  else
    let k := (u - e).toNat
    let q := m / 2 ^ k
    let rem := m % 2 ^ k
    (q + b2n (r.up neg (q % 2 == 1) rem k), rem == 0)

/-- Magnitude encoding on the grid of F with the exponent range unbounded above, exactness and tininess. -/
def Fp.roundMag (F : Fp) (r : Rnd) (neg : Bool) (m : Nat) (e : Int) : Nat × Bool × Bool :=
  if m = 0 then (0, true, false) else
  let full := (Nat.log2 m : Int) + e - F.fb
  let u := max full F.emin
  let q := roundGrid r neg m e u
  let t := roundGrid r neg m e full
  -- the tested value t * 2^full is below 2^(emin + fb)
  let tiny := t.1 != 0 && (full + Nat.log2 t.1 < F.emin + F.fb)
  ((u - F.emin).toNat * 2 ^ F.fb + q.1, q.2, tiny)

/-- The overflow fate of R47: the encoding of the magnitude. -/
def Fp.ovfMag (F : Fp) (r : Rnd) (neg : Bool) : Nat :=
  if !F.hasInf then F.maxE else
  match r, neg with
  | .rtz, _ => F.maxE
  | .rdn, false => F.maxE
  | .rup, true => F.maxE
  | _, _ => F.infE

/-- round(x, F, mode) for a finite x, with flags; `fz` flushes a subnormal result (02 R47, R48, R50). -/
def Fp.roundFin (F : Fp) (r : Rnd) (fz neg : Bool) (m : Nat) (e : Int) : Nat × FlagSet :=
  let x := F.roundMag r neg m e
  if F.maxE < x.1 then (F.signed neg (F.ovfMag r neg), flOf ||| flNx)
  else if fz && F.fz && x.1 != 0 && x.1 < 2 ^ F.fb then (F.signed neg 0, flUf ||| flNx)
  else (F.signed neg x.1, flagIf (!x.2.1) flNx ||| flagIf (x.2.2 && !x.2.1) flUf)

/-- Deliver a value of an arithmetic operation: NaN becomes the canonical NaN (02 R44). -/
def Fp.pack (F : Fp) (r : Rnd) (fz : Bool) : FVal → Nat × FlagSet
  | .nan _ => (F.cnan, 0)
  | .inf n => (F.signed n F.infE, 0)
  | .fin n m e => F.roundFin r fz n m e

/-! ### Exact operations; the flag set holds nv and dz (02 R44, R47, R51, R55) -/

/-- nv of the signalling operands. -/
def snans (xs : List FVal) : FlagSet := flagIf (xs.any FVal.isSnan) flNv

/-- A signed exact integer times 2^e as a value; an exact zero takes the sign `zneg`. -/
def FVal.ofInt (x : Int) (e : Int) (zneg : Bool) : FVal :=
  if x = 0 then .fin zneg 0 e else .fin (decide (x < 0)) x.natAbs e

/-- Exact sum; the sign of an exact zero sum of opposite operands is + except under RDN. -/
def addVal (r : Rnd) (x y : FVal) : FVal × FlagSet :=
  match x, y with
  | .nan _, _ => (.nan false, 0)
  | _, .nan _ => (.nan false, 0)
  | .inf a, .inf b => if a = b then (.inf a, 0) else (.nan false, flNv)
  | .inf a, _ => (.inf a, 0)
  | _, .inf b => (.inf b, 0)
  | .fin a m e, .fin b n f =>
    let lo := min e f
    let p : Int := (if a then -(m : Int) else m) * 2 ^ (e - lo).toNat
    let q : Int := (if b then -(n : Int) else n) * 2 ^ (f - lo).toNat
    (FVal.ofInt (p + q) lo (if m = 0 ∧ n = 0 ∧ a = b then a else decide (r = .rdn)), 0)

/-- Exact product. -/
def mulVal (x y : FVal) : FVal × FlagSet :=
  match x, y with
  | .nan _, _ => (.nan false, 0)
  | _, .nan _ => (.nan false, 0)
  | .inf a, .inf b => (.inf (a != b), 0)
  | .inf a, .fin b n _ => if n = 0 then (.nan false, flNv) else (.inf (a != b), 0)
  | .fin a m _, .inf b => if m = 0 then (.nan false, flNv) else (.inf (a != b), 0)
  | .fin a m e, .fin b n f => (.fin (a != b) (m * n) (e + f), 0)

/-- Quotient, held with enough bits and a sticky bit for one rounding to any format of Table 2-2. -/
def divVal (x y : FVal) : FVal × FlagSet :=
  match x, y with
  | .nan _, _ => (.nan false, 0)
  | _, .nan _ => (.nan false, 0)
  | .inf _, .inf _ => (.nan false, flNv)
  | .inf a, .fin b _ _ => (.inf (a != b), 0)
  | .fin a _ _, .inf b => (.fin (a != b) 0 0, 0)
  | .fin a m e, .fin b n f =>
    if n = 0 then if m = 0 then (.nan false, flNv) else (.inf (a != b), flDz)
    else
      let k := 128 + Nat.log2 n
      let q := m * 2 ^ k / n
      (.fin (a != b) (2 * q + b2n (m * 2 ^ k % n != 0)) (e - f - k - 1), 0)

/-- Square root, held with a sticky bit. -/
def sqrtVal (x : FVal) : FVal × FlagSet :=
  match x with
  | .nan _ => (.nan false, 0)
  | .inf true => (.nan false, flNv)
  | .inf false => (.inf false, 0)
  | .fin a m e =>
    if m = 0 then (.fin a 0 0, 0)
    else if a then (.nan false, flNv)
    else
      let k := 256 + (e % 2).toNat
      let n := m * 2 ^ k
      let q := isqrt n
      (.fin false (2 * q + b2n (q * q != n)) ((e - k) / 2 - 1), 0)

/-- fadd, fsub, fmul, fdiv of one format, rounded once. -/
def Fp.add (F : Fp) (r : Rnd) (fz : Bool) (a b : Nat) : Nat × FlagSet :=
  let x := F.unpack fz a; let y := F.unpack fz b
  let z := addVal r x y; let p := F.pack r fz z.1
  (p.1, p.2 ||| z.2 ||| snans [x, y])
/-- Difference. -/
def Fp.sub (F : Fp) (r : Rnd) (fz : Bool) (a b : Nat) : Nat × FlagSet :=
  let x := F.unpack fz a; let y := F.unpack fz b
  let z := addVal r x y.neg; let p := F.pack r fz z.1
  (p.1, p.2 ||| z.2 ||| snans [x, y])
/-- Product. -/
def Fp.mul (F : Fp) (r : Rnd) (fz : Bool) (a b : Nat) : Nat × FlagSet :=
  let x := F.unpack fz a; let y := F.unpack fz b
  let z := mulVal x y; let p := F.pack r fz z.1
  (p.1, p.2 ||| z.2 ||| snans [x, y])
/-- Quotient. -/
def Fp.div (F : Fp) (r : Rnd) (fz : Bool) (a b : Nat) : Nat × FlagSet :=
  let x := F.unpack fz a; let y := F.unpack fz b
  let z := divVal x y; let p := F.pack r fz z.1
  (p.1, p.2 ||| z.2 ||| snans [x, y])
/-- Square root. -/
def Fp.sqrt (F : Fp) (r : Rnd) (fz : Bool) (a : Nat) : Nat × FlagSet :=
  let x := F.unpack fz a
  let z := sqrtVal x; let p := F.pack r fz z.1
  (p.1, p.2 ||| z.2 ||| snans [x])

/-- (-1)^np * a * b + (-1)^nc * c with one rounding: fma, fms and fnma (02 R55). 0 times infinity sets nv whatever c is. -/
def Fp.fma (F : Fp) (r : Rnd) (fz np nc : Bool) (a b c : Nat) : Nat × FlagSet :=
  let x := F.unpack fz a; let y := F.unpack fz b; let w := F.unpack fz c
  let p := mulVal (if np then x.neg else x) y
  let z := addVal r p.1 (if nc then w.neg else w)
  let q := F.pack r fz z.1
  (q.1, q.2 ||| p.2 ||| z.2 ||| snans [x, y, w])

/-- The order of two values that are not NaN, -0 equal to +0: -1, 0 or 1. -/
def cmpVal : FVal → FVal → Int
  | .inf a, .inf b => if a = b then 0 else if a then -1 else 1
  | .inf a, _ => if a then -1 else 1
  | _, .inf b => if b then 1 else -1
  | .fin a m e, .fin b n f =>
    let lo := min e f
    let p : Int := (if a then -(m : Int) else m) * 2 ^ (e - lo).toNat
    let q : Int := (if b then -(n : Int) else n) * 2 ^ (f - lo).toNat
    if p < q then -1 else if q < p then 1 else 0
  | _, _ => 0

/-- x stands before y in the order of fmin and fmax, with -0 below +0. -/
def minFirst (x y : FVal) : Bool :=
  let c := cmpVal x y
  c < 0 || (c == 0 &&
    match x, y with
    | .fin a _ _, .fin b _ _ => a && !b
    | _, _ => false)

/-- minimumNumber and maximumNumber (02 R55); the operand is delivered, flushed under fz. -/
def Fp.minmax (F : Fp) (isMax fz : Bool) (a b : Nat) : Nat × FlagSet :=
  let x := F.unpack fz a; let y := F.unpack fz b
  let fl := snans [x, y]
  let out := fun (v : FVal) (raw : Nat) =>
    match v with
    | .fin n 0 _ => F.signed n 0
    | _ => raw % 2 ^ (F.sb + 1)
  match x.isNan, y.isNan with
  | true, true => (F.cnan, fl)
  | true, false => (out y b, fl)
  | false, true => (out x a, fl)
  | false, false => (if minFirst x y != isMax then out x a else out y b, fl)

/-- Comparison kinds. -/
inductive FCmp | eq | ne | lt | le | un
  deriving DecidableEq, Repr

/-- A comparison: ordered comparisons signal on quiet NaNs too (06 R149, 04 R108). -/
def Fp.cmp (F : Fp) (c : FCmp) (fz : Bool) (a b : Nat) : Bool × FlagSet :=
  let x := F.unpack fz a; let y := F.unpack fz b
  let un := x.isNan || y.isNan
  let k := cmpVal x y
  match c with
  | .eq => (!un && k == 0, snans [x, y])
  | .ne => (un || k != 0, snans [x, y])
  | .lt => (!un && k < 0, flagIf un flNv)
  | .le => (!un && k ≤ 0, flagIf un flNv)
  | .un => (un, snans [x, y])

/-! ### Conversions (02 R53, R54) -/

/-- A value to a float, fates of Table 2-5; `fz` flushes the result. -/
def cvtVF (dst : Fp) (r : Rnd) (fz : Bool) : FVal → Nat × FlagSet
  | .nan s =>
    match dst.nan with
    | .none => (0, flNv)
    | _ => (dst.cnan, flagIf s flNv)
  | .inf n => if dst.hasInf then (dst.signed n dst.infE, 0) else (dst.signed n dst.maxE, flNv)
  | .fin n m e => dst.roundFin r fz n m e

/-- Float to float. `fzi` flushes the source, `fzo` the result. -/
def cvtFF (src dst : Fp) (r : Rnd) (fzi fzo : Bool) (a : Nat) : Nat × FlagSet := cvtVF dst r fzo (src.unpack fzi a)

/-- rne, rtz, rdn, rup of a finite value to an integer, with exactness; stochastic is treated as RNE. -/
def roundInt (r : Rnd) (neg : Bool) (m : Nat) (e : Int) : Int × Bool :=
  let r' := match r with
    | .sto _ => Rnd.rne
    | _ => r
  let g := roundGrid r' neg m e 0
  (if neg then -(g.1 : Int) else g.1, g.2)

/-- Range of an integer format. -/
def intLo (signed : Bool) (w : Nat) : Int := if signed then -(2 ^ (w - 1)) else 0
/-- Range of an integer format. -/
def intHi (signed : Bool) (w : Nat) : Int := if signed then 2 ^ (w - 1) - 1 else 2 ^ w - 1

/-- A value to an integer of width w, saturating (02 Table 2-5). -/
def cvtVI (signed : Bool) (w : Nat) (r : Rnd) : FVal → Nat × FlagSet
  | .nan _ => (0, flNv)
  | .inf n => (wrapI w (if n then intLo signed w else intHi signed w), flNv)
  | .fin n m e =>
    let x := roundInt r n m e
    if x.1 < intLo signed w then (wrapI w (intLo signed w), flNv)
    else if intHi signed w < x.1 then (wrapI w (intHi signed w), flNv)
    else (wrapI w x.1, flagIf (!x.2) flNx)

/-- Float to integer of width w. -/
def cvtFI (src : Fp) (signed : Bool) (w : Nat) (r : Rnd) (fz : Bool) (a : Nat) : Nat × FlagSet :=
  cvtVI signed w r (src.unpack fz a)

/-- Integer to float. -/
def cvtIF (signed : Bool) (w : Nat) (dst : Fp) (r : Rnd) (fz : Bool) (a : Nat) : Nat × FlagSet :=
  let x : Int := if signed then sgn w a else (a % 2 ^ w : Nat)
  dst.roundFin r fz (decide (x < 0)) x.natAbs 0

/-- Integer to integer, wrapping or saturating (02 R53). -/
def cvtII (ss : Bool) (sw : Nat) (ds : Bool) (dw : Nat) (sat : Bool) (a : Nat) : Nat :=
  let x : Int := if ss then sgn sw a else (a % 2 ^ sw : Nat)
  wrapI dw (if sat then satI x (intLo ds dw) (intHi ds dw) else x)

/-! ### Stochastic rounding generator (02 R48) -/

/-- One draw: the new state and the 16 bits. -/
def srand (s : BitVec 64) : BitVec 64 × Nat :=
  let s := if s = 0 then 0x9E3779B97F4A7C15#64 else s
  let s := s ^^^ (s <<< 13)
  let s := s ^^^ (s >>> 7)
  let s := s ^^^ (s <<< 17)
  (s, s.toNat / 2 ^ 48)

/-! ### MX blocks (02 R59, R60) -/

/-- MX element formats as floating point; none for MXINT8. -/
def MxFmt.fp : MxFmt → Option Fp
  | .e4m3 => some fpE4M3
  | .e5m2 => some fpE5M2
  | .e3m2 => some fpE3M2
  | .e2m3 => some fpE2M3
  | .e2m1 => some fpE2M1
  | .int8 => none
/-- Container width of an MX element. -/
def MxFmt.width : MxFmt → Nat
  | .e2m1 => 4
  | _ => 8
/-- emax of an MX format (02 R43). -/
def MxFmt.emax (f : MxFmt) : Int :=
  match f.fp with
  | some F => F.emax
  | none => 0

/-- floor(log2 of the magnitude) of a finite non-zero value. -/
def FVal.log2 : FVal → Int
  | .fin _ m e => Nat.log2 m + e
  | _ => 0

/-- The largest floor(log2 |v|) over the non-zero finite values, none if all are zero. -/
def maxLog2 : List FVal → Option Int
  | [] => none
  | .fin n 0 e :: t => let _ := (n, e); maxLog2 t
  | v :: t =>
    match maxLog2 t with
    | none => some v.log2
    | some k => some (max k v.log2)

/-- mx_scale(V, F) (02 R59). -/
def mxScale (vs : List FVal) (f : MxFmt) : Nat × FlagSet :=
  if vs.any FVal.special then (0xFF, flNv) else
  match maxLog2 vs with
  | none => (0, 0)
  | some k =>
    let x := k - f.emax + 127
    if 254 < x then (254, flOf) else if x < 0 then (0, 0) else (x.toNat, 0)

/-- mx_elem(v, e, F): the element, saturating at the largest magnitude (02 R60). -/
def mxElem (v : FVal) (e : Nat) (f : MxFmt) (r : Rnd) : Nat × FlagSet :=
  if e = 0xFF then (0, 0) else
  match v with
  | .fin n m x =>
    match f.fp with
    | some F =>
      let g := F.roundMag r n m (x + 127 - e)
      if F.maxE < g.1 then (F.signed n F.maxE, flNx)
      else (F.signed n g.1, flagIf (!g.2.1) flNx ||| flagIf (g.2.2 && !g.2.1) flUf)
    | none =>
      let g := roundGrid r n m (x + 133 - e) 0
      let q : Int := if n then -(g.1 : Int) else g.1
      if q < -128 ∨ 127 < q then (wrapI 8 (satI q (-128) 127), flNx)
      else (wrapI 8 q, flagIf (!g.2) flNx)
  | _ => (0, 0)

/-- The exact decoded value of an element (02 R59). -/
def mxDecode (q e : Nat) (f : MxFmt) : FVal :=
  if e = 0xFF then .nan false else
  match f.fp with
  | some F =>
    match F.unpack false q with
    | .fin n m x => .fin n m (x + e - 127)
    | v => v
  | none => FVal.ofInt (sgn 8 q) ((e : Int) - 133) false

/-- mx_val(q, e, F): decoded and rounded to the destination float (02 R60). An element that is itself an infinity or a quiet NaN
sets no flag (DESIGN CHOICE, log 73). -/
def mxVal (q e : Nat) (f : MxFmt) (dst : Fp) (r : Rnd) (fz : Bool) : Nat × FlagSet :=
  let v := mxDecode q e f
  let p := dst.pack r fz v
  (p.1, p.2 ||| snans [v])

/-! ### XBF blocks (02 R61-R63) -/

/-- rne(c * 2^x) of an integer c, with exactness. -/
def rneShift (c : Int) (x : Int) : Int × Bool :=
  roundInt .rne (decide (c < 0)) c.natAbs x

/-- One try of the loop of xbf_renorm: mantissas at exponent e2, for y = ys * 2^sh in units of 2^(e - 142). -/
def xbfTry (ys : List Int) (sh e e2 : Int) : List (Int × Bool) := ys.map fun c => rneShift c (sh + e - e2)

/-- The loop of xbf_renorm. -/
def xbfLoop (ys : List Int) (sh e : Int) (adaptive : Bool) : Nat → Int → List (Int × Bool) × Int × Bool
  | 0, e2 => (xbfTry ys sh e 254, 254, decide (254 < e2))
  | fuel + 1, e2 =>
    let clip := decide (254 < e2)
    let e3 := if clip then 254 else e2
    let q := xbfTry ys sh e e3
    if adaptive && !clip && q.any (fun x => 32767 < x.1.natAbs) then xbfLoop ys sh e adaptive fuel (e3 + 1)
    else (q, e3, clip)

/-- xbf_renorm(y, e, k) over all components of the block, y = ys * 2^sh: mantissas with the flags of each, exponent, and the flags
of the block as a whole (02 R62). -/
def xbfRenorm (ys : List Int) (sh : Int) (e : Int) (k : Nat) (fixed : Bool) : List (Int × FlagSet) × Nat × FlagSet :=
  let m := ys.foldl (fun a c => max a c.natAbs) 0
  let e2 : Int :=
    if k = 0 then if m = 0 then 127 else max 0 ((Nat.log2 m : Int) + sh + 128)
    else if fixed then e + k
    else
      let fl := if 0 ≤ sh then m * 2 ^ sh.toNat else m / 2 ^ (-sh).toNat
      max 0 (e + bitlen fl - 15)
  let r := xbfLoop ys sh e (k == 0 || !fixed) 4 e2
  (r.1.map fun x => (satI x.1 (-32767) 32767, flagIf (decide (32767 < x.1.natAbs)) flBovf ||| flagIf (!x.2) flNx),
    r.2.1.toNat, flagIf r.2.2 flBovf)

/-! ### Residues (02 R64-R68) -/

/-- canon(x, p) (02 R65). A modulus of 0 cannot be held (01 R24). -/
def canon (x p : Nat) : Nat × FlagSet := (x % p, flagIf (decide (p ≤ x)) flMrange)

/-- lift(c, p) (02 R67). -/
def liftRes (c p : Nat) : Int := if c ≤ p / 2 then c else (c : Int) - p

/-- crt2(c0, c1, p0, p1) as a 64-bit pattern (02 R68). -/
def crt2 (c0 c1 p0 p1 : Nat) : Nat × FlagSet :=
  let M := p0 * p1
  if p0 = p1 ∨ 2 ^ 62 ≤ M ∨ Nat.gcd p0 p1 ≠ 1 then (0, flMrange) else
  let a := canon c0 p0; let b := canon c1 p1
  let g := invMod (p0 % p1) p1
  let t := (((b.1 : Int) - a.1) % p1).toNat * g % p1
  let x := a.1 + p0 * t
  (wrapI 64 (if M / 2 < x then (x : Int) - M else x), a.2 ||| b.2)

end Sys2Proof
end

