-- ==== Sys2Proof/Config.lean ====
section
/-! DEFINITION. What an implementation fixes, and the values the spec leaves open. A free value is an opaque constant
without a body: no proof can learn its value (notes/assumptions). -/
namespace Sys2Proof.Config

/-- Value byte that a load finds under the poison code: draw number, then byte number (log 10). -/
opaque poisonByte : Nat → Nat → Byte
/-- Byte offset in the port buffer of a slot: link, slot, bytes per slot (14 R317, log 11). -/
opaque slotOffset : Nat → Nat → Nat → Nat
/-- What the part is fused with: the SHA3-512 digest of the vendor key, and the seed of the identity key pair, 32 bytes (16 R381, R382,
log 18). -/
opaque vendorDigest : BitVec 512
opaque seed : List Byte
/-- The vendor certificate kept in flash (16 R382, log 18). -/
opaque vendorCert : List Byte
/-- Randomness that a signature takes, 32 bytes, by draw number (FIPS 204 Algorithm 2, log 18). -/
opaque signRnd : Nat → List Byte
/-- Device serial, 16 bytes (16 Table 16-7, log 18). -/
opaque serial : List Byte
/-- Upper bits [55:8] of an engine ticket, by the number of the park (13 R303, log 21). -/
opaque ticketBase : Nat → Nat
/-- The firmware image that an update finds in device memory at an address (16 R383, log 18). -/
opaque firmwareImage : List (Nat × Byte) → Nat → Nat
/-- What a firmware image holds: its vendor key, and for stage k the bytes, the signature and the version (16 R381, log 18). -/
opaque imageKey : Nat → List Byte
opaque stageImage : Nat → Nat → List Byte
opaque stageSig : Nat → Nat → List Byte
opaque stageVersion : Nat → Nat → Nat

/-- The row, within its stack, that holds a device byte, and the words of a row that a copy of it cannot correct: draw number, stack, row
(16 R379, log 71). -/
opaque rowOf : Nat → Nat
opaque badWords : Nat → Nat → Nat → List Nat

/-- Control value of a slot without elements, for a node and the slot's number in its link (14 R322, log 30). -/
opaque emptyControl : Nat → Nat → Nat

/-- The set of a die's memory-side cache that a device line belongs to (11 R263, log 68). -/
opaque cacheSet : Nat → Nat
/-- The set of a die's translation cache for a context, space and virtual address (11 R268, log 8). -/
opaque tlbSet : Nat → Bool → Nat → Nat
/-- Ways of a memory-side cache (11 R263). -/
def cacheWays : Nat := 16

/-- The package's own Etesian number, which the spec leaves to the system (09 R214, 16 R375, log 12). -/
opaque ownPackage : Nat

/-- Spires in the package (00 R1). -/
def spires : Nat := 512
/-- Cupolas in the package (00 R1). -/
def cupolas : Nat := 32
/-- Dies (00 R1). -/
def dies : Nat := 8
/-- Device physical memory ends here: 768 GiB (11 R262). -/
def devEnd : Nat := 0xC000000000
/-- Bytes homed on one die: 96 GiB (11 R262). -/
def dieBytes : Nat := 0x1800000000
/-- Host physical addresses have 52 bits (11 R264). -/
def hostEnd : Nat := 2 ^ 52
/-- Scratchpad bytes of a Spire (11 R250). -/
def spadBytes : Nat := 0x200000
/-- Scalar data memory bytes of a Spire (11 R250). -/
def sdmBytes : Nat := 0x10000
/-- Port buffer bytes of a Spire (11 R250). -/
def portBytes : Nat := 0x8000
/-- Task table entries (12 R280). -/
def maxTasks : Nat := 16384
/-- Arrival table entries (12 R280). -/
def maxArrivals : Nat := 4096
/-- Credit table entries (12 R280). -/
def maxCredits : Nat := 4096
/-- Entries of a Spire's TLB, of a die's translation cache and its ways, of a die's cache of non-leaf entries, and of its
table of outstanding misses (11 R268, R269). -/
def tlbSize : Nat := 128
def dieTlbSize : Nat := 8192
def dieTlbWays : Nat := 8
def nonLeafSize : Nat := 512
def missTable : Nat := 1024
/-- Flits that a replay buffer holds, at a Tramontane link end and at an Etesian port (16 R373, R375). -/
def tramBuffer : Nat := 512
def portBuffer : Nat := 1024
/-- Copy-engine queue depth (13 R299). -/
def copyQueue : Nat := 64

end Sys2Proof.Config
end

