-- ==== Sys2Proof/Machine/State.lean ====
section
/-! DEFINITION. The state of the part: everything the spec gives it, as plain data, and its value after package reset
(00 R8, 01 R16, R22). INVENTORY.md lists every field with its rule and reset value. -/
namespace Sys2Proof.Machine

/-! ### Stops -/

/-- Reasons the model stops with a fault. No meaning raises one on ordinary data: what the spec calls a fault is a
system fault, which the part delivers as a record and goes on (11 R271). -/
inductive Fault
  /-- A table, record or memory access of the part itself at a device physical address of 0xC0_0000_0000 or above, which
  does not exist (11 R262). Raised by Ops. Safe: the spec gives the access no effect. -/
  | noSuchAddress (addr : Nat)
  deriving DecidableEq, Repr

/-- Reasons the model refuses an instruction. -/
inductive Refusal
  /-- The instruction has no meaning yet. Raised by exec's arm. Safe. -/
  | notModelled (mnemonic : String)
  deriving DecidableEq, Repr

/-! ### Registers of a hart -/

/-- A vector register at its P1 width (01 R18): data, scale slice, one poison bit for each byte of data, and one for each entry of
the scale slice (02 R52). -/
structure VReg where
  data   : BitVec 16384
  scale  : BitVec 1024
  poison : BitVec 2048
  scaleBad : BitVec 128
  deriving DecidableEq, Repr

/-- A mask register with its poison bits (01 R19, 06 R146). -/
structure MReg where
  bits   : BitVec 2048
  poison : BitVec 2048
  deriving DecidableEq, Repr

/-- An accumulator tile: word 2L*i + j at bits 32*(2L*i + j), and one poison bit for each word (01 R20, 08 R184). -/
structure Tile where
  data   : BitVec 131072
  poison : BitVec 4096
  deriving DecidableEq, Repr

/-- A word that a stream engine has fetched ahead (13 R293, R294): an index entry or an element (a byte of two 4-bit elements, a
coordinate entry, a bit word), its number, value and poison, with the bytes of the aligned 8-byte words that were read for it, by virtual
address (10 R233); or the fault held for it: cause, detail, address. -/
structure Ahead where
  index : Bool
  pos : Nat
  val : Nat
  bad : Bool
  fault : Option (Nat × Nat × Nat)
  words : List (Nat × Byte × Bool)
  deriving DecidableEq, Repr

/-- A stream register: the fields of Table 9-1 (09 R196), then what the stream engine holds beside it. -/
structure Stream where
  kind  : BitVec 4
  dir   : Bool
  fmt   : BitVec 5
  space : BitVec 2
  att   : Bool
  vreg  : VIdx
  lvk   : BitVec 2
  iw    : Bool
  done  : Bool
  flt   : Bool
  qa    : QIdx
  qb    : QIdx
  cons  : Bool
  pend  : Bool
  base  : Word
  abase : Word
  d3    : Word
  d4    : Word
  d5    : Word
  d6    : Word
  n     : Word
  /-- A pattern completed by go, or started by sfib or srest (09 R200). -/
  complete : Bool
  /-- Start position of a compressed fibre, for the re-read of 13 R295; none after srest (log 14). -/
  lo       : Option Word
  /-- A poisoned word was read for pos or end (02 R52, 13 R295). -/
  badPos   : Bool
  /-- The stream has delivered in the open strip (09 R198). -/
  delivered : Bool
  /-- A control port (14 R321). -/
  ctl      : Bool
  /-- Elements fetched ahead of delivery (13 R293). -/
  ahead    : List Ahead
  deriving DecidableEq, Repr

/-- The HCRs of the strip checkpoint (01 Table 1-3, column Strip = yes). -/
structure StripHcr where
  vl      : BitVec 13
  ew      : BitVec 3
  mtr     : BitVec 2
  rmode   : BitVec 3
  fflags  : BitVec 16
  fenable : BitVec 16
  mod0    : Word
  mod1    : Word
  mroot   : Word
  bnd     : Word
  bfpmode : BitVec 8
  twg     : Word
  seed    : Word
  deriving DecidableEq, Repr

/-- The registers that the strip checkpoint covers (01 R27). -/
structure Regs where
  s       : Vector Word 32
  /-- Poison bit n of `s`n (04 R99). -/
  sPoison : BitVec 32
  v       : Vector VReg 32
  m       : Vector MReg 8
  a       : Vector Tile 4
  q       : Vector Stream 8
  h       : StripHcr
  deriving DecidableEq, Repr

/-- The HCRs outside the checkpoint, and the fields of HSTAT (01 Tables 1-3 and 1-5, 09 Table 9-10). -/
structure Hcr where
  hphys     : BitVec 32
  stripn    : Word
  tvec      : Word
  tcause    : BitVec 8
  tepc      : Word
  telem     : BitVec 13
  tinfo     : Word
  replay    : Bool
  clock     : Word
  stallIn   : Word
  stallOut  : Word
  stallMem  : Word
  stallTok  : Word
  stallBar  : Word
  stallPres : Word
  wdog      : BitVec 32
  ptroot    : Word
  hptroot   : Word
  tkovf     : Bool
  preempt   : BitVec 2
  sstate    : BitVec 3
  run       : BitVec 2
  deriving DecidableEq, Repr

/-! ### The strip buffer -/

/-- A byte's home: a byte of a Spire's scratchpad or scalar data memory, of device memory or of host memory. -/
inductive Loc
  | spad (p : Nat) (off : Nat)
  | sdm (p : Nat) (off : Nat)
  | port (p : Nat) (off : Nat)
  | dev (pa : Nat)
  | host (pa : Nat)
  deriving DecidableEq, Repr

/-- One single-copy atomic piece of a store: where, its virtual address for the dirty log, its bytes and its poison. -/
structure StoreUnit where
  loc   : Loc
  va    : Nat
  bytes : List Byte
  bad   : Bool
  /-- A GLB store, which the dirty log notes (11 R274). -/
  log   : Bool
  deriving DecidableEq, Repr

/-- A run of bytes at one home: location, first virtual address and count. -/
structure Piece where
  loc : Loc
  va  : Nat
  n   : Nat
  deriving DecidableEq, Repr

/-- A checked element of a strip-terminal access: number, address and home (05 R128). -/
structure Target where
  i : Nat
  a : Nat
  p : Piece
  deriving DecidableEq, Repr

/-- What one slot of a link carries: element count, elements, scale slice, poison of both (14 R314). -/
structure SlotData where
  n      : Nat
  data   : BitVec 16384
  scale  : BitVec 1024
  poison : BitVec 2048
  scaleBad : BitVec 128
  deriving DecidableEq, Repr

/-- An engine command with its operand values (09 R211): prefix word and payload words, s_pd, s_pa and s_pb. -/
structure CmdWords where
  w0 : BitVec 32
  w1 : BitVec 32
  w2 : BitVec 32
  w3 : BitVec 32
  d  : Word
  a  : Word
  b  : Word
  deriving DecidableEq, Repr

/-- An entry of the strip buffer (01 R28). -/
inductive BufEntry
  | store (units : List StoreUnit)
  | port (q : QIdx) (x : SlotData)
  | cmd (c : CmdWords)
  /-- A farm epoch to start, with the first range that a later `farm.next` of the strip has taken from it (09 R221). -/
  | farm (total base : Word) (taken : Option Nat)
  deriving DecidableEq, Repr

/-- Why the oldest instruction of a hart cannot proceed, in the order of 01 R38. -/
inductive Stall | slotIn | slotOut | mem | tok | bar | pres
  deriving DecidableEq, Repr

/-- The fault record of Table 11-4. -/
structure FaultRec where
  lhid   : Nat
  ctxid  : Nat
  detail : Nat
  kind   : Nat
  space  : Nat
  cause  : Nat
  addr   : Word
  info   : Word
  elem   : Nat
  deriving DecidableEq, Repr

/-- A granule of the link set with its state, and the count of consecutive failures (05 R134, R137). -/
structure Link where
  g      : Granule
  intact : Bool
  deriving DecidableEq, Repr

/-- A hart (01 R12). -/
structure Hart where
  id      : HartId
  /-- Team handle (HCR TEAM). -/
  handle  : Nat
  nhart   : Nat
  nspire  : Nat
  pmode   : BitVec 2
  /-- Physical Spire and hart slot (HPHYS). -/
  phys    : Nat
  slot    : Nat
  pc      : Word
  regs    : Regs
  hcr     : Hcr
  tk      : Vector (BitVec 16) 16
  /-- pending_N of the open strip (09 R217). -/
  tkPend  : Vector Nat 16
  inHandler : Bool
  serial    : Bool
  haltTime  : Nat
  /-- The strip: opening address, checkpoint, entries oldest first, charge, resident time in ns, emptiness (01 R26-R33). -/
  opened  : Word
  ckpt    : Regs
  buf     : List BufEntry
  charge  : Nat
  stripNs : Nat
  /-- No instruction has executed in the open strip (01 R29). -/
  fresh   : Bool
  links   : List Link
  /-- Consecutive failed vsc instructions by granule (05 R137). -/
  fails   : List (Granule × Nat)
  stall   : Option Stall
  /-- The stream register whose slot the instruction waits for. -/
  waitQ   : Option QIdx
  /-- The hart is parked in `await` or `bar.wait`, whose strips are not timed (01 R33). -/
  parked  : Bool
  /-- The element that a parked presence instruction presents at its bank (05 R140, R141). -/
  presAt  : Option Nat
  /-- The strip-terminal instruction in progress has begun performing (05 R128 item 3), its elements still to perform, those
  performed with the values read, kept until it completes (item 5), and the granules on which a `vsc` failed. -/
  begun   : Bool
  todo    : List Target
  got     : List (Nat × Nat × Bool)
  lost    : List Granule
  /-- The strip-terminal instruction in TERM: it has been fetched, and is not fetched again (05 R128, 01 Table 1-7). -/
  doing   : Option Instr
  /-- The hart's vector, mask and tile arrays are not in the live arrays of its Spire (15 R350). -/
  away    : Bool
  /-- Elements that a strip-terminal access performs in one step; 0 for all of them (log 66). -/
  pace    : Nat
  /-- The open strip has obtained a farm claim (09 R222). -/
  claimed : Bool
  /-- A GLB scalar load whose data returns by SCALAR_LOAD_RETURN: register, value, poison (04 R105). -/
  loads   : List (SReg × Word × Bool)
  /-- GLB scalar loads return later (log 6). -/
  lateGlb : Bool
  fault   : Option FaultRec
  /-- A pre-emption or a freeze waits at this hart (01 R32, 15 Table 15-1). -/
  preemptReq : Bool
  freezeReq  : Bool
  /-- A fabric fault takes the hart out (14 R342). -/
  fabricReq  : Bool
  /-- The hart counts as switched out (15 R347). -/
  out     : Bool
  deriving DecidableEq, Repr

/-! ### Memories -/

/-- A memory in canonical form: rising addresses, no zero byte; and the rising list of poisoned 8-byte words. -/
structure Mem where
  cells : List Host.Cell
  bad   : List Nat
  deriving DecidableEq, Repr

/-- The record of one scratchpad frame (11 R258, Table 11-6), key p * 64 + frame. -/
structure Frame where
  key      : Nat
  ctx      : Nat
  lsid     : Nat
  resident : Bool
  dirty    : Bool
  log      : Bool
  save     : Bool
  /-- A save that SPSAVE has asked for waits to take its snapshot (16 R372, R374). -/
  asked    : Bool
  /-- A restore for (ctx, lsid) is in progress (11 R259). -/
  restore  : Option (Nat × Nat)
  deriving DecidableEq, Repr

/-- The part of one GLB or HOST store within one block of 16 bytes, accepted but not yet at its home (10 R230, 03 R89): its
hart, the Spire and Cupola whose order point holds it. `level` 0 is the Spire's interface, 1 the Cupola's order point; a
HOST store is held at the CXL port. A store of a manager core has no hart. -/
structure Flight where
  hart  : Option HartId
  phys  : Nat
  level : Nat
  units : List StoreUnit
  deriving DecidableEq, Repr

/-- Where a translation is cached: the TLB of a Spire, or the translation cache of a die (11 R268). -/
inductive TlbPlace | spire (p : Nat) | die (d : Nat)
  deriving DecidableEq, Repr

/-- A cached translation (11 R268): place, context, space, first virtual address, size, entry flags and physical base. -/
structure TlbEntry where
  place : TlbPlace
  ctx  : Nat
  host : Bool
  va   : Nat
  size : Nat
  r    : Bool
  w    : Bool
  x    : Bool
  pa   : Nat
  deriving DecidableEq, Repr

/-- A cached non-leaf entry of a die's walkers (11 R268): the table of level `lv` for the addresses with prefix `pre`, which is
the virtual address shifted right by 12 + 9 * (lv + 1). -/
structure NonLeaf where
  die   : Nat
  ctx   : Nat
  host  : Bool
  lv    : Nat
  pre   : Nat
  table : Nat
  deriving DecidableEq, Repr

/-- An outstanding miss of a die (11 R269): context, space, 4 KiB virtual page, and the Spires that wait on it. -/
structure Miss where
  die   : Nat
  ctx   : Nat
  host  : Bool
  page  : Nat
  spires : List Nat
  deriving DecidableEq, Repr

/-- A presence element deferred at its bank (05 R140). -/
structure Deferred where
  hart : HartId
  p    : Nat
  w    : Nat
  /-- `vput` waits for empty, the others for full. -/
  put  : Bool
  deriving DecidableEq, Repr

/-- A reservation of a granule with the nanoseconds left: 4,096 cycles of the die clock are 2,560 ns (05 R137). -/
structure Reservation where
  g    : Granule
  hart : HartId
  left : Nat
  deriving DecidableEq, Repr

/-- A context: its registers and descriptor (11 R273, 12 R292, 13 R312, 15 R358). -/
structure Context where
  id       : Nat
  ptroot   : Word
  hptroot  : Word
  desc     : Nat
  cblog    : BitVec 64
  cbloglen : BitVec 32
  cblogseq : BitVec 64
  ovfbase  : BitVec 64
  ovflen   : BitVec 32
  ovfhwm   : BitVec 32
  ovfused  : BitVec 32
  cxsave   : BitVec 64
  cxslots  : BitVec 16
  /-- The first team that was launched in the context (11 R260). -/
  launched : Option Nat
  /-- Save slots in use, with the team that holds each (15 R351). -/
  slots    : List (Nat × Nat)
  deriving DecidableEq, Repr

/-- The fault block of a Cupola (11 R271, Table 11-6). -/
structure FaultRing where
  base : BitVec 64
  head : BitVec 8
  tail : BitVec 8
  held : List FaultRec
  irq  : Bool
  deriving DecidableEq, Repr

/-- The translation block of a die (11 R272, Table 11-6). -/
structure InvBlock where
  ctl    : BitVec 64
  va     : BitVec 64
  busy   : Bool
  queued : List (BitVec 64)
  /-- INVVA as it stood when the invalidation in progress started. -/
  goVa   : BitVec 64
  deriving DecidableEq, Repr

/-! ### Engines -/

/-- Where a placed command stands (13 R299-R304, R311). -/
inductive CmdState
  | queued
  /-- Parked on an unmapped page under a ticket; `write` on the destination side (13 R303). -/
  | parked (ticket : Nat) (write : Bool)
  /-- Begun: bytes read and not yet landed. -/
  | begun
  | ended (code : Nat)
  deriving DecidableEq, Repr

/-- A placed engine command: number, issuer, the context's Spire, engine, words, bytes landed, source bytes read
(value and poison) and source bytes kept for it from later stores of its hart (09 R211, 10 R244). -/
structure Cmd where
  k      : Nat
  hart   : HartId
  phys   : Nat
  engine : Nat
  words  : CmdWords
  landed : Nat
  read   : Option (List (Byte × Bool))
  shadow : List (Loc × Byte × Bool)
  /-- Every source byte has been read. -/
  full   : Bool
  st     : CmdState
  /-- Episode joined by a `coll` (13 R305). -/
  episode : Nat
  deriving DecidableEq, Repr

/-- One rank of a collective episode: rank number, command, and its source bytes (13 R305). -/
structure CollRank where
  rank : Nat
  cmd  : Nat
  deriving DecidableEq, Repr

/-- A collective episode of a team (13 R305-R310): joined ranks, result bytes once formed, parked items. -/
structure Episode where
  ctx    : Nat
  team   : Nat
  id     : Nat
  number : Nat
  ranks  : List CollRank
  /-- The reduction has been formed: one byte list with poison for each rank (13 R308). -/
  result : List (List (Byte × Bool))
  /-- Chunks parked on an unmapped page: rank, ticket, chunk; chunk none for a source read (13 R303, R309). -/
  parked : List (Nat × Nat × Option Nat)
  /-- Bytes of chunks that came before a rank joined: source rank, offset, bytes (13 R310). -/
  early  : List (Nat × Nat × List (Byte × Bool))
  deriving DecidableEq, Repr

/-- A parked landing of a `put.e` from another package (13 R311). -/
structure Landing where
  ticket : Nat
  x      : PutIn
  done   : Nat
  deriving DecidableEq, Repr

/-- A chunk on the overflow list of a context (13 R309, R310). -/
structure Overflow where
  ctx     : Nat
  team    : Nat
  id      : Nat
  episode : Nat
  rank    : Nat
  chunk   : Nat
  kind    : Nat
  /-- Receiving rank, byte offset and payload bytes. -/
  dst     : Nat
  off     : Nat
  len     : Nat
  blocks  : List Nat
  deriving DecidableEq, Repr

/-- A flit to another package that its source keeps (16 R375, R377): destination, sequence number, command, the port on which it last
went out, none while the sender holds it (16 R376), and the credits that its header returned there. -/
structure OutFlit where
  pkg    : Nat
  seq    : Nat
  cmd    : Nat
  port   : Option Nat
  credit : Nat
  deriving DecidableEq, Repr

/-! ### Fabric of a Cupola (14) -/

/-- States of a data slot (14 Table 14-1). -/
inductive SlotState | free | reserved | flying | landed | held
  deriving DecidableEq, Repr

/-- A slot of a data link: the slot number, its state and contents. A reserved slot remembers its hart. -/
structure Slot where
  no    : Nat
  st    : SlotState
  owner : Option HartId
  x     : SlotData
  /-- Position in the order in which the link releases slots. -/
  seq   : Nat
  deriving DecidableEq, Repr

/-- State of one data link of the active image. -/
structure LinkState where
  link  : Nat
  slots : List Slot
  next  : Nat
  deriving DecidableEq, Repr

/-- State of one node (14 R328, R329, 15 R357): terminal counts, permits, merge input, delay strip, controller words. -/
structure NodeState where
  node    : Nat
  counts  : List Nat
  permits : Nat
  merge   : Nat
  delay   : Option SlotData
  sent    : List Nat
  done    : List Nat
  iters   : Nat
  child   : Nat
  active  : Bool
  deriving DecidableEq, Repr

/-- A token in flight on a control link (14 R327). -/
structure Token where
  link : Nat
  bad  : Bool
  deriving DecidableEq, Repr

/-- Fabric states (14 Table 14-8). -/
inductive FabState | run | loading | drain | stopped | none
  deriving DecidableEq, Repr

/-- A load in progress (14 R331, R338): image address and what asked for it. -/
structure FabLoad where
  addr  : Nat
  /-- 0 a launch or resume, 1 FCMD.load, 2 a reconfiguration node. -/
  cause : Nat
  deriving DecidableEq, Repr

/-- The fabric of a Cupola. -/
structure Fabric where
  c      : Nat
  state  : FabState
  act    : Bool
  dreq   : Bool
  tovf   : Bool
  code   : BitVec 8
  widx   : BitVec 16
  fltKind : BitVec 8
  fltNode : BitVec 7
  fimg   : Word
  /-- Resident group: context, team, group number, groups. -/
  ctx    : Nat
  team   : Nat
  group  : Nat
  groups : Nat
  /-- Address of the active image, its words, and the words of the inactive bank. -/
  addr   : Nat
  image  : List (BitVec 64)
  inact  : List (BitVec 64)
  inactAddr : Nat
  load   : Option FabLoad
  links  : List LinkState
  nodes  : List NodeState
  tokens : List Token
  /-- Harts that wait in a delivery, by link (14 R316). -/
  waiting : List (HartId × Nat)
  deriving DecidableEq, Repr

/-! ### Distributor (12) -/

/-- A live task that does not run (12 R280, R281). -/
structure Task where
  ctx     : Nat
  kind    : Nat
  prio    : Nat
  pmode   : Nat
  cosched : Bool
  nspire  : Nat
  entry   : Word
  image   : Nat
  /-- Logical Spires of the image, 0 without one (12 R279). -/
  n       : Nat
  handle  : Nat
  succ    : List Nat
  payload : List Byte
  count   : Nat
  ready   : Bool
  /-- When it last became ready or was pre-empted, and the ageing levels gained (12 R284). -/
  since   : Nat
  aged    : Nat
  /-- Acceptance number. -/
  order   : Nat
  /-- Number of the team that enqueued it, if a team of this package did (15 R357). -/
  enq     : Option Nat
  /-- Ready number, for equal priorities. -/
  readyNo : Nat
  deriving DecidableEq, Repr

/-- An arrival-table entry (12 R282); `watch` is the acceptance number of its task. -/
structure Arrival where
  ctx    : Nat
  tag    : Nat
  total  : Nat
  landed : Nat
  watch  : Nat
  deriving DecidableEq, Repr

/-- A claim of a farm (09 R222). -/
structure Claim where
  lhid    : Nat
  start   : Nat
  count   : Nat
  pending : Bool
  deriving DecidableEq, Repr

/-- The farm of a team (12 R289). -/
structure Farm where
  started : Bool
  total   : Nat
  base    : Nat
  cursor  : Nat
  claims  : List Claim
  deriving DecidableEq, Repr

/-- One barrier of a team (09 R218, 12 R290): episode, arrivals in recorded order with their times. -/
structure Barrier where
  episode  : Nat
  arrivals : List (Nat × Nat)
  deriving DecidableEq, Repr

/-- Where a launched team stands. -/
inductive TeamState | loading | running | switchedOut | frozen
  deriving DecidableEq, Repr

/-- A launched team (01 R12, 12, 15). A switched-out team with `task.ready` waits for Spires. -/
structure Team where
  task    : Task
  st      : TeamState
  /-- Physical Spire by logical Spire, and the one that last held it (15 R352). -/
  place   : List (Option Nat)
  held    : List (Option Nat)
  /-- Package time of the last launch or resume, and QUANTUM has passed since then (12 R288). -/
  since   : Nat
  expired : Bool
  farm    : Farm
  bars    : List Barrier
  /-- Latest arrival of a hart on a barrier: lhid, id, episode (09 R220). -/
  latest  : List (Nat × Nat × Nat)
  /-- Save slot held (15 R351). -/
  saveSlot : Option Nat
  /-- Saved fabric state by group, with a pending load (14 R341, 15 R348). -/
  fabric  : List Fabric
  /-- Commands that a freeze withdrew: LHID and words (15 R353). -/
  cmds    : List (Nat × CmdWords)
  /-- A freeze is in progress (15 R353); a pre-emption of the whole team is (12 R288). -/
  freezing : Bool
  preempting : Bool
  /-- Logical Spires that a farm-only victim is releasing (12 R288). -/
  evict   : List Nat
  /-- NSTIME at the end of the freeze (15 Table 15-2a, I21). -/
  frozenAt : Nat
  /-- Next episode of each collective id by rank: id, rank, number (13 R305). -/
  colls   : List (Nat × Nat × Nat)
  /-- Arrival watches of an image, to install at placement (15 R359). -/
  arrs    : List (Arrival × Task)
  /-- Op 4 ends the team; its begun commands still run (15 R363). -/
  ending  : Bool
  /-- The saved fabric, n and image address that a resume on an alternative image gives up, until its load succeeds (15 R359,
  R362). -/
  orig    : Option (List Fabric × Nat × Nat)
  /-- The words of the fabric image, read at the placement of a launch (14 R319, R333). -/
  words   : List (BitVec 64)
  /-- The Strelran image from which the team's records come at its placement (15 R359). -/
  source  : Option Nat
  deriving DecidableEq, Repr

/-- A slot of the packet port (12 R278). -/
structure PktSlot where
  bytes : List Host.Cell
  code  : BitVec 8
  state : BitVec 2
  en    : Bool
  ctxid : BitVec 16
  /-- Binding latched at go. -/
  lEn   : Bool
  lCtx  : BitVec 16
  deriving DecidableEq, Repr

/-- The distributor (12). -/
structure Distributor where
  en       : Bool
  quantum  : BitVec 32
  ageint   : BitVec 32
  cCtx     : BitVec 16
  cHandle  : BitVec 32
  cResult  : BitVec 2
  /-- A cancellation is in progress. -/
  cBusy    : Bool
  csel     : BitVec 16
  slots    : List PktSlot
  tasks    : List Task
  teams    : List Team
  arrivals : List Arrival
  /-- Credits: context, handle, count (12 R281). -/
  credits  : List (Nat × Nat × Nat)
  /-- Tasks that complete while decrements wait for room in the credit table: context, own handle, successors still to decrement
  (12 Table 12-2, R281). -/
  dying    : List (Nat × Nat × List Nat)
  /-- Spires held for a task that pre-empted (12 R288): Spire, acceptance number of the task. -/
  holds    : List (Nat × Nat)
  accepted : Nat
  readied  : Nat
  deriving DecidableEq, Repr

/-- Team management registers (15 Table 15-4). -/
structure TmRegs where
  ctxid  : BitVec 16
  handle : BitVec 32
  op     : BitVec 4
  arg    : BitVec 32
  img    : BitVec 64
  len    : BitVec 64
  desc   : BitVec 64
  need   : BitVec 32
  fstat  : BitVec 8
  code   : BitVec 8
  busy   : Bool
  deriving DecidableEq, Repr

/-! ### Belfry (16) -/

/-- Speed-table entry and droop state of a Spire (16 R366-R369, R380). -/
structure Speed where
  p       : Nat
  ret     : Bool
  age     : BitVec 8
  fused   : BitVec 16
  sag     : Nat
  cap     : Nat
  /-- The rated clock in force, in MHz (16 R366). -/
  clk     : Nat
  /-- The droop detector holds a stretch. -/
  held    : Bool
  /-- NSTIME of the stretches of the last second, newest first; NSTIME of the last step up and of the last step down. -/
  recent  : List Nat
  upAt    : Nat
  downAt  : Nat
  eol     : BitVec 16
  slope   : BitVec 32
  deriving DecidableEq, Repr

/-- Health of a stack and its remap table (16 R379, R380). -/
structure Stack where
  s     : Nat
  eol   : BitVec 16
  /-- NSTIME of the corrected errors of the last day, newest first (11 R256). -/
  ces   : List Nat
  spare : Nat
  /-- Rows repaired by post-package repair, and rows remapped. -/
  repaired : List Nat
  remap    : List Nat
  deriving DecidableEq, Repr

/-- An Etesian port (16 R375-R377, R380). -/
structure Port where
  n      : Nat
  eol    : BitVec 16
  eye    : BitVec 8
  lanes  : BitVec 5
  fec    : BitVec 32
  /-- Lanes retired, a switch of the spare in progress, and link state. -/
  bad    : BitVec 5
  switching : Bool
  down   : Bool
  /-- The replay buffer, oldest first: package and sequence number of each flit whose credit has not come back. -/
  buf    : List (Nat × Nat)
  /-- Credits to return in the header of the next flit that goes out. -/
  owed   : Nat
  /-- The eye-margin limit that firmware has set (16 R380). -/
  limit  : BitVec 8
  deriving DecidableEq, Repr

/-- A Tramontane link (16 R373, R374). -/
inductive LinkUp | up | retraining | down
  deriving DecidableEq, Repr

/-- A flit of the die network: source die, destination die, and its sequence number between the two (16 R374). -/
structure DieFlit where
  src : Nat
  dst : Nat
  seq : Nat
  deriving DecidableEq, Repr

/-- One end of a Tramontane link (16 R373): consecutive failed replays of what it sends, and its replay buffer, oldest first, each flit
with the mark that the other end has taken it. -/
structure TramEnd where
  fails : Nat
  buf   : List (DieFlit × Bool)
  deriving DecidableEq, Repr

/-- A Tramontane link between two dies, a below b, with its ends at a and at b. -/
structure Tram where
  a       : Nat
  b       : Nat
  st      : LinkUp
  atA     : TramEnd
  atB     : TramEnd
  retired : Bool
  deriving DecidableEq, Repr

/-- An attestation mailbox (16 R383). -/
structure Mailbox where
  busy   : Bool
  status : BitVec 8
  op     : BitVec 8
  nonce  : BitVec 512
  report : List Byte
  sig    : List Byte
  deriving DecidableEq, Repr

/-- A retirement in progress (16 R378, R379): class, index, row, and the teams that must leave: context, number, resumed afterwards. -/
structure RetJob where
  cls   : Nat
  index : Nat
  row   : Nat
  teams : List (Nat × Nat × Bool)
  deriving DecidableEq, Repr

/-- The Belfry (16). -/
structure Belfry where
  speed   : List Speed
  hbm  : List Stack
  ports   : List Port
  trams   : List Tram
  /-- Retired routers (Cupola * 16 + router). -/
  routers : List Nat
  retcmd  : BitVec 64
  retcode : BitVec 8
  retWait : Option RetJob
  pwrlim  : BitVec 12
  pwrnow  : BitVec 12
  /-- NSTIME since which power has stayed below 95 % of the limit; Cupolas whose junction rule is in force (16 R369). -/
  lowAt   : Option Nat
  hot     : List Nat
  almpol  : BitVec 10
  almsrc  : BitVec 5
  zeroized : Bool
  stopped : Bool
  inReset : Bool
  /-- Boot has verified every stage, and the manager cores run; or the package is in recovery (16 R381). -/
  booted  : Bool
  recovery : Bool
  /-- Mailboxes: host's, then manager cores'. -/
  mbHost  : Mailbox
  mbMgr   : Mailbox
  /-- Requests in the order in which their ops were written; true is the manager cores' mailbox. -/
  mbQueue : List Bool
  /-- Measurement registers M0 to M3 (16 R381). -/
  meas    : Vector (BitVec 512) 4
  /-- Flash copies (an image number each) and the active one (16 R381, R383). -/
  flash0  : Nat
  flash1  : Nat
  flashAct : Bool
  /-- A new image lies in the inactive copy; it takes effect at the next reset. -/
  flashNew : Bool
  /-- Access-violation counter (00 Table 0-3). -/
  violations : Nat
  /-- The key store's identity key and the public key (16 R382); the anti-rollback counter (16 R381). -/
  key     : Option (List Byte)
  pub     : List Byte
  rollback : Nat
  /-- Corrected errors of the Spires' arrays (11 R256). -/
  corrected : Nat
  /-- Package groups and route table (16 R377). -/
  routes  : List (Nat × List Nat)
  groups  : List (Nat × List Nat)
  /-- Next sequence number to deliver and to send, by source die and destination die; next to deliver, by source package. -/
  tramSeq : List (Nat × Nat × Nat)
  tramNext : List (Nat × Nat × Nat)
  etSeq   : List (Nat × Nat)
  /-- Unacknowledged flits sent, next sequence number by package, packages without a route. -/
  unacked : List OutFlit
  sendSeq : List (Nat × Nat)
  unreach : List Nat
  deriving DecidableEq, Repr

/-! ### Inputs -/

/-- The parameters of a step that is not an instruction. -/
inductive StepArg
  | nothing
  | hart (h : HartId)
  | stream (h : HartId) (q : QIdx) (n : Nat)
  | nums (a b c : Nat)
  | value (p : Nat) (v : Word)
  | granule (g : Granule)
  | scrub (g : ScrubSite) (bad : Bool)
  | walk (p ctx : Nat) (host : Bool) (va : Word)
  | chunk (ctx team id ep rank chunk dst : Nat)
  | put (x : PutIn)
  | packet (src : PktSrc)
  | power (x : PowerSample)
  | hostAccess (x : HostAccess)
  | flit (x : FlitIn)
  | wear (x : WearReport)
  | alarm (src : Nat)
  | flag (b : Bool) (v : Word)
  | reg (x : RegWrite)
  deriving DecidableEq, Repr

/-- What the outside world, time and the scheduler do next (log 1). -/
inductive Input
  /-- A step of the part that is not an instruction. -/
  | event (i : Instr) (x : StepArg)
  /-- Time passes: nanoseconds, and the cycles of each Spire's clock in that time (log 2). -/
  | elapse (ns cycles : Nat)
  /-- A hart runs next. -/
  | run (h : HartId)
  /-- The instruction cache of a Spire keeps the block at a virtual address of a context (log 9). -/
  | keepBlock (p ctx : Nat) (va : Nat)
  /-- The runtime sets up a context (log 13). -/
  | context (x : Context)
  /-- GLB scalar loads of a hart return late, or not (log 6). -/
  | lateLoads (h : HartId) (on : Bool)
  /-- The strip-terminal accesses of a hart perform n elements in a step; 0 for all (log 66). -/
  | pace (h : HartId) (n : Nat)
  /-- A translation of Spire p misses, and waits in the die's table (11 R269). -/
  | miss (p ctx : Nat) (host : Bool) (va : Nat)
  /-- A memory-side cache replaces a device line (05 R136, 11 R263). -/
  | evict (line : Nat)
  /-- A store, and a load, of the manager core of Cupola c to device memory (10 Table 10-1); not to its registers. -/
  | mgrStore (c addr : Nat) (bytes : List Byte)
  | mgrLoad (c addr n : Nat)
  /-- The manager core of Cupola c, as the runtime or firmware, writes the register at a physical address (00 R7, 11 R276). -/
  | mgrWrite (c : Nat) (fw : Bool) (addr : Nat) (v : Word)
  /-- The host writes, and reads, bytes of BAR 0 (16 Table 16-3). -/
  | hostWrite (addr : Nat) (bytes : List Byte)
  | hostRead (addr n : Nat)
  /-- The manager core of Cupola c reads the register at a physical address, or a privileged HCR of a hart (01 R15, 11 R276). -/
  | mgrRead (c addr : Nat)
  /-- Die src sends a flit to die dst (16 R374). -/
  | flitSend (src dst : Nat)
  /-- Firmware loads a route, a package group, and a port's eye-margin limit (16 R377, R380; log 12). -/
  | route (pkg : Nat) (ports : List Nat)
  | pgroup (id : Nat) (members : List Nat)
  | eyeLimit (port : Nat) (v : BitVec 8)
  | hcrRead (h : HartId) (num : Nat)
  deriving DecidableEq, Repr

/-! ### The part -/

/-- The state of the package. -/
structure State where
  /-- The hart in focus, and all other launched harts. -/
  hart   : Hart
  others : List Hart
  /-- Device, host, scratchpad (p * 2^21 + offset) and scalar data memory (p * 2^16 + offset). The saved scalar data
  memory of logical Spire l of team number t (15 R349) lies at p = 512 * (t + 1) + l. -/
  dev    : Mem
  host   : Mem
  spad   : Mem
  sdm    : Mem
  /-- Poisoned words of the port buffers, p * 4096 + word (11 R256). -/
  portBad : List Nat
  /-- Full words of the scratchpads, p * 2^18 + word, rising (05 R138). -/
  full   : List Nat
  frames : List Frame
  flight : List Flight
  /-- HOST stores accepted by the CXL port whose completion has not returned (10 R230, 16 R372). -/
  hostOut : List Flight
  /-- Device lines that the host may hold, and those with a back-invalidate snoop outstanding (16 R372). -/
  hostLines : List Nat
  backInv   : List Nat
  /-- Cached translations, the walkers' non-leaf entries, and the dies' outstanding misses (11 R268, R269). -/
  tlb    : List TlbEntry
  nonLeaf : List NonLeaf
  misses : List Miss
  /-- Instruction-cache blocks: Spire, context, virtual address, 16 bytes (03 R89). -/
  icache : List (Nat × Nat × Nat × List Byte)
  deferred : List Deferred
  reservations : List Reservation
  /-- Owner context and team of the vector arrays of a Spire (15 R350). -/
  vecOwner : List (Nat × Nat × Nat)
  /-- The outgoing context set that a Cupola's context store holds for a Spire: Spire, context, team, logical Spire (15 R349). -/
  ctxStore : List (Nat × Nat × Nat × Nat)
  /-- CTXDESC by Spire (11 Table 11-6). -/
  ctxdesc : List (Nat × Nat)
  /-- The sequence counter of SC accesses, and the tickets whose elements have performed (05 R130, R131). -/
  sc     : BitVec 64
  scDone : BitVec 64
  nstime : Nat
  contexts : List Context
  rings  : List FaultRing
  invs   : List InvBlock
  cmds   : List Cmd
  nextCmd : Nat
  nextTicket : Nat
  episodes : List Episode
  landings : List Landing
  overflow : List Overflow
  /-- Landings of `put.e` that the port holds back, for want of an overflow block or while a retry waits, with the bytes landed
  (13 R310, R311). -/
  heldPuts : List (PutIn × Nat)
  fabrics : List Fabric
  dist   : Distributor
  tm     : TmRegs
  belfry : Belfry
  /-- Model fields: inputs to come (log 1), the argument of the event in progress, and the draw counter (log 10). -/
  agenda : List Input
  arg    : StepArg
  draw   : Nat
  /-- What the last access of a manager core returned: bytes with poison, and a register value (log 67). -/
  mgrData : List (Byte × Bool)
  mgrReg  : Word
  /-- What the last read of BAR 0 by the host returned (16 Table 16-3). -/
  barData : List Byte
  deriving DecidableEq, Repr

/-! ### Reset -/

/-- Empty memory. -/
def Mem.empty : Mem := ⟨[], []⟩
/-- A zero vector register. -/
def VReg.zero : VReg := ⟨0#16384, 0#1024, 0#2048, 0#128⟩
/-- A zero mask. -/
def MReg.zero : MReg := ⟨0#2048, 0#2048⟩
/-- A zero tile. -/
def Tile.zero : Tile := ⟨0#131072, 0#4096⟩
/-- An empty slot content. -/
def SlotData.zero : SlotData := ⟨0, 0#16384, 0#1024, 0#2048, 0#128⟩

/-- An idle stream register (09 Table 9-1). -/
def Stream.idle : Stream :=
  { kind := 0, dir := false, fmt := 0, space := 0, att := false, vreg := 0, lvk := 0, iw := false, done := false,
    flt := false, qa := 0, qb := 0, cons := false, pend := false, base := 0, abase := 0, d3 := 0, d4 := 0, d5 := 0,
    d6 := 0, n := 0, complete := false, lo := none, badPos := false, delivered := false, ctl := false, ahead := [] }

/-- HCRs of the checkpoint after package reset (00 R8, 01 Table 1-5). -/
def StripHcr.reset : StripHcr :=
  { vl := 0, ew := 0, mtr := 0, rmode := 0, fflags := 0, fenable := 0, mod0 := 0, mod1 := 0, mroot := 0, bnd := 0,
    bfpmode := 0, twg := 0, seed := 0 }

/-- Checkpointed registers after package reset; `m0` reads all ones by its accessor (01 R16). -/
def Regs.reset : Regs :=
  { s := Vector.replicate 32 0, sPoison := 0, v := Vector.replicate 32 VReg.zero, m := Vector.replicate 8 MReg.zero,
    a := Vector.replicate 4 Tile.zero, q := Vector.replicate 8 Stream.idle, h := StripHcr.reset }

/-- Other HCRs after package reset. -/
def Hcr.reset : Hcr :=
  { hphys := 0, stripn := 0, tvec := 0, tcause := 0, tepc := 0, telem := 0, tinfo := 0, replay := false, clock := 0, stallIn := 0,
    stallOut := 0, stallMem := 0, stallTok := 0, stallBar := 0, stallPres := 0, wdog := 0, ptroot := 0, hptroot := 0,
    tkovf := false, preempt := 0, sstate := 0, run := 0 }

/-- A hart that has not been launched (01 R16, Table 1-5: run = 0, every register 0; log 5). -/
def Hart.reset : Hart :=
  { id := ⟨0, 0, 0⟩, handle := 0, nhart := 0, nspire := 0, pmode := 0, phys := 0, slot := 0, pc := 0, regs := Regs.reset,
    hcr := Hcr.reset, tk := Vector.replicate 16 0, tkPend := Vector.replicate 16 0, inHandler := false, serial := false,
    haltTime := 0, opened := 0, ckpt := Regs.reset, buf := [], charge := 0, stripNs := 0, fresh := true, links := [],
    fails := [], stall := none, waitQ := none, parked := false, presAt := none, begun := false, todo := [], got := [],
    lost := [], doing := none, away := false, pace := 0, claimed := false, loads := [], lateGlb := false, fault := none,
    preemptReq := false, freezeReq := false, fabricReq := false, out := false }

/-- A fault block after reset (11 Table 11-6). -/
def FaultRing.reset : FaultRing := ⟨0, 0, 0, [], false⟩
/-- A translation block after reset. -/
def InvBlock.reset : InvBlock := ⟨0, 0, false, [], 0⟩
/-- A packet-port slot after reset (12 Tables 12-1 and 12-4). -/
def PktSlot.reset : PktSlot := ⟨[], 0, 0, false, 0, false, 0⟩

/-- The fabric of Cupola c after reset: state NONE (14 Table 14-9). -/
def Fabric.reset (c : Nat) : Fabric :=
  { c := c, state := .none, act := false, dreq := false, tovf := false, code := 0, widx := 0, fltKind := 0, fltNode := 0,
    fimg := 0, ctx := 0, team := 0, group := 0, groups := 0, addr := 0, image := [], inact := [], inactAddr := 0,
    load := none, links := [], nodes := [], tokens := [], waiting := [] }

/-- The distributor after reset (12 Table 12-4). -/
def Distributor.reset : Distributor :=
  { en := false, quantum := 100000, ageint := 1000000, cCtx := 0, cHandle := 0, cResult := 0, cBusy := false, csel := 0,
    slots := List.replicate 15 PktSlot.reset, tasks := [], teams := [], arrivals := [], credits := [], dying := [], holds := [],
    accepted := 0, readied := 0 }

/-- Team management after reset (15 Table 15-4). -/
def TmRegs.reset : TmRegs := ⟨0, 0, 0, 0, 0, 0, 0, 0, 0, 0, false⟩

/-- A speed-table entry after reset: fused and age are DESIGN CHOICES (log 12). -/
def Speed.reset (p : Nat) : Speed :=
  { p := p, ret := false, age := 0, fused := 1250, sag := 0, cap := 0, clk := 1250, held := false, recent := [], upAt := 0,
    downAt := 0, eol := 0xFFFF, slope := 0 }
/-- A stack after reset (16 Table 16-5; spare rows log 12). -/
def Stack.reset (s : Nat) : Stack := ⟨s, 0xFFFF, [], 0, [], []⟩
/-- An Etesian port after reset (16 Table 16-5). -/
def Port.reset (n : Nat) : Port := ⟨n, 0xFFFF, 0, 0b01111, 0, 0, false, false, [], 0, 0⟩
/-- A mailbox after reset. -/
def Mailbox.reset : Mailbox := ⟨false, 0, 0, 0, [], []⟩
/-- The 28 links of the full mesh (16 R373). -/
def tramReset : List Tram :=
  (List.range 8).flatMap fun b => (List.range b).map fun a => ⟨a, b, .up, ⟨0, []⟩, ⟨0, []⟩, false⟩

/-- The Belfry after reset (16 Table 16-5). -/
def Belfry.reset : Belfry :=
  { speed := (List.range 512).map Speed.reset, hbm := (List.range 16).map Stack.reset,
    ports := (List.range 32).map Port.reset, trams := tramReset, routers := [], retcmd := 0, retcode := 0, retWait := none,
    pwrlim := 3200, pwrnow := 0, lowAt := none, hot := [], almpol := 0, almsrc := 0, zeroized := false, stopped := false,
    inReset := false, booted := false, recovery := false, mbHost := Mailbox.reset, mbMgr := Mailbox.reset, mbQueue := [],
    meas := Vector.replicate 4 0, flash0 := 0, flash1 := 0, flashAct := false, flashNew := false, violations := 0, key := none,
    pub := [], rollback := 0, corrected := 0, routes := [], groups := [], tramSeq := [], tramNext := [],
    etSeq := [], unacked := [], sendSeq := [], unreach := [] }

/-- The package right after reset (00 R8): no hart launched, no team, no context, memories listing nothing. -/
def State.reset : State :=
  { hart := Hart.reset, others := [], dev := Mem.empty, host := Mem.empty, spad := Mem.empty, sdm := Mem.empty,
    portBad := [], full := [], frames := [], flight := [], hostOut := [], hostLines := [], backInv := [], tlb := [],
    nonLeaf := [], misses := [], icache := [], deferred := [], reservations := [], vecOwner := [], ctxStore := [], ctxdesc := [],
    sc := 0, scDone := 0, nstime := 0, contexts := [],
    rings := List.replicate 32 FaultRing.reset, invs := List.replicate 8 InvBlock.reset, cmds := [], nextCmd := 0,
    nextTicket := 0, episodes := [], landings := [], overflow := [], heldPuts := [], fabrics := (List.range 32).map Fabric.reset,
    dist := Distributor.reset, tm := TmRegs.reset, belfry := Belfry.reset, agenda := [], arg := .nothing, draw := 0,
    mgrData := [], mgrReg := 0, barData := [] }

end Sys2Proof.Machine
end

