-- ==== Sys2Proof/Machine/Ops.lean ====
section
/-! DEFINITION. The named operations: registers, memory, translation, the strip, taking an exception and its return,
fault records. -/
namespace Sys2Proof.Machine

/-! ### Outcomes of a meaning -/

/-- What a waiting instruction starts while it waits. -/
inductive Req
  | nothing
  /-- Restore of page `page` of Spire p for (ctx, lsid) (11 R259). -/
  | restore (p page ctx lsid : Nat)
  /-- A back-invalidate snoop of a device line (16 R372). -/
  | snoop (line : Nat)
  /-- A presence element is presented at its bank (05 R140). -/
  | present (x : Deferred)
  /-- A delivery of stream register q waits on a link, by Cupola and link number (14 R316). -/
  | slot (q : QIdx) (c link : Nat)
  /-- A write of stream register q waits for a slot of a link, by Cupola and link number, and keeps the n slots that the
  instruction has reserved there (14 R314, 08 R193). -/
  | out (q : QIdx) (c link n : Nat)
  /-- The hart parks in `await` or `bar.wait`, whose strip is not timed (01 R33). -/
  | park
  /-- A translation of Spire p misses, and waits for a walk (11 R269). -/
  | miss (p ctx : Nat) (host : Bool) (va : Nat)
  deriving DecidableEq, Repr

/-- Why an instruction does not complete as itself. -/
inductive Exc
  /-- A program trap: cause, element, and TINFO when it is not the instruction's own address (09 R225). -/
  | trap (cause elem : Nat) (info : Option Word)
  /-- A program trap that also sets the flt bit of stream register q (09 R206). -/
  | malformed (q : List QIdx) (elem : Nat)
  /-- A system fault: cause, detail, kind, space, address, element, and TINFO when not the instruction (11 R271). -/
  | sys (cause detail kind space : Nat) (addr elem : Nat) (info : Option Word)
  /-- The instruction waits (01 R38). -/
  | wait (c : Stall) (r : Req)
  /-- The machine stops. -/
  | stop (f : Fault)
  deriving DecidableEq, Repr

/-- A computation that may end in an exception. -/
abbrev M (α : Type) := Except Exc α

/-- Outcome of a step. -/
abbrev Out := Host.Outcome State Fault Refusal

/-- Trap causes of Table 9-9. -/
def causeIllegal : Nat := 0x01
def causeMisaligned : Nat := 0x02
def causePrivileged : Nat := 0x03
def causeFetch : Nat := 0x04
def causeLoad : Nat := 0x05
def causeStore : Nat := 0x06
def causeStream : Nat := 0x07
def causeAccess : Nat := 0x08
def causeCapacity : Nat := 0x09
def causeWatchdog : Nat := 0x0A
def causeFp : Nat := 0x0B
def causeMod : Nat := 0x0C
def causeCoord : Nat := 0x0D
def causePoison : Nat := 0x0E
def causeFabric : Nat := 0x0F
def causeBrk : Nat := 0x10
def causeTrap : Nat := 0x11

/-- The illegal-instruction trap (03 R78). -/
def illegal (elem : Nat := 0) : Exc := .trap causeIllegal elem none
/-- The poison trap (04 R99). -/
def poisonTrap (elem : Nat := 0) : Exc := .trap causePoison elem none
/-- Raise an exception under a condition. -/
def failIf (c : Bool) (e : Exc) : M Unit := if c then .error e else .ok ()

/-! ### Scalar and mask registers -/

/-- Read `s`r: `s0` reads zero (01 R16). -/
def Regs.getS (x : Regs) (r : SReg) : Word := if r = 0 then 0 else x.s[r]
/-- Poison bit of `s`r; `s0` is never poisoned (04 R99). -/
def Regs.badS (x : Regs) (r : SReg) : Bool := r ≠ 0 && x.sPoison.getLsbD r.val
/-- Write `s`r with its poison bit; writes to `s0` are discarded. -/
def Regs.setS (x : Regs) (r : SReg) (v : Word) (bad : Bool) : Regs :=
  if r = 0 then x else
    { x with s := x.s.set r v
             sPoison := if bad then x.sPoison ||| (1#32 <<< r.val) else x.sPoison &&& ~~~(1#32 <<< r.val) }
/-- Read a mask: `m0` reads all ones, clean (01 R16). -/
def Regs.getM (x : Regs) (r : MIdx) : MReg := if r = 0 then ⟨BitVec.allOnes 2048, 0⟩ else x.m[r]
/-- Write a mask; writes to `m0` are discarded. -/
def Regs.setM (x : Regs) (r : MIdx) (v : MReg) : Regs := if r = 0 then x else { x with m := x.m.set r v }
/-- Write a vector register. -/
def Regs.setV (x : Regs) (r : VIdx) (v : VReg) : Regs := { x with v := x.v.set r v }
/-- Write a tile. -/
def Regs.setA (x : Regs) (r : AIdx) (v : Tile) : Regs := { x with a := x.a.set r v }
/-- Write a stream register. -/
def Regs.setQ (x : Regs) (r : QIdx) (v : Stream) : Regs := { x with q := x.q.set r v }

/-- Read a scalar register of a hart. -/
def Hart.s (h : Hart) (r : SReg) : Word := h.regs.getS r
/-- Poison of a scalar register of a hart. -/
def Hart.bad (h : Hart) (r : SReg) : Bool := h.regs.badS r
/-- Write a scalar register of a hart. -/
def Hart.setS (h : Hart) (r : SReg) (v : Word) (bad : Bool) : Hart := { h with regs := h.regs.setS r v bad }

/-- Lanes per hart (01 Table 1-1). -/
def Hart.lanes (h : Hart) : Nat := 32 / 2 ^ h.pmode.toNat
/-- Harts per Spire (01 Table 1-1). -/
def Hart.perSpire (h : Hart) : Nat := 2 ^ h.pmode.toNat
/-- Logical Spire of a hart (01 R14). -/
def Hart.lsid (h : Hart) : Nat := h.id.lhid / h.perSpire
/-- Strip buffer capacity in bytes (01 Table 1-1). -/
def Hart.capacity (h : Hart) : Nat := h.lanes * 2048
/-- Element width of an EW code, in bits. -/
def ewBits (c : BitVec 3) : Nat := if c = 4 then 4 else 8 * 2 ^ c.toNat
/-- Current element width. -/
def Hart.ew (h : Hart) : Nat := ewBits h.regs.h.ew
/-- VL. -/
def Hart.vl (h : Hart) : Nat := h.regs.h.vl.toNat
/-- VLMAX for a width (01 R13). -/
def Hart.vlmax (h : Hart) (w : Nat) : Nat := h.lanes * 512 / w
/-- The value of HPHYS for a placement (01 Table 1-3). -/
def placedAt (phys slot : Nat) : BitVec 32 := BitVec.ofNat 32 (phys * 65536 + slot)
/-- Cupola of a Spire (16 R365). -/
def cupolaOf (p : Nat) : Nat := p / 16

/-! ### Memory -/

/-- The byte at an address; an unlisted address reads 0 (log 3). -/
def Mem.get (m : Mem) (a : Nat) : Byte := (lookupKey a m.cells).getD 0
/-- Write one byte, keeping the canonical form. -/
def Mem.set (m : Mem) (a : Nat) (b : Byte) : Mem :=
  { m with cells := if b = 0 then eraseKey a m.cells else insertKey a b m.cells }
/-- The word of an address is poisoned (10 R249). -/
def Mem.isBad (m : Mem) (a : Nat) : Bool := m.bad.contains (a / 8)
/-- Write bytes at rising addresses. -/
def Mem.setBytes (m : Mem) (a : Nat) : List Byte → Mem
  | [] => m
  | b :: bs => (m.set a b).setBytes (a + 1) bs
/-- Read `n` bytes. -/
def Mem.getBytes (m : Mem) (a : Nat) : Nat → List Byte
  | 0 => []
  | n + 1 => m.get a :: m.getBytes (a + 1) n
/-- Read a little-endian number of n bytes. -/
def Mem.getN (m : Mem) (a n : Nat) : Nat := ofBytes (m.getBytes a n)
/-- Write a little-endian number of n bytes, clean. -/
def Mem.setN (m : Mem) (a n v : Nat) : Mem := m.setBytes a (toBytes n v)
/-- Poison the words from number w, n of them. -/
def badRange (w : Nat) : Nat → List Nat → List Nat
  | 0, l => l
  | n + 1, l => badRange (w + 1) n (insertNat w l)
/-- Perform one store unit: clean data clears the poison of every word it covers whole; a poisoned unit poisons every
word it touches (10 R249). -/
def Mem.store (m : Mem) (a : Nat) (bytes : List Byte) (bad : Bool) : Mem :=
  let n := bytes.length
  let m' := m.setBytes a bytes
  if bad then { m' with bad := badRange (a / 8) (if n = 0 then 0 else (a + n - 1) / 8 - a / 8 + 1) m'.bad }
  else { m' with bad := m'.bad.filter fun w => !(decide (a ≤ 8 * w) && decide (8 * w + 8 ≤ a + n)) }

/-- Addresses strictly rise. -/
def rising : List Nat → Bool
  | [] => true
  | [_] => true
  | a :: b :: t => decide (a < b) && rising (b :: t)
/-- The canonical form: rising addresses, no zero byte, rising poisoned words. -/
def Mem.wf (m : Mem) : Bool := rising (m.cells.map (·.1)) && m.cells.all (fun c => c.2 != 0) && rising m.bad

/-- The cells of [lo, lo + n) moved to start at `at0`. -/
def Mem.slice (m : Mem) (lo n at0 : Nat) : Mem :=
  { cells := (m.cells.filter fun c => decide (lo ≤ c.1) && decide (c.1 < lo + n)).map fun c => (c.1 - lo + at0, c.2)
    bad := (m.bad.filter fun w => decide (lo ≤ 8 * w) && decide (8 * w < lo + n)).map fun w => w - lo / 8 + at0 / 8 }
/-- Replace the range that starts at `at0` by a slice of n bytes that starts there. -/
def Mem.paste (m x : Mem) (at0 n : Nat) : Mem :=
  { cells := m.cells.filter (fun c => decide (c.1 < at0)) ++ x.cells ++ m.cells.filter fun c => decide (at0 + n ≤ c.1)
    bad := m.bad.filter (fun w => decide (8 * w < at0)) ++ x.bad ++ m.bad.filter fun w => decide (at0 + n ≤ 8 * w) }
/-- Copy n bytes with poison from one memory to another. -/
def Mem.copyRange (src dst : Mem) (lo n at0 : Nat) : Mem := dst.paste (src.slice lo n at0) at0 n

/-- A doubleword of device memory. -/
def State.dev8 (s : State) (a : Nat) : Nat := s.dev.getN a 8
/-- Write a doubleword of device memory. -/
def State.setDev8 (s : State) (a v : Nat) : State := { s with dev := s.dev.store a (toBytes 8 v) false }

/-! ### Harts, contexts, teams -/

/-- Every launched hart. -/
def State.harts (s : State) : List Hart := s.hart :: s.others
/-- Find a hart. -/
def State.findHart (s : State) (i : HartId) : Option Hart := s.harts.find? fun h => h.id == i && h.hcr.run != 0
/-- Apply a change to every hart. -/
def State.mapHarts (s : State) (f : Hart → Hart) : State := { s with hart := f s.hart, others := s.others.map f }
/-- Apply a change to one hart. -/
def State.updHart (s : State) (i : HartId) (f : Hart → Hart) : State :=
  s.mapHarts fun h => if h.id == i && h.hcr.run != 0 then f h else h
/-- Bring a hart into focus. -/
def State.focus (s : State) (i : HartId) : State :=
  if s.hart.id == i then s else
  match s.others.find? fun h => h.id == i with
  | none => s
  | some h => { s with hart := h, others := s.hart :: s.others.filter fun x => !(x.id == i) }
/-- A context by number. -/
def State.context (s : State) (c : Nat) : Option Context := s.contexts.find? fun x => x.id == c
/-- Change a context. -/
def State.updContext (s : State) (c : Nat) (f : Context → Context) : State :=
  { s with contexts := s.contexts.map fun x => if x.id == c then f x else x }
/-- A team by context and number (the acceptance number of its task). -/
def State.team (s : State) (c h : Nat) : Option Team := s.dist.teams.find? fun t => t.task.ctx == c && t.task.order == h
/-- Change a team. -/
def State.updTeam (s : State) (c h : Nat) (f : Team → Team) : State :=
  { s with dist := { s.dist with teams := s.dist.teams.map fun t => if t.task.ctx == c && t.task.order == h then f t else t } }
/-- Change a Cupola's fabric. -/
def State.updFabric (s : State) (c : Nat) (f : Fabric → Fabric) : State :=
  { s with fabrics := s.fabrics.map fun x => if x.c == c then f x else x }
/-- A Cupola's fabric. -/
def State.fabric (s : State) (c : Nat) : Option Fabric := s.fabrics.find? fun x => x.c == c
/-- The rated clock of a speed-table entry (16 Table 16-2). -/
def Speed.mhz (x : Speed) : Nat := max 600 (x.fused.toNat - 25 * (x.age.toNat + min 15 (x.sag + x.cap)))
/-- The speed-table entry of a Spire. -/
def State.speedOf (s : State) (p : Nat) : Speed := (s.belfry.speed.find? fun x => x.p == p).getD (Speed.reset p)
/-- Physical Spire of a logical Spire of a team, when placed. -/
def Team.spireOf (t : Team) (lsid : Nat) : Option Nat := (t.place[lsid]?).join

/-- Where the scalar data memory of a logical Spire lies: its Spire's, or the saved copy's (15 R349, R352). -/
def Team.sdmSpire (t : Team) (lsid : Nat) : Nat := (t.spireOf lsid).getD (512 * (t.task.order + 1) + lsid)
/-- Harts in a Spire of a team, and harts in the team (01 R14). -/
def Team.perSpire (t : Team) : Nat := 2 ^ t.task.pmode
def Team.nhart (t : Team) : Nat := t.task.nspire * t.perSpire

/-! ### Fault records (11 R271) -/

/-- The four doublewords of a record (11 Table 11-4). -/
def FaultRec.words (r : FaultRec) : List Nat :=
  [r.lhid % 2 ^ 32 * 2 ^ 32 + r.ctxid % 2 ^ 16 * 2 ^ 16 + r.detail * 4096 + r.kind * 1024 + r.space * 256 + r.cause,
   r.addr.toNat, r.info.toNat, r.elem % 2 ^ 13]

/-- Why a step of the part does not complete: the machine stops, a device line that it writes is one that the host may hold, and its
snoop goes out first (16 R372), or it waits. -/
inductive Halt
  | stop (f : Fault)
  | hold (line : Nat)
  | wait
  deriving DecidableEq, Repr

/-- The address range lies in device memory. -/
def devOk (a n : Nat) : Except Fault Unit := if a + n ≤ Config.devEnd then .ok () else .error (.noSuchAddress a)

/-- The first device line of a range that the host may hold (16 R372). -/
def State.heldLine (s : State) (a n : Nat) : Option Nat :=
  if n = 0 then none else s.hostLines.find? fun l => decide (a / 64 ≤ l) && decide (l ≤ (a + n - 1) / 64)

/-- A back-invalidate snoop of a device line goes out (16 R372). -/
def State.snoop (s : State) (line : Nat) : State :=
  { s with backInv := if s.backInv.contains line then s.backInv else s.backInv ++ [line] }

/-- The stack that holds a device address: bit 8 selects one of its die's two (11 R262). -/
def stackOf (a : Nat) : Nat := 2 * (a / Config.dieBytes) + b2n (bitAt a 8)

/-- A range of device memory touches a row that is being copied to its spare: accesses to it wait (16 R379). -/
def State.copying (s : State) (a n : Nat) : Bool :=
  s.belfry.retWait.any fun j =>
    j.cls == 4 && (List.range n).any fun i => stackOf (a + i) == j.index && Config.rowOf (a + i) == j.row

/-- The link of two dies carries flits. -/
def Belfry.tramUp (b : Belfry) (x y : Nat) : Bool :=
  b.trams.any fun t => ((t.a == x && t.b == y) || (t.a == y && t.b == x)) && t.st == .up && !t.retired

/-- The detour of traffic between two dies: the lowest-numbered die with both links up (16 R373). -/
def Belfry.detour (b : Belfry) (x y : Nat) : Option Nat :=
  (List.range Config.dies).find? fun z => z != x && z != y && b.tramUp x z && b.tramUp z y

/-- Some path joins two dies; traffic between dies that none joins waits (16 R374). -/
def Belfry.joined (b : Belfry) (x y : Nat) : Bool := x == y || b.tramUp x y || (b.detour x y).isSome

/-- The die of a Spire; the agents that stand on no Spire are on die 0 (16 Table 16-1). -/
def dieOf (p : Nat) : Nat := if p < Config.spires then p / 64 else 0

/-- An access of n bytes from Spire p to a home waits: no path joins the two dies, or the row is being copied (16 R374, R379). -/
def State.farFrom (s : State) (p : Nat) (l : Loc) (n : Nat) : Bool :=
  match l with
  | .spad q _ | .sdm q _ | .port q _ => !s.belfry.joined (dieOf p) (dieOf q)
  | .dev a => !s.belfry.joined (dieOf p) (a / Config.dieBytes) || s.copying a n
  | .host _ => !s.belfry.joined (dieOf p) 0

/-- A range of device memory that an agent on Spire p may write now; the agents that stand on no Spire are Spire 512. -/
def State.devFree (s : State) (p a n : Nat) : Except Halt Unit :=
  match devOk a n with
  | .error f => .error (.stop f)
  | .ok _ => match s.heldLine a n with
    | some line => .error (.hold line)
    | none => if s.farFrom p (.dev a) n then .error .wait else .ok ()

/-- Break the links on every device line of a range. -/
def State.breakLines (s : State) (a n : Nat) : State :=
  s.mapHarts fun h =>
    { h with links := h.links.map fun l => match l.g with
        | .line x => if decide (a / 64 ≤ x) && decide (x ≤ (a + n - 1) / 64) then { l with intact := false } else l
        | .spad _ _ => l }

/-- A store of the part itself to device memory, clean; it breaks links as a store does (05 R136). -/
def State.devStore (s : State) (a : Nat) (bytes : List Byte) : State :=
  State.breakLines { s with dev := s.dev.store a bytes false } a bytes.length

/-- The outcome of a step of the part. -/
def State.outcome (s : State) (r : Except Halt State) : Host.Outcome State Fault Refusal :=
  match r with
  | .ok t => .next t
  | .error (.stop f) => .fault f
  | .error (.hold line) => .next (s.snoop line)
  | .error .wait => .next s

/-- Write the held records of a Cupola's ring in order while the ring has room, and while the host does not hold the line of the
next and its die can reach it (11 R271, 16 R372, R374). -/
def State.drainRing (s : State) (c : Nat) : Nat → Except Fault State
  | 0 => .ok s
  | fuel + 1 =>
    match s.rings[c]? with
    | none => .ok s
    | some r =>
      match r.held with
      | [] => .ok s
      | x :: t =>
        if r.base.toNat / 8192 = 0 ∨ r.tail + 1 = r.head then .ok s else
        let a := r.base.toNat / 8192 * 8192 + 32 * r.tail.toNat
        match s.devFree (16 * c) a 32 with
        | .error (.stop f) => .error f
        | .error (.hold line) => .ok (s.snoop line)
        | .error .wait => .ok s
        | .ok _ =>
          State.drainRing { s.devStore a (x.words.flatMap (toBytes 8)) with
            rings := s.rings.set c { r with held := t, tail := r.tail + 1, irq := true } } c fuel

/-- Change the fault block of Cupola c, then write held records. -/
def State.withRing (s : State) (c : Nat) (f : FaultRing → FaultRing) : Except Fault State :=
  match s.rings[c]? with
  | none => .ok s
  | some r => State.drainRing { s with rings := s.rings.set c (f r) } c (r.held.length + 2)

/-- Add a record to a Cupola's ring, held when there is no ring or no room. -/
def State.record (s : State) (c : Nat) (x : FaultRec) : Except Fault State := s.withRing c fun r => { r with held := r.held ++ [x] }

/-! ### The strip: opening and discarding (01 R26-R30) -/

/-- Open a strip at the pc: checkpoint of the registers as they stand, empty buffer. -/
def Hart.openStrip (h : Hart) : Hart :=
  let regs := { h.regs with q := h.regs.q.map fun x => { x with delivered := false } }
  { h with opened := h.pc, regs := regs, ckpt := regs, buf := [], charge := 0, stripNs := 0, fresh := true,
           tkPend := Vector.replicate 16 0, loads := [], presAt := none, begun := false, todo := [], got := [], lost := [],
           doing := none, parked := false, claimed := false, stall := none, hcr := { h.hcr with sstate := 0 } }

/-- Discard of a hart's strip (01 R30): checkpointed registers return, the buffer drops, the pc is the opening
instruction; counters, trap registers and token counters stay. -/
def Hart.discard (h : Hart) : Hart :=
  { h with regs := { h.ckpt with q := h.ckpt.q.map fun x => { x with ahead := [] } }, pc := h.opened, buf := [], charge := 0,
           stripNs := 0, fresh := true, tkPend := Vector.replicate 16 0, loads := [], presAt := none, begun := false, todo := [],
           got := [], lost := [], doing := none, parked := false, claimed := false, stall := none }

/-- Cancel the output-slot reservations of a hart's strip (01 R30, 14 Table 14-1). -/
def Fabric.cancel (f : Fabric) (i : HartId) : Fabric :=
  { f with
    links := f.links.map fun l =>
      { l with slots := l.slots.map fun x =>
          if x.st = .reserved ∧ x.owner = some i then { x with st := .free, owner := none } else x }
    waiting := f.waiting.filter fun w => !(w.1 == i) }

/-- Withdraw what a discarded strip of hart i had started outside the hart: reservations and deferred elements. -/
def State.withdraw (s : State) (i : HartId) : State :=
  { s with fabrics := s.fabrics.map fun f => f.cancel i, deferred := s.deferred.filter fun d => !(d.hart == i) }

/-- Discard the strip of the hart in focus. -/
def State.discardHere (s : State) : State := { s.withdraw s.hart.id with hart := s.hart.discard }

/-! ### Taking an exception, and the return from one -/

/-- Deliver a system fault of the hart in focus after its discard: record, then OUT (11 R271). -/
def State.sysFault (s : State) (x : FaultRec) : Except Fault State :=
  State.record { s with hart := { s.hart with fault := some x, hcr := { s.hart.hcr with sstate := 3 } } } (cupolaOf s.hart.phys) x

/-- Deliver a program trap after the discard or commit: to TVEC, or to the runtime when TVEC = 0 or the handler runs
(09 R224, R225). TEPC is given. -/
def State.deliver (s : State) (cause elem : Nat) (tepc info : Word) : Except Fault State :=
  let h := s.hart
  if h.hcr.tvec = 0 ∨ h.inHandler then
    State.sysFault s
      { lhid := h.id.lhid, ctxid := h.id.ctx, detail := 0, kind := 0, space := 0, cause := cause, addr := 0, info := info,
        elem := elem }
  else
    .ok { s with hart :=
      ({ h with inHandler := true, pc := h.hcr.tvec,
                hcr := { h.hcr with tcause := BitVec.ofNat 8 cause, tepc := tepc, tinfo := info,
                                    telem := BitVec.ofNat 13 elem } }).openStrip }

/-- A program trap that discards the strip (09 R225); it ends a serial mark (15 R345) and sets HSTAT.preempt to 0
(01 R31). -/
def State.programTrap (s : State) (cause elem : Nat) (info : Word) : Except Fault State :=
  let t := s.discardHere
  State.deliver { t with hart := { t.hart with serial := false, hcr := { t.hart.hcr with preempt := 0 } } } cause elem s.hart.opened info

/-- Set flt of stream registers, in the checkpoint too: it stands after the discard (09 R206). -/
def Regs.setFlt (x : Regs) (qs : List QIdx) : Regs :=
  qs.foldl (fun r q => r.setQ q { r.q[q] with flt := true }) x

/-- Reserve the first free slot of a link for a hart or a node. -/
def LinkState.reserve (l : LinkState) (owner : Option HartId) : LinkState :=
  match minBy (·.no) (l.slots.filter fun x => x.st == .free) with
  | none => l
  | some y =>
    { l with next := l.next + 1
             slots := l.slots.map fun x => if x.no = y.no then { x with st := .reserved, owner := owner, seq := l.next } else x }

/-- The slots of a link that a hart has reserved. -/
def LinkState.owned (l : LinkState) (i : HartId) : Nat := (l.slots.filter fun x => x.st == .reserved && x.owner == some i).length

/-- Reserve slots for a hart until it owns n. -/
def LinkState.reserveTo (l : LinkState) (i : HartId) (n : Nat) : Nat → LinkState
  | 0 => l
  | k + 1 => if n ≤ (l.reserveTo i n k).owned i then l.reserveTo i n k else (l.reserveTo i n k).reserve (some i)

/-- A translation of Spire p misses and waits in the table of its die: it joins an outstanding miss of its page; with the table
full it waits at its Spire (11 R269). -/
def State.addMiss (s : State) (p ctx : Nat) (host : Bool) (va : Nat) : State :=
  let d := p / 64
  let same := fun (m : Miss) => m.die == d && m.ctx == ctx && m.host == host && m.page == va / 4096
  if s.misses.any same then
    { s with misses := s.misses.map fun m => if same m && !m.spires.contains p then { m with spires := m.spires ++ [p] } else m }
  else if (s.misses.filter fun m => m.die == d).length < Config.missTable then
    { s with misses := s.misses ++ [⟨d, ctx, host, va / 4096, [p]⟩] }
  else s

/-- Start what a waiting instruction asks for. -/
def State.request (s : State) (r : Req) : State :=
  match r with
  | .nothing => s
  | .restore p page ctx lsid =>
    let key := p * 64 + page
    let old := (s.frames.find? fun f => f.key == key).getD ⟨key, 0, 0, false, false, false, false, false, none⟩
    if old.restore.isSome then s
    else { s with frames := { old with restore := some (ctx, lsid) } :: s.frames.filter fun f => !(f.key == key) }
  | .snoop line => s.snoop line
  | .present x => { s with deferred := if s.deferred.contains x then s.deferred else s.deferred ++ [x] }
  | .park => { s with hart := { s.hart with parked := true } }
  | .miss p ctx host va => s.addMiss p ctx host va
  | .out q c link n =>
    State.updFabric { s with hart := { s.hart with waitQ := some q } } c fun f =>
      { f with links := f.links.map fun l => if l.link = link then l.reserveTo s.hart.id n n else l }
  | .slot q c link =>
    State.updFabric { s with hart := { s.hart with waitQ := some q } } c fun f =>
      { f with waiting := if f.waiting.contains (s.hart.id, link) then f.waiting else f.waiting ++ [(s.hart.id, link)] }

/-- Take an exception of the hart in focus: the one operation that traps, faults and waits go through
(01 Table 1-6, 09 R225, 11 R271). -/
def State.take (s : State) (e : Exc) : Out :=
  match e with
  | .trap cause elem info =>
    match s.programTrap cause elem (info.getD s.hart.pc) with
    | .ok t => .next t
    | .error f => .fault f
  | .malformed qs elem =>
    let h := s.hart
    match (State.programTrap { s with hart := { h with ckpt := h.ckpt.setFlt qs } } causeCoord elem h.pc) with
    | .ok t => .next t
    | .error f => .fault f
  | .sys cause detail kind space addr elem info =>
    match s.discardHere.sysFault
      { lhid := s.hart.id.lhid, ctxid := s.hart.id.ctx, detail := detail, kind := kind, space := space, cause := cause,
        addr := BitVec.ofNat 64 addr, info := info.getD s.hart.pc, elem := elem } with
    | .ok t => .next t
    | .error f => .fault f
  | .wait c r => .next (State.request { s with hart := { s.hart with stall := some c, parked := false } } r)
  | .stop f => .fault f

/-- `teret`'s return, after the commit (09 R226, 15 R345): in_handler cleared, pc := TEPC, a strip opens, serial when
REPLAY was 1. -/
def Hart.trapReturn (h : Hart) : Hart :=
  { h with inHandler := false, pc := h.hcr.tepc &&& ~~~3#64, serial := h.hcr.replay,
           hcr := { h.hcr with replay := false } }.openStrip

/-! ### Completion of an instruction -/

/-- Move past an instruction of n bytes; the strip is no longer empty. -/
def Hart.advance (h : Hart) (n : Nat) : Hart :=
  { h with pc := h.pc + BitVec.ofNat 64 n, fresh := false, stall := none }

/-- An instruction inside a strip: its effect on the state, then the next instruction. -/
def plainN (n : Nat) (s : State) (f : State → M State) : Out :=
  match f s with
  | .ok t => .next { t with hart := t.hart.advance n }
  | .error e => s.take e

/-- A short instruction inside a strip. -/
def plain (s : State) (f : State → M State) : Out := plainN 4 s f

/-- A short instruction that changes its hart alone. -/
def plainH (s : State) (f : Hart → M Hart) : Out := plain s fun s => (f s.hart).map fun h => { s with hart := h }

/-- A control transfer: the effect sets the pc itself. -/
def jumpH (s : State) (f : Hart → M Hart) : Out :=
  match f s.hart with
  | .ok h => .next { s with hart := { h with fresh := false, stall := none } }
  | .error e => s.take e

/-! ### Translation (11 R264-R268) -/

/-- Why a lookup finds no leaf: what a walk meets; an entry that no path leads to or whose row is being copied (16 R374, R379); or the
die's table of misses, in which it waits (11 R269). -/
inductive WalkErr | notMapped | malformed | outOfRange | away | pending
  deriving DecidableEq, Repr

/-- A leaf: first virtual address and size of what it maps, its physical base and permissions. -/
structure Leaf where
  va   : Nat
  size : Nat
  pa   : Nat
  r    : Bool
  w    : Bool
  x    : Bool
  deriving DecidableEq, Repr

/-- Page size of a leaf at a level. -/
def leafSize (lv : Nat) (sz64 : Bool) : Nat := if sz64 then 65536 else 4096 * 512 ^ lv

/-- An entry is malformed at a level and index (11 R265). -/
def malformed (host : Bool) (lv ix e : Nat) : Bool :=
  let addr := field e 12 40 * 4096
  let leaf := bitAt e 1
  let sz := bitAt e 5
  field e 52 12 != 0 || field e 6 6 != 0 || (leaf && lv == 3) || (!leaf && lv == 0)
    || (!leaf && field e 2 4 != 0) || (sz && (lv != 0 || ix % 16 != 0))
    || (leaf && addr % leafSize lv sz != 0) || (!(leaf && host) && Config.devEnd ≤ addr)

/-- The leaf that an entry makes. -/
def mkLeaf (e va size : Nat) : Leaf :=
  { va := va / size * size, size := size, pa := field e 12 40 * 4096, r := bitAt e 2, w := bitAt e 3, x := bitAt e 4 }

/-- A walk from table t at level lv downward (11 R266); `away` names the entries that cannot be read now. -/
def walkAt (dev : Mem) (away : Nat → Bool) (host : Bool) (va : Nat) : Nat → Nat → Except WalkErr Leaf
  | lv, t =>
    let ix := field va (12 + 9 * lv) 9
    let g := dev.getN (t + 8 * (ix / 16 * 16)) 8
    let e := dev.getN (t + 8 * ix) 8
    if away (t + 8 * ix) || (lv == 0 && away (t + 8 * (ix / 16 * 16))) then .error .away
    else if lv = 0 ∧ bitAt g 0 ∧ bitAt g 5 then
      if malformed host 0 (ix / 16 * 16) g then .error .malformed else .ok (mkLeaf g va 65536)
    else if !bitAt e 0 then .error .notMapped
    else if malformed host lv ix e then .error .malformed
    else if bitAt e 1 then .ok (mkLeaf e va (leafSize lv false))
    else
      match lv with
      | 0 => .error .malformed
      | l + 1 => walkAt dev away host va l (field e 12 40 * 4096)

/-- A non-leaf entry that a die's walkers hold leads to the table of its level for an address (11 R268). -/
def NonLeaf.covers (e : NonLeaf) (die ctx : Nat) (host : Bool) (va : Nat) : Bool :=
  e.die == die && e.ctx == ctx && e.host == host && e.pre == va / 2 ^ (12 + 9 * (e.lv + 1))

/-- walk(va, root) for Spire p (11 R266), from the lowest table that the walkers of its die hold for the address (R268). -/
def State.walk (s : State) (p ctx : Nat) (host : Bool) (root va : Nat) : Except WalkErr Leaf :=
  let t := field root 12 40 * 4096
  let away := fun (a : Nat) => s.farFrom p (.dev a) 8
  if Config.devEnd ≤ t then .error .outOfRange else
  match minBy (·.lv) (s.nonLeaf.filter fun e => e.covers (p / 64) ctx host va) with
  | some e => walkAt s.dev away host va e.lv e.table
  | none => walkAt s.dev away host va 3 t

/-- An entry of a translation cache covers an address. -/
def TlbEntry.covers (e : TlbEntry) (ctx : Nat) (host : Bool) (va : Nat) : Bool :=
  e.ctx == ctx && e.host == host && decide (e.va ≤ va) && decide (va < e.va + e.size)
/-- A translation that Spire p finds: in its TLB, else in the translation cache of its die (11 R268). -/
def State.cached (s : State) (p ctx : Nat) (host : Bool) (va : Nat) : Option Leaf :=
  ((s.tlb.find? fun e => e.place == .spire p && e.covers ctx host va).or
    (s.tlb.find? fun e => e.place == .die (p / 64) && e.covers ctx host va)).map fun e => ⟨e.va, e.size, e.pa, e.r, e.w, e.x⟩

/-- Kinds of access, the codes of Table 11-4. -/
inductive AccKind | load | store | fetch | stream
  deriving DecidableEq, Repr
/-- Code of a kind. -/
def AccKind.code : AccKind → Nat
  | .load => 0
  | .store => 1
  | .fetch => 2
  | .stream => 3
/-- Page-fault cause of a kind (11 R267). -/
def AccKind.cause : AccKind → Nat
  | .load => causeLoad
  | .store => causeStore
  | .fetch => causeFetch
  | .stream => causeStream

/-- Permissions an access needs. -/
structure Perm where
  r : Bool
  w : Bool
  x : Bool
  deriving DecidableEq, Repr
/-- Load, store, fetch, and atomic permissions. -/
def permR : Perm := ⟨true, false, false⟩
def permW : Perm := ⟨false, true, false⟩
def permX : Perm := ⟨false, false, true⟩
def permRW : Perm := ⟨true, true, false⟩

/-- A miss of Spire p waits: its page is outstanding in the table of its die, or the table is full (11 R269). The agents that stand on
no Spire walk at once (log 8). -/
def State.missWaits (s : State) (p ctx : Nat) (host : Bool) (va : Nat) : Bool :=
  decide (p < Config.spires) &&
    (s.misses.any (fun m => m.die == p / 64 && m.ctx == ctx && m.host == host && m.page == va / 4096)
      || decide (Config.missTable ≤ (s.misses.filter fun m => m.die == p / 64).length))

/-- The leaf of an address for Spire p: in its TLB, in the cache of its die, or by a walk (11 R268, R269). -/
def State.lookup (s : State) (p ctx : Nat) (host : Bool) (root va : Nat) : Except WalkErr Leaf :=
  match s.cached p ctx host va with
  | some l => .ok l
  | none => if s.missWaits p ctx host va then .error .pending else s.walk p ctx host root va

/-- What goes wrong on an access: cause and detail, a page to restore, a home that it cannot reach now, or a walk to wait for. -/
inductive AccErr
  | bad (cause detail : Nat)
  | page (p page ctx lsid : Nat)
  /-- No path joins the dies, or the row is being copied to its spare (16 R374, R379). -/
  | far
  /-- The translation waits for a walk (11 R269). -/
  | miss (p ctx : Nat) (host : Bool) (va : Nat)
  deriving DecidableEq, Repr

/-- Result of a translation for Spire p: physical address, or why there is none. -/
def State.translate (s : State) (p ctx : Nat) (host : Bool) (root : Nat) (kind : AccKind) (perm : Perm) (va : Nat) :
    Except AccErr Nat :=
  if 2 ^ 48 ≤ va then .error (.bad causeAccess 3) else
  match s.lookup p ctx host root va with
  | .error .notMapped => .error (.bad kind.cause 0)
  | .error .malformed => .error (.bad causeAccess 2)
  | .error .outOfRange => .error (.bad causeAccess 3)
  | .error .away => .error .far
  | .error .pending => .error (.miss p ctx host va)
  | .ok l =>
    if (perm.r && !l.r) || (perm.w && !l.w) || (perm.x && !l.x) then .error (.bad causeAccess 1)
    else .ok (l.pa + (va - l.va))

/-- The first n elements of a list that satisfy p, and every other one: a cache of n places keeps its newest entries. -/
def keepNewest (p : α → Bool) : Nat → List α → List α
  | _, [] => []
  | n, x :: t =>
    if p x then match n with
      | 0 => keepNewest p 0 t
      | k + 1 => x :: keepNewest p k t
    else x :: keepNewest p n t

/-- The set of a die's translation cache that an entry belongs to (11 R268; log 8). -/
def TlbEntry.set (e : TlbEntry) : Nat := Config.tlbSet e.ctx e.host e.va % (Config.dieTlbSize / Config.dieTlbWays)

/-- An entry enters a translation cache: a full TLB replaces its oldest entry, a die's cache the oldest of a full set (11 R268; log 8). -/
def State.fillTlb (s : State) (e : TlbEntry) : State :=
  let rest := s.tlb.filter fun x => x != e
  { s with tlb := match e.place with
      | .spire _ => keepNewest (fun x => x.place == e.place) Config.tlbSize (e :: rest)
      | .die _ =>
        if (rest.filter fun x => x.place == e.place).length < Config.dieTlbWays then e :: rest
        else keepNewest (fun x => x.place == e.place && x.set == e.set) Config.dieTlbWays (e :: rest) }

/-- The non-leaf entries that a walk to a leaf of a size reads: the tables of its lower levels (11 R266, R268). -/
def walkTables (dev : Mem) (root va size die ctx : Nat) (host : Bool) : List NonLeaf :=
  let t3 := field root 12 40 * 4096
  let next := fun (t lv : Nat) => field (dev.getN (t + 8 * field va (12 + 9 * lv) 9) 8) 12 40 * 4096
  let t2 := next t3 3
  let t1 := next t2 2
  [(⟨die, ctx, host, 2, va / 2 ^ 39, t2⟩ : NonLeaf)]
    ++ (if size < 2 ^ 30 then [⟨die, ctx, host, 1, va / 2 ^ 30, t1⟩] else [])
    ++ (if size < 2 ^ 21 then [⟨die, ctx, host, 0, va / 2 ^ 21, next t1 1⟩] else [])

/-- A walk for Spire p has found a leaf: the die's caches take it, and so do the TLBs of p and of every Spire that waits on a page of
the leaf, whose misses end (11 R268, R269). -/
def State.fillWalk (s : State) (p ctx : Nat) (host : Bool) (va : Nat) (l : Leaf) (nl : List NonLeaf) : State :=
  let d := p / 64
  let hit := fun (m : Miss) => m.die == d && m.ctx == ctx && m.host == host && decide (l.va ≤ m.page * 4096) && decide (m.page * 4096 < l.va + l.size)
  let ps := ((s.misses.filter hit).flatMap (·.spires) ++ [p]).eraseDups
  let entry := fun (pl : TlbPlace) => (⟨pl, ctx, host, l.va, l.size, l.r, l.w, l.x, l.pa⟩ : TlbEntry)
  let s := ps.foldl (fun s q => s.fillTlb (entry (.spire q))) (s.fillTlb (entry (.die d)))
  { s with misses := s.misses.filter fun m => !hit m && !(m.die == d && m.ctx == ctx && m.host == host && m.page == va / 4096)
           nonLeaf := keepNewest (fun x => x.die == d) Config.nonLeafSize (nl ++ s.nonLeaf.filter fun x => !nl.contains x) }

/-- The caches after an access of Spire p to an address that has a leaf: its own TLB holds the leaf, from the die's cache or from the
walk (11 R268, R269). -/
def State.look (s : State) (p ctx : Nat) (host : Bool) (root va : Nat) : State :=
  if s.tlb.any fun e => e.place == .spire p && e.covers ctx host va then s else
  match s.cached p ctx host va with
  | some l => s.fillTlb ⟨.spire p, ctx, host, l.va, l.size, l.r, l.w, l.x, l.pa⟩
  | none => match s.walk p ctx host root va with
    | .ok l => s.fillWalk p ctx host va l (walkTables s.dev root va l.size (p / 64) ctx host)
    | .error _ => s

/-! ### Resolving an access to its homes (04 Table 4-3, 05 Table 5-3) -/

/-- Classes of access in Table 5-3. -/
inductive AccClass | load | store | atomic | presence
  deriving DecidableEq, Repr

/-- Who accesses: context, team, logical Spire and physical Spire, table roots. -/
structure Who where
  ctx   : Nat
  team  : Nat
  lsid  : Nat
  phys  : Nat
  root  : Nat
  hroot : Nat
  deriving DecidableEq, Repr

/-- The identity under which a hart accesses memory. -/
def Hart.who (h : Hart) : Who := ⟨h.id.ctx, h.id.team, h.lsid, h.phys, h.hcr.ptroot.toNat, h.hcr.hptroot.toNat⟩

/-- The frame of a scratchpad byte is resident for its owner (11 R259). -/
def State.resident (s : State) (p off ctx lsid : Nat) : Bool :=
  s.frames.any fun f => f.key == p * 64 + off / 32768 && f.resident && f.restore.isNone && f.ctx == ctx && f.lsid == lsid

/-- A byte of a logical Spire's scratchpad. -/
def State.spadLoc (s : State) (p off ctx lsid : Nat) : Except AccErr Loc :=
  if s.resident p off ctx lsid then .ok (.spad p off) else .error (.page p (off / 32768) ctx lsid)

/-- The home of one byte address of a space. -/
def State.home (s : State) (w : Who) (space : Space) (cls : AccClass) (kind : AccKind) (perm : Perm) (a : Nat) :
    Except AccErr Loc :=
  match space with
  | .loc =>
    if a < Config.spadBytes then s.spadLoc w.phys a w.ctx w.lsid
    else if a < 0x210000 ∧ (cls = .load ∨ cls = .store) then .ok (.sdm w.phys (a - 0x200000))
    else if 0x210000 ≤ a ∧ a < 0x218000 ∧ cls = .load then .ok (.port w.phys (a - 0x210000))
    else .error (.bad causeAccess 4)
  | .peer =>
    let ls := a / 2 ^ 21
    match s.team w.ctx w.team with
    | none => .error (.bad causeAccess 4)
    | some t =>
      if 2 ^ 30 ≤ a ∨ t.task.nspire ≤ ls then .error (.bad causeAccess 4) else
      match t.spireOf ls with
      | none => .error (.bad kind.cause 0)
      | some p => s.spadLoc p (a % 2 ^ 21) w.ctx ls
  | .glb =>
    if cls = .presence then .error (.bad causeAccess 4) else
    match s.translate w.phys w.ctx false w.root kind perm a with
    | .ok pa => .ok (.dev pa)
    | .error e => .error e
  | .host =>
    if cls = .atomic ∨ cls = .presence then .error (.bad causeAccess 4) else
    match s.translate w.phys w.ctx true w.hroot kind perm a with
    | .ok pa => .ok (.host pa)
    | .error e => .error e

/-- Region of a LOC address: scratchpad, scalar data memory, port buffer, or none (04 Table 4-3, 05 Table 5-3). -/
def locRegion (a : Nat) : Nat := if a < 0x200000 then 0 else if a < 0x210000 then 1 else if a < 0x218000 then 2 else 3

/-- All bytes of an access lie within one target: a LOC access within one region, a PEER access within one window of 2 MiB
(04 R103, 05 R120, Table 5-3). -/
def oneTarget (space : Space) (a n : Nat) : Bool :=
  match space with
  | .loc => locRegion a == locRegion ((a + n - 1) % 2 ^ 64)
  | .peer => a / 2 ^ 21 == (a + n - 1) / 2 ^ 21
  | _ => true

/-- The pieces of an access of n bytes within one target, cut at 4 KiB boundaries, so that each piece lies in one page. The error
names the first failing address. A store waits at its commit, not here. -/
def State.pieces (s : State) (w : Who) (space : Space) (cls : AccClass) (kind : AccKind) (perm : Perm) (a n : Nat) :
    Except (AccErr × Nat) (List Piece) :=
  if n = 0 then .ok [] else
  if !oneTarget space a n then .error (.bad causeAccess 4, a) else
  let one := fun (x m : Nat) =>
    match s.home w space cls kind perm x with
    | .ok l => if cls != AccClass.store && s.farFrom w.phys l m then Except.error (AccErr.far, x) else .ok (Piece.mk l x m)
    | .error e => .error (e, x)
  let n1 := min n (4096 - a % 4096)
  match one a n1 with
  | .error e => .error e
  | .ok p =>
    if n1 = n then .ok [p] else
    match one ((a + n1) % 2 ^ 64) (n - n1) with
    | .error e => .error e
    | .ok q => .ok [p, q]

/-- The caches after an access of a hart to its pieces: those of GLB and HOST were translated (11 R269). -/
def State.warm (s : State) (w : Who) (space : Space) (ps : List Piece) : State :=
  match space with
  | .loc | .peer => s
  | .glb => ps.foldl (fun s p => s.look w.phys w.ctx false w.root p.va) s
  | .host => ps.foldl (fun s p => s.look w.phys w.ctx true w.hroot p.va) s

/-- The exception of an access error at an element. -/
def accExc (space : Space) (kind : AccKind) (elem : Nat) (e : AccErr × Nat) : Exc :=
  match e.1 with
  | .bad cause detail => .sys cause detail kind.code (match space with
    | .loc => 0
    | .peer => 1
    | .glb => 2
    | .host => 3) e.2 elem none
  | .page p page ctx lsid => .wait .mem (.restore p page ctx lsid)
  | .far => .wait .mem .nothing
  | .miss p ctx host va => .wait .mem (.miss p ctx host va)

/-! ### Reading bytes (04 R105, 10 R230) -/

/-- Byte i after a location. -/
def Loc.plus (l : Loc) (i : Nat) : Loc :=
  match l with
  | .spad p o => .spad p (o + i)
  | .sdm p o => .sdm p (o + i)
  | .port p o => .port p (o + i)
  | .dev a => .dev (a + i)
  | .host a => .host (a + i)

/-- Offset of one location from another in the same array. -/
def Loc.diff (a b : Loc) : Option Nat :=
  match a, b with
  | .spad p x, .spad q y => if p = q ∧ y ≤ x then some (x - y) else none
  | .sdm p x, .sdm q y => if p = q ∧ y ≤ x then some (x - y) else none
  | .dev x, .dev y => if y ≤ x then some (x - y) else none
  | .host x, .host y => if y ≤ x then some (x - y) else none
  | _, _ => none

/-- The byte that a store unit holds for a location. -/
def StoreUnit.at (u : StoreUnit) (l : Loc) : Option (Byte × Bool) :=
  match l.diff u.loc with
  | none => none
  | some i => (u.bytes[i]?).map fun b => (b, u.bad)

/-- The newest byte for a location in a list of units, oldest first. -/
def newest (us : List StoreUnit) (l : Loc) : Option (Byte × Bool) :=
  us.foldl (fun acc u => (u.at l).or acc) none

/-- The store units of a strip buffer, oldest first. -/
def bufUnits (b : List BufEntry) : List StoreUnit :=
  b.flatMap fun e => match e with
    | .store us => us
    | _ => []

/-! ### Words and endpoints of the fabric image (14 R318-R321) -/

/-- Source and destination endpoints of a LINK word. -/
def linkSrc (w : BitVec 64) : Nat := field w.toNat 19 18
def linkDst (w : BitVec 64) : Nat := field w.toNat 1 18
/-- The link is a control link. -/
def linkCtl (w : BitVec 64) : Bool := bitAt w.toNat 59
/-- The number of LINK, NODE and CTRL words of an image (14 Table 14-2); the words begin after the header. -/
def imgLinks (img : List (BitVec 64)) : Nat := field ((img[1]?).getD 0).toNat 0 16
def imgNodes (img : List (BitVec 64)) : Nat := field ((img[1]?).getD 0).toNat 16 16
def imgCtrls (img : List (BitVec 64)) : Nat := field ((img[1]?).getD 0).toNat 32 16
/-- LINK word number i. -/
def imgLink (img : List (BitVec 64)) (i : Nat) : BitVec 64 := (img[8 + i]?).getD 0
/-- Logical Spire, port and group offset of a port endpoint: class 0, or class 3 (14 Table 14-3). -/
def epPort (ep : Nat) : Option (Nat × Nat × Nat) :=
  if field ep 15 3 = 0 then some (field ep 11 4, field ep 0 4, 0)
  else if field ep 15 3 = 3 then some (field ep 11 4, field ep 0 4, field ep 4 7)
  else none

/-- The group k whose endpoint of offset g names a port of f's group: each group has a link of its own, kept in its
fabric (14 R320). -/
def Fabric.homeGroup (f : Fabric) (g : Nat) : Nat :=
  if f.groups = 0 then f.group else (f.group + f.groups - g % f.groups) % f.groups

/-- The fabric of group k of the team of f; one without slots when that group is not placed. -/
def State.groupFabric (s : State) (f : Fabric) (k : Nat) : Fabric :=
  if k = f.group then f else
  (s.fabrics.find? fun x => x.ctx == f.ctx && x.team == f.team && x.group == k && x.state != .none).getD
    { Fabric.reset Config.cupolas with state := .stopped, image := f.image }

/-- The data link whose source (or destination) is port q of logical Spire l of the group of f. -/
def State.portInstance (s : State) (f : Fabric) (l q : Nat) (src : Bool) : Option (Fabric × Nat) :=
  (List.range (imgLinks f.image)).findSome? fun i =>
    let w := imgLink f.image i
    match epPort (if src then linkSrc w else linkDst w) with
    | some (l', q', g) => if !linkCtl w ∧ l' = l ∧ q' = q then some (s.groupFabric f (f.homeGroup g), i) else none
    | none => none

/-- Change the fabric of group k of a team, in place or saved. -/
def State.updGroup (s : State) (ctx team k : Nat) (g : Fabric → Fabric) : State :=
  let up := fun (f : Fabric) => if f.ctx = ctx ∧ f.team = team ∧ f.group = k ∧ f.state ≠ .none then g f else f
  State.updTeam { s with fabrics := s.fabrics.map up } ctx team fun t => { t with fabric := t.fabric.map up }

/-- Logical Spire that stands on a physical Spire. -/
def Team.lsidAt (t : Team) (p : Nat) : Option Nat := t.place.findIdx? (· == some p)

/-- A byte of a slot held in a port buffer, 0 where no slot lies (11 R257, log 11). -/
def State.portByte (s : State) (p off : Nat) : Byte × Bool :=
  let none' : Byte × Bool := (0, s.portBad.contains (p * 4096 + off / 8))
  match s.fabric (cupolaOf p) with
  | none => none'
  | some f =>
    match s.team f.ctx f.team with
    | none => none'
    | some t =>
      match t.lsidAt p with
      | none => none'
      | some ls =>
        let size := 64 * (32 / t.perSpire)
        let hit := (List.range 8).findSome? fun q =>
          (s.portInstance f (if t.task.n = 0 then 0 else ls % t.task.n) q false).bind fun x =>
            x.1.links.findSome? fun l => if l.link ≠ x.2 then none else l.slots.findSome? fun y =>
              let b := Config.slotOffset l.link y.no size
              if b ≤ off ∧ off < b + size ∧ (y.st = .landed ∨ y.st = .held) then
                some (BitVec.ofNat 8 (field y.x.data.toNat (8 * (off - b)) 8), bitAt y.x.poison.toNat (off - b))
              else none
        let y := hit.getD (0, false)
        (y.1, y.2 || s.portBad.contains (p * 4096 + off / 8))

/-- Poison that the scrubber has placed on the bytes of a slot of n bytes in a port buffer (11 R256). -/
def State.slotPoison (s : State) (p at0 n : Nat) : Nat :=
  if s.portBad.isEmpty then 0 else
  (List.range n).foldl (fun x i => if s.portBad.contains (p * 4096 + (at0 + i) / 8) then x + 2 ^ i else x) 0

/-- New contents of a slot of n bytes clear what the scrubber has placed on its words. -/
def State.clearSlot (s : State) (p at0 n : Nat) : State :=
  { s with portBad := s.portBad.filter fun w => !(decide (p * 32768 + at0 < 8 * w + 8) && decide (8 * w < p * 32768 + at0 + n)) }

/-- The byte that memory itself holds. -/
def State.rawByte (s : State) (l : Loc) : Byte × Bool :=
  match l with
  | .spad p o => (s.spad.get (p * 2 ^ 21 + o), s.spad.isBad (p * 2 ^ 21 + o))
  | .sdm p o => (s.sdm.get (p * 2 ^ 16 + o), s.sdm.isBad (p * 2 ^ 16 + o))
  | .port p o => s.portByte p o
  | .dev a => (s.dev.get a, s.dev.isBad a)
  | .host a => (s.host.get a, s.host.isBad a)

/-- An accepted GLB store is held on the path of Spire p: at its interface, or at the order point of its Cupola. -/
def Flight.onPath (f : Flight) (p : Nat) : Bool :=
  (f.level == 0 && f.phys == p) || (f.level == 1 && cupolaOf f.phys == cupolaOf p)

/-- Accepted stores in the order in which the points hold them: a Cupola's order point stands before its Spires' interfaces. -/
def pathOrder (l : List Flight) : List Flight := (l.filter fun f => f.level == 1) ++ l.filter fun f => f.level != 1

/-- Accepted stores that answer a load made on Spire p, the one that answers last: the Spire's interface before the Cupola's
order point (10 R230). -/
def State.behind (s : State) (p : Nat) : List StoreUnit :=
  (pathOrder (s.flight.filter fun f => f.onPath p)).flatMap (·.units) ++ s.hostOut.flatMap (·.units)

/-- A byte as an agent on Spire p sees it: order points, then memory. -/
def State.seenByte (s : State) (p : Nat) (l : Loc) : Byte × Bool := (newest (s.behind p) l).getD (s.rawByte l)

/-- A byte as the manager core of Cupola c sees it: its Cupola's order point, then memory (10 Table 10-1, R230). -/
def State.mgrByte (s : State) (c : Nat) (l : Loc) : Byte × Bool :=
  (newest ((s.flight.filter fun f => f.level == 1 && cupolaOf f.phys == c).flatMap (·.units)) l).getD (s.rawByte l)

/-- A byte as a hart's own load sees it: newest buffered store first (04 R105, 05 R125). -/
def State.ownByte (s : State) (h : Hart) (l : Loc) : Byte × Bool :=
  (newest (bufUnits h.buf) l).getD (s.seenByte h.phys l)

/-- The bytes of pieces, by a byte reader. -/
def readPieces (rd : Loc → Byte × Bool) (ps : List Piece) : List (Byte × Bool) :=
  ps.flatMap fun p => (List.range p.n).map fun i => rd (p.loc.plus i)

/-- Value bytes under the poison code are free (log 10): byte i of draw d. -/
def freeBytes (d : Nat) (i : Nat) : List (Byte × Bool) → List (Byte × Bool)
  | [] => []
  | (b, bad) :: t => ((if bad then Config.poisonByte d i else b), bad) :: freeBytes d (i + 1) t

/-- Little-endian value and poison of the bytes. -/
def byteVal (bs : List (Byte × Bool)) : Nat × Bool := (ofBytes (bs.map (·.1)), bs.any (·.2))

/-! ### Performing stores -/

/-- The link granule of a byte (05 R134). -/
def Loc.granule (l : Loc) : Option Granule :=
  match l with
  | .spad p o => some (.spad p (o / 8))
  | .dev a => some (.line (a / 64))
  | _ => none

/-- Break every link on a granule, except those of one hart (05 R136). -/
def State.breakLinks (s : State) (g : Granule) (keep : Option HartId) : State :=
  s.mapHarts fun h =>
    if some h.id = keep then h
    else { h with links := h.links.map fun l => if l.g = g then { l with intact := false } else l }

/-- Note a write of a scratchpad byte in its frame (11 R258, R275). -/
def State.markFrame (s : State) (p off : Nat) : State :=
  { s with frames := s.frames.map fun f =>
      if f.key = p * 64 + off / 32768 then { f with dirty := true, log := true } else f }

/-- The agent's context and Spire in whose name a store is made. -/
structure Origin where
  ctx  : Nat
  phys : Nat
  deriving DecidableEq, Repr

/-- The descriptor of a context: its own address. -/
def State.descOf (s : State) (ctx : Nat) : Nat := ((s.context ctx).map (·.desc)).getD 0
/-- The descriptor in force on Spire p for a context (11 R273): that of CTXDESC when it names the context, else the context's. -/
def State.descAt (s : State) (o : Origin) : Nat :=
  match s.ctxdesc.find? fun x => x.1 == o.phys with
  | some x => if x.2 ≠ 0 ∧ s.dev8 x.2 % 65536 = o.ctx then x.2 else s.descOf o.ctx
  | none => s.descOf o.ctx
/-- Doubleword n of the descriptor in force. -/
def State.descWord (s : State) (o : Origin) (n : Nat) : Nat := s.dev8 (s.descAt o + 8 * n)

/-- The byte and bit of the dirty log for a virtual address (11 R274). -/
def State.logBit (s : State) (o : Origin) (va : Nat) : Option (Nat × Nat) :=
  let logva := s.descWord o 4
  let n := (va - logva) / 65536
  if bitAt (s.descWord o 0) 16 ∧ logva ≤ va ∧ n < s.descWord o 5 then some (s.descWord o 3 + n / 8, n % 8) else none

/-- Set the dirty-log bit of a GLB store (11 R274). -/
def State.logStore (s : State) (o : Origin) (va : Nat) : State :=
  match s.logBit o va with
  | none => s
  | some (a, b) => { s with dev := s.dev.set a (s.dev.get a ||| (1#8 <<< b)) }

/-- A byte as an engine reads it: HOST stores that the CXL port holds, then memory (10 Table 10-2). -/
def State.engineByte (s : State) (l : Loc) : Byte × Bool := (newest (s.hostOut.flatMap (·.units)) l).getD (s.rawByte l)

/-- The offset of a location within its array. -/
def Loc.off (l : Loc) : Nat :=
  match l with
  | .spad _ o => o
  | .sdm _ o => o
  | .port _ o => o
  | .dev a => a
  | .host a => a
/-- The location k bytes before. -/
def Loc.less (l : Loc) (k : Nat) : Loc :=
  match l with
  | .spad p o => .spad p (o - k)
  | .sdm p o => .sdm p (o - k)
  | .port p o => .port p (o - k)
  | .dev a => .dev (a - k)
  | .host a => .host (a - k)
/-- The first byte of the aligned 8-byte word of a location. -/
def Loc.word (l : Loc) : Loc := l.less (l.off % 8)

/-- Keep for the commands of a hart that have not read all of their source the aligned words in which a store is about to
replace bytes, so that each source word is read whole (09 R211, 10 R233, R244 items 2 and 3). -/
def State.shadow (s : State) (i : HartId) (u : StoreUnit) : State :=
  let words := ((List.range u.bytes.length).map fun k => (u.loc.plus k).word).eraseDups
  let old := fun (w : Loc) => (List.range 8).map fun k => (w.plus k, s.engineByte (w.plus k))
  { s with cmds := s.cmds.map fun c =>
      if c.hart == i && !c.full then
        { c with shadow := c.shadow ++ (words.filter fun w => !c.shadow.any fun x => x.1 == w).flatMap old }
      else c }

/-- Write a unit at its home: bytes, poison, links, frame and dirty log. `keep` is the hart whose links stay. -/
def State.write (s : State) (o : Origin) (keep : Option HartId) (u : StoreUnit) : State :=
  let s := match u.loc.granule with
    | some g => s.breakLinks g keep
    | none => s
  match u.loc with
  | .spad p a => { (s.markFrame p a) with spad := s.spad.store (p * 2 ^ 21 + a) u.bytes u.bad }
  | .sdm p a => { s with sdm := s.sdm.store (p * 2 ^ 16 + a) u.bytes u.bad }
  | .port _ _ => s
  | .dev a =>
    let t := { s with dev := s.dev.store a u.bytes u.bad }
    if u.log then t.logStore o u.va else t
  | .host a => { s with host := s.host.store a u.bytes u.bad }

/-- A unit cut at multiples of k bytes. -/
def StoreUnit.cut (k : Nat) (u : StoreUnit) : Nat → List StoreUnit
  | 0 => [u]
  | fuel + 1 =>
    let n := k - u.loc.off % k
    if u.bytes.length ≤ n then [u]
    else { u with bytes := u.bytes.take n } ::
      StoreUnit.cut k { u with loc := u.loc.plus n, va := u.va + n, bytes := u.bytes.drop n } fuel

/-- Write a unit of any length at its home, word by word: links and frames are per word. -/
def State.writeAll (s : State) (o : Origin) (keep : Option HartId) (u : StoreUnit) : State :=
  (u.cut 8 u.bytes.length).foldl (fun s x => s.write o keep x) s

/-- A device line that the host may hold and that a store of a unit writes, its dirty-log line included (16 R372). -/
def State.hostHolds (s : State) (o : Origin) (u : StoreUnit) : Option Nat :=
  match u.loc with
  | .dev a =>
    match s.heldLine a u.bytes.length with
    | some l => some l
    | none => if u.log then (s.logBit o u.va).bind fun x => s.heldLine x.1 1 else none
  | _ => none

/-- The frame of a scratchpad byte is being saved: writes to it wait until the save ends (11 R261). -/
def State.saving (s : State) (l : Loc) : Bool :=
  match l with
  | .spad p o => s.frames.any fun f => f.key == p * 64 + o / 32768 && f.save
  | _ => false

/-- A committing store must wait: its frame is being saved, or no path leads to its scratchpad or to the host port. A GLB store waits at
its Spire. -/
def State.shut (s : State) (p : Nat) (u : StoreUnit) : Bool :=
  s.saving u.loc || match u.loc with
    | .dev _ => false
    | l => s.farFrom p l u.bytes.length

/-- A unit of an accepted store cannot reach its home now. -/
def Flight.far (f : Flight) (s : State) : Bool := f.units.any fun u => s.farFrom f.phys u.loc u.bytes.length

/-! ### Accepted stores (10 R230, R232) -/

/-- The block of 16 bytes that an accepted store writes. -/
def Flight.block (f : Flight) : Option (Bool × Nat) :=
  match f.units with
  | [] => none
  | u :: _ => match u.loc with
    | .dev a => some (false, a / 16)
    | .host a => some (true, a / 16)
    | _ => none
/-- Two accepted stores write in one block: they reach it in order. -/
def Flight.clash (f g : Flight) : Bool := f.block == g.block
/-- A store that a point holds before another, when it stands first in path order. -/
def Flight.before (f g : Flight) : Bool :=
  if f.level = 1 then cupolaOf f.phys == cupolaOf g.phys else g.level != 1 && f.phys == g.phys
/-- In whose name an accepted store is made. -/
def Flight.origin (f : Flight) : Origin := ⟨(f.hart.map (·.ctx)).getD 0, f.phys⟩

/-- The stores of a list in order that satisfy p, and those before them that must reach a home first (10 R232). -/
def needed (bef : Flight → Flight → Bool) (p : Flight → Bool) : List Flight → List Flight
  | [] => []
  | f :: t =>
    let n := needed bef p t
    if p f || n.any (fun g => bef f g && f.clash g) then f :: n else n

/-- Write accepted GLB stores at their homes in order; a line the host holds waits for its back-invalidate response. -/
def drainFlights : List Flight → State → M State
  | [], s => .ok s
  | f :: t, s =>
    if f.far s then .error (.wait .mem .nothing) else
    match f.units.findSome? fun u => s.hostHolds f.origin u with
    | some line => .error (.wait .mem (.snoop line))
    | none => drainFlights t (f.units.foldl (fun s u => s.writeAll f.origin none u) { s with flight := s.flight.erase f })

/-- Drain the accepted GLB stores that satisfy p. -/
def State.drain (s : State) (p : Flight → Bool) : M State := drainFlights (needed Flight.before p (pathOrder s.flight)) s

/-- Drain HOST stores: their completions return (10 Table 10-2), with those that the CXL port holds before them. -/
def State.drainHost (s : State) (p : Flight → Bool) : State :=
  (needed (fun _ _ => true) p s.hostOut).foldl (fun s f =>
    f.units.foldl (fun s u => s.writeAll f.origin none u) { s with hostOut := s.hostOut.erase f }) s

/-- Move the accepted stores of Spire p's interface to its Cupola's order point, in order. -/
def State.liftFlights (s : State) (p : Nat) : State :=
  let up := fun (f : Flight) => f.level == 0 && f.phys == p
  { s with flight := (s.flight.filter fun f => !up f) ++ (s.flight.filter up).map fun f => { f with level := 1 } }

/-- The units of a store by blocks of 16 bytes, so that a fetch sees all of a store in a block or none (03 R89). -/
def blocks (us : List StoreUnit) : List (List StoreUnit) :=
  ((us.flatMap fun u => u.cut 16 u.bytes.length).foldl (fun (acc : List (Nat × List StoreUnit)) u =>
    let k := u.loc.off / 16
    if acc.any fun x => x.1 == k then acc.map fun x => if x.1 = k then (k, x.2 ++ [u]) else x else acc ++ [(k, [u])]) []).map (·.2)

/-- Perform one committed store of a hart: scratchpad and scalar data memory at once, GLB into the Spire's interface, HOST
into the CXL port (10 R230, R235). It breaks the hart's own links at once (05 R136), those of others at its home. -/
def State.perform (s : State) (h : Hart) (us : List StoreUnit) : State :=
  let s := us.foldl (fun s u => s.shadow h.id u) s
  let dev := us.filter fun u => match u.loc with
    | .dev _ => true
    | _ => false
  let host := us.filter fun u => match u.loc with
    | .host _ => true
    | _ => false
  let near := us.filter fun u => match u.loc with
    | .dev _ | .host _ => false
    | _ => true
  let s := near.foldl (fun s u => s.writeAll ⟨h.id.ctx, h.phys⟩ none u) s
  let own := dev.filterMap fun u => u.loc.granule
  { s with
    hart := if s.hart.id = h.id then { s.hart with links := s.hart.links.map fun l => if own.contains l.g then { l with intact := false } else l }
            else s.hart
    flight := s.flight ++ (blocks dev).map fun b => ⟨some h.id, h.phys, 0, b⟩
    hostOut := s.hostOut ++ (blocks host).map fun b => ⟨some h.id, h.phys, 0, b⟩ }

end Sys2Proof.Machine
end

