-- ==== Sys2Proof/Machine/Flags.lean ====
section
/-! DEFINITION. Rounding modes in force, and accruing flags with their traps (01 R24, R25, Table 1-4). -/
namespace Sys2Proof.Machine

/-- FENABLE.fz (01 Table 1-4). -/
def Hart.fz (h : Hart) : Bool := h.regs.h.fenable.getLsbD 15

/-- The rounding mode of RMODE; mode 4 counts as RNE except in conversions that round stochastically (01 Table 1-5). -/
def Hart.rnd (h : Hart) : Rnd :=
  match h.regs.h.rmode.toNat with
  | 1 => .rtz
  | 2 => .rdn
  | 3 => .rup
  | _ => .rne

/-- RMODE selects stochastic rounding. -/
def Hart.stochastic (h : Hart) : Bool := h.regs.h.rmode == 4

/-- One draw of the stochastic-rounding generator (02 R48). -/
def Hart.draw (h : Hart) : Hart × Nat :=
  let x := srand h.regs.h.seed
  ({ h with regs := { h.regs with h := { h.regs.h with seed := x.1 } } }, x.2)

/-- The flags of a set whose FENABLE bit is 1. -/
def Hart.enabled (h : Hart) (f : FlagSet) : FlagSet := f &&& h.regs.h.fenable &&& 0x00FF#16

/-- The cause of an enabled flag: FP exception for bits [5:0], modular for movf and mrange (01 R25). -/
def flagCause (f : FlagSet) : Nat := if f &&& 0x003F#16 = 0 then causeMod else causeFp

/-- Set flags in FFLAGS without a trap. -/
def Hart.orFlags (h : Hart) (f : FlagSet) : Hart :=
  { h with regs := { h.regs with h := { h.regs.h with fflags := h.regs.h.fflags ||| (f &&& 0x00FF#16) } } }

/-- Raise the flags of one element; an enabled flag traps (01 R25). -/
def Hart.raise (h : Hart) (f : FlagSet) (elem : Nat) : M Hart :=
  if h.enabled f = 0 then .ok (h.orFlags f) else .error (.trap (flagCause (h.enabled f)) elem none)

/-- Raise flags in element order; the lowest element with an enabled flag traps. -/
def Hart.raiseAll (h : Hart) : List (Nat × FlagSet) → M Hart
  | [] => .ok h
  | (i, f) :: t =>
    match h.raise f i with
    | .error e => .error e
    | .ok h' => h'.raiseAll t

/-- A flag trap that a strip-terminal instruction raises after it has performed: element and cause (05 R128). -/
def Hart.lateTrap (h : Hart) (fl : List (Nat × FlagSet)) : Option (Nat × Nat) :=
  (fl.find? fun x => h.enabled x.2 != 0).map fun x => (flagCause (h.enabled x.2), x.1)

end Sys2Proof.Machine
end

