-- ==== Sys2Proof/Machine/Strip.lean ====
section
/-! DEFINITION. The strip buffer's charges, commit, the closing of strips and strip-terminal instructions
(01 R26-R34, 05 R116, R128, 10 R235, R246). -/
namespace Sys2Proof.Machine

/-- Put an entry into the strip buffer with its charge; past the capacity the strip-capacity trap is raised before any
effect (01 R28). -/
def Hart.push (h : Hart) (e : BufEntry) (charge : Nat) : M Hart :=
  if h.capacity < h.charge + charge then .error (.trap causeCapacity 0 none)
  else .ok { h with buf := h.buf ++ [e], charge := h.charge + charge }

/-- Charge of a vector store or output-port write (01 R28). -/
def vecCharge (vl ew : Nat) : Nat := ceilDiv (vl * ew) 512 * 64

/-- Long opcode of a command's prefix word. -/
def CmdWords.lop (c : CmdWords) : Nat := field c.w0.toNat 20 6

/-- Copy engine of a physical Spire (13 R299). -/
def engineOf (p : Nat) : Nat := p / 64 * 8 + p % 64 / 8

/-- The commands of a strip buffer. -/
def bufCmds (b : List BufEntry) : List CmdWords :=
  b.filterMap fun e => match e with
    | .cmd c => some c
    | _ => none

/-- A copy command waits in an engine's queue. -/
def Cmd.waits (c : Cmd) (e : Nat) : Bool := c.words.lop == 4 && c.engine == e && c.st == .queued

/-- Place one engine command (09 R211). -/
def State.place (s : State) (h : Hart) (c : CmdWords) : State :=
  { s with
    nextCmd := s.nextCmd + 1
    cmds := s.cmds ++ [{ k := s.nextCmd, hart := h.id, phys := h.phys, engine := engineOf h.phys, words := c, landed := 0,
                         read := none, shadow := [], full := false, st := .queued, episode := 0 }] }

/-! ### Links of the fabric image (14 R320, R321) -/

/-- The fabric that serves a hart, with the group-local logical Spire (14 R195, R320). -/
def State.fabricOf (s : State) (h : Hart) : Option (Fabric × Nat) :=
  match s.fabric (cupolaOf h.phys) with
  | none => none
  | some f =>
    if f.state = .none ∨ f.ctx ≠ h.id.ctx ∨ f.team ≠ h.id.team then none
    else
      let n := field ((f.image[0]?).getD 0).toNat 40 8
      some (f, if n = 0 then 0 else h.lsid % n)

/-- The data link whose source (or destination) is port q of a hart: the fabric that keeps it and its number. -/
def State.portLink (s : State) (h : Hart) (q : QIdx) (src : Bool) : Option (Fabric × Nat) :=
  (s.fabricOf h).bind fun x => s.portInstance x.1 x.2 q.val src

/-- Change a link of a Cupola's fabric. -/
def State.updLink (s : State) (c link : Nat) (g : LinkState → LinkState) : State :=
  s.updFabric c fun f => { f with links := f.links.map fun l => if l.link = link then g l else l }

/-- The first slot of a link in release order that satisfies p. -/
def LinkState.firstSlot (l : LinkState) (p : Slot → Bool) : Option Slot := minBy (·.seq) (l.slots.filter p)

/-- Change the slot with a number. -/
def LinkState.updSlot (l : LinkState) (no : Nat) (g : Slot → Slot) : LinkState :=
  { l with slots := l.slots.map fun x => if x.no = no then g x else x }

/-- Tokens that port q of logical Spire l of the group of f emits on its control links (14 Table 14-6). -/
def State.emitPort (s : State) (f : Fabric) (l q : Nat) (bad : Bool) : State :=
  (List.range (imgLinks f.image)).foldl (fun s i =>
    let w := imgLink f.image i
    match epPort (linkSrc w) with
    | some (l', q', g) =>
      if linkCtl w ∧ l' = l ∧ q' = q then s.updGroup f.ctx f.team (f.homeGroup g) fun x => { x with tokens := x.tokens ++ [⟨i, bad⟩] } else s
    | none => s) s

/-- Tokens that a hart's write of port q emits at its commit. -/
def State.emitPortTokens (s : State) (h : Hart) (q : QIdx) (bad : Bool) : State :=
  match s.fabricOf h with
  | none => s
  | some x => s.emitPort x.1 x.2 q.val bad

/-- Release a committed port write: its reserved slot goes in flight; a control port emits its token (14 R321, R315). -/
def State.releasePort (s : State) (h : Hart) (q : QIdx) (x : SlotData) : State :=
  match s.portLink h q true with
  | none => s.emitPortTokens h q (x.n != 0 && bitAt x.poison.toNat 0)
  | some (f, i) =>
    s.updLink f.c i fun l =>
      match l.firstSlot fun y => y.st == .reserved && y.owner == some h.id with
      | none => l
      | some y => l.updSlot y.no fun z => { z with st := .flying, owner := none, x := x }

/-- Free the slot that a committed strip received on port q (14 Table 14-1). -/
def State.freePort (s : State) (h : Hart) (q : QIdx) : State :=
  match s.portLink h q false with
  | none => s
  | some (f, i) =>
    s.updLink f.c i fun l =>
      match l.firstSlot fun y => y.st == .held with
      | none => l
      | some y => l.updSlot y.no fun z => { z with st := .free, owner := none, x := SlotData.zero }

/-- A port of a hart has a link that leaves its group's Cupola (14 Table 14-3, 10 R246). -/
def State.portLeaves (s : State) (h : Hart) (q : QIdx) : Bool :=
  match s.fabricOf h with
  | none => false
  | some (f, l) =>
    let far := fun (ep : Nat) => field ep 15 3 == 3 && f.homeGroup (field ep 4 7) != f.group
    (List.range (imgLinks f.image)).any fun i =>
      let w := imgLink f.image i
      match epPort (linkSrc w) with
      | some (l', q', _) => l' == l && q' == q.val && (far (linkSrc w) || far (linkDst w))
      | none => false

/-- Start a farm epoch (09 R221). -/
def startFarm (total base : Word) : Farm :=
  { started := true, total := total.toNat, base := if base = 0 then 1 else min base.toNat (2 ^ 32), cursor := 0, claims := [] }

/-- Consume a hart's pending claim at the commit of its strip (09 R222). -/
def Farm.consume (f : Farm) (lhid : Nat) : Farm :=
  { f with claims := f.claims.map fun c => if c.lhid = lhid then { c with pending := false } else c }

/-- Perform one entry of the strip buffer other than a port write, after the commands have been placed. A range that the strip has taken
from the epoch that it starts is the hart's latest claim, consumed (09 R221, R222, 22 R418). -/
def performEntry (h : Hart) (s : State) (e : BufEntry) : State :=
  match e with
  | .store us => s.perform h us
  | .port _ _ | .cmd _ => s
  | .farm total base taken => s.updTeam h.id.ctx h.id.team fun t =>
    { t with farm := match taken with
        | none => startFarm total base
        | some n => { startFarm total base with cursor := n, claims := [⟨h.id.lhid, 0, n, false⟩] } }

/-- Release one entry of the strip buffer onto its link, when it is a port write. -/
def releaseEntry (h : Hart) (s : State) (e : BufEntry) : State :=
  match e with
  | .port q x => s.releasePort h q x
  | _ => s

/-- The registers of a hart whose strip has committed (a strip-terminal instruction may have stored at homes): counts, HSTAT.preempt,
serial mark, tokens; then no strip holds anything at the closing instruction (01 R29, R31, 09 R217, 15 R345). -/
def Hart.committed (h : Hart) : Hart :=
  let stored := h.hcr.sstate == 2 || h.buf.any fun e => match e with
    | .store _ => true
    | _ => false
  let q := if stored then h.regs.q.map fun x => { x with ahead := [] } else h.regs.q
  { h with
    regs := { h.regs with q := q }
    tk := Vector.zipWith (fun a b => a - BitVec.ofNat 16 b) h.tk h.tkPend
    serial := false
    hcr := { h.hcr with stripn := h.hcr.stripn + 1, preempt := 0 } }.openStrip

/-- The hart in COMMIT (01 Table 1-7). -/
def State.inCommit (s : State) : State := { s with hart := { s.hart with hcr := { s.hart.hcr with sstate := 1 } } }

/-- The stores that a strip's port writes release have performed at a scope that contains both ends of every link written: at
the Cupola's order point, or at their homes where a link leaves the Cupola (10 R246). -/
def State.releaseStores (s : State) (h : Hart) : M State :=
  let qs := h.buf.filterMap fun e => match e with
    | .port q _ => some q
    | _ => none
  if qs.isEmpty then .ok s
  else if qs.any fun q => s.portLeaves h q then s.drain fun f => f.onPath h.phys
  else .ok (s.liftFlights h.phys)

/-- The first commands of a strip whose copies find a free place in a queue. -/
def placeable : Nat → List CmdWords → List CmdWords
  | _, [] => []
  | free, c :: t =>
    if c.lop ≠ 4 then c :: placeable free t
    else match free with
      | 0 => []
      | n + 1 => c :: placeable n t

/-- Drop the first n commands of a buffer. -/
def dropCmds : Nat → List BufEntry → List BufEntry
  | 0, b => b
  | _, [] => []
  | n + 1, e :: t => match e with
    | .cmd _ => dropCmds n t
    | e => e :: dropCmds (n + 1) t

/-- Commit the strip of the hart in focus (01 R29, 09 R211, 10 R235, R244, R246, 13 R299): commands are placed before the
stores perform, port writes are released after. The second component is false when a queue is full: the commands placed have
left the buffer, and the hart stays in COMMIT. -/
def State.commit (s : State) : M (State × Bool) :=
  let h := s.hart
  let cs := bufCmds h.buf
  let held := h.buf.any fun e => match e with
    | .store us => us.any fun u => s.shut h.phys u
    | _ => false
  if held then .error (.wait .mem .nothing) else
  match (if cs.isEmpty then .ok s else s.drain fun f => f.onPath h.phys) with
  | .error e => .error e
  | .ok s =>
    let queued := (s.cmds.filter fun c => c.waits (engineOf h.phys)).length
    let now := placeable (Config.copyQueue - queued) cs
    let s := now.foldl (fun s c => s.place h c) s
    if now.length < cs.length then
      .ok (State.inCommit { s with hart := { s.hart with buf := dropCmds now.length h.buf, stall := some .mem } }, false)
    else
    match (h.buf.foldl (performEntry h) s).releaseStores h with
    | .error e => .error e
    | .ok s =>
      let s := h.buf.foldl (releaseEntry h) s
      let s := (List.finRange 8).foldl (fun s q => if h.regs.q[q].delivered && h.regs.q[q].kind == 6 then s.freePort h q else s) s
      let s := if h.claimed then s.updTeam h.id.ctx h.id.team fun t => { t with farm := t.farm.consume h.id.lhid } else s
      .ok ({ s with hart := { h with links := s.hart.links }.committed }, true)

/-- Close the open strip at the current instruction: an empty strip commits nothing (01 R29), and the strip that opens next is timed
from now; a strip-terminal instruction in TERM is timed on (R33). -/
def State.close (s : State) : M (State × Bool) :=
  if s.hart.fresh then
    .ok ({ s with hart := { s.hart with stall := none, stripNs := if s.hart.hcr.sstate = 2 then s.hart.stripNs else 0 } }, true)
  else s.commit

/-- A request to leave waits at the hart (01 R32, 14 R342, 15 R347). -/
def Hart.asked (h : Hart) : Bool := h.preemptReq || h.freezeReq || h.fabricReq

/-- The open strip closes, then f runs at the closing instruction. While the commit waits the hart stays in COMMIT; a request
that arrived during a commit is due at its end, with no strip open (01 R29, Table 1-6). -/
def closeThen (s : State) (f : State → Out) : Out :=
  match s.close with
  | .error e => s.inCommit.take e
  | .ok (t, done) =>
    if !done then .next t
    else if !s.hart.fresh && t.hart.asked then .next t.inCommit
    else f t

/-- An instruction that closes the open strip: `pre` is checked before the commit, `f` acts after it. -/
def closing (s : State) (pre : Hart → M Unit) (f : State → M State) : Out :=
  match pre s.hart with
  | .error e => s.take e
  | .ok _ =>
    closeThen s fun t =>
      match f t with
      | .error e => t.inCommit.take e
      | .ok u => .next u

/-- Completion of a strip-terminal instruction, which counts as the commit of its own strip: what its emissions put into
the buffer performs, and the next instruction opens a strip (01 R26, R29, R31). -/
def State.completeTerm (s : State) : M State :=
  (State.commit { s with hart := { s.hart with pc := s.hart.pc + 4 } }).map (·.1)

/-- The hart in TERM with its instruction (01 Table 1-7). -/
def State.inTerm (s : State) (i : Instr) : State :=
  { s with hart := { s.hart with doing := some i, hcr := { s.hart.hcr with sstate := 2 } } }

/-- Strip-terminal instruction i (05 R128): the open strip commits, the instruction runs as a strip of its own in TERM, and
a strip opens at the next instruction. -/
def terminal (i : Instr) (s : State) (f : State → M State) : Out :=
  closeThen s fun t =>
    match (f (t.inTerm i)).bind State.completeTerm with
    | .error e => (t.inTerm i).take e
    | .ok u => .next u

/-- Strip-terminal access i (05 R128): `run` performs elements, in one step or several; its second component is false when
elements remain. `fin` writes the results, with the flags raised: an enabled one traps at once in the next strip, TEPC being
the next instruction. -/
def access (i : Instr) (s : State) (run : State → M (State × Bool)) (fin : State → M (State × List (Nat × FlagSet))) : Out :=
  closeThen s fun t =>
    match run (t.inTerm i) with
    | .error e => (t.inTerm i).take e
    | .ok (u, false) => .next u
    | .ok (u, true) =>
      match fin u with
      | .error e => (t.inTerm i).take e
      | .ok (v, fl) =>
        match State.completeTerm { v with hart := fl.foldl (fun h x => h.orFlags x.2) v.hart } with
        | .error e => (t.inTerm i).take e
        | .ok w =>
          match t.hart.lateTrap fl with
          | none => .next w
          | some (cause, elem) =>
            match w.programTrap cause elem t.hart.pc with
            | .ok x => .next x
            | .error x => .fault x

end Sys2Proof.Machine
end

