-- ==== Sys2Proof/Machine/Operands.lean ====
section
/-! DEFINITION. Operand forms: scalar operands with poison, elements of vector and mask registers, the b operand of the
forms vv, vs and vi (01 R17-R19, 03 R73, 04 R99, 06 R145, R146). -/
namespace Sys2Proof.Machine

/-! ### Scalar -/

/-- s_d := f(s_a, s_b); the result is poisoned when a source is (04 R99). -/
def Hart.alu2 (h : Hart) (d a b : SReg) (f : Word → Word → Word) : Hart :=
  h.setS d (f (h.s a) (h.s b)) (h.bad a || h.bad b)
/-- s_d := f(s_a). -/
def Hart.alu1 (h : Hart) (d a : SReg) (f : Word → Word) : Hart := h.setS d (f (h.s a)) (h.bad a)
/-- The poison trap for a scalar register used as control or address (04 R99). -/
def Hart.clean (h : Hart) (r : SReg) : M Unit := failIf (h.bad r) poisonTrap

/-! ### Elements -/

/-- An element: its bits and its poison. -/
structure Elt where
  val : Nat
  bad : Bool
  deriving DecidableEq, Repr

/-- Poison bytes of an element of width w. -/
def poisonLo (w i : Nat) : Nat := w * i / 8
/-- Number of poison bits of an element: one for each byte; a 4-bit element shares one. -/
def poisonN (w : Nat) : Nat := if w < 8 then 1 else w / 8

/-- Read element i at width w (01 R18). -/
def VReg.elt (r : VReg) (w i : Nat) : Elt :=
  ⟨field r.data.toNat (w * i) w, field r.poison.toNat (poisonLo w i) (poisonN w) != 0⟩

/-- Write element i at width w. At 8 bits or wider every poison bit of the element is written; a 4-bit element only sets
its byte's bit (01 R18). -/
def VReg.setElt (r : VReg) (w i : Nat) (x : Elt) : VReg :=
  { r with
    data := BitVec.ofNat 16384 (setField r.data.toNat (w * i) w x.val)
    poison :=
      if w < 8 then (if x.bad then r.poison ||| (1#2048 <<< poisonLo w i) else r.poison)
      else BitVec.ofNat 2048 (setField r.poison.toNat (poisonLo w i) (poisonN w) (if x.bad then 2 ^ poisonN w - 1 else 0)) }

/-- Entry b of the scale slice. -/
def VReg.scaleAt (r : VReg) (b : Nat) : Nat := field r.scale.toNat (8 * b) 8
/-- Entry b of the scale slice is poisoned (02 R52). -/
def VReg.scaleIsBad (r : VReg) (b : Nat) : Bool := r.scaleBad.getLsbD b
/-- Write entry b of the scale slice with its poison. -/
def VReg.setScale (r : VReg) (b e : Nat) (bad : Bool) : VReg :=
  { r with scale := BitVec.ofNat 1024 (setField r.scale.toNat (8 * b) 8 e)
           scaleBad := BitVec.ofNat 128 (setField r.scaleBad.toNat b 1 (b2n bad)) }
/-- Read element i at width w under its scale entry, which poisons it too (02 R52). -/
def VReg.scaled (r : VReg) (w i : Nat) : Elt := ⟨(r.elt w i).val, (r.elt w i).bad || r.scaleIsBad (i / 32)⟩

/-- Bytes of which a list of 4-bit elements in rising order writes both elements. -/
def pairBytes : List (Nat × Elt) → List Nat
  | x :: y :: t => if x.1 % 2 = 0 ∧ y.1 = x.1 + 1 then x.1 / 2 :: pairBytes (y :: t) else pairBytes (y :: t)
  | _ => []

/-- Write the elements of a list of (index, element) in rising order. A 4-bit write of both elements of a byte clears the
byte's poison bit first (01 R18). -/
def VReg.setElts (r : VReg) (w : Nat) (xs : List (Nat × Elt)) : VReg :=
  let r := if w = 4 then (pairBytes xs).foldl (fun (r : VReg) b => { r with poison := r.poison &&& ~~~(1#2048 <<< b) }) r else r
  xs.foldl (fun r x => r.setElt w x.1 x.2) r

/-- Mask bit that governs element i (01 R19). -/
def maskIx (ew i : Nat) : Nat := if ew = 4 then i / 2 else i
/-- Element i is active under a mask. -/
def MReg.on (m : MReg) (ew i : Nat) : Bool := m.bits.getLsbD (maskIx ew i)
/-- The mask bit of element i is poisoned (06 R146). -/
def MReg.isBad (m : MReg) (ew i : Nat) : Bool := m.poison.getLsbD (maskIx ew i)
/-- Set one mask bit with its poison. -/
def MReg.setBit (m : MReg) (j : Nat) (b bad : Bool) : MReg :=
  { bits := BitVec.ofNat 2048 (setField m.bits.toNat j 1 (b2n b)),
    poison := BitVec.ofNat 2048 (setField m.poison.toNat j 1 (b2n bad)) }

/-- Elements below VL that are active under mask m, in rising order (01 R19). -/
def Hart.active (h : Hart) (m : MIdx) : List Nat :=
  let k := h.regs.getM m
  (List.range h.vl).filter fun i => k.on h.ew i

/-- A poisoned bit of mask m that governs an element below VL traps before any effect (06 R146). -/
def Hart.maskClean (h : Hart) (m : MIdx) : M Unit :=
  let k := h.regs.getM m
  if k.poison = 0 then .ok () else
  match (List.range h.vl).find? fun i => k.isBad h.ew i with
  | none => .ok ()
  | some i => .error (poisonTrap i)

/-- The lowest of some elements with a poisoned value traps (05 R123). -/
def eltsClean (xs : List (Nat × Elt)) : M Unit :=
  match xs.find? fun x => x.2.bad with
  | none => .ok ()
  | some x => .error (poisonTrap x.1)

/-- The number of mask bits that govern elements 0 to VL-1. -/
def Hart.maskLen (h : Hart) : Nat := if h.ew = 4 then ceilDiv h.vl 2 else h.vl

/-- A scalar as an element of width w, with its poison. -/
def Hart.sElt (h : Hart) (w : Nat) (r : SReg) : Elt := ⟨(h.s r).toNat % 2 ^ w, h.bad r⟩

/-- The b operand of form vv, vs or vi at element i, an immediate sign-extended (03 R73). -/
def Hart.b3 (h : Hart) (w : Nat) (o : BOp3) (i : Nat) : Elt :=
  match o with
  | .vv v => h.regs.v[v].elt w i
  | .vs s => h.sElt w s
  | .vi k => ⟨wrapI w (sgn 5 k.toNat), false⟩
/-- The b operand of form vv or vs at element i. -/
def Hart.b2 (h : Hart) (w : Nat) (o : BOp2) (i : Nat) : Elt :=
  match o with
  | .vv v => h.regs.v[v].elt w i
  | .vs s => h.sElt w s

/-- The vector register of a b operand, if it is one. -/
def b3Regs : BOp3 → List VIdx
  | .vv v => [v]
  | _ => []
/-- The vector register of a b operand, if it is one. -/
def b2Regs : BOp2 → List VIdx
  | .vv v => [v]
  | _ => []
/-- The vector register of a butterfly operand, if it is one. -/
def bbRegs : BOpB → List VIdx
  | .vv v => [v]
  | _ => []

/-! ### Reduction trees (02 R57) -/

/-- comb(op, a, b): an absent operand gives the other; a result to which a poisoned element contributes is poisoned and
raises no flag (02 R52). -/
def comb (f : Nat → Nat → Nat × FlagSet) (a b : Option Elt) : Option Elt × FlagSet :=
  match a, b with
  | none, _ => (b, 0)
  | _, none => (a, 0)
  | some x, some y =>
    let r := f x.val y.val
    let bad := x.bad || y.bad
    (some ⟨r.1, bad⟩, if bad then 0 else r.2)

/-- tree(op, x, act, n) over 2^k entries: the result, and the flags of each comb in the order of the tree. -/
def redTree (f : Nat → Nat → Nat × FlagSet) : Nat → List (Option Elt) → Option Elt × List FlagSet
  | 0, t => (t.head?.join, [])
  | k + 1, t =>
    let c := List.zipWith (comb f) (t.take (2 ^ k)) (t.drop (2 ^ k))
    let r := redTree f k (c.map (·.1))
    (r.1, c.map (·.2) ++ r.2)

/-- The entries x[i] for i < n, absent up to the next power of two. -/
def treeOf (f : Nat → Nat → Nat × FlagSet) (xs : List (Option Elt)) : Option Elt × List FlagSet :=
  let k := bitlen (xs.length - 1)
  redTree f k (xs ++ List.replicate (2 ^ k - xs.length) none)

end Sys2Proof.Machine
end

