-- ==== Sys2Proof/Machine/Branch.lean ====
section
/-! DEFINITION. Branches and jumps (04 R108-R111), and hints (03 R79). -/
namespace Sys2Proof.Machine

/-- Branch target: PC + sext(offset16) * 4 (04 R108). -/
def Hart.target (h : Hart) (off : BitVec 16) : Word := h.pc + (off.signExtend 64 <<< 2)

/-- Take a branch or go on. -/
def Hart.branch (h : Hart) (c : Bool) (off : BitVec 16) : Hart := { h with pc := if c then h.target off else h.pc + 4 }

/-- A branch on two scalars: either poisoned operand traps (04 R99). -/
def Hart.branch2 (h : Hart) (a b : SReg) (onEq : Bool) (off : BitVec 16) : M Hart :=
  match failIf (h.bad a || h.bad b) poisonTrap with
  | .error e => .error e
  | .ok _ => .ok (h.branch ((h.s a == h.s b) == onEq) off)

/-- `beq sa, sb, label`. -/
def execBeq (a b : SReg) (off : BitVec 16) (s : State) : Out := jumpH s fun h => h.branch2 a b true off
/-- `bne sa, sb, label`. -/
def execBne (a b : SReg) (off : BitVec 16) (s : State) : Out := jumpH s fun h => h.branch2 a b false off

/-- A branch on the mask bits that govern elements 0 to VL-1; a poisoned one traps with the lowest element it governs
(04 R111). -/
def Hart.branchMask (h : Hart) (m : MIdx) (any : Bool) (off : BitVec 16) : M Hart :=
  let k := h.regs.getM m
  match (List.range h.vl).find? fun i => k.isBad h.ew i with
  | some i => .error (poisonTrap i)
  | none => .ok (h.branch (((List.range h.maskLen).any fun j => k.bits.getLsbD j) == any) off)

/-- `bmany m, label`. -/
def execBmany (m : MIdx) (off : BitVec 16) (s : State) : Out := jumpH s fun h => h.branchMask m true off
/-- `bmnone m, label`. -/
def execBmnone (m : MIdx) (off : BitVec 16) (s : State) : Out := jumpH s fun h => h.branchMask m false off

/-- `jal label`: s31 := PC + 4, PC := PC + sext(offset26) * 4 (04 R108). -/
def execJal (off : BitVec 26) (s : State) : Out :=
  jumpH s fun h => .ok { h.setS 31 (h.pc + 4) false with pc := h.pc + (off.signExtend 64 <<< 2) }

/-- A register jump: the target's low bits must be 0 (04 R109). -/
def Hart.jumpReg (h : Hart) (b : SReg) (off : BitVec 16) (link : Bool) : M Hart :=
  match h.clean b with
  | .error e => .error e
  | .ok _ =>
    let t := h.s b + (off.signExtend 64 <<< 2)
    if t.toNat % 4 ≠ 0 then .error (.trap causeMisaligned 0 none)
    else .ok { (if link then h.setS 31 (h.pc + 4) false else h) with pc := t }

/-- `jalr sb, off`. -/
def execJalr (b : SReg) (off : BitVec 16) (s : State) : Out := jumpH s fun h => h.jumpReg b off true
/-- `jr sb, off`. -/
def execJr (b : SReg) (off : BitVec 16) (s : State) : Out := jumpH s fun h => h.jumpReg b off false

/-- `hint`: a no-op whatever its data (03 R79). -/
def execHint (s : State) : Out := plainH s fun h => .ok h

end Sys2Proof.Machine
end

