-- ==== Sys2Proof/WellFormed.lean ====
section
/-! DEFINITION. Static legality of an instruction beyond what its types say (03 R78, R84, R88; 07 Table 7-1; 09). -/
namespace Sys2Proof

/-- Groups of formats for conversion (02 R54). -/
inductive FmtGroup | i | f | n | m | c | x | r
  deriving DecidableEq, Repr

/-- The group of a format (02 R54); residues have none of the conversions. -/
def Format.group : Format → FmtGroup
  | .i8 | .i16 | .i32 | .i64 | .ui8 | .ui16 | .ui32 | .ui64 => .i
  | .fp64 | .fp32 | .fp16 | .bf16 => .f
  | .e4m3 | .e5m2 | .e3m2 | .e2m3 | .e2m1 => .n
  | .mxe4m3 | .mxe5m2 | .mxe3m2 | .mxe2m3 | .mxe2m1 | .mxint8 => .m
  | .cbf16 | .cfp32 => .c
  | .rxbf | .xbf => .x
  | .m32 | .m64 => .r

/-- `vcvt.dst.src` without a modifier exists (02 Table 2-6, 06 R157, R158). MX pairs belong to `vmxq` and `vmxd`. -/
def cvtPair (dst src : Format) : Bool :=
  dst != src &&
  match src.group, dst.group with
  | .i, .i | .i, .f | .i, .n => true
  | .f, .i | .f, .f | .f, .n => true
  | .f, .x => dst == .rxbf
  | .n, .f => true
  | .c, .c => true
  | .c, .x => dst == .xbf
  | .x, .f => src == .rxbf
  | .x, .c => src == .xbf
  | _, _ => false

/-- The modifier func6[5] = 1 exists for the pair: `.sr` or `.sat` (03 Table 3-12). -/
def cvtMod (dst src : Format) : Bool :=
  match src.group, dst.group with
  | .f, _ => dst == .bf16 || dst == .e4m3 || dst == .e5m2
  | .i, .i => true
  | _, _ => false

/-- Register limits of the cross-register butterflies (07 Table 7-1). -/
def bflyLimit (four : Bool) (d a : VIdx) : BOpB → Bool
  | .vv b => if four then decide (d.val ≤ 28) && decide (a.val ≤ 30) && decide (b.val ≤ 30) else decide (d.val ≤ 30)
  | .vi _ => true

/-- Static legality. -/
def Instr.wf : Instr → Bool
  | .vatom op d _ _ _ => op != .cas || decide (d.val ≠ 31)
  | .farmNext d => decide (1 ≤ d.val) && decide (d.val ≤ 30)
  | .vcvt dst src md _ _ _ => cvtPair dst src && (!md || cvtMod dst src)
  | .bfly2 _ d a b _ => bflyLimit false d a b
  | .bfly4 t d a b _ => t != .rxbf && bflyLimit true d a b
  | .bflyg _ _ _ b _ => decide (b.val ≤ 30)
  | .bfly2M _ _ d a b _ => bflyLimit false d a b
  | .bfly4M _ _ d a b _ => bflyLimit true d a b
  | .vdrev _ _ i _ => decide (1 ≤ i.toNat) && decide (i.toNat ≤ 8)
  | .saff _ base _ lv _ _ fmt out sp => lv == 0 || (base == 0 && fmt == .i8 && !out && sp == .loc)
  | .sfib _ a b lvk _ _ len _ _ =>
    match lvk.val with
    | 0 => a == 0 && b == 0 && len == 0
    | 1 => true
    | 2 => b == 0 && len == 0
    | _ => a == 0
  | .copy _ _ _ form es _ sp dp => form != .linear || (es == 0 && sp == 0 && dp == 0)
  | .putE _ _ _ w1 _ _ => w1.dspace == .glb
  | .taskPut _ w1 _ => w1.dspace == .loc
  | _ => true

end Sys2Proof
end

