-- ==== Sys2Proof/Decode.lean ====
section
/-! DEFINITION. The decoder (03 R70-R88), total on any words, and after it the encoder, written from the same tables.
A short word is cut into five fields: major [31:26], d [25:21], a [20:16], b [15:11] and f [10:0] (03 Table 3-1);
imm16 and offset16 are b and f together, offset26 is d, a, b and f together. -/
namespace Sys2Proof

/-! ### Codes of the small types -/

/-- The code of a value (01 Table 1-5). -/
def EW.code : EW → Nat
  | .e8 => 0
  | .e16 => 1
  | .e32 => 2
  | .e64 => 3
  | .e4 => 4

/-- The value of a code; the other codes are unassigned (01 Table 1-5). -/
def EW.ofCode : Nat → Option EW
  | 0 => some .e8
  | 1 => some .e16
  | 2 => some .e32
  | 3 => some .e64
  | 4 => some .e4
  | _ => none

/-- The code of a value (01 Table 1-5). -/
def Space.code : Space → Nat
  | .loc => 0
  | .peer => 1
  | .glb => 2
  | .host => 3

/-- The value of a code; the other codes are unassigned (01 Table 1-5). -/
def Space.ofCode : Nat → Option Space
  | 0 => some .loc
  | 1 => some .peer
  | 2 => some .glb
  | 3 => some .host
  | _ => none

/-- The code of a value (03 R83). -/
def Scope.code : Scope → Nat
  | .hart => 0
  | .spire => 1
  | .cupola => 2
  | .die => 3
  | .package => 4
  | .system => 5

/-- The value of a code; the other codes are unassigned (03 R83). -/
def Scope.ofCode : Nat → Option Scope
  | 0 => some .hart
  | 1 => some .spire
  | 2 => some .cupola
  | 3 => some .die
  | 4 => some .package
  | 5 => some .system
  | _ => none

/-- The code of a value (03 R85). -/
def IWidth.code : IWidth → Nat
  | .w8 => 0
  | .w16 => 1
  | .w32 => 2
  | .w64 => 3

/-- The value of a code; the other codes are unassigned (03 R85). -/
def IWidth.ofCode : Nat → Option IWidth
  | 0 => some .w8
  | 1 => some .w16
  | 2 => some .w32
  | 3 => some .w64
  | _ => none

/-- The code of a value (03 Table 3-5). -/
def SFmt.code : SFmt → Nat
  | .fp32 => 0
  | .fp64 => 1

/-- The value of a code; the other codes are unassigned (03 Table 3-5). -/
def SFmt.ofCode : Nat → Option SFmt
  | 0 => some .fp32
  | 1 => some .fp64
  | _ => none

/-- The code of a value (03 Table 3-5). -/
def FFmt.code : FFmt → Nat
  | .fp64 => 0
  | .fp32 => 1
  | .fp16 => 2
  | .bf16 => 3

/-- The value of a code; the other codes are unassigned (03 Table 3-5). -/
def FFmt.ofCode : Nat → Option FFmt
  | 0 => some .fp64
  | 1 => some .fp32
  | 2 => some .fp16
  | 3 => some .bf16
  | _ => none

/-- The code of a value (03 R85). -/
def F8Fmt.code : F8Fmt → Nat
  | .e4m3 => 0
  | .e5m2 => 1

/-- The value of a code; the other codes are unassigned (03 R85). -/
def F8Fmt.ofCode : Nat → Option F8Fmt
  | 0 => some .e4m3
  | 1 => some .e5m2
  | _ => none

/-- The code of a value (03 R85). -/
def CFmt.code : CFmt → Nat
  | .cbf16 => 0
  | .cfp32 => 1

/-- The value of a code; the other codes are unassigned (03 R85). -/
def CFmt.ofCode : Nat → Option CFmt
  | 0 => some .cbf16
  | 1 => some .cfp32
  | _ => none

/-- The code of a value (03 Table 3-11). -/
def Format.code : Format → Nat
  | .i8 => 0
  | .i16 => 1
  | .i32 => 2
  | .i64 => 3
  | .ui8 => 4
  | .ui16 => 5
  | .ui32 => 6
  | .ui64 => 7
  | .fp64 => 8
  | .fp32 => 9
  | .fp16 => 10
  | .bf16 => 11
  | .e4m3 => 12
  | .e5m2 => 13
  | .e3m2 => 14
  | .e2m3 => 15
  | .e2m1 => 16
  | .mxe4m3 => 17
  | .mxe5m2 => 18
  | .mxe3m2 => 19
  | .mxe2m3 => 20
  | .mxe2m1 => 21
  | .mxint8 => 22
  | .cbf16 => 23
  | .cfp32 => 24
  | .rxbf => 25
  | .xbf => 26
  | .m32 => 27
  | .m64 => 28

/-- The value of a code; the other codes are unassigned (03 Table 3-11). -/
def Format.ofCode : Nat → Option Format
  | 0 => some .i8
  | 1 => some .i16
  | 2 => some .i32
  | 3 => some .i64
  | 4 => some .ui8
  | 5 => some .ui16
  | 6 => some .ui32
  | 7 => some .ui64
  | 8 => some .fp64
  | 9 => some .fp32
  | 10 => some .fp16
  | 11 => some .bf16
  | 12 => some .e4m3
  | 13 => some .e5m2
  | 14 => some .e3m2
  | 15 => some .e2m3
  | 16 => some .e2m1
  | 17 => some .mxe4m3
  | 18 => some .mxe5m2
  | 19 => some .mxe3m2
  | 20 => some .mxe2m3
  | 21 => some .mxe2m1
  | 22 => some .mxint8
  | 23 => some .cbf16
  | 24 => some .cfp32
  | 25 => some .rxbf
  | 26 => some .xbf
  | 27 => some .m32
  | 28 => some .m64
  | _ => none

/-- The code of a value (03 R84). -/
def AtomOp.code : AtomOp → Nat
  | .add => 0
  | .and => 1
  | .or => 2
  | .xor => 3
  | .min => 4
  | .max => 5
  | .minu => 6
  | .maxu => 7
  | .swap => 8
  | .cas => 9
  | .fmin => 10
  | .fmax => 11

/-- The value of a code; the other codes are unassigned (03 R84). -/
def AtomOp.ofCode : Nat → Option AtomOp
  | 0 => some .add
  | 1 => some .and
  | 2 => some .or
  | 3 => some .xor
  | 4 => some .min
  | 5 => some .max
  | 6 => some .minu
  | 7 => some .maxu
  | 8 => some .swap
  | 9 => some .cas
  | 10 => some .fmin
  | 11 => some .fmax
  | _ => none

/-- The code of a value (03 Table 3-12). -/
def RedGroup.code : RedGroup → Nat
  | .i8 => 0
  | .i16 => 1
  | .i32 => 2
  | .i64 => 3
  | .fp64 => 4
  | .fp32 => 5
  | .fp16 => 6
  | .bf16 => 7

/-- The value of a code; the other codes are unassigned (03 Table 3-12). -/
def RedGroup.ofCode : Nat → Option RedGroup
  | 0 => some .i8
  | 1 => some .i16
  | 2 => some .i32
  | 3 => some .i64
  | 4 => some .fp64
  | 5 => some .fp32
  | 6 => some .fp16
  | 7 => some .bf16
  | _ => none

/-- The code of a value (03 Table 3-12). -/
def BflyT.code : BflyT → Nat
  | .cbf16 => 0
  | .cfp32 => 1
  | .xbf => 2
  | .rxbf => 3

/-- The value of a code; the other codes are unassigned (03 Table 3-12). -/
def BflyT.ofCode : Nat → Option BflyT
  | 0 => some .cbf16
  | 1 => some .cfp32
  | 2 => some .xbf
  | 3 => some .rxbf
  | _ => none

/-- The code of a value (03 Table 3-12). -/
def MWidth.code : MWidth → Nat
  | .m32 => 0
  | .m64 => 1

/-- The value of a code; the other codes are unassigned (03 Table 3-12). -/
def MWidth.ofCode : Nat → Option MWidth
  | 0 => some .m32
  | 1 => some .m64
  | _ => none

/-- The code of a value (03 Table 3-12). -/
def OpaT.code : OpaT → Nat
  | .bf16 => 0
  | .fp16 => 1
  | .e4m3 => 2
  | .e5m2 => 3
  | .i8 => 4
  | .e2m1 => 5

/-- The value of a code; the other codes are unassigned (03 Table 3-12). -/
def OpaT.ofCode : Nat → Option OpaT
  | 0 => some .bf16
  | 1 => some .fp16
  | 2 => some .e4m3
  | 3 => some .e5m2
  | 4 => some .i8
  | 5 => some .e2m1
  | _ => none

/-- The code of a value (09 R212). -/
def CopyForm.code : CopyForm → Nat
  | .linear => 0
  | .twoD => 1
  | .transpose => 2

/-- The value of a code; the other codes are unassigned (09 R212). -/
def CopyForm.ofCode : Nat → Option CopyForm
  | 0 => some .linear
  | 1 => some .twoD
  | 2 => some .transpose
  | _ => none

/-- The code of a value (09 R213). -/
def CollKind.code : CollKind → Nat
  | .allReduce => 0
  | .reduce => 1
  | .broadcast => 2
  | .allGather => 3
  | .reduceScatter => 4

/-- The value of a code; the other codes are unassigned (09 R213). -/
def CollKind.ofCode : Nat → Option CollKind
  | 0 => some .allReduce
  | 1 => some .reduce
  | 2 => some .broadcast
  | 3 => some .allGather
  | 4 => some .reduceScatter
  | _ => none

/-- The code of a value (09 R213). -/
def CollOp.code : CollOp → Nat
  | .add => 0
  | .max => 1
  | .min => 2
  | .xor => 3
  | .exactAdd => 4

/-- The value of a code; the other codes are unassigned (09 R213). -/
def CollOp.ofCode : Nat → Option CollOp
  | 0 => some .add
  | 1 => some .max
  | 2 => some .min
  | 3 => some .xor
  | 4 => some .exactAdd
  | _ => none

/-- The code of a value (03 Table 3-11). -/
def MxFmt.code : MxFmt → Nat
  | .e4m3 => 17
  | .e5m2 => 18
  | .e3m2 => 19
  | .e2m3 => 20
  | .e2m1 => 21
  | .int8 => 22

/-- The value of a code; the other codes are unassigned (03 Table 3-11). -/
def MxFmt.ofCode : Nat → Option MxFmt
  | 17 => some .e4m3
  | 18 => some .e5m2
  | 19 => some .e3m2
  | 20 => some .e2m3
  | 21 => some .e2m1
  | 22 => some .int8
  | _ => none

/-- The code of a value (03 Table 3-12). -/
def MxSide.code : MxSide → Nat
  | .fp32 => 9
  | .fp16 => 10
  | .bf16 => 11

/-- The value of a code; the other codes are unassigned (03 Table 3-12). -/
def MxSide.ofCode : Nat → Option MxSide
  | 9 => some .fp32
  | 10 => some .fp16
  | 11 => some .bf16
  | _ => none

/-- The code of a value (03 Table 3-12). -/
def MchkSel.code : MchkSel → Nat
  | .p0 => 1
  | .p1 => 2
  | .pp => 3

/-- The value of a code; the other codes are unassigned (03 Table 3-12). -/
def MchkSel.ofCode : Nat → Option MchkSel
  | 1 => some .p0
  | 2 => some .p1
  | 3 => some .pp
  | _ => none

/-- The code of a value (03 Table 3-12). -/
def TwFmt.code : TwFmt → Nat
  | .cbf16 => 1
  | .cfp32 => 2
  | .xbf => 3
  | .m32 => 4
  | .m64 => 5

/-- The value of a code; the other codes are unassigned (03 Table 3-12). -/
def TwFmt.ofCode : Nat → Option TwFmt
  | 1 => some .cbf16
  | 2 => some .cfp32
  | 3 => some .xbf
  | 4 => some .m32
  | 5 => some .m64
  | _ => none

/-- The code of a value (08 R191). -/
def AepiOut.code : AepiOut → Nat
  | .i8 => 0
  | .i32 => 2
  | .fp32 => 9
  | .fp16 => 10
  | .bf16 => 11
  | .e4m3 => 12
  | .e5m2 => 13

/-- The value of a code; the other codes are unassigned (08 R191). -/
def AepiOut.ofCode : Nat → Option AepiOut
  | 0 => some .i8
  | 2 => some .i32
  | 9 => some .fp32
  | 10 => some .fp16
  | 11 => some .bf16
  | 12 => some .e4m3
  | 13 => some .e5m2
  | _ => none

/-- A flag bit as a field. -/
def bit (b : Bool) : Nat := if b then 1 else 0

/-- The five fields of a short word (03 Table 3-1). -/
structure Fields where
  major : Nat
  d : Nat
  a : Nat
  b : Nat
  f : Nat
  deriving DecidableEq, Repr

/-- The word of the fields. -/
def Fields.word (x : Fields) : Nat := x.major * 2 ^ 26 + x.d * 2 ^ 21 + x.a * 2 ^ 16 + x.b * 2 ^ 11 + x.f

/-- The fields of a word. -/
def Fields.ofWord (w : Nat) : Fields :=
  { major := w / 2 ^ 26 % 64, d := w / 2 ^ 21 % 32, a := w / 2 ^ 16 % 32, b := w / 2 ^ 11 % 32, f := w % 2 ^ 11 }

/-- The fields of a long-form prefix word (03 Table 3-2). -/
structure LongFields where
  lop : Nat
  pd : Nat
  pa : Nat
  pb : Nat
  psub : Nat
  w1 : Nat
  w2 : Nat
  w3 : Nat
  deriving DecidableEq, Repr

/-- The prefix word. -/
def LongFields.prefixWord (x : LongFields) : Nat :=
  63 * 2 ^ 26 + x.lop * 2 ^ 20 + x.pd * 2 ^ 15 + x.pa * 2 ^ 10 + x.pb * 2 ^ 5 + x.psub

/-- The fields of four words. -/
def LongFields.ofWords (w0 w1 w2 w3 : Nat) : LongFields :=
  { lop := w0 / 2 ^ 20 % 64, pd := w0 / 2 ^ 15 % 32, pa := w0 / 2 ^ 10 % 32, pb := w0 / 2 ^ 5 % 32, psub := w0 % 32,
    w1 := w1, w2 := w2, w3 := w3 }

/-- Field to register number. -/
def r5 (n : Nat) : Fin 32 := Fin.ofNat 32 n
/-- Field to mask or stream register number. -/
def r3 (n : Nat) : Fin 8 := Fin.ofNat 8 n
/-- Field to tile number. -/
def r2 (n : Nat) : Fin 4 := Fin.ofNat 4 n

/-- Some value when the condition holds (03 R78). -/
def need (c : Bool) (x : α) : Option α := if c then some x else none

/-- The b operand of forms vv, vs, vi (03 R73). -/
def bop3 (form b : Nat) : Option BOp3 :=
  match form with
  | 0 => some (.vv (r5 b))
  | 1 => some (.vs (r5 b))
  | 2 => some (.vi (BitVec.ofNat 5 b))
  | _ => none

/-- The b operand of forms vv and vs. -/
def bop2 (form b : Nat) : Option BOp2 :=
  match form with
  | 0 => some (.vv (r5 b))
  | 1 => some (.vs (r5 b))
  | _ => none

/-- The b operand of forms vs and vi (slides). -/
def bopS (form b : Nat) : Option BOpS :=
  match form with
  | 1 => some (.vs (r5 b))
  | 2 => some (.vi (BitVec.ofNat 5 b))
  | _ => none

/-- The b operand of forms vv and vi (butterflies). -/
def bopB (form b : Nat) : Option BOpB :=
  match form with
  | 0 => some (.vv (r5 b))
  | 2 => some (.vi (BitVec.ofNat 5 b))
  | _ => none

/-- Form and b field of an operand. -/
def BOp3.enc : BOp3 → Nat × Nat
  | .vv v => (0, v.val)
  | .vs s => (1, s.val)
  | .vi i => (2, i.toNat)
/-- Form and b field of an operand. -/
def BOp2.enc : BOp2 → Nat × Nat
  | .vv v => (0, v.val)
  | .vs s => (1, s.val)
/-- Form and b field of an operand. -/
def BOpS.enc : BOpS → Nat × Nat
  | .vs s => (1, s.val)
  | .vi i => (2, i.toNat)
/-- Form and b field of an operand. -/
def BOpB.enc : BOpB → Nat × Nat
  | .vv v => (0, v.val)
  | .vi i => (2, i.toNat)

/-! ### Majors 0x01 to 0x18 (03 Tables 3-6, 3-7, 3-8) -/

/-- Integer ALU. -/
def dec01 (d a b f : Nat) : Option Instr :=
  match f with
  | 0 => some (.add (r5 d) (r5 a) (r5 b))
  | 1 => some (.sub (r5 d) (r5 a) (r5 b))
  | 2 => some (.and (r5 d) (r5 a) (r5 b))
  | 3 => some (.or (r5 d) (r5 a) (r5 b))
  | 4 => some (.xor (r5 d) (r5 a) (r5 b))
  | 5 => some (.sll (r5 d) (r5 a) (r5 b))
  | 6 => some (.srl (r5 d) (r5 a) (r5 b))
  | 7 => some (.sra (r5 d) (r5 a) (r5 b))
  | 8 => some (.slt (r5 d) (r5 a) (r5 b))
  | 9 => some (.sltu (r5 d) (r5 a) (r5 b))
  | 10 => some (.seq (r5 d) (r5 a) (r5 b))
  | 11 => some (.min (r5 d) (r5 a) (r5 b))
  | 12 => some (.max (r5 d) (r5 a) (r5 b))
  | 13 => some (.minu (r5 d) (r5 a) (r5 b))
  | 14 => some (.maxu (r5 d) (r5 a) (r5 b))
  | 15 => need (b == 0) (.clz (r5 d) (r5 a))
  | 16 => need (b == 0) (.ctz (r5 d) (r5 a))
  | 17 => need (b == 0) (.popc (r5 d) (r5 a))
  | _ => none

/-- Multiply and divide. -/
def dec02 (d a b f : Nat) : Option Instr :=
  match f with
  | 0 => some (.mul (r5 d) (r5 a) (r5 b))
  | 1 => some (.mulh (r5 d) (r5 a) (r5 b))
  | 2 => some (.mulhu (r5 d) (r5 a) (r5 b))
  | 3 => some (.mulhsu (r5 d) (r5 a) (r5 b))
  | 4 => some (.div (r5 d) (r5 a) (r5 b))
  | 5 => some (.divu (r5 d) (r5 a) (r5 b))
  | 6 => some (.rem (r5 d) (r5 a) (r5 b))
  | 7 => some (.remu (r5 d) (r5 a) (r5 b))
  | _ => none

/-- Shifts by immediate: b and f[7:6] are 0. -/
def dec04 (d a b f : Nat) : Option Instr :=
  if b ≠ 0 ∨ f / 64 % 4 ≠ 0 then none else
  match f / 256 with
  | 0 => some (.slli (r5 d) (r5 a) (BitVec.ofNat 6 f))
  | 1 => some (.srli (r5 d) (r5 a) (BitVec.ofNat 6 f))
  | 2 => some (.srai (r5 d) (r5 a) (BitVec.ofNat 6 f))
  | _ => none

/-- Scalar loads: size code imm16[2:0], offset imm16[15:3] (03 R82). -/
def decLoad (glb : Bool) (d a b f : Nat) : Option Instr :=
  let off := BitVec.ofNat 13 ((b * 2 ^ 11 + f) / 8)
  match f % 8 with
  | 0 => some (.ldb glb (r5 d) (r5 a) off)
  | 1 => some (.ldh glb (r5 d) (r5 a) off)
  | 2 => some (.ldw glb (r5 d) (r5 a) off)
  | 3 => some (.ldd glb (r5 d) (r5 a) off)
  | 4 => some (.ldbu glb (r5 d) (r5 a) off)
  | 5 => some (.ldhu glb (r5 d) (r5 a) off)
  | 6 => some (.ldwu glb (r5 d) (r5 a) off)
  | _ => none

/-- Scalar stores: size code imm16[2:0], offset imm16[15:3] (03 R82). -/
def decStore (glb : Bool) (d a b f : Nat) : Option Instr :=
  let off := BitVec.ofNat 13 ((b * 2 ^ 11 + f) / 8)
  match f % 8 with
  | 0 => some (.stb glb (r5 d) (r5 a) off)
  | 1 => some (.sth glb (r5 d) (r5 a) off)
  | 2 => some (.stw glb (r5 d) (r5 a) off)
  | 3 => some (.std glb (r5 d) (r5 a) off)
  | _ => none

/-- Scalar floating point. -/
def decSfp (k : SFmt) (d a b x : Nat) : Option Instr :=
  match x with
  | 0 => some (.fadd k (r5 d) (r5 a) (r5 b))
  | 1 => some (.fsub k (r5 d) (r5 a) (r5 b))
  | 2 => some (.fmul k (r5 d) (r5 a) (r5 b))
  | 3 => some (.fdiv k (r5 d) (r5 a) (r5 b))
  | 4 => some (.fmadd k (r5 d) (r5 a) (r5 b))
  | 5 => some (.fmin k (r5 d) (r5 a) (r5 b))
  | 6 => some (.fmax k (r5 d) (r5 a) (r5 b))
  | 7 => need (b == 0) (.fsqrt k (r5 d) (r5 a))
  | 8 => need (b == 0) (.fneg k (r5 d) (r5 a))
  | 9 => need (b == 0) (.fabs k (r5 d) (r5 a))
  | 10 => some (.fsgnj k (r5 d) (r5 a) (r5 b))
  | 11 => some (.feq k (r5 d) (r5 a) (r5 b))
  | 12 => some (.flt k (r5 d) (r5 a) (r5 b))
  | 13 => some (.fle k (r5 d) (r5 a) (r5 b))
  | _ => none

/-- Scalar conversions, all unary. -/
def dec0E (d a b f : Nat) : Option Instr :=
  if b ≠ 0 then none else
  match f with
  | 0 => some (.fcvtFp64Fp32 (r5 d) (r5 a))
  | 1 => some (.fcvtFp32Fp64 (r5 d) (r5 a))
  | 2 => some (.fcvtFp32I64 (r5 d) (r5 a))
  | 3 => some (.fcvtFp64I64 (r5 d) (r5 a))
  | 4 => some (.fcvtFp32Ui64 (r5 d) (r5 a))
  | 5 => some (.fcvtFp64Ui64 (r5 d) (r5 a))
  | 6 => some (.fcvtI64Fp32 (r5 d) (r5 a))
  | 7 => some (.fcvtI64Fp64 (r5 d) (r5 a))
  | 8 => some (.fcvtUi64Fp32 (r5 d) (r5 a))
  | 9 => some (.fcvtUi64Fp64 (r5 d) (r5 a))
  | 10 => some (.fcvtFp16Fp32 (r5 d) (r5 a))
  | 11 => some (.fcvtFp32Fp16 (r5 d) (r5 a))
  | 12 => some (.fcvtBf16Fp32 (r5 d) (r5 a))
  | 13 => some (.fcvtFp32Bf16 (r5 d) (r5 a))
  | _ => none

/-- Mask branches and register jumps (03 Table 3-8), BR format: the a field stands at [25:21], b at [20:16]. -/
def dec12 (d a b f : Nat) : Option Instr :=
  let off := BitVec.ofNat 16 (b * 2 ^ 11 + f)
  match d / 8 with
  | 0 => need (a == 0) (.bmany (r3 d) off)
  | 1 => need (a == 0) (.bmnone (r3 d) off)
  | 2 => need (d % 8 == 0) (.jalr (r5 a) off)
  | 3 => need (d % 8 == 0) (.jr (r5 a) off)
  | _ => none

/-- System (03 Table 3-8). -/
def dec15 (d a b f : Nat) : Option Instr :=
  let imm := b * 2 ^ 11 + f
  match d with
  | 0 => some (.hcrw (r5 a) (BitVec.ofNat 16 imm))
  | 1 => need (a == 0) (.trap (BitVec.ofNat 16 imm))
  | 2 => need (a == 0 && imm == 0) .teret
  | 3 => need (a == 0 && imm == 0) .halt
  | 4 => need (a == 0) (.brk (BitVec.ofNat 16 imm))
  | _ => none

/-- Synchronisation and farm (03 Table 3-8). -/
def dec16 (d a b f : Nat) : Option Instr :=
  let x := f % 64
  match f / 64 with
  | 0 => if d = 0 ∧ a = 0 ∧ b = 0 ∧ x / 8 = 0 then (Scope.ofCode (x % 8)).map .fence else none
  | 1 => need (d == 0 && a == 0 && b == 0) (.barArrive (BitVec.ofNat 6 x))
  | 2 => need (d == 0 && a == 0 && b == 0) (.barWait (BitVec.ofNat 6 x))
  | 3 => need (d == 0 && b == 0 && x == 0) (.await (r5 a))
  | 4 => need (d == 0 && b == 0 && x / 16 == 0) (.tkwait (Fin.ofNat 16 x) (r5 a))
  | 5 => need (d == 0 && x == 0) (.farmInit (r5 a) (r5 b))
  | 6 => need (a == 0 && b == 0 && x == 0) (.farmNext (r5 d))
  | _ => none

/-- Strip-opening instructions (05 Table 5-1). -/
def dec18 (d a b f : Nat) : Option Instr :=
  if b ≠ 0 then none else
  match f / 256 with
  | 0 => if f % 32 = 0 then (EW.ofCode (f / 32 % 8)).map (.setvl (r5 d) (r5 a)) else none
  | 1 => if f / 8 % 4 = 0 then
      (EW.ofCode (f / 32 % 8)).bind fun w => (Scope.ofCode (f % 8)).map (.setvlAcq (r5 d) (r5 a) w) else none
  | 2 => need (a == 0 && f % 256 == 0) (.strip (r5 d))
  | 3 => if a = 0 ∧ f / 8 % 32 = 0 then (Scope.ofCode (f % 8)).map (.stripRel (r5 d)) else none
  | _ => none

/-! ### Vector memory (03 Table 3-9): f = mask [10:8], mode [7:5], sub [4:0] -/

/-- Vector loads. -/
def dec19 (d a b f : Nat) : Option Instr :=
  let m := r3 (f / 256)
  match f % 256 with
  | 0x00 => need (b == 0) (.vld (r5 d) (r5 a) m)
  | 0x20 => some (.vlds (r5 d) (r5 a) (r5 b) m)
  | 0x40 => some (.vldx (r5 d) (r5 a) (r5 b) m)
  | 0x60 => need (b == 0) (.vldff (r5 d) (r5 a) m)
  | 0x80 => some (.vldsc (r5 d) (r5 a) (r5 b) m)
  | 0xA0 => some (.vgl (r5 d) (r5 a) (r5 b) m)
  | 0xE0 => some (.vtake (r5 d) (r5 a) (r5 b) m)
  | 0xE1 => some (.vread (r5 d) (r5 a) (r5 b) m)
  | _ => none

/-- Vector stores. -/
def dec1A (d a b f : Nat) : Option Instr :=
  let m := r3 (f / 256)
  match f % 256 with
  | 0x00 => need (b == 0) (.vst (r5 d) (r5 a) m)
  | 0x20 => some (.vsts (r5 d) (r5 a) (r5 b) m)
  | 0x40 => some (.vstx (r5 d) (r5 a) (r5 b) m)
  | 0x80 => some (.vstsc (r5 d) (r5 a) (r5 b) m)
  | 0xC0 => some (.vsc (r5 d) (r5 a) (r5 b) m)
  | 0xE0 => some (.vput (r5 d) (r5 a) (r5 b) m)
  | _ => none

/-- Atomics: index mode, sub = operation. -/
def dec1B (d a b f : Nat) : Option Instr :=
  if f / 32 % 8 = 2 then (AtomOp.ofCode (f % 32)).map fun op => .vatom op (r5 d) (r5 a) (r5 b) (r3 (f / 256)) else none

/-! ### Vector arithmetic (03 Table 3-10): f = mask [10:8], form [7:6], func6 [5:0] -/

/-- Integer group A. -/
def dec20 (d a b f : Nat) : Option Instr :=
  let m := r3 (f / 256)
  let form := f / 64 % 4
  (IWidth.ofCode (f / 16 % 4)).bind fun w =>
  match f % 16 with
  | 0 => (bop3 form b).map fun o => .vaddI w (r5 d) (r5 a) o m
  | 1 => (bop3 form b).map fun o => .vsubI w (r5 d) (r5 a) o m
  | 2 => (bop3 form b).map fun o => .vmulI w (r5 d) (r5 a) o m
  | 3 => (bop3 form b).map fun o => .vmulh w (r5 d) (r5 a) o m
  | 4 => (bop3 form b).map fun o => .vmulhu w (r5 d) (r5 a) o m
  | 5 => (bop3 form b).map fun o => .vminI w (r5 d) (r5 a) o m
  | 6 => (bop3 form b).map fun o => .vmaxI w (r5 d) (r5 a) o m
  | 7 => (bop3 form b).map fun o => .vminu w (r5 d) (r5 a) o m
  | 8 => (bop3 form b).map fun o => .vmaxu w (r5 d) (r5 a) o m
  | 9 => (bop3 form b).map fun o => .vand w (r5 d) (r5 a) o m
  | 10 => (bop3 form b).map fun o => .vor w (r5 d) (r5 a) o m
  | 11 => (bop3 form b).map fun o => .vxor w (r5 d) (r5 a) o m
  | 12 => (bop3 form b).map fun o => .vsll w (r5 d) (r5 a) o m
  | 13 => (bop3 form b).map fun o => .vsrl w (r5 d) (r5 a) o m
  | 14 => (bop3 form b).map fun o => .vsra w (r5 d) (r5 a) o m
  | 15 => need (form == 3) (.vmadd w (r5 d) (r5 a) (r5 b) m)
  | _ => none

/-- Integer group B and compares. -/
def dec21 (d a b f : Nat) : Option Instr :=
  let m := r3 (f / 256)
  let form := f / 64 % 4
  (IWidth.ofCode (f / 16 % 4)).bind fun w =>
  match f % 16 with
  | 0 => (bop3 form b).map fun o => .vsadd w (r5 d) (r5 a) o m
  | 1 => (bop3 form b).map fun o => .vsaddu w (r5 d) (r5 a) o m
  | 2 => (bop3 form b).map fun o => .vssub w (r5 d) (r5 a) o m
  | 3 => (bop3 form b).map fun o => .vssubu w (r5 d) (r5 a) o m
  | 4 => (bop3 form b).map fun o => .vdivI w (r5 d) (r5 a) o m
  | 5 => (bop3 form b).map fun o => .vdivu w (r5 d) (r5 a) o m
  | 6 => (bop3 form b).map fun o => .vrem w (r5 d) (r5 a) o m
  | 7 => (bop3 form b).map fun o => .vremu w (r5 d) (r5 a) o m
  | 8 => need (form == 0 && b == 0) (.vabsI w (r5 d) (r5 a) m)
  | 10 => if d < 8 then (bop3 form b).map fun o => .vceqI w (r3 d) (r5 a) o m else none
  | 11 => if d < 8 then (bop3 form b).map fun o => .vcneI w (r3 d) (r5 a) o m else none
  | 12 => if d < 8 then (bop3 form b).map fun o => .vcltI w (r3 d) (r5 a) o m else none
  | 13 => if d < 8 then (bop3 form b).map fun o => .vcltu w (r3 d) (r5 a) o m else none
  | 14 => if d < 8 then (bop3 form b).map fun o => .vcleI w (r3 d) (r5 a) o m else none
  | 15 => if d < 8 then (bop3 form b).map fun o => .vcleu w (r3 d) (r5 a) o m else none
  | _ => none

/-- FP64, FP32, FP16 and BF16 arithmetic. -/
def decVfp (k : FFmt) (d a b f : Nat) : Option Instr :=
  let m := r3 (f / 256)
  let form := f / 64 % 4
  match f % 64 with
  | 0 => (bop2 form b).map fun o => .vaddF k (r5 d) (r5 a) o m
  | 1 => (bop2 form b).map fun o => .vsubF k (r5 d) (r5 a) o m
  | 2 => (bop2 form b).map fun o => .vmulF k (r5 d) (r5 a) o m
  | 3 => (bop2 form b).map fun o => .vdivF k (r5 d) (r5 a) o m
  | 7 => (bop2 form b).map fun o => .vminF k (r5 d) (r5 a) o m
  | 8 => (bop2 form b).map fun o => .vmaxF k (r5 d) (r5 a) o m
  | 12 => (bop2 form b).map fun o => .vsgnj k (r5 d) (r5 a) o m
  | 4 => need (form == 3) (.vfmaF k (r5 d) (r5 a) (r5 b) m)
  | 5 => need (form == 3) (.vfms k (r5 d) (r5 a) (r5 b) m)
  | 6 => need (form == 3) (.vfnma k (r5 d) (r5 a) (r5 b) m)
  | 9 => need (form == 0 && b == 0) (.vsqrt k (r5 d) (r5 a) m)
  | 10 => need (form == 0 && b == 0) (.vabsF k (r5 d) (r5 a) m)
  | 11 => need (form == 0 && b == 0) (.vneg k (r5 d) (r5 a) m)
  | 13 => if d < 8 then (bop2 form b).map fun o => .vceqF k (r3 d) (r5 a) o m else none
  | 14 => if d < 8 then (bop2 form b).map fun o => .vcneF k (r3 d) (r5 a) o m else none
  | 15 => if d < 8 then (bop2 form b).map fun o => .vcltF k (r3 d) (r5 a) o m else none
  | 16 => if d < 8 then (bop2 form b).map fun o => .vcleF k (r3 d) (r5 a) o m else none
  | 17 => if d < 8 then (bop2 form b).map fun o => .vcun k (r3 d) (r5 a) o m else none
  | _ => none

/-- FP8 arithmetic. -/
def dec26 (d a b f : Nat) : Option Instr :=
  let m := r3 (f / 256)
  let form := f / 64 % 4
  (F8Fmt.ofCode (f / 32 % 2)).bind fun t =>
  match f % 32 with
  | 0 => (bop2 form b).map fun o => .vaddF8 t (r5 d) (r5 a) o m
  | 1 => (bop2 form b).map fun o => .vsubF8 t (r5 d) (r5 a) o m
  | 2 => (bop2 form b).map fun o => .vmulF8 t (r5 d) (r5 a) o m
  | 7 => (bop2 form b).map fun o => .vminF8 t (r5 d) (r5 a) o m
  | 8 => (bop2 form b).map fun o => .vmaxF8 t (r5 d) (r5 a) o m
  | 4 => need (form == 3) (.vfmaF8 t (r5 d) (r5 a) (r5 b) m)
  | _ => none

/-- Complex arithmetic. -/
def dec27 (d a b f : Nat) : Option Instr :=
  let m := r3 (f / 256)
  let form := f / 64 % 4
  (CFmt.ofCode (f / 32 % 2)).bind fun t =>
  match f % 32 with
  | 0 => (bop2 form b).map fun o => .vaddC t (r5 d) (r5 a) o m
  | 1 => (bop2 form b).map fun o => .vsubC t (r5 d) (r5 a) o m
  | 2 => (bop2 form b).map fun o => .vmulC t (r5 d) (r5 a) o m
  | 19 => (bop2 form b).map fun o => .vmulc t (r5 d) (r5 a) o m
  | 4 => need (form == 3) (.vfmaC t (r5 d) (r5 a) (r5 b) m)
  | 20 => need (form == 0 && b == 0) (.vconj t (r5 d) (r5 a) m)
  | 21 => need (form == 0 && b == 0) (.vmuli t (r5 d) (r5 a) m)
  | _ => none

/-! ### Masks, moves, reductions, conversions, transforms, tiles, streams (03 Table 3-12) -/

/-- Mask operations. -/
def dec28 (d a b f : Nat) : Option Instr :=
  let m := r3 (f / 256)
  if f / 64 % 4 ≠ 0 ∨ 8 ≤ a ∨ 8 ≤ b then none else
  match f % 64 with
  | 0 => need (d < 8) (.mand (r3 d) (r3 a) (r3 b) m)
  | 1 => need (d < 8) (.mor (r3 d) (r3 a) (r3 b) m)
  | 2 => need (d < 8) (.mxor (r3 d) (r3 a) (r3 b) m)
  | 3 => need (d < 8) (.mandn (r3 d) (r3 a) (r3 b) m)
  | 4 => need (d < 8 && b == 0) (.mnot (r3 d) (r3 a) m)
  | 5 => need (d < 8 && b == 0) (.vmfirst (r3 d) (r3 a) m)
  | 6 => need (b == 0) (.vpopc (r5 d) (r3 a) m)
  | 7 => need (b == 0) (.viota (r5 d) (r3 a) m)
  | 8 => need (d < 8 && a == 0 && b == 0) (.mset (r3 d) m)
  | 9 => need (d < 8 && a == 0 && b == 0) (.mclr (r3 d) m)
  | _ => none

/-- Merge, slides, permutation and moves. -/
def dec29 (d a b f : Nat) : Option Instr :=
  let m := r3 (f / 256)
  let form := f / 64 % 4
  match f % 64 with
  | 0 => need (form == 0) (.vmerge (r5 d) (r5 a) (r5 b) m)
  | 1 => (bopS form b).map fun o => .vslideup (r5 d) (r5 a) o m
  | 2 => (bopS form b).map fun o => .vslidedown (r5 d) (r5 a) o m
  | 3 => (bopS form b).map fun o => .vslideupk (r5 d) (r5 a) o m
  | 4 => (bopS form b).map fun o => .vslidedownk (r5 d) (r5 a) o m
  | 5 => need (form == 0) (.vperm (r5 d) (r5 a) (r5 b) m)
  | 6 => need (form == 0 && b == 0) (.vmv (r5 d) (r5 a) m)
  | 7 => need (form == 1 && a == 0) (.vmvXs (r5 d) (r5 b) m)
  | 8 => need (form == 0 && b == 0 && f / 256 == 0) (.vmvSx (r5 d) (r5 a))
  | 9 => need (form == 1 && f / 256 == 0) (.vext (r5 d) (r5 a) (r5 b))
  | _ => none

/-- Reductions. -/
def dec2A (d a b f : Nat) : Option Instr :=
  let m := r3 (f / 256)
  if f / 64 % 4 ≠ 0 ∨ b ≠ 0 then none else
  match f % 8 with
  | 0 => (RedGroup.ofCode (f / 8 % 8)).map fun g => .vredsum g (r5 d) (r5 a) m
  | 1 => (RedGroup.ofCode (f / 8 % 8)).map fun g => .vredmin g (r5 d) (r5 a) m
  | 2 => (RedGroup.ofCode (f / 8 % 8)).map fun g => .vredmax g (r5 d) (r5 a) m
  | 3 => (IWidth.ofCode (f / 8 % 8)).map fun w => .vredminu w (r5 d) (r5 a) m
  | 4 => (IWidth.ofCode (f / 8 % 8)).map fun w => .vredmaxu w (r5 d) (r5 a) m
  | 5 => (IWidth.ofCode (f / 8 % 8)).map fun w => .vredand w (r5 d) (r5 a) m
  | 6 => (IWidth.ofCode (f / 8 % 8)).map fun w => .vredor w (r5 d) (r5 a) m
  | 7 => (IWidth.ofCode (f / 8 % 8)).map fun w => .vredxor w (r5 d) (r5 a) m
  | _ => none

/-- `vcvt`. -/
def dec2C (d a b f : Nat) : Option Instr :=
  if f / 64 % 4 ≠ 0 then none else
  (Format.ofCode (f % 32)).bind fun dst => (Format.ofCode b).map fun src =>
    .vcvt dst src (f / 32 % 2 == 1) (r5 d) (r5 a) (r3 (f / 256))

/-- `vmxq`. -/
def dec2D (d a b f : Nat) : Option Instr :=
  if f / 64 % 4 ≠ 0 then none else
  (MxFmt.ofCode (f % 32)).bind fun mx => (MxSide.ofCode b).map fun src =>
    .vmxq mx src (f / 32 % 2 == 1) (r5 d) (r5 a) (r3 (f / 256))

/-- `vmxd`. -/
def dec2E (d a b f : Nat) : Option Instr :=
  if f / 32 % 8 ≠ 0 then none else
  (MxFmt.ofCode (f % 32)).bind fun mx => (MxSide.ofCode b).map fun dst => .vmxd dst mx (r5 d) (r5 a) (r3 (f / 256))

/-- Floating-point and XBF butterflies. -/
def dec30 (d a b f : Nat) : Option Instr :=
  let m := r3 (f / 256)
  let form := f / 64 % 4
  (BflyT.ofCode (f / 8 % 8)).bind fun t =>
  match f % 8 with
  | 0 => (bopB form b).map fun o => .bfly2 t (r5 d) (r5 a) o m
  | 1 => (bopB form b).map fun o => .bfly4 t (r5 d) (r5 a) o m
  | 2 => need (form == 0) (.bflyg t (r5 d) (r5 a) (r5 b) m)
  | _ => none

/-- Modular arithmetic and butterflies. -/
def dec31 (d a b f : Nat) : Option Instr :=
  let m := r3 (f / 256)
  let form := f / 64 % 4
  let p1 := f / 16 % 2 == 1
  (MWidth.ofCode (f / 32 % 2)).bind fun w =>
  match f % 16 with
  | 0 => (bop2 form b).map fun o => .mmul w p1 (r5 d) (r5 a) o m
  | 1 => (bop2 form b).map fun o => .madd w p1 (r5 d) (r5 a) o m
  | 2 => (bop2 form b).map fun o => .msub w p1 (r5 d) (r5 a) o m
  | 3 => need (form == 0 && b == 0) (.mred w p1 (r5 d) (r5 a) m)
  | 4 => need (form == 0 && b == 0) (.mlift w p1 (r5 d) (r5 a) m)
  | 5 => (bopB form b).map fun o => .bfly2M w p1 (r5 d) (r5 a) o m
  | 6 => (bopB form b).map fun o => .bfly4M w p1 (r5 d) (r5 a) o m
  | _ => none

/-- `mcrt` (vv) and `mchk` (vs, mask 0). -/
def dec32 (d a b f : Nat) : Option Instr :=
  let form := f / 64 % 4
  match f % 64 with
  | 0 => need (form == 0) (.mcrt (r5 d) (r5 a) (r5 b) (r3 (f / 256)))
  | x => if form = 1 ∧ f / 256 = 0 then (MchkSel.ofCode x).map fun c => .mchk c (r5 d) (r5 a) (r5 b) else none

/-- Twiddle generator. -/
def dec33 (d a b f : Nat) : Option Instr :=
  let form := f / 64 % 4
  match f % 64 with
  | 0 => need (form == 1 && d == 0 && a == 0 && f / 256 == 0) (.twset (r5 b))
  | x => if form = 0 ∧ a = 0 ∧ b = 0 then (TwFmt.ofCode x).map fun t => .twget t (r5 d) (r3 (f / 256)) else none

/-- `vdrev`, `vtrn` (vi) and `xbfn` (vv, b = 0). -/
def dec34 (d a b f : Nat) : Option Instr :=
  let m := r3 (f / 256)
  let form := f / 64 % 4
  match f % 64 with
  | 0 => need (form == 2) (.vdrev (r5 d) (r5 a) (BitVec.ofNat 5 b) m)
  | 1 => need (form == 2) (.vtrn (r5 d) (r5 a) (BitVec.ofNat 5 b) m)
  | 2 => need (form == 0 && b == 0) (.xbfn false (r5 d) (r5 a) m)
  | 3 => need (form == 0 && b == 0) (.xbfn true (r5 d) (r5 a) m)
  | _ => none

/-- `opa` and `ops`. -/
def dec36 (d a b f : Nat) : Option Instr :=
  if f / 64 % 4 ≠ 0 ∨ 4 ≤ d then none else
  (OpaT.ofCode (f % 32)).map fun t =>
    if f / 32 % 2 = 0 then .opa t (r2 d) (r5 a) (r5 b) (r3 (f / 256)) else .ops t (r2 d) (r5 a) (r5 b) (r3 (f / 256))

/-- Tile moves; mask 0 where 08 Table 8-2 says so. -/
def dec37 (d a b f : Nat) : Option Instr :=
  let m := r3 (f / 256)
  let z := f / 256 == 0
  if f / 64 % 4 ≠ 0 then none else
  match f % 64 with
  | 0 => need (d < 4 && a == 0 && b == 0 && z) (.azero (r2 d))
  | 1 => need (d < 4 && b == 0 && z) (.ald (r2 d) (r5 a))
  | 2 => need (d < 4 && b == 0 && z) (.ast (r2 d) (r5 a))
  | 3 => need (a < 4) (.arow (r5 d) (r2 a) (r5 b) m)
  | 4 => need (a < 4) (.acol (r5 d) (r2 a) (r5 b) m)
  | 5 => need (d < 4) (.awrow (r2 d) (r5 a) (r5 b) m)
  | 6 => need (d < 4) (.awcol (r2 d) (r5 a) (r5 b) m)
  | 7 => need (d < 4 && a < 4 && b == 0 && z) (.amov (r2 d) (r2 a))
  | _ => none

/-- `aepi`: vs, mask 0. -/
def dec38 (d a b f : Nat) : Option Instr :=
  if f / 64 ≠ 1 ∨ 8 ≤ d ∨ 4 ≤ a then none else
  (AepiOut.ofCode (f % 32)).map fun t => .aepi t (f / 32 % 2 == 1) (r3 d) (r2 a) (r5 b)

/-- Stream short forms (09 Table 9-4). -/
def dec3A (d a b f : Nat) : Option Instr :=
  if f % 64 ≠ 0 ∨ 8 ≤ d then none else
  match f / 64 with
  | 0 => need (a == 0) (.sbind (r3 d) (r5 b))
  | 1 => need (a == 0 && b == 0) (.sunbind (r3 d))
  | 2 => need (a < 8 && b < 8) (.sisect (r3 d) (r3 a) (r3 b))
  | 3 => need (a < 8 && b < 8) (.sunite (r3 d) (r3 a) (r3 b))
  | 4 => need (b == 0) (.sskip (r3 d) (r5 a))
  | 5 => need (b == 0) (.ssave (r3 d) (r5 a))
  | 6 => need (b == 0) (.srest (r3 d) (r5 a))
  | _ => none

/-- A short word (03 Table 3-5), before the register limits of `Instr.wf`. -/
def decodeFields (x : Fields) : Option Instr :=
  let d := x.d; let a := x.a; let b := x.b; let f := x.f
  let imm := BitVec.ofNat 16 (b * 2 ^ 11 + f)
  match x.major with
  | 0x01 => dec01 d a b f
  | 0x02 => dec02 d a b f
  | 0x03 => some (.addi (r5 d) (r5 a) imm)
  | 0x04 => dec04 d a b f
  | 0x05 => some (.andi (r5 d) (r5 a) imm)
  | 0x06 => some (.ori (r5 d) (r5 a) imm)
  | 0x07 => need (a == 0) (.lui (r5 d) imm)
  | 0x08 => decLoad false d a b f
  | 0x09 => decStore false d a b f
  | 0x0A => decLoad true d a b f
  | 0x0B => decStore true d a b f
  | 0x0C => decSfp .fp32 d a b f
  | 0x0D => decSfp .fp64 d a b f
  | 0x0E => dec0E d a b f
  | 0x10 => some (.beq (r5 d) (r5 a) imm)
  | 0x11 => some (.bne (r5 d) (r5 a) imm)
  | 0x12 => dec12 d a b f
  | 0x13 => some (.jal (BitVec.ofNat 26 (d * 2 ^ 21 + a * 2 ^ 16 + b * 2 ^ 11 + f)))
  | 0x14 => need (a == 0) (.hcrr (r5 d) imm)
  | 0x15 => dec15 d a b f
  | 0x16 => dec16 d a b f
  | 0x18 => dec18 d a b f
  | 0x19 => dec19 d a b f
  | 0x1A => dec1A d a b f
  | 0x1B => dec1B d a b f
  | 0x20 => dec20 d a b f
  | 0x21 => dec21 d a b f
  | 0x22 => decVfp .fp64 d a b f
  | 0x23 => decVfp .fp32 d a b f
  | 0x24 => decVfp .fp16 d a b f
  | 0x25 => decVfp .bf16 d a b f
  | 0x26 => dec26 d a b f
  | 0x27 => dec27 d a b f
  | 0x28 => dec28 d a b f
  | 0x29 => dec29 d a b f
  | 0x2A => dec2A d a b f
  | 0x2C => dec2C d a b f
  | 0x2D => dec2D d a b f
  | 0x2E => dec2E d a b f
  | 0x30 => dec30 d a b f
  | 0x31 => dec31 d a b f
  | 0x32 => dec32 d a b f
  | 0x33 => dec33 d a b f
  | 0x34 => dec34 d a b f
  | 0x36 => dec36 d a b f
  | 0x37 => dec37 d a b f
  | 0x38 => dec38 d a b f
  | 0x3A => dec3A d a b f
  | 0x3E => some .hint -- the hint data has no effect (03 R79)
  | _ => none

/-- The common payload word (09 Table 9-5): bits [31:23] are 0. -/
def decW1 (w : Nat) : Option CmdW1 :=
  if w / 2 ^ 23 ≠ 0 then none else
  (Space.ofCode (w / 2 ^ 21 % 4)).bind fun ds => (Space.ofCode (w / 2 ^ 19 % 4)).map fun ss =>
    { dspace := ds, sspace := ss, sidx := BitVec.ofNat 13 (w / 64), ston := w / 32 % 2 == 1, tkon := w / 16 % 2 == 1,
      tk := Fin.ofNat 16 w }

/-- The common payload word of its fields. -/
def CmdW1.word (x : CmdW1) : Nat :=
  x.dspace.code * 2 ^ 21 + x.sspace.code * 2 ^ 19 + x.sidx.toNat * 64 + bit x.ston * 32 + bit x.tkon * 16 + x.tk.val

/-- A long form (03 Table 3-13; chapter 9), before the field rules of `Instr.wf`. -/
def decodeLongFields (x : LongFields) : Option Instr :=
  match x.lop with
  | 1 => if x.pd < 8 ∧ x.psub % 4 = 0 ∧ x.w2 / 256 = 0 ∧ x.w3 = 0 then
      (Format.ofCode (x.w2 % 32)).bind fun fmt => (Space.ofCode (x.w2 / 64 % 4)).map fun sp =>
        .saff (r3 x.pd) (r5 x.pa) (r5 x.pb) (r2 (x.psub / 8)) (x.psub / 4 % 2 == 1) (BitVec.ofNat 32 x.w1) fmt
          (x.w2 / 32 % 2 == 1) sp
      else none
  | 2 => need (x.pd < 8 && x.pb == 0 && x.psub / 4 == 0 && x.w1 == 0 && x.w2 == 0 && x.w3 == 0)
      (.sidx (r3 x.pd) (r5 x.pa) (x.psub / 2 % 2 == 1) (x.psub % 2 == 1))
  | 3 => if x.pd < 8 ∧ x.psub % 4 = 0 ∧ x.w3 / 128 = 0 then
      (Space.ofCode (x.w3 / 32 % 4)).map fun sp =>
        .sfib (r3 x.pd) (r5 x.pa) (r5 x.pb) (r2 (x.psub / 8)) (x.psub / 4 % 2 == 1) (BitVec.ofNat 32 x.w1)
          (BitVec.ofNat 32 x.w2) (r5 x.w3) sp
      else none
  | 4 => if x.psub % 8 < 4 then
      (CopyForm.ofCode (x.psub / 8)).bind fun form => (decW1 x.w1).map fun w1 =>
        .copy (r5 x.pd) (r5 x.pa) (r5 x.pb) form (r2 x.psub) w1 (BitVec.ofNat 32 x.w2) (BitVec.ofNat 32 x.w3)
      else none
  | 5 => if x.psub / 8 = 0 ∧ x.w3 = 0 then
      (CollKind.ofCode (x.psub % 8)).bind fun k => (decW1 x.w1).bind fun w1 =>
      (CollOp.ofCode (x.w2 / 32 % 8)).map fun op =>
        .coll (r5 x.pd) (r5 x.pa) (r5 x.pb) k w1 (BitVec.ofNat 5 x.w2) op (BitVec.ofNat 8 (x.w2 / 256))
          (BitVec.ofNat 16 (x.w2 / 65536))
      else none
  | 6 => if x.psub = 0 ∧ x.w3 / 65536 = 0 then
      (decW1 x.w1).map fun w1 =>
        .putE (r5 x.pd) (r5 x.pa) (r5 x.pb) w1 (BitVec.ofNat 32 x.w2) (BitVec.ofNat 16 x.w3)
      else none
  | 7 => if x.pa = 0 ∧ x.pb = 0 ∧ x.psub = 0 ∧ x.w2 / 65536 = 0 ∧ x.w3 = 0 then
      (decW1 x.w1).map fun w1 => .taskPut (r5 x.pd) w1 (BitVec.ofNat 16 x.w2)
      else none
  | _ => none

/-- Keep a well-formed instruction only (03 R78). -/
def onlyWf (x : Option Instr) : Option Instr := x.bind fun i => if i.wf then some i else none

/-- Decode a word that is not a prefix. -/
def decodeWord (w : Nat) : Option Instr := onlyWf (decodeFields (Fields.ofWord w))

/-- Decode a long form. -/
def decodeLong (w0 w1 w2 w3 : Nat) : Option Instr := onlyWf (decodeLongFields (LongFields.ofWords w0 w1 w2 w3))

/-- A word is a long-form prefix (03 R76). -/
def isPrefix (w : Nat) : Bool := w / 2 ^ 26 % 64 == 63

/-- The little-endian number of a list of bytes (00 R5). -/
def leNat : List Byte → Nat
  | [] => 0
  | b :: bs => b.toNat + 256 * leNat bs

/-- The first `n` bytes of a number, little-endian. -/
def leBytes : Nat → Nat → List Byte
  | 0, _ => []
  | n + 1, x => BitVec.ofNat 8 x :: leBytes n (x / 256)

/-- Decode the aligned 16-byte block at a word offset 0, 4, 8 or 12 (03 R70, R76): the instruction and its length. -/
def decodeBlock (blk : List Byte) (off : Nat) : Option (Instr × Nat) :=
  let w := fun k => leNat ((blk.drop (4 * k)).take 4)
  if isPrefix (w 0) then
    if off = 0 then (decodeLong (w 0) (w 1) (w 2) (w 3)).map fun i => (i, 16) else none
  else if isPrefix (w (off / 4)) then none
  else (decodeWord (w (off / 4))).map fun i => (i, 4)

/-- What the decoder reads from an instruction whose bits are `w`, the first word in the least significant bits:
the bytes are laid out as memory holds them, in an aligned block, and decoded. -/
def decodeTableWord (nbits w : Nat) : Option Instr :=
  (decodeBlock (leBytes 16 (w % 2 ^ nbits)) 0).map (·.1)

/-! ### The encoder, from the same tables -/

/-- The fields of a short instruction; none for a long form or a step that is no instruction. -/
def encodeFields : Instr → Option Fields
  | .add d a b => some ⟨1, d.val, a.val, b.val, 0⟩
  | .sub d a b => some ⟨1, d.val, a.val, b.val, 1⟩
  | .and d a b => some ⟨1, d.val, a.val, b.val, 2⟩
  | .or d a b => some ⟨1, d.val, a.val, b.val, 3⟩
  | .xor d a b => some ⟨1, d.val, a.val, b.val, 4⟩
  | .sll d a b => some ⟨1, d.val, a.val, b.val, 5⟩
  | .srl d a b => some ⟨1, d.val, a.val, b.val, 6⟩
  | .sra d a b => some ⟨1, d.val, a.val, b.val, 7⟩
  | .slt d a b => some ⟨1, d.val, a.val, b.val, 8⟩
  | .sltu d a b => some ⟨1, d.val, a.val, b.val, 9⟩
  | .seq d a b => some ⟨1, d.val, a.val, b.val, 10⟩
  | .min d a b => some ⟨1, d.val, a.val, b.val, 11⟩
  | .max d a b => some ⟨1, d.val, a.val, b.val, 12⟩
  | .minu d a b => some ⟨1, d.val, a.val, b.val, 13⟩
  | .maxu d a b => some ⟨1, d.val, a.val, b.val, 14⟩
  | .clz d a => some ⟨1, d.val, a.val, 0, 15⟩
  | .ctz d a => some ⟨1, d.val, a.val, 0, 16⟩
  | .popc d a => some ⟨1, d.val, a.val, 0, 17⟩
  | .mul d a b => some ⟨2, d.val, a.val, b.val, 0⟩
  | .mulh d a b => some ⟨2, d.val, a.val, b.val, 1⟩
  | .mulhu d a b => some ⟨2, d.val, a.val, b.val, 2⟩
  | .mulhsu d a b => some ⟨2, d.val, a.val, b.val, 3⟩
  | .div d a b => some ⟨2, d.val, a.val, b.val, 4⟩
  | .divu d a b => some ⟨2, d.val, a.val, b.val, 5⟩
  | .rem d a b => some ⟨2, d.val, a.val, b.val, 6⟩
  | .remu d a b => some ⟨2, d.val, a.val, b.val, 7⟩
  | .addi d a imm => some ⟨3, d.val, a.val, (imm.toNat / 2 ^ 11), (imm.toNat % 2 ^ 11)⟩
  | .slli d a sh => some ⟨4, d.val, a.val, 0, (0 + sh.toNat)⟩
  | .srli d a sh => some ⟨4, d.val, a.val, 0, (256 + sh.toNat)⟩
  | .srai d a sh => some ⟨4, d.val, a.val, 0, (512 + sh.toNat)⟩
  | .andi d a imm => some ⟨5, d.val, a.val, (imm.toNat / 2 ^ 11), (imm.toNat % 2 ^ 11)⟩
  | .ori d a imm => some ⟨6, d.val, a.val, (imm.toNat / 2 ^ 11), (imm.toNat % 2 ^ 11)⟩
  | .lui d imm => some ⟨7, d.val, 0, (imm.toNat / 2 ^ 11), (imm.toNat % 2 ^ 11)⟩
  | .ldb g d a off => some ⟨(8 + 2 * bit g), d.val, a.val, (off.toNat / 2 ^ 8), (off.toNat % 2 ^ 8 * 8 + 0)⟩
  | .ldh g d a off => some ⟨(8 + 2 * bit g), d.val, a.val, (off.toNat / 2 ^ 8), (off.toNat % 2 ^ 8 * 8 + 1)⟩
  | .ldw g d a off => some ⟨(8 + 2 * bit g), d.val, a.val, (off.toNat / 2 ^ 8), (off.toNat % 2 ^ 8 * 8 + 2)⟩
  | .ldd g d a off => some ⟨(8 + 2 * bit g), d.val, a.val, (off.toNat / 2 ^ 8), (off.toNat % 2 ^ 8 * 8 + 3)⟩
  | .ldbu g d a off => some ⟨(8 + 2 * bit g), d.val, a.val, (off.toNat / 2 ^ 8), (off.toNat % 2 ^ 8 * 8 + 4)⟩
  | .ldhu g d a off => some ⟨(8 + 2 * bit g), d.val, a.val, (off.toNat / 2 ^ 8), (off.toNat % 2 ^ 8 * 8 + 5)⟩
  | .ldwu g d a off => some ⟨(8 + 2 * bit g), d.val, a.val, (off.toNat / 2 ^ 8), (off.toNat % 2 ^ 8 * 8 + 6)⟩
  | .stb g d a off => some ⟨(9 + 2 * bit g), d.val, a.val, (off.toNat / 2 ^ 8), (off.toNat % 2 ^ 8 * 8 + 0)⟩
  | .sth g d a off => some ⟨(9 + 2 * bit g), d.val, a.val, (off.toNat / 2 ^ 8), (off.toNat % 2 ^ 8 * 8 + 1)⟩
  | .stw g d a off => some ⟨(9 + 2 * bit g), d.val, a.val, (off.toNat / 2 ^ 8), (off.toNat % 2 ^ 8 * 8 + 2)⟩
  | .std g d a off => some ⟨(9 + 2 * bit g), d.val, a.val, (off.toNat / 2 ^ 8), (off.toNat % 2 ^ 8 * 8 + 3)⟩
  | .fadd k d a b => some ⟨(12 + k.code), d.val, a.val, b.val, 0⟩
  | .fsub k d a b => some ⟨(12 + k.code), d.val, a.val, b.val, 1⟩
  | .fmul k d a b => some ⟨(12 + k.code), d.val, a.val, b.val, 2⟩
  | .fdiv k d a b => some ⟨(12 + k.code), d.val, a.val, b.val, 3⟩
  | .fmadd k d a b => some ⟨(12 + k.code), d.val, a.val, b.val, 4⟩
  | .fmin k d a b => some ⟨(12 + k.code), d.val, a.val, b.val, 5⟩
  | .fmax k d a b => some ⟨(12 + k.code), d.val, a.val, b.val, 6⟩
  | .fsqrt k d a => some ⟨(12 + k.code), d.val, a.val, 0, 7⟩
  | .fneg k d a => some ⟨(12 + k.code), d.val, a.val, 0, 8⟩
  | .fabs k d a => some ⟨(12 + k.code), d.val, a.val, 0, 9⟩
  | .fsgnj k d a b => some ⟨(12 + k.code), d.val, a.val, b.val, 10⟩
  | .feq k d a b => some ⟨(12 + k.code), d.val, a.val, b.val, 11⟩
  | .flt k d a b => some ⟨(12 + k.code), d.val, a.val, b.val, 12⟩
  | .fle k d a b => some ⟨(12 + k.code), d.val, a.val, b.val, 13⟩
  | .fcvtFp64Fp32 d a => some ⟨14, d.val, a.val, 0, 0⟩
  | .fcvtFp32Fp64 d a => some ⟨14, d.val, a.val, 0, 1⟩
  | .fcvtFp32I64 d a => some ⟨14, d.val, a.val, 0, 2⟩
  | .fcvtFp64I64 d a => some ⟨14, d.val, a.val, 0, 3⟩
  | .fcvtFp32Ui64 d a => some ⟨14, d.val, a.val, 0, 4⟩
  | .fcvtFp64Ui64 d a => some ⟨14, d.val, a.val, 0, 5⟩
  | .fcvtI64Fp32 d a => some ⟨14, d.val, a.val, 0, 6⟩
  | .fcvtI64Fp64 d a => some ⟨14, d.val, a.val, 0, 7⟩
  | .fcvtUi64Fp32 d a => some ⟨14, d.val, a.val, 0, 8⟩
  | .fcvtUi64Fp64 d a => some ⟨14, d.val, a.val, 0, 9⟩
  | .fcvtFp16Fp32 d a => some ⟨14, d.val, a.val, 0, 10⟩
  | .fcvtFp32Fp16 d a => some ⟨14, d.val, a.val, 0, 11⟩
  | .fcvtBf16Fp32 d a => some ⟨14, d.val, a.val, 0, 12⟩
  | .fcvtFp32Bf16 d a => some ⟨14, d.val, a.val, 0, 13⟩
  | .beq a b off => some ⟨16, a.val, b.val, (off.toNat / 2 ^ 11), (off.toNat % 2 ^ 11)⟩
  | .bne a b off => some ⟨17, a.val, b.val, (off.toNat / 2 ^ 11), (off.toNat % 2 ^ 11)⟩
  | .bmany m off => some ⟨18, m.val, 0, (off.toNat / 2 ^ 11), (off.toNat % 2 ^ 11)⟩
  | .bmnone m off => some ⟨18, (8 + m.val), 0, (off.toNat / 2 ^ 11), (off.toNat % 2 ^ 11)⟩
  | .jalr b off => some ⟨18, 16, b.val, (off.toNat / 2 ^ 11), (off.toNat % 2 ^ 11)⟩
  | .jr b off => some ⟨18, 24, b.val, (off.toNat / 2 ^ 11), (off.toNat % 2 ^ 11)⟩
  | .jal off => some ⟨19, (off.toNat / 2 ^ 21), (off.toNat / 2 ^ 16 % 32), (off.toNat / 2 ^ 11 % 32), (off.toNat % 2 ^ 11)⟩
  | .hcrr d num => some ⟨20, d.val, 0, (num.toNat / 2 ^ 11), (num.toNat % 2 ^ 11)⟩
  | .hcrw a num => some ⟨21, 0, a.val, (num.toNat / 2 ^ 11), (num.toNat % 2 ^ 11)⟩
  | .trap code => some ⟨21, 1, 0, (code.toNat / 2 ^ 11), (code.toNat % 2 ^ 11)⟩
  | .brk code => some ⟨21, 4, 0, (code.toNat / 2 ^ 11), (code.toNat % 2 ^ 11)⟩
  | .fence sc => some ⟨22, 0, 0, 0, sc.code⟩
  | .barArrive id => some ⟨22, 0, 0, 0, (64 + id.toNat)⟩
  | .barWait id => some ⟨22, 0, 0, 0, (128 + id.toNat)⟩
  | .await a => some ⟨22, 0, a.val, 0, 192⟩
  | .tkwait n a => some ⟨22, 0, a.val, 0, (256 + n.val)⟩
  | .farmInit a b => some ⟨22, 0, a.val, b.val, 320⟩
  | .farmNext d => some ⟨22, d.val, 0, 0, 384⟩
  | .setvl d a w => some ⟨24, d.val, a.val, 0, (w.code * 32)⟩
  | .setvlAcq d a w sc => some ⟨24, d.val, a.val, 0, (256 + w.code * 32 + sc.code)⟩
  | .strip d => some ⟨24, d.val, 0, 0, 512⟩
  | .stripRel d sc => some ⟨24, d.val, 0, 0, (768 + sc.code)⟩
  | .vld d a m => some ⟨25, d.val, a.val, 0, (m.val * 256 + 0)⟩
  | .vlds d a b m => some ⟨25, d.val, a.val, b.val, (m.val * 256 + 32)⟩
  | .vldx d a b m => some ⟨25, d.val, a.val, b.val, (m.val * 256 + 64)⟩
  | .vldff d a m => some ⟨25, d.val, a.val, 0, (m.val * 256 + 96)⟩
  | .vldsc d a b m => some ⟨25, d.val, a.val, b.val, (m.val * 256 + 128)⟩
  | .vgl d a b m => some ⟨25, d.val, a.val, b.val, (m.val * 256 + 160)⟩
  | .vtake d a b m => some ⟨25, d.val, a.val, b.val, (m.val * 256 + 224)⟩
  | .vread d a b m => some ⟨25, d.val, a.val, b.val, (m.val * 256 + 225)⟩
  | .vst d a m => some ⟨26, d.val, a.val, 0, (m.val * 256 + 0)⟩
  | .vsts d a b m => some ⟨26, d.val, a.val, b.val, (m.val * 256 + 32)⟩
  | .vstx d a b m => some ⟨26, d.val, a.val, b.val, (m.val * 256 + 64)⟩
  | .vstsc d a b m => some ⟨26, d.val, a.val, b.val, (m.val * 256 + 128)⟩
  | .vsc d a b m => some ⟨26, d.val, a.val, b.val, (m.val * 256 + 192)⟩
  | .vput d a b m => some ⟨26, d.val, a.val, b.val, (m.val * 256 + 224)⟩
  | .vatom op d a b m => some ⟨27, d.val, a.val, b.val, (m.val * 256 + 64 + op.code)⟩
  | .vaddI w d a o m => some ⟨32, d.val, a.val, o.enc.2, (m.val * 256 + o.enc.1 * 64 + w.code * 16 + 0)⟩
  | .vsubI w d a o m => some ⟨32, d.val, a.val, o.enc.2, (m.val * 256 + o.enc.1 * 64 + w.code * 16 + 1)⟩
  | .vmulI w d a o m => some ⟨32, d.val, a.val, o.enc.2, (m.val * 256 + o.enc.1 * 64 + w.code * 16 + 2)⟩
  | .vmulh w d a o m => some ⟨32, d.val, a.val, o.enc.2, (m.val * 256 + o.enc.1 * 64 + w.code * 16 + 3)⟩
  | .vmulhu w d a o m => some ⟨32, d.val, a.val, o.enc.2, (m.val * 256 + o.enc.1 * 64 + w.code * 16 + 4)⟩
  | .vminI w d a o m => some ⟨32, d.val, a.val, o.enc.2, (m.val * 256 + o.enc.1 * 64 + w.code * 16 + 5)⟩
  | .vmaxI w d a o m => some ⟨32, d.val, a.val, o.enc.2, (m.val * 256 + o.enc.1 * 64 + w.code * 16 + 6)⟩
  | .vminu w d a o m => some ⟨32, d.val, a.val, o.enc.2, (m.val * 256 + o.enc.1 * 64 + w.code * 16 + 7)⟩
  | .vmaxu w d a o m => some ⟨32, d.val, a.val, o.enc.2, (m.val * 256 + o.enc.1 * 64 + w.code * 16 + 8)⟩
  | .vand w d a o m => some ⟨32, d.val, a.val, o.enc.2, (m.val * 256 + o.enc.1 * 64 + w.code * 16 + 9)⟩
  | .vor w d a o m => some ⟨32, d.val, a.val, o.enc.2, (m.val * 256 + o.enc.1 * 64 + w.code * 16 + 10)⟩
  | .vxor w d a o m => some ⟨32, d.val, a.val, o.enc.2, (m.val * 256 + o.enc.1 * 64 + w.code * 16 + 11)⟩
  | .vsll w d a o m => some ⟨32, d.val, a.val, o.enc.2, (m.val * 256 + o.enc.1 * 64 + w.code * 16 + 12)⟩
  | .vsrl w d a o m => some ⟨32, d.val, a.val, o.enc.2, (m.val * 256 + o.enc.1 * 64 + w.code * 16 + 13)⟩
  | .vsra w d a o m => some ⟨32, d.val, a.val, o.enc.2, (m.val * 256 + o.enc.1 * 64 + w.code * 16 + 14)⟩
  | .vmadd w d a b m => some ⟨32, d.val, a.val, b.val, (m.val * 256 + 192 + w.code * 16 + 15)⟩
  | .vsadd w d a o m => some ⟨33, d.val, a.val, o.enc.2, (m.val * 256 + o.enc.1 * 64 + w.code * 16 + 0)⟩
  | .vsaddu w d a o m => some ⟨33, d.val, a.val, o.enc.2, (m.val * 256 + o.enc.1 * 64 + w.code * 16 + 1)⟩
  | .vssub w d a o m => some ⟨33, d.val, a.val, o.enc.2, (m.val * 256 + o.enc.1 * 64 + w.code * 16 + 2)⟩
  | .vssubu w d a o m => some ⟨33, d.val, a.val, o.enc.2, (m.val * 256 + o.enc.1 * 64 + w.code * 16 + 3)⟩
  | .vdivI w d a o m => some ⟨33, d.val, a.val, o.enc.2, (m.val * 256 + o.enc.1 * 64 + w.code * 16 + 4)⟩
  | .vdivu w d a o m => some ⟨33, d.val, a.val, o.enc.2, (m.val * 256 + o.enc.1 * 64 + w.code * 16 + 5)⟩
  | .vrem w d a o m => some ⟨33, d.val, a.val, o.enc.2, (m.val * 256 + o.enc.1 * 64 + w.code * 16 + 6)⟩
  | .vremu w d a o m => some ⟨33, d.val, a.val, o.enc.2, (m.val * 256 + o.enc.1 * 64 + w.code * 16 + 7)⟩
  | .vabsI w d a m => some ⟨33, d.val, a.val, 0, (m.val * 256 + w.code * 16 + 8)⟩
  | .vceqI w d a o m => some ⟨33, d.val, a.val, o.enc.2, (m.val * 256 + o.enc.1 * 64 + w.code * 16 + 10)⟩
  | .vcneI w d a o m => some ⟨33, d.val, a.val, o.enc.2, (m.val * 256 + o.enc.1 * 64 + w.code * 16 + 11)⟩
  | .vcltI w d a o m => some ⟨33, d.val, a.val, o.enc.2, (m.val * 256 + o.enc.1 * 64 + w.code * 16 + 12)⟩
  | .vcltu w d a o m => some ⟨33, d.val, a.val, o.enc.2, (m.val * 256 + o.enc.1 * 64 + w.code * 16 + 13)⟩
  | .vcleI w d a o m => some ⟨33, d.val, a.val, o.enc.2, (m.val * 256 + o.enc.1 * 64 + w.code * 16 + 14)⟩
  | .vcleu w d a o m => some ⟨33, d.val, a.val, o.enc.2, (m.val * 256 + o.enc.1 * 64 + w.code * 16 + 15)⟩
  | .vaddF k d a o m => some ⟨(34 + k.code), d.val, a.val, o.enc.2, (m.val * 256 + o.enc.1 * 64 + 0)⟩
  | .vsubF k d a o m => some ⟨(34 + k.code), d.val, a.val, o.enc.2, (m.val * 256 + o.enc.1 * 64 + 1)⟩
  | .vmulF k d a o m => some ⟨(34 + k.code), d.val, a.val, o.enc.2, (m.val * 256 + o.enc.1 * 64 + 2)⟩
  | .vdivF k d a o m => some ⟨(34 + k.code), d.val, a.val, o.enc.2, (m.val * 256 + o.enc.1 * 64 + 3)⟩
  | .vfmaF k d a b m => some ⟨(34 + k.code), d.val, a.val, b.val, (m.val * 256 + 192 + 4)⟩
  | .vfms k d a b m => some ⟨(34 + k.code), d.val, a.val, b.val, (m.val * 256 + 192 + 5)⟩
  | .vfnma k d a b m => some ⟨(34 + k.code), d.val, a.val, b.val, (m.val * 256 + 192 + 6)⟩
  | .vminF k d a o m => some ⟨(34 + k.code), d.val, a.val, o.enc.2, (m.val * 256 + o.enc.1 * 64 + 7)⟩
  | .vmaxF k d a o m => some ⟨(34 + k.code), d.val, a.val, o.enc.2, (m.val * 256 + o.enc.1 * 64 + 8)⟩
  | .vsqrt k d a m => some ⟨(34 + k.code), d.val, a.val, 0, (m.val * 256 + 9)⟩
  | .vabsF k d a m => some ⟨(34 + k.code), d.val, a.val, 0, (m.val * 256 + 10)⟩
  | .vneg k d a m => some ⟨(34 + k.code), d.val, a.val, 0, (m.val * 256 + 11)⟩
  | .vsgnj k d a o m => some ⟨(34 + k.code), d.val, a.val, o.enc.2, (m.val * 256 + o.enc.1 * 64 + 12)⟩
  | .vceqF k d a o m => some ⟨(34 + k.code), d.val, a.val, o.enc.2, (m.val * 256 + o.enc.1 * 64 + 13)⟩
  | .vcneF k d a o m => some ⟨(34 + k.code), d.val, a.val, o.enc.2, (m.val * 256 + o.enc.1 * 64 + 14)⟩
  | .vcltF k d a o m => some ⟨(34 + k.code), d.val, a.val, o.enc.2, (m.val * 256 + o.enc.1 * 64 + 15)⟩
  | .vcleF k d a o m => some ⟨(34 + k.code), d.val, a.val, o.enc.2, (m.val * 256 + o.enc.1 * 64 + 16)⟩
  | .vcun k d a o m => some ⟨(34 + k.code), d.val, a.val, o.enc.2, (m.val * 256 + o.enc.1 * 64 + 17)⟩
  | .vaddF8 t d a o m => some ⟨38, d.val, a.val, o.enc.2, (m.val * 256 + o.enc.1 * 64 + t.code * 32 + 0)⟩
  | .vsubF8 t d a o m => some ⟨38, d.val, a.val, o.enc.2, (m.val * 256 + o.enc.1 * 64 + t.code * 32 + 1)⟩
  | .vmulF8 t d a o m => some ⟨38, d.val, a.val, o.enc.2, (m.val * 256 + o.enc.1 * 64 + t.code * 32 + 2)⟩
  | .vfmaF8 t d a b m => some ⟨38, d.val, a.val, b.val, (m.val * 256 + 192 + t.code * 32 + 4)⟩
  | .vminF8 t d a o m => some ⟨38, d.val, a.val, o.enc.2, (m.val * 256 + o.enc.1 * 64 + t.code * 32 + 7)⟩
  | .vmaxF8 t d a o m => some ⟨38, d.val, a.val, o.enc.2, (m.val * 256 + o.enc.1 * 64 + t.code * 32 + 8)⟩
  | .vaddC t d a o m => some ⟨39, d.val, a.val, o.enc.2, (m.val * 256 + o.enc.1 * 64 + t.code * 32 + 0)⟩
  | .vsubC t d a o m => some ⟨39, d.val, a.val, o.enc.2, (m.val * 256 + o.enc.1 * 64 + t.code * 32 + 1)⟩
  | .vmulC t d a o m => some ⟨39, d.val, a.val, o.enc.2, (m.val * 256 + o.enc.1 * 64 + t.code * 32 + 2)⟩
  | .vfmaC t d a b m => some ⟨39, d.val, a.val, b.val, (m.val * 256 + 192 + t.code * 32 + 4)⟩
  | .vmulc t d a o m => some ⟨39, d.val, a.val, o.enc.2, (m.val * 256 + o.enc.1 * 64 + t.code * 32 + 19)⟩
  | .vconj t d a m => some ⟨39, d.val, a.val, 0, (m.val * 256 + t.code * 32 + 20)⟩
  | .vmuli t d a m => some ⟨39, d.val, a.val, 0, (m.val * 256 + t.code * 32 + 21)⟩
  | .mand d a b m => some ⟨40, d.val, a.val, b.val, (m.val * 256 + 0)⟩
  | .mor d a b m => some ⟨40, d.val, a.val, b.val, (m.val * 256 + 1)⟩
  | .mxor d a b m => some ⟨40, d.val, a.val, b.val, (m.val * 256 + 2)⟩
  | .mandn d a b m => some ⟨40, d.val, a.val, b.val, (m.val * 256 + 3)⟩
  | .mnot d a m => some ⟨40, d.val, a.val, 0, (m.val * 256 + 4)⟩
  | .vmfirst d a m => some ⟨40, d.val, a.val, 0, (m.val * 256 + 5)⟩
  | .vpopc d a m => some ⟨40, d.val, a.val, 0, (m.val * 256 + 6)⟩
  | .viota d a m => some ⟨40, d.val, a.val, 0, (m.val * 256 + 7)⟩
  | .mset d m => some ⟨40, d.val, 0, 0, (m.val * 256 + 8)⟩
  | .mclr d m => some ⟨40, d.val, 0, 0, (m.val * 256 + 9)⟩
  | .vmerge d a b m => some ⟨41, d.val, a.val, b.val, (m.val * 256 + 0)⟩
  | .vslideup d a o m => some ⟨41, d.val, a.val, o.enc.2, (m.val * 256 + o.enc.1 * 64 + 1)⟩
  | .vslidedown d a o m => some ⟨41, d.val, a.val, o.enc.2, (m.val * 256 + o.enc.1 * 64 + 2)⟩
  | .vslideupk d a o m => some ⟨41, d.val, a.val, o.enc.2, (m.val * 256 + o.enc.1 * 64 + 3)⟩
  | .vslidedownk d a o m => some ⟨41, d.val, a.val, o.enc.2, (m.val * 256 + o.enc.1 * 64 + 4)⟩
  | .vperm d a b m => some ⟨41, d.val, a.val, b.val, (m.val * 256 + 5)⟩
  | .vmv d a m => some ⟨41, d.val, a.val, 0, (m.val * 256 + 6)⟩
  | .vmvXs d b m => some ⟨41, d.val, 0, b.val, (m.val * 256 + 64 + 7)⟩
  | .vmvSx d a => some ⟨41, d.val, a.val, 0, 8⟩
  | .vext d a b => some ⟨41, d.val, a.val, b.val, (64 + 9)⟩
  | .vredsum g d a m => some ⟨42, d.val, a.val, 0, (m.val * 256 + g.code * 8 + 0)⟩
  | .vredmin g d a m => some ⟨42, d.val, a.val, 0, (m.val * 256 + g.code * 8 + 1)⟩
  | .vredmax g d a m => some ⟨42, d.val, a.val, 0, (m.val * 256 + g.code * 8 + 2)⟩
  | .vredminu g d a m => some ⟨42, d.val, a.val, 0, (m.val * 256 + g.code * 8 + 3)⟩
  | .vredmaxu g d a m => some ⟨42, d.val, a.val, 0, (m.val * 256 + g.code * 8 + 4)⟩
  | .vredand g d a m => some ⟨42, d.val, a.val, 0, (m.val * 256 + g.code * 8 + 5)⟩
  | .vredor g d a m => some ⟨42, d.val, a.val, 0, (m.val * 256 + g.code * 8 + 6)⟩
  | .vredxor g d a m => some ⟨42, d.val, a.val, 0, (m.val * 256 + g.code * 8 + 7)⟩
  | .vcvt dst src md d a m => some ⟨44, d.val, a.val, src.code, (m.val * 256 + bit md * 32 + dst.code)⟩
  | .vmxq mx src sr d a m => some ⟨45, d.val, a.val, src.code, (m.val * 256 + bit sr * 32 + mx.code)⟩
  | .vmxd dst mx d a m => some ⟨46, d.val, a.val, dst.code, (m.val * 256 + mx.code)⟩
  | .bfly2 t d a o m => some ⟨48, d.val, a.val, o.enc.2, (m.val * 256 + o.enc.1 * 64 + t.code * 8 + 0)⟩
  | .bfly4 t d a o m => some ⟨48, d.val, a.val, o.enc.2, (m.val * 256 + o.enc.1 * 64 + t.code * 8 + 1)⟩
  | .bflyg t d a b m => some ⟨48, d.val, a.val, b.val, (m.val * 256 + t.code * 8 + 2)⟩
  | .mmul w p d a o m => some ⟨49, d.val, a.val, o.enc.2, (m.val * 256 + o.enc.1 * 64 + w.code * 32 + bit p * 16 + 0)⟩
  | .madd w p d a o m => some ⟨49, d.val, a.val, o.enc.2, (m.val * 256 + o.enc.1 * 64 + w.code * 32 + bit p * 16 + 1)⟩
  | .msub w p d a o m => some ⟨49, d.val, a.val, o.enc.2, (m.val * 256 + o.enc.1 * 64 + w.code * 32 + bit p * 16 + 2)⟩
  | .mred w p d a m => some ⟨49, d.val, a.val, 0, (m.val * 256 + w.code * 32 + bit p * 16 + 3)⟩
  | .mlift w p d a m => some ⟨49, d.val, a.val, 0, (m.val * 256 + w.code * 32 + bit p * 16 + 4)⟩
  | .bfly2M w p d a o m => some ⟨49, d.val, a.val, o.enc.2, (m.val * 256 + o.enc.1 * 64 + w.code * 32 + bit p * 16 + 5)⟩
  | .bfly4M w p d a o m => some ⟨49, d.val, a.val, o.enc.2, (m.val * 256 + o.enc.1 * 64 + w.code * 32 + bit p * 16 + 6)⟩
  | .mcrt d a b m => some ⟨50, d.val, a.val, b.val, (m.val * 256)⟩
  | .mchk c d a b => some ⟨50, d.val, a.val, b.val, (64 + c.code)⟩
  | .twset b => some ⟨51, 0, 0, b.val, 64⟩
  | .twget t d m => some ⟨51, d.val, 0, 0, (m.val * 256 + t.code)⟩
  | .vdrev d a i m => some ⟨52, d.val, a.val, i.toNat, (m.val * 256 + 128 + 0)⟩
  | .vtrn d a i m => some ⟨52, d.val, a.val, i.toNat, (m.val * 256 + 128 + 1)⟩
  | .xbfn c d a m => some ⟨52, d.val, a.val, 0, (m.val * 256 + 2 + bit c)⟩
  | .opa t d a b m => some ⟨54, d.val, a.val, b.val, (m.val * 256 + 0 + t.code)⟩
  | .ops t d a b m => some ⟨54, d.val, a.val, b.val, (m.val * 256 + 32 + t.code)⟩
  | .azero d => some ⟨55, d.val, 0, 0, 0⟩
  | .ald d a => some ⟨55, d.val, a.val, 0, 1⟩
  | .ast d a => some ⟨55, d.val, a.val, 0, 2⟩
  | .arow d a b m => some ⟨55, d.val, a.val, b.val, (m.val * 256 + 3)⟩
  | .acol d a b m => some ⟨55, d.val, a.val, b.val, (m.val * 256 + 4)⟩
  | .awrow d a b m => some ⟨55, d.val, a.val, b.val, (m.val * 256 + 5)⟩
  | .awcol d a b m => some ⟨55, d.val, a.val, b.val, (m.val * 256 + 6)⟩
  | .amov d a => some ⟨55, d.val, a.val, 0, 7⟩
  | .aepi out i d a b => some ⟨56, d.val, a.val, b.val, (64 + bit i * 32 + out.code)⟩
  | .sbind d b => some ⟨58, d.val, 0, b.val, 0⟩
  | .sunbind d => some ⟨58, d.val, 0, 0, 64⟩
  | .sisect d a b => some ⟨58, d.val, a.val, b.val, 128⟩
  | .sunite d a b => some ⟨58, d.val, a.val, b.val, 192⟩
  | .sskip d a => some ⟨58, d.val, a.val, 0, 256⟩
  | .ssave d a => some ⟨58, d.val, a.val, 0, 320⟩
  | .srest d a => some ⟨58, d.val, a.val, 0, 384⟩
  | .saff _ _ _ _ _ _ _ _ _ => none
  | .sidx _ _ _ _ => none
  | .sfib _ _ _ _ _ _ _ _ _ => none
  | .copy _ _ _ _ _ _ _ _ => none
  | .coll _ _ _ _ _ _ _ _ _ => none
  | .putE _ _ _ _ _ _ => none
  | .taskPut _ _ _ => none
  | .teret => some ⟨21, 2, 0, 0, 0⟩
  | .halt => some ⟨21, 3, 0, 0, 0⟩
  | .hint => some ⟨62, 0, 0, 0, 0⟩
  | .stripCommit => none
  | .commitEnd => none
  | .stripWatchdog => none
  | .fqbaseWrite => none
  | .fqheadWrite => none
  | .scalarLoadReturn => none
  | .stripTerminalComplete => none
  | .presenceDeferralServe => none
  | .linkReservationExpiry => none
  | .awaitComplete => none
  | .tkwaitSatisfied => none
  | .lazyVectorMove => none
  | .pageRestoreComplete => none
  | .spsave => none
  | .spsaveComplete => none
  | .patrolScrub => none
  | .translationWalk => none
  | .invctlGo => none
  | .invalidationComplete => none
  | .copyExecute => none
  | .commandEnd => none
  | .pkrespRetry => none
  | .pkrespFail => none
  | .collExecute => none
  | .collChunkArrival => none
  | .putELanding => none
  | .streamDelivery => none
  | .streamFetchAhead => none
  | .slotReservation => none
  | .slotLands => none
  | .nodeFire => none
  | .controlTokenArrival => none
  | .fcmdLoad => none
  | .fcmdAbort => none
  | .fabricLoadComplete => none
  | .fabricFlip => none
  | .episodeComplete => none
  | .farmNextServe => none
  | .pktstatGo => none
  | .taskPacketAccept => none
  | .taskComplete => none
  | .taskPlacement => none
  | .ageingStep => none
  | .quantumExpiry => none
  | .hartSwitchOut => none
  | .dcancel => none
  | .tmFreeze => none
  | .freezeComplete => none
  | .tmWriteImage => none
  | .tmResume => none
  | .resumePlacement => none
  | .tmEnd => none
  | .tmRestart => none
  | .tmReflect => none
  | .tmUnassignedOp => none
  | .speedChange => none
  | .spdAgeWrite => none
  | .droopDetect => none
  | .sagStepDown => none
  | .powerMeasurement => none
  | .pwrlimWrite => none
  | .hostCxlMemAccess => none
  | .hostStoreCompletion => none
  | .tramontaneCrcFail => none
  | .flitReceive => none
  | .etesianCrcFail => none
  | .laneAutoRetire => none
  | .spareSwitchComplete => none
  | .portDownTimeout => none
  | .e2eResendTimeout => none
  | .unreachableTimeout => none
  | .retireSpire => none
  | .retireRouter => none
  | .retireEtesianLane => none
  | .retireTramontaneLink => none
  | .retireHbmRow => none
  | .retireInvalidClass => none
  | .wearPrediction => none
  | .packageReset => none
  | .dctlWrite => none
  | .mailboxReport => none
  | .mailboxFirmwareUpdate => none
  | .mailboxUnassignedOp => none
  | .securityAlarm => none
  | .powerRemoval => none
  | .registerWrite => none
  | .storeWrittenAtHome => none
  | .tramontaneRetrainEnd => none
  | .supplyRecovery => none
  | .hostSnoop => none
  | .backInvalidateResponse => none

/-- The fields of a long form; none for anything else. -/
def encodeLongFields : Instr → Option LongFields
  | .saff q a b lv go cnt fmt out sp => some ⟨1, q.val, a.val, b.val, lv.val * 8 + bit go * 4, cnt.toNat, sp.code * 64 + bit out * 32 + fmt.code, 0⟩
  | .sidx q a go iw => some ⟨2, q.val, a.val, 0, bit go * 2 + bit iw, 0, 0, 0⟩
  | .sfib q a b lvk iw size len p sp => some ⟨3, q.val, a.val, b.val, lvk.val * 8 + bit iw * 4, size.toNat, len.toNat, sp.code * 32 + p.val⟩
  | .copy d a b form es w1 sp dp => some ⟨4, d.val, a.val, b.val, form.code * 8 + es.val, w1.word, sp.toNat, dp.toNat⟩
  | .coll d a b kind w1 fmt op id root => some ⟨5, d.val, a.val, b.val, kind.code, w1.word, root.toNat * 65536 + id.toNat * 256 + op.code * 32 + fmt.toNat, 0⟩
  | .putE d a b w1 tag pkg => some ⟨6, d.val, a.val, b.val, 0, w1.word, tag.toNat, pkg.toNat⟩
  | .taskPut d w1 pkg => some ⟨7, d.val, 0, 0, 0, w1.word, pkg.toNat, 0⟩
  | _ => none

/-- The words of an instruction, first word first: one for a short form, four for a long form, none for a step that is
no instruction. -/
def encode (i : Instr) : List Nat :=
  match encodeFields i with
  | some x => [x.word]
  | none =>
    match encodeLongFields i with
    | some x => [x.prefixWord, x.w1, x.w2, x.w3]
    | none => []

/-- Decode a list of words: one short word, or the four of a long form. -/
def decodeWords : List Nat → Option Instr
  | [w] => if isPrefix w then none else decodeWord w
  | [w0, w1, w2, w3] => if isPrefix w0 then decodeLong w0 w1 w2 w3 else none
  | _ => none

end Sys2Proof
end

