-- ==== Sys2Proof/Machine/FabricCore.lean ====
section
/-! DEFINITION. The active image of a Cupola: endpoints, terminals, slots and firing conditions (14 R313-R316, R320-R329). -/
namespace Sys2Proof.Machine

/-- Container width of a format in bits (02 Table 2-1). -/
def fmtWidth (f : Format) : Nat :=
  match f with
  | .i8 | .ui8 | .e4m3 | .e5m2 | .e3m2 | .e2m3 | .mxe4m3 | .mxe5m2 | .mxe3m2 | .mxe2m3 | .mxint8 => 8
  | .i16 | .ui16 | .fp16 | .bf16 | .rxbf => 16
  | .i32 | .ui32 | .fp32 | .cbf16 | .xbf | .m32 => 32
  | .i64 | .ui64 | .fp64 | .cfp32 | .m64 => 64
  | .e2m1 | .mxe2m1 => 4

/-- The format has scale entries (02 Table 2-1). -/
def fmtScaled (f : Format) : Bool := f.group == .m || f.group == .x

/-- Source and destination channel formats of a LINK word (14 Table 14-4). -/
def linkSfmt (w : BitVec 64) : Option Format := Format.ofCode (field w.toNat 54 5)
def linkDfmt (w : BitVec 64) : Option Format := Format.ofCode (field w.toNat 49 5)
/-- Slots of a data link. -/
def linkSlots (w : BitVec 64) : Nat := field w.toNat 43 6
/-- Permit count of a control link. -/
def linkK (w : BitVec 64) : Nat := field w.toNat 37 6

/-- NODE word number i, and its fields (14 R322). -/
def imgNode (img : List (BitVec 64)) (i : Nat) : BitVec 64 := (img[8 + imgLinks img + i]?).getD 0
def nodeKind (w : BitVec 64) : Nat := field w.toNat 56 4
def nodeNin (w : BitVec 64) : Nat := field w.toNat 53 3 + 1
def nodeNout (w : BitVec 64) : Nat := field w.toNat 50 3 + 1
def nodeFmt (w : BitVec 64) : Option Format := Format.ofCode (field w.toNat 45 5)
/-- The merge mode or reduce operator of a node, in [44:42]. -/
def nodeOp (w : BitVec 64) : Nat := field w.toNat 42 3
/-- CTRL word number i. -/
def imgCtrl (img : List (BitVec 64)) (i : Nat) : BitVec 64 := (img[8 + imgLinks img + imgNodes img + i]?).getD 0

/-- Endpoint of terminal t of node i (14 Table 14-3). -/
def nodeEp (i t : Nat) : Nat := 2 ^ 15 + i * 256 + t

/-- The link whose destination (or source) is a node terminal. -/
def Fabric.termLink (f : Fabric) (node t : Nat) (src : Bool) : Option Nat :=
  (List.range (imgLinks f.image)).find? fun i =>
    let w := imgLink f.image i
    (if src then linkSrc w else linkDst w) == nodeEp node t

/-- The state of link i. -/
def Fabric.linkState (f : Fabric) (i : Nat) : LinkState := (f.links.find? fun l => l.link == i).getD ⟨i, [], 0⟩
/-- The state of node i. -/
def Fabric.nodeState (f : Fabric) (i : Nat) : NodeState :=
  (f.nodes.find? fun n => n.node == i).getD ⟨i, [], 0, 0, none, [], [], 0, 0, false⟩
/-- Change the state of node i. -/
def Fabric.updNode (f : Fabric) (i : Nat) (g : NodeState → NodeState) : Fabric :=
  { f with nodes := f.nodes.map fun n => if n.node = i then g n else n }
/-- Change the state of link i. -/
def Fabric.updLink (f : Fabric) (i : Nat) (g : LinkState → LinkState) : Fabric :=
  { f with links := f.links.map fun l => if l.link = i then g l else l }

/-- The landed slot that a firing takes from an input terminal. -/
def Fabric.input (f : Fabric) (node t : Nat) : Option Slot :=
  (f.termLink node t false).bind fun i => (f.linkState i).firstSlot fun x => x.st == .landed

/-- Width of the control format at terminal 7 of a node. -/
def Fabric.ctlWidth (f : Fabric) (node : Nat) : Nat :=
  fmtWidth (((f.termLink node 7 false).bind fun i => linkDfmt (imgLink f.image i)).getD .i8)

/-- The control value of a steer or merge: element 0 of its control slot, a free value when n = 0 (log 30). -/
def Fabric.control (f : Fabric) (node : Nat) : Option (Nat × Bool) :=
  (f.input node 7).map fun x => if x.x.n = 0 then (Config.emptyControl node x.seq, false) else (field x.x.data.toNat 0 (f.ctlWidth node), field x.x.poison.toNat 0 (f.ctlWidth node / 8) != 0)

/-- The input terminals that the next firing of a data node reads; none for a node that cannot fire: a value that steers
out of range is found at the firing (14 Table 14-5, R326). -/
def Fabric.reads (f : Fabric) (node : Nat) : List Nat :=
  let w := imgNode f.image node
  match nodeKind w with
  | 1 => [0, 7]
  | 2 => if nodeOp w = 1 then [(f.nodeState node).merge] else
      match f.control node with
      | some (j, _) => if j < nodeNin w then [7, j] else [7]
      | none => [7]
  | 5 => List.range (nodeNin w)
  | _ => [0]

/-- The output terminals that the next firing writes. -/
def Fabric.writes (f : Fabric) (node : Nat) : List Nat :=
  let w := imgNode f.image node
  match nodeKind w with
  | 1 => match f.control node with
    | some (j, _) => if j < nodeNout w then [8 + j] else []
    | none => []
  | 6 => (List.range (nodeNout w)).map (8 + ·)
  | _ => [8]

/-- A hart waits in a delivery on link i. -/
def Fabric.hartWaits (f : Fabric) (i : Nat) : Bool := f.waiting.any fun w => w.2 == i

/-- Can an output reserve on link i: a free slot; on a link of 0 slots also a waiting delivery `w` (14 R316, R326)? -/
def Fabric.canReserve (f : Fabric) (i : Nat) (w : Bool) : Bool :=
  ((f.linkState i).slots.any fun x => x.st == .free) && (linkSlots (imgLink f.image i) != 0 || w)

/-- Do the delay, permit and other conditions of a node allow a firing? -/
def Fabric.ready (f : Fabric) (node : Nat) : Bool :=
  let w := imgNode f.image node
  let k := nodeKind w
  decide (k < 8) && (k != 7 || (f.nodeState node).permits != 0) && (k != 3 || (f.nodeState node).delay.isNone)

/-- A node waits on link i: it meets every firing condition but a landed slot on this input. `fuel` follows chains of
links of 0 slots (14 R316). -/
def Fabric.nodeWaits (f : Fabric) : Nat → Nat → Bool
  | 0, _ => false
  | fuel + 1, i =>
    let e := linkDst (imgLink f.image i)
    if field e 15 3 ≠ 1 then f.hartWaits i else
    let node := field e 8 7
    f.ready node && (f.reads node).any (fun t => f.termLink node t false == some i) &&
      (f.reads node).all (fun t => f.termLink node t false == some i || (f.input node t).isSome) &&
      (f.writes node).all fun t =>
        match f.termLink node t true with
        | none => false
        | some o => f.canReserve o true && (linkSlots (imgLink f.image o) != 0 || f.nodeWaits fuel o)

/-- The destination of link i waits for a delivery: a chain of links passes at most every node. -/
def Fabric.destWaits (f : Fabric) (i : Nat) : Bool := f.nodeWaits (imgNodes f.image + 1) i

/-- Elements that a slot of link i carries at most, for L lanes (14 R314). -/
def slotElems (w : BitVec 64) (lanes : Nat) : Nat :=
  lanes * 512 / max (fmtWidth ((linkSfmt w).getD .i8)) (fmtWidth ((linkDfmt w).getD .i8))

end Sys2Proof.Machine
end

