-- ==== Sys2Proof/Machine/ScalarMem.lean ====
section
/-! DEFINITION. Loads and stores of values through the spaces, and the scalar loads and stores (04 R102-R105). -/
namespace Sys2Proof.Machine

/-- Read n bytes at an address as a hart's load does: its value and poison. Bytes under the poison code are free values
(log 10). -/
def State.loadVal (s : State) (space : Space) (a n elem : Nat) (kind : AccKind) : M (State × Elt) :=
  match s.pieces s.hart.who space .load kind permR a n with
  | .error e => .error (accExc space kind elem e)
  | .ok ps =>
    let bs := readPieces (s.ownByte s.hart) ps
    let s := s.warm s.hart.who space ps
    if bs.any (·.2) then
      let v := byteVal (freeBytes s.draw 0 bs)
      .ok ({ s with draw := s.draw + 1 }, ⟨v.1, true⟩)
    else .ok (s, ⟨(byteVal bs).1, false⟩)

/-- Cut bytes over pieces into store units. -/
def cutUnits (bad log : Bool) : List Piece → List Byte → List StoreUnit
  | [], _ => []
  | p :: ps, bs => ⟨p.loc, p.va, bs.take p.n, bad, log⟩ :: cutUnits bad log ps (bs.drop p.n)

/-- The bytes that a store writes: those of its value, or free bytes under the poison code (log 10). -/
def State.storeBytes (s : State) (n : Nat) (x : Elt) : State × List Byte :=
  if x.bad then ({ s with draw := s.draw + 1 }, (List.range n).map (Config.poisonByte s.draw))
  else (s, toBytes n x.val)

/-- Translate and check a plain store of n bytes, and form its units (04 R104, 05 R122). -/
def State.storeUnits (s : State) (space : Space) (a n elem : Nat) (kind : AccKind) (x : Elt) : M (State × List StoreUnit) :=
  match s.pieces s.hart.who space .store kind permW a n with
  | .error e => .error (accExc space kind elem e)
  | .ok ps =>
    let y := (s.warm s.hart.who space ps).storeBytes n x
    .ok (y.1, cutUnits x.bad (space == .glb) ps y.2)

/-- Effective address of a scalar access (04 R102). -/
def Hart.scalarEa (h : Hart) (a : SReg) (off : BitVec 13) : Nat := (h.s a + off.signExtend 64).toNat

/-- The space of a scalar access. -/
def scalarSpace (glb : Bool) : Space := if glb then .glb else .loc

/-- A scalar load of n bytes, sign- or zero-extended. With lateGlb set, a GLB load waits for SCALAR_LOAD_RETURN (log 6). -/
def scalarLoad (glb : Bool) (n : Nat) (signed : Bool) (d a : SReg) (off : BitVec 13) (s : State) : M State :=
  match s.hart.clean a with
  | .error e => .error e
  | .ok _ =>
    if glb && s.hart.lateGlb then .error (.wait .mem .nothing) else
    match s.loadVal (scalarSpace glb) (s.hart.scalarEa a off) n 0 .load with
    | .error e => .error e
    | .ok (t, x) =>
      let v := if signed then sext64 (8 * n) x.val else x.val
      .ok { t with hart := t.hart.setS d (BitVec.ofNat 64 v) x.bad }

/-- A scalar store of n bytes: it enters the strip buffer with a charge of 8 (04 R105). A poisoned base traps before
the capacity does, and the capacity before a fault of the access (DESIGN CHOICE, log 69). -/
def scalarStore (glb : Bool) (n : Nat) (d a : SReg) (off : BitVec 13) (s : State) : M State :=
  match s.hart.clean a with
  | .error e => .error e
  | .ok _ =>
    if s.hart.capacity < s.hart.charge + 8 then .error (.trap causeCapacity 0 none) else
    match s.storeUnits (scalarSpace glb) (s.hart.scalarEa a off) n 0 .store ⟨(s.hart.s d).toNat % 2 ^ (8 * n), s.hart.bad d⟩ with
    | .error e => .error e
    | .ok (t, us) => (t.hart.push (.store us) 8).map fun h => { t with hart := h }

/-- `ldb sd, off(sa)` (04 R102). -/
def execLdb (g : Bool) (d a : SReg) (off : BitVec 13) (s : State) : Out := plain s (scalarLoad g 1 true d a off)
/-- `ldh`. -/
def execLdh (g : Bool) (d a : SReg) (off : BitVec 13) (s : State) : Out := plain s (scalarLoad g 2 true d a off)
/-- `ldw`. -/
def execLdw (g : Bool) (d a : SReg) (off : BitVec 13) (s : State) : Out := plain s (scalarLoad g 4 true d a off)
/-- `ldd`. -/
def execLdd (g : Bool) (d a : SReg) (off : BitVec 13) (s : State) : Out := plain s (scalarLoad g 8 false d a off)
/-- `ldbu`. -/
def execLdbu (g : Bool) (d a : SReg) (off : BitVec 13) (s : State) : Out := plain s (scalarLoad g 1 false d a off)
/-- `ldhu`. -/
def execLdhu (g : Bool) (d a : SReg) (off : BitVec 13) (s : State) : Out := plain s (scalarLoad g 2 false d a off)
/-- `ldwu`. -/
def execLdwu (g : Bool) (d a : SReg) (off : BitVec 13) (s : State) : Out := plain s (scalarLoad g 4 false d a off)
/-- `stb sd, off(sa)` (04 R102). -/
def execStb (g : Bool) (d a : SReg) (off : BitVec 13) (s : State) : Out := plain s (scalarStore g 1 d a off)
/-- `sth`. -/
def execSth (g : Bool) (d a : SReg) (off : BitVec 13) (s : State) : Out := plain s (scalarStore g 2 d a off)
/-- `stw`. -/
def execStw (g : Bool) (d a : SReg) (off : BitVec 13) (s : State) : Out := plain s (scalarStore g 4 d a off)
/-- `std`. -/
def execStd (g : Bool) (d a : SReg) (off : BitVec 13) (s : State) : Out := plain s (scalarStore g 8 d a off)

end Sys2Proof.Machine
end

