-- ==== Sys2Proof/Machine/Streams.lean ====
section
/-! DEFINITION. Streams at vector instructions: deliveries into attached registers that are read, and emissions from
attached registers that are written (09 R195-R209, 13 R293-R298, 14 R314, R316). -/
namespace Sys2Proof.Machine

/-- Kinds of Table 9-1. -/
def kIdle : BitVec 4 := 0
def kAffine : BitVec 4 := 1
def kIndirect : BitVec 4 := 2
def kFibre : BitVec 4 := 3
def kIsect : BitVec 4 := 4
def kUnite : BitVec 4 := 5
def kPortIn : BitVec 4 := 6
def kPortOut : BitVec 4 := 7

/-- The stream is a port register. -/
def Stream.isPort (q : Stream) : Bool := q.kind == kPortIn || q.kind == kPortOut
/-- The stream delivers into registers. -/
def Stream.isInput (q : Stream) : Bool :=
  ((q.kind == kAffine || q.kind == kIndirect) && !q.dir) || q.kind == kFibre || q.kind == kIsect || q.kind == kUnite || q.kind == kPortIn
/-- The stream takes writes from its register. -/
def Stream.isOutput (q : Stream) : Bool := ((q.kind == kAffine || q.kind == kIndirect) && q.dir) || q.kind == kPortOut
/-- Registers that an attachment covers (09 R197). -/
def Stream.span (q : Stream) : Nat :=
  if q.kind = kFibre then 2 else if q.kind = kIsect then 3 else if q.kind = kUnite then 4 else 1
/-- The stream is attached to register v. -/
def Stream.covers (q : Stream) (v : VIdx) : Bool := q.att && decide (q.vreg.val ≤ v.val) && decide (v.val < q.vreg.val + q.span)
/-- Format of a stream; a use of a reserved code traps before this is asked (03 R86, `streamOk`). -/
def Stream.format (q : Stream) : Format := (Format.ofCode q.fmt.toNat).getD .i8
/-- The stream is a fibre, or derived from fibres: its elements have the index width and no format. -/
def Stream.indexed (q : Stream) : Bool := q.kind == kFibre || q.kind == kIsect || q.kind == kUnite
/-- Container width of a stream's elements. -/
def Stream.width (q : Stream) : Nat := if q.indexed then (if q.iw then 64 else 32) else fmtWidth q.format
/-- Space of a stream. -/
def Stream.sp (q : Stream) : Space := (Space.ofCode q.space.toNat).getD .loc
/-- Bytes of an index entry. -/
def Stream.ib (q : Stream) : Nat := if q.iw then 8 else 4

/-! ### Affine and indirect patterns (09 R200-R202) -/

/-- Count of level L. -/
def Stream.cnt (q : Stream) (l : Nat) : Nat := field (if l < 2 then q.d3 else q.d4).toNat (32 * (l % 2)) 32 + 1
/-- Signed stride of level L. -/
def Stream.str (q : Stream) (l : Nat) : Int := sgn 32 (field (if l < 2 then q.d5 else q.d6).toNat (32 * (l % 2)) 32)
/-- Elements of the pattern; twice the product for a 4-bit format. -/
def Stream.total (q : Stream) : Nat := q.cnt 0 * q.cnt 1 * q.cnt 2 * q.cnt 3 * (if q.format = .e2m1 then 2 else 1)
/-- Loop indices of pattern position j. -/
def Stream.i3 (q : Stream) (j : Nat) : Nat := j / (q.cnt 0 * q.cnt 1 * q.cnt 2)
/-- Address of pattern position j, given the offset of level 3 (09 R201). -/
def Stream.ea (q : Stream) (j : Nat) (off3 : Int) : Nat :=
  let i0 := j % q.cnt 0
  let i1 := j / q.cnt 0 % q.cnt 1
  let i2 := j / (q.cnt 0 * q.cnt 1) % q.cnt 2
  wrapI 64 (q.base.toNat + i0 * q.str 0 + i1 * q.str 1 + i2 * q.str 2 + off3)

/-- The element that n bytes of a stream form; bytes under the poison code are free values (log 10). -/
def State.drawn (s : State) (bs : List (Byte × Bool)) : State × Elt :=
  let v := byteVal (if bs.any (·.2) then freeBytes s.draw 0 bs else bs)
  (if v.2 then { s with draw := s.draw + 1 } else s, ⟨v.1, v.2⟩)

/-- A stream's read of n bytes: as memory stands, without the strip's own stores (10 R245). A page fault has cause
"stream" and element 0 (09 R201, Table 9-9); an access violation keeps its own cause 0x08 (DEDUCED: 09 R207 speaks of a page fault for
both, log 75). -/
def State.streamRead (s : State) (space : Space) (a n elem : Nat) : M (State × Elt) :=
  match s.pieces s.hart.who space .load .stream permR a n with
  | .error (.bad cause detail, x) =>
    .error (accExc space .stream (if cause = causeStream then 0 else elem) (.bad cause detail, x))
  | .error e => .error (accExc space .stream elem e)
  | .ok ps =>
    let bs := readPieces (s.seenByte s.hart.phys) ps
    let s := s.warm s.hart.who space ps
    .ok (s.drawn bs)

/-- The bytes of the aligned 8-byte words that n bytes at an address lie in, as memory stands. -/
def State.wordsAround (s : State) (space : Space) (a n : Nat) : List (Nat × Byte × Bool) :=
  let lo := a / 8 * 8
  match s.pieces s.hart.who space .load .stream permR lo ((a + n + 7) / 8 * 8 - lo) with
  | .error _ => []
  | .ok ps => (readPieces (s.seenByte s.hart.phys) ps).mapIdx fun i b => (lo + i, b)

/-- The bytes of an access that words read ahead hold, when they hold all of them: an aligned word is read once, whole (10 R233, R245). -/
def Stream.held (q : Stream) (a n : Nat) : Option (List (Byte × Bool)) :=
  (List.range n).mapM fun i => q.ahead.findSome? fun x => (x.words.find? fun w => w.1 == a + i).map (·.2)

/-- A word of a stream: the one fetched ahead, whose held fault is taken as if it had just occurred, one that lies in aligned words read
ahead, or one read now (13 R293). -/
def State.streamGet (s : State) (q : Stream) (index : Bool) (pos a n elem : Nat) : M (State × Elt) :=
  match q.ahead.find? fun x => x.index == index && x.pos == pos with
  | some x => match x.fault with
    | none => .ok (s, ⟨x.val, x.bad⟩)
    | some (cause, detail, addr) =>
      .error (accExc q.sp .stream (if cause = causeStream then 0 else elem) (.bad cause detail, addr))
  | none => match q.held a n with
    | some bs => .ok (s.drawn bs)
    | none => s.streamRead q.sp a n elem

/-- Address of index entry i3 (09 R202). -/
def Stream.idxAddr (q : Stream) (i3 : Nat) : Nat := wrapI 64 (q.abase.toNat + i3 * q.ib)

/-- Address of element j of a pattern; the index of an indirect level is read first (09 R202), and a poisoned one traps. -/
def State.patternEa (s : State) (q : Stream) (j elem : Nat) : M (State × Nat) :=
  let i3 := q.i3 j
  if q.kind = kIndirect then
    match s.streamGet q true i3 (q.idxAddr i3) q.ib elem with
    | .error e => .error e
    | .ok (t, x) => if x.bad then .error (poisonTrap elem) else .ok (t, q.ea j (x.val * q.str 3))
  else .ok (s, q.ea j (i3 * q.str 3))

/-- The unit of memory that holds element j of a pattern: two elements of 4 bits share a byte (09 R201). -/
def Stream.unit (q : Stream) (j : Nat) : Nat := if q.width = 4 then j / 2 else j
/-- Bytes of a unit. -/
def Stream.unitBytes (q : Stream) : Nat := if q.width = 4 then 1 else q.width / 8

/-- Element j of an input pattern. -/
def State.patternElt (s : State) (q : Stream) (j elem : Nat) : M (State × Elt) :=
  match s.patternEa q (q.unit j) elem with
  | .error e => .error e
  | .ok (t, a) =>
    match t.streamGet q false (q.unit j) a q.unitBytes elem with
    | .error e => .error e
    | .ok (u, x) => .ok (u, if q.width = 4 then ⟨field x.val (4 * (j % 2)) 4, x.bad⟩ else x)

/-- Elements j0 to j0 + k - 1 of a pattern. -/
def State.patternElts (s : State) (q : Stream) (j0 : Nat) : Nat → Nat → M (State × List Elt)
  | 0, _ => .ok (s, [])
  | k + 1, i =>
    match s.patternElt q (j0 + i) i with
    | .error e => .error e
    | .ok (t, x) =>
      match State.patternElts t q j0 k (i + 1) with
      | .error e => .error e
      | .ok (u, xs) => .ok (u, x :: xs)

/-- Number a list. -/
def enumElts (xs : List α) : List (Nat × α) := xs.zipIdx.map fun x => (x.2, x.1)

/-- VL after a delivery. -/
def Hart.withVl (h : Hart) (n : Nat) : Hart := { h with regs := { h.regs with h := { h.regs.h with vl := BitVec.ofNat 13 n } } }

/-- Delivery of an affine or indirect stream (09 R198). -/
def deliverPattern (s : State) (i : QIdx) (q : Stream) : M State :=
  let n := q.n.toNat
  let k := if q.done then 0 else min s.hart.vl (q.total - n)
  match s.patternElts q n k 0 with
  | .error e => .error e
  | .ok (t, xs) =>
    let h := t.hart
    let n' := n + (if q.width = 4 then ceilDiv k 2 * 2 else k)
    let v := (h.regs.v[q.vreg]).setElts q.width (enumElts xs)
    let q' := { q with n := BitVec.ofNat 64 n', done := q.done || decide (q.total ≤ n'), delivered := true,
                        ahead := q.ahead.filter fun x => decide ((if x.index then q.i3 (q.unit n') else q.unit n') ≤ x.pos) }
    let h := { h with regs := (h.regs.setV q.vreg v).setQ i q' }
    .ok { t with hart := if k < h.vl then h.withVl k else h }

/-! ### Fibres (09 R203-R207, 13 R295-R297) -/

/-- What examining the next pair of a fibre gives. -/
inductive Next
  /-- No pair remains. -/
  | none
  /-- Coordinate, position, poison of the coordinate; the stream after it. -/
  | pair (c k : Nat) (bad : Bool) (q : Stream)
  /-- A malformed element of stream register q. -/
  | malformed (i : QIdx)
  /-- A read that faults, waits or traps. -/
  | exc (e : Exc)
  deriving DecidableEq, Repr

/-- size and coordinate-array length of a fibre. -/
def Stream.size (q : Stream) : Nat := field q.d4.toNat 32 32 + 1
def Stream.len (q : Stream) : Nat := field q.d4.toNat 0 32
/-- First position of the fibre's own row in a dense or bitmap level, and the position of a singleton. -/
def Stream.row (q : Stream) : Nat :=
  match q.lvk.toNat with
  | 1 => 0
  | 3 => q.d3.toNat
  | _ => q.d3.toNat * q.size
/-- The position that D5 or D6 holds: they keep it modulo 2^64, and it is counted on from the first (DESIGN CHOICE, log 74). -/
def Stream.full (q : Stream) (x : Nat) : Nat := q.row + (x + 2 ^ 64 - q.row % 2 ^ 64) % 2 ^ 64
/-- Next and end position. -/
def Stream.pos (q : Stream) : Nat := q.full q.d5.toNat
def Stream.fin (q : Stream) : Nat := q.full q.d6.toNat
/-- A value of 2^32 or more in a 32-bit stream is malformed (09 R204); so is one of 2^64 or more in a 64-bit stream (log 74). -/
def Stream.wide (q : Stream) (x : Nat) : Bool := decide ((if q.iw then 2 ^ 64 else 2 ^ 32) ≤ x)
/-- The stream moved to position k; what was fetched ahead for earlier positions goes. -/
def Stream.at (q : Stream) (k : Nat) : Stream :=
  { q with d5 := BitVec.ofNat 64 k, ahead := q.ahead.filter fun x => decide ((if q.lvk = 2 then k / 64 else k) ≤ x.pos) }

/-- A read of the fibre's arrays, without change of the draw counter: coordinates under the poison code read as free
values of the current draw. -/
def State.fibreRead (s : State) (q : Stream) (a n : Nat) : M Elt := (s.streamRead q.sp (a % 2 ^ 64) n 0).map (·.2)
/-- Address of coordinate entry k, and of bit word k. -/
def Stream.crdAddr (q : Stream) (k : Nat) : Nat := (q.abase.toNat + k * q.ib) % 2 ^ 64
def Stream.bitAddr (q : Stream) (k : Nat) : Nat := (q.base.toNat + 8 * k) % 2 ^ 64
/-- Coordinate entry k. -/
def State.crd (s : State) (q : Stream) (k : Nat) : M Elt := (s.streamGet q false k (q.crdAddr k) q.ib 0).map (·.2)
/-- Bit word k. -/
def State.bitWord (s : State) (q : Stream) (k : Nat) : M Elt := (s.streamGet q false k (q.bitAddr k) 8 0).map (·.2)

/-- The reads of pos[p] and pos[p+1], made once at sfib, or at the first delivery while pend is 1: they are held as pos and end,
whatever they hold (09 R204, 13 R295). -/
def State.fibreStart (s : State) (q : Stream) : M Stream :=
  if !q.pend then .ok q else
  let a := q.base.toNat + q.d3.toNat * q.ib
  match s.fibreRead q a q.ib with
  | .error e => .error e
  | .ok lo =>
    match s.fibreRead q (a + q.ib) q.ib with
    | .error e => .error e
    | .ok hi =>
      .ok { q with pend := false, badPos := lo.bad || hi.bad, lo := some (BitVec.ofNat 64 lo.val), d5 := BitVec.ofNat 64 lo.val,
                   d6 := BitVec.ofNat 64 hi.val }

/-- A started fibre whose held positions pass the checks of 09 R205: a poisoned one traps, as it is used as control. -/
def State.fibreReady (s : State) (i : QIdx) (q : Stream) : Except Next Stream :=
  match s.fibreStart q with
  | .error e => .error (.exc e)
  | .ok q =>
    if q.badPos then .error (.exc poisonTrap)
    else if q.lvk = 1 ∧ (q.fin < q.pos ∨ q.len < q.fin) then .error (.malformed i)
    else .ok q

/-- The next set bit of a bitmap fibre from position k, before `fin`. -/
def State.nextBit (s : State) (q : Stream) : Nat → Nat → M (Option Nat)
  | 0, _ => .ok none
  | fuel + 1, k =>
    if q.fin ≤ k then .ok none else
    match s.bitWord q (k / 64) with
    | .error e => .error e
    | .ok w =>
      if w.bad then .error poisonTrap
      else if w.val / 2 ^ (k % 64) = 0 then s.nextBit q fuel ((k / 64 + 1) * 64)
      else
        let b := k + ctzN 64 (w.val / 2 ^ (k % 64))
        .ok (if b < q.fin then some b else none)

/-- Examine the next pair of fibre stream i; `prev` is the coordinate delivered before it in this delivery. -/
def State.fibreNext (s : State) (i : QIdx) (q : Stream) (prev : Option Nat) : Next :=
  match s.fibreReady i q with
  | .error x => x
  | .ok q =>
    if q.fin ≤ q.pos then .none else
    let k := q.pos
    match q.lvk.toNat with
    | 0 =>
      let c := k - q.row
      if q.wide k || q.wide c then .malformed i else .pair c k false (q.at (k + 1))
    | 2 =>
      match s.nextBit q (q.size / 64 + 2) k with
      | .error e => .exc e
      | .ok none => .none
      | .ok (some b) => if q.wide b then .malformed i else .pair (b - q.row) b false (q.at (b + 1))
    | 3 =>
      if q.len ≤ k then .malformed i else
      match s.crd q k with
      | .error e => .exc e
      | .ok c => if q.size ≤ c.val ∨ q.wide k then .malformed i else .pair c.val k c.bad (q.at (k + 1))
    | _ =>
      let before : M (Option Nat) :=
        match prev with
        | some c => .ok (some c)
        | none =>
          -- a restored fibre reads pos[p] again to learn where it starts (log 14)
          let lo : M Nat := match q.lo with
            | some x => .ok x.toNat
            | none => (s.fibreRead q (q.base.toNat + q.d3.toNat * q.ib) q.ib).map (·.val)
          lo.bind fun lo => if lo < k then (s.crd q (k - 1)).map fun x => some x.val else .ok none
      match before with
      | .error e => .exc e
      | .ok b =>
        match s.crd q k with
        | .error e => .exc e
        | .ok c =>
          if q.size ≤ c.val || q.wide k || (match b with
            | some x => decide (c.val ≤ x)
            | none => false) then .malformed i
          else .pair c.val k c.bad (q.at (k + 1))

/-! ### Skipping (09 R209, 13 R297) -/

/-- A coordinate read by a search: it is judged by its size and against the nearest coordinates read on either side. -/
def State.probe (s : State) (i : QIdx) (q : Stream) (k : Nat) (below above : Option Nat) : Except Next Nat :=
  match s.crd q k with
  | .error e => .error (.exc e)
  | .ok c =>
    if c.bad then .error (.exc poisonTrap)
    else if q.size ≤ c.val || (match below with
        | some x => decide (c.val ≤ x)
        | none => false) || (match above with
        | some x => decide (x ≤ c.val)
        | none => false) then .error (.malformed i)
    else .ok c.val

/-- Bisect positions lo ≤ k ≤ hi, where entries below lo are below the target and entry hi, if any, is not: the position,
and the coordinate read nearest below it. -/
def State.bisect (s : State) (i : QIdx) (q : Stream) (t : Nat) : Nat → Nat → Nat → Option Nat → Option Nat → Except Next (Nat × Option Nat)
  | 0, lo, _, below, _ => .ok (lo, below)
  | fuel + 1, lo, hi, below, above =>
    if hi ≤ lo then .ok (lo, below) else
    let k := (lo - 1 + hi) / 2
    match s.probe i q k below above with
    | .error x => .error x
    | .ok c => if t ≤ c then s.bisect i q t fuel lo k below (some c) else s.bisect i q t fuel (k + 1) hi (some c) above

/-- Probe crd[pos + 2^j - 1] until a probe reaches the target, then bisect (13 R297). -/
def State.gallop (s : State) (i : QIdx) (q : Stream) (t : Nat) : Nat → Nat → Nat → Option Nat → Except Next (Nat × Option Nat)
  | 0, _, lo, below => .ok (lo, below)
  | fuel + 1, step, lo, below =>
    let k := q.pos + step - 1
    if q.fin ≤ k then s.bisect i q t 66 lo q.fin below none else
    match s.probe i q k below none with
    | .error x => .error x
    | .ok c => if t ≤ c then s.bisect i q t 66 lo k below (some c) else s.gallop i q t fuel (2 * step) (k + 1) (some c)

/-- Fibre q advanced to the first coordinate not less than t, and the coordinate read nearest below. -/
def State.skipFibre (s : State) (i : QIdx) (q : Stream) (t : Nat) (below : Option Nat) : Except Next (Stream × Option Nat) :=
  match s.fibreReady i q with
  | .error x => .error x
  | .ok q =>
    if q.fin ≤ q.pos then .ok (q, below) else
    match q.lvk.toNat with
    | 0 => .ok (q.at (min q.fin (max q.pos (q.row + t))), none)
    | 2 =>
      match s.nextBit q (q.size / 64 + 2) (min q.fin (max q.pos (q.row + t))) with
      | .error e => .error (.exc e)
      | .ok k => .ok (q.at (k.getD q.fin), none)
    | 3 =>
      if q.len ≤ q.pos then .error (.malformed i) else
      match s.probe i q q.pos none none with
      | .error x => .error x
      | .ok c => .ok (q.at (if t ≤ c then q.pos else q.fin), none)
    | _ => (s.gallop i q t 66 1 q.pos below).map fun r => (q.at r.1, r.2)

/-- One element of a delivery: the values for the attached registers. -/
abbrev Row := List Elt

/-- The result of a delivery loop: rows, the streams after it, how it stopped, and whether it found no further element. -/
structure Got where
  rows  : List Row
  qs    : List (QIdx × Stream)
  stop  : Next
  ended : Bool
  deriving DecidableEq, Repr

/-- The stream once its reads of pos[p] and pos[p+1] are made, or as it stands while they do not succeed (09 R204). -/
def State.started (s : State) (q : Stream) : Stream :=
  match s.fibreStart q with
  | .ok x => x
  | .error _ => q

/-- Pairs of a single fibre, up to k of them: its position advances past each delivered pair (09 R204). -/
def State.fibreLoop (s : State) (i : QIdx) (q : Stream) (prev : Option Nat) : Nat → Got
  | 0 => ⟨[], [(i, q)], .none, false⟩
  | k + 1 =>
    match s.fibreNext i q prev with
    | .pair c p bad q' =>
      let g := State.fibreLoop s i q' (some c) k
      { g with rows := [⟨c, bad⟩, ⟨p, false⟩] :: g.rows }
    | .none => ⟨[], [(i, s.started q)], .none, true⟩
    | x => ⟨[], [(i, q)], x, false⟩

/-- All ones of an index width. -/
def Stream.ones (q : Stream) : Nat := if q.iw then 2 ^ 64 - 1 else 2 ^ 32 - 1

/-- What stops a delivery on the reads of `sfib` that have not succeeded, if anything (13 R295). -/
def State.startFault (s : State) (q : Stream) : Next :=
  match s.fibreStart q with
  | .error e => .exc e
  | .ok _ => .none

/-- The merge of two fibres for sisect and sunite, up to k rows; a poisoned coordinate is used as control and traps
(09 R208, 13 R297; log 26). An input of `sisect` that lags by more than
8 coordinates advances by a search; a dense one computes its position. -/
def State.mergeLoop (s : State) (unite : Bool) (ia ib : QIdx) : Nat → Nat → Stream → Stream → Option Nat → Option Nat → Got
  | 0, _, a, b, _, _ => ⟨[], [(ia, a), (ib, b)], .none, false⟩
  | _, 0, a, b, _, _ => ⟨[], [(ia, a), (ib, b)], .none, false⟩
  | fuel + 1, k + 1, a, b, pa, pb =>
    let stopAt := fun (x : Next) => (⟨[], [(ia, s.started a), (ib, s.started b)], x, x == .none⟩ : Got)
    let row := fun (c : Nat) (xa xb : Option Nat) =>
      if unite then [(⟨c, false⟩ : Elt), ⟨xa.getD a.ones, false⟩, ⟨xb.getD a.ones, false⟩, ⟨b2n xa.isSome + 2 * b2n xb.isSome, false⟩]
      else [⟨c, false⟩, ⟨xa.getD 0, false⟩, ⟨xb.getD 0, false⟩]
    let only := fun (bad : Bool) (g : Got) (r : Row) =>
      if !unite then stopAt .none else if bad then stopAt (.exc poisonTrap) else { g with rows := r :: g.rows }
    match s.fibreNext ia a pa, s.fibreNext ib b pb with
    | .none, .none => stopAt .none
    | .none, .pair c p bad b' =>
      only bad (s.mergeLoop unite ia ib fuel k (s.started a) b' pa (some c)) (row c none (some p))
    | .pair c p bad a', .none =>
      only bad (s.mergeLoop unite ia ib fuel k a' (s.started b) (some c) pb) (row c (some p) none)
    -- an intersection needs nothing more once an input has ended, but the reads of `sfib` fault at the first delivery (13 R295); of
    -- one element, a fault goes before a malformed pair (R296)
    | .none, .exc e => stopAt (if unite then .exc e else s.startFault b)
    | .exc e, .none => stopAt (if unite then .exc e else s.startFault a)
    | .none, .malformed i => stopAt (if unite then .malformed i else .none)
    | .malformed i, .none => stopAt (if unite then .malformed i else .none)
    | .exc e, _ => stopAt (.exc e)
    | _, .exc e => stopAt (.exc e)
    | .malformed i, _ => stopAt (.malformed i)
    | _, .malformed i => stopAt (.malformed i)
    | .pair c p bad a', .pair c' p' bad' b' =>
      if bad || bad' then stopAt (.exc poisonTrap)
      else if c = c' then
        let g := s.mergeLoop unite ia ib fuel k a' b' (some c) (some c')
        { g with rows := row c (some p) (some p') :: g.rows }
      else if c < c' then
        if unite then
          let g := s.mergeLoop unite ia ib fuel k a' b (some c) pb
          { g with rows := row c (some p) none :: g.rows }
        else
          if !(a'.lvk = 0) && c' - c ≤ 8 then s.mergeLoop unite ia ib fuel (k + 1) a' (s.started b) (some c) pb else
          match s.skipFibre ia a' c' (some c) with
          | .error x => stopAt x
          | .ok (a2, below) => s.mergeLoop unite ia ib fuel (k + 1) a2 (s.started b) below pb
      else
        if unite then
          let g := s.mergeLoop unite ia ib fuel k (s.started a) b' pa (some c')
          { g with rows := row c' none (some p') :: g.rows }
        else
          if !(b'.lvk = 0) && c - c' ≤ 8 then s.mergeLoop unite ia ib fuel (k + 1) (s.started a) b' pa (some c') else
          match s.skipFibre ib b' c (some c') with
          | .error x => stopAt x
          | .ok (b2, below) => s.mergeLoop unite ia ib fuel (k + 1) (s.started a) b2 pa below

/-- Write rows into the attached registers: column j into register v + j. -/
def Regs.putRows (x : Regs) (v : VIdx) (w : Nat) (span : Nat) (rows : List Row) : Regs :=
  (List.range span).foldl (fun r j =>
    let d : VIdx := Fin.ofNat 32 (v.val + j)
    r.setV d ((r.v[d]).setElts w (enumElts (rows.map fun row => (row[j]?).getD ⟨0, false⟩)))) x

/-- The end of a fibre or derived delivery (09 R206, R207): a malformed element traps; a fault on element 0 is taken, on a
later one it shortens VL. Of a derived stream, the register whose element was malformed is the one that gets flt (DESIGN CHOICE,
log 75). -/
def finishRows (s : State) (i : QIdx) (q : Stream) (g : Got) : M State :=
  let n := g.rows.length
  match g.stop with
  | .malformed j => .error (.malformed [j] n)
  | .exc (.wait c r) => .error (.wait c r)
  | .exc (.trap c _ x) => .error (.trap c n x)
  | .exc e => if n = 0 then .error e else fin n
  | _ => fin n
where
  /-- Deliver the n rows. -/
  fin (n : Nat) : M State :=
    let h := s.hart
    let regs := h.regs.putRows q.vreg q.width q.span g.rows
    let regs := g.qs.foldl (fun r x => r.setQ x.1 { x.2 with flt := false }) regs
    let own := regs.q[i]
    let past := fun (x : QIdx × Stream) => decide (x.2.fin ≤ x.2.pos) && !x.2.pend
    let done := g.ended || (if q.kind = kIsect then g.qs.any past else g.qs.all past)
    -- an intersection that ends has passed every pair that is left of its inputs (09 R208)
    let regs := if q.kind = kIsect ∧ done then g.qs.foldl (fun r x => if x.2.pend then r else r.setQ x.1 { x.2.at x.2.fin with flt := false }) regs else regs
    let regs := regs.setQ i { own with n := own.n + BitVec.ofNat 64 n, done := own.done || done, delivered := true, flt := false }
    let h := { h with regs := regs }
    .ok { s with hart := if n < h.vl then h.withVl n else h }

/-- Delivery of a fibre, an intersection or a union. -/
def deliverFibre (s : State) (i : QIdx) (q : Stream) : M State :=
  let vl := s.hart.vl
  if q.done then
    .ok { s with hart := ({ s.hart with regs := s.hart.regs.setQ i { q with delivered := true } } : Hart).withVl 0 }
  else if q.kind = kFibre then finishRows s i q (s.fibreLoop i q none vl)
  else
    let a := s.hart.regs.q[q.qa]
    let b := s.hart.regs.q[q.qb]
    finishRows s i q (s.mergeLoop (q.kind == kUnite) q.qa q.qb (2 ^ 34) vl a b none none)

/-! ### Ports -/

/-- Take a slot's contents into a register (09 R198, 05 R124). -/
def VReg.takeSlot (r : VReg) (w : Nat) (scaled : Bool) (x : SlotData) : VReg :=
  let src : VReg := ⟨x.data, x.scale, x.poison, x.scaleBad⟩
  let r' := r.setElts w ((List.range x.n).map fun i => (i, src.elt w i))
  if scaled then (List.range (ceilDiv x.n 32)).foldl (fun r b => r.setScale b (src.scaleAt b) (src.scaleIsBad b)) r' else r'

/-- Delivery of a port: the held slot again, or the next landed one; else the instruction waits (14 Table 14-1). -/
def deliverPort (s : State) (i : QIdx) (q : Stream) : M State :=
  match s.portLink s.hart i false with
  | none => .error (.wait .slotIn .nothing)
  | some (f, l) =>
    let ls := f.linkState l
    if f.state = .stopped then .error (.wait .slotIn (.slot i f.c l)) else
    match (ls.firstSlot fun x => x.st == .held).or (ls.firstSlot fun x => x.st == .landed) with
    | none => .error (.wait .slotIn (.slot i f.c l))
    | some x =>
      let t := s.updFabric f.c fun f => { f.updLink l fun ls => ls.updSlot x.no fun y => { y with st := .held } with
        waiting := f.waiting.filter fun w => !(w.1 == s.hart.id) }
      let h := t.hart
      let size := h.lanes * 64
      let y := { x.x with poison := x.x.poison ||| BitVec.ofNat 2048 (s.slotPoison h.phys (Config.slotOffset l x.no size) size) }
      let regs := h.regs.setV q.vreg ((h.regs.v[q.vreg]).takeSlot q.width (fmtScaled q.format) y)
      let regs := regs.setQ i { q with delivered := true, n := q.n + BitVec.ofNat 64 x.x.n }
      .ok { t with hart := ({ h with regs := regs } : Hart).withVl x.x.n }

/-- Deliver for stream register i if it is attached to register v as an input and has not delivered in this strip. -/
def deliverOne (s : State) (v : VIdx) (i : QIdx) : M State :=
  let q := s.hart.regs.q[i]
  if !(q.covers v && q.isInput) then .ok s
  else if q.width ≠ s.hart.ew then .error illegal
  else if q.delivered then .ok s
  else if (q.kind = kAffine ∨ q.kind = kIndirect) ∧ !q.complete then .error illegal
  else if q.kind = kPortIn then deliverPort s i q
  else if q.kind = kAffine ∨ q.kind = kIndirect then deliverPattern s i q
  else deliverFibre s i q

/-- Deliveries for the registers an instruction reads, in operand order (09 R198). -/
def deliver (s : State) (reads : List VIdx) : M State :=
  reads.foldl (fun r v => (List.finRange 8).foldl (fun r i => r.bind fun s => deliverOne s v i) r) (.ok s)

/-! ### Emissions (09 R199, 14 R314) -/

/-- Store units of an output pattern for units n to n + k - 1 of per elements each. A fault names the lowest element of its unit:
of a row that `aepi` emits, its number within the row (DESIGN CHOICE, log 72). -/
def State.patternUnits (s : State) (q : Stream) (r : VReg) (per n : Nat) : Nat → Nat → M (State × List StoreUnit)
  | 0, _ => .ok (s, [])
  | k + 1, i =>
    match s.patternEa q (n + i) (per * i) with
    | .error e => .error e
    | .ok (t, a) =>
      match t.storeUnits q.sp a (q.width / 8) (per * i) .store (r.elt q.width i) with
      | .error e => .error e
      | .ok (u, us) =>
        match State.patternUnits u q r per n k (i + 1) with
        | .error e => .error e
        | .ok (v, vs) => .ok (v, us ++ vs)

/-- Adjacent units of one aligned 8-byte word joined, clean ones and poisoned ones apart: the word that a stream writes is one atomic
unit (10 R233, R249). -/
def joinWords : List StoreUnit → List StoreUnit
  | [] => []
  | u :: t =>
    match joinWords t with
    | [] => [u]
    | v :: r =>
      if v.loc = u.loc.plus u.bytes.length ∧ v.loc.off % 8 ≠ 0 ∧ u.loc.off / 8 = v.loc.off / 8 ∧ u.bad = v.bad ∧ u.log = v.log then
        { u with bytes := u.bytes ++ v.bytes } :: r
      else u :: v :: r

/-- Pairs of 4-bit elements as bytes: element i of the result is the byte of elements 2i and 2i + 1, the upper half 0 past
the last element (09 R201). -/
def nibbleBytes (r : VReg) (k : Nat) : VReg :=
  VReg.setElts r 8 ((List.range (ceilDiv k 2)).map fun i =>
    let lo := r.elt 4 (2 * i)
    let hi := if 2 * i + 1 < k then r.elt 4 (2 * i + 1) else ⟨0, false⟩
    (i, ⟨lo.val + 16 * hi.val, lo.bad || hi.bad⟩))

/-- Emission of a pattern: stores at its next addresses, charged as a vector store. -/
def emitPattern (s : State) (i : QIdx) (q : Stream) (r : VReg) (vl : Nat) : M State :=
  let n := q.n.toNat
  let k := if q.done then 0 else min vl (q.total - n)
  let four := q.width == 4
  let src := if four then nibbleBytes r k else r
  let q8 := if four then { q with fmt := 0 } else q
  let charge := vecCharge vl q.width
  if s.hart.capacity < s.hart.charge + charge then .error (.trap causeCapacity 0 none) else
  match s.patternUnits q8 src (if four then 2 else 1) (if four then n / 2 else n) (if four then ceilDiv k 2 else k) 0 with
  | .error e => .error e
  | .ok (t, us) =>
    let n' := n + (if four then ceilDiv k 2 * 2 else k)
    (t.hart.push (.store (joinWords us)) charge).map fun h =>
      { t with hart := { h with regs := h.regs.setQ i { q with n := BitVec.ofNat 64 n', done := q.done || decide (q.total ≤ n') } } }

/-- A slot's worth of a register: elements 0 to n - 1 with their scale entries and poison. -/
def slotOf (r : VReg) (n w : Nat) (scaled : Bool) : SlotData :=
  let bits := n * w
  let pb := ceilDiv bits 8
  { n := n, data := BitVec.ofNat 16384 (r.data.toNat % 2 ^ bits), poison := BitVec.ofNat 2048 (r.poison.toNat % 2 ^ pb),
    scale := if scaled then BitVec.ofNat 1024 (r.scale.toNat % 2 ^ (8 * ceilDiv n 32)) else 0
    scaleBad := if scaled then BitVec.ofNat 128 (r.scaleBad.toNat % 2 ^ ceilDiv n 32) else 0 }

/-- The strip of the hart in focus holds a slot, held or reserved (14 Table 14-8, DRAIN). -/
def Fabric.holds (f : Fabric) (h : Hart) : Bool :=
  (f.links.any fun l => l.slots.any fun x => x.st == .reserved && x.owner == some h.id)
    || ((List.finRange 8).any fun q => (h.regs.q[q]).delivered && (h.regs.q[q]).kind == kPortIn)

/-- Emission to a port: a control port never waits; a data port reserves a slot first (14 R314-R316, R321, R335). -/
def emitPort (s : State) (i : QIdx) (q : Stream) (r : VReg) (vl : Nat) : M State :=
  let x := slotOf r vl q.width (fmtScaled q.format)
  let buffer := fun (t : State) => (t.hart.push (.port i x) (vecCharge vl q.width)).map fun h =>
    { t with hart := { h with regs := h.regs.setQ i { q with n := q.n + BitVec.ofNat 64 vl } } }
  match s.portLink s.hart i true with
  | none => buffer s
  | some (f, l) =>
    let e := slotElems (imgLink f.image l) s.hart.lanes
    -- slots that SLOT_RESERVATION has already obtained for a waiting write
    let own := (f.linkState l).owned s.hart.id
    let used := (s.hart.buf.filter fun e => match e with
      | .port j _ => j == i
      | _ => false).length
    if e < vl then .error (illegal e)
    else if used < own then buffer s
    else if f.state = .stopped ∨ (f.state = .drain ∧ !f.holds s.hart) ∨ !f.canReserve l (f.destWaits l) then .error (.wait .slotOut (.out i f.c l own))
    else buffer (s.updFabric f.c fun f => f.updLink l fun ls => ls.reserve (some s.hart.id))

/-- Emission of `vl` elements for stream register i if it is attached to register v as an output. -/
def emitOne (s : State) (v : VIdx) (vl : Nat) (i : QIdx) : M State :=
  let q := s.hart.regs.q[i]
  if !(q.covers v && q.isOutput) then .ok s
  else if q.width ≠ s.hart.ew then .error illegal
  else if q.kind = kPortOut then emitPort s i q s.hart.regs.v[v] vl
  else if !q.complete then .error illegal
  else emitPattern s i q s.hart.regs.v[v] vl

/-- Emissions from the registers an instruction has written (09 R199). -/
def emit (s : State) (writes : List VIdx) : M State :=
  writes.foldl (fun r v => (List.finRange 8).foldl (fun r i => r.bind fun s => emitOne s v s.hart.vl i) r) (.ok s)

/-- Stream register i may serve a read (or a write) of register v: its format is no reserved code and has the width EW, and a
pattern is complete (03 R86, 09 R198, R200). -/
def Hart.streamOk (h : Hart) (input : Bool) (v : VIdx) (i : QIdx) : Bool :=
  let q := h.regs.q[i]
  !(q.covers v && (if input then q.isInput else q.isOutput)) ||
    ((q.indexed || (Format.ofCode q.fmt.toNat).isSome) && q.width == h.ew && (!(q.kind == kAffine || q.kind == kIndirect) || q.complete))

/-- Every stream that an instruction reads from or writes to may serve it: else it is illegal before it has any effect. -/
def streamsReady (h : Hart) (reads writes : List VIdx) : M Unit :=
  failIf (!((reads.all fun v => (List.finRange 8).all (h.streamOk true v)) && writes.all fun v => (List.finRange 8).all (h.streamOk false v)))
    illegal

/-- The wait for a slot of port register i that is attached to register v, in or out. -/
def portWait (s : State) (input : Bool) (v : VIdx) (i : QIdx) : Option Exc :=
  let q := s.hart.regs.q[i]
  if !q.covers v then none
  else if input then
    if q.kind != kPortIn || q.delivered then none else
    match deliverPort s i q with
    | .error e => some e
    | .ok _ => none
  else
    if q.kind != kPortOut then none else
    match emitPort s i q s.hart.regs.v[v] s.hart.vl with
    | .error (.wait .slotOut r) => some (.wait .slotOut r)
    | _ => none

/-- Of the causes for which an instruction waits, an input slot counts first, then an output slot (01 R38). -/
def slotFirst (s : State) (reads writes : List VIdx) (e : Exc) : Exc :=
  let ports := fun (input : Bool) (l : List VIdx) => l.findSome? fun v => (List.finRange 8).findSome? fun i => portWait s input v i
  match e with
  | .wait c r => if c = .slotIn then .wait c r else ((ports true reads).or (ports false writes)).getD (.wait c r)
  | e => e

/-- A vector instruction with its streams: static checks, deliveries into the registers read, the effect, emissions from
the registers written. -/
def streamed (reads writes : List VIdx) (legal : Hart → M Unit) (f : State → M State) (s : State) : M State :=
  match legal s.hart, streamsReady s.hart reads writes with
  | .error e, _ => .error e
  | _, .error e => .error e
  | .ok _, .ok _ =>
    ((deliver s reads).bind fun t => (f t).bind fun u => emit u writes).mapError (slotFirst s reads writes)

/-- The same for an effect on the hart alone. -/
def vecH (reads writes : List VIdx) (legal : Hart → M Unit) (f : Hart → M Hart) (s : State) : Out :=
  plain s (streamed reads writes legal fun t => (f t.hart).map fun h => { t with hart := h })

/-- EW must be one of the widths (03 R74). -/
def ewIn (ws : List Nat) (h : Hart) : M Unit := failIf (!ws.contains h.ew) illegal

end Sys2Proof.Machine
end

