-- ==== Sys2Proof/Machine/VecInt.lean ====
section
/-! DEFINITION. Vector integer arithmetic and compares (06 R143, R144, R146, R148, R149). -/
namespace Sys2Proof.Machine

/-- Write f(i) to every active element i of vd (06 R143); a poisoned governing mask bit traps first. -/
def vecMap (w : Nat) (d : VIdx) (m : MIdx) (f : Hart → Nat → Elt) (h : Hart) : M Hart :=
  (h.maskClean m).map fun _ =>
    let xs := (h.active m).map fun i => (i, f h i)
    { h with regs := h.regs.setV d ((h.regs.v[d]).setElts w xs) }

/-- Write a compare's bit to mask md for every active element (06 R149, R146). -/
def maskMap (d m : MIdx) (f : Hart → Nat → Bool × Bool) (h : Hart) : M Hart :=
  (h.maskClean m).map fun _ =>
    let k := (h.active m).foldl (fun k i => let x := f h i; k.setBit i x.1 x.2) (h.regs.getM d)
    { h with regs := h.regs.setM d k }

/-- vd[i] := f(va[i], opb(i)) at width w. -/
def vecInt3 (w : IWidth) (d a : VIdx) (b : BOp3) (m : MIdx) (f : Nat → Nat → Nat → Nat) (s : State) : Out :=
  vecH (a :: b3Regs b) [d] (ewIn [w.bits]) (vecMap w.bits d m fun h i =>
    let x := (h.regs.v[a]).elt w.bits i
    let y := h.b3 w.bits b i
    ⟨f w.bits x.val y.val, x.bad || y.bad⟩) s

/-- A shift: the count is the low log2(ew) bits of opb(i), an immediate being unsigned (06 R148). -/
def vecShift (w : IWidth) (d a : VIdx) (b : BOp3) (m : MIdx) (f : Nat → Nat → Nat → Nat) (s : State) : Out :=
  vecH (a :: b3Regs b) [d] (ewIn [w.bits]) (vecMap w.bits d m fun h i =>
    let x := (h.regs.v[a]).elt w.bits i
    let y : Elt := match b with
      | .vi k => ⟨k.toNat, false⟩
      | o => h.b3 w.bits o i
    ⟨f w.bits x.val (y.val % w.bits), x.bad || y.bad⟩) s

/-- md[i] := f(va[i], opb(i)) (06 R149). -/
def vecIntCmp (w : IWidth) (d : MIdx) (a : VIdx) (b : BOp3) (m : MIdx) (f : Nat → Nat → Nat → Bool) (s : State) : Out :=
  vecH (a :: b3Regs b) [] (ewIn [w.bits]) (maskMap d m fun h i =>
    let x := (h.regs.v[a]).elt w.bits i
    let y := h.b3 w.bits b i
    (f w.bits x.val y.val, x.bad || y.bad)) s

/-- Signed quotient of R42 at width w. -/
def divS (w a b : Nat) : Nat := if b = 0 then 2 ^ w - 1 else wrapI w (truncDiv (sgn w a) (sgn w b))
/-- Signed remainder of R42. -/
def remS (w a b : Nat) : Nat := if b = 0 then a else wrapI w (truncMod (sgn w a) (sgn w b))

/-- `vaddI`: wrap(a + b, ew) (06 Table 6-1). -/
def execVaddI (w : IWidth) (d a : VIdx) (b : BOp3) (m : MIdx) (s : State) : Out :=
  vecInt3 w d a b m (fun w x y => (x + y) % 2 ^ w) s
/-- `vsubI`: wrap(a - b, ew) (06 Table 6-1). -/
def execVsubI (w : IWidth) (d a : VIdx) (b : BOp3) (m : MIdx) (s : State) : Out :=
  vecInt3 w d a b m (fun w x y => wrapI w ((x : Int) - y)) s
/-- `vmulI`: low half of a * b (06 Table 6-1). -/
def execVmulI (w : IWidth) (d a : VIdx) (b : BOp3) (m : MIdx) (s : State) : Out :=
  vecInt3 w d a b m (fun w x y => x * y % 2 ^ w) s
/-- `vmulh`: high half, signed (06 Table 6-1). -/
def execVmulh (w : IWidth) (d a : VIdx) (b : BOp3) (m : MIdx) (s : State) : Out :=
  vecInt3 w d a b m (fun w x y => wrapI w (sgn w x * sgn w y / 2 ^ w)) s
/-- `vmulhu`: high half, unsigned (06 Table 6-1). -/
def execVmulhu (w : IWidth) (d a : VIdx) (b : BOp3) (m : MIdx) (s : State) : Out :=
  vecInt3 w d a b m (fun w x y => x * y / 2 ^ w) s
/-- `vminI`: signed minimum (06 Table 6-1). -/
def execVminI (w : IWidth) (d a : VIdx) (b : BOp3) (m : MIdx) (s : State) : Out :=
  vecInt3 w d a b m (fun w x y => if sgn w y < sgn w x then y else x) s
/-- `vmaxI`: signed maximum (06 Table 6-1). -/
def execVmaxI (w : IWidth) (d a : VIdx) (b : BOp3) (m : MIdx) (s : State) : Out :=
  vecInt3 w d a b m (fun w x y => if sgn w x < sgn w y then y else x) s
/-- `vminu`: unsigned minimum (06 Table 6-1). -/
def execVminu (w : IWidth) (d a : VIdx) (b : BOp3) (m : MIdx) (s : State) : Out :=
  vecInt3 w d a b m (fun _ x y => Nat.min x y) s
/-- `vmaxu`: unsigned maximum (06 Table 6-1). -/
def execVmaxu (w : IWidth) (d a : VIdx) (b : BOp3) (m : MIdx) (s : State) : Out :=
  vecInt3 w d a b m (fun _ x y => Nat.max x y) s
/-- `vand`: and (06 Table 6-1). -/
def execVand (w : IWidth) (d a : VIdx) (b : BOp3) (m : MIdx) (s : State) : Out :=
  vecInt3 w d a b m (fun _ x y => x &&& y) s
/-- `vor`: or (06 Table 6-1). -/
def execVor (w : IWidth) (d a : VIdx) (b : BOp3) (m : MIdx) (s : State) : Out :=
  vecInt3 w d a b m (fun _ x y => x ||| y) s
/-- `vxor`: exclusive or (06 Table 6-1). -/
def execVxor (w : IWidth) (d a : VIdx) (b : BOp3) (m : MIdx) (s : State) : Out :=
  vecInt3 w d a b m (fun _ x y => x ^^^ y) s
/-- `vsll`: shift left (06 Table 6-1). -/
def execVsll (w : IWidth) (d a : VIdx) (b : BOp3) (m : MIdx) (s : State) : Out :=
  vecShift w d a b m (fun w x c => x * 2 ^ c % 2 ^ w) s
/-- `vsrl`: logical shift right (06 Table 6-1). -/
def execVsrl (w : IWidth) (d a : VIdx) (b : BOp3) (m : MIdx) (s : State) : Out :=
  vecShift w d a b m (fun _ x c => x / 2 ^ c) s
/-- `vsra`: arithmetic shift right (06 Table 6-1). -/
def execVsra (w : IWidth) (d a : VIdx) (b : BOp3) (m : MIdx) (s : State) : Out :=
  vecShift w d a b m (fun w x c => wrapI w (sgn w x / 2 ^ c)) s
/-- `vsadd`: signed saturating sum (06 Table 6-1). -/
def execVsadd (w : IWidth) (d a : VIdx) (b : BOp3) (m : MIdx) (s : State) : Out :=
  vecInt3 w d a b m (fun w x y => wrapI w (satI (sgn w x + sgn w y) (intLo true w) (intHi true w))) s
/-- `vsaddu`: unsigned saturating sum (06 Table 6-1). -/
def execVsaddu (w : IWidth) (d a : VIdx) (b : BOp3) (m : MIdx) (s : State) : Out :=
  vecInt3 w d a b m (fun w x y => Nat.min (x + y) (2 ^ w - 1)) s
/-- `vssub`: signed saturating difference (06 Table 6-1). -/
def execVssub (w : IWidth) (d a : VIdx) (b : BOp3) (m : MIdx) (s : State) : Out :=
  vecInt3 w d a b m (fun w x y => wrapI w (satI (sgn w x - sgn w y) (intLo true w) (intHi true w))) s
/-- `vssubu`: unsigned saturating difference (06 Table 6-1). -/
def execVssubu (w : IWidth) (d a : VIdx) (b : BOp3) (m : MIdx) (s : State) : Out :=
  vecInt3 w d a b m (fun _ x y => x - y) s
/-- `vdivI`: signed quotient (R42) (06 Table 6-1). -/
def execVdivI (w : IWidth) (d a : VIdx) (b : BOp3) (m : MIdx) (s : State) : Out :=
  vecInt3 w d a b m (divS) s
/-- `vdivu`: unsigned quotient (R42) (06 Table 6-1). -/
def execVdivu (w : IWidth) (d a : VIdx) (b : BOp3) (m : MIdx) (s : State) : Out :=
  vecInt3 w d a b m (fun w x y => if y = 0 then 2 ^ w - 1 else x / y) s
/-- `vrem`: signed remainder (R42) (06 Table 6-1). -/
def execVrem (w : IWidth) (d a : VIdx) (b : BOp3) (m : MIdx) (s : State) : Out :=
  vecInt3 w d a b m (remS) s
/-- `vremu`: unsigned remainder (R42) (06 Table 6-1). -/
def execVremu (w : IWidth) (d a : VIdx) (b : BOp3) (m : MIdx) (s : State) : Out :=
  vecInt3 w d a b m (fun _ x y => if y = 0 then x else x % y) s
/-- `vmadd`: wrap(a * b + vd[i], ew) (06 Table 6-1). -/
def execVmadd (w : IWidth) (d a b : VIdx) (m : MIdx) (s : State) : Out :=
  vecH [a, b, d] [d] (ewIn [w.bits]) (vecMap w.bits d m fun h i =>
    let x := (h.regs.v[a]).elt w.bits i
    let y := (h.regs.v[b]).elt w.bits i
    let z := (h.regs.v[d]).elt w.bits i
    ⟨(x.val * y.val + z.val) % 2 ^ w.bits, x.bad || y.bad || z.bad⟩) s
/-- `vabs`: the most negative value stays (06 Table 6-1). -/
def execVabsI (w : IWidth) (d a : VIdx) (m : MIdx) (s : State) : Out :=
  vecH [a] [d] (ewIn [w.bits]) (vecMap w.bits d m fun h i =>
    let x := (h.regs.v[a]).elt w.bits i
    ⟨wrapI w.bits (sgn w.bits x.val).natAbs, x.bad⟩) s
/-- `vceqI`: a = b (06 R149). -/
def execVceqI (w : IWidth) (d : MIdx) (a : VIdx) (b : BOp3) (m : MIdx) (s : State) : Out :=
  vecIntCmp w d a b m (fun _ x y => x == y) s
/-- `vcneI`: a differs from b (06 R149). -/
def execVcneI (w : IWidth) (d : MIdx) (a : VIdx) (b : BOp3) (m : MIdx) (s : State) : Out :=
  vecIntCmp w d a b m (fun _ x y => x != y) s
/-- `vcltI`: a < b signed (06 R149). -/
def execVcltI (w : IWidth) (d : MIdx) (a : VIdx) (b : BOp3) (m : MIdx) (s : State) : Out :=
  vecIntCmp w d a b m (fun w x y => decide (sgn w x < sgn w y)) s
/-- `vcltu`: a < b unsigned (06 R149). -/
def execVcltu (w : IWidth) (d : MIdx) (a : VIdx) (b : BOp3) (m : MIdx) (s : State) : Out :=
  vecIntCmp w d a b m (fun _ x y => decide (x < y)) s
/-- `vcleI`: a ≤ b signed (06 R149). -/
def execVcleI (w : IWidth) (d : MIdx) (a : VIdx) (b : BOp3) (m : MIdx) (s : State) : Out :=
  vecIntCmp w d a b m (fun w x y => decide (sgn w x ≤ sgn w y)) s
/-- `vcleu`: a ≤ b unsigned (06 R149). -/
def execVcleu (w : IWidth) (d : MIdx) (a : VIdx) (b : BOp3) (m : MIdx) (s : State) : Out :=
  vecIntCmp w d a b m (fun _ x y => decide (x ≤ y)) s

end Sys2Proof.Machine
end

