-- ==== Sys2Proof/Machine/VecFp.lean ====
section
/-! DEFINITION. Vector floating-point arithmetic and compares, FP8 and complex arithmetic (06 R145, R150-R152). -/
namespace Sys2Proof.Machine

/-- Raise the flags of the elements that are not poisoned, in element order (06 R145, 02 R52), then write the elements. -/
def vecFlag (w : Nat) (d : VIdx) (m : MIdx) (f : Hart → Nat → Elt × FlagSet) (h : Hart) : M Hart :=
  match h.maskClean m with
  | .error e => .error e
  | .ok _ =>
    let xs := (h.active m).map fun i => (i, f h i)
    (h.raiseAll (xs.map fun x => (x.1, if x.2.1.bad then 0 else x.2.2))).map fun h =>
      { h with regs := h.regs.setV d ((h.regs.v[d]).setElts w (xs.map fun x => (x.1, x.2.1))) }

/-- vd[i] := f(va[i], opb(i)) with flags. -/
def vecFp2 (w : Nat) (d a : VIdx) (b : BOp2) (m : MIdx) (f : Rnd → Bool → Nat → Nat → Nat × FlagSet) (s : State) : Out :=
  vecH (a :: b2Regs b) [d] (ewIn [w]) (vecFlag w d m fun h i =>
    let x := (h.regs.v[a]).elt w i
    let y := h.b2 w b i
    let z := f h.rnd h.fz x.val y.val
    (⟨z.1, x.bad || y.bad⟩, z.2)) s

/-- vd[i] := fma of va[i], vb[i], vd[i], with the product or the addend negated (02 R55). -/
def vecFma (F : Fp) (w : Nat) (np nc : Bool) (d a b : VIdx) (m : MIdx) (s : State) : Out :=
  vecH [a, b, d] [d] (ewIn [w]) (vecFlag w d m fun h i =>
    let x := (h.regs.v[a]).elt w i
    let y := (h.regs.v[b]).elt w i
    let z := (h.regs.v[d]).elt w i
    let r := F.fma h.rnd h.fz np nc x.val y.val z.val
    (⟨r.1, x.bad || y.bad || z.bad⟩, r.2)) s

/-- vd[i] := f(va[i]) with flags. -/
def vecFp1 (w : Nat) (d a : VIdx) (m : MIdx) (f : Rnd → Bool → Nat → Nat × FlagSet) (s : State) : Out :=
  vecH [a] [d] (ewIn [w]) (vecFlag w d m fun h i =>
    let x := (h.regs.v[a]).elt w i
    let z := f h.rnd h.fz x.val
    (⟨z.1, x.bad⟩, z.2)) s

/-- md[i] := the comparison of va[i] and opb(i), with flags (06 R151). -/
def vecFCmp (k : FFmt) (c : FCmp) (d : MIdx) (a : VIdx) (b : BOp2) (m : MIdx) (s : State) : Out :=
  vecH (a :: b2Regs b) [] (ewIn [k.width]) (fun h =>
    match h.maskClean m with
    | .error e => .error e
    | .ok _ =>
      let xs := (h.active m).map fun i =>
        let x := (h.regs.v[a]).elt k.width i
        let y := h.b2 k.width b i
        let r := k.fp.cmp c h.fz x.val y.val
        (i, r.1, x.bad || y.bad, r.2)
      (h.raiseAll (xs.map fun x => (x.1, if x.2.2.1 then 0 else x.2.2.2))).map fun h =>
        { h with regs := h.regs.setM d (xs.foldl (fun k x => k.setBit x.1 x.2.1 x.2.2.1) (h.regs.getM d)) }) s

/-- `vaddF` (06 Table 6-3). -/
def execVaddF (k : FFmt) (d a : VIdx) (b : BOp2) (m : MIdx) (s : State) : Out :=
  vecFp2 k.width d a b m k.fp.add s
/-- `vsubF` (06 Table 6-3). -/
def execVsubF (k : FFmt) (d a : VIdx) (b : BOp2) (m : MIdx) (s : State) : Out :=
  vecFp2 k.width d a b m k.fp.sub s
/-- `vmulF` (06 Table 6-3). -/
def execVmulF (k : FFmt) (d a : VIdx) (b : BOp2) (m : MIdx) (s : State) : Out :=
  vecFp2 k.width d a b m k.fp.mul s
/-- `vdivF` (06 Table 6-3). -/
def execVdivF (k : FFmt) (d a : VIdx) (b : BOp2) (m : MIdx) (s : State) : Out :=
  vecFp2 k.width d a b m k.fp.div s
/-- `vfmaF` (06 Table 6-3). -/
def execVfmaF (k : FFmt) (d a b : VIdx) (m : MIdx) (s : State) : Out :=
  vecFma k.fp k.width false false d a b m s
/-- `vfms` (06 Table 6-3). -/
def execVfms (k : FFmt) (d a b : VIdx) (m : MIdx) (s : State) : Out :=
  vecFma k.fp k.width false true d a b m s
/-- `vfnma` (06 Table 6-3). -/
def execVfnma (k : FFmt) (d a b : VIdx) (m : MIdx) (s : State) : Out :=
  vecFma k.fp k.width true false d a b m s
/-- `vminF` (06 Table 6-3, 02 R55). -/
def execVminF (k : FFmt) (d a : VIdx) (b : BOp2) (m : MIdx) (s : State) : Out :=
  vecFp2 k.width d a b m (fun _ fz => k.fp.minmax false fz) s
/-- `vmaxF` (06 Table 6-3, 02 R55). -/
def execVmaxF (k : FFmt) (d a : VIdx) (b : BOp2) (m : MIdx) (s : State) : Out :=
  vecFp2 k.width d a b m (fun _ fz => k.fp.minmax true fz) s
/-- `vsqrt` (06 Table 6-3). -/
def execVsqrt (k : FFmt) (d a : VIdx) (m : MIdx) (s : State) : Out := vecFp1 k.width d a m k.fp.sqrt s
/-- `vabs`: the sign bit only, no flag (06 Table 6-3). -/
def execVabsF (k : FFmt) (d a : VIdx) (m : MIdx) (s : State) : Out :=
  vecFp1 k.width d a m (fun _ _ x => (x % 2 ^ (k.width - 1), 0)) s
/-- `vneg`. -/
def execVneg (k : FFmt) (d a : VIdx) (m : MIdx) (s : State) : Out :=
  vecFp1 k.width d a m (fun _ _ x => (x ^^^ 2 ^ (k.width - 1), 0)) s
/-- `vsgnj`: x with the sign of y. -/
def execVsgnj (k : FFmt) (d a : VIdx) (b : BOp2) (m : MIdx) (s : State) : Out :=
  vecFp2 k.width d a b m (fun _ _ x y => (x % 2 ^ (k.width - 1) + y / 2 ^ (k.width - 1) * 2 ^ (k.width - 1), 0)) s
/-- `vceqF` (06 R151). -/
def execVceqF (k : FFmt) (d : MIdx) (a : VIdx) (b : BOp2) (m : MIdx) (s : State) : Out :=
  vecFCmp k .eq d a b m s
/-- `vcneF` (06 R151). -/
def execVcneF (k : FFmt) (d : MIdx) (a : VIdx) (b : BOp2) (m : MIdx) (s : State) : Out :=
  vecFCmp k .ne d a b m s
/-- `vcltF` (06 R151). -/
def execVcltF (k : FFmt) (d : MIdx) (a : VIdx) (b : BOp2) (m : MIdx) (s : State) : Out :=
  vecFCmp k .lt d a b m s
/-- `vcleF` (06 R151). -/
def execVcleF (k : FFmt) (d : MIdx) (a : VIdx) (b : BOp2) (m : MIdx) (s : State) : Out :=
  vecFCmp k .le d a b m s
/-- `vcun` (06 R151). -/
def execVcun (k : FFmt) (d : MIdx) (a : VIdx) (b : BOp2) (m : MIdx) (s : State) : Out :=
  vecFCmp k .un d a b m s
/-- `vaddF8` (06 R150). -/
def execVaddF8 (t : F8Fmt) (d a : VIdx) (b : BOp2) (m : MIdx) (s : State) : Out :=
  vecFp2 8 d a b m t.fp.add s
/-- `vsubF8` (06 R150). -/
def execVsubF8 (t : F8Fmt) (d a : VIdx) (b : BOp2) (m : MIdx) (s : State) : Out :=
  vecFp2 8 d a b m t.fp.sub s
/-- `vmulF8` (06 R150). -/
def execVmulF8 (t : F8Fmt) (d a : VIdx) (b : BOp2) (m : MIdx) (s : State) : Out :=
  vecFp2 8 d a b m t.fp.mul s
/-- `vfmaF8` (06 R150). -/
def execVfmaF8 (t : F8Fmt) (d a b : VIdx) (m : MIdx) (s : State) : Out := vecFma t.fp 8 false false d a b m s
/-- `vminF8` (06 R150). -/
def execVminF8 (t : F8Fmt) (d a : VIdx) (b : BOp2) (m : MIdx) (s : State) : Out :=
  vecFp2 8 d a b m (fun _ fz => t.fp.minmax false fz) s
/-- `vmaxF8` (06 R150). -/
def execVmaxF8 (t : F8Fmt) (d a : VIdx) (b : BOp2) (m : MIdx) (s : State) : Out :=
  vecFp2 8 d a b m (fun _ fz => t.fp.minmax true fz) s

/-! ### Complex (06 R152) -/

/-- A complex element split into its components. -/
def cparts (t : CFmt) (x : Nat) : Nat × Nat := (field x 0 t.comp, field x t.comp t.comp)
/-- Components joined into an element. -/
def cjoin (t : CFmt) (re im : Nat) : Nat := re + im * 2 ^ t.comp

/-- Infinities of both signs are among some terms: an invalid combination (07 R171, 02 R56). -/
def clash (terms : List (FVal × FlagSet)) : Bool :=
  terms.any (fun t => t.1 == .inf false) && terms.any (fun t => t.1 == .inf true)

/-- A sum of exact terms, rounded once; `ops` are the operands whose signalling NaNs set nv. -/
def cround (F : Fp) (r : Rnd) (fz : Bool) (terms : List (FVal × FlagSet)) (ops : List FVal) : Nat × FlagSet :=
  match terms with
  | [] => (0, 0)
  | t :: ts =>
    let z := if clash terms then .nan false else ts.foldl (fun acc x => (addVal r acc x.1).1) t.1
    let p := F.pack r fz z
    (p.1, p.2 ||| terms.foldl (fun f x => f ||| x.2) 0 ||| (if clash terms then flNv else 0) ||| snans ops)

/-- A negated exact term. -/
def negTerm (x : FVal × FlagSet) : FVal × FlagSet := (x.1.neg, x.2)

/-- Complex operations that round. -/
inductive COp | add | sub | mul | mulc | fma
  deriving DecidableEq, Repr

/-- Table 6-4 for one element: x, y and the addend z. -/
def complexOp (t : CFmt) (op : COp) (r : Rnd) (fz : Bool) (x y z : Nat) : Nat × FlagSet :=
  let F := t.fp
  let u := fun (v : Nat) => F.unpack fz v
  let xr := u (cparts t x).1
  let xj := u (cparts t x).2
  let yr := u (cparts t y).1
  let yj := u (cparts t y).2
  let zr := u (cparts t z).1
  let zj := u (cparts t z).2
  let ops := [xr, xj, yr, yj]
  let one := fun (v : FVal) => ((v, 0) : FVal × FlagSet)
  let re := match op with
    | .add => cround F r fz [one xr, one yr] [xr, yr]
    | .sub => cround F r fz [one xr, one yr.neg] [xr, yr]
    | .mul => cround F r fz [mulVal xr yr, negTerm (mulVal xj yj)] ops
    | .mulc => cround F r fz [mulVal xr yr, mulVal xj yj] ops
    | .fma => cround F r fz [mulVal xr yr, negTerm (mulVal xj yj), one zr] (zr :: ops)
  let im := match op with
    | .add => cround F r fz [one xj, one yj] [xj, yj]
    | .sub => cround F r fz [one xj, one yj.neg] [xj, yj]
    | .mul => cround F r fz [mulVal xr yj, mulVal xj yr] ops
    | .mulc => cround F r fz [mulVal xj yr, negTerm (mulVal xr yj)] ops
    | .fma => cround F r fz [mulVal xr yj, mulVal xj yr, one zj] (zj :: ops)
  (cjoin t re.1 im.1, re.2 ||| im.2)

/-- A binary complex instruction. -/
def vecC2 (t : CFmt) (op : COp) (d a : VIdx) (b : BOp2) (m : MIdx) (s : State) : Out :=
  vecFp2 (2 * t.comp) d a b m (fun r fz x y => complexOp t op r fz x y 0) s

/-- `vaddC` (06 Table 6-4). -/
def execVaddC (t : CFmt) (d a : VIdx) (b : BOp2) (m : MIdx) (s : State) : Out := vecC2 t .add d a b m s
/-- `vsubC` (06 Table 6-4). -/
def execVsubC (t : CFmt) (d a : VIdx) (b : BOp2) (m : MIdx) (s : State) : Out := vecC2 t .sub d a b m s
/-- `vmulC` (06 Table 6-4). -/
def execVmulC (t : CFmt) (d a : VIdx) (b : BOp2) (m : MIdx) (s : State) : Out := vecC2 t .mul d a b m s
/-- `vmulc` (06 Table 6-4). -/
def execVmulc (t : CFmt) (d a : VIdx) (b : BOp2) (m : MIdx) (s : State) : Out := vecC2 t .mulc d a b m s
/-- `vfmaC` (06 Table 6-4). -/
def execVfmaC (t : CFmt) (d a b : VIdx) (m : MIdx) (s : State) : Out :=
  let w := 2 * t.comp
  vecH [a, b, d] [d] (ewIn [w]) (vecFlag w d m fun h i =>
    let x := (h.regs.v[a]).elt w i
    let y := (h.regs.v[b]).elt w i
    let z := (h.regs.v[d]).elt w i
    let r := complexOp t .fma h.rnd h.fz x.val y.val z.val
    (⟨r.1, x.bad || y.bad || z.bad⟩, r.2)) s
/-- `vconj`: sign bits only (06 Table 6-4). -/
def execVconj (t : CFmt) (d a : VIdx) (m : MIdx) (s : State) : Out :=
  vecFp1 (2 * t.comp) d a m (fun _ _ x => (x ^^^ 2 ^ (2 * t.comp - 1), 0)) s
/-- `vmuli`: (-xj, xr) (06 Table 6-4). -/
def execVmuli (t : CFmt) (d a : VIdx) (m : MIdx) (s : State) : Out :=
  vecFp1 (2 * t.comp) d a m (fun _ _ x => (cjoin t ((cparts t x).2 ^^^ 2 ^ (t.comp - 1)) (cparts t x).1, 0)) s

end Sys2Proof.Machine
end

