-- ==== Sys2Proof/Machine/Convert.lean ====
section
/-! DEFINITION. Element format conversions, XBF blocks and MX quantise and dequantise (06 R157-R161, 02 R53, R54, R59-R62). -/
namespace Sys2Proof.Machine

/-- The floating-point format of an element, or of a component of a complex element. -/
def fmtFp : Format → Option Fp
  | .fp64 => some fpFP64
  | .fp32 | .cfp32 => some fpFP32
  | .fp16 => some fpFP16
  | .bf16 | .cbf16 => some fpBF16
  | .e4m3 => some fpE4M3
  | .e5m2 => some fpE5M2
  | .e3m2 => some fpE3M2
  | .e2m3 => some fpE2M3
  | .e2m1 => some fpE2M1
  | _ => none

/-- A signed integer format. -/
def fmtSigned : Format → Bool
  | .i8 | .i16 | .i32 | .i64 => true
  | _ => false

/-- An XBF component of value m * 2^(e - 142) converted to F; scale 0xFF gives the canonical NaN (06 R158). -/
def xbfComp (F : Fp) (r : Rnd) (fz : Bool) (e m : Nat) : Nat × FlagSet :=
  if e = 0xFF then (F.cnan, flNv) else F.pack r fz (FVal.ofInt (sgn 16 m) ((e : Int) - 142) false)

/-- One element of `vcvt` to a format without scale, from a source element and its scale entry (02 Table 2-5, 06 R158). -/
def cvtElt (dst src : Format) (sat : Bool) (r : Rnd) (fz : Bool) (e raw : Nat) : Nat × FlagSet :=
  let sw := fmtWidth src
  let dw := fmtWidth dst
  match fmtFp src, fmtFp dst with
  | none, none => (cvtII (fmtSigned src) sw (fmtSigned dst) dw sat raw, 0)
  | none, some F =>
    match src, dst.group with
    | .rxbf, _ => xbfComp F r fz e raw
    | .xbf, _ =>
      let x := xbfComp F r fz e (field raw 0 16)
      let y := xbfComp F r fz e (field raw 16 16)
      (x.1 + y.1 * 2 ^ (dw / 2), x.2 ||| y.2)
    | _, _ => cvtIF (fmtSigned src) sw F r fz raw
  | some F, none => cvtFI F (fmtSigned dst) dw r fz raw
  | some F, some G =>
    if src.group = .c then
      let x := cvtFF F G r fz fz (field raw 0 (sw / 2))
      let y := cvtFF F G r fz fz (field raw (sw / 2) (sw / 2))
      (x.1 + y.1 * 2 ^ (dw / 2), x.2 ||| y.2)
    else cvtFF F G r fz fz raw

/-- One draw in front of each element under stochastic rounding (02 R48, R49). -/
def withDraws (sto : Bool) (r : Rnd) : List Nat → Hart → Hart × List (Nat × Rnd)
  | [], h => (h, [])
  | i :: t, h =>
    if sto then
      let x := h.draw
      let y := withDraws sto r t x.1
      (y.1, (i, .sto x.2) :: y.2)
    else
      let y := withDraws sto r t h
      (y.1, (i, r) :: y.2)

/-- Flags of elements, poisoned ones raising none. -/
def flagsOf (xs : List (Nat × Elt × FlagSet)) : List (Nat × FlagSet) := xs.map fun x => (x.1, if x.2.1.bad then 0 else x.2.2)

/-- The blocks of 32 that hold an active element, with those elements (06 R159, R160). -/
def blocksOf (act : List Nat) : List (Nat × List Nat) :=
  (act.map (· / 32)).eraseDups.map fun b => (b, act.filter fun i => i / 32 == b)

/-- A formed block: number, its 32 elements, scale, poison, and flags by element. -/
structure Block where
  b     : Nat
  codes : List Nat
  e     : Nat
  bad   : Bool
  fl    : List (Nat × FlagSet)
  deriving DecidableEq, Repr

/-- Write every element and the scale entry of a block; a poisoned block has them all poisoned (02 R52). -/
def VReg.putBlock (r : VReg) (w : Nat) (b : Block) : VReg :=
  (r.setElts w (b.codes.zipIdx.map fun x => (32 * b.b + x.2, (⟨x.1, b.bad⟩ : Elt)))).setScale b.b b.e b.bad

/-- Raise the flags of blocks that are not poisoned, then write every element and the scale entry of each block. -/
def Hart.putBlocks (h : Hart) (d : VIdx) (w : Nat) (bs : List Block) : M Hart :=
  (h.raiseAll (bs.flatMap fun b => if b.bad then [] else b.fl)).map fun h =>
    { h with regs := h.regs.setV d (bs.foldl (fun r b => r.putBlock w b) (h.regs.v[d])) }

/-- Exact values over one power of two: the integers, and its exponent. -/
def gridOf (vs : List FVal) : List Int × Int :=
  let lo := vs.foldl (fun (k : Int) v => match v with
    | .fin _ m e => if m = 0 then k else min k e
    | _ => k) 0
  (vs.map fun v => v.mant * 2 ^ (v.expo - lo).toNat, lo)

/-- Pack mantissas into elements: one, or a real and an imaginary part each. -/
def packMant (cplx : Bool) : List Int → List Nat
  | [] => []
  | [x] => [wrapI 16 x]
  | x :: y :: t => if cplx then (wrapI 16 x + wrapI 16 y * 65536) :: packMant cplx t else wrapI 16 x :: packMant cplx (y :: t)

/-- The components of each element. -/
def byElt (cplx : Bool) : List α → List (List α)
  | [] => []
  | [x] => [[x]]
  | x :: y :: t => if cplx then [x, y] :: byElt cplx t else [x] :: byElt cplx (y :: t)

/-- The flags of a block by element: those of its elements, and those of the block as a whole at element `low` (06 R145). -/
def blockFlags (b : Nat) (cplx : Bool) (low : Nat) (whole : FlagSet) (fs : List FlagSet) : List (Nat × FlagSet) :=
  (byElt cplx fs).zipIdx.map fun x =>
    (32 * b + x.2, x.1.foldl (· ||| ·) 0 ||| (if 32 * b + x.2 = low then whole else 0))

/-- Components of one source element as exact values, unflushed (02 R50). -/
def srcVals (src : Format) (raw : Nat) : List FVal :=
  match fmtFp src with
  | none => []
  | some F => if src.group = .c then [F.unpack false (field raw 0 (fmtWidth src / 2)), F.unpack false (field raw (fmtWidth src / 2) (fmtWidth src / 2))]
    else [F.unpack false raw]

/-- One block of a conversion into XBF (06 R159). The flags of its scale are raised at its first special element, or its first
active one (log 41). -/
def xbfBlock (h : Hart) (src : Format) (a : VIdx) (b : Nat) (act : List Nat) : Block :=
  let cplx := src.group == .c
  let r := h.regs.v[a]
  let vals := (List.range 32).map fun j =>
    if act.contains (32 * b + j) then srcVals src (r.elt (fmtWidth src) (32 * b + j)).val
    else List.replicate (if cplx then 2 else 1) (FVal.fin false 0 0)
  let bad := act.any fun i => (r.elt (fmtWidth src) i).bad
  match vals.findIdx? (·.any FVal.special) with
  | some j => ⟨b, List.replicate 32 0, 0xFF, bad, [(32 * b + j, flNv)]⟩
  | none =>
    let g := gridOf vals.flatten
    let q := xbfRenorm g.1 g.2 142 0 false
    ⟨b, packMant cplx (q.1.map (·.1)), q.2.1, bad, blockFlags b cplx (act.head?.getD 0) q.2.2 (q.1.map (·.2))⟩

/-- `vcvt.dst.src vd, va, m` (06 R157-R159). -/
def execVcvt (dst src : Format) (md : Bool) (d a : VIdx) (m : MIdx) (s : State) : Out :=
  vecH [a] [d] (fun h =>
      if !(cvtPair dst src && (!md || cvtMod dst src)) then .error illegal
      else ewIn [max (fmtWidth dst) (fmtWidth src)] h) (fun h =>
    match h.maskClean m with
    | .error e => .error e
    | .ok _ =>
      let act := h.active m
      if dst.group = .x then h.putBlocks d (fmtWidth dst) ((blocksOf act).map fun b => xbfBlock h src a b.1 b.2)
      else
        let toSr := (dst == .bf16 || dst == .e4m3 || dst == .e5m2) && src.group != .x
        let sto := (md && src.group == .f) || (toSr && h.stochastic)
        let y := withDraws sto h.rnd act h
        let r := h.regs.v[a]
        let xs := y.2.map fun x =>
          let u := if fmtScaled src then r.scaled (fmtWidth src) x.1 else r.elt (fmtWidth src) x.1
          let z := cvtElt dst src md x.2 h.fz (r.scaleAt (x.1 / 32)) u.val
          (x.1, (⟨z.1, u.bad⟩ : Elt), z.2)
        (y.1.raiseAll (flagsOf xs)).map fun h =>
          { h with regs := h.regs.setV d ((h.regs.v[d]).setElts (fmtWidth dst) (xs.map fun x => (x.1, x.2.1))) }) s

/-! ### MX (06 R160, R161) -/

/-- The plain side of an MX conversion. -/
def mxFp : MxSide → Fp
  | .fp32 => fpFP32
  | .fp16 => fpFP16
  | .bf16 => fpBF16
/-- Its width. -/
def mxWidth : MxSide → Nat
  | .fp32 => 32
  | _ => 16

/-- The blocks of a quantisation in order; each active element takes its draw, also where the block's scale is 0xFF (02 R48, log 63). -/
def mxBlocks (mx : MxFmt) (src : MxSide) (sto : Bool) (a : VIdx) : List (Nat × List Nat) → Hart → Hart × List Block
  | [], h => (h, [])
  | (b, act) :: t, h =>
    let r := h.regs.v[a]
    let w := mxWidth src
    let val := fun i => (mxFp src).unpack false (r.elt w i).val
    let bad := act.any fun i => (r.elt w i).bad
    let e := mxScale (act.map val) mx
    let y := withDraws sto h.rnd act h
    let q := if e.1 = 0xFF then [] else y.2.map fun x => (x.1, mxElem (val x.1) e.1 mx x.2)
    let codes := (List.range 32).map fun j => ((q.find? fun x => x.1 == 32 * b + j).map fun x => x.2.1).getD 0
    let z := mxBlocks mx src sto a t y.1
    let low := ((act.find? fun i => (val i).special).or act.head?).getD 0
    (z.1, ⟨b, codes, e.1, bad, if e.1 = 0xFF then [(low, e.2)] else q.map fun x => (x.1, x.2.2 ||| (if x.1 = low then e.2 else 0))⟩ :: z.2)

/-- `vmxq.mx.src vd, va, m` (06 R160). -/
def execVmxq (mx : MxFmt) (src : MxSide) (sr : Bool) (d a : VIdx) (m : MIdx) (s : State) : Out :=
  vecH [a] [d] (ewIn [mxWidth src]) (fun h =>
    match h.maskClean m with
    | .error e => .error e
    | .ok _ =>
      let y := mxBlocks mx src (sr || h.stochastic) a (blocksOf (h.active m)) h
      y.1.putBlocks d mx.width y.2) s

/-- `vmxd.dst.mx vd, va, m` (06 R161). -/
def execVmxd (dst : MxSide) (mx : MxFmt) (d a : VIdx) (m : MIdx) (s : State) : Out :=
  vecH [a] [d] (ewIn [mxWidth dst]) (vecFlag (mxWidth dst) d m fun h i =>
    let r := h.regs.v[a]
    let x := r.scaled mx.width i
    let e := r.scaleAt (i / 32)
    let z := mxVal x.val e mx (mxFp dst) h.rnd h.fz
    (⟨z.1, x.bad⟩, z.2 ||| flagIf (e == 0xFF) flNv)) s

end Sys2Proof.Machine
end

