-- ==== Sys2Proof/Machine/Combine.lean ====
section
/-! DEFINITION. The combining operators of collectives and reduce nodes (13 Table 13-3, R307; 02 R57). -/
namespace Sys2Proof.Machine

/-- Plain integer formats, codes 0 to 7. -/
def fmtInt (f : Format) : Bool := decide (f.code < 8)
/-- FP64, FP32, FP16 and BF16. -/
def fmtPlainFp : Format → Bool
  | .fp64 | .fp32 | .fp16 | .bf16 => true
  | _ => false

/-- Table 13-3 permits the pairing of a format with an operator code. -/
def combOk (f : Format) (op : Nat) : Bool :=
  (fmtInt f && decide (op < 5)) || (fmtPlainFp f && decide (op < 3))

/-- comb(a, b) for operators 0 to 3: round to nearest even with subnormals kept; no flag. -/
def combOp (f : Format) (op a b : Nat) : Nat :=
  let w := fmtWidth f
  match fmtFp f with
  | some F =>
    match op with
    | 0 => (F.add .rne false a b).1
    | 1 => (F.minmax true false a b).1
    | _ => (F.minmax false false a b).1
  | none =>
    let v := fun x => if fmtSigned f then sgn w x else (x : Int)
    match op with
    | 0 => (a + b) % 2 ^ w
    | 1 => if v a < v b then b else a
    | 2 => if v b < v a then b else a
    | _ => a ^^^ b

/-- The exact sum of integers, saturated to the format. -/
def exactSum (f : Format) (xs : List Nat) : Nat :=
  let w := fmtWidth f
  wrapI w (satI (xs.foldl (fun (n : Int) x => n + if fmtSigned f then sgn w x else (x : Int)) 0) (intLo (fmtSigned f) w) (intHi (fmtSigned f) w))

/-- One element of a reduction over ranks or inputs; absent entries do not contribute (13 R307). -/
def combine (f : Format) (op : Nat) (xs : List (Option Elt)) : Elt :=
  if op = 4 then
    let ys := xs.filterMap id
    ⟨exactSum f (ys.map (·.val)), ys.any (·.bad)⟩
  else ((treeOf (fun a b => (combOp f op a b, 0)) xs).1).getD ⟨0, false⟩

end Sys2Proof.Machine
end

