-- ==== Sys2Proof/Machine/Dies.lean ====
section
/-! DEFINITION. The traffic between dies and between packages: replay buffers, sequence numbers, detours, routes and groups
(16 R373-R377). A flit stands for its place in the traffic; what it carries acts when its access performs (log 39). -/
namespace Sys2Proof.Machine

/-! ### The die network (16 R373, R374) -/

/-- A link joins two dies. -/
def Tram.joins (t : Tram) (x y : Nat) : Bool := (t.a == x && t.b == y) || (t.a == y && t.b == x)
/-- The end of a link at die x. -/
def Tram.endAt (t : Tram) (x : Nat) : TramEnd := if t.a = x then t.atA else t.atB
/-- Change the end of a link at die x. -/
def Tram.updEnd (t : Tram) (x : Nat) (f : TramEnd → TramEnd) : Tram := if t.a = x then { t with atA := f t.atA } else { t with atB := f t.atB }
/-- Change the link of two dies. -/
def Belfry.updTram (b : Belfry) (x y : Nat) (f : Tram → Tram) : Belfry :=
  { b with trams := b.trams.map fun t => if t.joins x y then f t else t }

/-- The buffer has room: at most 512 flits, of which those that the other end has taken may go. -/
def TramEnd.room (e : TramEnd) : Bool := decide ((e.buf.filter fun x => !x.2).length < Config.tramBuffer)
/-- A flit enters the buffer. -/
def TramEnd.put (e : TramEnd) (f : DieFlit) : TramEnd :=
  { e with buf := (if Config.tramBuffer ≤ e.buf.length then e.buf.drop 1 else e.buf) ++ [(f, false)] }
/-- The next flit that the other end takes. -/
def TramEnd.head (e : TramEnd) : Option DieFlit := (e.buf.find? fun x => !x.2).map (·.1)
/-- The other end has taken the next flit: a good replay ends the run of failed ones. -/
def TramEnd.taken (e : TramEnd) : TramEnd :=
  { fails := 0, buf := (e.buf.takeWhile (·.2)) ++ match e.buf.dropWhile (·.2) with
      | [] => []
      | x :: t => (x.1, true) :: t }

/-- The next die on the way from die x to die y, when a path joins them. -/
def Belfry.hop (b : Belfry) (x y : Nat) : Option Nat := if b.tramUp x y then some y else b.detour x y

/-- A flit at die x enters the buffer of the link that it takes; without a path it waits in that of the direct link. None without
room. -/
def Belfry.forward (b : Belfry) (x : Nat) (f : DieFlit) : Option Belfry :=
  let y := (b.hop x f.dst).getD f.dst
  if b.trams.any fun t => t.joins x y && (t.endAt x).room then some (b.updTram x y fun t => t.updEnd x fun e => e.put f) else none

/-- The flits that a buffer of a link that is down holds are resent on the detour, those that the other end has taken too: their
destination discards the duplicates. Without room or path they stay. -/
def Belfry.resendAt (b : Belfry) (x y : Nat) : Belfry :=
  match b.trams.find? fun t => t.joins x y && t.st == .down with
  | none => b
  | some t => (t.endAt x).buf.foldl (fun b f => (b.forward x f.1).getD (b.updTram x y fun t => t.updEnd x fun e => e.put f.1))
      (b.updTram x y fun t => t.updEnd x fun e => { e with fails := 0, buf := [] })
/-- What every link that is down holds is resent. -/
def Belfry.resend (b : Belfry) : Belfry := b.trams.foldl (fun b t => (b.resendAt t.a t.b).resendAt t.b t.a) b

/-- The next number of a list of numbers by source and destination; numbering starts at 0 (log 39). -/
def dieSeq (l : List (Nat × Nat × Nat)) (x y : Nat) : Nat := ((l.find? fun e => e.1 == x && e.2.1 == y).map (·.2.2)).getD 0
/-- Set it. -/
def setDieSeq (l : List (Nat × Nat × Nat)) (x y n : Nat) : List (Nat × Nat × Nat) := (x, y, n) :: l.filter fun e => !(e.1 == x && e.2.1 == y)

/-- Die src sends a flit to die dst, under its next number. -/
def Belfry.sendFlit (b : Belfry) (src dst : Nat) : Belfry :=
  if src = dst ∨ Config.dies ≤ src ∨ Config.dies ≤ dst then b else
  let n := dieSeq b.tramNext src dst
  match b.forward src ⟨src, dst, n⟩ with
  | none => b
  | some b => { b with tramNext := setDieSeq b.tramNext src dst (n + 1) }

/-- The link, from die to die, at whose head a flit stands. -/
def Belfry.carrier (b : Belfry) (f : DieFlit) : Option (Nat × Nat) :=
  b.trams.findSome? fun t =>
    if t.st != .up || t.retired then none
    else if t.atA.head == some f then some (t.a, t.b)
    else if t.atB.head == some f then some (t.b, t.a)
    else none

/-- A flit is received at the next die: it goes on, is delivered in its turn, or is a duplicate that is discarded; one ahead of its turn
waits (16 R374). -/
def Belfry.receive (b : Belfry) (f : DieFlit) : Belfry :=
  match b.carrier f with
  | none => b
  | some (x, y) =>
    let t := b.updTram x y fun t => t.updEnd x TramEnd.taken
    if y ≠ f.dst then (t.forward y f).getD b
    else
      let n := dieSeq b.tramSeq f.src f.dst
      if n < f.seq then b
      else if f.seq < n then t
      else { t with tramSeq := setDieSeq b.tramSeq f.src f.dst (n + 1) }

/-! ### Routes to other packages (16 R375-R377) -/

/-- A port that routes may use: not down. One that switches its spare holds its flits for a while (16 R376). -/
def Belfry.portUp (b : Belfry) (n : Nat) : Bool := b.ports.any fun p => p.n == n && !p.down && (p.switching || p.lanes != 0)
/-- A port that carries flits now. -/
def Belfry.carries (b : Belfry) (n : Nat) : Bool := b.ports.any fun p => p.n == n && !p.down && !p.switching && p.lanes != 0

/-- The port that a flit to a package takes: the first of its entry that is up. -/
def Belfry.route (b : Belfry) (pkg : Nat) : Option Nat := ((b.routes.find? fun r => r.1 == pkg).map (·.2)).getD [] |>.find? b.portUp

/-- The port whose replay buffer takes a flit to a package now; none while the sender holds it. -/
def Belfry.pickPort (b : Belfry) (pkg : Nat) : Option Nat :=
  (b.route pkg).filter fun n => b.carries n && b.ports.any fun x => x.n == n && decide (x.buf.length < Config.portBuffer)

/-- Change a port. -/
def Belfry.updPort (b : Belfry) (n : Nat) (f : Port → Port) : Belfry := { b with ports := b.ports.map fun x => if x.n = n then f x else x }

/-- A kept flit goes out on the port that takes it: into its replay buffer, with the credits that the port owes in its header (16 R375);
while none takes it the sender holds it. -/
def Belfry.sendOn (b : Belfry) (pkg seq : Nat) : Belfry :=
  match b.pickPort pkg with
  | none => b
  | some n =>
    let credit := ((b.ports.find? fun x => x.n == n).map (·.owed)).getD 0
    Belfry.updPort { b with unacked := b.unacked.map fun f => if f.pkg = pkg ∧ f.seq = seq then { f with port := some n, credit := credit } else f }
      n fun x => { x with buf := x.buf ++ [(pkg, seq)], owed := 0 }

/-- Flits that their senders hold go out where a port takes them. -/
def Belfry.sendHeld (b : Belfry) : Belfry :=
  b.unacked.foldl (fun b f => if f.port.isSome then b else b.sendOn f.pkg f.seq) b

/-- A flit leaves the replay buffers of the ports. -/
def Belfry.unbuffer (b : Belfry) (pkg seq : Nat) : Belfry :=
  { b with ports := b.ports.map fun x => { x with buf := x.buf.filter fun y => y != (pkg, seq) } }

/-- A port takes a flit, and owes its credit. -/
def Belfry.owe (b : Belfry) (n : Nat) : Belfry := b.updPort n fun x => { x with owed := x.owed + 1 }

/-- Firmware loads the route to a package: up to four ports, in preference order. -/
def Belfry.loadRoute (b : Belfry) (pkg : Nat) (ports : List Nat) : Belfry :=
  { b with routes := (pkg, (ports.filter fun n => decide (n < 32)).take 4) :: b.routes.filter fun r => r.1 != pkg }
/-- Firmware loads a package group: up to 4,096 members, in rank order. -/
def Belfry.loadGroup (b : Belfry) (id : Nat) (members : List Nat) : Belfry :=
  { b with groups := (id % 65536, members.take 4096) :: b.groups.filter fun g => g.1 != id % 65536 }

end Sys2Proof.Machine
end

