-- ==== Sys2Proof/Machine/Fetch.lean ====
section
/-! DEFINITION. Fetching and decoding the instruction at a hart's pc (03 R89, 03 R70, R76, R78; 04 R110), and laying an
instruction out where the next fetch reads it. -/
namespace Sys2Proof.Machine

/-- A block kept by the instruction cache of a Spire for a context (03 R89). -/
def State.kept (s : State) (p ctx va : Nat) : Option (List Byte) :=
  (s.icache.find? fun x => x.1 == p && x.2.1 == ctx && x.2.2.1 == va).map (·.2.2.2)

/-- The 16-byte block at a virtual address with its poison, or the fault of its fetch: a block that the instruction cache keeps is
fetched through the team's translation too (03 R70, 11 R272). -/
def State.fetchBlock (s : State) (h : Hart) (va : Nat) : M (List (Byte × Bool)) :=
  match s.translate h.phys h.id.ctx false h.hcr.ptroot.toNat .fetch permX va with
  | .error (.bad cause detail) => .error (.sys cause detail 2 2 h.pc.toNat 0 (some h.pc))
  | .error (.miss p ctx host va) => .error (.wait .mem (.miss p ctx host va))
  | .error _ => .error (.wait .mem .nothing)
  | .ok pa =>
    match s.kept h.phys h.id.ctx va with
    | some b => .ok (b.map fun x => (x, false))
    | none =>
      if s.farFrom h.phys (.dev pa) 16 then .error (.wait .mem .nothing)
      else .ok ((List.range 16).map fun i => s.seenByte h.phys (.dev (pa + i)))

/-- Length of the instruction at an offset of its block: the four words of a long form are one unit (03 R76). -/
def fetchLen (blk : List Byte) (off : Nat) : Nat := if off = 0 ∧ isPrefix (leNat (blk.take 4)) then 16 else 4

/-- The instruction at the pc and its length. Bits [1:0] of the pc are 0; a poisoned word of the instruction raises the
poison trap (03 R70), before a word that decodes to nothing is illegal (03 R78). Whether the pc lies in the payload of a long form
is read from the bytes of word 0, poisoned or not (DESIGN CHOICE, log 69). A strip-terminal instruction in TERM has been fetched. -/
def State.fetch (s : State) (h : Hart) : M (Instr × Nat) :=
  match h.doing with
  | some i => .ok (i, 4)
  | none =>
  let pc := h.pc.toNat / 4 * 4
  match s.fetchBlock h (pc / 16 * 16) with
  | .error e => .error e
  | .ok blk =>
    let off := pc % 16
    let bytes := blk.map (·.1)
    if ((blk.drop off).take (fetchLen bytes off)).any (·.2) then .error poisonTrap else
    match decodeBlock bytes off with
    | none => .error illegal
    | some x => .ok x

/-- The state after the fetch of the hart in focus: its Spire's TLB holds the translation of the block (11 R268). -/
def State.fetched (s : State) : State :=
  match s.hart.doing with
  | some _ => s
  | none => s.look s.hart.phys s.hart.id.ctx false s.hart.hcr.ptroot.toNat (s.hart.pc.toNat / 16 * 16)

/-- The instruction reads or writes a vector register, a mask or a tile (15 R350): those of the vector, mask and tile majors, and the
mask branches. -/
def usesArrays (i : Instr) : Bool :=
  match i with
  | .bmany _ _ | .bmnone _ _ => true
  | .mchk _ _ _ _ | .twset _ => false
  | i => match encodeFields i with
    | some f => (decide (0x19 ≤ f.major) && decide (f.major ≤ 0x1B)) || (decide (0x20 ≤ f.major) && decide (f.major ≤ 0x38))
    | none => false

/-- The instruction waits until the arrays of the hart in focus have moved into its Spire (15 R350). -/
def State.arraysAway (s : State) (i : Instr) : Bool := s.hart.away && usesArrays i

/-- The wait of an instruction whose arrays are away: a memory stall, but a wait for a slot, which the instruction finds as it
stands (`o`), counts first (01 R38). -/
def State.awayWait (s : State) (o : Out) : Out :=
  match o with
  | .next t => if t.hart.stall = some .slotIn ∨ t.hart.stall = some .slotOut then o else s.take (.wait .mem .nothing)
  | _ => s.take (.wait .mem .nothing)

/-- A word with its bits laid out as memory holds an instruction: the aligned block of 16 bytes. -/
def blockOf (nbits w : Nat) : List Byte := leBytes 16 (w % 2 ^ nbits)

/-- The state with an instruction placed where the hart in focus fetches next (log 4): a launched hart in P1 at 0x4000,
with one leaf of 1 GiB at physical 0, which its Spire's TLB holds. -/
def placeWord (s : State) (nbits w : Nat) : State :=
  let h := s.hart
  let dev := ((s.dev.setBytes 0x1000 [0x01#8, 0x20#8]).setBytes 0x2000 [0x1F#8]).setBytes 0x4000 (blockOf nbits w)
  { s with
    agenda := []
    dev := { dev with bad := [] }
    flight := [], icache := [], vecOwner := []
    tlb := [⟨.spire h.phys, h.id.ctx, false, 0, 2 ^ 30, true, true, true, 0⟩]
    hart := ({ h with pc := 0x4000#64, nhart := 1, nspire := 1, stall := none,
                      hcr := { h.hcr with run := 1, ptroot := 0x1000#64 } } : Hart).openStrip }

end Sys2Proof.Machine
end

