-- ==== Sys2Proof/Machine/RegMap.lean ====
section
/-! DEFINITION. What the registers of manager software read, by physical address (11 R276 Table 11-6, 12 R292 Table 12-4, 13 R312
Table 13-4, 14 R343 Table 14-9, 15 R358 Table 15-4, 16 Tables 16-2 and 16-5, R383), and what the host reads in BAR 0 (12 Table 12-1, 16
Table 16-3). Write-only and reserved fields read 0. -/
namespace Sys2Proof.Machine

/-! ### Belfry words -/

/-- The live derate (16 R367). -/
def Speed.live (x : Speed) : Nat := min 15 (x.sag + x.cap)

/-- SPD p as software reads it (16 Table 16-2). -/
def Speed.word (x : Speed) : Nat :=
  b2n x.ret * 2 ^ 48 + x.live * 2 ^ 44 + x.age.toNat * 2 ^ 32 + x.fused.toNat * 2 ^ 16 + x.mhz % 2 ^ 16

/-- Clock stretches of the last second, saturating (16 Table 16-5, HSP). -/
def State.stretches (s : State) (x : Speed) : Nat := min 65535 (x.recent.filter fun t => decide (s.nstime < t + 1000000000)).length

/-- HSP, HSTK and HPORT as software reads them (16 Table 16-5). -/
def State.hspWord (s : State) (x : Speed) : Nat := x.eol.toNat * 2 ^ 48 + s.stretches x * 2 ^ 32 + x.slope.toNat
def State.stackWord (s : State) (x : Stack) : Nat :=
  x.eol.toNat * 2 ^ 48 + x.remap.length % 2 ^ 16 * 2 ^ 32
    + min (2 ^ 32 - 1) (x.ces.filter fun t => decide (s.nstime < t + 86400000000000)).length
def Port.word (x : Port) : Nat := x.eol.toNat * 2 ^ 48 + x.eye.toNat * 2 ^ 40 + x.lanes.toNat * 2 ^ 35 + x.fec.toNat

/-- Word w of a mailbox of 8 KiB (16 R383). -/
def Mailbox.word (m : Mailbox) (w : Nat) : Nat :=
  if w = 0 then b2n m.busy * 2 ^ 16 + m.status.toNat * 256 + m.op.toNat
  else if 8 ≤ w ∧ w < 16 then field m.nonce.toNat (64 * (w - 8)) 64
  else if 16 ≤ w ∧ w < 144 then ofBytes ((m.report.drop (8 * w - 0x80)).take 8)
  else if 144 ≤ w then ofBytes (((m.sig.take 4627).drop (8 * w - 0x480)).take 8)
  else 0

/-- Register number w of the Belfry (offset 8 * w). -/
def State.belfryReg (s : State) (w : Nat) : Nat :=
  let b := s.belfry
  if w = 0 then b.retcmd.toNat
  else if w = 1 then b.retcode.toNat * 256 + b2n b.retWait.isSome
  else if w = 2 then b.pwrlim.toNat
  else if w = 3 then b.pwrnow.toNat
  else if w = 4 then b.almpol.toNat
  else if w = 5 then b2n b.zeroized * 128 + b.almsrc.toNat
  else if 0x200 ≤ w ∧ w < 0x400 then (s.speedOf (w - 0x200)).word
  else if 0x400 ≤ w ∧ w < 0x600 then s.hspWord (s.speedOf (w - 0x400))
  else if 0x600 ≤ w ∧ w < 0x610 then ((b.hbm.find? fun x => x.s == w - 0x600).map s.stackWord).getD 0
  else if 0x620 ≤ w ∧ w < 0x640 then ((b.ports.find? fun x => x.n == w - 0x620).map Port.word).getD 0
  else if 0x800 ≤ w ∧ w < 0xC00 then b.mbMgr.word (w - 0x800)
  else 0

/-! ### The other blocks -/

/-- A mask of the 64 frames of a Spire that satisfy f. -/
def State.frameMask (s : State) (p : Nat) (f : Frame → Bool) : Nat :=
  (s.frames.filter fun x => x.key / 64 == p && f x).foldl (fun n x => n ||| 2 ^ (x.key % 64)) 0

/-- Register w of the block of Spire p (11 Table 11-6). -/
def State.spireReg (s : State) (p w : Nat) : Nat :=
  match w with
  | 0 => ((s.ctxdesc.find? fun x => x.1 == p).map (·.2)).getD 0
  | 1 => s.frameMask p Frame.resident
  | 2 => s.frameMask p Frame.dirty
  | 3 => s.frameMask p Frame.log
  | 4 => s.frameMask p fun f => f.save || f.asked
  | _ => 0

/-- Register w of the fault block of Cupola c. -/
def State.faultReg (s : State) (c w : Nat) : Nat :=
  match s.rings[c]?, w with
  | some r, 0 => r.base.toNat
  | some r, 1 => r.head.toNat
  | some r, 2 => r.tail.toNat
  | _, _ => 0

/-- Register w of the translation block of die d. -/
def State.invReg (s : State) (d w : Nat) : Nat :=
  match s.invs[d]?, w with
  | some x, 0 => x.ctl.toNat
  | some x, 1 => x.va.toNat
  | some x, 2 => b2n x.busy
  | _, _ => 0

/-- A task, or a team with its task, waits for Spires (DSTAT.ready). -/
def Distributor.readyCount (d : Distributor) : Nat :=
  (d.tasks.filter fun t => t.ready && t.kind == 0).length + (d.teams.filter fun t => t.st == .switchedOut && t.task.ready).length
/-- A cancelled team whose begun commands run to their ends is live no more (12 R280, R283). -/
def Team.cancelled (t : Team) : Bool := t.ending && t.task.handle == 0
/-- Live tasks: accepted, and not completed nor cancelled (12 R280); one whose decrements wait for room is still live. -/
def Distributor.live (d : Distributor) : Nat := d.tasks.length + (d.teams.filter fun t => !t.cancelled).length + d.dying.length

/-- A field of the context that CSEL names, 0 while it names no live context (12 R292, 13 R312). -/
def State.cselReg (s : State) (f : Context → Nat) : Nat := ((s.context s.dist.csel.toNat).map f).getD 0

/-- Register w of the distributor (12 Table 12-4). -/
def State.distReg (s : State) (w : Nat) : Nat :=
  let d := s.dist
  match w with
  | 0 => b2n d.en
  | 1 => d.quantum.toNat
  | 2 => d.ageint.toNat
  | 3 => min 65535 d.readyCount * 2 ^ 32 + min 65535 d.live * 2 ^ 16 + min 65535 d.arrivals.length
  | 4 => d.cCtx.toNat * 2 ^ 48 + d.cHandle.toNat * 2 ^ 16 + d.cResult.toNat * 4 + b2n d.cBusy * 2
  | 5 => d.csel.toNat
  | 6 => s.cselReg fun c => c.cblog.toNat
  | 7 => s.cselReg fun c => c.cbloglen.toNat
  | 8 => s.cselReg fun c => c.cblogseq.toNat
  | w => match d.slots[w - 9]? with
    | some x => b2n x.en * 2 ^ 16 + x.ctxid.toNat
    | none => 0

/-- Register w of the engines (13 Table 13-4). -/
def State.engineReg (s : State) (w : Nat) : Nat :=
  match w with
  | 0 => s.cselReg fun c => c.ovfbase.toNat
  | 1 => s.cselReg fun c => c.ovflen.toNat
  | 2 => s.cselReg fun c => c.ovfhwm.toNat * 2 ^ 32 + c.ovfused.toNat
  | _ => 0

/-- Code of a fabric state (14 Table 14-8). -/
def FabState.code : FabState → Nat
  | .run => 0
  | .loading => 1
  | .drain => 2
  | .stopped => 3
  | .none => 4

/-- Register w of the fabric of Cupola c (14 Table 14-9). -/
def State.fabricReg (s : State) (c w : Nat) : Nat :=
  match s.fabric c, w with
  | some f, 0 => f.fimg.toNat
  | some f, 2 => b2n f.dreq * 128 + b2n f.tovf * 64 + f.state.code * 2 + b2n f.act
  | some f, 3 => f.widx.toNat * 2 ^ 16 + f.code.toNat
  | some f, 4 => f.fltKind.toNat * 256 + f.fltNode.toNat
  | _, _ => 0

/-- Register w of team management (15 Table 15-4). -/
def State.tmReg (s : State) (w : Nat) : Nat :=
  let t := s.tm
  match w with
  | 0 => t.ctxid.toNat * 2 ^ 48 + t.handle.toNat * 2 ^ 16 + t.op.toNat * 16
  | 1 => t.arg.toNat
  | 2 => t.img.toNat
  | 3 => t.len.toNat
  | 4 => t.desc.toNat
  | 5 => t.need.toNat * 2 ^ 32 + t.fstat.toNat * 2 ^ 24 + t.code.toNat * 256 + b2n t.busy
  | 6 => s.cselReg fun c => c.cxsave.toNat
  | 7 => s.cselReg fun c => c.cxslots.toNat
  | _ => 0

/-- What the manager core of Cupola c reads at a physical address of the register blocks: its own Cupola's Spires, faults and
fabric, its die's translation block, and the blocks of the package. -/
def State.regAt (s : State) (c addr : Nat) : Word :=
  let w := addr % 0x10000 / 8
  BitVec.ofNat 64 (if addr % 8 ≠ 0 then 0 else
    match addr / 0x10000 with
    | 0x100 => s.spireReg (16 * c + addr % 0x10000 / 0x1000) (addr % 0x1000 / 8)
    | 0x101 => s.faultReg c w
    | 0x102 => s.invReg (c / 4) w
    | 0x103 => s.distReg w
    | 0x104 => s.engineReg w
    | 0x105 => s.fabricReg c w
    | 0x106 => s.tmReg w
    | 0x107 => s.belfryReg w
    | _ => 0)

/-- The register blocks, as a manager core addresses them: accesses there are not to memory. -/
def atRegs (addr n : Nat) : Bool := decide (addr < 0x1080000) && decide (0x1000000 < addr + n)

/-! ### BAR 0 (16 Table 16-3) -/

/-- Word w of BAR 0 as the host reads it: the packet port, whose slots and go are write-only (12 Table 12-1), its mailbox (R383), and the
mirror of the speed table (R371). -/
def State.barWord (s : State) (w : Nat) : Nat :=
  if w < 0x200 then ((s.dist.slots[w - 0x1E0]?).filter fun _ => decide (0x1E0 ≤ w)).elim 0 fun x => x.code.toNat * 256 + x.state.toNat
  else if w < 0x600 then s.belfry.mbHost.word (w - 0x200)
  else if w < 0x800 then (s.speedOf (w - 0x600)).word
  else 0

/-- A byte of BAR 0. -/
def State.barByte (s : State) (a : Nat) : Byte := BitVec.ofNat 8 (s.barWord (a / 8) / 256 ^ (a % 8))

/-- Change slot n of the packet port. -/
def State.updPkt (s : State) (n : Nat) (f : PktSlot → PktSlot) : State :=
  { s with dist := { s.dist with slots := s.dist.slots.mapIdx fun i x => if i = n then f x else x } }

/-- The host writes byte o of a slot; while the slot is busy the byte is discarded (12 R278). -/
def PktSlot.put (x : PktSlot) (o : Nat) (b : Byte) : PktSlot :=
  if x.state = 1 ∨ 256 ≤ o then x else { x with bytes := if b = 0 then eraseKey o x.bytes else insertKey o b x.bytes }

/-- Bytes that the host writes at an address of BAR 0 go to the slots that they reach. -/
def State.writeSlots (s : State) (a : Nat) : List Byte → State
  | [] => s
  | b :: l => State.writeSlots (if a < 0xF00 then s.updPkt (a / 256) fun x => x.put (a % 256) b else s) (a + 1) l

end Sys2Proof.Machine
end

