-- ==== Sys2Proof/Machine/System.lean ====
section
/-! DEFINITION. HCR access (01 R22-R25, 04 R112-R114) and the system instructions (09 R224-R227). -/
namespace Sys2Proof.Machine

/-- An HCR of the team range as `hcrr` reads it; none for a number that Table 1-3 does not list (04 R112). -/
def hcrValue (s : State) (n : Nat) : Option Word :=
  let h := s.hart
  let x := h.hcr
  let y := h.regs.h
  match n with
  | 0x000 => some (y.vl.setWidth 64)
  | 0x001 => some (y.ew.setWidth 64)
  | 0x002 => some (y.mtr.setWidth 64)
  | 0x003 => some (y.rmode.setWidth 64)
  | 0x004 => some (y.fflags.setWidth 64)
  | 0x005 => some (y.fenable.setWidth 64)
  | 0x006 => some y.mod0
  | 0x007 => some y.mod1
  | 0x008 => some y.mroot
  | 0x009 => some y.bnd
  | 0x00A => some (y.bfpmode.setWidth 64)
  | 0x00B => some y.twg
  | 0x00C => some y.seed
  | 0x010 => some x.stripn
  | 0x011 => some (BitVec.ofNat 64 (h.id.lhid % 2 ^ 32))
  | 0x012 => some (BitVec.ofNat 64 (h.lsid % 2 ^ 16))
  | 0x013 => some (BitVec.ofNat 64 (h.nhart % 2 ^ 32))
  | 0x014 => some (BitVec.ofNat 64 (h.nspire % 2 ^ 16))
  | 0x015 => some (BitVec.ofNat 64 (h.handle % 2 ^ 32))
  | 0x016 => some (h.pmode.setWidth 64)
  | 0x018 => some x.tvec
  | 0x019 => some (x.tcause.setWidth 64)
  | 0x01A => some x.tepc
  | 0x01B => some (x.telem.setWidth 64)
  | 0x01C => some x.tinfo
  | 0x01D => some (if x.replay then 1 else 0)
  | 0x020 => some x.clock
  | 0x021 => some (BitVec.ofNat 64 s.nstime)
  | 0x022 => some (BitVec.ofNat 64 ((s.speedOf h.phys).clk % 2 ^ 16))
  | 0x028 => some x.stallIn
  | 0x029 => some x.stallOut
  | 0x02A => some x.stallMem
  | 0x02B => some x.stallTok
  | 0x02C => some x.stallBar
  | 0x02D => some x.stallPres
  | 0x02F => some 0
  | _ => none

/-- HSTAT as a register (01 Table 1-5). -/
def Hcr.hstat (x : Hcr) : BitVec 32 :=
  BitVec.ofNat 32 (b2n x.tkovf * 128 + x.preempt.toNat * 32 + x.sstate.toNat * 4 + x.run.toNat)

/-- A privileged HCR as the runtime and firmware read it (01 R15, Table 1-3). -/
def Hcr.priv (x : Hcr) (n : Nat) : Option Word :=
  match n with
  | 0x100 => some (x.hphys.setWidth 64)
  | 0x101 => some (x.wdog.setWidth 64)
  | 0x102 => some x.ptroot
  | 0x103 => some x.hptroot
  | 0x104 => some (x.hstat.setWidth 64)
  | _ => none

/-- A write of a privileged HCR by the runtime or firmware: HSTAT.tkovf clears on a 1, its other fields are read-only (01 Tables
1-3 and 1-5, 00 Table 0-3). -/
def Hcr.writePriv (x : Hcr) (n : Nat) (v : Word) : Hcr :=
  match n with
  | 0x100 => { x with hphys := v.setWidth 32 }
  | 0x101 => { x with wdog := v.setWidth 32 }
  | 0x102 => { x with ptroot := v }
  | 0x103 => { x with hptroot := v }
  | 0x104 => { x with tkovf := x.tkovf && !v.getLsbD 7 }
  | _ => x

/-- The privileged HCRs (01 Table 1-3). -/
def hcrPrivileged (n : Nat) : Bool := decide (0x100 ≤ n) && decide (n ≤ 0x104)

/-- MOD0 and MOD1 take values in [3, 2^62) and 2^64 - 2^32 + 1 (01 R24). -/
def modValid (v : Word) : Bool :=
  (decide (3 ≤ v.toNat) && decide (v.toNat < 2 ^ 62)) || v == 0xFFFFFFFF00000001#64

/-- A bit of SCLR clears a stall counter (01 Table 1-3). -/
def clearStalls (x : Hcr) (v : Word) : Hcr :=
  { x with
    stallIn := if v.getLsbD 0 then 0 else x.stallIn
    stallOut := if v.getLsbD 1 then 0 else x.stallOut
    stallMem := if v.getLsbD 2 then 0 else x.stallMem
    stallTok := if v.getLsbD 3 then 0 else x.stallTok
    stallBar := if v.getLsbD 4 then 0 else x.stallBar
    stallPres := if v.getLsbD 5 then 0 else x.stallPres }

/-- A write of a HCR of the checkpoint, with the flags it raises (01 R24). -/
def StripHcr.write (y : StripHcr) (n : Nat) (v : Word) : StripHcr × FlagSet :=
  match n with
  | 0x002 => ({ y with mtr := v.setWidth 2 }, 0)
  | 0x003 => (if v.toNat % 8 < 5 then { y with rmode := v.setWidth 3 } else y, 0)
  | 0x004 => ({ y with fflags := v.setWidth 16 &&& 0x00FF#16 }, 0)
  | 0x005 => ({ y with fenable := v.setWidth 16 &&& 0x80FF#16 }, 0)
  | 0x006 => if modValid v then ({ y with mod0 := v }, 0) else (y, flMrange)
  | 0x007 => if modValid v then ({ y with mod1 := v }, 0) else (y, flMrange)
  | 0x008 => ({ y with mroot := v }, 0)
  | 0x009 => ({ y with bnd := v }, 0)
  | 0x00A => ({ y with bfpmode := v.setWidth 8 &&& 1#8 }, 0)
  | 0x00B => ({ y with twg := v }, 0)
  | 0x00C => ({ y with seed := v }, 0)
  | _ => (y, 0)

/-- A write of a HCR outside the checkpoint; read-only ones ignore it (01 R23, 04 R112, R114). -/
def Hcr.write (x : Hcr) (n : Nat) (v : Word) : Hcr :=
  match n with
  | 0x018 => { x with tvec := v &&& ~~~3#64 }
  | 0x019 => { x with tcause := v.setWidth 8 }
  | 0x01A => { x with tepc := v }
  | 0x01B => { x with telem := v.setWidth 13 }
  | 0x01C => { x with tinfo := v }
  | 0x01D => { x with replay := v.getLsbD 0 }
  | 0x02F => clearStalls x v
  | _ => x

/-- `hcrr sd, HCR` (04 R112, 01 R23). -/
def execHcrr (d : SReg) (num : BitVec 16) (s : State) : Out :=
  plain s fun s =>
    if hcrPrivileged num.toNat then .error (.trap causePrivileged 0 none) else
    match hcrValue s num.toNat with
    | none => .error illegal
    | some v => .ok { s with hart := s.hart.setS d v false }

/-- `hcrw HCR, sa` (04 R112, 01 R23, R24). An enabled mrange of a rejected modulus traps (01 R25). A privileged or an unlisted HCR
traps before a poisoned source does (DESIGN CHOICE, log 69). -/
def execHcrw (a : SReg) (num : BitVec 16) (s : State) : Out :=
  plain s fun s =>
    let n := num.toNat
    let h := s.hart
    if hcrPrivileged n then .error (.trap causePrivileged 0 none) else
    match hcrValue s n with
    | none => .error illegal
    | some _ =>
      match h.clean a with
      | .error e => .error e
      | .ok _ =>
        let y := h.regs.h.write n (h.s a)
        let h := { h with hcr := h.hcr.write n (h.s a), regs := { h.regs with h := y.1 } }
        (h.raise y.2 0).map fun h => { s with hart := h }

/-- A trap instruction: the strip commits, then the cause is delivered with TEPC the next instruction (09 R224). -/
def softTrap (cause : Nat) (s : State) : Out :=
  closeThen s fun t =>
    match State.deliver { t with hart := ({ t.hart with pc := t.hart.pc + 4 } : Hart).openStrip } cause 0 (t.hart.pc + 4) t.hart.pc with
    | .ok u => .next u
    | .error f => .fault f

/-- `trap code` (09 R224). The handler reads the code from the word at TINFO. -/
def execTrap (_code : BitVec 16) (s : State) : Out := softTrap causeTrap s
/-- `brk code` (09 R224). -/
def execBrk (_code : BitVec 16) (s : State) : Out := softTrap causeBrk s
/-- `teret` (09 R226). -/
def execTeret (s : State) : Out :=
  closing s (fun _ => .ok ()) fun t => .ok { t with hart := t.hart.trapReturn }

/-- HALTED (01 Table 1-6, R29, 15 R356): run 3, sstate 4, the halt time recorded, the pc after the `halt` (log 25). -/
def Hart.halted (h : Hart) (now : Nat) : Hart :=
  { h with pc := h.pc + 4, haltTime := now, stall := none, hcr := { h.hcr with sstate := 4, run := 3 } }

/-- `halt` (09 R227). -/
def execHalt (s : State) : Out :=
  closing s (fun _ => .ok ()) fun t => .ok { t with hart := t.hart.halted t.nstime }

end Sys2Proof.Machine
end

