-- ==== Sys2Proof/Machine/Inputs.lean ====
section
/-! DEFINITION. The inputs of the agenda that are not steps of the opcode table, the choice of the next hart, and the
passing of time (log 1, log 2). -/
namespace Sys2Proof.Machine

/-- The steps of the table that are not instructions have no encoding (95). -/
def isEvent (i : Instr) : Bool := (encodeFields i).isNone && (encodeLongFields i).isNone

/-- Count a stall of `n` cycles under its cause (01 R38). -/
def Hcr.addStall (x : Hcr) (c : Stall) (n : Nat) : Hcr :=
  let k := BitVec.ofNat 64 n
  match c with
  | .slotIn => { x with stallIn := x.stallIn + k }
  | .slotOut => { x with stallOut := x.stallOut + k }
  | .mem => { x with stallMem := x.stallMem + k }
  | .tok => { x with stallTok := x.stallTok + k }
  | .bar => { x with stallBar := x.stallBar + k }
  | .pres => { x with stallPres := x.stallPres + k }

/-- The strip watchdog times the strip: in OPEN, and in TERM until a strip-terminal instruction begins to perform, but not a hart
parked in `await` or `bar.wait` (01 R33, 05 R141). -/
def Hart.timed (h : Hart) : Bool :=
  h.hcr.sstate == 0 || (h.hcr.sstate == 2 && !h.begun && !h.parked)

/-- The strip watchdog is due: its trap comes before a request to leave, as its row stands first (01 R31, R33). -/
def Hart.overdue (h : Hart) : Bool :=
  h.hcr.run == 1 && !h.out && h.timed && h.hcr.wdog != 0 && decide (h.hcr.wdog.toNat ≤ h.stripNs)

/-- A request to leave waits at this hart and may take it out now (15 Table 15-1, R32, 14 R342): in OPEN, unless only a
pre-emption waits and HSTAT.preempt is 2; in TERM before the instruction performs; in COMMIT at its end. -/
def Hart.takeable (h : Hart) : Bool :=
  h.asked && !h.overdue &&
    ((h.hcr.sstate == 0 && (h.freezeReq || h.fabricReq || h.hcr.preempt != 2)) || (h.hcr.sstate == 2 && !h.begun)
      || (h.hcr.sstate == 1 && h.fresh && h.stall.isNone))

/-- Time passes for a hart that is resident (01 R24, R33, R38). -/
def Hart.elapse (h : Hart) (ns cycles : Nat) : Hart :=
  if h.hcr.run = 1 ∧ !h.out then
    let x := { h.hcr with clock := h.hcr.clock + BitVec.ofNat 64 cycles }
    { h with stripNs := if h.timed then h.stripNs + ns else h.stripNs
             hcr := match h.stall with
               | some c => x.addStall c cycles
               | none => x }
  else h

/-- Reservations of granules run out (05 R137). -/
def ageReservations (ns : Nat) (l : List Reservation) : List Reservation :=
  l.map fun r => { r with left := r.left - ns }

/-- Time passes. -/
def State.elapse (s : State) (ns cycles : Nat) : State :=
  let s := s.mapHarts fun h => h.elapse ns cycles
  { s with nstime := s.nstime + ns
           reservations := ageReservations ns s.reservations }

/-- The table root in force for a context and space on Spire p. -/
def State.rootOf (s : State) (p ctx : Nat) (host : Bool) : Option Nat :=
  match s.harts.find? fun h => h.hcr.run == 1 && h.phys == p && h.id.ctx == ctx with
  | some h => some (if host then h.hcr.hptroot else h.hcr.ptroot).toNat
  | none => (s.context ctx).map fun c => (if host then c.hptroot else c.ptroot).toNat

/-- A memory-side cache replaces a line: it passes over lines with live links unless every way of the set holds one (05 R136, 11
R263, log 68). -/
def State.evict (s : State) (line : Nat) : State :=
  let die := fun (n : Nat) => n * 64 / Config.dieBytes
  let live := (s.harts.flatMap fun h => h.links.filterMap fun l => match l.g with
    | .line n => if l.intact && die n == die line && Config.cacheSet n == Config.cacheSet line then some n else none
    | .spad _ _ => none).eraseDups
  if live.contains line && decide (Config.cacheWays ≤ live.length) then s.breakLinks (.line line) none else s

/-- An input other than a step of the table. -/
def State.input (s : State) (a : Input) : State :=
  match a with
  | .event _ _ => s
  | .elapse ns cycles => s.elapse ns cycles
  | .run h =>
    let t := s.focus h
    if t.hart.hcr.sstate == 1 then t else { t with hart := { t.hart with stall := none } }
  | .keepBlock p ctx va =>
    match s.harts.find? fun h => h.phys == p && h.id.ctx == ctx with
    | none => s
    | some h =>
      match s.fetchBlock h (va / 16 * 16) with
      | .ok b => if b.any (·.2) then s else { s with icache := (p, ctx, va / 16 * 16, b.map (·.1)) :: s.icache }
      | .error _ => s
  | .context x => { s with contexts := x :: s.contexts.filter fun c => !(c.id == x.id) }
  | .lateLoads h on => s.updHart h fun x => { x with lateGlb := on }
  | .pace h n => s.updHart h fun x => { x with pace := n }
  | .miss p ctx host va => s.addMiss p ctx host va
  | .evict line => s.evict line
  | .mgrStore c addr bytes =>
    if Config.devEnd < addr + bytes.length ∨ Config.cupolas ≤ c ∨ atRegs addr bytes.length then s
    else { s with flight := s.flight ++ (blocks [⟨.dev addr, addr, bytes, false, false⟩]).map fun b => ⟨none, 16 * c, 1, b⟩ }
  | .mgrLoad c addr n =>
    if Config.devEnd < addr + n ∨ atRegs addr n ∨ s.farFrom (16 * c) (.dev addr) n then s else { s with mgrData := (List.range n).map fun i => s.mgrByte c (.dev (addr + i)) }
  | .mgrWrite _ _ _ _ => s
  | .hostWrite addr bytes => s.writeSlots addr bytes
  | .hostRead addr n => { s with barData := (List.range n).map fun i => s.barByte (addr + i) }
  | .flitSend src dst => { s with belfry := s.belfry.sendFlit src dst }
  | .route pkg ports => { s with belfry := s.belfry.loadRoute pkg ports }
  | .pgroup id members => { s with belfry := s.belfry.loadGroup id members }
  | .eyeLimit n v => { s with belfry := { s.belfry with ports := s.belfry.ports.map fun x => if x.n = n then { x with limit := v } else x } }
  | .mgrRead c addr => { s with mgrReg := s.regAt c addr }
  | .hcrRead h num => { s with mgrReg := ((s.findHart h).bind fun x => x.hcr.priv num).getD 0 }

/-- The next hart in turn comes into focus, its wait tried again (log 1). -/
def State.rotate (s : State) : State :=
  match s.others with
  | [] => if s.hart.hcr.sstate == 1 then s else { s with hart := { s.hart with stall := none } }
  | h :: t => { s with hart := if h.hcr.sstate == 1 then h else { h with stall := none }, others := t ++ [s.hart] }

/-- The hart can execute: launched and resident, its strip open or its strip-terminal instruction running, not waiting, and neither
a request to leave nor the strip watchdog due (01 Tables 1-5 to 1-7). -/
def Hart.runnable (h : Hart) : Bool :=
  h.hcr.run == 1 && (h.hcr.sstate == 0 || h.hcr.sstate == 2) && h.stall.isNone && !h.out && !h.takeable && !h.overdue

/-- No alarm or failed boot stops every Spire (16 R381, R384). -/
def Belfry.running (b : Belfry) : Bool := !b.stopped && !b.inReset && !b.recovery

/-- A step of the table by which manager software acts, or the host through BAR 0 other than its mailbox: none is taken while the package
is in recovery (16 R381). -/
def managed (i : Instr) : Bool :=
  match i with
  | .fqbaseWrite | .fqheadWrite | .spsave | .invctlGo | .fcmdLoad | .fcmdAbort | .pktstatGo | .dcancel => true
  | .tmFreeze | .tmWriteImage | .tmResume | .tmEnd | .tmRestart | .tmReflect | .tmUnassignedOp => true
  | .spdAgeWrite | .pwrlimWrite | .dctlWrite => true
  | .retireSpire | .retireRouter | .retireEtesianLane | .retireTramontaneLink | .retireHbmRow | .retireInvalidClass => true
  | _ => false

/-- A step of a mailbox. -/
def mailStep (i : Instr) : Bool :=
  match i with
  | .mailboxReport | .mailboxFirmwareUpdate | .mailboxUnassignedOp => true
  | _ => false

/-- Bytes of BAR 0 that lie in the host's mailbox (16 Table 16-3). -/
def inMailbox (addr n : Nat) : Bool := decide (0x1000 ≤ addr) && decide (addr + n ≤ 0x3000)

/-- What a package in recovery takes: the host's mailbox, and nothing from manager software or another part of BAR 0 (16 R381). -/
def inRecovery (a : Input) : Bool :=
  match a with
  | .mgrWrite _ _ _ _ => false
  | .hostWrite addr bytes => inMailbox addr bytes.length
  | .hostRead addr n => inMailbox addr n
  | .event .registerWrite (.reg ⟨.nonce false _, .host, _⟩) => true
  | .event .registerWrite _ => false
  | .event i (.value who _) => !managed i && !(mailStep i && who == 1)
  | .event i _ => !managed i
  | .context _ | .mgrStore _ _ _ | .mgrLoad _ _ _ | .mgrRead _ _ | .hcrRead _ _ => false
  | .route _ _ | .pgroup _ _ | .eyeLimit _ _ => false
  | _ => true

/-- What a package takes before its boot: nothing from manager software, whose cores are held, from the host, whose port is not trained, or
from another package (16 R381). -/
def beforeBoot (a : Input) : Bool :=
  match a with
  | .hostWrite _ _ | .hostRead _ _ | .flitSend _ _ => false
  | .event .registerWrite _ | .event .hostCxlMemAccess _ | .event .flitReceive _ => false
  | .event i _ => !managed i && !mailStep i
  | a => inRecovery a

/-- The package takes an input: held in reset by an alarm, only the removal of power (16 R384, Table 16-6). -/
def State.admits (s : State) (a : Input) : Bool :=
  if s.belfry.inReset then match a with
    | .event .powerRemoval _ => true
    | _ => false
  else if s.belfry.recovery then inRecovery a
  else s.belfry.booted || beforeBoot a

/-- The hart in focus executes its next instruction. -/
def State.canRun (s : State) : Bool := s.hart.runnable && s.belfry.running

end Sys2Proof.Machine
end

