-- ==== Sys2Proof/Machine/Sync.lean ====
section
/-! DEFINITION. Strip-opening instructions (05 R115-R118), fences (09 R223), tokens (09 R216, R217), barriers
(09 R218-R220) and farms (09 R221, R222). -/
namespace Sys2Proof.Machine

/-- Wait until every accepted store that the hart can have made or observed has performed at a scope: those held on the path of
its Spire, so that a release also orders what the hart acquired (10 Table 10-2, R238, R240, log 16). -/
def State.performed (s : State) (sc : Scope) : M State :=
  let path := fun f : Flight => f.onPath s.hart.phys
  match sc with
  | .hart | .spire => .ok s
  | .cupola => .ok (s.liftFlights s.hart.phys)
  | .die | .package => s.drain path
  | .system => (s.drain path).map fun t => t.drainHost fun _ => true

/-- VL := min(avl, VLMAX), EW := code, s_d := VL (05 R116). -/
def Hart.setVl (h : Hart) (d a : SReg) (w : EW) : Hart :=
  let avl := (h.s a).toNat
  let code : BitVec 3 := BitVec.ofNat 3 w.code
  let vl := min avl (h.vlmax (ewBits code))
  ({ h with regs := { h.regs with h := { h.regs.h with vl := BitVec.ofNat 13 vl, ew := code } } } : Hart).setS d
    (BitVec.ofNat 64 vl) false

/-- `setvl sd, sa, eN` (05 R116). -/
def execSetvl (d a : SReg) (w : EW) (s : State) : Out :=
  closing s (fun h => h.clean a) fun t => .ok { t with hart := (t.hart.setVl d a w).advance 4 }
/-- `setvl.acq.scope sd, sa, eN` (05 R118): the loads of earlier strips have performed (log 16). -/
def execSetvlAcq (d a : SReg) (w : EW) (_sc : Scope) (s : State) : Out :=
  closing s (fun h => h.clean a) fun t => .ok { t with hart := (t.hart.setVl d a w).advance 4 }
/-- s_d := VL in the new strip. -/
def Hart.stripVl (h : Hart) (d : SReg) : Hart := (h.setS d (BitVec.ofNat 64 h.vl) false).advance 4
/-- `strip sd` (05 R116). -/
def execStrip (d : SReg) (s : State) : Out :=
  closing s (fun _ => .ok ()) fun t => .ok { t with hart := t.hart.stripVl d }
/-- `strip.rel.scope sd` (05 R117). -/
def execStripRel (d : SReg) (sc : Scope) (s : State) : Out :=
  closing s (fun _ => .ok ()) fun t => (t.performed sc).map fun u => { u with hart := u.hart.stripVl d }

/-- `fence.scope` (09 R223). -/
def execFence (sc : Scope) (s : State) : Out := terminal (.fence sc) s fun t => t.performed sc

/-! ### Tokens -/

/-- Counters that `await` selects. -/
def awaitSel (v : Word) : List TkIdx := (List.finRange 16).filter fun n => v.getLsbD n.val

/-- Every selected counter is at least 1, and is decremented (09 R216). -/
def Hart.await (h : Hart) (v : Word) : M Hart :=
  let sel := awaitSel v
  if sel.any fun n => h.tk[n] == 0 then .error (.wait .tok .park)
  else .ok { h with tk := sel.foldl (fun t (n : TkIdx) => t.set n (t[n] - 1)) h.tk }

/-- `await sa` (09 R216). -/
def execAwait (a : SReg) (s : State) : Out :=
  terminal (.await a) s fun t =>
    match t.hart.clean a with
    | .error e => .error e
    | .ok _ => (t.hart.await (t.hart.s a)).map fun h => { t with hart := h }

/-- `tkwait tkN, sa` (09 R217). -/
def execTkwait (n : TkIdx) (a : SReg) (s : State) : Out :=
  plainH s fun h =>
    match h.clean a with
    | .error e => .error e
    | .ok _ =>
      let c := (h.s a).toNat % 2 ^ 16
      if h.tk[n].toNat < h.tkPend[n] + c then .error (.wait .tok .nothing)
      else .ok { h with tkPend := h.tkPend.set n (h.tkPend[n] + c) }

/-- Increment a token counter of a hart, saturating with the sticky tkovf (01 R21). -/
def Hart.token (h : Hart) (n : TkIdx) : Hart :=
  if h.tk[n] = 0xFFFF#16 then { h with hcr := { h.hcr with tkovf := true } } else { h with tk := h.tk.set n (h.tk[n] + 1) }

/-! ### Barriers -/

/-- Barrier number id of a team. -/
def Team.bar (t : Team) (id : Nat) : Barrier := (t.bars[id]?).getD ⟨0, []⟩
/-- Change barrier number id. -/
def Team.updBar (t : Team) (id : Nat) (f : Barrier → Barrier) : Team := { t with bars := t.bars.set id (f (t.bar id)) }
/-- The episode of a hart's latest arrival on id. -/
def Team.lastArrival (t : Team) (lhid id : Nat) : Option Nat :=
  (t.latest.find? fun x => x.1 == lhid && x.2.1 == id).map (·.2.2)
/-- Record an arrival (09 R219, 12 R291). -/
def Team.arrive (t : Team) (lhid id now : Nat) : Team :=
  let e := (t.bar id).episode
  let t := t.updBar id fun b => { b with arrivals := b.arrivals ++ [(lhid, now)] }
  { t with latest := (lhid, id, e) :: t.latest.filter fun x => !(x.1 == lhid && x.2.1 == id) }

/-- The team of the hart in focus, launched with the co-scheduled flag (09 R218). -/
def State.barTeam (s : State) : M Team :=
  match s.team s.hart.id.ctx s.hart.id.team with
  | none => .error illegal
  | some t => if t.task.cosched then .ok t else .error illegal

/-- `bar.arrive id` (09 R219). -/
def execBarArrive (id : BitVec 6) (s : State) : Out :=
  terminal (.barArrive id) s fun t =>
    match t.barTeam with
    | .error e => .error e
    | .ok tm =>
      match t.performed .package with
      | .error e => .error e
      | .ok u =>
        let lhid := u.hart.id.lhid
        if tm.lastArrival lhid id.toNat = some (tm.bar id.toNat).episode then .error (.wait .bar .nothing)
        else .ok (u.updTeam u.hart.id.ctx u.hart.id.team fun t => t.arrive lhid id.toNat u.nstime)

/-- `bar.wait id` (09 R220). -/
def execBarWait (id : BitVec 6) (s : State) : Out :=
  terminal (.barWait id) s fun t =>
    match t.barTeam with
    | .error e => .error e
    | .ok tm =>
      if tm.lastArrival t.hart.id.lhid id.toNat = some (tm.bar id.toNat).episode then .error (.wait .bar .park) else .ok t

/-! ### Farms -/

/-- `farm.init sa, sb` (09 R221). A poisoned operand gives its value bits, without a trap (DESIGN CHOICE, log 76). -/
def execFarmInit (a b : SReg) (s : State) : Out :=
  plainH s fun h => h.push (.farm (h.s a) (h.s b) none) 64

/-- rne(a / b). -/
def rneDiv (a b : Nat) : Nat :=
  let q := a / b
  let r := a % b
  if 2 * r < b then q else if b < 2 * r then q + 1 else q + q % 2

/-- The distributor serves farm.next of a hart (09 R222): the farm after it, start and count. -/
def Farm.next (f : Farm) (lhid speed nhart : Nat) : Farm × Nat × Nat :=
  match f.claims.find? fun c => c.lhid == lhid && c.pending with
  | some c => (f, c.start, c.count)
  | none =>
    let rem := f.total - f.cursor
    if !f.started then (f, 0, 0) else if rem = 0 then (f, f.cursor, 0) else
    let c := max 1 (rneDiv (f.base * speed) 1250)
    let count := min c (ceilDiv rem (2 * nhart))
    ({ f with cursor := f.cursor + count
              claims := ⟨lhid, f.cursor, count, true⟩ :: f.claims.filter fun x => x.lhid != lhid }, f.cursor, count)

/-- The range that `farm.next` takes from the epoch that a `farm.init` of its own strip will start: the first one, or the one it
has taken (09 R221, R222). -/
def Farm.ahead (total base : Word) (taken : Option Nat) (lhid speed nhart : Nat) : Nat :=
  taken.getD ((startFarm total base).next lhid speed nhart).2.2

/-- Serve the request of the hart in focus: the state and the range. A later `farm.next` of the strip of a `farm.init` sees the
new epoch. -/
def State.serveFarm (s : State) : State × Nat × Nat :=
  let h := s.hart
  let speed := (s.speedOf h.phys).clk
  match h.buf.reverse.findSome? fun e => match e with
    | .farm total base taken => some (total, base, taken)
    | _ => none with
  | some (total, base, taken) =>
    let n := Farm.ahead total base taken h.id.lhid speed h.nhart
    let mark := fun (e : BufEntry) (t : List BufEntry) => match e with
      | .farm total base _ => if t.any (fun x => match x with
          | .farm _ _ _ => true
          | _ => false) then e else .farm total base (some n)
      | e => e
    ({ s with hart := { h with buf := h.buf.foldr (fun e t => mark e t :: t) [] } }, 0, n)
  | none =>
    match s.team h.id.ctx h.id.team with
    | none => (s, 0, 0)
    | some t =>
      let r := t.farm.next h.id.lhid speed h.nhart
      ({ (s.updTeam h.id.ctx h.id.team fun t => { t with farm := r.1 }) with hart := { h with claimed := true } }, r.2)

/-- `farm.next sd` (09 R222); d = 0 and d = 31 are illegal (03 R78). -/
def execFarmNext (d : SReg) (s : State) : Out :=
  plain s fun s =>
    if d.val = 0 ∨ d.val = 31 then .error illegal else
    let r := s.serveFarm
    let h := r.1.hart.setS d (BitVec.ofNat 64 r.2.1) false
    .ok { r.1 with hart := h.setS (d + 1) (BitVec.ofNat 64 r.2.2) false }

end Sys2Proof.Machine
end

