-- ==== Sys2Proof/Machine/VecMem.lean ====
section
/-! DEFINITION. Vector loads and stores, first-fault loads, sequentially consistent accesses, atomics, gather-linked and
scatter-conditional, and presence instructions (05 R119-R142). -/
namespace Sys2Proof.Machine

/-! ### Addresses (05 R119) -/

/-- The space that MTR selects (01 Table 1-5). -/
def Hart.space (h : Hart) : Space := (Space.ofCode h.regs.h.mtr.toNat).getD .loc

/-- Addressing modes of VM (03 R75). -/
inductive EaMode | unit | stride (st : SReg) | index (ix : VIdx)
  deriving DecidableEq, Repr

/-- Address of element i (05 R119). -/
def Hart.ea (h : Hart) (a : SReg) (md : EaMode) (i : Nat) : Nat :=
  let b := (h.s a).toNat
  match md with
  | .unit => (b + i * (h.ew / 8)) % 2 ^ 64
  | .stride st => wrapI 64 (b + i * sgn 64 (h.s st).toNat)
  | .index ix => (b + ((h.regs.v[ix]).elt h.ew i).val * (h.ew / 8)) % 2 ^ 64

/-- Vector register that an address reads. -/
def EaMode.reads : EaMode → List VIdx
  | .index ix => [ix]
  | _ => []

/-- Checks before any effect: width, poisoned base or stride (05 R119, R123). -/
def vmemLegal (ws : List Nat) (a : SReg) (md : EaMode) (h : Hart) : M Unit :=
  match ewIn ws h with
  | .error e => .error e
  | .ok _ =>
    match h.clean a with
    | .error e => .error e
    | .ok _ =>
      match md with
      | .stride st => h.clean st
      | _ => .ok ()

/-- The active elements, when neither the mask nor an index of an active element is poisoned; the trap names the lowest
element concerned (05 R123, 06 R146). -/
def Hart.vmemActive (h : Hart) (md : EaMode) (m : MIdx) : M (List Nat) :=
  match md with
  | .index ix =>
    let k := h.regs.getM m
    (eltsClean ((List.range h.vl).filterMap fun i =>
      if k.isBad h.ew i then some (i, ⟨0, true⟩)
      else if k.on h.ew i then some (i, (h.regs.v[ix]).elt h.ew i) else none)).map fun _ => h.active m
  | _ => (h.maskClean m).map fun _ => h.active m

/-! ### Plain accesses (05 R125-R127) -/

/-- Load elements in rising order. In a first-fault load a fault of element i > 0 ends the list with VL := i (05 R127). -/
def loadElts (h : Hart) (a : SReg) (md : EaMode) (ff : Bool) : List Nat → State → M (State × List (Nat × Elt) × Option Nat)
  | [], s => .ok (s, [], none)
  | i :: t, s =>
    match s.loadVal h.space (h.ea a md i) (h.ew / 8) i .load with
    | .error (.sys c d k sp x el info) => if ff && i != 0 then .ok (s, [], some i) else .error (.sys c d k sp x el info)
    | .error e => .error e
    | .ok (u, x) =>
      match loadElts h a md ff t u with
      | .error e => .error e
      | .ok (v, xs, n) => .ok (v, (i, x) :: xs, n)

/-- A plain vector load. -/
def vecLoad (d : VIdx) (a : SReg) (md : EaMode) (m : MIdx) (ff : Bool) (s : State) : M State :=
  streamed md.reads [d] (vmemLegal [8, 16, 32, 64] a md) (fun s =>
    match s.hart.vmemActive md m with
    | .error e => .error e
    | .ok act =>
      match loadElts s.hart a md ff act s with
      | .error e => .error e
      | .ok (t, xs, n) =>
        let h := t.hart
        let h := { h with regs := h.regs.setV d ((h.regs.v[d]).setElts h.ew xs) }
        .ok { t with hart := match n with
          | none => h
          | some i => h.withVl i }) s

/-- Form the units of the active elements of a store in rising order (05 R122, R126). -/
def storeElts (h : Hart) (a : SReg) (md : EaMode) (d : VIdx) : List Nat → State → M (State × List StoreUnit)
  | [], s => .ok (s, [])
  | i :: t, s =>
    match s.storeUnits h.space (h.ea a md i) (h.ew / 8) i .store ((h.regs.v[d]).elt h.ew i) with
    | .error e => .error e
    | .ok (u, us) =>
      match storeElts h a md d t u with
      | .error e => .error e
      | .ok (v, vs) => .ok (v, us ++ vs)

/-- A plain vector store: one entry with the charge of VL elements whatever the mask. -/
def vecStore (d : VIdx) (a : SReg) (md : EaMode) (m : MIdx) (s : State) : M State :=
  streamed (d :: md.reads) [] (vmemLegal [8, 16, 32, 64] a md) (fun s =>
    match s.hart.vmemActive md m with
    | .error e => .error e
    | .ok act =>
      let c := vecCharge s.hart.vl s.hart.ew
      if s.hart.capacity < s.hart.charge + c then .error (.trap causeCapacity 0 none) else
      match storeElts s.hart a md d act s with
      | .error e => .error e
      | .ok (t, us) => (t.hart.push (.store us) c).map fun h => { t with hart := h }) s

/-- `vld vd, sbase, m`. -/
def execVld (d : VIdx) (a : SReg) (m : MIdx) (s : State) : Out := plain s (vecLoad d a .unit m false)
/-- `vlds vd, sbase, sstride, m`. -/
def execVlds (d : VIdx) (a st : SReg) (m : MIdx) (s : State) : Out := plain s (vecLoad d a (.stride st) m false)
/-- `vldx vd, sbase, vidx, m`. -/
def execVldx (d : VIdx) (a : SReg) (ix : VIdx) (m : MIdx) (s : State) : Out := plain s (vecLoad d a (.index ix) m false)
/-- `vldff vd, sbase, m`. -/
def execVldff (d : VIdx) (a : SReg) (m : MIdx) (s : State) : Out := plain s (vecLoad d a .unit m true)
/-- `vst vs, sbase, m`. -/
def execVst (d : VIdx) (a : SReg) (m : MIdx) (s : State) : Out := plain s (vecStore d a .unit m)
/-- `vsts vs, sbase, sstride, m`. -/
def execVsts (d : VIdx) (a st : SReg) (m : MIdx) (s : State) : Out := plain s (vecStore d a (.stride st) m)
/-- `vstx vs, sbase, vidx, m`. -/
def execVstx (d : VIdx) (a : SReg) (ix : VIdx) (m : MIdx) (s : State) : Out := plain s (vecStore d a (.index ix) m)

/-! ### Strip-terminal elements at their homes (05 R128, R129, 10 R241) -/

/-- Check and translate element i: alignment and region before translation (05 R120, R121, 11 R270). -/
def State.target (s : State) (cls : AccClass) (kind : AccKind) (perm : Perm) (a : SReg) (ix : VIdx) (i : Nat) : M Target :=
  let h := s.hart
  let n := h.ew / 8
  let x := h.ea a (.index ix) i
  if x % n ≠ 0 then .error (accExc h.space kind i (.bad causeAccess 4, x)) else
  match s.pieces h.who h.space cls kind perm x n with
  | .error e => .error (accExc h.space kind i e)
  | .ok (p :: _) => .ok ⟨i, x, p⟩
  | .ok [] => .error (accExc h.space kind i (.bad causeAccess 4, x))

/-- All active elements are checked before any performs; the lowest fault is taken. -/
def State.targets (s : State) (cls : AccClass) (kind : AccKind) (perm : Perm) (a : SReg) (ix : VIdx) :
    List Nat → M (List Target)
  | [] => .ok []
  | i :: t =>
    match s.target cls kind perm a ix i with
    | .error e => .error e
    | .ok x => (s.targets cls kind perm a ix t).map fun xs => x :: xs

/-- A target of an access that has begun, at the home it has now: a PEER or LOC element keeps its logical address, and a page
or Spire that is away makes it wait, never fault (05 R128 item 3). -/
def State.again (s : State) (cls : AccClass) (kind : AccKind) (perm : Perm) (t : Target) : M Target :=
  match s.hart.space with
  | .glb | .host => .ok t
  | sp =>
    match s.pieces s.hart.who sp cls kind perm t.a t.p.n with
    | .ok (p :: _) => .ok { t with p := p }
    | .ok [] => .ok t
    | .error (.page p page ctx lsid, _) => .error (.wait .mem (.restore p page ctx lsid))
    | .error _ => .error (.wait .mem .nothing)

/-- A device line is touched by an accepted store. -/
def Flight.hits (f : Flight) (line : Nat) : Bool :=
  match f.block with
  | some (false, b) => b / 4 == line
  | _ => false

/-- Stores held on the element's own path to its home are written there before it performs, the whole line of its link granule
(10 R230, R241, log 16); an element that no path leads to waits (16 R374). -/
def State.atHome (s : State) (l : Loc) : M State :=
  if s.farFrom s.hart.phys l 1 then .error (.wait .mem .nothing) else
  match l with
  | .dev a => s.drain fun f => f.onPath s.hart.phys && f.hits (a / 64)
  | _ => .ok s

/-- Read an element at its home. -/
def State.homeRead (s : State) (t : Target) (n : Nat) : State × Elt :=
  let bs := readPieces s.rawByte [t.p]
  if bs.any (·.2) then ({ s with draw := s.draw + 1 }, ⟨(byteVal (freeBytes s.draw 0 bs)).1 % 2 ^ (8 * n), true⟩)
  else (s, ⟨(byteVal bs).1 % 2 ^ (8 * n), false⟩)

/-- In whose name the hart in focus stores. -/
def State.origin (s : State) : Origin := ⟨s.hart.id.ctx, s.hart.phys⟩

/-- Store an element at its home (05 R128 item 4); a device line that the host may hold is recalled first (16 R372), and a frame
that is being saved makes it wait (11 R261). `keep` is the hart whose links stay. -/
def State.homeWrite (s : State) (t : Target) (n : Nat) (x : Elt) (keep : Option HartId) : M State :=
  let y := s.storeBytes n x
  let u : StoreUnit := ⟨t.p.loc, t.p.va, y.2, x.bad, s.hart.space == .glb⟩
  if s.saving u.loc then .error (.wait .mem .nothing) else
  match s.hostHolds s.origin u with
  | some line => .error (.wait .mem (.snoop line))
  | none => .ok ((y.1.shadow s.hart.id u).writeAll s.origin keep u)

/-- Note that a target has performed, with the value that it returns. -/
def State.performedAt (s : State) (t : Target) (x : Elt) (rest : List Target) : State :=
  { s with hart := { s.hart with begun := true, presAt := none, todo := rest, got := s.hart.got ++ [(t.i, x.val, x.bad)] } }

/-- Perform targets in order with one action on each, k in this step (0 for all). An action that answers none leaves its element
deferred. The second component is false when targets remain. -/
def performEach (f : Target → State → M (State × Option Elt)) : List Target → Nat → State → M (State × Bool)
  | [], _, s => .ok (s, true)
  | t :: ts, k, s =>
    match s.atHome t.p.loc with
    | .error e => .error e
    | .ok s =>
      match f t s with
      | .error e => .error e
      | .ok (u, none) => .ok (u, false)
      | .ok (u, some x) =>
        let v := u.performedAt t x ts
        if k = 1 ∧ ts ≠ [] then .ok (v, false) else performEach f ts (k - 1) v

/-- A strip-terminal access from its first element that has not performed: `check` gives the targets, `start` is what it does
before the first (05 R128 items 2 and 3). Once it has begun its targets are those that were checked. -/
def accessRun (cls : AccClass) (kind : AccKind) (perm : Perm) (check : State → M (State × List Target)) (start : List Target → State → M State)
    (f : Target → State → M (State × Option Elt)) (s : State) : M (State × Bool) :=
  if s.hart.begun then
    performEach (fun t s => (s.again cls kind perm t).bind fun t => f t s) s.hart.todo s.hart.pace s
  else
    match check s with
    | .error e => .error e
    | .ok (s, ts) =>
      match start ts s with
      | .error e => .error e
      | .ok s => performEach f ts s.hart.pace s

/-- The elements that an access has returned. -/
def Hart.gotElts (h : Hart) : List (Nat × Elt) := h.got.map fun x => (x.1, (⟨x.2.1, x.2.2⟩ : Elt))

/-- Write elements into register d of the hart in focus. -/
def State.putElts (s : State) (d : VIdx) (w : Nat) (xs : List (Nat × Elt)) : State :=
  { s with hart := { s.hart with regs := s.hart.regs.setV d ((s.hart.regs.v[d]).setElts w xs) } }

/-- The targets of the active elements. -/
def State.vmemTargets (s : State) (cls : AccClass) (kind : AccKind) (perm : Perm) (a : SReg) (ix : VIdx) (m : MIdx) :
    M (List Target) :=
  match s.hart.vmemActive (.index ix) m with
  | .error e => .error e
  | .ok act => s.targets cls kind perm a ix act

/-- The checks of an access (05 R128 item 2): its width and base, the deliveries into the registers it reads, its targets, and
the data operands ds, which a poisoned element of traps. Translation comes before poisoned data (DESIGN CHOICE, log 69). -/
def accessCheck (ws : List Nat) (cls : AccClass) (kind : AccKind) (perm : Perm) (reads writes data : List VIdx) (a : SReg) (ix : VIdx)
    (m : MIdx) (s : State) : M (State × List Target) :=
  match vmemLegal ws a (.index ix) s.hart, streamsReady s.hart reads writes with
  | .error e, _ => .error e
  | _, .error e => .error e
  | .ok _, .ok _ =>
    match deliver s reads with
    | .error e => .error (slotFirst s reads [] e)
    | .ok s =>
      match s.vmemTargets cls kind perm a ix m with
      | .error e => .error e
      | .ok ts =>
        (eltsClean (ts.flatMap fun t => data.map fun r => (t.i, (s.hart.regs.v[r]).elt s.hart.ew t.i))).map fun _ =>
          (s.warm s.hart.who s.hart.space (ts.map (·.p)), ts)

/-- Write the elements returned into register d, and emit it. -/
def finishLoad (d : VIdx) (s : State) : M (State × List (Nat × FlagSet)) :=
  (emit (s.putElts d s.hart.ew s.hart.gotElts) [d]).map fun u => (u, [])

/-! ### Sequentially consistent accesses (05 R130, R131) -/

/-- Draw one block of tickets, when every ticket drawn before has performed (05 R130). -/
def drawTickets (ts : List Target) (s : State) : M State :=
  if ts.isEmpty then .ok s
  else if s.sc ≠ s.scDone then .error (.wait .mem .nothing)
  else .ok { s with sc := s.sc + BitVec.ofNat 64 ts.length }

/-- The next ticket's element has performed. -/
def State.ticketDone (s : State) : State := { s with scDone := s.scDone + 1 }

/-- `vldsc vd, sbase, vidx, m`. -/
def execVldsc (d : VIdx) (a : SReg) (ix : VIdx) (m : MIdx) (s : State) : Out :=
  access (.vldsc d a ix m) s
    (accessRun .atomic .load permR (accessCheck [8, 16, 32, 64] .atomic .load permR [ix] [d] [] a ix m) drawTickets fun t s =>
      let r := s.homeRead t (s.hart.ew / 8)
      .ok (r.1.ticketDone, some r.2))
    (finishLoad d)

/-- `vstsc vs, sbase, vidx, m`. -/
def execVstsc (d : VIdx) (a : SReg) (ix : VIdx) (m : MIdx) (s : State) : Out :=
  access (.vstsc d a ix m) s
    (accessRun .atomic .store permW (accessCheck [8, 16, 32, 64] .atomic .store permW [d, ix] [] [] a ix m) drawTickets fun t s =>
      (s.homeWrite t (s.hart.ew / 8) ((s.hart.regs.v[d]).elt s.hart.ew t.i) none).map fun u => (u.ticketDone, some ⟨0, false⟩))
    (fun s => .ok (s, []))

/-! ### Atomics (05 R132, R133) -/

/-- The widths that an atomic accepts (03 R84). -/
def atomWidths : AtomOp → List Nat
  | .fmin | .fmax => [16, 32]
  | _ => [32, 64]

/-- Table 5-4: stored value and flags. -/
def atomF (F : Fp) (isMax : Bool) (m x : Nat) : Nat × FlagSet :=
  let u := F.unpack false m
  let v := F.unpack false x
  if u.isSnan || v.isSnan then (F.cnan, flNv)
  else match u.isNan, v.isNan with
    | true, true => (F.cnan, 0)
    | true, false => (x, 0)
    | false, true => (m, 0)
    | false, false => (if minFirst u v != isMax then m else x, 0)

/-- What an atomic stores, if anything, for memory M, operand X and new value C at width w (05 R132). -/
def atomApply (op : AtomOp) (w m x c : Nat) : Option Nat × FlagSet :=
  match op with
  | .add => (some ((m + x) % 2 ^ w), 0)
  | .and => (some (m &&& x), 0)
  | .or => (some (m ||| x), 0)
  | .xor => (some (m ^^^ x), 0)
  | .min => (some (if sgn w x < sgn w m then x else m), 0)
  | .max => (some (if sgn w m < sgn w x then x else m), 0)
  | .minu => (some (Nat.min m x), 0)
  | .maxu => (some (Nat.max m x), 0)
  | .swap => (some x, 0)
  | .cas => (if m = x then some c else none, 0)
  | .fmin => let r := atomF (if w = 16 then fpBF16 else fpFP32) false m x; (some r.1, r.2)
  | .fmax => let r := atomF (if w = 16 then fpBF16 else fpFP32) true m x; (some r.1, r.2)

/-- The register of the new value of `cas`. -/
def atomCas (op : AtomOp) (d : VIdx) : List VIdx := if op = .cas then [d + 1] else []

/-- Perform one element of an atomic: it returns M, and stores unless a `cas` fails. A poisoned word stays as it is; the element still
breaks the links of its granule, but a `cas` does not, which cannot tell whether M equals X (DESIGN CHOICE, log 76). -/
def atomOne (op : AtomOp) (d : VIdx) (t : Target) (s : State) : M (State × Option Elt) :=
  let w := s.hart.ew
  let r := s.homeRead t (w / 8)
  let x := (s.hart.regs.v[d]).elt w t.i
  let c := (s.hart.regs.v[d + 1]).elt w t.i
  if r.2.bad then
    .ok (match op, t.p.loc.granule with
      | .cas, _ | _, none => r.1
      | _, some g => r.1.breakLinks g none, some r.2)
  else
    match (atomApply op w r.2.val x.val c.val).1 with
    | some v => (r.1.homeWrite t (w / 8) ⟨v, false⟩ none).map fun u => (u, some r.2)
    | none => .ok (r.1, some r.2)

/-- The flags of an atomic's elements, from what they returned. -/
def atomFlags (op : AtomOp) (d : VIdx) (h : Hart) : List (Nat × FlagSet) :=
  h.gotElts.filterMap fun x =>
    if x.2.bad then none
    else some (x.1, (atomApply op h.ew x.2.val ((h.regs.v[d]).elt h.ew x.1).val ((h.regs.v[d + 1]).elt h.ew x.1).val).2)

/-- `vatom.op vd, sbase, vidx, m`: vd names a register below v31 for `cas` (03 R84). -/
def execVatom (op : AtomOp) (d : VIdx) (a : SReg) (ix : VIdx) (m : MIdx) (s : State) : Out :=
  access (.vatom op d a ix m) s
    (fun s =>
      if op = .cas ∧ d.val = 31 then .error illegal else
      accessRun .atomic .store permRW
        (accessCheck (atomWidths op) .atomic .store permRW ([d] ++ atomCas op d ++ [ix]) [d] ([d] ++ atomCas op d) a ix m)
        (fun _ s => .ok s) (atomOne op d) s)
    (fun s => (finishLoad d s).map fun u => (u.1, atomFlags op d s.hart))

/-! ### Gather-linked and scatter-conditional (05 R134-R137) -/

/-- The reservation of a granule that has not run out. -/
def State.reserved (s : State) (g : Granule) : Option HartId :=
  (s.reservations.find? fun r => r.g == g && r.left != 0).map (·.hart)

/-- Link a granule at the read of `vgl`; after four failed rounds it is reserved, unless another hart holds it (05 R137). -/
def State.link (s : State) (g : Granule) : State :=
  let h := s.hart
  let h' := { h with links := ⟨g, true⟩ :: h.links.filter fun l => l.g != g }
  let n : Nat := ((h.fails.find? fun x => x.1 == g).map (·.2)).getD 0
  let free := match s.reserved g with
    | none => true
    | some i => i == h.id
  if decide (4 ≤ n) && free then
    { s with hart := { h' with fails := h'.fails.filter fun x => x.1 != g }
             reservations := ⟨g, h.id, 2560⟩ :: s.reservations.filter fun r => r.g != g }
  else { s with hart := h' }

/-- `vgl` replaces the link set; with VL = 0 it has no effect (05 R124, R134). -/
def dropLinks (_ts : List Target) (s : State) : M State :=
  if s.hart.vl = 0 then .ok s else .ok { s with hart := { s.hart with links := [] } }

/-- `vgl vd, sbase, vidx, m`. -/
def execVgl (d : VIdx) (a : SReg) (ix : VIdx) (m : MIdx) (s : State) : Out :=
  access (.vgl d a ix m) s
    (accessRun .atomic .load permRW (accessCheck [32, 64] .atomic .load permRW [ix] [d] [] a ix m) dropLinks fun t s =>
      let r := s.homeRead t (s.hart.ew / 8)
      .ok (match t.p.loc.granule with
        | some g => r.1.link g
        | none => r.1, some r.2))
    (finishLoad d)

/-- The link of the hart in focus on a granule holds and no other hart has it reserved (05 R135). -/
def State.linkHolds (s : State) (g : Granule) : Bool :=
  (s.hart.links.any fun l => l.g == g && l.intact) &&
    match s.reserved g with
    | none => true
    | some i => i == s.hart.id

/-- Failed rounds after a `vsc` that failed on the granules gs: consecutive rounds only (05 R137). -/
def failsAfter (old : List (Granule × Nat)) (gs : List Granule) : List (Granule × Nat) :=
  gs.eraseDups.map fun g => (g, ((old.find? fun x => x.1 == g).map (·.2)).getD 0 + 1)

/-- One element of a `vsc`: it stores and succeeds when its link holds, else its granule is noted as failed. -/
def scOne (d : VIdx) (t : Target) (s : State) : M (State × Option Elt) :=
  let w := s.hart.ew
  let g := t.p.loc.granule.getD (.line 0)
  if s.linkHolds g then (s.homeWrite t (w / 8) ((s.hart.regs.v[d]).elt w t.i) (some s.hart.id)).map fun u => (u, some ⟨1, false⟩)
  else .ok ({ s with hart := { s.hart with lost := s.hart.lost ++ [g] } }, some ⟨0, false⟩)

/-- The end of a `vsc`: success bits, an empty link set, the failed rounds, and the end of the hart's reservations (05 R135,
R137). With VL = 0 it has no effect (05 R124). -/
def finishSc (m : MIdx) (s : State) : M (State × List (Nat × FlagSet)) :=
  let h := s.hart
  if h.vl = 0 then .ok (s, []) else
  let mask := h.got.foldl (fun k x => k.setBit x.1 (x.2.1 == 1) false) (h.regs.getM m)
  .ok ({ s with hart := { h with regs := h.regs.setM m mask, links := [], fails := failsAfter h.fails h.lost }
                reservations := s.reservations.filter fun r => r.hart != h.id }, [])

/-- `vsc vs, sbase, vidx, m`: the mask governs the elements and receives the success bits (log 17). -/
def execVsc (d : VIdx) (a : SReg) (ix : VIdx) (m : MIdx) (s : State) : Out :=
  access (.vsc d a ix m) s
    (accessRun .atomic .store permW (accessCheck [32, 64] .atomic .store permW [d, ix] [] [d] a ix m) (fun _ s => .ok s) (scOne d))
    (finishSc m)

/-! ### Presence instructions (05 R138-R142) -/

/-- Presence instructions: `vtake`, `vread`, `vput`. -/
inductive Pres | take | read | put
  deriving DecidableEq, Repr
/-- The instruction of a kind. -/
def Pres.instr (k : Pres) (d : VIdx) (a : SReg) (ix : VIdx) (m : MIdx) : Instr :=
  match k with
  | .take => .vtake d a ix m
  | .read => .vread d a ix m
  | .put => .vput d a ix m

/-- The presence bit of word w of a Spire's scratchpad is full. -/
def State.isFull (s : State) (p w : Nat) : Bool := s.full.contains (p * 2 ^ 18 + w)
/-- Set or clear a presence bit, which is a write of its frame (11 R258, R275). -/
def State.setFull (s : State) (p w : Nat) (b : Bool) : State :=
  let k := p * 2 ^ 18 + w
  State.markFrame { s with full := if b then insertNat k s.full else s.full.filter fun x => x != k } p (8 * w)

/-- The bank of a scratchpad word (11 R251). -/
def bankOf (w : Nat) : Nat := (w ^^^ (w / 32) ^^^ (w / 1024)) % 32

/-- An element at its bank may perform: among the 16 that the bank holds, or just arrived; its word in the state it
needs; no earlier one waits for the same (05 R140). -/
def State.presReady (s : State) (x : Deferred) (fresh : Bool) : Bool :=
  let q := s.deferred.filter fun d => d.p == x.p && bankOf d.w == bankOf x.w
  let before := q.takeWhile fun d => d != x
  (fresh || decide (before.length < 16)) && s.isFull x.p x.w == !x.put && !before.any fun d => d.w == x.w && d.put == x.put

/-- The element of a target at its bank. -/
def presElement (h : HartId) (k : Pres) (t : Target) : Deferred :=
  match t.p.loc with
  | .spad p o => ⟨h, p, o / 8, k == .put⟩
  | _ => ⟨h, 0, 0, k == .put⟩

/-- A hart has one element deferred at most: what it presented at another bank, before its Spire was placed anew, goes. -/
def State.dropDeferred (s : State) (x : Deferred) : State :=
  { s with deferred := s.deferred.filter fun d => d.hart != x.hart || d == x }

/-- Present one element at its bank: it performs, or is deferred there (05 R139, R140). -/
def presOne (k : Pres) (d : VIdx) (t : Target) (s : State) : M (State × Option Elt) :=
  let x := presElement s.hart.id k t
  let s := s.dropDeferred x
  if s.presReady x (!s.deferred.contains x) then
    let s := { s with deferred := s.deferred.erase x }
    match k with
    | .put => (s.homeWrite t 8 ((s.hart.regs.v[d]).elt 64 t.i) none).map fun u => (u.setFull x.p x.w true, some ⟨0, false⟩)
    | .take =>
      if s.saving t.p.loc then .error (.wait .mem .nothing)
      else let r := s.homeRead t 8; .ok (r.1.setFull x.p x.w false, some r.2)
    | .read => let r := s.homeRead t 8; .ok (r.1, some r.2)
  else
    .ok (State.request { s with hart := { s.hart with stall := some .pres, presAt := some t.i } } (.present x), none)

/-- A presence instruction: strip-terminal, parked in TERM while an element is deferred (05 R128, R140, R141). A poisoned
element of `vput` traps before any element performs, as 05 R123 states; Table 5-5's store of the poison code is thus not
reached (DEDUCED, log 69). -/
def presence (k : Pres) (d : VIdx) (a : SReg) (ix : VIdx) (m : MIdx) (s : State) : Out :=
  let kind : AccKind := if k = .put then .store else .load
  let perm := if k = .put then permW else permR
  access (k.instr d a ix m) s
    (accessRun .presence kind perm
      (accessCheck [64] .presence kind perm (if k = .put then [d, ix] else [ix]) (if k = .put then [] else [d]) (if k = .put then [d] else []) a ix m)
      (fun _ s => .ok s) (presOne k d))
    (fun s => if k = .put then .ok (s, []) else finishLoad d s)

/-- `vtake vd, sbase, vidx, m`. -/
def execVtake (d : VIdx) (a : SReg) (ix : VIdx) (m : MIdx) (s : State) : Out := presence .take d a ix m s
/-- `vread vd, sbase, vidx, m`. -/
def execVread (d : VIdx) (a : SReg) (ix : VIdx) (m : MIdx) (s : State) : Out := presence .read d a ix m s
/-- `vput vs, sbase, vidx, m`. -/
def execVput (d : VIdx) (a : SReg) (ix : VIdx) (m : MIdx) (s : State) : Out := presence .put d a ix m s

end Sys2Proof.Machine
end

