-- ==== Sys2Proof/Machine/HartEvents.lean ====
section
/-! DEFINITION. Steps of the part that end a wait of a hart or act on its strip: commit, watchdog, returning loads,
deliveries, reservations, tokens, presence, link reservations, fault rings and the lazy vector move
(01 R29-R33, 04 R105, 05 R128, R137, R140, 09 R198, R199, R216, R217, R222, 11 R271, 15 R350). -/
namespace Sys2Proof.Machine

/-! ### A waiting hart tries its instruction again -/

/-- Hart i in focus with its wait over, when it waits for a cause that satisfies p. -/
def State.waiter (s : State) (i : HartId) (p : Stall → Bool) : Option State :=
  (s.findHart i).bind fun h =>
    h.stall.bind fun c =>
      if p c && h.hcr.run == 1 && h.hcr.sstate != 1 && !h.out && !h.takeable && !h.overdue then
        let t := s.focus i
        some { t with hart := { t.hart with stall := none } }
      else none

/-- Hart i of the argument tries the instruction at its pc again; no effect when it does not wait so, or while its arrays are away
(15 R350). -/
def retry (s : State) (i : HartId) (p : Stall → Bool) (f : Instr → State → Out) : Out :=
  match s.waiter i p with
  | none => .next s
  | some t =>
    match t.fetch t.hart with
    | .error e => t.take e
    | .ok x => if t.arraysAway x.1 then .next s else f x.1 t

/-- The hart that a step names. -/
def State.argHart (s : State) : HartId :=
  match s.arg with
  | .hart i => i
  | .stream i _ _ => i
  | _ => s.hart.id

/-- AWAIT_COMPLETE (09 R216). -/
def execAwaitComplete (s : State) : Out :=
  retry s s.argHart (· == .tok) fun i t => match i with
    | .await a => execAwait a t
    | _ => .next s

/-- TKWAIT_SATISFIED (09 R217). -/
def execTkwaitSatisfied (s : State) : Out :=
  retry s s.argHart (· == .tok) fun i t => match i with
    | .tkwait n a => execTkwait n a t
    | _ => .next s

/-- A presence instruction tried again. -/
def runPresence (i : Instr) (t : State) : Option Out :=
  match i with
  | .vtake d a ix m => some (execVtake d a ix m t)
  | .vread d a ix m => some (execVread d a ix m t)
  | .vput d a ix m => some (execVput d a ix m t)
  | _ => none

/-- STRIP_TERMINAL_COMPLETE (05 R128): the strip-terminal instruction that waits completes if its wait has ended. -/
def execStripTerminalComplete (s : State) : Out :=
  retry s s.argHart (fun _ => true) fun i t => match i with
    | .fence sc => execFence sc t
    | .await a => execAwait a t
    | .barArrive id => execBarArrive id t
    | .barWait id => execBarWait id t
    | .vldsc d a ix m => execVldsc d a ix m t
    | .vstsc d a ix m => execVstsc d a ix m t
    | .vatom op d a ix m => execVatom op d a ix m t
    | .vgl d a ix m => execVgl d a ix m t
    | .vsc d a ix m => execVsc d a ix m t
    | i => (runPresence i t).getD (.next s)

/-- The oldest deferred element of word w of Spire p that can perform (05 R140). -/
def State.served (s : State) (p w : Nat) : Option Deferred :=
  s.deferred.find? fun d => d.p == p && d.w == w && s.presReady d false

/-- PRESENCE_DEFERRAL_SERVE (05 R140): the oldest deferred element on word b of Spire a whose condition holds performs. -/
def execPresenceDeferralServe (s : State) : Out :=
  match s.arg with
  | .nums p w _ =>
    match s.served p w with
    | none => .next s
    | some d => retry s d.hart (· == .pres) fun i t => (runPresence i t).getD (.next s)
  | _ => .next s

/-- A GLB scalar load performed now (log 6). -/
def runGlbLoad (i : Instr) (t : State) : Option Out :=
  match i with
  | .ldb true d a off => some (execLdb true d a off t)
  | .ldh true d a off => some (execLdh true d a off t)
  | .ldw true d a off => some (execLdw true d a off t)
  | .ldd true d a off => some (execLdd true d a off t)
  | .ldbu true d a off => some (execLdbu true d a off t)
  | .ldhu true d a off => some (execLdhu true d a off t)
  | .ldwu true d a off => some (execLdwu true d a off t)
  | _ => none

/-- SCALAR_LOAD_RETURN (04 R105): the data of the load that the hart waits for arrives in its register. -/
def execScalarLoadReturn (s : State) : Out :=
  let h := s.argHart
  if !((s.findHart h).any fun x => x.lateGlb) then .next s else
  retry s h (· == .mem) fun i t =>
    match runGlbLoad i { t with hart := { t.hart with lateGlb := false } } with
    | some (.next u) => .next (u.updHart h fun x => { x with lateGlb := true })
    | some o => o
    | none => .next s

/-- FARM_NEXT_SERVE (09 R222, 12 R289): the distributor answers the `farm.next` at which a hart stands. -/
def execFarmNextServe (s : State) : Out :=
  let i := s.argHart
  match s.findHart i with
  | none => .next s
  | some h =>
    if h.hcr.run != 1 || h.hcr.sstate != 0 || h.out || h.takeable || h.overdue then .next s else
    let t := s.focus i
    match t.fetch t.hart with
    | .ok (.farmNext d, _) => execFarmNext d t
    | _ => .next s

/-! ### Slots -/

/-- Hart i in focus with its slot wait over, when it waits for cause c on stream register q. -/
def State.slotWaiter (s : State) (i : HartId) (q : QIdx) (c : Stall) : Option State :=
  if (s.findHart i).any fun h => h.waitQ == some q then s.waiter i (· == c) else none

/-- STREAM_DELIVERY (09 R198): the unit for which a reading instruction waits is delivered. -/
def execStreamDelivery (s : State) : Out :=
  match s.arg with
  | .stream i q _ =>
    match s.slotWaiter i q .slotIn with
    | none => .next s
    | some t =>
      -- a flip may have detached the register: its instruction then goes on without a delivery (14 R337)
      if t.hart.away || !(t.hart.regs.q[q].att && t.hart.regs.q[q].kind == kPortIn) then .next s else
      match deliverPort t q t.hart.regs.q[q] with
      | .ok u => .next u
      | .error _ => .next s
  | _ => .next s

/-- The hart in focus stands at an `aepi` to stream register q, which need not be attached (08 R193). -/
def State.atAepi (s : State) (q : QIdx) : Bool :=
  match s.fetch s.hart with
  | .ok (.aepi _ _ d _ _, _) => d == q
  | _ => false

/-- SLOT_RESERVATION (09 R199, 08 R193, 14 R316): a waiting write of port q obtains its slot. -/
def execSlotReservation (s : State) : Out :=
  match s.arg with
  | .stream i q _ =>
    match s.slotWaiter i q .slotOut with
    | none => .next s
    | some t =>
      if !((t.hart.regs.q[q].att || t.atAepi q) && t.hart.regs.q[q].kind == kPortOut) then .next s else
      match t.portLink t.hart q true with
      | none => .next s
      | some (f, l) =>
        if f.state = .stopped ∨ (f.state = .drain ∧ !f.holds t.hart) ∨ !f.canReserve l (f.destWaits l) then .next s
        else .next (t.updFabric f.c fun f => f.updLink l fun ls => ls.reserve (some i))
  | _ => .next s

/-! ### The strip -/

/-- STRIP_COMMIT (01 R29): a strip that waits in COMMIT performs its buffer. -/
def execStripCommit (s : State) : Out :=
  let i := s.argHart
  match s.findHart i with
  | none => .next s
  | some h =>
    if h.hcr.sstate != 1 || h.fresh then .next s else
    match (s.focus i).commit with
    | .ok t => .next (State.inCommit { t.1 with hart := { t.1.hart with stall := some .mem } })
    | .error e => (s.focus i).take e

/-- The instruction at the pc of the hart in focus keeps it in COMMIT: a `strip.rel` whose accesses have not performed at its scope
(05 R117). -/
def State.releasing (s : State) : Bool :=
  match s.fetch s.hart with
  | .ok (.stripRel _ sc, _) => match s.performed sc with
    | .ok _ => false
    | .error _ => true
  | _ => false

/-- COMMIT_END (01 R31): the hart proceeds at the instruction that closed the strip; a request to leave that waits is due, and
finds no strip open (R29). -/
def execCommitEnd (s : State) : Out :=
  let i := s.argHart
  match s.findHart i with
  | none => .next s
  | some h =>
    if h.hcr.sstate != 1 || !h.fresh || (s.focus i).releasing then .next s
    else .next (s.updHart i fun h => { h with stall := none, hcr := { h.hcr with sstate := if h.asked then 1 else 0 } })

/-- STRIP_WATCHDOG (01 R33, 05 R141): the strip of a hart has lasted WDOG nanoseconds; its trap goes before a request to leave. -/
def execStripWatchdog (s : State) : Out :=
  let i := s.argHart
  match s.findHart i with
  | none => .next s
  | some h =>
    if !h.overdue then .next s else
      match (s.focus i).programTrap causeWatchdog (h.presAt.getD 0) h.pc with
      | .ok t => .next t
      | .error f => .fault f

/-! ### Fault rings -/

/-- A write of the fault block of Cupola c. -/
def State.updRing (s : State) (c : Nat) (f : FaultRing → FaultRing) : Out :=
  match s.withRing c f with
  | .error e => .fault e
  | .ok t => .next t

/-- FQBASE_WRITE (11 R271): bits [12:0] are reserved. -/
def execFqbaseWrite (s : State) : Out :=
  match s.arg with
  | .value c v => s.updRing c fun r => { r with base := v &&& ~~~0x1FFF#64 }
  | _ => .next s

/-- FQHEAD_WRITE (11 R271). -/
def execFqheadWrite (s : State) : Out :=
  match s.arg with
  | .value c v => s.updRing c fun r => { r with head := v.setWidth 8 }
  | _ => .next s

/-! ### Links and vector arrays -/

/-- LINK_RESERVATION_EXPIRY (05 R137): 4,096 die-clock cycles have passed. -/
def execLinkReservationExpiry (s : State) : Out :=
  match s.arg with
  | .granule g => .next { s with reservations := s.reservations.filter fun r => !(r.g == g && r.left == 0) }
  | _ => .next s

/-- LAZY_VECTOR_MOVE (15 R350): the owner's arrays leave the live arrays of a hart's Spire, and those of the hart's team on that
Spire come in; software sees nothing of it but the wait. -/
def execLazyVectorMove (s : State) : Out :=
  match s.findHart s.argHart with
  | none => .next s
  | some h =>
    if h.hcr.run != 1 || h.out then .next s else
    let s := s.mapHarts fun x => if x.id.ctx = h.id.ctx ∧ x.id.team = h.id.team ∧ x.phys = h.phys then { x with away := false } else x
    .next { s with vecOwner := (h.phys, h.id.ctx, h.id.team) :: s.vecOwner.filter fun x => x.1 != h.phys }

end Sys2Proof.Machine
end

