-- ==== Sys2Proof/Machine/MemEvents.lean ====
section
/-! DEFINITION. Steps of memory and translation: page restores and saves, scrubbing, walks, invalidation, stores that
reach their homes, and the host's accesses (10 R230, R232, R249, 11 R256-R261, R266-R272, 16 R372). -/
namespace Sys2Proof.Machine

/-! ### Pages and their backing (11 R258-R261) -/

/-- Break the links on every word of a scratchpad page (05 R136). -/
def State.breakPage (s : State) (p page : Nat) : State :=
  s.mapHarts fun h =>
    { h with links := h.links.map fun l => match l.g with
        | .spad q w => if q = p ∧ w / 4096 = page then { l with intact := false } else l
        | .line _ => l }

/-- Backing of page `page` of logical Spire s in a context, by the descriptor in force on Spire p: address of the bytes, address of
the presence bits (11 R260, R273). -/
def State.backing (s : State) (ctx lsid page p : Nat) : Nat × Nat :=
  (s.descWord ⟨ctx, p⟩ 1 / 32768 * 32768 + (64 * lsid + page) * 32768, s.descWord ⟨ctx, p⟩ 2 / 512 * 512 + (64 * lsid + page) * 512)

/-- The presence bits of a page as 512 bytes. -/
def State.tagBytes (s : State) (p page : Nat) : List Byte :=
  let k := p * 2 ^ 18 + page * 4096
  toBytes 512 ((s.full.filter fun x => decide (k ≤ x) && decide (x < k + 4096)).foldl (fun n x => n + 2 ^ (x - k)) 0)

/-- Replace the presence bits of a page. -/
def State.setTags (s : State) (p page bits : Nat) : State :=
  let k := p * 2 ^ 18 + page * 4096
  let new := ((List.range 4096).filter fun i => bitAt bits i).map fun i => k + i
  { s with full := s.full.filter (fun x => decide (x < k)) ++ new ++ s.full.filter fun x => decide (k + 4096 ≤ x) }

/-- Save a frame to its owner's backing (11 R260). -/
def State.savePage (s : State) (f : Frame) : Except Halt State :=
  let p := f.key / 64
  let page := f.key % 64
  let b := s.backing f.ctx f.lsid page p
  match s.devFree p b.1 32768, s.devFree p b.2 512 with
  | .error e, _ => .error e
  | _, .error e => .error e
  | .ok _, .ok _ =>
    let dev := s.spad.copyRange s.dev (p * 2 ^ 21 + page * 32768) 32768 b.1
    .ok ((State.breakLines { s with dev := dev } b.1 32768).devStore b.2 (s.tagBytes p page))

/-- Read a page of (ctx, lsid) from its backing into frame `page` of Spire p. -/
def State.loadPage (s : State) (p page ctx lsid : Nat) : Except Halt State :=
  let b := s.backing ctx lsid page p
  match devOk b.1 32768, devOk b.2 512 with
  | .error e, _ => .error (.stop e)
  | _, .error e => .error (.stop e)
  | .ok _, .ok _ =>
    if s.farFrom p (.dev b.1) 32768 || s.farFrom p (.dev b.2) 512 then .error .wait else
    let t := s.breakPage p page
    .ok (State.setTags { t with spad := s.dev.copyRange s.spad b.1 32768 (p * 2 ^ 21 + page * 32768) } p page (s.dev.getN b.2 512))

/-- Change the frame with a key. -/
def State.updFrame (s : State) (key : Nat) (f : Frame → Frame) : State :=
  { s with frames := s.frames.map fun x => if x.key = key then f x else x }

/-- End the restore of a frame: a dirty page is saved first; the accesses that wait proceed when they are tried again. A save in
progress has taken its snapshot, and ends with it. -/
def State.restorePage (s : State) (f : Frame) (own : Nat × Nat) : Except Halt State :=
  let saved := if f.dirty && f.resident then s.savePage f else .ok s
  match saved with
  | .error e => .error e
  | .ok t =>
    (t.loadPage (f.key / 64) (f.key % 64) own.1 own.2).map fun u =>
      u.updFrame f.key fun x => { x with ctx := own.1, lsid := own.2, resident := true, dirty := false, asked := false, restore := none }

/-- PAGE_RESTORE_COMPLETE (11 R259): page b of Spire a. -/
def execPageRestoreComplete (s : State) : Out :=
  match s.arg with
  | .nums p page _ =>
    match s.frames.find? fun f => f.key == p * 64 + page with
    | none => .next s
    | some f =>
      match f.restore with
      | none => .next s
      | some own => s.outcome (s.restorePage f own)
  | _ => .next s

/-- Start the save of a frame: the snapshot is taken now, and the bit reads 1 until the save ends (11 R261). While the host holds a
line of the backing, or it cannot be reached, the request stands and the bit reads 1. -/
def State.startSave (s : State) (f : Frame) : Except Halt State :=
  match s.savePage f with
  | .ok u => .ok (u.updFrame f.key fun x => { x with dirty := false, save := true, asked := false })
  | .error (.stop e) => .error (.stop e)
  | .error (.hold line) => .ok ((s.snoop line).updFrame f.key fun x => { x with asked := true })
  | .error .wait => .ok (s.updFrame f.key fun x => { x with asked := true })

/-- Start the saves that bits of SPSAVE ask for. A frame that is not dirty ends at once. -/
def State.startSaves (s : State) (p : Nat) (v : Word) : List Frame → Except Halt State
  | [] => .ok s
  | f :: t =>
    if f.key / 64 = p ∧ v.getLsbD (f.key % 64) ∧ f.dirty ∧ f.resident then (s.startSave f).bind fun u => u.startSaves p v t
    else s.startSaves p v t

/-- SPSAVE (11 R261): a write of SPSAVE of Spire p. -/
def execSpsave (s : State) : Out :=
  match s.arg with
  | .value p v => s.outcome (s.startSaves p v s.frames)
  | _ => .next s

/-- SPSAVE_COMPLETE (11 R261): the save of page b of Spire a ends; one that waits takes its snapshot, when its frame is still dirty. -/
def execSpsaveComplete (s : State) : Out :=
  match s.arg with
  | .nums p page _ =>
    match s.frames.find? fun f => f.key == p * 64 + page && f.asked && f.dirty && f.resident with
    | some f => s.outcome (s.startSave f)
    | none => .next (s.updFrame (p * 64 + page) fun f => { f with save := false, asked := false })
  | _ => .next s

/-! ### Scrubbing (10 R249, 11 R256) -/

/-- Poison word w of a strip-buffer entry: of its stored bytes in their order, or of the slot of a port write. -/
def BufEntry.spoil (e : BufEntry) (w : Nat) : BufEntry :=
  match e with
  | .store us => .store (us.foldl (fun (acc : List StoreUnit × Nat) u =>
      (acc.1 ++ [if acc.2 < 8 * w + 8 ∧ 8 * w < acc.2 + u.bytes.length then { u with bad := true } else u], acc.2 + u.bytes.length)) ([], 0)).1
  | .port q x => .port q { x with poison := x.poison ||| (0xFF#2048 <<< (8 * w)) }
  | e => e

/-- Poison word w of a vector register: 256 words of data, then those of the scale slice. -/
def VReg.spoil (r : VReg) (w : Nat) : VReg :=
  if w < 256 then { r with poison := r.poison ||| (0xFF#2048 <<< (8 * w)) }
  else { r with scaleBad := r.scaleBad ||| (0xFF#128 <<< (8 * (w - 256))) }

/-- Poison the two elements of word w of a tile. -/
def Tile.spoil (t : Tile) (w : Nat) : Tile := { t with poison := t.poison ||| (3#4096 <<< (2 * w)) }

/-- Poison one 8-byte word. -/
def Mem.spoil (m : Mem) (w : Nat) : Mem := { m with bad := insertNat w m.bad }

/-- An error that cannot be corrected places a poison store at a word; it breaks links as a store does. -/
def State.spoil (s : State) (g : ScrubSite) : State :=
  match g with
  | .spad p w => (State.breakLinks { s with spad := s.spad.spoil (p * 2 ^ 18 + w) } (.spad p w) none).markFrame p (8 * w)
  | .port p w => { s with portBad := insertNat (p * 4096 + w) s.portBad }
  | .dev w => State.breakLinks { s with dev := s.dev.spoil w } (.line (w / 8)) none
  | .sdm ctx team lsid w =>
    match s.team ctx team with
    | none => s
    | some t => { s with sdm := s.sdm.spoil (t.sdmSpire lsid * 2 ^ 13 + w) }
  | .vreg i r w => s.updHart i fun h => { h with regs := h.regs.setV r ((h.regs.v[r]).spoil w) }
  | .tile i r w => s.updHart i fun h => { h with regs := h.regs.setA r ((h.regs.a[r]).spoil w) }
  | .buf i e w => s.updHart i fun h => { h with buf := h.buf.modify e fun x => x.spoil w }

/-- A corrected error is counted for the health reports (11 R256). -/
def State.corrected (s : State) (g : ScrubSite) : State :=
  let b := s.belfry
  let note := fun (w : Nat) (x : Stack) =>
    if x.s = stackOf (8 * w) then { x with ces := s.nstime :: x.ces.filter fun t => decide (s.nstime < t + 86400000000000) } else x
  match g with
  | .dev w => { s with belfry := { b with hbm := b.hbm.map (note w) } }
  | _ => { s with belfry := { b with corrected := b.corrected + 1 } }

/-- PATROL_SCRUB: a word is read, by the scrubber or by its user, whose error is corrected, or, with `bad`, cannot be (11 R256). A word
without an error changes nothing, and needs no step. -/
def execPatrolScrub (s : State) : Out :=
  match s.arg with
  | .scrub g bad => .next (if bad then s.spoil g else s.corrected g)
  | _ => .next s

/-! ### Translation (11 R266-R272) -/

/-- A miss that ends in a fault, or for which no table stands, leaves the table of misses and no entry (11 R268). -/
def State.endMiss (s : State) (p ctx : Nat) (host : Bool) (va : Nat) : State :=
  { s with misses := s.misses.filter fun m => !(m.die == p / 64 && m.ctx == ctx && m.host == host && m.page == va / 4096) }

/-- TRANSLATION_WALK (11 R266, R268, R269): a Spire's access, or an outstanding miss, is walked; a die's cached translation answers
at once. A walk that finds a leaf leaves entries; a fault leaves none; one that cannot read an entry yet goes on later. -/
def execTranslationWalk (s : State) : Out :=
  match s.arg with
  | .walk p ctx host va =>
    if 2 ^ 48 ≤ va.toNat ∨ Config.spires ≤ p then .next s else
    match s.tlb.find? fun e => e.place == .die (p / 64) && e.covers ctx host va.toNat with
    | some e => .next (s.fillWalk p ctx host va.toNat ⟨e.va, e.size, e.pa, e.r, e.w, e.x⟩ [])
    | none =>
      match s.rootOf p ctx host with
      | none => .next (s.endMiss p ctx host va.toNat)
      | some root =>
        match s.walk p ctx host root va.toNat with
        | .error .away => .next s
        | .error _ => .next (s.endMiss p ctx host va.toNat)
        | .ok l => .next (s.fillWalk p ctx host va.toNat l (walkTables s.dev root va.toNat l.size (p / 64) ctx host))
  | _ => .next s

/-- An entry that an invalidation removes (11 Table 11-6). A whole context or every context covers both spaces (log 8). -/
def TlbEntry.matches (e : TlbEntry) (ctl va : Nat) : Bool :=
  let size := match field ctl 18 2 with
    | 0 => 4096
    | 1 => 65536
    | 2 => 2097152
    | _ => 1073741824
  let lo := va / size * size
  match field ctl 16 2 with
  | 0 => e.ctx == field ctl 0 16 && e.host == bitAt ctl 20 && decide (e.va < lo + size) && decide (lo < e.va + e.size)
  | 1 => e.ctx == field ctl 0 16
  | _ => true

/-- A non-leaf entry that an invalidation removes: an entry of the context above the page, or of the whole context. -/
def NonLeaf.matches (e : NonLeaf) (ctl va : Nat) : Bool :=
  match field ctl 16 2 with
  | 0 => e.ctx == field ctl 0 16 && e.host == bitAt ctl 20 && e.pre == va / 2 ^ (12 + 9 * (e.lv + 1))
  | 1 => e.ctx == field ctl 0 16
  | _ => true

/-- Remove the entries that match from every cache of every die. -/
def State.invalidate (s : State) (ctl va : BitVec 64) : State :=
  { s with tlb := s.tlb.filter fun e => !(e.matches ctl.toNat va.toNat)
           nonLeaf := s.nonLeaf.filter fun e => !(e.matches ctl.toNat va.toNat) }

/-- Change the translation block of a die. -/
def State.updInv (s : State) (d : Nat) (f : InvBlock → InvBlock) : State :=
  { s with invs := s.invs.mapIdx fun i x => if i = d then f x else x }

/-- Bits of INVCTL that are kept: go reads 0, reserved bits read 0. -/
def invMask : BitVec 64 := 0x1FFFFF#64

/-- A write of INVCTL of an idle block: with go the invalidation starts (11 R272). -/
def State.writeInv (s : State) (d : Nat) (x : InvBlock) (v : BitVec 64) : State :=
  State.updInv (if v.getLsbD 31 then s.invalidate v x.va else s) d fun y =>
    { y with ctl := v &&& invMask, busy := v.getLsbD 31, goVa := if v.getLsbD 31 then x.va else y.goVa }

/-- INVCTL_GO (11 R272): a write of INVCTL; while the block is busy it is queued. -/
def execInvctlGo (s : State) : Out :=
  match s.arg with
  | .value d v =>
    match s.invs[d]? with
    | none => .next s
    | some x => .next (if x.busy then s.updInv d fun y => { y with queued := y.queued ++ [v] } else s.writeInv d x v)
  | _ => .next s

/-- Take queued writes of INVCTL up to one that starts an invalidation. -/
def State.nextInv (s : State) (d : Nat) (x : InvBlock) : List (BitVec 64) → State
  | [] => s.updInv d fun y => { y with busy := false, queued := [] }
  | v :: q =>
    let t := s.writeInv d x v
    if v.getLsbD 31 then t.updInv d fun y => { y with queued := q } else t.nextInv d x q

/-- A strip-terminal access that has begun holds translated elements of GLB or HOST that have not performed. -/
def Hart.translated (h : Hart) : Bool :=
  h.begun && h.todo.any fun t => match t.p.loc with
    | .dev _ | .host _ => true
    | _ => false

/-- INVALIDATION_COMPLETE (11 R272): the entries that the write of go named are gone, accepted stores have performed at package scope,
and so has every access that was translated before. -/
def execInvalidationComplete (s : State) : Out :=
  match s.arg with
  | .nums d _ _ =>
    match s.invs[d]? with
    | none => .next s
    | some x =>
      if !x.busy || s.harts.any Hart.translated then .next s else
      match (s.invalidate x.ctl x.goVa).drain fun _ => true with
      | .error (.wait _ r) => .next (State.request s r)
      | .error _ => .next s
      | .ok t => .next (t.nextInv d x x.queued)
  | _ => .next s

/-! ### Accepted stores (10 R230, R232) -/

/-- An accepted store must wait for another that stands before it on its path and writes in its block. -/
def State.blocked (s : State) (f : Flight) : Bool :=
  ((pathOrder s.flight).takeWhile fun g => g != f).any fun g => g.before f && g.clash f

/-- Write the units of an accepted store at their homes. -/
def State.land (s : State) (f : Flight) : State := f.units.foldl (fun s u => s.writeAll f.origin none u) s

/-- STORE_WRITTEN_AT_HOME (10 R232): accepted GLB store number a reaches its Cupola's order point (b = 1) or its home, after those
in its block that its path holds before it. -/
def execStoreWrittenAtHome (s : State) : Out :=
  match s.arg with
  | .nums k lvl _ =>
    match s.flight[k]? with
    | none => .next s
    | some f =>
      if lvl = 1 then
        if f.level = 1 ∨ (s.flight.take k).any (fun g => g.level == 0 && g.phys == f.phys && g.clash f) then .next s
        else .next { s with flight := s.flight.eraseIdx k ++ [{ f with level := 1 }] }
      else if s.blocked f || f.far s then .next s
      else
        match f.units.findSome? fun u => s.hostHolds f.origin u with
        | some line => .next (s.snoop line)
        | none => .next (State.land { s with flight := s.flight.erase f } f)
  | _ => .next s

/-- HOST_STORE_COMPLETION (16 R372): the completion of HOST store number a returns. -/
def execHostStoreCompletion (s : State) : Out :=
  match s.arg with
  | .nums k _ _ =>
    match s.hostOut[k]? with
    | none => .next s
    | some f =>
      if (s.hostOut.take k).any fun g => g.clash f then .next s
      else .next (State.land { s with hostOut := s.hostOut.eraseIdx k } f)
  | _ => .next s

/-! ### The host (16 R372) -/

/-- HOST_CXL_MEM_ACCESS: a read or write of one device line performs at its home; the host may hold the line from then on.
Host writes are not logged (11 R274). -/
def execHostCxlMemAccess (s : State) : Out :=
  match s.arg with
  | .hostAccess x =>
    let n := x.bytes.length
    if Config.devEnd < x.addr + n ∨ 64 < x.addr % 64 + n ∨ Config.devEnd ≤ x.addr ∨ s.copying x.addr n then .next s else
    let line := x.addr / 64
    let t := { s with hostLines := if s.hostLines.contains line then s.hostLines else insertNat line s.hostLines }
    .next (if x.write then State.breakLinks { t with dev := t.dev.store x.addr x.bytes x.poison } (.line line) none else t)
  | _ => .next s

/-- HOST_SNOOP: the part holds no host line; the snoop is answered so and changes nothing. -/
def execHostSnoop (s : State) : Out := .next s

/-- Held records of every Cupola go to their rings (11 R271). -/
def State.drainRings (s : State) : Except Fault State :=
  (List.range Config.cupolas).foldl (fun (r : Except Fault State) c => r.bind fun s => s.withRing c id) (.ok s)

/-- Physical address of the header of an overflow chunk. -/
def Context.ovfAt (c : Context) (o : Overflow) : Nat := c.ovfbase.toNat / 4096 * 4096 + 4096 * (o.blocks[0]?.getD 0)

/-- Write the `next` fields of a context's overflow list that do not name the header that follows; a line that the host holds is
asked for first (13 R310, 16 R372). -/
def State.relink (s : State) (ctx : Nat) : State :=
  match s.context ctx with
  | none => s
  | some c =>
    let at' := (s.overflow.filter fun o => o.ctx == ctx).map c.ovfAt
    (List.zip at' (at'.drop 1 ++ [0])).foldl (fun s x =>
      if s.dev8 x.1 = x.2 then s else
      match s.devFree Config.spires x.1 8 with
      | .error (.hold line) => s.snoop line
      | .error _ => s
      | .ok _ => s.devStore x.1 (toBytes 8 x.2)) s

/-- BACK_INVALIDATE_RESPONSE: the host gives up line a; fault records and list links that wait for it are written. -/
def execBackInvalidateResponse (s : State) : Out :=
  match s.arg with
  | .nums line _ _ =>
    if s.backInv.contains line then
      match State.drainRings { s with backInv := s.backInv.filter fun x => x != line, hostLines := s.hostLines.filter fun x => x != line } with
      | .ok t => .next (t.contexts.foldl (fun t c => t.relink c.id) t)
      | .error f => .fault f
    else .next s
  | _ => .next s

end Sys2Proof.Machine
end

