-- ==== Sys2Proof/Machine/Tasks.lean ====
section
/-! DEFINITION. Dependences of tasks: credits, decrements, completion, joins and arrival watches (12 R280-R283). -/
namespace Sys2Proof.Machine

/-- A task becomes ready now (12 R281, R284). Tasks made ready by one event have one ready number. -/
def Distributor.makeReady (d : Distributor) (now order : Nat) : Distributor :=
  { d with tasks := d.tasks.map fun t => if t.order = order then { t with ready := true, since := now, aged := 0, readyNo := d.readied } else t }

/-- Add a credit for a handle: counts saturate at 255; none when the table is full (12 R281, Table 12-2). -/
def Distributor.credit (d : Distributor) (ctx h : Nat) : Option Distributor :=
  if d.credits.any fun c => c.1 == ctx && c.2.1 == h then
    some { d with credits := d.credits.map fun c => if c.1 = ctx ∧ c.2.1 = h then (ctx, h, min 255 (c.2.2 + 1)) else c }
  else if d.credits.length < Config.maxCredits then some { d with credits := d.credits ++ [(ctx, h, 1)] }
  else none

/-- A live task, waiting, launched or completing, has this handle. -/
def Distributor.liveHandle (d : Distributor) (ctx h : Nat) : Bool :=
  d.tasks.any (fun t => t.ctx == ctx && t.handle == h) || d.teams.any (fun t => t.task.ctx == ctx && t.task.handle == h)
    || d.dying.any fun x => x.1 == ctx && x.2.1 == h

/-- Take 1 from the count of a waiting task; at 0 it becomes ready. -/
def Distributor.lower (d : Distributor) (now order : Nat) : Distributor :=
  match d.tasks.find? fun t => t.order == order with
  | none => d
  | some t =>
    let d := { d with tasks := d.tasks.map fun x => if x.order = order then { x with count := x.count - 1 } else x }
    if t.count ≤ 1 ∧ !t.ready then d.makeReady now order else d

/-- One successor handle of a task that completes; none while the decrement waits for room (12 R281). -/
def Distributor.decrement (d : Distributor) (now ctx h : Nat) : Option Distributor :=
  if h = 0 then some d else
  match d.tasks.find? fun t => t.ctx == ctx && t.handle == h with
  | some t => some (d.lower now t.order)
  | none => if d.liveHandle ctx h then some d else d.credit ctx h

/-- The successors of a completing task in packet order, up to one that waits; those that are left. -/
def Distributor.release (now ctx : Nat) : List Nat → Distributor → Distributor × List Nat
  | [], d => (d, [])
  | h :: t, d => match d.decrement now ctx h with
    | none => (d, h :: t)
    | some d => Distributor.release now ctx t d

/-- Every completing task goes on with its successors; its handle is freed last (12 R281). `kept` are those that wait. -/
def Distributor.finish (now : Nat) : List (Nat × Nat × List Nat) → List (Nat × Nat × List Nat) → Distributor → Distributor
  | [], kept, d => { d with dying := kept }
  | x :: rest, kept, d =>
    let r := Distributor.release now x.1 x.2.2 { d with dying := kept ++ x :: rest }
    Distributor.finish now rest (if r.2.isEmpty then kept else kept ++ [(x.1, x.2.1, r.2)]) r.1

/-- A task begins to complete. -/
def Distributor.complete (d : Distributor) (t : Task) : Distributor := { d with dying := d.dying ++ [(t.ctx, t.handle, t.succ)] }

/-- Completing tasks go on; join and watch tasks complete as soon as they are ready (12 R282). -/
def Distributor.settleN (now : Nat) : Nat → Distributor → Distributor
  | 0, d => d
  | fuel + 1, d =>
    let d := Distributor.finish now d.dying [] d
    match d.tasks.find? fun t => t.ready && t.kind != 0 with
    | none => d
    | some t => Distributor.settleN now fuel (Distributor.complete { d with tasks := d.tasks.filter fun x => x.order != t.order } t)

/-- The end of an event: waiting decrements and ready joins proceed; what later events make ready comes after. -/
def Distributor.settle (d : Distributor) (now : Nat) : Distributor :=
  let d := d.settleN now (d.tasks.length + 1)
  { d with readied := d.readied + 1 }

/-- Complete a task that is no longer in the tables. -/
def State.completeTask (s : State) (t : Task) : State := { s with dist := (s.dist.complete t).settle s.nstime }

/-- The arrival entry of a tag. -/
def State.arrival (s : State) (tag : Nat) : Option Arrival := s.dist.arrivals.find? fun a => a.tag == tag

/-- Bytes of a tag have landed: at the total the entry is freed and takes 1 from its watch (12 R282). -/
def State.landed (s : State) (tag n : Nat) : State :=
  match s.arrival tag with
  | none => s
  | some a =>
    let d := s.dist
    if a.total ≤ a.landed + n then
      let d := Distributor.lower { d with arrivals := d.arrivals.filter fun x => x.tag != tag } s.nstime a.watch
      { s with dist := d.settle s.nstime }
    else { s with dist := { d with arrivals := d.arrivals.map fun x => if x.tag = tag then { x with landed := x.landed + n } else x } }

end Sys2Proof.Machine
end

