-- ==== Sys2Proof/Machine/Engines.lean ====
section
/-! DEFINITION. Copy engines, put.e landings, parked work and command ends (09 R211, R212, R214, 13 R299-R304, R311). -/
namespace Sys2Proof.Machine

/-! ### Where an engine's access goes (13 R301, 15 R352) -/

/-- Frame of a scratchpad byte still owned by a logical Spire, a restore for another owner outstanding or not (11 R258, 15 R352). -/
def State.owned (s : State) (p o ctx ls : Nat) : Bool :=
  s.frames.any fun f => f.key == p * 64 + o / 32768 && f.resident && f.ctx == ctx && f.lsid == ls

/-- A byte of the scratchpad of a logical Spire that is not placed: the frame of the Spire that last held it, or the
backing (15 R352). -/
def State.unplacedLoc (s : State) (t : Team) (ctx ls o : Nat) : Loc :=
  let last := (t.held[ls]?).join
  let back := Loc.dev ((s.backing ctx ls (o / 32768) (last.getD Config.spires)).1 + o % 32768)
  match last with
  | some p => if s.owned p o ctx ls then .spad p o else back
  | none => back

/-- A byte of the scratchpad of a logical Spire of a team. -/
def State.teamSpad (s : State) (t : Team) (ctx ls o : Nat) : Except AccErr Loc :=
  match t.spireOf ls with
  | some p => s.spadLoc p o ctx ls
  | none => .ok (s.unplacedLoc t ctx ls o)

/-- The home of a byte for an engine that acts for hart i. -/
def State.engLoc (s : State) (i : HartId) (phys : Nat) (space : Space) (write : Bool) (a : Nat) : Except AccErr Loc :=
  let kind : AccKind := if write then .store else .load
  let bad := Except.error (AccErr.bad causeAccess 4)
  match space with
  | .loc | .peer =>
    match s.team i.ctx i.team with
    | none => bad
    | some t =>
      let own := i.lhid / t.perSpire
      if space = .peer then
        if 2 ^ 30 ≤ a ∨ t.task.nspire ≤ a / 2 ^ 21 then bad else s.teamSpad t i.ctx (a / 2 ^ 21) (a % 2 ^ 21)
      else if a < Config.spadBytes then s.teamSpad t i.ctx own a
      else if a < 0x210000 then .ok (.sdm (t.sdmSpire own) (a - 0x200000))
      else if a < 0x218000 ∧ !write then
        match t.spireOf own with
        | some p => .ok (.port p (a - 0x210000))
        | none => bad
      else bad
  | .glb | .host =>
    let host := space == .host
    let root := match s.findHart i with
      | some h => (if host then h.hcr.hptroot else h.hcr.ptroot).toNat
      | none => ((s.rootOf phys i.ctx host).getD 0)
    match s.translate phys i.ctx host root kind (if write then permW else permR) a with
    | .ok pa => .ok (if host then .host pa else .dev pa)
    | .error e => .error e

/-- The home of a byte for an engine, when a path leads there from the engine's die (16 R374). -/
def State.engHome (s : State) (i : HartId) (phys : Nat) (space : Space) (write : Bool) (a : Nat) : Except AccErr Loc :=
  match s.engLoc i phys space write a with
  | .ok l => if s.farFrom phys l 1 then .error .far else .ok l
  | .error e => .error e

/-- Why an engine stops at a byte: it waits, ends the command, or parks it. -/
inductive EngStop
  | wait (r : Req)
  | access
  | park (cause detail addr : Nat)
  deriving DecidableEq, Repr

/-- What an access error means to an engine (13 R301). -/
def engStop (a : Nat) (e : AccErr) : EngStop :=
  match e with
  | .page p page ctx lsid => .wait (.restore p page ctx lsid)
  | .far => .wait .nothing
  | .miss p ctx host va => .wait (.miss p ctx host va)
  | .bad cause detail => if detail = 0 then .park cause detail a else .access

/-- A byte as a command reads it: what its hart's later stores have replaced, then memory (09 R211). -/
def State.engByte (s : State) (c : Cmd) (l : Loc) : Byte × Bool :=
  match c.shadow.find? fun x => x.1 == l with
  | some x => x.2
  | none => s.engineByte l

/-- Read bytes at addresses until one stops the engine. -/
def State.readSrc (s : State) (c : Cmd) (space : Space) : List Nat → List (Byte × Bool) × Option EngStop
  | [] => ([], none)
  | a :: t =>
    match s.engHome c.hart c.phys space false a with
    | .error e => ([], some (engStop a e))
    | .ok l =>
      let r := s.readSrc c space t
      (s.engByte c l :: r.1, r.2)

/-- Cut a list of (address, byte) at aligned 8-byte words: the atomic units of an engine's writes (10 R233). -/
def groupWords : List (Nat × Byte × Bool) → List (Nat × List (Byte × Bool))
  | [] => []
  | x :: t =>
    match groupWords t with
    | [] => [(x.1, [x.2])]
    | (b, ys) :: r => if b = x.1 + 1 ∧ b % 8 ≠ 0 then (x.1, x.2 :: ys) :: r else (x.1, [x.2]) :: (b, ys) :: r

/-- A result that can only stop the machine. -/
def stopOnly (r : Except Fault α) : Except Halt α := r.mapError Halt.stop

/-- An engine's write of a host address goes to the CXL port behind the HOST stores that the port holds for its block, whose completions
return first (10 R232, R244 items 4 and 5). -/
def State.behindPort (s : State) (l : Loc) : State :=
  match l with
  | .host a => s.drainHost fun f => f.block == some (true, a / 16)
  | _ => s

/-- Land units in order at homes until one stops the engine: the state, the bytes landed, the stop. A GLB landing is logged
(11 R274); a landing in a frame that is being saved waits (11 R261). -/
def landUnits (home : State → Nat → Except AccErr Loc) (o : Origin) (log : Bool) :
    List (Nat × List (Byte × Bool)) → Nat → State → State × Nat × Option EngStop
  | [], n, s => (s, n, none)
  | (a, bs) :: t, n, s =>
    match home s a with
    | .error e => (s, n, some (engStop a e))
    | .ok l =>
      let u : StoreUnit := ⟨l, a, bs.map (·.1), bs.any (·.2), log⟩
      if s.saving l then (s, n, some (.wait .nothing)) else
      match s.hostHolds o u with
      | some line => (s, n, some (.wait (.snoop line)))
      | none => landUnits home o log t (n + bs.length) ((s.behindPort l).writeAll o none u)

/-! ### Commands -/

/-- The fields of a command. -/
def CmdWords.fields (w : CmdWords) : LongFields := LongFields.ofWords w.w0.toNat w.w1.toNat w.w2.toNat w.w3.toNat
/-- In whose name a command writes. -/
def Cmd.origin (c : Cmd) : Origin := ⟨c.hart.ctx, c.phys⟩
/-- Its destination and source spaces. -/
def CmdWords.dspace (w : CmdWords) : Space := (Space.ofCode (field w.w1.toNat 21 2)).getD .loc
def CmdWords.sspace (w : CmdWords) : Space := (Space.ofCode (field w.w1.toNat 19 2)).getD .loc

/-- Change the command with a number. -/
def State.updCmd (s : State) (k : Nat) (f : Cmd → Cmd) : State :=
  { s with cmds := s.cmds.map fun c => if c.k = k then f c else c }
/-- A command ends with a code; its status and token follow at COMMAND_END. -/
def State.endCmd (s : State) (k code : Nat) : State := s.updCmd k fun c => { c with st := .ended code }

/-- The record of parked work: kind 0 for a source read, 1 for a destination write (13 R303). -/
def engRecord (lhid ctx ticket : Nat) (space : Space) (write : Bool) (detail addr : Nat) : FaultRec :=
  { lhid := lhid, ctxid := ctx, detail := detail, kind := b2n write, space := space.code,
    cause := if write then causeStore else causeLoad, addr := BitVec.ofNat 64 addr,
    info := BitVec.ofNat 64 (Config.ticketBase ticket % 2 ^ 56 * 256), elem := 0 }

/-- Park a command under a new ticket. -/
def State.parkCmd (s : State) (c : Cmd) (space : Space) (write : Bool) (detail addr : Nat) : Except Halt State :=
  let t := State.updCmd { s with nextTicket := s.nextTicket + 1 } c.k fun x => { x with st := .parked s.nextTicket write }
  stopOnly (t.record (cupolaOf c.phys) (engRecord c.hart.lhid c.hart.ctx s.nextTicket space write detail addr))

/-- Apply a stop of a command. -/
def State.stopCmd (s : State) (c : Cmd) (space : Space) (write : Bool) (e : EngStop) : Except Halt State :=
  match e with
  | .wait r => .ok (State.request s r)
  | .access => .ok (s.endCmd c.k 1)
  | .park _ detail addr => s.parkCmd c space write detail addr

/-- Source and destination address of every byte of a copy, in the order of its loops (09 R212). -/
def copyPairs (w : CmdWords) : List (Nat × Nat) :=
  let x := w.fields
  let form := x.psub / 8
  let a := w.a.toNat
  let d := w.d.toNat
  if form = 0 then (List.range w.b.toNat).map fun i => ((a + i) % 2 ^ 64, (d + i) % 2 ^ 64) else
  let e := 2 ^ (x.psub % 8)
  let nr := w.b.toNat % 2 ^ 32
  let nc := w.b.toNat / 2 ^ 32
  (List.range nr).flatMap fun r => (List.range nc).flatMap fun c => (List.range e).map fun i =>
    ((a + r * x.w2 + c * e + i) % 2 ^ 64, ((if form = 1 then d + r * x.w3 + c * e else d + c * x.w3 + r * e) + i) % 2 ^ 64)

/-- A value that ends a copy with code 0x03 (09 R212). -/
def copyBad (w : CmdWords) : Bool :=
  let x := w.fields
  let e := 2 ^ (x.psub % 8)
  if x.psub / 8 = 0 then decide (2 ^ 40 < w.b.toNat)
  else w.a.toNat % e != 0 || w.d.toNat % e != 0 || x.w2 % e != 0 || x.w3 % e != 0

/-- The bytes that a landing replaces before the source has been read whole: the command still reads them (09 R211). -/
def State.landingOver (s : State) (c : Cmd) (addrs : List Nat) : List (Loc × Byte × Bool) :=
  addrs.filterMap fun a => match s.engHome c.hart c.phys c.words.dspace true a with
    | .ok l => some (l, s.engByte c l)
    | .error _ => none

/-- Read what is left of the source, land what has been read, and end, park or wait (13 R300, R301). -/
def State.runCopy (s : State) (c : Cmd) : Except Halt State :=
  if copyBad c.words then .ok (s.endCmd c.k 3) else
  let ps := copyPairs c.words
  let old := c.read.getD []
  let r := s.readSrc c c.words.sspace ((ps.drop old.length).map (·.1))
  let all := old ++ r.1
  match r.2 with
  | some (.wait q) => .ok (State.request (s.updCmd c.k fun x => { x with st := .begun }) q)
  | _ =>
    let todo := (List.zip (ps.map (·.2)) all).drop c.landed
    let kept := if r.2.isNone then [] else s.landingOver c (todo.map (·.1))
    let y := landUnits (fun s a => s.engHome c.hart c.phys c.words.dspace true a) c.origin (c.words.dspace == .glb) (groupWords todo) 0 s
    let t := y.1.updCmd c.k fun x =>
      { x with read := some all, full := r.2.isNone, shadow := x.shadow ++ kept, landed := c.landed + y.2.1, st := .begun }
    match y.2.2, r.2 with
    | some e, _ => t.stopCmd c c.words.dspace true e
    | none, some e => t.stopCmd c c.words.sspace false e
    | none, none => .ok (t.endCmd c.k 0)

/-- COPY_EXECUTE (09 R212, 13 R299): copy command number a runs; it begins only after every earlier copy of its hart has
ended (R302: also on another engine). -/
def execCopyExecute (s : State) : Out :=
  match s.arg with
  | .nums k _ _ =>
    match s.cmds.find? fun c => c.k == k && c.words.lop == 4 && (c.st == .queued || c.st == .begun) with
    | none => .next s
    | some c =>
      if s.cmds.any fun x => x.hart == c.hart && x.words.lop == 4 && decide (x.k < k) then .next s
      else s.outcome (s.runCopy c)
  | _ => .next s

/-! ### The end of a command (09 R211) -/

/-- The status word (09 Table 9-6). -/
def statusWord (done lop code : Nat) : Nat := min done (2 ^ 48 - 1) * 2 ^ 16 + lop * 256 + code

/-- Tokens that a fabric emits from the source endpoints that satisfy p (14 Table 14-6). -/
def Fabric.emitAt (f : Fabric) (p : Nat → Bool) (bad : Bool) : Fabric :=
  let ls := (List.range (imgLinks f.image)).filter fun i => linkCtl (imgLink f.image i) && p (linkSrc (imgLink f.image i))
  { f with tokens := f.tokens ++ ls.map fun i => ⟨i, bad⟩ }

/-- Endpoint of token counter n of hart k of logical Spire l of the group (14 Table 14-3). -/
def counterEp (l k n : Nat) : Nat := 2 * 2 ^ 15 + l * 2048 + k * 256 + n

/-- An engine or a link increments a token counter of a hart, whatever its state; control links from that counter emit
(01 R21, 14 Table 14-6). -/
def State.bump (s : State) (i : HartId) (n : TkIdx) : State :=
  let s := s.updHart i fun h => h.token n
  match s.team i.ctx i.team with
  | none => s
  | some t =>
    let ls := i.lhid / t.perSpire
    if t.task.n = 0 then s else
    s.updGroup i.ctx i.team (ls / t.task.n) fun f => f.emitAt (· == counterEp (ls % t.task.n) (i.lhid % t.perSpire) n.val) false

/-- Write a status word into the issuing logical Spire's scalar data memory (09 Table 9-5). -/
def State.putStatus (s : State) (c : Cmd) (code : Nat) : State :=
  let x := (c.words.w1).toNat
  if !bitAt x 5 then s else
  match s.team c.hart.ctx c.hart.team with
  | none => s
  | some t =>
    s.writeAll c.origin none ⟨.sdm (t.sdmSpire (c.hart.lhid / t.perSpire)) (8 * field x 6 13), 0,
      toBytes 8 (statusWord (if c.words.lop = 7 then 0 else c.landed) c.words.lop code), false, false⟩

/-! ### put.e (09 R214, 13 R311) -/

/-- Blocks of a context's overflow area in use. -/
def State.usedBlocks (s : State) (ctx : Nat) : List Nat := (s.overflow.filter fun o => o.ctx == ctx).flatMap (·.blocks)

/-- The lowest free blocks of a context's overflow area, n of them, if it has them. -/
def State.freeBlocks (s : State) (ctx n : Nat) : Option (List Nat) :=
  match s.context ctx with
  | none => none
  | some c =>
    let used := s.usedBlocks ctx
    let free := (List.range c.ovflen.toNat).filter fun b => !used.contains b
    if free.length < n then none else some (free.take n)

/-- Header of an overflow chunk (13 Table 13-5); its `next` is written by relink. -/
def ovfHeader (o : Overflow) : List Byte :=
  ([0, o.rank % 2 ^ 16 * 2 ^ 32 + o.episode % 2 ^ 16 * 2 ^ 16 + o.id % 256 * 256 + o.kind, o.off, o.len, 0, 0, 0, 0]).flatMap (toBytes 8)

/-- Store bytes with their poison word by word (10 R249). -/
def State.devWords (s : State) : Nat → List (List (Byte × Bool)) → State
  | _, [] => s
  | a, x :: t =>
    State.devWords (State.breakLines { s with dev := s.dev.store a (x.map (·.1)) (x.any (·.2)) } a x.length) (a + 8) t

/-- Append a chunk to a context's overflow list: its header and payload go into free blocks, the chunk before it points to
it, and OVFUSE counts them (13 R310). None when no block is free. -/
def State.overflowPut (s : State) (o : Overflow) (bs : List (Byte × Bool)) : Except Halt (Option State) :=
  match s.context o.ctx with
  | none => .ok none
  | some c =>
    match s.freeBlocks o.ctx (ceilDiv (64 + bs.length) 4096) with
    | none => .ok none
    | some blk =>
      let base := c.ovfbase.toNat / 4096 * 4096
      let all := (ovfHeader { o with len := bs.length }).map (fun b => (b, false)) ++ bs
      let parts := List.zip blk (chunks 4096 blk.length all)
      (parts.foldl (fun (r : Except Halt Unit) x => r.bind fun _ => s.devFree Config.spires (base + 4096 * x.1) x.2.length) (.ok ())).map fun _ =>
        let t := parts.foldl (fun s x => s.devWords (base + 4096 * x.1) (chunks 8 x.2.length x.2)) s
        let used := BitVec.ofNat 32 (s.usedBlocks o.ctx).length + BitVec.ofNat 32 blk.length
        let t : State := { t with overflow := s.overflow ++ [{ o with len := bs.length, blocks := blk }] }
        some ((t.updContext o.ctx fun c =>
          { c with ovfused := used, ovfhwm := if c.ovfhwm < used then used else c.ovfhwm }).relink o.ctx)

/-- The payload of an overflow chunk. -/
def State.overflowBytes (s : State) (o : Overflow) : List (Byte × Bool) :=
  match s.context o.ctx with
  | none => []
  | some c => (List.range o.len).map fun i =>
      s.engineByte (.dev (c.ovfbase.toNat / 4096 * 4096 + 4096 * ((o.blocks[(64 + i) / 4096]?).getD 0) + (64 + i) % 4096))

/-- Free the blocks of the chunks that satisfy p; the list is linked past them. -/
def State.overflowFree (s : State) (ctx : Nat) (p : Overflow → Bool) : State :=
  let t : State := { s with overflow := s.overflow.filter fun o => !(o.ctx == ctx && p o) }
  (t.updContext ctx fun c => { c with ovfused := BitVec.ofNat 32 (t.usedBlocks ctx).length }).relink ctx

/-- What a landing came to. -/
inductive PutEnd
  | done (n : Nat)
  | code (n code : Nat)
  | wait (n : Nat) (r : Req)
  | park (n detail addr : Nat)
  deriving DecidableEq, Repr

/-- Land bytes for an arrival tag in increasing address order; each counts toward the entry, and bytes after the entry is
freed find no tag (12 R282, 13 R311). -/
def State.landPut (s : State) (x : PutIn) (skip : Nat) : State × PutEnd :=
  match s.arrival x.tag with
  | none => (s, .code 0 8)
  | some a =>
    let rest := (List.zip x.bytes (x.poison ++ List.replicate x.bytes.length false)).drop skip
    let take := rest.take (a.total - a.landed)
    let root := ((s.context a.ctx).map fun c => c.ptroot.toNat).getD 0
    let home := fun (s : State) (va : Nat) =>
      match s.translate Config.spires a.ctx false root .store permW va with
      | .ok pa => if s.farFrom Config.spires (.dev pa) 1 then Except.error AccErr.far else .ok (Loc.dev pa)
      | .error e => .error e
    let at0 := x.addr.toNat + skip
    let y := landUnits home ⟨a.ctx, Config.spires⟩ true (groupWords (take.mapIdx fun i b => ((at0 + i) % 2 ^ 64, b))) 0 s
    let t := y.1.landed x.tag y.2.1
    match y.2.2 with
    | none => (t, if rest.length ≤ take.length then .done y.2.1 else .code y.2.1 8)
    | some (.wait r) => (t, .wait y.2.1 r)
    | some .access => (t, .code y.2.1 1)
    | some (.park _ detail addr) => (t, .park y.2.1 detail addr)

/-- Apply the end of a landing: `n0` bytes had landed before; those that have landed now count. A page that faults parks the rest as a
kind 1 chunk, with a record to Cupola 0; with no free block, or while it waits, the port holds back the traffic from the byte that the
answer names (13 R303, R310, R311). A local command whose source faulted part of the way ends with code 0x01 (R301). -/
def State.finishPut (x : PutIn) (n0 : Nat) (r : State × PutEnd) : Except Halt (State × Option Nat) :=
  let s := r.1
  let count := fun (n : Nat) => match x.cmd with
    | some k => s.updCmd k fun c => { c with landed := n0 + n, st := .begun }
    | none => s
  let ends := fun (n : Nat) (code : Cmd → Nat) => match x.cmd with
    | some k => (count n).updCmd k fun c => { c with st := .ended (code c) }
    | none => s
  match r.2 with
  | .done n => .ok (ends n fun c => if x.bytes.length < c.words.b.toNat then 1 else 0, none)
  | .code n code => .ok (ends n fun _ => code, none)
  | .wait n q => .ok (State.request (count n) q, some (n0 + n))
  | .park n detail addr =>
    let ctx := ((s.arrival x.tag).map (·.ctx)).getD x.ctx
    let rest := (List.zip x.bytes (x.poison ++ List.replicate x.bytes.length false)).drop (n0 + n)
    match (count n).overflowPut ⟨ctx, 0, 0, 0, 0, s.nextTicket, 1, 0, n0 + n, 0, []⟩ rest with
    | .error (.stop f) => .error (.stop f)
    | .error (.hold line) => .ok ((count n).snoop line, some (n0 + n))
    | .error .wait | .ok none => .ok (count n, some (n0 + n))
    | .ok (some t) =>
      let lhid := (x.cmd.bind fun k => (s.cmds.find? fun c => c.k == k).map fun c => c.hart.lhid).getD 0xFFFFFFFF
      let t : State := { t with nextTicket := s.nextTicket + 1, landings := t.landings ++ [(⟨s.nextTicket, x, n0 + n⟩ : Landing)] }
      let t := match x.cmd with
        | some k => t.updCmd k fun c => { c with st := .parked s.nextTicket true }
        | none => t
      (stopOnly (t.record 0 (engRecord lhid ctx s.nextTicket .glb true detail addr))).map fun t => (t, none)

/-- Bytes of a `put.e` land from the nth on; the port holds back what it cannot land (13 R310, R311). -/
def State.takePut (s : State) (x : PutIn) (n : Nat) : Except Halt State :=
  (State.finishPut x n (s.landPut x n)).map fun r => match r.2 with
    | none => r.1
    | some k => { r.1 with heldPuts := r.1.heldPuts ++ [(x, k)] }

/-- Send a command's data to another package: it is kept until acknowledged, under the next sequence number (16 R377). -/
def State.sendOut (s : State) (c : Cmd) (pkg : Nat) (bs : List (Byte × Bool)) : State :=
  let b := s.belfry
  let n := ((b.sendSeq.find? fun x => x.1 == pkg).map (·.2)).getD 0
  let kept : Belfry := { b with unacked := b.unacked ++ [⟨pkg, n, c.k, none, 0⟩], sendSeq := (pkg, n + 1) :: b.sendSeq.filter fun x => x.1 != pkg }
  State.updCmd { s with belfry := kept.sendOn pkg n } c.k
    fun x => { x with read := some bs, full := true, st := .begun }

/-- A `put.e` to another package: its source is read and sent. -/
def State.sendPut (s : State) (c : Cmd) : Except Halt State :=
  let r := s.readSrc c c.words.sspace ((List.range c.words.b.toNat).map fun i => (c.words.d.toNat + i) % 2 ^ 64)
  match r.2 with
  | some e => s.stopCmd c c.words.sspace false e
  | none => .ok (s.sendOut c (c.words.w3.toNat % 2 ^ 16) r.1)

/-- A `put.e`: read its source, then land it here or send it. -/
def State.runPut (s : State) (c : Cmd) : Except Halt State :=
  let n := c.words.b.toNat
  if n = 0 ∨ 2 ^ 32 < n then .ok (s.endCmd c.k 3) else
  if c.words.w3.toNat % 2 ^ 16 ≠ Config.ownPackage then s.sendPut c else
  if (s.arrival c.words.w2.toNat).isNone then .ok (s.endCmd c.k 8) else
  let r := s.readSrc c c.words.sspace ((List.range n).map fun i => (c.words.d.toNat + i) % 2 ^ 64)
  let x : PutIn := ⟨c.hart.ctx, c.words.w2.toNat, c.words.a, r.1.map (·.1), r.1.map (·.2), some c.k, none⟩
  match r.2 with
  | some (.wait q) => .ok (State.request s q)
  | some (.park _ detail addr) => s.parkCmd c c.words.sspace false detail addr
  | _ => (s.updCmd c.k fun y => { y with full := true }).takePut x 0

/-- An earlier command of the same kind of the same hart has not ended (10 R244, request order). -/
def State.behindOwn (s : State) (c : Cmd) : Bool :=
  s.cmds.any fun x => x.hart == c.hart && x.words.lop == c.words.lop && decide (x.k < c.k)

/-- Landing number k of those that the port holds back is tried again, after those of its tag that stand before it; once it has landed its
Etesian port returns the credit (13 R310). -/
def State.tryHeld (s : State) (k : Nat) : Except Halt State :=
  match s.heldPuts[k]? with
  | none => .ok s
  | some (x, n) =>
    if (s.heldPuts.take k).any fun y => y.1.tag == x.tag then .ok s else
    (State.finishPut x n (s.landPut x n)).map fun r => match r.2, x.port with
      | none, none => { r.1 with heldPuts := s.heldPuts.eraseIdx k }
      | none, some p => { r.1 with heldPuts := s.heldPuts.eraseIdx k, belfry := r.1.belfry.owe p }
      | some m, _ => { r.1 with heldPuts := s.heldPuts.set k (x, m) }

/-- Continue a parked landing (13 R311 item 3). -/
def State.retryLanding (s : State) (l : Landing) : Except Halt State :=
  let t := State.overflowFree { s with landings := s.landings.filter fun x => x.ticket != l.ticket }
    (((s.arrival l.x.tag).map (·.ctx)).getD l.x.ctx) fun o => o.kind == 1 && o.chunk == l.ticket
  State.takePut (match l.x.cmd with
    | some k => t.updCmd k fun c => { c with st := .begun }
    | none => t) l.x l.done

/-- A parked landing fails: the issuer's command ends with code 0x02 (13 R311 item 4). -/
def State.failLanding (s : State) (l : Landing) : State :=
  let t := State.overflowFree { s with landings := s.landings.filter fun x => x.ticket != l.ticket }
    (((s.arrival l.x.tag).map (·.ctx)).getD l.x.ctx) fun o => o.kind == 1 && o.chunk == l.ticket
  match l.x.cmd with
  | some k => (t.updCmd k fun c => { c with landed := l.done }).endCmd k 2
  | none => t

end Sys2Proof.Machine
end

