-- ==== Sys2Proof/Machine/Collectives.lean ====
section
/-! DEFINITION. Collective episodes, and the runtime's answers to parked work (13 R304-R310). -/
namespace Sys2Proof.Machine

/-! ### Placement and headers (13 R305, 14 R323) -/

/-- The collective entry of an image for an id (14 R323). -/
def Fabric.collEntry (f : Fabric) (id : Nat) : Option (BitVec 64) :=
  ((List.range (imgCtrls f.image)).map (imgCtrl f.image)).find? fun w => field w.toNat 56 4 == 1 && field w.toNat 48 8 == id

/-- Position of this package in the group of an entry. -/
def State.groupPos (s : State) (w : BitVec 64) : Nat :=
  match s.belfry.groups.find? fun g => g.1 == field w.toNat 18 16 with
  | none => 0
  | some g => g.2.idxOf Config.ownPackage

/-- Rank of a hart under an entry, and the number of ranks. -/
def State.rankOf (s : State) (t : Team) (w : BitVec 64) (lhid : Nat) : Option Nat × Nat :=
  let npkg := field w.toNat 34 13
  if bitAt w.toNat 47 then
    (if lhid % t.perSpire = 0 then some (s.groupPos w * t.task.nspire + lhid / t.perSpire) else none, npkg * t.task.nspire)
  else (some (s.groupPos w * t.nhart + lhid), npkg * t.nhart)

/-- Header fields of a `coll`: kind, format, operator, id, root, count. -/
def CmdWords.collKind (w : CmdWords) : Nat := w.fields.psub % 8
def CmdWords.collFmt (w : CmdWords) : Option Format := Format.ofCode (field w.w2.toNat 0 5)
def CmdWords.collOp (w : CmdWords) : Nat := field w.w2.toNat 5 3
def CmdWords.collId (w : CmdWords) : Nat := field w.w2.toNat 8 8
def CmdWords.collRoot (w : CmdWords) : Nat := field w.w2.toNat 16 16
/-- Two commands carry the same header. -/
def CmdWords.sameHeader (x y : CmdWords) : Bool := x.collKind == y.collKind && x.w2 == y.w2 && x.b == y.b
/-- The header's format, operator, count and root are permitted (13 R305, Table 13-3, 09 R213). -/
def CmdWords.collOk (w : CmdWords) (ranks : Nat) : Bool :=
  (match w.collFmt with
    | some f => combOk f w.collOp
    | none => false) && decide (w.b.toNat ≤ 2 ^ 40) && decide (w.collRoot < ranks)

/-- The episode of a team, id and number. -/
def Episode.is (e : Episode) (ctx team id number : Nat) : Bool :=
  e.ctx == ctx && e.team == team && e.id == id && e.number == number
/-- Change an episode. -/
def State.updEpisode (s : State) (e : Episode) (f : Episode → Episode) : State :=
  { s with episodes := s.episodes.map fun x => if x.is e.ctx e.team e.id e.number then f x else x }
/-- An episode ends at every rank with a code. -/
def State.endEpisode (s : State) (e : Episode) (code : Nat) : State :=
  let s := e.ranks.foldl (fun s r => s.endCmd r.cmd code) s
  State.overflowFree { s with episodes := s.episodes.filter fun x => !(x.is e.ctx e.team e.id e.number) } e.ctx fun o =>
    o.kind == 0 && o.team == e.team && o.id == e.id && o.episode == e.number

/-- The fabric, in place or saved, that holds the active image of a team (13 R305, 15 R348). -/
def State.activeFabric (s : State) (ctx team : Nat) : Option Fabric :=
  (s.fabrics.find? fun f => f.ctx == ctx && f.team == team && f.state != .none && !f.image.isEmpty).or
    ((s.team ctx team).bind fun t => t.fabric.head?)

/-- Ranks of the placement of an episode. -/
def State.episodeSize (s : State) (e : Episode) : Nat :=
  match s.team e.ctx e.team with
  | none => 0
  | some t =>
    match (s.activeFabric e.ctx e.team).bind fun f => f.collEntry e.id with
    | none => 0
    | some w => (s.rankOf t w 0).2

/-- The chunks of an episode for a receiving rank that came before it joined. -/
def Overflow.isFor (o : Overflow) (e : Episode) (rank : Nat) : Bool :=
  o.kind == 0 && o.ctx == e.ctx && o.team == e.team && o.id == e.id && o.episode == e.number && o.dst == rank

/-- A rank that joins consumes the chunks that came for it, in the order of the list, and frees their blocks (13 R310). -/
def State.consume (s : State) (e : Episode) (rank : Nat) : State :=
  let mine := s.overflow.filter fun o => o.isFor e rank
  if mine.isEmpty then s else
  let t := s.updEpisode e fun x => { x with early := x.early ++ mine.map fun o => (o.rank, o.off, s.overflowBytes o) }
  t.overflowFree e.ctx fun o => o.isFor e rank

/-- A rank joins its episode; when every rank has joined, headers are compared (13 R305). -/
def State.join (s : State) (c : Cmd) (rank size : Nat) : State :=
  let ctx := c.hart.ctx
  let team := c.hart.team
  let id := c.words.collId
  let n := (((s.team ctx team).bind fun t => t.colls.find? fun x => x.1 == id && x.2.1 == rank).map (·.2.2)).getD 0
  let s : State := s.updTeam ctx team fun t => { t with colls := (id, rank, n + 1) :: t.colls.filter fun x => !(x.1 == id && x.2.1 == rank) }
  let s : State := if s.episodes.any fun e => e.is ctx team id n then s
    else { s with episodes := s.episodes ++ [⟨ctx, team, id, n, [], [], [], []⟩] }
  let s : State := s.updCmd c.k fun x => { x with st := .begun, episode := n }
  let eps : List Episode := s.episodes.map fun (e : Episode) => if e.is ctx team id n then { e with ranks := e.ranks ++ [⟨rank, c.k⟩] } else e
  let s : State := { s with episodes := eps }
  match eps.find? fun (e : Episode) => e.is ctx team id n with
  | none => s
  | some e =>
    let s := s.consume e rank
    if e.ranks.length < size then s else
    let cs := s.cmds.filter fun (x : Cmd) => e.ranks.any fun r => r.cmd == x.k
    if cs.all (fun (x : Cmd) => x.words.sameHeader c.words) && c.words.collOk size then s else s.endEpisode e 3

/-- COLL_EXECUTE (13 R305): collective command number a joins. -/
def execCollExecute (s : State) : Out :=
  match s.arg with
  | .nums k _ _ =>
    match s.cmds.find? fun c => c.k == k && c.words.lop == 5 && c.st == .queued with
    | none => .next s
    | some c =>
      if s.cmds.any fun x => x.hart == c.hart && x.words.lop == 5 && x.st == .queued && decide (x.k < k) then .next s else
      match s.team c.hart.ctx c.hart.team, s.findHart c.hart with
      | some t, some _ =>
        match (s.activeFabric c.hart.ctx c.hart.team).bind fun f => f.collEntry c.words.collId with
        | none => .next (s.endCmd k 9)
        | some w =>
          match s.rankOf t w c.hart.lhid with
          | (none, _) => .next (s.endCmd k 9)
          | (some r, size) => .next (s.join c r size)
      | _, _ => .next (s.endCmd k 9)
  | _ => .next s

/-! ### Data (13 R306-R309) -/

/-- Bytes of an element. -/
def elemBytes (w : CmdWords) : Nat := fmtWidth (w.collFmt.getD .i8) / 8

/-- Bytes that rank r reads from its source (13 Table 13-2). -/
def srcBytes (w : CmdWords) (r size : Nat) : Nat :=
  let n := w.b.toNat * elemBytes w
  match w.collKind with
  | 2 => if r = w.collRoot then n else 0
  | 4 => size * n
  | _ => n

/-- Element i of a byte list. -/
def eltAt (bs : List (Byte × Bool)) (e i : Nat) : Elt :=
  let x := (bs.drop (e * i)).take e
  ⟨(byteVal x).1, (byteVal x).2⟩

/-- The bytes of an element. -/
def eltBytes (e : Nat) (x : Elt) : List (Byte × Bool) := (toBytes e x.val).map fun b => (b, x.bad)

/-- The reduction over ranks of elements i to i + n - 1, as bytes (13 R307). -/
def reduceBytes (w : CmdWords) (src : List (List (Byte × Bool))) (i n : Nat) : List (Byte × Bool) :=
  let e := elemBytes w
  (List.range n).flatMap fun j => eltBytes e (combine (w.collFmt.getD .i8) w.collOp (src.map fun x => some (eltAt x e (i + j))))

/-- Destination bytes of every rank from the sources in rank order (13 Table 13-2, R308). -/
def collResult (w : CmdWords) (src : List (List (Byte × Bool))) : List (List (Byte × Bool)) :=
  let n := w.b.toNat
  match w.collKind with
  | 0 => let r := reduceBytes w src 0 n; src.map fun _ => r
  | 1 => src.mapIdx fun k _ => if k = w.collRoot then reduceBytes w src 0 n else []
  | 2 => src.map fun _ => (src[w.collRoot]?).getD []
  | 3 => src.map fun _ => src.flatten
  | _ => src.mapIdx fun k _ => reduceBytes w src (k * n) n

/-- The ranks of an episode with their commands, in rank order. -/
def State.rankCmds (s : State) (e : Episode) (size : Nat) : List (Nat × Cmd) :=
  (List.range size).filterMap fun r => (e.ranks.find? fun x => x.rank == r).bind fun x =>
    (s.cmds.find? fun c => c.k == x.cmd).map fun c => (r, c)

/-- Park an item of an episode under a new ticket with its record. -/
def State.parkRank (s : State) (e : Episode) (c : Cmd) (rank : Nat) (chunk : Option Nat) (space : Space) (detail addr : Nat) :
    Except Halt State :=
  let t := State.updEpisode { s with nextTicket := s.nextTicket + 1 } e fun x =>
    { x with parked := x.parked ++ [(rank, s.nextTicket, chunk)] }
  stopOnly (t.record (cupolaOf c.phys) (engRecord c.hart.lhid c.hart.ctx s.nextTicket space chunk.isSome detail addr))

/-- A byte of a rank's source that a consumed chunk holds. -/
def Episode.earlyByte (e : Episode) (rank i : Nat) : Option (Byte × Bool) :=
  e.early.findSome? fun x => if x.1 = rank ∧ x.2.1 ≤ i then x.2.2[i - x.2.1]? else none

/-- The source bytes of a rank: those of consumed chunks, and the others read now, up to one that stops the engine. -/
def State.rankBytes (s : State) (e : Episode) (rank : Nat) (c : Cmd) (n : Nat) : List (Byte × Bool) × Option EngStop :=
  let all := List.range n
  let r := s.readSrc c c.words.sspace ((all.filter fun i => (e.earlyByte rank i).isNone).map fun i => (c.words.d.toNat + i) % 2 ^ 64)
  ((all.foldl (fun (acc : List (Byte × Bool) × List (Byte × Bool)) i =>
    match e.earlyByte rank i, acc.2 with
    | some b, l => (b :: acc.1, l)
    | none, b :: l => (b :: acc.1, l)
    | none, [] => acc) ([], r.1)).1.reverse, r.2)

/-- Read every source and form the result, or stop. -/
def State.form (s : State) (e : Episode) (size : Nat) : Except Halt State :=
  let cs := s.rankCmds e size
  let rs := cs.map fun x => (x, s.rankBytes e x.1 x.2 (srcBytes x.2.words x.1 size))
  match rs.find? fun r => r.2.2.isSome, cs.head? with
  | some (_, _, some (.wait q)), _ => .ok (State.request s q)
  | some (_, _, some .access), _ => .ok (s.endEpisode e 1)
  | some (x, _, some (.park _ detail addr)), _ => s.parkRank e x.2 x.1 none x.2.words.sspace detail addr
  | _, none => .ok s
  | _, some c =>
    let s := cs.foldl (fun s x => s.updCmd x.2.k fun y => { y with full := true }) s
    .ok (s.updEpisode e fun y => { y with result := collResult c.2.words (rs.map fun r => r.2.1), early := [] })

/-- Bytes of a chunk (13 R307). -/
def chunkBytes : Nat := 65536

/-- The episode's commands that have not ended. -/
def State.unended (s : State) (e : Episode) : Bool :=
  e.ranks.any fun r => (s.cmds.find? fun c => c.k == r.cmd).any fun c => c.st == .begun

/-- The rank from whose source byte `off` of a rank's result comes: the root of a broadcast, the owner of a part of a gather; what
several ranks' sources combine to comes from the rank itself (13 Table 13-5; log 57). -/
def collSource (w : CmdWords) (rank off : Nat) : Nat :=
  match w.collKind with
  | 2 => w.collRoot
  | 3 => off / max 1 (w.b.toNat * elemBytes w)
  | _ => rank

/-- Land the next bytes of a rank up to the end of its chunk (13 R309). -/
def State.landRank (s : State) (e : Episode) (rank : Nat) (c : Cmd) : Except Halt State :=
  let bs := (e.result[rank]?).getD []
  let upto := min bs.length ((c.landed / chunkBytes + 1) * chunkBytes)
  let todo := (bs.take upto).drop c.landed
  let y := landUnits (fun s a => s.engHome c.hart c.phys c.words.dspace true a) c.origin (c.words.dspace == .glb)
    (groupWords (todo.mapIdx fun i b => ((c.words.a.toNat + c.landed + i) % 2 ^ 64, b))) 0 s
  let n := c.landed + y.2.1
  let t := y.1.updCmd c.k fun x => { x with landed := n }
  match y.2.2 with
  | none =>
    let t := if n = bs.length then t.endCmd c.k 0 else t
    .ok (if t.unended e then t else { t with episodes := t.episodes.filter fun x => !(x.is e.ctx e.team e.id e.number) })
  | some (.wait q) => .ok (State.request t q)
  | some .access => .ok (t.endEpisode e 1)
  | some (.park _ detail addr) =>
    (t.overflowPut ⟨e.ctx, e.team, e.id, e.number, collSource c.words rank n, c.landed / chunkBytes, 0, rank, n, 0, []⟩ (todo.drop y.2.1)).bind fun o => match o with
    | none => .ok t
    | some u => u.parkRank e c rank (some (c.landed / chunkBytes)) c.words.dspace detail addr

/-- A chunk of source rank `rank` that arrives for rank `dst`, which has not joined, goes to the overflow list; with no free block its
sender waits (13 R310). -/
def State.unexpected (s : State) (e : Episode) (rank chunk dst : Nat) : Except Halt State :=
  match (e.ranks.find? fun r => r.rank == rank).bind fun r => s.cmds.find? fun c => c.k == r.cmd with
  | none => .ok s
  | some c =>
    if e.ranks.any (fun r => r.rank == dst) || s.overflow.any fun o => o.isFor e dst && o.rank == rank && o.chunk == chunk then .ok s else
    let n := min chunkBytes (srcBytes c.words rank (s.episodeSize e) - chunk * chunkBytes)
    let r := s.readSrc c c.words.sspace ((List.range n).map fun i => (c.words.d.toNat + chunk * chunkBytes + i) % 2 ^ 64)
    if n = 0 ∨ r.2.isSome then .ok s
    else (s.overflowPut ⟨e.ctx, e.team, e.id, e.number, rank, chunk, 0, dst, chunk * chunkBytes, 0, []⟩ r.1).map fun o => o.getD s

/-- An earlier collective of the same hart comes first (10 R244 item 1): it has not ended, and no chunk of its episode is parked, which
lets other episodes continue (13 R309). -/
def State.behindColl (s : State) (c : Cmd) : Bool :=
  s.cmds.any fun x => x.hart == c.hart && x.words.lop == 5 && decide (x.k < c.k) &&
    !s.episodes.any fun e => !e.parked.isEmpty && e.ranks.any fun r => r.cmd == x.k

/-- COLL_CHUNK_ARRIVAL (13 R307-R310): the next chunk lands at a rank, once every rank has joined. A parked chunk holds up those
after it in its episode, and an earlier collective of a hart what a later one reads and lands (10 R244 item 1). -/
def execCollChunkArrival (s : State) : Out :=
  match s.arg with
  | .chunk ctx team id ep rank chunk dst =>
    match s.episodes.find? fun e => e.is ctx team id ep with
    | none => .next s
    | some e =>
      let size := s.episodeSize e
      if size = 0 then .next s
      else if e.ranks.length < size then (if dst < size then s.outcome (s.unexpected e rank chunk dst) else .next s)
      else if !e.parked.isEmpty then .next s
      else
        match (if !e.result.isEmpty then .ok s
            else if (s.rankCmds e size).any fun x => s.behindColl x.2 then .ok s else s.form e size) with
        | .error x => s.outcome (.error x)
        | .ok t =>
          match t.episodes.find? fun e => e.is ctx team id ep with
          | none => .next t
          | some e =>
            match (t.rankCmds e size).find? fun x => x.1 == rank with
            | none => .next t
            | some (_, c) =>
              if e.result.isEmpty ∨ c.st ≠ .begun ∨ chunk ≠ c.landed / chunkBytes ∨ t.behindColl c then .next t
              else t.outcome (t.landRank e rank c)
  | _ => .next s

/-! ### Verdicts (13 R304) -/

/-- The ticket number that a written PKRESP value names. -/
def ticketIs (v : Word) (n : Nat) : Bool := Config.ticketBase n % 2 ^ 56 == v.toNat / 256

/-- Fail one parked item as verdict 1 does. -/
def State.failTicket (s : State) (p : Nat → Bool) : State :=
  match s.landings.find? fun l => p l.ticket with
  | some l => s.failLanding l
  | none =>
    match s.cmds.find? fun c => match c.st with
      | .parked n _ => p n
      | _ => false with
    | some c => s.endCmd c.k 2
    | none =>
      match s.episodes.find? fun e => e.parked.any fun x => p x.2.1 with
      | some e => s.endEpisode e 2
      | none => s

/-- PKRESP_FAIL: the command, or the episode at every rank, ends with code 0x02. -/
def execPkrespFail (s : State) : Out :=
  match s.arg with
  | .value _ v => .next (s.failTicket (ticketIs v))
  | _ => .next s

/-! ### Fetching ahead (13 R293, R294) -/

/-- One past the last word of a sort that is held ahead. -/
def Stream.nextAhead (x : Stream) (first : Nat) : Nat :=
  x.ahead.foldl (fun m y => if y.index then m else max m (y.pos + 1)) first

/-- What the engine may fetch next for a pattern: an affine stream in increasing j, an indirect one any element of the window after
its index: index entry or element, number, address, bytes. -/
def Stream.aheadPattern (x : Stream) (n window : Nat) : Option (Bool × Nat × Nat × Nat) :=
  let first := x.unit x.n.toNat
  let j := if x.kind = kAffine then x.nextAhead first else x.unit n
  let e := if x.width = 4 then 2 * j else j
  if x.dir || !x.complete || x.done || decide (j < first) || decide (x.total ≤ e) || decide (x.n.toNat + window ≤ e)
    || x.ahead.any (fun y => !y.index && y.pos == j) then none
  else if x.kind = kAffine then some (false, j, x.ea j (x.i3 j * x.str 3), x.unitBytes)
  else
    match x.ahead.find? fun y => y.index && y.pos == x.i3 j with
    | none => some (true, x.i3 j, x.idxAddr (x.i3 j), x.ib)
    | some y => if y.fault.isSome || y.bad then none else some (false, j, x.ea j (y.val * x.str 3), x.unitBytes)

/-- What the engine may fetch next for a fibre, an input of a derived stream included: coordinates, or words of a bitmap. -/
def Stream.aheadFibre (x : Stream) (window : Nat) : Option (Bool × Nat × Nat × Nat) :=
  if x.pend || x.badPos || x.done then none else
  match x.lvk.toNat with
  | 0 => none
  | 2 =>
    let k := x.nextAhead (x.pos / 64)
    let held := x.ahead.foldl (fun n y => n + popcount 64 y.val) 0
    if x.fin ≤ 64 * k ∨ window < held + 64 then none else some (false, k, x.bitAddr k, 8)
  | _ =>
    let k := x.nextAhead x.pos
    if x.fin ≤ k ∨ x.len ≤ k ∨ x.pos + window ≤ k then none else some (false, k, x.crdAddr k, x.ib)

/-- STREAM_FETCH_AHEAD: the engine reads the next word of an input stream ahead of its delivery, up to 2 x VLMAX elements (for an
indirect stream element n), with the whole aligned 8-byte words that it lies in; a fault is held and has no effect until a delivery needs the word. -/
def execStreamFetchAhead (s : State) : Out :=
  match s.arg with
  | .stream i q n =>
    match s.findHart i with
    | none => .next s
    | some h =>
      let x := h.regs.q[q]
      let w := 2 * h.vlmax x.width
      if h.hcr.run != 1 || h.out || decide (2 < h.hcr.sstate.toNat) then .next s else
      match (if x.kind = kAffine ∨ x.kind = kIndirect then x.aheadPattern n w else if x.kind = kFibre then x.aheadFibre w else none) with
      | none => .next s
      | some (index, pos, a, bytes) =>
        let keep := fun (u : State) (y : Ahead) => u.updHart i fun h => { h with regs := h.regs.setQ q { x with ahead := x.ahead ++ [y] } }
        let here := s.focus i
        let words := match x.held a bytes with
          | some bs => bs.mapIdx fun i b => (a + i, b)
          | none => here.wordsAround x.sp a bytes
        match here.streamGet x index pos a bytes 0 with
        | .ok (u, e) => .next (State.focus (keep u ⟨index, pos, e.val, e.bad, none, words⟩) s.hart.id)
        | .error (.sys cause detail _ _ addr _ _) => .next (keep s ⟨index, pos, 0, false, some (cause, detail, addr), []⟩)
        | .error (.wait _ r) => .next (State.request s r)
        | .error _ => .next s
  | _ => .next s

end Sys2Proof.Machine
end

