-- ==== Sys2Proof/Machine/FabricImage.lean ====
section
/-! DEFINITION. The firmware's checks of a fabric image (14 R317-R325, R332-R334, Table 14-7). -/
namespace Sys2Proof.Machine

/-- What the checks know beside the image: the team's group size and lanes, the working routers of the Cupola, the router
beside each logical Spire of the group (empty where placement is not judged, 15 R359), the package groups, and the team's groups. -/
structure FabEnv where
  n       : Nat
  lanes   : Nat
  routers : List Nat
  spires  : List Nat
  placed  : Bool
  pgroups : List Nat
  groups  : Nat
  deriving DecidableEq, Repr

/-- An endpoint (14 Table 14-3). -/
inductive Ep
  | port (l q g : Nat)
  | node (i t : Nat)
  | counter (l k n : Nat)
  | none
  deriving DecidableEq, Repr

/-- The endpoint of an 18-bit field. -/
def epOf (e : Nat) : Ep :=
  match field e 15 3 with
  | 0 => .port (field e 11 4) (field e 0 4) 0
  | 1 => .node (field e 8 7) (field e 0 4)
  | 2 => .counter (field e 11 4) (field e 8 3) (field e 0 4)
  | 3 => .port (field e 11 4) (field e 0 4) (field e 4 7)
  | _ => .none

/-- Reserved bits of an endpoint that are not 0, or a group offset of 0. -/
def epRsv (e : Nat) : Bool :=
  match field e 15 3 with
  | 0 => field e 4 7 != 0
  | 1 | 2 => field e 4 4 != 0
  | 3 => field e 4 7 == 0
  | _ => false

/-- Numbers of words. -/
def imgRoutes (img : List (BitVec 64)) : Nat := field ((img[1]?).getD 0).toNat 48 16
def imgWords (img : List (BitVec 64)) : Nat := imgLinks img + imgNodes img + imgCtrls img + imgRoutes img
/-- ROUTE word number i. -/
def imgRoute (img : List (BitVec 64)) (i : Nat) : BitVec 64 := (img[8 + imgLinks img + imgNodes img + imgCtrls img + i]?).getD 0
/-- Logical Spires of an image. -/
def imgSpires (img : List (BitVec 64)) : Nat := field ((img[0]?).getD 0).toNat 40 8
/-- Addresses of the alternative and of the next image. -/
def imgAlt (img : List (BitVec 64)) : Nat := ((img[2]?).getD 0).toNat
def imgNext (img : List (BitVec 64)) : Nat := ((img[3]?).getD 0).toNat

/-- The sort of a terminal of a node: data true, control false (14 Table 14-5). -/
def nodeTerm (w : BitVec 64) (t : Nat) : Option Bool :=
  let k := nodeKind w
  let out (n : Nat) : Bool := decide (8 ≤ t) && decide (t < 8 + n)
  let inp (n : Nat) : Bool := decide (t < n)
  match k with
  | 0 | 3 | 4 => if t = 0 ∨ t = 8 then some true else none
  | 1 => if t = 0 ∨ t = 7 ∨ out (nodeNout w) then some true else none
  | 2 => if inp (nodeNin w) ∨ t = 8 ∨ (t = 7 ∧ nodeOp w = 0) then some true else none
  | 5 => if inp (nodeNin w) ∨ t = 8 then some true else none
  | 6 => if t = 0 ∨ out (nodeNout w) then some true else none
  | 7 => if t = 0 ∨ t = 8 then some true else if t = 7 then some false else none
  | 8 | 9 | 10 => if inp (nodeNout w) ∨ out (nodeNout w) ∨ t = 7 ∨ t = 15 then some false else none
  | 11 => if t = 7 then some false else none
  | _ => none

/-- A controller. -/
def isCtrl (k : Nat) : Bool := decide (8 ≤ k) && decide (k ≤ 10)

/-- Link i of the image as its fields. -/
structure LinkInfo where
  i    : Nat
  ctl  : Bool
  sfmt : Nat
  dfmt : Nat
  slots : Nat
  k    : Nat
  src  : Ep
  dst  : Ep
  deriving DecidableEq, Repr

/-- The LINK words. -/
def imgLinkInfo (img : List (BitVec 64)) : List LinkInfo :=
  (List.range (imgLinks img)).map fun i =>
    let w := imgLink img i
    ⟨i, linkCtl w, field w.toNat 54 5, field w.toNat 49 5, linkSlots w, linkK w, epOf (linkSrc w), epOf (linkDst w)⟩
/-- The data links. -/
def imgData (img : List (BitVec 64)) : List LinkInfo := (imgLinkInfo img).filter fun l => !l.ctl

/-! ### 0x01 to 0x03 -/

/-- The header is malformed. -/
def badHeader (env : FabEnv) (img : List (BitVec 64)) : Bool :=
  let h0 := ((img[0]?).getD 0).toNat
  field h0 0 32 != 0x47464358 || field h0 32 8 != 1 || imgSpires img == 0 || decide (16 < imgSpires img) || imgSpires img != env.n
    || decide (256 < imgLinks img) || decide (128 < imgNodes img) || decide (64 < imgCtrls img) || decide (256 < imgRoutes img)
    || field h0 48 16 != 0 || (List.range 4).any fun i => (img[4 + i]?).getD 0 != 0

/-- Container width of a format code; a code that Table 3-11 does not define is out of range. -/
def codeWidth (c : Nat) : Nat := ((Format.ofCode c).map fmtWidth).getD 8

/-- A LINK word with a reserved field or a value out of range. -/
def badLinkFields (img : List (BitVec 64)) (l : LinkInfo) : Bool :=
  let w := imgLink img l.i
  let permit := l.ctl && match l.dst with
    | .node j t => decide (j < imgNodes img) && nodeKind (imgNode img j) == 7 && t == 7
    | _ => false
  field w.toNat 60 4 != 1 || bitAt w.toNat 0 || epRsv (linkSrc w) || epRsv (linkDst w) || decide (32 < l.slots)
    || (l.ctl && (l.sfmt != 0 || l.dfmt != 0 || l.slots != 0))
    || (!l.ctl && ((Format.ofCode l.sfmt).isNone || (Format.ofCode l.dfmt).isNone))
    || (if permit then l.k == 0 || decide (32 < l.k) else l.k != 0)

/-- Bits [44:0] that a kind leaves unused. -/
def nodeUnused (k : Nat) (w : Nat) : Nat :=
  match k with
  | 3 => 0
  | 2 | 5 => field w 0 42
  | 8 | 9 | 10 => field w 0 13
  | _ => field w 0 45

/-- Elements that a slot of the output link of node j holds at most. -/
def delayE (env : FabEnv) (img : List (BitVec 64)) (j : Nat) : Nat :=
  let w := codeWidth (field (imgNode img j).toNat 45 5)
  let d := ((imgData img).find? fun l => l.src == .node j 8).map fun l => codeWidth l.dfmt
  env.lanes * 512 / max w (d.getD w)

/-- A NODE word with a reserved field, a field that its kind does not use (controllers and reconf nodes carry no data, and so no
format) or a value out of range. -/
def badNodeFields (env : FabEnv) (img : List (BitVec 64)) (j : Nat) : Bool :=
  let w := imgNode img j
  field w.toNat 60 4 != 2 || (decide (8 ≤ nodeKind w) && decide (nodeKind w < 12) && field w.toNat 45 5 != 0) || (decide (nodeKind w < 12) && nodeUnused (nodeKind w) w.toNat != 0)
    || (nodeKind w == 3 && decide (delayE env img j < field w.toNat 32 13))

/-- A CTRL word with a reserved field, or of a reserved kind. -/
def badCtrlFields (w : BitVec 64) : Bool :=
  field w.toNat 60 4 != 3 || match field w.toNat 56 4 with
    | 0 => field w.toNat 0 49 != 0
    | 1 => field w.toNat 0 18 != 0
    | _ => true

/-- A ROUTE word with a reserved field, or a hint out of range. -/
def badRouteFields (w : BitVec 64) : Bool :=
  field w.toNat 60 4 != 4 || decide (2 < field w.toNat 49 3) || field w.toNat 0 41 != 0
    || (field w.toNat 49 3 != 2 && field w.toNat 41 8 != 0)

/-- An endpoint that is undefined, or of the wrong direction or sort for its link. -/
def badEp (img : List (BitVec 64)) (l : LinkInfo) (e : Ep) (out : Bool) : Bool :=
  match e with
  | .none => true
  | .port ls _ _ => decide (imgSpires img ≤ ls)
  | .counter ls _ _ => decide (imgSpires img ≤ ls) || !l.ctl
  | .node j t => decide (imgNodes img ≤ j) || (decide (8 ≤ t) != out) || nodeTerm (imgNode img j) t != some (!l.ctl)

/-- The first word of a section that fails, as a word index. -/
def firstIn (base n : Nat) (p : Nat → Bool) : Option Nat := ((List.range n).find? p).map (base + ·)

/-- Code 0x02. -/
def code02 (env : FabEnv) (img : List (BitVec 64)) : Option Nat :=
  let a := imgLinks img
  let b := a + imgNodes img
  let c := b + imgCtrls img
  (((((imgLinkInfo img).find? (badLinkFields img)).map (·.i)).or (firstIn a (imgNodes img) (badNodeFields env img))).or
    (firstIn b (imgCtrls img) fun i => badCtrlFields (imgCtrl img i))).or (firstIn c (imgRoutes img) fun i => badRouteFields (imgRoute img i))

/-- Code 0x03. -/
def code03 (img : List (BitVec 64)) : Option Nat :=
  let b := imgLinks img + imgNodes img
  let c := b + imgCtrls img
  ((((imgLinkInfo img).find? fun l => badEp img l l.src true || badEp img l l.dst false).map (·.i)).or
    (firstIn b (imgCtrls img) fun i =>
      let w := (imgCtrl img i).toNat
      field w 56 4 == 0 && (decide (imgNodes img ≤ field w 49 7) || !isCtrl (nodeKind (imgNode img (field w 49 7)))))).or
    (firstIn c (imgRoutes img) fun i =>
      let w := (imgRoute img i).toNat
      decide (imgLinks img ≤ field w 52 8) || (field w 49 3 == 2 && decide (imgSpires img ≤ field w 45 4)))

/-! ### 0x04 to 0x07 (14 R325, R334) -/

/-- Vertex of an endpoint: nodes, then logical Spires. -/
def vertex : Ep → Nat
  | .node i _ => i
  | .port l _ _ => 128 + l
  | .counter l _ _ => 128 + l
  | .none => 1000

/-- Vertices reachable from a set by at most `fuel` edges. -/
def reach (edges : List (Nat × Nat)) : Nat → List Nat → List Nat
  | 0, vs => vs
  | fuel + 1, vs => reach edges fuel (vs ++ (edges.filter fun e => vs.contains e.1 && !vs.contains e.2).map (·.2)).eraseDups

/-- An edge lies on a cycle of edges. -/
def onCycle (edges : List (Nat × Nat)) (e : Nat × Nat) : Bool := (reach edges edges.length [e.2]).contains e.1

/-- A node of the delay kind. -/
def isDelay (img : List (BitVec 64)) : Ep → Bool
  | .node j _ => nodeKind (imgNode img j) == 3
  | _ => false

/-- Code 0x04: a cycle of data links of weight 0; a delay node counts as one slot. -/
def code04 (img : List (BitVec 64)) : Option Nat :=
  let zero := (imgData img).filter fun l => l.slots == 0 && !isDelay img l.src && !isDelay img l.dst
  let edges := zero.map fun l => (vertex l.src, vertex l.dst)
  (zero.find? fun l => onCycle edges (vertex l.src, vertex l.dst)).map (·.i)

/-- A join is defined (02 Table 2-6). -/
def joinOk (a b : Nat) : Bool :=
  match Format.ofCode a, Format.ofCode b with
  | some x, some y => x == y || cvtPair y x || (x.group == .f && y.group == .m) || (x.group == .m && y.group == .f)
  | _, _ => false

/-- Code 0x05. -/
def code05 (img : List (BitVec 64)) : Option Nat :=
  let fmt := fun j => field (imgNode img j).toNat 45 5
  ((imgData img).find? fun l =>
    !joinOk l.sfmt l.dfmt
      || (match l.src with
        | .node j _ => fmt j != l.sfmt
        | _ => false)
      || match l.dst with
        | .node j t =>
          let k := nodeKind (imgNode img j)
          if t = 7 ∧ (k = 1 ∨ k = 2) then decide (8 ≤ l.dfmt)
          else if k = 4 then l.dfmt != l.sfmt || !joinOk l.sfmt (fmt j)
          else fmt j != l.dfmt
        | _ => false).map (·.i)

/-- The port that an endpoint of a data link names, in any group (14 R320). -/
def portKey : Ep → Option (Nat × Nat)
  | .port l q _ => some (l, q)
  | _ => none

/-- Code 0x06. -/
def code06 (img : List (BitVec 64)) : Option Nat :=
  let ls := imgLinkInfo img
  let ninth := fun (e : Ep) => match e with
    | .port _ q _ => decide (8 ≤ q)
    | _ => false
  (ls.find? fun l =>
    ninth l.src || ninth l.dst ||
    (if l.ctl then
      (portKey l.dst).isSome || ((portKey l.src).isSome && ls.any fun x => !x.ctl && portKey x.src == portKey l.src)
    else
      let before := (ls.filter fun x => !x.ctl && decide (x.i < l.i)).flatMap fun x => [portKey x.src, portKey x.dst]
      let hit := fun (p : Option (Nat × Nat)) => p.isSome && before.contains p
      hit (portKey l.src) || hit (portKey l.dst) || ((portKey l.src).isSome && portKey l.src == portKey l.dst))).map (·.i)

/-- Smaller of two optional weights. -/
def minW : Option Int → Option Int → Option Int
  | none, y => y
  | x, none => x
  | some x, some y => some (min x y)

/-- Least weight of a simple path from v to goal over weighted edges. -/
def leastPath (edges : List (Nat × Nat × Int)) (goal : Nat) : Nat → List Nat → Nat → Option Int
  | 0, _, _ => none
  | fuel + 1, seen, v =>
    if v = goal then some 0 else
    (edges.filter fun e => e.1 == v && !seen.contains e.2.1).foldl (fun acc e =>
      minW acc ((leastPath edges goal fuel (e.2.1 :: seen) e.2.1).map (· + e.2.2))) none

/-- Code 0x07: on a cycle through terminal 7 of a permit node, the k of its permit nodes exceed the weight of its data
links. The k of a permit node is charged to each edge that enters it. -/
def code07 (img : List (BitVec 64)) : Option Nat :=
  let ls := imgLinkInfo img
  let pl := ls.filter fun l => l.ctl && l.k != 0
  let kOf := fun (v : Nat) => ((pl.filter fun l => vertex l.dst == v).map fun l => (l.k : Int)).foldl (· + ·) 0
  let edges := (imgData img).map (fun l => (vertex l.src, vertex l.dst, (l.slots : Int) + (if isDelay img l.src then 1 else 0) - kOf (vertex l.dst)))
    ++ pl.map fun l => (vertex l.src, vertex l.dst, - kOf (vertex l.dst))
  (pl.find? fun l =>
    match leastPath edges (vertex l.src) (imgNodes img + 17) [vertex l.dst] (vertex l.dst) with
    | some w => decide (w < kOf (vertex l.dst))
    | none => false).map (·.i)

/-! ### 0x08 to 0x0F -/

/-- Bytes of slot storage of a data link (14 R317). -/
def linkBytes (env : FabEnv) (l : LinkInfo) : Nat := max l.slots 1 * env.lanes * 64

/-- Place nodes in increasing index on the lowest router with room: (router, bytes left) and the node's need. The routers
of the nodes, or the first node that finds none. -/
def placeNodes : List (Nat × Nat) → List (Nat × Nat) → Except Nat (List (Nat × Nat))
  | _, [] => .ok []
  | room, (j, b) :: t =>
    match room.find? fun r => decide (b ≤ r.2) with
    | none => .error j
    | some r =>
      (placeNodes (room.map fun x => if x.1 = r.1 then (x.1, x.2 - b) else x) t).map fun l => (j, r.1) :: l

/-- The nodes' routers (14 R317). -/
def nodeRouters (env : FabEnv) (img : List (BitVec 64)) : Except Nat (List (Nat × Nat)) :=
  placeNodes (env.routers.map fun r => (r, 16384)) ((List.range (imgNodes img)).map fun j =>
    (j, ((imgData img).filter fun l => match l.dst with
      | .node i _ => i == j
      | _ => false).foldl (fun n l => n + linkBytes env l) 0))

/-- Code 0x08. -/
def code08 (env : FabEnv) (img : List (BitVec 64)) : Option Nat :=
  let ds := imgData img
  let full := ds.find? fun l => match l.dst with
    | .port ls _ _ => decide (32768 < (ds.filter fun x => decide (x.i ≤ l.i) && match x.dst with
        | .port ls' _ _ => ls' == ls
        | _ => false).foldl (fun n x => n + linkBytes env x) 0)
    | _ => false
  match full, nodeRouters env img with
  | some l, _ => some l.i
  | none, .error j => some (imgLinks img + j)
  | none, .ok _ => none

/-- Start entries: the controllers that they name, in order. -/
def starts (img : List (BitVec 64)) : List (Nat × Nat) :=
  ((List.range (imgCtrls img)).filter fun i => field (imgCtrl img i).toNat 56 4 == 0).map fun i => (i, field (imgCtrl img i).toNat 49 7)

/-- Code 0x09. -/
def code09 (img : List (BitVec 64)) : Option Nat :=
  let ls := imgLinkInfo img
  let ends := fun (l : LinkInfo) => [l.src, l.dst].filter fun e => match e with
    | .node _ _ => true
    | _ => false
  let twice := ls.find? fun l => (ends l).any (fun e => ls.any fun x => decide (x.i < l.i) && (ends x).contains e) || (l.src == l.dst && !(ends l).isEmpty)
  (twice.map (·.i)).or (firstIn (imgLinks img) (imgNodes img) fun j =>
    let w := imgNode img j
    (List.range 16).any fun t =>
      (nodeTerm w t).isSome && !(isCtrl (nodeKind w) && (t == 15 || (t == 7 && (starts img).any fun x => x.2 == j)))
        && !ls.any fun l => (ends l).contains (.node j t))

/-- Code 0x0A. -/
def code0A (img : List (BitVec 64)) : Option Nat :=
  let ls := (imgLinkInfo img).filter (·.ctl)
  let isC := fun (e : Ep) => match e with
    | .node j _ => isCtrl (nodeKind (imgNode img j))
    | _ => false
  let go := ls.filter fun l => isC l.src && isC l.dst && (match l.src, l.dst with
    | .node _ s, .node _ d => d == 7 && decide (s < 15)
    | _, _ => false)
  let edges := go.map fun l => (vertex l.src, vertex l.dst)
  let cyc := (go.find? fun l => onCycle edges (vertex l.src, vertex l.dst)).map (·.i)
  let ss := starts img
  cyc.or ((ss.find? fun x => ls.any (fun l => l.dst == .node x.2 7) || ss.any fun y => decide (y.1 < x.1) && y.2 == x.2).map fun x =>
    imgLinks img + imgNodes img + x.1)

/-- Neighbouring routers of the 4 x 4 mesh. -/
def meshEdges (routers : List Nat) : List (Nat × Nat) :=
  routers.flatMap fun a => (routers.filter fun b =>
    (a / 4 == b / 4 && (a + 1 == b || b + 1 == a)) || (a % 4 == b % 4 && (a + 4 == b || b + 4 == a))).map fun b => (a, b)

/-- The gateway in use: router 0, or 15 (14 R333). -/
def gateway (routers : List Nat) : Option Nat := if routers.contains 0 then some 0 else if routers.contains 15 then some 15 else none

/-- Code 0x0B: unplaceable; judged only where the placement is known. An offset g with (k + g) mod G = k names a port of the own group
(14 Table 14-3). A link between groups has two legs in the Cupola: from its source to the gateway, and from the gateway to its
destination, for the instances that leave and those that arrive (R333). -/
def code0B (env : FabEnv) (img : List (BitVec 64)) : Option Nat :=
  if !env.placed then none else
  if env.spires.length < imgSpires img then some 0xFFFF else
  let ls := imgLinkInfo img
  let far := fun (e : Ep) => match e with
    | .port _ _ g => g % max 1 env.groups != 0
    | _ => false
  let gw := gateway env.routers
  let noGate := gw.isNone
  let farLink := (ls.find? fun l => far l.src || far l.dst).map (·.i)
  let coll := firstIn (imgLinks img + imgNodes img) (imgCtrls img) fun i => field (imgCtrl img i).toNat 56 4 == 1
  if noGate ∧ (farLink.isSome ∨ coll.isSome) then farLink.or coll else
  let nodes := match nodeRouters env img with
    | .ok l => l
    | .error _ => []
  let at' := fun (e : Ep) => match e with
    | .node j _ => ((nodes.find? fun x => x.1 == j).map (·.2)).getD 0
    | .port l _ _ => (env.spires[l]?).getD 0
    | .counter l _ _ => (env.spires[l]?).getD 0
    | .none => 0
  let edges := meshEdges env.routers
  let joined := fun (a b : Nat) => (reach edges 16 [a]).contains b
  (ls.find? fun l =>
    !(if far l.src || far l.dst then joined (at' l.src) (gw.getD 0) && joined (gw.getD 0) (at' l.dst) else joined (at' l.src) (at' l.dst))).map (·.i)

/-- The input and output counts, format and parameters of a node fit its kind (14 R322). -/
def nodeOk (w : BitVec 64) : Bool :=
  let k := nodeKind w
  let i := nodeNin w
  let o := nodeNout w
  let counts := match k with
    | 0 | 3 | 4 | 7 => i == 1 && o == 1
    | 1 | 6 => i == 1 && decide (2 ≤ o)
    | 2 => decide (2 ≤ i) && decide (i ≤ 7) && o == 1
    | 5 => decide (2 ≤ i) && o == 1
    | 8 | 9 | 10 => decide (o ≤ 7) && i == o
    | 11 => i == 1
    | _ => false
  counts && match nodeFmt w with
    | none => false
    | some f =>
      (k != 3 || !(f.group == .m || f.group == .x)) && (k != 2 || decide (nodeOp w < 2)) && (k != 5 || combOk f (nodeOp w))

/-- Code 0x0E. -/
def code0E (img : List (BitVec 64)) : Option Nat := firstIn (imgLinks img) (imgNodes img) fun j => !nodeOk (imgNode img j)

/-- Code 0x0F. -/
def code0F (env : FabEnv) (img : List (BitVec 64)) : Option Nat :=
  let cs := ((List.range (imgCtrls img)).map fun i => (i, (imgCtrl img i).toNat)).filter fun x => field x.2 56 4 == 1
  (cs.zipIdx.find? fun y =>
    let w := y.1.2
    decide (16 ≤ y.2) || field w 34 13 == 0 || decide (4096 < field w 34 13) || !env.pgroups.contains (field w 18 16)
      || cs.any fun z => decide (z.1 < y.1.1) && field z.2 48 8 == field w 48 8).map fun y => imgLinks img + imgNodes img + y.1.1

/-- The load status of a fetched image and the word of its first failure (14 R332, Table 14-7). -/
def checkImage (env : FabEnv) (img : List (BitVec 64)) : Nat × Nat :=
  if badHeader env img then (0x01, 0xFFFF) else
  let r : List (Nat × Option Nat) := [(0x02, code02 env img), (0x03, code03 img), (0x04, code04 img), (0x05, code05 img),
    (0x06, code06 img), (0x07, code07 img), (0x08, code08 env img), (0x09, code09 img), (0x0A, code0A img),
    (0x0B, code0B env img), (0x0E, code0E img), (0x0F, code0F env img)]
  (r.findSome? fun x => x.2.map fun w => (x.1, w)).getD (0, 0)

/-- Outcome of a fetch: the doublewords, or the address, the detail of the walk and the word (14 R319, R339). -/
inductive Fetched
  | words (l : List (BitVec 64))
  | fault (addr detail widx : Nat)
  /-- A word cannot be reached now (16 R374, R379). -/
  | wait
  deriving DecidableEq, Repr

/-- A doubleword as the manager core of Cupola c reads it. -/
def State.mgr8 (s : State) (c a : Nat) : Nat := ofBytes ((List.range 8).map fun i => (s.mgrByte c (.dev (a + i))).1)

/-- Read doublewords of an image in address order, by the manager core of Cupola c. -/
def State.fetchWords (s : State) (c ctx root addr : Nat) (base : Nat) : Nat → List (BitVec 64) → Fetched
  | 0, acc => .words acc.reverse
  | n + 1, acc =>
    match s.translate Config.spires ctx false root .load permR addr with
    | .error (.bad _ detail) => .fault addr detail (if acc.length + base < 8 then 0xFFFF else acc.length + base - 8)
    | .error _ => .wait
    | .ok pa => if s.farFrom (16 * c) (.dev pa) 8 then .wait else s.fetchWords c ctx root (addr + 8) base n (BitVec.ofNat 64 (s.mgr8 c pa) :: acc)

/-- Read an image: its header, then as many words as it counts, before any check (14 R319). -/
def State.fetchImage (s : State) (c ctx root addr : Nat) : Fetched :=
  match s.fetchWords c ctx root addr 0 8 [] with
  | .fault a d w => .fault a d w
  | .wait => .wait
  | .words h =>
    match s.fetchWords c ctx root (addr + 64) 8 (imgWords h) [] with
    | .fault a d w => .fault a d w
    | .wait => .wait
    | .words l => .words (h ++ l)

end Sys2Proof.Machine
end

