-- ==== Sys2Proof/Machine/FabricRun.lean ====
section
/-! DEFINITION. The running fabric: activation, conversion and landing of slots, firing of nodes, controllers, tokens and
fabric faults (14 R315, R325-R330, R342). -/
namespace Sys2Proof.Machine

/-! ### Conversion (14 R325) -/

/-- The MX format of a format code. -/
def mxOf : Format → Option MxFmt
  | .mxe4m3 => some .e4m3
  | .mxe5m2 => some .e5m2
  | .mxe3m2 => some .e3m2
  | .mxe2m3 => some .e2m3
  | .mxe2m1 => some .e2m1
  | .mxint8 => some .int8
  | _ => none

/-- The slot as a register. -/
def SlotData.reg (x : SlotData) : VReg := ⟨x.data, x.scale, x.poison, x.scaleBad⟩
/-- A register as a slot of n elements. -/
def slotFrom (n : Nat) (r : VReg) : SlotData := ⟨n, r.data, r.scale, r.poison, r.scaleBad⟩
/-- Write formed blocks into an empty register. -/
def blocksReg (w : Nat) (bs : List Block) : VReg := bs.foldl (fun r b => r.putBlock w b) VReg.zero

/-- One block of a quantisation: RNE, subnormals kept. -/
def slotMx (mx : MxFmt) (sf : Format) (r : VReg) (b : Nat) (act : List Nat) : Block :=
  let w := fmtWidth sf
  let val := fun i => ((srcVals sf (r.elt w i).val).head?).getD (FVal.fin false 0 0)
  let e := (mxScale (act.map val) mx).1
  ⟨b, (List.range 32).map fun j => if act.contains (32 * b + j) then (mxElem (val (32 * b + j)) e mx .rne).1 else 0, e,
    act.any fun i => (r.elt w i).bad, []⟩

/-- One element converted to a format without scale. Integers wrap (log 28). -/
def slotElt (sf df : Format) (e raw : Nat) : Nat :=
  match mxOf sf, fmtFp df with
  | some mx, some F => (mxVal raw e mx F .rne false).1
  | _, _ => (cvtElt df sf false .rne false e raw).1

/-- A slot converted from one channel format to another. -/
def slotConvert (sf df : Format) (x : SlotData) : SlotData :=
  if sf = df then x else
  let r := x.reg
  let act := List.range x.n
  match mxOf df with
  | some mx => slotFrom x.n (blocksReg (fmtWidth df) ((blocksOf act).map fun b => slotMx mx sf r b.1 b.2))
  | none =>
    if df.group = .x then
      let h : Hart := { Hart.reset with regs := Hart.reset.regs.setV 0 r }
      slotFrom x.n (blocksReg (fmtWidth df) ((blocksOf act).map fun b => xbfBlock h sf 0 b.1 b.2))
    else
      slotFrom x.n (VReg.zero.setElts (fmtWidth df) (act.map fun i =>
        let u := if fmtScaled sf then r.scaled (fmtWidth sf) i else r.elt (fmtWidth sf) i
        (i, ⟨slotElt sf df (r.scaleAt (i / 32)) u.val, u.bad⟩)))

/-! ### Activation (14 R322, R328, R330) -/

/-- The identity element of a delay node. -/
def identityElt (f : Format) (value : Nat) : Nat :=
  match f with
  | .i64 => sext64 32 value
  | .fp64 => (cvtFF fpFP32 fpFP64 .rne false false value).1
  | f => value % 2 ^ fmtWidth f

/-- The identity strip of a delay node. -/
def identityStrip (w : BitVec 64) : SlotData :=
  let f := (nodeFmt w).getD .i8
  let n := field w.toNat 32 13
  slotFrom n (VReg.zero.setElts (fmtWidth f) ((List.range n).map fun i => (i, ⟨identityElt f (field w.toNat 0 32), false⟩)))

/-- Free slots of a data link: one transit slot on a link of 0 slots (14 R316, R317). -/
def freshLink (img : List (BitVec 64)) (i : Nat) : LinkState :=
  let n := if linkCtl (imgLink img i) then 0 else max (linkSlots (imgLink img i)) 1
  ⟨i, (List.range n).map fun k => ⟨k, .free, none, SlotData.zero, 0⟩, 0⟩

/-- A node at activation: permits, delay strip, and the go tokens of start entries. -/
def freshNode (img : List (BitVec 64)) (j : Nat) : NodeState :=
  let w := imgNode img j
  let permits := ((imgLinkInfo img).filter fun l => l.ctl && l.dst == .node j 7).foldl (fun n l => n + l.k) 0
  let go := ((starts img).filter fun x => x.2 == j).length
  { node := j, counts := (List.replicate 16 0).set 7 go, permits := if nodeKind w = 7 then permits else 0, merge := 0,
    delay := if nodeKind w = 3 then some (identityStrip w) else none, sent := List.replicate 7 0, done := List.replicate 7 0,
    iters := 0, child := 0, active := false }

/-! ### Controllers (14 R329) -/

/-- Entry i of a list of counts. -/
def cnt (l : List Nat) (i : Nat) : Nat := (l[i]?).getD 0
/-- Add to entry i. -/
def addCnt (l : List Nat) (i n : Nat) : List Nat := l.set i (cnt l i + n)

/-- Send n go tokens to child j: the state, with terminal 8 + j listed n times. -/
def sendGo (x : NodeState × List Nat) (j n : Nat) : NodeState × List Nat :=
  ({ x.1 with sent := addCnt x.1.sent j n }, x.2 ++ List.replicate n (8 + j))

/-- A controller sends done. -/
def finishGo (x : NodeState × List Nat) : NodeState × List Nat := ({ x.1 with active := false }, x.2 ++ [15])

/-- Consume the done tokens of child j that answer go tokens of the current go. -/
def takeDone (n : NodeState) (j : Nat) : NodeState :=
  let k := min (cnt n.counts j) (cnt n.sent j - cnt n.done j)
  { n with counts := n.counts.set j (cnt n.counts j - k), done := addCnt n.done j k }

/-- One action of a controller of kind k with m children and count t; none when it waits. -/
def ctrlAct (k m t : Nat) (n : NodeState) : Option (NodeState × List Nat) :=
  if !n.active then
    if cnt n.counts 7 = 0 then none else
    let n := { n with counts := n.counts.set 7 (cnt n.counts 7 - 1), active := true, sent := List.replicate 7 0,
                      done := List.replicate 7 0, iters := 0, child := 0 }
    match k with
    | 8 => some (sendGo (n, []) 0 1)
    | 10 => some ((List.range m).foldl (fun x j => sendGo x j (max t 1)) (n, []))
    | _ => some (n, [])
  else
    match k with
    | 8 =>
      if cnt n.counts n.child = 0 then none else
      let n := takeDone n n.child
      if n.child + 1 < m then some (sendGo ({ n with child := n.child + 1 }, []) (n.child + 1) 1)
      else
        let n := { n with child := 0, iters := n.iters + 1 }
        if t ≠ 0 ∧ n.iters = t then some (finishGo (n, [])) else some (sendGo (n, []) 0 1)
    | 9 =>
      let n' := (List.range m).foldl takeDone n
      let n' := { n' with iters := cnt n'.done (m - 1) }
      match (List.range m).find? fun j =>
        let i := cnt n'.sent j
        (t == 0 || decide (i < t)) && decide (i ≤ cnt n'.done j) && (j == 0 || decide (i < cnt n'.done (j - 1))) with
      | some j => some (sendGo (n', []) j 1)
      | none =>
        if t ≠ 0 ∧ t ≤ cnt n'.done (m - 1) then some (finishGo (n', []))
        else if n' = n then none else some (n', [])
    | _ =>
      let n' := (List.range m).foldl takeDone n
      let n' := { n' with iters := ((List.range m).map (cnt n'.done)).foldl min (cnt n'.done 0) }
      if (List.range m).all fun j => decide (max t 1 ≤ cnt n'.done j) then some (finishGo (n', []))
      else if n' = n then none else some (n', [])

/-- Actions of one controller until it waits; each consumes a token or sends one. -/
def ctrlRun (k m t : Nat) : Nat → NodeState × List Nat → NodeState × List Nat
  | 0, x => x
  | fuel + 1, x =>
    match ctrlAct k m t x.1 with
    | none => x
    | some y => ctrlRun k m t fuel (y.1, x.2 ++ y.2)

/-- A controller acts on the tokens that it has; its tokens leave on its control links. -/
def Fabric.runCtrl (f : Fabric) (j : Nat) : Fabric :=
  let w := imgNode f.image j
  if !isCtrl (nodeKind w) then f else
  let n := f.nodeState j
  let y := ctrlRun (nodeKind w) (nodeNout w) (field w.toNat 13 32) (4 * (n.counts.foldl (· + ·) 0 + 16)) (n, [])
  y.2.foldl (fun f t => f.emitAt (· == nodeEp j t) false) (f.updNode j fun _ => y.1)

/-- Every controller acts. -/
def Fabric.runCtrls (f : Fabric) : Fabric := (List.range (imgNodes f.image)).foldl Fabric.runCtrl f

/-- Activation of an image (14 R330). -/
def Fabric.activate (f : Fabric) (img : List (BitVec 64)) (addr : Nat) : Fabric :=
  { f with
    state := .run, image := img, addr := addr, inact := [], load := none, tokens := [], waiting := []
    links := (List.range (imgLinks img)).map (freshLink img)
    nodes := (List.range (imgNodes img)).map (freshNode img) }.runCtrls

/-! ### Port registers (09 R195, 14 R321, R337) -/

/-- Kind, format and control mark that an image gives port q of logical Spire l. -/
def imgPort (img : List (BitVec 64)) (l q : Nat) : Option (BitVec 4 × BitVec 5 × Bool) :=
  let is := fun (e : Ep) => portKey e == some (l, q)
  let ls := imgLinkInfo img
  match ls.find? fun x => !x.ctl && (is x.src || is x.dst) with
  | some x => some (if is x.src then (kPortOut, BitVec.ofNat 5 x.sfmt, false) else (kPortIn, BitVec.ofNat 5 x.dfmt, false))
  | none => if ls.any fun x => x.ctl && is x.src then some (kPortOut, 0, true) else none

/-- A stream register under the image's port: an unchanged port keeps its attachment, a changed one is detached, a port
that ends becomes idle, and another stream that becomes a port is dropped (14 R337, 15 R362). -/
def Stream.toPort (x : Stream) (p : Option (BitVec 4 × BitVec 5 × Bool)) : Stream :=
  match p with
  | none => if x.isPort then Stream.idle else x
  | some (k, f, c) =>
    if x.kind = k ∧ x.fmt = f then { x with ctl := c }
    else if x.isPort then { x with kind := k, fmt := f, ctl := c, att := false }
    else { Stream.idle with kind := k, fmt := f, ctl := c }

/-- The stream registers of hart k of H under an image, for local logical Spire l. -/
def Regs.setPorts (x : Regs) (img : List (BitVec 64)) (l k H : Nat) : Regs :=
  (List.finRange 8).foldl (fun r q => r.setQ q ((r.q[q]).toPort (if q.val % H = k then imgPort img l q.val else none))) x

/-- The port registers of a hart under an image, in its checkpoint too. -/
def Hart.setPorts (h : Hart) (img : List (BitVec 64)) : Hart :=
  let l := h.lsid % max 1 (imgSpires img)
  let k := h.id.lhid % h.perSpire
  { h with regs := h.regs.setPorts img l k h.perSpire, ckpt := h.ckpt.setPorts img l k h.perSpire }

/-- Logical Spires of the group of a fabric are those of number group * n onward. -/
def Fabric.serves (f : Fabric) (h : Hart) : Bool :=
  h.id.ctx == f.ctx && h.id.team == f.team && h.lsid / max 1 (imgSpires f.image) == f.group && h.hcr.run != 0

/-! ### Taking harts out (15 Table 15-1, 14 R342) -/

/-- Discard the strip of hart i and put it in OUT; pre-emption and freeze count the discard (01 R31, R32). At the end of a commit
no strip is open, and nothing is discarded or counted (01 R29; DEDUCED, log 46). -/
def State.takeOut (s : State) (i : HartId) (count : Bool) : State :=
  (s.withdraw i).updHart i fun h =>
    let counts := count && h.hcr.sstate != 1 && h.hcr.preempt != 2
    let h := h.discard
    { h with links := [], hcr := { h.hcr with sstate := 3, preempt := if counts then h.hcr.preempt + 1 else h.hcr.preempt } }

/-- A load in progress is abandoned; a reconfiguration or a resume stays pending (14 R340). -/
def Fabric.abandon (f : Fabric) : Fabric :=
  if f.state = .loading ∨ f.state = .drain then
    { f with state := if f.image.isEmpty then .none else .run, inact := [], code := 0x0D, widx := 0,
             load := match f.load with
               | some l => if l.cause = 1 then none else some l
               | none => none }
  else f

/-- A fabric fault: STOPPED, strips discarded, harts leave, one record (14 R342). -/
def State.fabricFault (s : State) (f : Fabric) (kind node addr : Nat) : Except Fault State :=
  let s := s.updFabric f.c fun f => { f.abandon with state := .stopped, fltKind := BitVec.ofNat 8 kind, fltNode := BitVec.ofNat 7 node }
  let hs := s.harts.filter fun h => f.serves h && cupolaOf h.phys == f.c && h.hcr.run == 1 && !h.out
  let s := hs.foldl (fun s h =>
    let s := s.updHart h.id fun h => { h with fabricReq := true }
    if h.hcr.sstate = 0 ∨ (h.hcr.sstate = 2 ∧ !h.begun) then s.takeOut h.id false else s) s
  let lhid := (hs.map (·.id.lhid)).foldl min ((hs.head?.map (·.id.lhid)).getD 0)
  s.record f.c
    { lhid := lhid, ctxid := f.ctx, detail := 0, kind := 0, space := 0, cause := causeFabric, addr := BitVec.ofNat 64 addr,
      info := 0, elem := 0 }

/-- The team of a fabric is being taken out: no node fires, and what is in flight lands (15 R348, R353). -/
def State.leaving (s : State) (f : Fabric) : Bool := (s.team f.ctx f.team).any fun t => t.freezing || t.preempting

/-- Slots and tokens move: not in STOPPED, but what is in flight lands for a freeze (14 Table 14-8, 15 R353). -/
def State.moves (s : State) (f : Fabric) : Bool := f.state != .none && (f.state != .stopped || s.leaving f)

/-! ### SLOT_LANDS (14 R315, R325) -/

/-- Poison of element 0 of a slot of a format. -/
def SlotData.bad0 (x : SlotData) (f : Format) : Bool := x.n != 0 && (x.reg.elt (fmtWidth f) 0).bad

/-- Where slot `no` of link i of a fabric lies: the Spire of its destination port, the byte in its port buffer, and its size (14 R317). -/
def State.slotPlace (s : State) (f : Fabric) (i no : Nat) : Option (Nat × Nat × Nat) :=
  match epPort (linkDst (imgLink f.image i)), s.team f.ctx f.team with
  | some (l, _, g), some tm =>
    let k := if f.groups = 0 then f.group else (f.group + g) % f.groups
    let size := 64 * (32 / tm.perSpire)
    (tm.spireOf (k * tm.task.n + l)).map fun p => (p, Config.slotOffset i no size, size)
  | _, _ => none

/-- The landed and held slots of a fabric replace what the scrubber has placed on their words (11 R256). -/
def State.clearSlots (s : State) (f : Fabric) : State :=
  f.links.foldl (fun s l => (l.slots.filter fun x => x.st == .landed || x.st == .held).foldl (fun s x =>
    match s.slotPlace f l.link x.no with
    | some y => s.clearSlot y.1 y.2.1 y.2.2
    | none => s) s) s

/-- A fabric whose slots carry what the scrubber has placed on their words: so they leave the port buffers (11 R256, 14 R341). -/
def State.poisonedSlots (s : State) (f : Fabric) : Fabric :=
  let up := fun (i : Nat) (x : Slot) =>
    if x.st = .landed ∨ x.st = .held then
      match s.slotPlace f i x.no with
      | some y => { x with x := { x.x with poison := x.x.poison ||| BitVec.ofNat 2048 (s.slotPoison y.1 y.2.1 y.2.2) } }
      | none => x
    else x
  { f with links := f.links.map fun l => { l with slots := l.slots.map (up l.link) } }

/-- The first slot in flight on link i of Cupola c lands, converted; a port-in emits tokens. -/
def State.landSlot (s : State) (c i : Nat) : State :=
  match s.fabric c with
  | none => s
  | some f =>
    match (f.linkState i).firstSlot fun x => x.st == .flying with
    | none => s
    | some y =>
      let w := imgLink f.image i
      let df := (linkDfmt w).getD .i8
      let x := slotConvert ((linkSfmt w).getD .i8) df y.x
      let t := s.updFabric c fun f => f.updLink i fun l => l.updSlot y.no fun z => { z with st := .landed, x := x }
      match epPort (linkDst w) with
      | some (l, q, g) =>
        let k := if f.groups = 0 then f.group else (f.group + g) % f.groups
        let t := match s.slotPlace f i y.no with
          | some z => t.clearSlot z.1 z.2.1 z.2.2
          | none => t
        t.emitPort { f with group := k } l q (x.bad0 df)
      | none => t

/-- Slots and tokens of Cupola c move. -/
def State.movesAt (s : State) (c : Nat) : Bool := (s.fabric c).any fun f => s.moves f

/-- SLOT_LANDS: the next slot of link b of Cupola a. -/
def execSlotLands (s : State) : Out :=
  match s.arg with
  | .nums c i _ => .next (if s.movesAt c then s.landSlot c i else s)
  | _ => .next s

/-! ### NODE_FIRE (14 R326) -/

/-- What a node would do: input slots taken, outputs with their contents, the node's new state; or a fault of a kind. -/
inductive Firing
  | no
  | fault (kind : Nat)
  | go (takes : List (Nat × Nat)) (outs : List (Nat × SlotData)) (n : NodeState)
  deriving DecidableEq, Repr

/-- One element of a reduction (14 Table 14-5). -/
def reduceSlots (f : Format) (op : Nat) (xs : List SlotData) : SlotData :=
  let n := (xs.map (·.n)).foldl max 0
  let w := fmtWidth f
  slotFrom n (VReg.zero.setElts w ((List.range n).map fun i =>
    (i, combine f op (xs.map fun x => if i < x.n then some (x.reg.elt w i) else none))))

/-- The firing of data node j. -/
def Fabric.firing (f : Fabric) (j : Nat) : Firing :=
  let w := imgNode f.image j
  let n := f.nodeState j
  let k := nodeKind w
  let link := fun t => (f.termLink j t false).getD 0
  let fmt := (nodeFmt w).getD .i8
  match n.delay with
  | some x => .go [] [(8, x)] { n with delay := none }
  | none =>
    if !f.ready j then .no else
    match k with
    | 1 =>
      match f.input j 7, f.input j 0, f.control j with
      | some c, some x, some (v, bad) =>
        if bad then .fault 1 else if nodeNout w ≤ v then .fault 0
        else .go [(link 7, c.no), (link 0, x.no)] [(8 + v, x.x)] n
      | _, _, _ => .no
    | 2 =>
      if nodeOp w = 1 then
        match f.input j n.merge with
        | some x => .go [(link n.merge, x.no)] [(8, x.x)] { n with merge := (n.merge + 1) % nodeNin w }
        | none => .no
      else
        match f.input j 7, f.control j with
        | some c, some (v, bad) =>
          if bad then .fault 1 else if nodeNin w ≤ v then .fault 0
          else match f.input j v with
            | some x => .go [(link 7, c.no), (link v, x.no)] [(8, x.x)] n
            | none => .no
        | _, _ => .no
    | 5 =>
      let xs := (List.range (nodeNin w)).map fun t => (f.input j t).map fun x => (link t, x)
      if xs.any Option.isNone then .no
      else
        let ys := xs.filterMap id
        .go (ys.map fun y => (y.1, y.2.no)) [(8, reduceSlots fmt (nodeOp w) (ys.map fun y => y.2.x))] n
    | k =>
      match f.input j 0 with
      | none => .no
      | some x =>
        let inFmt := (linkDfmt (imgLink f.image (link 0))).getD .i8
        let y := if k = 4 then slotConvert inFmt fmt x.x else x.x
        .go [(link 0, x.no)] ((List.range (if k = 6 then nodeNout w else 1)).map fun t => (8 + t, y))
          { n with permits := if k = 7 then n.permits - 1 else n.permits }

/-- Send a slot from a node on a link. -/
def LinkState.send (l : LinkState) (x : SlotData) : LinkState :=
  match minBy (·.no) (l.slots.filter fun y => y.st == .free) with
  | none => l
  | some y => { (l.updSlot y.no fun z => { z with st := .flying, owner := none, seq := l.next, x := x }) with next := l.next + 1 }

/-- NODE_FIRE: node b of Cupola a fires if it can. -/
def execNodeFire (s : State) : Out :=
  match s.arg with
  | .nums c j _ =>
    match s.fabric c with
    | none => .next s
    | some f =>
      if f.state = .none ∨ f.state = .stopped ∨ s.leaving f ∨ imgNodes f.image ≤ j then .next s else
      match f.firing j with
      | .no => .next s
      | .fault k => s.outcome (stopOnly (s.fabricFault f k j j))
      | .go takes outs n =>
        if outs.all fun o => match f.termLink j o.1 true with
          | some l => f.canReserve l (f.destWaits l)
          | none => false
        then
          let f1 := takes.foldl (fun f x => f.updLink x.1 fun l => l.updSlot x.2 fun z => { z with st := .free, x := SlotData.zero })
            (f.updNode j fun _ => n)
          let f2 := outs.foldl (fun f o => match f.termLink j o.1 true with
            | some l => f.updLink l fun x => x.send o.2
            | none => f) f1
          .next (s.updFabric c fun _ => f2)
        else .next s
  | _ => .next s

/-! ### CONTROL_TOKEN_ARRIVAL (14 R327-R329, R338) -/

/-- Count a token at a terminal, saturating. -/
def Fabric.count (f : Fabric) (j t : Nat) : Fabric :=
  let n := f.nodeState j
  if nodeKind (imgNode f.image j) = 7 then
    if n.permits < 65535 then f.updNode j fun n => { n with permits := n.permits + 1 } else { f with tovf := true }
  else if cnt n.counts t < 65535 then f.updNode j fun n => { n with counts := addCnt n.counts t 1 }
  else { f with tovf := true }

/-- A reconfiguration request (14 R338). -/
def Fabric.reconf (f : Fabric) : Fabric :=
  if f.state = .run ∧ imgNext f.image ≠ 0 then { f with state := .loading, load := some ⟨imgNext f.image, 2⟩ } else { f with dreq := true }

/-- The next token of control link i of Cupola c lands. -/
def State.landToken (s : State) (c i : Nat) : Except Fault State :=
  match s.fabric c with
  | none => .ok s
  | some f =>
    match f.tokens.find? fun t => t.link == i with
    | none => .ok s
    | some tk =>
      let s := s.updFabric c fun f => { f with tokens := f.tokens.erase tk }
      let dst := linkDst (imgLink f.image i)
      match epOf dst with
      | .counter l k n =>
        if tk.bad then s.fabricFault f 2 0 dst else
        match s.team f.ctx f.team with
        | none => .ok s
        | some t =>
          .ok (if t.perSpire ≤ k then s else s.bump ⟨f.ctx, f.team, (f.group * t.task.n + l) * t.perSpire + k⟩ (Fin.ofNat 16 n))
      | .node j t =>
        if tk.bad then s.fabricFault f 2 j j
        else if nodeKind (imgNode f.image j) = 11 then .ok (s.updFabric c Fabric.reconf)
        else .ok (s.updFabric c fun f => if s.leaving f || f.state == .stopped then f.count j t else (f.count j t).runCtrl j)
      | _ => .ok s

/-- CONTROL_TOKEN_ARRIVAL: the next token of control link b of Cupola a lands. -/
def execControlTokenArrival (s : State) : Out :=
  match s.arg with
  | .nums c i _ => if s.movesAt c then s.outcome (stopOnly (s.landToken c i)) else .next s
  | _ => .next s

/-- Everything in flight in Cupola c lands (15 R348, R353). -/
def State.landAll (c : Nat) : Nat → State → Except Fault State
  | 0, s => .ok s
  | fuel + 1, s =>
    match s.fabric c with
    | none => .ok s
    | some f =>
      match f.links.find? fun l => l.slots.any fun x => x.st == .flying with
      | some l => State.landAll c fuel (s.landSlot c l.link)
      | none =>
        match f.tokens.head? with
        | none => .ok s
        | some t => (s.landToken c t.link).bind (State.landAll c fuel)

end Sys2Proof.Machine
end

