-- ==== Sys2Proof/Machine/Teams.lean ====
section
/-! DEFINITION. Placement of teams, their launch, resume and end (01 R16, 12 R286, R287, 15 R349-R352, R359, R363). -/
namespace Sys2Proof.Machine

/-! ### Sorting -/

/-- Insert into a sorted list, after equals. -/
def insertBy (lt : α → α → Bool) (x : α) : List α → List α
  | [] => [x]
  | y :: t => if lt x y then x :: y :: t else y :: insertBy lt x t
/-- Sort, keeping the order of equals. -/
def sortBy (lt : α → α → Bool) (l : List α) : List α := l.foldl (fun t x => insertBy lt x t) []

/-! ### Placement (12 R286) -/

/-- A Spire that the retire table leaves working (12 R279, R286). -/
def State.unretired (s : State) (p : Nat) : Bool := !(s.speedOf p).ret
/-- A Spire on which a team may be placed: nothing new is placed on one that is being retired (16 R378). -/
def State.working (s : State) (p : Nat) : Bool :=
  s.unretired p && !s.belfry.retWait.any fun j => decide (j.cls < 2) && j.index == p
/-- A team is resident on a Spire. -/
def State.occupied (s : State) (p : Nat) : Bool := s.dist.teams.any fun t => t.place.contains (some p)
/-- Free Spires that are not held for another task than number `order` (12 R288). -/
def State.freeFor (s : State) (order : Nat) : List Nat :=
  (List.range Config.spires).filter fun p => s.working p && !s.occupied p && !s.dist.holds.any fun h => h.1 == p && h.2 != order

/-- Faster Spire, ties to the lower number. -/
def State.faster (s : State) (p q : Nat) : Bool :=
  let a := (s.speedOf p).mhz
  let b := (s.speedOf q).mhz
  decide (b < a) || (a == b && decide (p < q))

/-- Placement hints of an image: logical Spire and position in the Cupola (14 R324). -/
def imgHints (img : List (BitVec 64)) : List (Nat × Nat) :=
  ((List.range (imgRoutes img)).map (imgRoute img)).filterMap fun w =>
    if field w.toNat 60 4 = 4 ∧ field w.toNat 49 3 = 2 then some (field w.toNat 45 4, field w.toNat 41 4) else none

/-- Assign the n logical Spires of a group to Spires of Cupola c: hinted ones first, the others by speed (14 R333). -/
def assignGroup (c : Nat) (fast : List Nat) (hints : List (Nat × Nat)) (n : Nat) : List Nat :=
  let fixed := hints.foldl (fun (acc : List (Nat × Nat)) h =>
    let p := 16 * c + h.2
    if fast.contains p ∧ h.1 < n ∧ !acc.any (fun a => a.1 == h.1 || a.2 == p) then acc ++ [(h.1, p)] else acc) []
  let rest := fast.filter fun p => !fixed.any fun a => a.2 == p
  ((List.range n).foldl (fun (acc : List Nat × List Nat) i =>
    match fixed.find? fun a => a.1 == i with
    | some a => (acc.1 ++ [a.2], acc.2)
    | none => match acc.2 with
      | p :: t => (acc.1 ++ [p], t)
      | [] => acc) ([], rest)).1

/-- Spires of a team with an image of n logical Spires: groups on Cupolas in decreasing summed speed of their free Spires.
A Cupola whose fabric serves a team, or that a group stands on, takes no other group, unless that team is among those that leave. -/
def State.placeImage (s : State) (gone free : List Nat) (hints : List (Nat × Nat)) (n S : Nat) : Option (List Nat) :=
  let cs := (List.range Config.cupolas).filterMap fun c =>
    let xs := sortBy s.faster (free.filter fun p => cupolaOf p == c)
    let idle := ((s.fabric c).any fun f => f.state == .none || gone.contains f.team)
      && !s.dist.teams.any fun t => t.task.n != 0 && !gone.contains t.task.order && t.place.any fun q => q.any fun q => cupolaOf q == c
    if xs.length < n ∨ !idle then none else some (c, xs, (xs.map fun p => (s.speedOf p).mhz).foldl (· + ·) 0)
  let cs := sortBy (fun (a b : Nat × List Nat × Nat) => decide (b.2.2 < a.2.2) || (a.2.2 == b.2.2 && decide (a.1 < b.1))) cs
  if n = 0 ∨ cs.length < S / n then none
  else some ((cs.take (S / n)).flatMap fun c => assignGroup c.1 c.2.1 hints n)

/-- Spires of a co-scheduled team without an image: the fewest dies, then the fastest of their free Spires. -/
def State.placeCosched (s : State) (free : List Nat) (S : Nat) : Option (List Nat) :=
  let ds := (List.range Config.dies).map fun d => (d, free.filter fun p => p / 64 == d)
  let ds := sortBy (fun (a b : Nat × List Nat) => decide (b.2.length < a.2.length) || (a.2.length == b.2.length && decide (a.1 < b.1))) ds
  let pool := ds.foldl (fun (acc : List Nat) d => if acc.length < S then acc ++ d.2 else acc) []
  if pool.length < S then none else some ((sortBy s.faster pool).take S)

/-- Spires for logical Spires: (logical Spire, Spire) pairs, when the task can be placed on `free` Spires. `todo` are the
logical Spires of a farm-only team that have none, `gone` the teams that leave. -/
def State.placeTask (s : State) (t : Task) (gone free : List Nat) (hints : List (Nat × Nat)) (todo : List Nat) : Option (List (Nat × Nat)) :=
  let num := fun (l : List Nat) => l.zipIdx.map fun x => (x.2, x.1)
  if t.image ≠ 0 then (s.placeImage gone free hints t.n t.nspire).map num
  else if t.cosched then (s.placeCosched free t.nspire).map num
  else match List.zip todo (sortBy s.faster free) with
    | [] => none
    | l => some l

/-! ### Bringing harts in -/

/-- Doubleword i of a payload, zero beyond it (01 R16). -/
def payloadWord (b : List Byte) (i : Nat) : Word := BitVec.ofNat 64 (ofBytes ((b.drop (8 * i)).take 8))

/-- Registers at launch (01 Tables 1-2 and 1-3). -/
def launchRegs (t : Task) (lhid : Nat) : Regs :=
  let r := (List.finRange 8).foldl (fun (r : Regs) i => r.setS (Fin.ofNat 32 (i.val + 1)) (payloadWord t.payload i.val) false) Regs.reset
  { r with h := { StripHcr.reset with ew := 2, mod0 := 0x78000001, mod1 := 0x1C000001, mroot := 31, bnd := 0x7FFFFFFFFFFFFFFF,
                                      seed := BitVec.ofNat 64 lhid } }

/-- HCRs at launch on slot `slot` of Spire p. -/
def launchHcr (c : Context) (p slot : Nat) : Hcr :=
  { Hcr.reset with wdog := 1000000, ptroot := c.ptroot, hptroot := c.hptroot, run := 1, hphys := placedAt p slot }

/-- A hart at launch, its strip open at the entry (12 R287); `away` when the arrays of another set are live on its Spire. -/
def launchHart (t : Team) (c : Context) (lhid p : Nat) (away : Bool) : Hart :=
  ({ Hart.reset with
      id := ⟨t.task.ctx, t.task.order, lhid⟩, handle := t.task.handle, nhart := t.nhart, nspire := t.task.nspire
      pmode := BitVec.ofNat 2 t.task.pmode, phys := p, slot := lhid % t.perSpire, pc := t.task.entry, away := away
      regs := launchRegs t.task lhid, hcr := launchHcr c p (lhid % t.perSpire) } : Hart).openStrip

/-- Add harts. -/
def State.addHarts (s : State) (hs : List Hart) : State := { s with others := s.others ++ hs }
/-- Remove harts; the focus passes to one that is left. -/
def State.removeHarts (s : State) (p : Hart → Bool) : State :=
  match s.harts.filter fun h => !p h with
  | [] => { s with hart := Hart.reset, others := [] }
  | h :: t => { s with hart := h, others := t }

/-- A Spire takes a logical Spire of a context: CTXDESC, unless the runtime's value names the context already, and the instruction
cache is invalidated (11 R273, 03 R89, 15 R360). `fresh` marks a descriptor that op 3 has just brought. -/
def State.enterSpire (s : State) (p ctx : Nat) (fresh : Bool) : State :=
  let keep := !fresh && s.ctxdesc.any fun x => x.1 == p && x.2 != 0 && s.dev8 x.2 % 65536 == ctx
  { s with ctxdesc := if keep then s.ctxdesc else (p, s.descOf ctx) :: s.ctxdesc.filter (fun x => x.1 != p)
           icache := s.icache.filter fun x => x.1 != p }

/-- The accepted GLB stores that satisfy p reach their homes; a line that the host holds is asked for first (10 R248, 03 R89). -/
def State.settleStores (s : State) (p : Flight → Bool) : Except Halt State :=
  match s.drain p with
  | .ok t => .ok t
  | .error (.wait _ (.snoop line)) => .error (.hold line)
  | .error (.stop f) => .error (.stop f)
  | .error _ => .error .wait

/-- Presence bits of logical Spire ls of a context read empty at the launch of team number `order` on Spire p: in its frames, and in
their backing, but the first launch of a context finds the backing as it stands (05 R138, 11 R260; log 47). -/
def State.clearPresence (s : State) (ctx order ls p : Nat) : Except Halt State :=
  let mine := s.frames.filter fun f => f.ctx == ctx && f.lsid == ls && f.resident
  let s := mine.foldl (fun s f => s.setTags (f.key / 64) (f.key % 64) 0) s
  let first := ((s.context ctx).bind (·.launched)).all fun n => n == order
  if first || s.descAt ⟨ctx, p⟩ == 0 then .ok s else
  let a := (s.backing ctx ls 0 p).2
  (s.devFree p a 32768).map fun _ => State.breakLines { s with dev := s.dev.paste Mem.empty a 32768 } a 32768

/-- Dirty frames that a logical Spire left on another Spire are saved to their backing, so that its pages follow it
(05 R138, 11 R259; log 29). -/
def State.moveFrames (s : State) (ctx ls p : Nat) : Except Halt State :=
  (s.frames.filter fun f => f.ctx == ctx && f.lsid == ls && f.key / 64 != p && f.resident).foldl (fun (r : Except Halt State) f =>
    r.bind fun s => (if f.dirty then s.savePage f else .ok s).map fun s =>
      s.updFrame f.key fun x => { x with resident := false, dirty := false }) (.ok s)

/-- The set whose arrays are live on Spire p is another one than that of a team (15 R350). -/
def State.otherOwner (s : State) (p ctx order : Nat) : Bool := s.vecOwner.any fun x => x.1 == p && x.2 != (ctx, order)

/-- Launch logical Spire ls of a team on Spire p. Where no set owns the live arrays, it owns them at once. -/
def State.launchSpire (s : State) (t : Team) (c : Context) (ls p : Nat) : Except Halt State :=
  let ctx := t.task.ctx
  let order := t.task.order
  ((s.enterSpire p ctx false).clearPresence ctx order ls p).map fun s =>
    let away := s.otherOwner p ctx order
    let s : State := { s with vecOwner := if s.vecOwner.any fun x => x.1 == p then s.vecOwner else (p, ctx, order) :: s.vecOwner }
    s.addHarts ((List.range t.perSpire).map fun k => launchHart t c (ls * t.perSpire + k) p away)

/-- A hart resumes on Spire p: a strip opens at its pc, or it stays HALTED, or OUT by a system fault; its link set is empty
(15 R344, R359, R361). -/
def Hart.resume (h : Hart) (p : Nat) (away : Bool) : Hart :=
  let h := { h with phys := p, out := false, preemptReq := false, freezeReq := false, fabricReq := false, waitQ := none, links := []
                    away := h.away || away, hcr := { h.hcr with hphys := placedAt p h.slot } }
  if h.hcr.run = 3 then h
  else if h.fault.isSome then { h with hcr := { h.hcr with run := 1, sstate := 3 } }
  else ({ h with hcr := { h.hcr with run := 1 } } : Hart).openStrip

/-- Logical Spire ls of a switched-out team resumes on Spire p: its eager state comes from the context store; its arrays stay where
they are when they are the live ones of p (15 R350, R359). -/
def State.resumeSpire (s : State) (t : Team) (ls p : Nat) : State :=
  let ctx := t.task.ctx
  let order := t.task.order
  let last := (t.held[ls]?).join
  let s := s.enterSpire p ctx last.isNone
  let own := last == some p && s.vecOwner.contains (p, ctx, order)
  let s : State := { s with
    sdm := s.sdm.copyRange s.sdm ((512 * (order + 1) + ls) * 2 ^ 16) 65536 (p * 2 ^ 16)
    ctxStore := s.ctxStore.filter fun x => x.2 != (ctx, order, ls) }
  (List.range t.perSpire).foldl (fun s k => s.updHart ⟨ctx, order, ls * t.perSpire + k⟩ fun h => h.resume p !own) s

/-- Hart records of logical Spire ls exist. -/
def State.hasHarts (s : State) (t : Team) (ls : Nat) : Bool := (s.findHart ⟨t.task.ctx, t.task.order, ls * t.perSpire⟩).isSome

/-- Launch or resume the given logical Spires, which have been placed. Every accepted store has reached its home before the first
fetch (03 R89), and pages left on other Spires are saved. -/
def State.bringIn (s : State) (t : Team) (l : List (Nat × Nat)) : Except Halt State :=
  match s.context t.task.ctx with
  | none => .ok s
  | some c =>
    (l.foldl (fun (r : Except Halt State) x =>
      r.bind fun s => (s.moveFrames t.task.ctx x.1 x.2).bind fun s =>
        if s.hasHarts t x.1 then .ok (s.resumeSpire t x.1 x.2) else s.launchSpire t c x.1 x.2) (s.settleStores fun _ => true)).map fun s =>
      s.updContext t.task.ctx fun c => { c with launched := c.launched.or (some t.task.order) }

/-- Free the save slot that a team holds (15 R351). -/
def State.freeSlot (s : State) (t : Team) : State :=
  (s.updContext t.task.ctx fun c => { c with slots := c.slots.filter fun x => x.2 != t.task.order }).updTeam t.task.ctx t.task.order
    fun t => { t with saveSlot := none }
/-- Lowest free save slot of a context. -/
def Context.freeSlot (c : Context) : Option Nat := (List.range c.cxslots.toNat).find? fun n => !c.slots.any fun x => x.1 == n
/-- A team takes a save slot, if one is free and it has none. -/
def State.takeSlot (s : State) (t : Team) : State :=
  if t.saveSlot.isSome then s else
  match (s.context t.task.ctx).bind Context.freeSlot with
  | none => s
  | some n => (s.updContext t.task.ctx fun c => { c with slots := c.slots ++ [(n, t.task.order)] }).updTeam t.task.ctx t.task.order
      fun t => { t with saveSlot := some n }

/-- Place the withdrawn commands of a team again (15 R359). -/
def State.replace (s : State) (t : Team) : State :=
  let s := t.cmds.foldl (fun s c => match s.findHart ⟨t.task.ctx, t.task.order, c.1⟩ with
    | some h => s.place h c.2
    | none => s) s
  s.updTeam t.task.ctx t.task.order fun t => { t with cmds := [] }

/-- Install the arrival watches that a team brought in its image (15 R359). -/
def State.installArrivals (s : State) (t : Team) : State :=
  let s := t.arrs.foldl (fun (s : State) (x : Arrival × Task) =>
    let d := s.dist
    let a := { x.1 with watch := d.accepted }
    let w := { x.2 with order := d.accepted, since := s.nstime }
    { s with dist := { d with accepted := d.accepted + 1, tasks := d.tasks ++ [w], arrivals := d.arrivals ++ [a] } }) s
  s.updTeam t.task.ctx t.task.order fun t => { t with arrs := [] }

/-- Set the Spires of logical Spires. -/
def Team.setPlace (t : Team) (l : List (Nat × Nat)) : Team :=
  { t with place := l.foldl (fun p x => p.set x.1 (some x.2)) t.place }

/-- Start the placed logical Spires of a team: they run from now. Its save slot is free once no logical Spire is left out (15 R351). -/
def State.startTeam (s : State) (ctx order : Nat) : Except Halt State :=
  match s.team ctx order with
  | none => .ok s
  | some t =>
    let todo := (t.place.zipIdx.filterMap fun x => x.1.map fun p => (x.2, p)).filter fun x =>
      match s.findHart ⟨ctx, order, x.1 * t.perSpire⟩ with
      | some h => h.out
      | none => true
    (s.bringIn t todo).map fun s =>
      let s := if t.place.all Option.isSome then s.freeSlot t else s
      let s := (s.replace t).installArrivals t
      s.updTeam ctx order fun t => { t with st := .running, since := s.nstime, expired := false, preempting := false, freezing := false }

/-! ### Leaving -/

/-- Every hart of a logical Spire counts as switched out, or has halted. -/
def State.spireOut (s : State) (t : Team) (ls : Nat) : Bool :=
  (List.range t.perSpire).all fun k => match s.findHart ⟨t.task.ctx, t.task.order, ls * t.perSpire + k⟩ with
    | some h => h.out
    | none => true

/-- A fabric without an image: NONE, its registers kept (14 Table 14-9). -/
def Fabric.vacate (f : Fabric) : Fabric :=
  { Fabric.reset f.c with
    act := f.act, dreq := f.dreq, tovf := f.tovf, code := f.code, widx := f.widx, fltKind := f.fltKind, fltNode := f.fltNode
    fimg := f.fimg }

/-- A team waits for Spires again, with its packet's priority; its ageing counts from `since` (12 R284, R288). -/
def State.toReady (s : State) (ctx order since : Nat) : State :=
  let t := s.updTeam ctx order fun t => { t with task := { t.task with ready := true, since := since, aged := 0, readyNo := s.dist.readied } }
  { t with dist := { t.dist with readied := t.dist.readied + 1 } }

/-- End a team's presence in the part: Spires, fabric, slot, harts, distributor entries. -/
def State.dropTeam (s : State) (t : Team) : State :=
  let mine := fun (h : Hart) => h.id.ctx == t.task.ctx && h.id.team == t.task.order
  let s := (s.harts.filter mine).foldl (fun s h => s.withdraw h.id) s
  let s := (s.freeSlot t).removeHarts mine
  { s with
    fabrics := s.fabrics.map fun f => if f.ctx = t.task.ctx ∧ f.team = t.task.order ∧ (f.state ≠ .none ∨ f.load.isSome) then f.vacate else f
    reservations := s.reservations.filter fun r => !(r.hart.ctx == t.task.ctx && r.hart.team == t.task.order)
    vecOwner := s.vecOwner.filter fun x => x.2 != (t.task.ctx, t.task.order)
    ctxStore := s.ctxStore.filter fun x => !(x.2.1 == t.task.ctx && x.2.2.1 == t.task.order)
    dist := { s.dist with teams := s.dist.teams.filter fun x => !(x.task.ctx == t.task.ctx && x.task.order == t.task.order)
                          holds := s.dist.holds.filter fun h => h.2 != t.task.order } }

/-- Ask every hart of a set of logical Spires to leave. -/
def State.askOut (s : State) (t : Team) (freeze : Bool) (p : Nat → Bool) : State :=
  s.mapHarts fun h =>
    if h.id.ctx = t.task.ctx ∧ h.id.team = t.task.order ∧ p h.lsid then
      if freeze then { h with freezeReq := true } else { h with preemptReq := true }
    else h

/-- Abandon the loads of a team's fabrics (14 R340). -/
def State.abandonLoads (s : State) (t : Team) : State :=
  { s with fabrics := s.fabrics.map fun f => if f.ctx = t.task.ctx ∧ f.team = t.task.order then f.abandon else f }

end Sys2Proof.Machine
end

