-- ==== Sys2Proof/Machine/FabricLoad.lean ====
section
/-! DEFINITION. Loading a fabric image, the two banks, and the flip (14 R331-R341). -/
namespace Sys2Proof.Machine

/-- The team with an image that stands in Cupola c, with its group there. -/
def State.cupolaTeam (s : State) (c : Nat) : Option (Team × Nat) :=
  s.dist.teams.findSome? fun t =>
    if t.task.n = 0 then none else
    (t.place.findIdx? fun p => p.any fun p => cupolaOf p == c).map fun ls => (t, ls / t.task.n)

/-- What the checks know of Cupola c when it serves group k of a team. -/
def State.fabEnv (s : State) (c : Nat) (t : Team) (k : Nat) : FabEnv :=
  { n := t.task.n, lanes := 32 / t.perSpire
    routers := (List.range 16).filter fun r => !s.belfry.routers.contains (c * 16 + r) && !s.belfry.retWait.any fun j => j.cls == 1 && j.index == c * 16 + r
    spires := ((List.range t.task.n).filterMap fun i => t.spireOf (k * t.task.n + i)).filter (s.working ·) |>.map (· % 16)
    placed := true, pgroups := s.belfry.groups.map (·.1), groups := t.task.nspire / max 1 t.task.n }

/-- The context whose translation firmware uses in Cupola c, and its root (14 R331). -/
def State.loadRoot (s : State) (c : Nat) : Option (Nat × Nat) :=
  let ctx := match s.cupolaTeam c with
    | some x => some x.1.task.ctx
    | none => (s.ctxdesc.find? fun (x : Nat × Nat) => cupolaOf x.1 == c).map fun (x : Nat × Nat) => s.dev8 x.2 % 65536
  ctx.bind fun i => (s.context i).map fun (x : Context) => (i, x.ptroot.toNat)

/-- The saved fabric of a group that resumes. -/
def Team.savedFabric (t : Team) (k : Nat) : Option Fabric := t.fabric.find? fun f => f.group == k

/-- Every group of a team has an active image. -/
def State.allActive (s : State) (t : Team) : Bool :=
  (s.fabrics.filter fun f => f.ctx == t.task.ctx && f.team == t.task.order && !f.image.isEmpty).length
    == t.task.nspire / max 1 t.task.n

/-- Give the harts of a team the port registers of their group's image (09 R195, 14 R337). -/
def State.portsOf (s : State) (f : Fabric) : State :=
  s.mapHarts fun h => if f.serves h then h.setPorts f.image else h

/-- Start a team once every group is active. -/
def State.startIfActive (s : State) (t : Team) : Except Halt State :=
  if t.st ≠ .loading ∨ !s.allActive t ∨ !s.belfry.running then .ok s else
  (s.startTeam t.task.ctx t.task.order).map fun s =>
    let fs := s.fabrics.filter fun f => f.ctx == t.task.ctx && f.team == t.task.order && !f.image.isEmpty
    (fs.foldl State.portsOf s).updTeam t.task.ctx t.task.order fun t => { t with fabric := [], orig := none, words := [] }

/-- The saved state of a group records the abandoned load of its resume as pending (14 R340). -/
def Fabric.pend (f : Fabric) : Fabric := { f with load := f.load.or (some ⟨f.addr, 0⟩) }

/-- A resumed team whose load fails is frozen again, with the image that it was saved with (15 R359). -/
def Team.refreeze (t : Team) : Team :=
  let u := { t with st := .frozen, place := t.place.map fun _ => none, orig := none, task := { t.task with ready := false } }
  match t.orig with
  | none => u
  | some (fs, n, img) => { u with fabric := fs, task := { u.task with n := n, image := img } }

/-- A load ends without a bank: status, record; a launch does not start, and a resumed team is frozen again (14 R331, R339,
15 R359). -/
def State.failLoad (s : State) (f : Fabric) (code widx detail : Nat) (addr : Word) (rec : Bool) : Except Fault State :=
  let t := s.updFabric f.c fun f =>
    { f with state := if f.image.isEmpty then .none else .run, load := none, inact := [], code := BitVec.ofNat 8 code
             widx := BitVec.ofNat 16 widx }
  let t := match s.cupolaTeam f.c with
    | none => t
    | some (tm, k) =>
      if f.load.any (fun l => l.cause == 0) ∧ (tm.savedFabric k).isSome then
        let back := fun (x : Team) => let y := x.refreeze; if code = 0x0D then { y with fabric := y.fabric.map Fabric.pend } else y
        { t.updTeam tm.task.ctx tm.task.order back with
          fabrics := t.fabrics.map fun g => if g.ctx = tm.task.ctx ∧ g.team = tm.task.order then { g.vacate with code := g.code, widx := g.widx } else g }
      else t
  if rec then
    t.record f.c
      { lhid := 0, ctxid := f.ctx, detail := detail, kind := if code = 0x0C then 2 else 0, space := if code = 0x0C then 2 else 0
        cause := causeFabric, addr := addr, info := 0, elem := 0 }
  else .ok t

/-- The words of a load: those saved for a resume, those that the placement of a launch has read, or fetched (14 R319). -/
def State.loadWords (s : State) (f : Fabric) (l : FabLoad) (saved : Option Fabric) : Fetched :=
  let got := ((s.cupolaTeam f.c).map fun x => x.1.words).getD []
  match l.cause, saved with
  | 0, some g => .words g.image
  | _, _ =>
    if l.cause = 0 ∧ !got.isEmpty then .words got else
    if l.addr % 8 ≠ 0 then .words [] else
    match s.loadRoot f.c with
    | none => .fault l.addr 0 0xFFFF
    | some (ctx, root) => s.fetchImage f.c ctx root l.addr

/-- The group's fabric with an accepted image: restored with its saved state, or activated (14 R330, R341). A pending load of a
reconfiguration starts again from the fetch; that of a resume is this one (R340). -/
def Fabric.enter (f : Fabric) (t : Team) (k : Nat) (img : List (BitVec 64)) (addr : Nat) (saved : Option Fabric) : Fabric :=
  let f := { f with ctx := t.task.ctx, team := t.task.order, group := k, groups := t.task.nspire / max 1 t.task.n, act := !f.act,
                    code := 0, widx := 0 }
  match saved with
  | some g =>
    if g.links.isEmpty ∧ g.nodes.isEmpty then f.activate img addr
    else
      let pend := g.load.filter fun l => l.cause != 0
      { f with state := if pend.isSome then .loading else .run, image := img, addr := g.addr, inact := [], load := pend
               links := g.links, nodes := g.nodes, tokens := g.tokens, waiting := [] }.runCtrls
  | none => f.activate img addr

/-- FABRIC_LOAD_COMPLETE (14 R331): firmware ends the load of Cupola a. -/
def execFabricLoadComplete (s : State) : Out :=
  match s.arg with
  | .nums c _ _ =>
    match s.fabric c with
    | none => .next s
    | some f =>
      match f.state, f.load with
      | .loading, some l =>
        let tk := s.cupolaTeam c
        let saved := tk.bind fun x => x.1.savedFabric x.2
        match s.loadWords f l saved with
        | .wait => .next s
        | .fault a d w => s.outcome (stopOnly (s.failLoad f 0x0C w d (BitVec.ofNat 64 a) true))
        | .words img =>
          let st := match tk with
            | some x => checkImage (s.fabEnv c x.1 x.2) img
            | none => (0x01, 0xFFFF)
          if st.1 ≠ 0 then s.outcome (stopOnly (s.failLoad f st.1 st.2 0 (BitVec.ofNat 64 st.1) (l.cause == 0)))
          else
            match tk with
            | none => .next s
            | some (t, k) =>
              if l.cause = 0 then
                let g := f.enter t k img l.addr saved
                s.outcome (State.startIfActive ((s.updFabric c fun _ => g).clearSlots g) t)
              else
                .next (s.updFabric c fun f => { f with state := .drain, inact := img, inactAddr := l.addr, code := 0, widx := 0,
                                                       ctx := t.task.ctx, team := t.task.order, group := k,
                                                       groups := t.task.nspire / max 1 t.task.n })
      | _, _ => .next s
  | _ => .next s

/-- FCMD_LOAD (14 R338): taken in RUN and NONE. -/
def execFcmdLoad (s : State) : Out :=
  match s.arg with
  | .nums c _ _ =>
    .next (s.updFabric c fun f =>
      if f.state = .run ∨ f.state = .none then { f with state := .loading, load := some ⟨f.fimg.toNat, 1⟩ } else f)
  | _ => .next s

/-- FCMD_ABORT (14 R336, R340): back to the old image, status 0x0D. The load of a launch ends so too (14 R331). -/
def execFcmdAbort (s : State) : Out :=
  match s.arg with
  | .nums c _ _ =>
    match s.fabric c with
    | none => .next s
    | some f =>
      if f.state = .loading ∧ f.load.any (fun l => l.cause == 0) then s.outcome (stopOnly (s.failLoad f 0x0D 0 0 0x0D true))
      else .next (s.updFabric c Fabric.abandon)
  | _ => .next s

/-- The quiescent point (14 R336). -/
def Fabric.quiescent (f : Fabric) : Bool :=
  (f.links.all fun l => l.slots.all fun x => x.st == .free) && (f.nodes.all fun n => n.delay.isNone) && f.tokens.isEmpty

/-- FABRIC_FLIP (14 R336, R337): in DRAIN at the quiescent point the inactive bank of Cupola a becomes active. -/
def execFabricFlip (s : State) : Out :=
  match s.arg with
  | .nums c _ _ =>
    match s.fabric c with
    | none => .next s
    | some f =>
      if f.state ≠ .drain ∨ !f.quiescent then .next s else
      let g := Fabric.activate { f with act := !f.act } f.inact f.inactAddr
      .next (State.portsOf (s.updFabric c fun _ => g) g)
  | _ => .next s

end Sys2Proof.Machine
end

