-- ==== Sys2Proof/Machine/Distributor.lean ====
section
/-! DEFINITION. The distributor: packets, ageing, selection, pre-emption and barrier episodes (12). Its events stand in DistEvents. -/
namespace Sys2Proof.Machine

/-! ### Packets (09 R215, 12 R277-R282) -/

/-- Number of n bytes at an offset of a packet; zero beyond its end. -/
def pkt (b : List Byte) (off n : Nat) : Nat := ofBytes ((b.drop off).take n)
/-- Fields of a packet (09 Table 9-7). -/
def pktLen (b : List Byte) : Nat := pkt b 0 2
def pktKind (b : List Byte) : Nat := pkt b 2 1
def pktNspire (b : List Byte) : Nat := pkt b 4 2
def pktNsucc (b : List Byte) : Nat := pkt b 6 1
def pktEntry (b : List Byte) : Nat := pkt b 8 8
def pktImage (b : List Byte) : Nat := pkt b 16 8
def pktHandle (b : List Byte) : Nat := pkt b 24 4
/-- The payload. -/
def pktPayload (b : List Byte) : List Byte := (b.take (pktLen b)).drop (0x20 + 4 * pktNsucc b)

/-- Byte i of an image through a context's translation. -/
def State.imageByte (s : State) (c : Context) (addr i : Nat) : Except AccErr Nat :=
  match s.translate Config.spires c.id false c.ptroot.toNat .load permR ((addr + i) % 2 ^ 64) with
  | .ok pa => if s.farFrom Config.spires (.dev pa) 1 then .error .far else .ok pa
  | .error e => .error e

/-- Header doubleword H0 of an image through a context's translation (12 R279). -/
def State.readH0 (s : State) (ctx addr : Nat) : Option Nat :=
  match s.context ctx with
  | none => none
  | some c =>
    let bs := (List.range 8).map fun i =>
      match s.imageByte c addr i with
      | .ok pa => some (s.dev.get pa)
      | .error _ => none
    if bs.any Option.isNone then none else some (ofBytes (bs.filterMap id))

/-- The header of the image that a packet names cannot be read now: its acceptance waits (16 R374, R379). -/
def State.packetAway (s : State) (ctx : Nat) (b : List Byte) : Bool :=
  pktKind b == 0 && pktImage b != 0 && (s.context ctx).any fun c => (List.range 8).any fun i => match s.imageByte c (pktImage b) i with
    | .error (.bad _ _) | .ok _ => false
    | .error _ => true

/-- Logical Spires of the image that a packet names, when H0 is good. -/
def State.imageN (s : State) (ctx addr : Nat) : Option Nat :=
  (s.readH0 ctx addr).bind fun h =>
    let n := field h 40 8
    if field h 0 32 = 0x47464358 ∧ field h 32 8 = 1 ∧ 0 < n ∧ n ≤ 16 then some n else none

/-- Validate a packet in the order of its offsets: the code of the first failure, 0 for none. -/
def State.validate (s : State) (ctx : Nat) (b : List Byte) : Nat :=
  let len := pktLen b
  let kind := pktKind b
  let team := kind == 0
  let img := pktImage b
  let x3 := pkt b 3 1
  let h := pktHandle b
  if len < 32 ∨ 256 < len ∨ len % 8 ≠ 0 ∨ len < 0x20 + 4 * pktNsucc b then 4
  else if 2 < kind then 5
  else if x3 % 2 ≠ 0 ∨ (!team ∧ x3 % 16 ≠ 0) then 5
  else if (if team then pktNspire b == 0 || decide (512 < pktNspire b) || decide (((List.range Config.spires).filter s.unretired).length < pktNspire b)
           else pktNspire b != 0) then 6
  else if 8 < pktNsucc b then 4
  else if team ∧ pktEntry b % 4 ≠ 0 then 6
  else if !team ∧ pktEntry b ≠ 0 then 5
  else if !team ∧ img ≠ 0 then 5
  else if img ≠ 0 ∧ !bitAt x3 1 then 6
  else if img ≠ 0 ∧ !((s.imageN ctx img).any fun n => pktNspire b % n == 0) then 6
  else if h ≠ 0 ∧ s.dist.liveHandle ctx h then 6
  else if pkt b 28 4 ≠ 0 then 5
  else if kind = 2 ∧ (s.dist.arrivals.any fun a => a.tag == pkt (pktPayload b) 0 4) then 6
  else 0

/-- The task of a valid packet. -/
def State.mkTask (s : State) (ctx : Nat) (b : List Byte) (enq : Option Nat) : Task :=
  let d := s.dist
  let h := pktHandle b
  let k := ((d.credits.find? fun c => c.1 == ctx && c.2.1 == h).map (·.2.2)).getD 0
  let x3 := pkt b 3 1
  { ctx := ctx, kind := pktKind b, prio := x3 / 16, pmode := field x3 2 2, cosched := bitAt x3 1, nspire := pktNspire b
    entry := BitVec.ofNat 64 (pktEntry b), image := pktImage b
    n := if pktImage b = 0 then 0 else (s.imageN ctx (pktImage b)).getD 0
    handle := h, succ := (List.range (pktNsucc b)).map fun i => pkt b (0x20 + 4 * i) 4, payload := pktPayload b
    count := pkt b 7 1 + (if pktKind b = 2 then 1 else 0) - k, ready := false, since := s.nstime, aged := 0, order := d.accepted
    enq := enq, readyNo := 0 }

/-- Accept a valid packet (12 R281, R282). -/
def State.acceptTask (s : State) (ctx : Nat) (b : List Byte) (enq : Option Nat) : State :=
  let t := s.mkTask ctx b enq
  let d := s.dist
  let total := pkt (pktPayload b) 8 8
  let d := { d with accepted := d.accepted + 1, tasks := d.tasks ++ [t], credits := d.credits.filter fun c => !(c.1 == ctx && c.2.1 == t.handle) }
  let d := if t.kind = 2 ∧ total ≠ 0 then { d with arrivals := d.arrivals ++ [⟨ctx, pkt (pktPayload b) 0 4, total, 0, t.order⟩] } else d
  let d := if t.count = 0 then d.makeReady s.nstime t.order else d
  let d := if t.kind = 2 ∧ total = 0 then d.lower s.nstime t.order else d
  { s with dist := d.settle s.nstime }

/-- Entries kept for the watches of teams whose fabrics load: they are installed when the team starts (12 R280, 15 R359). -/
def Distributor.reserved (d : Distributor) : Nat := ((d.teams.filter fun t => t.st == .loading).map fun t => t.arrs.length).foldl (· + ·) 0

/-- No room: the enqueue waits (12 R280). -/
def State.tablesFull (s : State) (b : List Byte) : Bool :=
  decide (Config.maxTasks ≤ s.dist.live + s.dist.reserved)
    || (pktKind b == 2 && decide (Config.maxArrivals ≤ s.dist.arrivals.length + s.dist.reserved))

/-- PKTSTAT_GO (12 R278): go of slot a latches its binding; ignored while the slot is busy. -/
def execPktstatGo (s : State) : Out :=
  match s.arg with
  | .value n v =>
    .next (s.updPkt n fun x =>
      if v.getLsbD 16 ∧ x.state ≠ 1 then { x with state := 1, lEn := x.en, lCtx := x.ctxid } else x)
  | _ => .next s

/-- A submission ends with a code. -/
def State.endSlot (s : State) (n code : Nat) : State :=
  s.updPkt n fun x => { x with code := BitVec.ofNat 8 code, state := if code = 0 then 2 else 3 }

/-- Bytes of a slot. -/
def PktSlot.all (x : PktSlot) : List Byte := (List.range 256).map fun i => (lookupKey i x.bytes).getD 0

/-- The package that a `task.put` names, when it is another one (09 R215). -/
def Cmd.taskPkg (c : Cmd) : Option Nat :=
  let pkg := field c.words.w2.toNat 0 16
  if pkg ≠ 0xFFFF ∧ pkg ≠ Config.ownPackage then some pkg else none

/-- A `task.put`: its packet is read, then validated and accepted here, or sent (09 R215). -/
def State.runTaskPut (s : State) (c : Cmd) : Except Halt State :=
  let at' := fun (lo n : Nat) => (List.range n).map fun i => (c.words.d.toNat + lo + i) % 2 ^ 64
  let r1 := s.readSrc c c.words.sspace (at' 0 8)
  match r1.2 with
  | some e => s.stopCmd c c.words.sspace false e
  | none =>
    let h := r1.1.map (·.1)
    let len := pktLen h
    if len < 32 ∨ 256 < len then .ok (s.endCmd c.k 4) else
    let r2 := s.readSrc c c.words.sspace (at' 8 (len - 8))
    match r2.2 with
    | some e => s.stopCmd c c.words.sspace false e
    | none =>
      let b := h ++ r2.1.map (·.1)
      if s.packetAway c.hart.ctx b ∧ c.taskPkg.isNone then .ok s else
      let code := s.validate c.hart.ctx b
      match c.taskPkg with
      | some pkg => .ok (s.sendOut c pkg (b.map fun x => (x, false)))
      | none =>
        if code ≠ 0 then .ok (s.endCmd c.k code)
        else if s.tablesFull b then .ok s
        else .ok ((s.acceptTask c.hart.ctx b (some c.hart.team)).endCmd c.k 0)

/-- Every hart of a team has halted and every command that it placed has ended. -/
def State.finished (s : State) (t : Team) : Bool :=
  ((List.range t.nhart).all fun i => (s.findHart ⟨t.task.ctx, t.task.order, i⟩).any fun h => h.hcr.run == 3)
    && !(s.cmds.any fun c => c.hart.ctx == t.task.ctx && c.hart.team == t.task.order) && t.cmds.isEmpty

/-! ### Selection (12 R284-R288) -/

/-- Levels gained by ageing in w nanoseconds. -/
def agedBy (ageint w : Nat) : Nat := if ageint = 0 then 0 else w / ageint

/-- Ageing of every waiting task (12 R284). -/
def Distributor.age (d : Distributor) (now : Nat) : Distributor :=
  let up := fun (t : Task) => if t.ready then { t with aged := agedBy d.ageint.toNat (now - t.since) } else t
  { d with tasks := d.tasks.map up, teams := d.teams.map fun t => { t with task := up t.task } }

/-- Running teams whose quantum has passed since their launch or resume, by QUANTUM as it stands (12 R288). -/
def Distributor.expire (d : Distributor) (now : Nat) : Distributor :=
  { d with teams := d.teams.map fun t => { t with expired := t.st == .running && decide (d.quantum.toNat ≤ now - t.since) } }

/-- A candidate of the selection: its task, the team when it has been launched, and the logical Spires to place. -/
structure Cand where
  task : Task
  team : Option Team
  todo : List Nat
  deriving DecidableEq, Repr

/-- Effective priority (12 R284). -/
def Cand.eff (c : Cand) : Nat := if c.task.ready then min 15 (c.task.prio + c.task.aged) else c.task.prio
/-- It has reached priority 15 by ageing. -/
def Cand.top (c : Cand) : Bool := c.eff == 15 && c.task.prio != 15
/-- A farm-only team that already runs on some Spires. -/
def Cand.partly (c : Cand) : Bool := c.team.any fun t => t.st == .running

/-- D0[63:17] of the descriptor of a context is not zero: no team of it resumes (11 Table 11-5). -/
def State.badDesc (s : State) (ctx : Nat) : Bool := s.descOf ctx != 0 && s.dev8 (s.descOf ctx) / 2 ^ 17 != 0

/-- A launched team can come back: its descriptor is good, and the tables have room for what its image brings (12 R280). -/
def State.canReturn (s : State) (t : Team) : Bool :=
  let n := s.dist.reserved + match t.source with
    | some a => field (s.dev8 (a + 160)) 16 16
    | none => t.arrs.length
  !t.freezing && !s.badDesc t.task.ctx && decide (s.dist.live + n ≤ Config.maxTasks)
    && decide (s.dist.arrivals.length + n ≤ Config.maxArrivals)

/-- The order of 12 R284: effective priority, then who became ready earlier, then who was accepted earlier. -/
def Cand.before (a b : Cand) : Bool :=
  decide (b.eff < a.eff) || (a.eff == b.eff && (decide (a.task.readyNo < b.task.readyNo)
    || (a.task.readyNo == b.task.readyNo && decide (a.task.order < b.task.order))))

/-- The candidates in the order of 12 R284. -/
def State.cands (s : State) : List Cand :=
  let fresh := (s.dist.tasks.filter fun t => t.ready && t.kind == 0).map fun t => (⟨t, none, List.range t.nspire⟩ : Cand)
  let back := (s.dist.teams.filter s.canReturn).filterMap fun t =>
    let todo := (List.range t.task.nspire).filter fun ls => (t.spireOf ls).isNone
    if t.st = .switchedOut ∧ t.task.ready then some (⟨t.task, some t, todo⟩ : Cand)
    else if t.st = .running ∧ !t.task.cosched ∧ !todo.isEmpty ∧ !t.preempting then some ⟨t.task, some t, todo⟩
    else none
  sortBy Cand.before (fresh ++ back)

/-- The words of the image of a task to launch, read at its placement; none when a word cannot be read, which the load finds (14 R319,
R339). -/
def State.launchWords (s : State) (t : Task) : List (BitVec 64) :=
  match s.context t.ctx with
  | none => []
  | some x => if t.image % 8 ≠ 0 then [] else match s.fetchImage Config.cupolas t.ctx x.ptroot.toNat t.image with
    | .words img => img
    | _ => []

/-- Placement hints of a candidate (14 R324, R333). -/
def State.hintsOf (s : State) (c : Cand) : List (Nat × Nat) :=
  if c.task.image = 0 then [] else
  match c.team.bind fun t => t.fabric.head? with
  | some f => imgHints f.image
  | none => imgHints (s.launchWords c.task)

/-- A team with Spires that it would lose: pairs of logical Spire and Spire, highest logical Spire first. -/
abbrev Victim := Team × List (Nat × Nat)

/-- A team with every working Spire that it holds. -/
def State.victim (s : State) (v : Team) : Victim :=
  (v, ((v.place.zipIdx.filterMap fun x => x.1.map fun p => (x.2, p)).filter fun x => s.working x.2).reverse)

/-- The candidate can be placed on the free Spires and those of the victims. -/
def State.fitsWith (s : State) (c : Cand) (hints : List (Nat × Nat)) (free : List Nat) (vs : List Victim) : Bool :=
  (s.placeTask c.task ((vs.filter fun v => v.1.task.cosched).map (·.1.task.order)) (free ++ vs.flatMap fun v => v.2.map (·.2)) hints
    c.todo).isSome

/-- Victims in order until the candidate can be placed; none when all together do not suffice (12 R288). -/
def State.takeVictims (s : State) (c : Cand) (hints : List (Nat × Nat)) (free : List Nat) : List Team → List Victim → Option (List Victim)
  | [], _ => none
  | v :: vs, acc =>
    let acc := acc ++ [s.victim v]
    if s.fitsWith c hints free acc then some acc else s.takeVictims c hints free vs acc

/-- A farm-only victim loses only as many Spires as the candidate needs, highest logical Spire first: the victims from the last to the
first keep what they can, beside those already settled (12 R288; log 57). -/
def State.trim (s : State) (c : Cand) (hints : List (Nat × Nat)) (free : List Nat) : List Victim → List Victim → List Victim
  | [], done => done
  | v :: rest, done =>
    if v.1.task.cosched then s.trim c hints free rest (v :: done)
    else
      let k := ((List.range (v.2.length + 1)).find? fun k =>
        s.fitsWith c hints free (rest.reverse ++ (v.1, v.2.take k) :: done)).getD v.2.length
      s.trim c hints free rest (if k = 0 then done else (v.1, v.2.take k) :: done)

/-- The victims of a candidate: team numbers with the logical Spires that each loses. -/
def State.victims (s : State) (c : Cand) (hints : List (Nat × Nat)) (free : List Nat) (vs : List Team) : Option (List (Nat × List Nat)) :=
  (s.takeVictims c hints free vs []).map fun l => (s.trim c hints free l.reverse []).map fun v =>
    (v.1.task.order, if v.1.task.cosched then List.range v.1.task.nspire else v.2.map (·.1))

/-- Free save slots of a context. -/
def State.freeSlots (s : State) (ctx : Nat) : Nat :=
  ((s.context ctx).map fun c => ((List.range c.cxslots.toNat).filter fun n => !c.slots.any fun x => x.1 == n).length).getD 0

/-- The first teams of a list for which save slots are left, one for each team that holds none (15 R351). -/
def State.slotted (s : State) : List Team → List Nat → List Team
  | [], _ => []
  | t :: ts, used =>
    if t.saveSlot.isSome then t :: s.slotted ts used
    else if (used.filter fun c => c == t.task.ctx).length < s.freeSlots t.task.ctx then t :: s.slotted ts (t.task.ctx :: used)
    else s.slotted ts used

/-- Teams that a candidate may pre-empt, in the order of 12 R288. -/
def State.victimsOf (s : State) (c : Cand) : List Team :=
  s.slotted (sortBy (fun (a b : Team) => decide (a.task.prio < b.task.prio) || (a.task.prio == b.task.prio && decide (a.since < b.since)))
    (s.dist.teams.filter fun t => t.st == .running && !t.freezing && !t.preempting && t.evict.isEmpty && t.expired
      && decide (t.task.prio < c.eff))) []

/-- What the distributor does next. -/
inductive Choice
  | place (c : Cand) (l : List (Nat × Nat))
  | preempt (c : Cand) (vs : List (Nat × List Nat))
  deriving DecidableEq, Repr

/-- The image of a task to launch cannot be read now: its placement waits (16 R374, R379). -/
def State.hintsAway (s : State) (c : Cand) : Bool :=
  c.task.image != 0 && c.team.isNone && c.task.image % 8 == 0 && (s.context c.task.ctx).any fun x =>
    s.fetchImage Config.cupolas c.task.ctx x.ptroot.toNat c.task.image == .wait

/-- The first candidate for which something can be done; one at priority 15 by ageing blocks those after it. Spires held for a task that
all still work keep it from pre-empting again; where one has been retired, it seeks victims anew (12 R288). -/
def State.choose (s : State) : List Cand → Option Choice
  | [] => none
  | c :: cs =>
    if s.hintsAway c then s.choose cs else
    let free := s.freeFor c.task.order
    let hints := s.hintsOf c
    match s.placeTask c.task [] free hints c.todo with
    | some l => some (.place c l)
    | none =>
      let mine := s.dist.holds.filter fun h => h.2 == c.task.order
      let held := !mine.isEmpty && mine.all fun h => s.working h.1
      match (if c.partly ∨ held then none else s.victims c hints free (s.victimsOf c)) with
      | some vs => some (.preempt c vs)
      | none => if c.top then none else s.choose cs

/-- Ask the fabrics of a team's groups to load: group k on the Cupola of its first logical Spire (14 R331). -/
def State.askLoads (s : State) (t : Team) : State :=
  (List.range (t.task.nspire / max 1 t.task.n)).foldl (fun s k =>
    match t.spireOf (k * t.task.n) with
    | none => s
    | some p => s.updFabric (cupolaOf p) fun f =>
        { f with state := .loading, load := some ⟨t.task.image, 0⟩, ctx := t.task.ctx, team := t.task.order, group := k,
                 groups := t.task.nspire / max 1 t.task.n }) s

/-- A team at its launch. -/
def newTeam (t : Task) (now : Nat) : Team :=
  { task := { t with ready := false }, st := if t.image = 0 then .running else .loading, place := List.replicate t.nspire none
    held := List.replicate t.nspire none, since := now, expired := false
    farm := ⟨false, 0, 0, 0, []⟩, bars := List.replicate 64 ⟨0, []⟩, latest := [], saveSlot := none, fabric := [], cmds := []
    freezing := false, preempting := false, evict := [], frozenAt := 0, colls := [], arrs := [], ending := false, orig := none, words := [], source := none }

/-- Place a candidate. -/
def State.placeCand (s : State) (c : Cand) (l : List (Nat × Nat)) : Except Halt State :=
  let ctx := c.task.ctx
  let order := c.task.order
  let d := { s.dist with holds := s.dist.holds.filter fun h => h.2 != order }
  match c.team with
  | none =>
    let t := { (newTeam c.task s.nstime).setPlace l with words := if c.task.image = 0 then [] else s.launchWords c.task }
    let s := { s with dist := { d with tasks := d.tasks.filter (fun x => x.order != order), teams := d.teams ++ [t] } }
    if c.task.image = 0 then s.startTeam ctx order else .ok (s.askLoads t)
  | some t =>
    let s := State.updTeam { s with dist := d } ctx order fun t => { t.setPlace l with task := { t.task with ready := false } }
    if c.partly then
      (s.bringIn t l).map fun s => if (t.setPlace l).place.all Option.isSome then s.freeSlot t else s
    else if t.fabric.isEmpty then s.startTeam ctx order
    else .ok ((s.updTeam ctx order fun t => { t with st := .loading }).askLoads (t.setPlace l))

/-- Pre-empt victims and hold Spires for a candidate (12 R288, 14 R340). A victim's ageing starts now, and it takes its save slot
(15 R351). -/
def State.preemptFor (s : State) (c : Cand) (vs : List (Nat × List Nat)) : State :=
  let free := s.freeFor c.task.order
  let s := vs.foldl (fun s v =>
    match s.dist.teams.find? fun t => t.task.order == v.1 with
    | none => s
    | some t =>
      let s := ((s.takeSlot t).askOut t false fun ls => v.2.contains ls).updTeam t.task.ctx t.task.order fun t =>
        let t := { t with task := { t.task with since := s.nstime, aged := 0 } }
        if t.task.cosched then { t with preempting := true } else { t with evict := v.2 }
      if t.task.cosched then s.abandonLoads t else s) s
  let gained := vs.flatMap fun v => match s.dist.teams.find? fun t => t.task.order == v.1 with
    | some t => v.2.filterMap t.spireOf
    | none => []
  let held := (free ++ gained).map fun p => (p, c.task.order)
  { s with dist := { s.dist with holds := (s.dist.holds.filter fun h => !held.contains h) ++ held } }

/-- Teams are placed: DCTL.en is 1 and no alarm has stopped the part. -/
def State.placing (s : State) : Bool := s.dist.en && s.belfry.running

/-- The selection with ageing and quanta brought up to date. -/
def State.select (s : State) : State × Option Choice :=
  let t := { s with dist := (s.dist.age s.nstime).expire s.nstime }
  (t, if t.placing then t.choose t.cands else none)

/-! ### Barriers (09 R219, 12 R290, R291) -/

/-- Stand a halted hart before the first arrival whose time is not below its own. -/
def standHalted (h : Nat × Nat) : List (Nat × Nat) → List (Nat × Nat)
  | [] => [h]
  | r :: rs => if h.2 ≤ r.2 then h :: r :: rs else r :: standHalted h rs
/-- Merge halted harts, sorted by time and LHID, into the recorded arrivals (12 R291). -/
def mergeHalted (hs rs : List (Nat × Nat)) : List (Nat × Nat) := hs.foldr standHalted rs

/-- The eight doublewords of a barrier record (12 Table 12-3). -/
def barRecord (handle nhart id nhalt episode : Nat) (order : List (Nat × Nat)) : List Nat :=
  let last := order.reverse
  let lh := fun i => ((last[i]?).map fun x => x.1 % 2 ^ 16).getD 0xFFFF
  let tm := fun i => ((last[i]?).map (·.2)).getD 0
  [handle % 2 ^ 32 * 2 ^ 32 + episode % 2 ^ 32, nhalt % 2 ^ 16 * 2 ^ 32 + nhart % 2 ^ 16 * 2 ^ 16 + id % 64,
   ((order.head?).map (·.2)).getD 0, tm 0, lh 0 * 2 ^ 48 + lh 1 * 2 ^ 32 + lh 2 * 2 ^ 16 + lh 3, tm 1, tm 2, tm 3]

/-- Append a record to a context's barrier log (12 R290). -/
def State.logBarrier (s : State) (ctx : Nat) (rec : List Nat) : Except Halt State :=
  match s.context ctx with
  | none => .ok s
  | some c =>
    let len := c.cbloglen.toNat
    if len = 0 then .ok s else
    let base := c.cblog.toNat / 64 * 64
    let s := s.updContext ctx fun c => { c with cblogseq := c.cblogseq + 1 }
    if Config.devEnd < base + 64 * len then .ok s else
    let a := base + 64 * (c.cblogseq.toNat % len)
    (s.devFree Config.spires a 64).map fun _ => s.devStore a (rec.flatMap (toBytes 8))

/-- EPISODE_COMPLETE (09 R219): barrier c of team number b of context a. -/
def execEpisodeComplete (s : State) : Out :=
  match s.arg with
  | .nums ctx order id =>
    match s.team ctx order with
    | none => .next s
    | some t =>
      let b := t.bar id
      let halted := ((List.range t.nhart).filterMap fun i => s.findHart ⟨ctx, order, i⟩).filterMap fun h =>
        if h.hcr.run = 3 ∧ !b.arrivals.any (fun a => a.1 == h.id.lhid) then some (h.id.lhid, h.haltTime) else none
      if 64 ≤ id ∨ b.arrivals.isEmpty ∨ t.st = .frozen ∨ b.arrivals.length + halted.length < t.nhart then .next s else
      let hs := sortBy (fun (x y : Nat × Nat) => decide (x.2 < y.2) || (x.2 == y.2 && decide (x.1 < y.1))) halted
      s.outcome ((s.logBarrier ctx (barRecord t.task.handle t.nhart id halted.length b.episode (mergeHalted hs b.arrivals))).map fun s =>
        s.updTeam ctx order fun t => t.updBar id fun b => ⟨b.episode + 1, []⟩)
  | _ => .next s

end Sys2Proof.Machine
end

