-- ==== Sys2Proof/Machine/EngineCmds.lean ====
section
/-! DEFINITION. Issue of the engine commands copy, coll, put.e and task.put (09 R211-R215): each enters the strip buffer
with the values of its operands. -/
namespace Sys2Proof.Machine

/-- Buffer an engine command with a charge of 64; a poisoned operand traps. -/
def issue (i : Instr) (d a b : SReg) (s : State) : Out :=
  plainN 16 s fun s =>
    if s.hart.bad d || s.hart.bad a || s.hart.bad b then .error poisonTrap else
    match encodeLongFields i with
    | none => .error illegal
    | some x =>
      (s.hart.push (.cmd ⟨BitVec.ofNat 32 x.prefixWord, BitVec.ofNat 32 x.w1, BitVec.ofNat 32 x.w2, BitVec.ofNat 32 x.w3,
        s.hart.s d, s.hart.s a, s.hart.s b⟩) 64).map fun h => { s with hart := h }

/-- `copy` (09 R212). -/
def execCopy (d a b : SReg) (form : CopyForm) (es : Fin 4) (w1 : CmdW1) (spitch dpitch : BitVec 32) (s : State) : Out :=
  issue (.copy d a b form es w1 spitch dpitch) d a b s
/-- `coll` (09 R213). -/
def execColl (d a b : SReg) (kind : CollKind) (w1 : CmdW1) (fmt : BitVec 5) (op : CollOp) (id : BitVec 8) (root : BitVec 16)
    (s : State) : Out :=
  issue (.coll d a b kind w1 fmt op id root) d a b s
/-- `put.e` (09 R214). -/
def execPutE (d a b : SReg) (w1 : CmdW1) (tag : BitVec 32) (pkg : BitVec 16) (s : State) : Out :=
  issue (.putE d a b w1 tag pkg) d a b s
/-- `task.put` (09 R215). -/
def execTaskPut (d : SReg) (w1 : CmdW1) (pkg : BitVec 16) (s : State) : Out := issue (.taskPut d w1 pkg) d 0 0 s

end Sys2Proof.Machine
end

