-- ==== Sys2Proof/Machine/StreamRegs.lean ====
section
/-! DEFINITION. Stream instructions: saff, sidx, sfib, sbind, sunbind, sisect, sunite, sskip, ssave, srest
(09 R195-R210). -/
namespace Sys2Proof.Machine

/-- The stream register in the hart in focus. -/
def State.q (s : State) (i : QIdx) : Stream := s.hart.regs.q[i]
/-- Change a stream register of the hart in focus. -/
def State.setQ (s : State) (i : QIdx) (x : Stream) : State := { s with hart := { s.hart with regs := s.hart.regs.setQ i x } }

/-- A stream instruction: static checks on the registers, then poisoned operands, then its effect. -/
def streamOp (bad : State → Bool) (ops : List SReg) (f : State → M State) (s : State) : Out :=
  plain s fun s =>
    if bad s then .error illegal
    else if ops.any fun r => s.hart.bad r then .error poisonTrap
    else f s

/-- Any register of v to v + n - 1 is attached to a stream other than q (09 R197). -/
def Regs.taken (x : Regs) (q : QIdx) (v : VIdx) (n : Nat) : Bool :=
  (List.finRange 8).any fun i => i != q && (x.q[i]).att &&
    decide ((x.q[i]).vreg.val < v.val + n) && decide (v.val < (x.q[i]).vreg.val + (x.q[i]).span)

/-- `sbind q, v` (09 R197). -/
def execSbind (d : QIdx) (b : VIdx) (s : State) : Out :=
  streamOp (fun s =>
    let q := s.q d
    q.kind == kIdle || q.att || q.cons || decide (32 < b.val + q.span) || s.hart.regs.taken d b q.span) []
    (fun s => .ok (s.setQ d { s.q d with att := true, vreg := b })) s

/-- Release the inputs of a derived stream (09 R197). -/
def Regs.release (x : Regs) (q : Stream) : Regs :=
  if q.kind = kIsect ∨ q.kind = kUnite then
    let y := x.setQ q.qa { x.q[q.qa] with cons := false }
    y.setQ q.qb { y.q[q.qb] with cons := false }
  else x

/-- `sunbind q` (09 R197). -/
def execSunbind (d : QIdx) (s : State) : Out :=
  streamOp (fun _ => false) [] (fun s =>
    let q := s.q d
    if q.kind == kIdle || !q.att then .ok s
    else if q.isPort then .ok (s.setQ d { q with att := false, vreg := 0 })
    else .ok { s with hart := { s.hart with regs := (s.hart.regs.release q).setQ d Stream.idle } }) s

/-- A fibre stream that may become an input. -/
def Stream.free3 (q : Stream) : Bool := q.kind == kFibre && !q.att && !q.cons

/-- Make d a derived stream over a and b (09 R208). -/
def derive (kind : BitVec 4) (d a b : QIdx) (s : State) : Out :=
  streamOp (fun s =>
    let x := s.q a
    let y := s.q b
    d == a || d == b || a == b || !x.free3 || !y.free3 || (s.q d).kind != kIdle || x.iw != y.iw) []
    (fun s =>
      let x := s.q a
      let s := s.setQ a { x with cons := true }
      let s := s.setQ b { s.q b with cons := true }
      .ok (s.setQ d { Stream.idle with kind := kind, qa := a, qb := b, iw := x.iw, fmt := if x.iw then 7 else 6,
                                       space := x.space, complete := true })) s

/-- `sisect qd, qa, qb`. -/
def execSisect (d a b : QIdx) (s : State) : Out := derive kIsect d a b s
/-- `sunite qd, qa, qb`. -/
def execSunite (d a b : QIdx) (s : State) : Out := derive kUnite d a b s

/-- Skip fibres to a target; what stops a search is taken as on element 0 (09 R209). -/
def State.skipAll (s : State) (t : Nat) : List QIdx → M State
  | [] => .ok s
  | i :: is =>
    match s.skipFibre i (s.q i) t none with
    | .ok (x, _) => (s.setQ i x).skipAll t is
    | .error (.exc e) => .error e
    | .error (.malformed j) => .error (.malformed [j] 0)
    | .error _ => s.skipAll t is

/-- No pair remains in fibre i. -/
def State.spent (s : State) (i : QIdx) : Bool := decide ((s.q i).fin ≤ (s.q i).pos) && !(s.q i).pend

/-- `sskip q, sa` (09 R209). -/
def execSskip (d : QIdx) (a : SReg) (s : State) : Out :=
  streamOp (fun s => !((s.q d).kind == kFibre || (s.q d).kind == kIsect || (s.q d).kind == kUnite)) [a] (fun s =>
    let q := s.q d
    let is := if q.kind = kFibre then [d] else [q.qa, q.qb]
    (s.skipAll (s.hart.s a).toNat is).map fun t =>
      let done := if q.kind = kIsect then is.any t.spent else is.all t.spent
      t.setQ d { t.q d with done := (t.q d).done || done }) s

/-! ### The layout of Table 9-1 -/

/-- D0 of a stream register. -/
def Stream.d0 (q : Stream) : Nat :=
  q.kind.toNat * 2 ^ 60 + b2n q.dir * 2 ^ 59 + q.fmt.toNat * 2 ^ 54 + q.space.toNat * 2 ^ 52 + b2n q.att * 2 ^ 51
    + q.vreg.val * 2 ^ 46 + q.lvk.toNat * 2 ^ 44 + b2n q.iw * 2 ^ 43 + b2n q.done * 2 ^ 42 + b2n q.flt * 2 ^ 41
    + q.qa.val * 2 ^ 38 + q.qb.val * 2 ^ 35 + b2n q.cons * 2 ^ 34 + b2n q.pend * 2 ^ 33

/-- The 64 bytes that `ssave` writes. -/
def Stream.pack (q : Stream) : List Byte :=
  ([q.d0, q.base.toNat, q.abase.toNat, q.d3.toNat, q.d4.toNat, q.d5.toNat, q.d6.toNat, q.n.toNat]).flatMap (toBytes 8)

/-- The stream register that 64 bytes describe; flt is cleared, the pattern counts as complete (log 15) and where a
compressed fibre starts is read again (log 14). -/
def Stream.unpack (bs : List Byte) : Stream :=
  let d := fun i => ofBytes ((bs.drop (8 * i)).take 8)
  let w := fun i => BitVec.ofNat 64 (d i)
  let x := d 0
  { kind := BitVec.ofNat 4 (field x 60 4), dir := bitAt x 59, fmt := BitVec.ofNat 5 (field x 54 5),
    space := BitVec.ofNat 2 (field x 52 2), att := bitAt x 51, vreg := Fin.ofNat 32 (field x 46 5),
    lvk := BitVec.ofNat 2 (field x 44 2), iw := bitAt x 43, done := bitAt x 42, flt := false,
    qa := Fin.ofNat 8 (field x 38 3), qb := Fin.ofNat 8 (field x 35 3), cons := bitAt x 34, pend := bitAt x 33,
    base := w 1, abase := w 2, d3 := w 3, d4 := w 4, d5 := w 5, d6 := w 6, n := w 7, complete := true, lo := none, badPos := false,
    delivered := false, ctl := false, ahead := [] }

/-- Check the LOC address of `ssave` or `srest`: a multiple of 64 in the scratchpad or scalar data memory (09 R210). -/
def saveAddr (kind : AccKind) (a : Nat) : M Unit :=
  failIf (a % 64 != 0 || decide (0x210000 ≤ a)) (accExc .loc kind 0 (.bad causeAccess 4, a))

/-- The units of `ssave` at LOC address a: D5 and D6 are stored poisoned when what the stream holds there is poisoned (02 R52). -/
def State.saveUnits (s : State) (a : Nat) (q : Stream) : M (State × List StoreUnit) :=
  let part := fun (lo n : Nat) (bad : Bool) (s : State) =>
    s.storeUnits .loc (a + lo) n 0 .store ⟨ofBytes ((q.pack.drop lo).take n), bad⟩
  if !q.badPos then part 0 64 false s else
  match part 0 40 false s with
  | .error e => .error e
  | .ok (t, us) =>
    match part 40 16 true t with
    | .error e => .error e
    | .ok (t, vs) => (part 56 8 false t).map fun x => (x.1, us ++ vs ++ x.2)

/-- `ssave q, sa` (09 R210). -/
def execSsave (d : QIdx) (a : SReg) (s : State) : Out :=
  streamOp (fun s => (s.q d).isPort) [a] (fun s =>
    let x := (s.hart.s a).toNat
    if s.hart.capacity < s.hart.charge + 64 then .error (.trap causeCapacity 0 none) else
    match saveAddr .store x with
    | .error e => .error e
    | .ok _ =>
      match s.saveUnits x (s.q d) with
      | .error e => .error e
      | .ok (t, us) => (t.hart.push (.store us) 64).map fun h => { t with hart := h }) s

/-- `srest q, sa` (09 R210): poisoned bytes would be used as control and trap (02 R52). Registers past
v31 are illegal, and qa and qb are compared for kinds 4 and 5 (DESIGN CHOICE, log 76). -/
def execSrest (d : QIdx) (a : SReg) (s : State) : Out :=
  streamOp (fun s => (s.q d).isPort) [a] (fun s =>
    let x := (s.hart.s a).toNat
    match saveAddr .load x with
    | .error e => .error e
    | .ok _ =>
      match s.loadVal .loc x 64 0 .load with
      | .error e => .error e
      | .ok (t, y) =>
        if y.bad then .error poisonTrap else
        let q := Stream.unpack (toBytes 64 y.val)
        if decide (5 < q.kind.toNat) || field y.val 0 33 != 0 ||
            ((q.kind == kIsect || q.kind == kUnite) && (q.qa == d || q.qb == d)) ||
            (q.att && (decide (32 < q.vreg.val + q.span) || t.hart.regs.taken d q.vreg q.span))
        then .error illegal
        else .ok (t.setQ d q)) s

/-! ### Patterns (09 R200, R202) -/

/-- Write half l of a pair of 32-bit fields. -/
def setHalf (x : Word) (l v : Nat) : Word := BitVec.ofNat 64 (setField x.toNat (32 * l) 32 v)

/-- Set count and stride of level l. -/
def Stream.setLevel (q : Stream) (l : Nat) (cnt : BitVec 32) (stride : Nat) : Stream :=
  if l < 2 then { q with d3 := setHalf q.d3 l cnt.toNat, d5 := setHalf q.d5 l stride }
  else { q with d4 := setHalf q.d4 (l - 2) cnt.toNat, d6 := setHalf q.d6 (l - 2) stride }

/-- The go bit. -/
def Stream.start (q : Stream) (go : Bool) : Stream :=
  let q := { q with ahead := [] }
  if go then { q with n := 0, done := false, complete := true } else q

/-- `saff` (09 R200). -/
def execSaff (q : QIdx) (base stride : SReg) (lv : Fin 4) (go : Bool) (cnt : BitVec 32) (fmt : Format) (out : Bool)
    (sp : Space) (s : State) : Out :=
  plainN 16 s fun s =>
    let x := s.q q
    if x.isPort || x.att || x.cons || (lv != 0 && !(x.kind == kAffine || x.kind == kIndirect)) || (lv == 0 && fmtScaled fmt)
    then .error illegal
    else if (lv == 0 && s.hart.bad base) || s.hart.bad stride then .error poisonTrap
    else
      let st := sgn 64 (s.hart.s stride).toNat
      if st < -2147483648 ∨ 2147483647 < st then .error illegal else
      let y : Stream := if lv = 0 then
          { Stream.idle with kind := kAffine, dir := out, fmt := BitVec.ofNat 5 fmt.code, space := BitVec.ofNat 2 sp.code,
                             base := s.hart.s base }
        else x
      .ok (s.setQ q ((y.setLevel lv.val cnt (wrapI 32 st)).start go))

/-- `sidx` (09 R202). -/
def execSidx (q : QIdx) (a : SReg) (go iw : Bool) (s : State) : Out :=
  plainN 16 s fun s =>
    let x := s.q q
    if x.kind != kAffine then .error illegal
    else if s.hart.bad a then .error poisonTrap
    else .ok (s.setQ q ({ x with kind := kIndirect, abase := s.hart.s a, iw := iw }.start go))

/-! ### Fibres (09 R203, R204) -/

/-- `sfib` (09 R203). -/
def execSfib (q : QIdx) (a b : SReg) (lvk : Fin 4) (iw : Bool) (size len : BitVec 32) (p : SReg) (sp : Space) (s : State) : Out :=
  plainN 16 s fun s =>
    let x := s.q q
    let noPos := lvk == 0 || lvk == 3
    let noCrd := lvk == 0 || lvk == 2
    if x.isPort || x.att || x.cons || (noPos && a != 0) || (noCrd && (b != 0 || len != 0)) then .error illegal
    else if s.hart.bad a || s.hart.bad b || s.hart.bad p then .error poisonTrap
    else
      let k := s.hart.s p
      let n := size.toNat + 1
      let first : Word := if lvk = 3 then k else if lvk = 1 then 0 else k * BitVec.ofNat 64 n
      let last : Word := if lvk = 3 then k + 1 else if lvk = 1 then 0 else first + BitVec.ofNat 64 n
      let y : Stream := { Stream.idle with
        kind := kFibre, lvk := BitVec.ofNat 2 lvk.val, iw := iw, fmt := if iw then 7 else 6, space := BitVec.ofNat 2 sp.code,
        base := s.hart.s a, abase := s.hart.s b, d3 := k, d4 := BitVec.ofNat 64 (size.toNat * 2 ^ 32 + len.toNat), d5 := first,
        d6 := last, pend := lvk == 1, complete := true, lo := if lvk = 1 then none else some first }
      .ok (s.setQ q (s.started y))

end Sys2Proof.Machine
end

