-- ==== Sys2Proof/Machine/Strelran.lean ====
section
/-! DEFINITION. The Strelran image: building it from a frozen team, checking it, and reading a team back (15 R355-R360,
22 R418). -/
namespace Sys2Proof.Machine

/-! ### Pieces -/

/-- Doublewords as bytes. -/
def dws (l : List Nat) : List Byte := l.flatMap (toBytes 8)
/-- Zero bytes. -/
def zeroBytes (n : Nat) : List Byte := List.replicate n 0#8
/-- Round up to a multiple. -/
def alignUp (n x : Nat) : Nat := ceilDiv x n * n
/-- Pad with zeros to a multiple of n bytes. -/
def padTo (n : Nat) (b : List Byte) : List Byte := b ++ zeroBytes (alignUp n b.length - b.length)
/-- A number whose bit i is p i, for i below n. -/
def bitsOf (n : Nat) (p : Nat → Bool) : Nat := (List.range n).foldl (fun x i => if p i then x + 2 ^ i else x) 0
/-- Bytes per hart record (15 R356). -/
def hrSize (L : Nat) : Nat := alignUp 4096 (1536 + 2560 * L + 66 * (L * L))
/-- Bytes per Spire record (15 R357). -/
def spireRecSize : Nat := 69632
/-- Bytes per slot record. -/
def slotRecSize (L : Nat) : Nat := 16 + 69 * L
/-- Bytes per barrier record. -/
def barRecSize (nhart : Nat) : Nat := 64 + 8 * ceilDiv nhart 64

/-! ### Building -/

/-- The status doubleword of a hart record (15 Table 15-3). -/
def hartStatus (h : Hart) : Nat :=
  (if h.hcr.run = 3 then 4 else 3) * 1024 + h.hcr.preempt.toNat * 256 + b2n h.hcr.tkovf * 128 + b2n h.hcr.replay * 64
    + b2n h.serial * 32 + b2n h.inHandler * 16

/-- A hart record (15 Table 15-3). -/
def hartRec (L : Nat) (h : Hart) : List Byte :=
  let r := h.regs
  let x := r.h
  let c := h.hcr
  let vs := (List.finRange 32).map fun i => r.v[i]
  let ms := (List.finRange 8).map fun i => r.getM i
  let ts := (List.finRange 4).map fun i => r.a[i]
  let b := dws [h.pc.toNat, hartStatus h]
    ++ dws ((List.finRange 32).map fun i => (r.getS i).toNat)
    ++ dws [(r.sPoison &&& ~~~1#32).toNat]
    ++ dws [x.vl.toNat, x.ew.toNat, x.mtr.toNat, x.rmode.toNat, x.fflags.toNat, x.fenable.toNat, x.mod0.toNat, x.mod1.toNat,
            x.mroot.toNat, x.bnd.toNat, x.bfpmode.toNat, x.twg.toNat, x.seed.toNat]
    ++ dws [c.tvec.toNat, c.tcause.toNat, c.tepc.toNat, c.telem.toNat, c.tinfo.toNat]
    ++ dws [c.stripn.toNat, c.clock.toNat, c.stallIn.toNat, c.stallOut.toNat, c.stallMem.toNat, c.stallTok.toNat,
            c.stallBar.toNat, c.stallPres.toNat]
    ++ (h.tk.toList.flatMap fun k => toBytes 2 k.toNat)
    ++ dws [c.wdog.toNat, if c.run = 3 then h.haltTime else 0]
    ++ zeroBytes 488
    ++ (r.q.toList.flatMap Stream.pack)
    ++ (ms.flatMap fun m => toBytes (8 * L) m.bits.toNat) ++ (ms.flatMap fun m => toBytes (8 * L) m.poison.toNat)
    ++ (vs.flatMap fun v => toBytes (64 * L) v.data.toNat) ++ (vs.flatMap fun v => toBytes (4 * L) v.scale.toNat)
    ++ (vs.flatMap fun v => toBytes (8 * L) v.poison.toNat)
    ++ (ts.flatMap fun a => toBytes (16 * (L * L)) a.data.toNat) ++ (ts.flatMap fun a => toBytes (L * L / 2) a.poison.toNat)
  padTo (hrSize L) b

/-- A Spire record from the scalar data memory at index p (15 R357). -/
def spireRec (m : Mem) (p : Nat) : List Byte :=
  m.getBytes (p * 2 ^ 16) 65536 ++ toBytes 1024 (bitsOf 8192 fun i => m.bad.contains (p * 8192 + i)) ++ zeroBytes 3072

/-- Where a frozen team keeps the scalar data memory of logical Spire l. -/
def Team.savedSdm (t : Team) (l : Nat) : Nat := 512 * (t.task.order + 1) + l

/-- A slot record: link, number, state and contents (15 R357). -/
def slotRec (L link no st : Nat) (x : SlotData) : List Byte :=
  dws [x.n * 2 ^ 32 + st * 2 ^ 24 + no * 2 ^ 16 + link, 0]
    ++ toBytes L (bitsOf (8 * L) fun i => field x.poison.toNat (8 * i) 8 != 0)
    ++ toBytes (4 * L) (x.scale.toNat % 2 ^ (8 * ceilDiv x.n 32)) ++ toBytes (64 * L) x.data.toNat

/-- Eight 32-bit words, two per doubleword. -/
def pairs (l : List Nat) : List Nat := (List.range 4).map fun i => cnt l (2 * i) % 2 ^ 32 + cnt l (2 * i + 1) % 2 ^ 32 * 2 ^ 32

/-- A node record (15 R357). -/
def nodeRec (n : NodeState) : List Byte :=
  dws ([n.node]
    ++ ((List.range 4).map fun k => (List.range 4).foldl (fun x i => x + cnt n.counts (4 * k + i) % 2 ^ 16 * 2 ^ (16 * i)) 0)
    ++ pairs (n.sent ++ [n.iters])
    ++ [n.permits % 64 + n.merge % 8 * 256 + b2n n.delay.isSome * 2048]
    ++ pairs (n.done ++ [n.child % 8 + b2n n.active * 8]) ++ [0, 0])

/-- The slot records of a group: landed and held slots in link order, each link's in its release order, then held strips. -/
def groupSlots (L : Nat) (f : Fabric) : List (List Byte) :=
  ((List.range (imgLinks f.image)).flatMap fun i =>
      (sortBy (fun (x y : Slot) => decide (x.seq < y.seq)) ((f.linkState i).slots.filter fun x => x.st == .landed || x.st == .held)).map
        fun x => slotRec L i x.no (if x.st = .held then 4 else 3) x.x)
    ++ (List.range (imgNodes f.image)).filterMap fun j => ((f.nodeState j).delay).map fun x => slotRec L 0xFFFF j 3 x

/-- A group block (15 R357). -/
def groupBlock (L : Nat) (f : Fabric) : List Byte :=
  dws [(groupSlots L f).length] ++ ((List.range (imgNodes f.image)).flatMap fun j => nodeRec (f.nodeState j)) ++ (groupSlots L f).flatten

/-- The saved groups of a team in group order. -/
def Team.groups (t : Team) : List Fabric := sortBy (fun (x y : Fabric) => decide (x.group < y.group)) t.fabric

/-- The fabric section; none for a team without an image. -/
def fabricSection (t : Team) : Option (List Byte) :=
  match t.groups with
  | [] => none
  | f :: fs =>
    let L := 32 / t.perSpire
    let pend := ((f :: fs).findSome? fun f => f.load.map (·.addr)).getD 0
    let img := f.image.flatMap fun w => toBytes 8 w.toNat
    some (dws [img.length, (f :: fs).length, pend] ++ img ++ (f :: fs).flatMap (groupBlock L))

/-- The farm section: the latest claim of each hart (15 R357, 22 R418). -/
def farmSection (t : Team) : List Byte :=
  let f := t.farm
  dws [f.total, f.base, f.cursor, b2n f.started] ++ (List.range t.nhart).flatMap fun i =>
    match f.claims.find? fun c => c.lhid == i with
    | some c => dws [c.start, c.count + b2n c.pending * 2 ^ 63]
    | none => dws [0, 0]

/-- One barrier record (15 R357, 22 R418). -/
def barSection (nhart : Nat) (b : Barrier) : List Byte :=
  let last := b.arrivals.reverse
  let lh := fun (i : Nat) => ((last[i]?).map fun x => x.1 % 2 ^ 16).getD 0xFFFF
  let tm := fun (i : Nat) => ((last[i]?).map (·.2)).getD 0
  dws [b.episode % 2 ^ 32 + b.arrivals.length * 2 ^ 32, ((b.arrivals.head?).map (·.2)).getD 0,
       lh 0 * 2 ^ 48 + lh 1 * 2 ^ 32 + lh 2 * 2 ^ 16 + lh 3, tm 0, tm 1, tm 2, tm 3, 0]
    ++ toBytes (8 * ceilDiv nhart 64) (bitsOf nhart fun i => b.arrivals.any fun a => a.1 == i)

/-- The successor handles as four doublewords. -/
def succWords (l : List Nat) : List Nat := pairs l

/-- The live arrival watches that a team enqueued, with their tasks. -/
def State.watches (s : State) (t : Team) : List (Arrival × Task) :=
  t.arrs ++ s.dist.arrivals.filterMap fun a =>
    (s.dist.tasks.find? fun x => x.order == a.watch && x.ctx == t.task.ctx && x.enq == some t.task.order).map fun x => (a, x)

/-- An arrival record. -/
def arrivalRec (x : Arrival × Task) : List Byte :=
  dws ([x.1.tag % 2 ^ 32 + x.2.handle * 2 ^ 32, x.1.total, x.1.landed, x.2.succ.length + x.2.count * 256] ++ succWords x.2.succ)

/-- A command record. -/
def cmdRec (x : Nat × CmdWords) : List Byte :=
  let w := x.2
  dws [x.1, w.w0.toNat + w.w1.toNat * 2 ^ 32, w.w2.toNat + w.w3.toNat * 2 ^ 32, w.d.toNat, w.a.toNat, w.b.toNat, 0, 0]

/-- The hart of a record: one that has never been launched is saved as launched (15 R356). -/
def State.recHart (s : State) (t : Team) (c : Context) (i : Nat) : Hart :=
  (s.findHart ⟨t.task.ctx, t.task.order, i⟩).getD (launchHart t c i 0 false)

/-- Append a section at a 4 KiB boundary: its offset, 0 when absent. -/
def addSection (x : List Byte × List Nat) (b : Option (List Byte)) : List Byte × List Nat :=
  match b with
  | none => (x.1, x.2 ++ [0])
  | some b => (x.1 ++ padTo 4096 b, x.2 ++ [x.1.length])

/-- A section that may be empty. -/
def optSection (b : List Byte) : Option (List Byte) := if b.isEmpty then none else some b

/-- Sum modulo 2^64 of the doublewords of a list of bytes. -/
def sumWords (b : List Byte) : Nat := ((chunks 8 b.length b).map ofBytes).foldl (· + ·) 0 % 2 ^ 64

/-- The Strelran image of a frozen team (15 R355-R357). -/
def State.buildImage (s : State) (t : Team) (c : Context) : List Byte :=
  let L := 32 / t.perSpire
  let ws := s.watches t
  let secs : List (Option (List Byte)) :=
    [ some ((List.range t.nhart).flatMap fun i => hartRec L (s.recHart t c i)),
      some ((List.range t.task.nspire).flatMap fun l => spireRec s.sdm (t.savedSdm l)),
      fabricSection t,
      some (farmSection t),
      some (t.bars.flatMap (barSection t.nhart)),
      optSection (ws.flatMap arrivalRec),
      optSection (t.cmds.flatMap cmdRec) ]
  let y := secs.foldl addSection (zeroBytes 4096, [])
  let d := fun (n : Nat) => s.descWord ⟨t.task.ctx, ((t.held[0]?).join).getD Config.spires⟩ n
  let hdr := fun (sum : Nat) => dws ([2 ^ 32 + 0x4E525453, y.1.length, sum,
      t.task.handle * 2 ^ 24 + t.task.prio * 2 ^ 20 + b2n t.task.cosched * 2 ^ 18 + t.task.pmode * 2 ^ 16 + t.task.nspire,
      hrSize L * 2 ^ 32 + t.nhart, c.ptroot.toNat, c.hptroot.toNat, d 1, d 2, d 3, d 4, d 5, d 0 % 2 ^ 17]
    ++ y.2 ++ [t.cmds.length * 2 ^ 32 + ws.length * 2 ^ 16 + t.fabric.length, t.frozenAt] ++ succWords t.task.succ
    ++ [t.task.succ.length])
  let body := fun (sum : Nat) => padTo 4096 (hdr sum) ++ y.1.drop 4096
  body (sumWords (body 0))

/-! ### Reading -/

/-- Doubleword at byte offset o of an image at a physical address. -/
def imgWord (m : Mem) (a o : Nat) : Nat := m.getN (a + o) 8
/-- Header doubleword n. -/
def imgI (m : Mem) (a n : Nat) : Nat := imgWord m a (8 * n)

/-- Lanes, harts per Spire, logical Spires and harts that a header names. -/
def imgPmode (m : Mem) (a : Nat) : Nat := field (imgI m a 3) 16 2
def imgLanes (m : Mem) (a : Nat) : Nat := 32 / 2 ^ imgPmode m a
def imgS (m : Mem) (a : Nat) : Nat := field (imgI m a 3) 0 10
def imgNhart (m : Mem) (a : Nat) : Nat := field (imgI m a 4) 0 32
/-- Groups, arrival records and command records. -/
def imgG (m : Mem) (a : Nat) : Nat := field (imgI m a 20) 0 16
def imgNarr (m : Mem) (a : Nat) : Nat := field (imgI m a 20) 16 16
def imgNcmd (m : Mem) (a : Nat) : Nat := field (imgI m a 20) 32 16

/-- The words of the fabric image that the fabric section holds. -/
def imgFabric (m : Mem) (a : Nat) : List (BitVec 64) :=
  (List.range (imgWord m a (imgI m a 15) / 8)).map fun i => BitVec.ofNat 64 (imgWord m a (imgI m a 15 + 24 + 8 * i))

/-- Offset of the first group block. -/
def imgBlocks (m : Mem) (a : Nat) : Nat := imgI m a 15 + 24 + alignUp 8 (imgWord m a (imgI m a 15))
/-- Bytes of a group block that starts at offset o. -/
def blockSize (m : Mem) (a L nn o : Nat) : Nat := 8 + 128 * nn + slotRecSize L * imgWord m a o
/-- Offset of group block g. -/
def blockAt (m : Mem) (a L nn : Nat) : Nat → Nat
  | 0 => imgBlocks m a
  | g + 1 => blockAt m a L nn g + blockSize m a L nn (blockAt m a L nn g)

/-- Bytes of the fabric section when its records are well formed: counts lie within the image, states are 3 or 4, and a
held delay strip carries 3 (15 R357). -/
def fabricSize (m : Mem) (a L nn len : Nat) : Nat → Nat → Option Nat
  | 0, o => some o
  | g + 1, o =>
    if len < o + 8 then none else
    let n := imgWord m a o
    let first := o + 8 + 128 * nn
    if len < first + n * slotRecSize L then none
    else if (List.range n).any fun i =>
      let d := imgWord m a (first + i * slotRecSize L)
      if d % 65536 = 0xFFFF then field d 24 3 != 3 else field d 24 3 != 3 && field d 24 3 != 4
    then none
    else fabricSize m a L nn len g (o + blockSize m a L nn o)

/-- End of a section of n bytes at offset o: sections stand in order on 4 KiB boundaries; an absent one has offset 0. -/
def nextSection (pos : Option Nat) (x : Nat × Nat) : Option Nat :=
  match pos with
  | none => none
  | some p => if x.1 = 0 then (if x.2 = 0 then some p else none)
    else if x.1 = p then some (p + alignUp 4096 x.2) else none

/-- Code 0x04 of Table 15-5: the image is malformed. -/
def badStrelran (m : Mem) (a : Nat) : Bool :=
  let i := imgI m a
  let len := i 1
  let L := imgLanes m a
  let nh := imgNhart m a
  let fab := if i 15 = 0 then some 0 else
    (fabricSize m a L (imgNodes (imgFabric m a)) len (imgG m a) (imgBlocks m a)).map fun e => e - i 15
  field (i 0) 0 32 != 0x4E525453 || field (i 0) 32 8 != 1 || field (i 0) 40 24 != 0
    || decide (len < 4096) || len % 4096 != 0 || decide (Config.devEnd < a + len)
    || field (i 3) 56 8 != 0 || bitAt (i 3) 19 || field (i 3) 10 6 != 0 || imgS m a == 0 || decide (512 < imgS m a)
    || nh != imgS m a * 2 ^ imgPmode m a || field (i 4) 32 32 != hrSize L
    || field (i 12) 17 47 != 0 || field (i 20) 48 16 != 0 || field (i 26) 8 56 != 0 || decide (8 < field (i 26) 0 8)
    || ((List.range 5).any fun k => i (27 + k) != 0)
    || ((i 15 == 0) != (imgG m a == 0)) || ((i 18 == 0) != (imgNarr m a == 0)) || ((i 19 == 0) != (imgNcmd m a == 0))
    || i 13 == 0 || i 14 == 0 || i 16 == 0 || i 17 == 0
    || (match fab with
      | none => true
      | some f => [(i 13, nh * hrSize L), (i 14, imgS m a * spireRecSize), (i 15, f), (i 16, 32 + 16 * nh),
                   (i 17, 64 * barRecSize nh), (i 18, 64 * imgNarr m a), (i 19, 64 * imgNcmd m a)].foldl nextSection (some 4096)
                   != some len)
    || i 2 != ((List.range (len / 8)).foldl (fun x k => if k = 2 then x else x + i k) 0) % 2 ^ 64

/-- The hart of a record at an address. An OUT hart keeps no fault record (15 R356; log 36). -/
def readHart (m : Mem) (a L : Nat) (base : Hart) (c : Context) : Hart :=
  let d := fun (o : Nat) => m.getN (a + o) 8
  let w := fun (o : Nat) => BitVec.ofNat 64 (d o)
  let st := d 8
  let nat := fun (o n : Nat) => m.getN (a + o) n
  let oM := 0x600
  let oV := oM + 128 * L
  let oT := oM + 2560 * L
  let regs : Regs :=
    { s := Vector.ofFn fun (i : Fin 32) => if i = 0 then 0 else w (0x10 + 8 * i.val)
      sPoison := BitVec.ofNat 32 (d 0x110) &&& ~~~1#32
      v := Vector.ofFn fun (i : Fin 32) =>
        ⟨BitVec.ofNat _ (nat (oV + 64 * L * i.val) (64 * L)), BitVec.ofNat _ (nat (oM + 2176 * L + 4 * L * i.val) (4 * L)),
         BitVec.ofNat _ (nat (oM + 2304 * L + 8 * L * i.val) (8 * L)), 0⟩
      m := Vector.ofFn fun (i : Fin 8) =>
        if i = 0 then MReg.zero else ⟨BitVec.ofNat _ (nat (oM + 8 * L * i.val) (8 * L)), BitVec.ofNat _ (nat (oM + 64 * L + 8 * L * i.val) (8 * L))⟩
      a := Vector.ofFn fun (i : Fin 4) =>
        ⟨BitVec.ofNat _ (nat (oT + 16 * (L * L) * i.val) (16 * (L * L))),
         BitVec.ofNat _ (nat (oT + 64 * (L * L) + L * L / 2 * i.val) (L * L / 2))⟩
      q := Vector.ofFn fun (i : Fin 8) =>
        let bs := m.getBytes (a + 0x400 + 64 * i.val) 64
        { Stream.unpack bs with flt := bitAt (ofBytes (bs.take 8)) 41 }
      h := { vl := BitVec.ofNat _ (d 0x118), ew := BitVec.ofNat _ (d 0x120), mtr := BitVec.ofNat _ (d 0x128)
             rmode := BitVec.ofNat _ (d 0x130), fflags := BitVec.ofNat _ (d 0x138), fenable := BitVec.ofNat _ (d 0x140)
             mod0 := w 0x148, mod1 := w 0x150, mroot := w 0x158, bnd := w 0x160, bfpmode := BitVec.ofNat _ (d 0x168)
             twg := w 0x170, seed := w 0x178 } }
  let halted := field st 10 3 == 4
  { base with
    pc := w 0, opened := w 0, regs := regs, ckpt := regs, serial := bitAt st 5, inHandler := bitAt st 4, haltTime := d 0x210
    tk := Vector.ofFn fun (i : Fin 16) => BitVec.ofNat 16 (nat (0x1E8 + 2 * i.val) 2)
    out := true, fault := none
    hcr := { Hcr.reset with
      tvec := w 0x180, tcause := BitVec.ofNat _ (d 0x188), tepc := w 0x190, telem := BitVec.ofNat _ (d 0x198), tinfo := w 0x1A0
      stripn := w 0x1A8, clock := w 0x1B0, stallIn := w 0x1B8, stallOut := w 0x1C0, stallMem := w 0x1C8, stallTok := w 0x1D0
      stallBar := w 0x1D8, stallPres := w 0x1E0, wdog := BitVec.ofNat _ (d 0x208), ptroot := c.ptroot, hptroot := c.hptroot
      replay := bitAt st 6, tkovf := bitAt st 7, preempt := BitVec.ofNat 2 (field st 8 2)
      sstate := if halted then 4 else 3, run := if halted then 3 else 2 } }

/-- Put a Spire record back into the scalar data memory at index p. -/
def readSpire (m sdm : Mem) (a p : Nat) : Mem :=
  let x := m.slice a 65536 (p * 2 ^ 16)
  let bits := m.getN (a + 65536) 1024
  sdm.paste { x with bad := ((List.range 8192).filter (bitAt bits)).map fun i => p * 8192 + i } (p * 2 ^ 16) 65536

/-- The contents of a slot record at an address: a poisoned word poisons its eight bytes. -/
def readSlot (m : Mem) (a L : Nat) : SlotData :=
  let bad := m.getN (a + 16) L
  { n := field (m.getN a 8) 32 16
    poison := BitVec.ofNat _ ((List.range (8 * L)).foldl (fun x i => if bitAt bad i then x + 255 * 2 ^ (8 * i) else x) 0)
    scaleBad := 0
    scale := BitVec.ofNat _ (m.getN (a + 16 + L) (4 * L))
    data := BitVec.ofNat _ (m.getN (a + 16 + 5 * L) (64 * L)) }

/-- Word j of eight 32-bit words at an address. -/
def word32 (m : Mem) (a j : Nat) : Nat := m.getN (a + 4 * j) 4

/-- A node record at an address. -/
def readNode (m : Mem) (a : Nat) : NodeState :=
  let st := word32 m (a + 80) 7
  let d9 := m.getN (a + 72) 8
  { node := m.getN a 8 % 128, counts := (List.range 16).map fun i => m.getN (a + 8 + 2 * i) 2
    permits := d9 % 64, merge := field d9 8 3, delay := none
    sent := (List.range 7).map (word32 m (a + 40)), done := (List.range 7).map (word32 m (a + 80))
    iters := word32 m (a + 40) 7, child := st % 8, active := bitAt st 3 }

/-- One slot record restored into a group. -/
def Fabric.putSlot (L : Nat) (m : Mem) (f : Fabric) (a : Nat) : Fabric :=
  let d := m.getN a 8
  let no := field d 16 8
  let x := readSlot m a L
  if d % 65536 = 0xFFFF then f.updNode no fun n => { n with delay := some x }
  else f.updLink (d % 65536) fun l =>
    { (l.updSlot no fun y => { y with st := if field d 24 3 = 4 then .held else .landed, x := x, seq := l.next }) with next := l.next + 1 }

/-- Group g of the fabric section; a pending load starts again in every group (15 R340; log 36). -/
def readGroup (m : Mem) (a ctx order g : Nat) : Fabric :=
  let L := imgLanes m a
  let img := imgFabric m a
  let o := a + blockAt m a L (imgNodes img) g
  let pend := imgWord m a (imgI m a 15 + 16)
  let f : Fabric := { Fabric.reset Config.cupolas with
    state := .stopped, ctx := ctx, team := order, group := g, groups := imgG m a, image := img
    links := (List.range (imgLinks img)).map (freshLink img)
    nodes := (List.range (imgNodes img)).map fun j => readNode m (o + 8 + 128 * j)
    load := if pend = 0 then none else some ⟨pend, 2⟩ }
  (List.range (m.getN o 8)).foldl (fun f i => f.putSlot L m (o + 8 + 128 * imgNodes img + i * slotRecSize L)) f

/-- The control-port marks of a hart's stream registers, which Table 9-1 does not hold, from the image. -/
def Hart.markPorts (h : Hart) (img : List (BitVec 64)) : Hart :=
  let l := h.lsid % max 1 (imgSpires img)
  let up := fun (x : Regs) => (List.finRange 8).foldl (fun (r : Regs) q =>
    match imgPort img l q.val with
    | some (k, _, c) => if (r.q[q]).kind = k ∧ q.val % h.perSpire = h.id.lhid % h.perSpire then r.setQ q { r.q[q] with ctl := c } else r
    | none => r) x
  { h with regs := up h.regs, ckpt := up h.ckpt }

/-- The farm of an image. -/
def readFarm (m : Mem) (a nh : Nat) : Farm :=
  { total := m.getN a 8, base := m.getN (a + 8) 8, cursor := m.getN (a + 16) 8, started := bitAt (m.getN (a + 24) 8) 0
    claims := (List.range nh).filterMap fun i =>
      let st := m.getN (a + 32 + 16 * i) 8
      let c := m.getN (a + 40 + 16 * i) 8
      if st = 0 ∧ c = 0 then none else some ⟨i, st, c % 2 ^ 63, bitAt c 63⟩ }

/-- A barrier of an image: the harts other than the last four stand first, in LHID order, with tfirst (22 R418). -/
def readBar (m : Mem) (a nh : Nat) : Barrier :=
  let bits := m.getN (a + 64) (8 * ceilDiv nh 64)
  let arrived := (List.range nh).filter (bitAt bits)
  let d2 := m.getN (a + 16) 8
  let last := (List.range 4).filterMap fun i =>
    (arrived.find? fun x => x == field d2 (48 - 16 * i) 16).map fun x => (x, m.getN (a + 24 + 8 * i) 8)
  let rest := (arrived.filter fun x => !last.any fun y => y.1 == x).map fun x => (x, m.getN (a + 8) 8)
  ⟨m.getN a 4, rest ++ last.reverse⟩

/-- The eight (or fewer) handles at an address. -/
def readSucc (m : Mem) (a n : Nat) : List Nat := (List.range n).map fun i => m.getN (a + 4 * i) 4

/-- An arrival record, with the watch task that it carries. -/
def readArrival (m : Mem) (a ctx order now : Nat) : Arrival × Task :=
  let d0 := m.getN a 8
  let d3 := m.getN (a + 24) 8
  (⟨ctx, d0 % 2 ^ 32, m.getN (a + 8) 8, m.getN (a + 16) 8, 0⟩,
   { ctx := ctx, kind := 2, prio := 0, pmode := 0, cosched := false, nspire := 0, entry := 0, image := 0, n := 0
     handle := d0 / 2 ^ 32, succ := readSucc m (a + 32) (min 8 (d3 % 256)), payload := [], count := field d3 8 8, ready := false
     since := now, aged := 0, order := 0, enq := some order, readyNo := 0 })

/-- A command record. -/
def readCmd (m : Mem) (a : Nat) : Nat × CmdWords :=
  let w := fun (o : Nat) => BitVec.ofNat 32 (m.getN (a + o) 4)
  let d := fun (o : Nat) => BitVec.ofNat 64 (m.getN (a + o) 8)
  (m.getN a 4, ⟨w 8, w 12, w 16, w 20, d 24, d 32, d 40⟩)

/-- The team of an image for context c and acceptance number `order`. Its task is ready (15 R359). -/
def readTeam (m : Mem) (a : Nat) (c order now readyNo : Nat) : Team :=
  let nh := imgNhart m a
  let fs := (List.range (imgG m a)).map (readGroup m a c order)
  let i3 := imgI m a 3
  let bars := (List.range 64).map fun k => readBar m (a + imgI m a 17 + k * barRecSize nh) nh
  { task :=
      { ctx := c, kind := 0, prio := field i3 20 4, pmode := imgPmode m a, cosched := bitAt i3 18, nspire := imgS m a, entry := 0
        image := if fs.isEmpty then 0 else 1, n := if fs.isEmpty then 0 else imgSpires (imgFabric m a), handle := field i3 24 32
        succ := readSucc m (a + 176) (field (imgI m a 26) 0 8), payload := [], count := 0, ready := true, since := now, aged := 0
        order := order, enq := none, readyNo := readyNo }
    st := .switchedOut, place := List.replicate (imgS m a) none, held := List.replicate (imgS m a) none, since := now
    expired := false, farm := readFarm m (a + imgI m a 16) nh, bars := bars
    latest := bars.zipIdx.flatMap fun b => b.1.arrivals.map fun x => (x.1, b.2, b.1.episode)
    saveSlot := none, fabric := fs, cmds := (List.range (imgNcmd m a)).map fun k => readCmd m (a + imgI m a 19 + 64 * k)
    freezing := false, preempting := false, evict := [], frozenAt := imgI m a 21, colls := []
    arrs := (List.range (imgNarr m a)).map fun k => readArrival m (a + imgI m a 18 + 64 * k) c order now
    ending := false, orig := none, words := [], source := none }

/-- At the placement of a team that op 3 has accepted from an image, its records are loaded from the image as it then stands: its harts,
its scalar data memories, its fabric state, and its farm, barriers, watches and commands (15 R351, R359). -/
def State.loadRecords (s : State) (t : Team) : State :=
  match t.source, s.context t.task.ctx with
  | some a, some c =>
    let ctx := t.task.ctx
    let order := t.task.order
    let x := readTeam s.dev a ctx order s.nstime t.task.readyNo
    let u := { t with source := none, farm := x.farm, bars := x.bars, latest := x.latest, cmds := x.cmds, arrs := x.arrs, frozenAt := x.frozenAt
                      fabric := if t.orig.isSome then t.fabric else x.fabric, orig := t.orig.map fun o => (x.fabric, o.2) }
    let L := 32 / t.perSpire
    let hs := (List.range t.nhart).map fun i =>
      let h := readHart s.dev (a + imgI s.dev a 13 + i * hrSize L) L (launchHart t c i 0 false) c
      if x.fabric.isEmpty then h else h.markPorts (imgFabric s.dev a)
    let sdm := (List.range t.task.nspire).foldl (fun sdm l => readSpire s.dev sdm (a + imgI s.dev a 14 + spireRecSize * l) (t.savedSdm l)) s.sdm
    State.addHarts (State.updTeam { s with sdm := sdm } ctx order fun _ => u) hs
  | _, _ => s

end Sys2Proof.Machine
end

