-- ==== Sys2Proof/Machine/SwitchOut.lean ====
section
/-! DEFINITION. Teams leave their Spires: the context store and the save slots, the release of Spires, and what follows when a hart
has left (14 R341, 15 R347-R352). -/
namespace Sys2Proof.Machine

/-! ### The context store (15 R349, R351) -/

/-- Write bytes of an image or of a save slot into device memory. -/
def State.writeImage (s : State) (a : Nat) (b : List Byte) : Except Halt State := (s.devFree Config.spires a b.length).map fun _ => s.devStore a b

/-- The physical address of the save slot that a team holds (15 R351). -/
def State.slotAddr (s : State) (t : Team) : Option Nat :=
  match s.context t.task.ctx, t.saveSlot with
  | some c, some n => some (c.cxsave.toNat / 2 ^ 27 * 2 ^ 27 + 2 ^ 27 * n)
  | _, _ => none

/-- A set leaves the context store for its team's save slot, in the places of the Strelran layout (15 R351). -/
def State.evictSet (s : State) (x : Nat × Nat × Nat × Nat) : Except Halt State :=
  let s : State := { s with ctxStore := s.ctxStore.filter fun y => y != x }
  let ctx := x.2.1
  let order := x.2.2.1
  let ls := x.2.2.2
  match s.team ctx order with
  | none => .ok s
  | some t =>
    match s.slotAddr t with
    | none => .ok s
    | some a =>
      let L := 32 / t.perSpire
      let hs := (List.range t.perSpire).filterMap fun k => s.findHart ⟨ctx, order, ls * t.perSpire + k⟩
      (s.writeImage (a + 4096 + hrSize L * (ls * t.perSpire)) (hs.flatMap (hartRec L))).bind fun s =>
        s.writeImage (a + 4096 + hrSize L * t.nhart + spireRecSize * ls) (spireRec s.sdm (t.savedSdm ls))

/-- The set of logical Spire ls of a team enters the context store for Spire p, which has room for one (15 R349). -/
def State.storeSet (s : State) (p ctx order ls : Nat) : Except Halt State :=
  ((s.ctxStore.filter fun x => x.1 == p).foldl (fun (r : Except Halt State) x => r.bind fun s => s.evictSet x) (.ok s)).map fun s =>
    { s with ctxStore := (p, ctx, order, ls) :: s.ctxStore }

/-! ### Release (15 R348) -/

/-- Release the Spire of a logical Spire: its scalar data memory goes to the saved copy, and its set to the context store unless a
freeze saves the whole team (`store`). -/
def State.releaseSpire (s : State) (ctx order ls : Nat) (store : Bool) : Except Halt State :=
  match s.team ctx order with
  | none => .ok s
  | some t =>
    match t.spireOf ls with
    | none => .ok s
    | some p =>
      (if store then s.storeSet p ctx order ls else .ok s).map fun s =>
        let s : State := { s with sdm := s.sdm.copyRange s.sdm (p * 2 ^ 16) 65536 ((512 * (order + 1) + ls) * 2 ^ 16) }
        s.updTeam ctx order fun t => { t with place := t.place.set ls none, held := t.held.set ls (some p), evict := t.evict.filter (· != ls) }

/-- Release Spires of a team. -/
def State.releaseSpires (s : State) (ctx order : Nat) (store : Bool) (l : List Nat) : Except Halt State :=
  l.foldl (fun (r : Except Halt State) ls => r.bind fun s => s.releaseSpire ctx order ls store) (.ok s)

/-- Release every Spire of a team; its fabrics are saved by group once everything has landed (14 R341). -/
def State.releaseAll (s : State) (ctx order : Nat) (store : Bool) : Except Halt State :=
  let cs := (s.fabrics.filter fun f => f.ctx == ctx && f.team == order && f.state != .none).map (·.c)
  (stopOnly (cs.foldl (fun (r : Except Fault State) c => r.bind (State.landAll c 100000)) (.ok s))).bind fun s =>
    let saved := (s.fabrics.filter fun f => cs.contains f.c).map s.poisonedSlots
    let fs := s.fabrics.map fun f => if cs.contains f.c then f.vacate else f
    let s := ({ s with fabrics := fs } : State).updTeam ctx order fun t => { t with fabric := if cs.isEmpty then t.fabric else saved }
    match s.team ctx order with
    | none => .ok s
    | some t => s.releaseSpires ctx order store (List.range t.task.nspire)

/-! ### A hart leaves (15 R347) -/

/-- What follows when a hart of a team has left: Spires are released (15 R348). The team waits for Spires again, its ageing counted
from the pre-emption (12 R288). -/
def State.afterOut (s : State) (ctx order : Nat) : Except Halt State :=
  match s.team ctx order with
  | none => .ok s
  | some t =>
    (s.releaseSpires ctx order true (t.evict.filter (s.spireOut t))).bind fun s =>
      let gone := (List.range t.task.nspire).all (s.spireOut t)
      if t.preempting ∧ !t.freezing ∧ gone then
        (s.releaseAll ctx order true).map fun s =>
          (s.updTeam ctx order fun t => { t with st := .switchedOut, preempting := false }).toReady ctx order t.task.since
      else
        match s.team ctx order with
        | none => .ok s
        | some t =>
          .ok (if t.st = .running ∧ !t.task.cosched ∧ !t.freezing ∧ t.place.all Option.isNone then
            (s.updTeam ctx order fun t => { t with st := .switchedOut }).toReady ctx order t.task.since
          else s)

/-- HART_SWITCH_OUT (15 R347): a hart that is asked to leave is taken out when it may be, its committed stores perform, and it counts
as switched out; its links are broken (05 R136). -/
def execHartSwitchOut (s : State) : Out :=
  let i := s.argHart
  match s.findHart i with
  | none => .next s
  | some h =>
    if h.out || !h.asked || !(h.takeable || h.hcr.sstate == 3 || h.hcr.sstate == 4) then .next s else
    let t := if h.takeable then s.takeOut i (!h.fabricReq) else s
    let mine := fun (f : Flight) => f.hart == some i
    t.outcome ((t.settleStores mine).bind fun t =>
      ((t.drainHost mine).updHart i fun h =>
        { h with out := true, links := [], preemptReq := false, freezeReq := false, fabricReq := false,
                 hcr := { h.hcr with run := if h.hcr.run = 3 then 3 else 2 } }).afterOut i.ctx i.team)

end Sys2Proof.Machine
end

