-- ==== Sys2Proof/Machine/TeamOps.lean ====
section
/-! DEFINITION. Team management: freeze, image, resume, end, restart and reflect, and the end of engine commands
(15 R344, R353-R363, 09 R211). -/
namespace Sys2Proof.Machine

/-! ### TMCMD (15 Table 15-4) -/

/-- An operation completes with a code. -/
def State.tmDone (s : State) (code : Nat) : State := { s with tm := { s.tm with code := BitVec.ofNat 8 code, busy := false } }

/-- A write of TMCMD: ignored while busy; its fields are stored, and go starts an operation that p accepts. An operation that waits
stays busy, and `again` goes on with it at a later step (15 Table 15-4). -/
def tmWrite (p : Nat → Bool) (f again : State → Out) (s : State) : Out :=
  match s.arg with
  | .value _ v =>
    let t : State := { s with tm := { s.tm with ctxid := v.extractLsb' 48 16, handle := v.extractLsb' 16 32, op := v.extractLsb' 4 4 } }
    if s.tm.busy then .next s
    else if !v.getLsbD 0 then .next t
    else if p (field v.toNat 4 4) then f t else .next s
  | .nothing => if s.tm.busy && p s.tm.op.toNat then again s else .next s
  | _ => .next s

/-- The operation is in progress. -/
def State.tmBusy (s : State) : State := { s with tm := { s.tm with busy := true } }

/-- The team that TMCMD names and that has not ended. -/
def State.tmTeam (s : State) : Option Team :=
  s.dist.teams.find? fun t => s.tm.handle != 0 && t.task.ctx == s.tm.ctxid.toNat && t.task.handle == s.tm.handle.toNat && !t.ending
/-- A team that has been launched (15 R358). -/
def State.launched (s : State) (t : Team) : Bool := t.source.isSome || (List.range t.task.nspire).any (s.hasHarts t)
/-- The live team that TMCMD names. -/
def State.liveTeam (s : State) : Option Team := s.tmTeam.filter s.launched

/-! ### Freeze (15 R353, R354) -/

/-- A team whose fabrics load for a resume leaves its Spires again; it has not run. Its loads are abandoned, with status 0x0D, and start
again at its next resume (14 R340). -/
def State.unplaceResume (s : State) (t : Team) : State :=
  if t.st ≠ .loading then s else
  let fs := s.fabrics.map fun f => if f.ctx = t.task.ctx ∧ f.team = t.task.order then f.abandon.vacate else f
  State.updTeam { s with fabrics := fs } t.task.ctx t.task.order fun t =>
    { t with st := .switchedOut, place := t.place.map fun _ => none, fabric := t.fabric.map Fabric.pend }

/-- Begin to freeze a team that has or can take a save slot. -/
def State.beginFreeze (s : State) (t : Team) : State :=
  let s := ((((s.takeSlot t).loadRecords t).unplaceResume t).askOut t true fun _ => true).abandonLoads t
  let s := s.updTeam t.task.ctx t.task.order fun t => { t with freezing := true, task := { t.task with ready := false } }
  { s with dist := { s.dist with holds := s.dist.holds.filter fun h => h.2 != t.task.order } }

/-- A save slot is there for a team. -/
def State.slotFor (s : State) (t : Team) : Bool := t.saveSlot.isSome || ((s.context t.task.ctx).bind Context.freeSlot).isSome

/-- TM_FREEZE (15 R353): op 1. -/
def execTmFreeze (s : State) : Out :=
  tmWrite (· == 1) (fun s =>
    match s.liveTeam with
    | none => .next (s.tmDone 1)
    | some t =>
      if t.st = .frozen then .next (s.tmDone 0)
      else if t.freezing then
        let keep := s.belfry.retWait.map fun j => { j with teams := j.teams.map fun x => if x.2.1 = t.task.order then (x.1, x.2.1, false) else x }
        .next (State.tmBusy { s with belfry := { s.belfry with retWait := keep } })
      else if !s.slotFor t then .next (s.tmDone 9)
      else .next (s.beginFreeze t).tmBusy) .next s

/-- A collective command that no episode with every rank joined holds. -/
def State.unjoined (s : State) (c : Cmd) : Bool :=
  c.words.lop == 5 && match c.st with
    | .queued => true
    | .begun => !s.episodes.any fun e => e.ranks.any (fun r => r.cmd == c.k) && decide (s.episodeSize e ≤ e.ranks.length)
    | _ => false

/-- Withdraw the episodes of a team that some rank has not joined: their commands, in the order in which they were placed, go to the
team, every rank's count goes back by the episodes it had joined, and what came early is freed (15 R353 item 4). -/
def State.withdrawColls (s : State) (t : Team) : State :=
  let mine := fun (c : Cmd) => c.hart.ctx == t.task.ctx && c.hart.team == t.task.order
  let out := s.cmds.filter fun c => mine c && s.unjoined c
  let eps := s.episodes.filter fun e => e.ctx == t.task.ctx && e.team == t.task.order && decide (e.ranks.length < s.episodeSize e)
  let back := fun (x : Nat × Nat × Nat) =>
    (x.1, x.2.1, x.2.2 - (eps.filter fun e => e.id == x.1 && e.ranks.any fun r => r.rank == x.2.1).length)
  let s : State := { s with cmds := s.cmds.filter fun c => !(mine c && s.unjoined c), episodes := s.episodes.filter fun e => !eps.contains e }
  let s := s.updTeam t.task.ctx t.task.order fun t =>
    { t with cmds := t.cmds ++ out.map fun c => (c.hart.lhid, c.words), colls := t.colls.map back }
  let early := fun (o : Overflow) => eps.any fun e => o.isFor e o.dst
  if s.overflow.any early then s.overflowFree t.task.ctx early else s

/-- Frames that hold pages of a team. -/
def Team.owns (t : Team) (f : Frame) : Bool := f.ctx == t.task.ctx && decide (f.lsid < t.task.nspire) && f.resident

/-- Save every dirty frame of a team to its backing (11 R261). -/
def State.saveFrames (s : State) (t : Team) : Except Halt State :=
  (s.frames.filter fun f => t.owns f && f.dirty).foldl (fun (r : Except Halt State) f =>
    r.bind fun s => (s.savePage f).map fun s => s.updFrame f.key fun x => { x with dirty := false }) (.ok s)

/-- TMCMD names a team in an operation that is in progress. -/
def State.tmNames (s : State) (op : Nat) (t : Team) : Bool :=
  s.tm.busy && s.tm.op.toNat == op && s.tm.ctxid.toNat == t.task.ctx && s.tm.handle.toNat == t.task.handle

/-- The last two steps of a freeze, once the team's stores have performed: frames saved, Spires released, state written. A resume
that had not been placed keeps the image that the team was saved with. -/
def State.freezeTeam (s : State) (t : Team) : Except Halt State :=
  let ctx := t.task.ctx
  let order := t.task.order
  (s.saveFrames t).bind fun s => (s.releaseAll ctx order false).bind fun s =>
    let s := s.updTeam ctx order fun t => { t.refreeze with freezing := false, preempting := false, evict := [], frozenAt := s.nstime }
    let s : State := { s with ctxStore := s.ctxStore.filter fun x => !(x.2.1 == ctx && x.2.2.1 == order) }
    let s := if s.tmNames 1 t then s.tmDone 0 else s
    match s.team ctx order, s.context ctx with
    | some t, some c => match s.slotAddr t with
      | some a => s.writeImage a (s.buildImage t c)
      | none => .ok s
    | _, _ => .ok s

/-- FREEZE_COMPLETE (15 R353): team number b of context a has reached its quiescent point. Episodes that cannot complete are withdrawn
first; those that every rank has joined then run to their ends. -/
def execFreezeComplete (s : State) : Out :=
  match s.arg with
  | .nums ctx order _ =>
    match s.team ctx order with
    | none => .next s
    | some t =>
      let mine := fun (c : Cmd) => c.hart.ctx == ctx && c.hart.team == order
      if !t.freezing ∨ t.ending ∨ !(List.range t.task.nspire).all (s.spireOut t) ∨ s.cmds.any (fun c => mine c && c.words.lop != 5) then
        .next s
      else if s.cmds.any fun c => mine c && !s.unjoined c then .next (s.withdrawColls t)
      else
        let own := fun (f : Flight) => f.hart.any fun h => h.ctx == ctx && h.team == order
        s.outcome (((s.withdrawColls t).settleStores own).bind fun u => (u.drainHost own).freezeTeam t)
  | _ => .next s

/-! ### Op 2 -/

/-- Op 2 on the team that TMCMD names. -/
def State.tmImage (s : State) : Out :=
  match s.liveTeam with
  | none => .next (s.tmDone 1)
  | some t =>
    if t.freezing then .next s
    else if t.st ≠ .frozen then .next (s.tmDone 2) else
    match s.context t.task.ctx with
    | none => .next (s.tmDone 1)
    | some c =>
      let b := s.buildImage t c
      if s.tm.len.toNat < b.length then
        .next (State.tmDone { s with tm := { s.tm with need := BitVec.ofNat 32 (b.length / 4096) } } 3)
      else s.tmBusy.outcome ((s.writeImage (s.tm.img.toNat / 4096 * 4096) b).map fun s => s.tmDone 0)

/-- TM_WRITE_IMAGE (15 R358): op 2. -/
def execTmWriteImage (s : State) : Out := tmWrite (· == 2) State.tmImage State.tmImage s

/-! ### Op 3 (15 R359-R362) -/

/-- Enough Cupolas have n working Spires for S logical Spires. -/
def State.roomFor (s : State) (n S : Nat) : Bool :=
  n != 0 && S % n == 0 && decide (S / n ≤ ((List.range Config.cupolas).filter fun c =>
    decide (n ≤ ((List.range 16).filter fun j => s.unretired (16 * c + j)).length)).length)

/-- The image that the alternative chain gives: none when no image fits, or when a fetch faults. -/
inductive Pick
  | none
  | faulted
  | wait
  | image (addr : Nat) (img : List (BitVec 64))
  deriving DecidableEq, Repr

/-- Follow the chain of alternatives, at most `fuel` images (15 R362). -/
def State.pickAlt (s : State) (ctx root S : Nat) : Nat → Nat → Pick
  | 0, _ => .none
  | fuel + 1, a =>
    if a = 0 ∨ a % 8 ≠ 0 then .none else
    match s.fetchImage Config.cupolas ctx root a with
    | .fault _ _ _ => .faulted
    | .wait => .wait
    | .words img => if s.roomFor (imgSpires img) S then .image a img else s.pickAlt ctx root S fuel (imgAlt img)

/-- No slot, no terminal count, no delay strip and no pending load is saved (15 R362). -/
def Fabric.emptyState (f : Fabric) : Bool :=
  (f.links.all fun l => l.slots.all fun x => x.st == .free) && (f.nodes.all fun n => n.delay.isNone && n.counts.all (· == 0))
    && f.load.isNone && f.tokens.isEmpty

/-- The checks of Table 14-7 that do not depend on placement. -/
def State.checkFree (s : State) (n lanes : Nat) (img : List (BitVec 64)) : Nat :=
  (checkImage ⟨n, lanes, List.range 16, [], false, s.belfry.groups.map (·.1), 1⟩ img).1

/-- The groups of a team that starts afresh on an alternative image. -/
def altGroups (t : Team) (img : List (BitVec 64)) (a : Nat) : List Fabric :=
  (List.range (t.task.nspire / max 1 (imgSpires img))).map fun g =>
    { Fabric.reset Config.cupolas with
      state := .stopped, ctx := t.task.ctx, team := t.task.order, group := g, groups := t.task.nspire / max 1 (imgSpires img)
      image := img, addr := a }

/-- Codes 0x06, 0x08 and 0x07 for a team, with the fabric status, and the team on the image that it will use; none while an image of
the chain cannot be read (16 R374, R379). -/
def State.judge (s : State) (t : Team) (root : Nat) : Option (Nat × Nat × Team) :=
  let S := t.task.nspire
  let lanes := 32 / t.perSpire
  match t.groups with
  | [] =>
    let free := ((List.range Config.spires).filter s.unretired).length
    some (if free < (if t.task.cosched then S else 1) then 6 else 0, 0, t)
  | f :: _ =>
    if s.roomFor t.task.n S then
      let st := s.checkFree t.task.n lanes f.image
      if st ≠ 0 then some (7, st, t) else some (0, 0, t)
    else
      match s.pickAlt t.task.ctx root S 8 (imgAlt f.image) with
      | .none => some (6, 0, t)
      | .faulted => some (7, 0x0C, t)
      | .wait => none
      | .image a img =>
        if !t.groups.all Fabric.emptyState then some (8, 0, t) else
        let st := s.checkFree (imgSpires img) lanes img
        if st ≠ 0 then some (7, st, t)
        else some (0, 0, { t with fabric := altGroups t img a, orig := some (t.fabric, t.task.n, t.task.image)
                                  task := { t.task with n := imgSpires img, image := a } })

/-- Report a code, with fstat after 0x07. -/
def State.tmCode (s : State) (code fstat : Nat) : State :=
  State.tmDone (if code = 7 then { s with tm := { s.tm with fstat := BitVec.ofNat 8 fstat } } else s) code

/-- Resume a frozen team in place: its code and status, and the state; none while the operation waits. -/
def State.resumeInPlace (s : State) (t : Team) : Option ((Nat × Nat) × State) :=
  let root := ((s.context t.task.ctx).map fun c => c.ptroot.toNat).getD 0
  if s.badDesc t.task.ctx then some ((0x0A, 0), s) else
  (s.judge t root).map fun y =>
    if y.1 ≠ 0 then ((y.1, y.2.1), s)
    else ((0, 0), (s.updTeam t.task.ctx t.task.order fun _ => { y.2.2 with st := .switchedOut }).toReady t.task.ctx t.task.order s.nstime)

/-- The descriptor at TMDESC is valid for a context (11 Table 11-5). -/
def State.goodDesc (s : State) (a ctx : Nat) : Bool :=
  let d := fun (n : Nat) => s.dev8 (a + 8 * n)
  decide (a + 64 ≤ Config.devEnd) && d 0 / 2 ^ 17 == 0 && d 0 % 65536 == ctx && d 1 % 32768 == 0 && d 2 % 512 == 0 && d 3 % 8 == 0
    && d 4 % 65536 == 0 && d 6 == 0 && d 7 == 0

/-- A context with the descriptor and the roots of an image (15 R360). -/
def State.imageContext (s : State) (ctx desc img : Nat) : State :=
  let c : Context := (s.context ctx).getD
    { id := ctx, ptroot := 0, hptroot := 0, desc := 0, cblog := 0, cbloglen := 0, cblogseq := 0, ovfbase := 0, ovflen := 0, ovfhwm := 0,
      ovfused := 0, cxsave := 0, cxslots := 0, launched := none, slots := [] }
  { s with contexts := { c with ptroot := BitVec.ofNat 64 (imgI s.dev img 5), hptroot := BitVec.ofNat 64 (imgI s.dev img 6), desc := desc }
      :: s.contexts.filter fun x => x.id != ctx }

/-- Resume from the image at TMIMG; with a full task table the operation waits (12 R280; log 58). Its state stays in the image until
the team is placed (15 R351, R359). -/
def State.resumeImage (s : State) (img desc ctx : Nat) : State :=
  let h := field (imgI s.dev img 3) 24 32
  if badStrelran s.dev img then s.tmCode 4 0
  else if h ≠ 0 ∧ s.dist.liveHandle ctx h then s.tmCode 5 0
  else if !s.goodDesc desc ctx then s.tmCode 0x0A 0
  else
    let order := s.dist.accepted
    match s.judge { readTeam s.dev img ctx order s.nstime s.dist.readied with source := some img } (imgI s.dev img 5) with
    | none => s.tmBusy
    | some y =>
      if y.1 ≠ 0 then s.tmCode y.1 y.2.1
      else if Config.maxTasks ≤ s.dist.live + s.dist.reserved then s.tmBusy
      else
        let s := s.imageContext ctx desc img
        let d := s.dist
        State.tmCode { s with dist := { d with accepted := d.accepted + 1, readied := d.readied + 1, teams := d.teams ++ [y.2.2] } } 0 0

/-- Op 3, in place when TMIMG is 0. -/
def State.tmBack (s : State) : State :=
  if s.tm.img.toNat / 4096 = 0 then
    match s.liveTeam with
    | none => s.tmDone 1
    | some t =>
      if t.freezing then s
      else if t.st ≠ .frozen then s.tmDone 2
      else
        match s.resumeInPlace t with
        | none => s.tmBusy
        | some y => y.2.tmCode y.1.1 y.1.2
  else s.resumeImage (s.tm.img.toNat / 4096 * 4096) (s.tm.desc.toNat / 64 * 64) s.tm.ctxid.toNat

/-- TM_RESUME (15 R359): op 3. -/
def execTmResume (s : State) : Out := tmWrite (· == 3) (fun s => .next s.tmBack) (fun s => .next s.tmBack) s

/-! ### Op 4 (15 R363) and the end of engine commands (09 R211) -/

/-- Fail the parked items of a team one after another. -/
def State.failAll (s : State) (ts : List Nat) : State := ts.foldl (fun s n => s.failTicket (· == n)) s

/-- Tickets of the parked items of a team. -/
def State.ticketsOf (s : State) (t : Team) : List Nat :=
  let mine := s.cmds.filter fun c => c.hart.ctx == t.task.ctx && c.hart.team == t.task.order
  (s.landings.filter fun l => mine.any fun c => l.x.cmd == some c.k).map (·.ticket)
    ++ mine.filterMap (fun c => match c.st with
      | .parked n _ => some n
      | _ => none)
    ++ (s.episodes.filter fun e => e.ctx == t.task.ctx && e.team == t.task.order).flatMap fun e => e.parked.map (·.2.1)

/-- Once no command of an ending team is left, it is gone: Spires, slot and frames are free (15 R363). -/
def State.tmSettle (s : State) : State :=
  match s.dist.teams.find? fun t => t.ending && !s.cmds.any fun c => c.hart.ctx == t.task.ctx && c.hart.team == t.task.order with
  | none => s
  | some t =>
    let fs := s.frames.map fun f => if t.owns f then { f with resident := false, dirty := false } else f
    let u := State.dropTeam { s with frames := fs } t
    if s.tmNames 4 t then u.tmDone 0 else u

/-- Begin to end a team: strips discarded, commands not begun dropped, parked items failed. -/
def State.beginEnd (s : State) (t : Team) : State :=
  let mine := fun (h : HartId) => h.ctx == t.task.ctx && h.team == t.task.order
  let s := (s.harts.filter fun h => mine h.id).foldl (fun s h => s.withdraw h.id) s
  let s := ((s.removeHarts fun h => mine h.id).unplaceResume t).withdrawColls t
  let s := s.failAll (s.ticketsOf t)
  let s : State := { s with cmds := s.cmds.filter fun c => !(mine c.hart && c.st == .queued) }
  s.updTeam t.task.ctx t.task.order fun t => { t with ending := true, freezing := true, cmds := [], task := { t.task with ready := false } }

/-- TM_END (15 R363): op 4. -/
def execTmEnd (s : State) : Out :=
  tmWrite (· == 4) (fun s =>
    match s.tmTeam with
    | none => .next (s.tmDone 1)
    | some t =>
      if t.freezing then .next s
      else .next (s.beginEnd t).tmBusy.tmSettle) .next s

/-- COMMAND_END (09 R211): command number a writes its status, then increments its token, after the earlier commands of its hart to
the same engine (10 R244 item 1). -/
def execCommandEnd (s : State) : Out :=
  match s.arg with
  | .nums k _ _ =>
    match s.cmds.find? fun c => c.k == k with
    | none => .next s
    | some c =>
      match c.st with
      | .ended code =>
        if s.behindOwn c then .next s else
        let t := State.putStatus { s with cmds := s.cmds.filter fun x => x.k != k } c code
        let x := c.words.w1.toNat
        .next (State.tmSettle (if bitAt x 4 then t.bump c.hart (Fin.ofNat 16 (field x 0 4)) else t))
      | _ => .next s
  | _ => .next s

/-! ### Ops 5 and 6 (15 R344) -/

/-- Reflect a system fault to the team's handler: the one entry of 09 R225 with the values of the record. -/
def Hart.reflect (h : Hart) (r : FaultRec) : Hart :=
  ({ h with inHandler := true, pc := h.hcr.tvec, fault := none,
            hcr := { h.hcr with tcause := BitVec.ofNat 8 r.cause, tepc := h.pc, tinfo := r.info, telem := BitVec.ofNat 13 r.elem } }).openStrip

/-- An operation on the hart that TMARG names: it must be in OUT by a system fault. -/
def tmHart (f : Hart → FaultRec → Option Hart) (s : State) : Out :=
  match s.liveTeam with
  | none => .next (s.tmDone 1)
  | some t =>
    if t.freezing ∨ t.ending then .next s else
    let i : HartId := ⟨t.task.ctx, t.task.order, s.tm.arg.toNat⟩
    match (s.findHart i).bind fun h => if h.hcr.sstate = 3 ∧ !h.out then h.fault.bind (f h) else none with
    | none => .next (s.tmDone 0x0B)
    | some h => .next ((s.updHart i fun _ => h).tmDone 0)

/-- TM_RESTART: op 5 opens a strip at the saved pc. -/
def execTmRestart (s : State) : Out :=
  tmWrite (· == 5) (tmHart fun h _ => some ({ h with fault := none } : Hart).openStrip) .next s

/-- TM_REFLECT: op 6; with TVEC = 0 it fails. -/
def execTmReflect (s : State) : Out :=
  tmWrite (· == 6) (tmHart fun h r => if h.hcr.tvec = 0 then none else some (h.reflect r)) .next s

/-- TM_UNASSIGNED_OP (15 Table 15-4). -/
def execTmUnassignedOp (s : State) : Out :=
  tmWrite (fun op => op == 0 || decide (7 ≤ op)) (fun s => .next (s.tmDone 0x0C)) .next s

end Sys2Proof.Machine
end

