-- ==== Sys2Proof/Machine/DistEvents.lean ====
section
/-! DEFINITION. The distributor's events in the order of 12 R285: a cancel that waits takes effect before the next completion,
acceptance or selection (12 R278-R288, 15 R359). -/
namespace Sys2Proof.Machine

/-! ### Cancelling (12 R283) -/

/-- The cancel in progress ends with a result. -/
def State.cancelDone (s : State) (r : Nat) : State := { s with dist := { s.dist with cBusy := false, cResult := BitVec.ofNat 2 r } }

/-- A task that waits leaves the tables; its successors are not decremented. -/
def State.dropTask (s : State) (t : Task) : State :=
  let d := s.dist
  { s with dist := { d with
    tasks := d.tasks.filter fun x => x.order != t.order
    arrivals := d.arrivals.filter fun a => a.watch != t.order
    holds := d.holds.filter fun x => x.2 != t.order } }

/-- A launched team that does not run ends: its handle and the Spires held for it are free at once, and commands that have begun run to
their ends (log 62). -/
def State.cancelTeam (s : State) (t : Team) : State :=
  if !s.launched t then s.dropTeam t else
  let s := (s.beginEnd t).updTeam t.task.ctx t.task.order fun x => { x with task := { x.task with handle := 0 } }
  State.tmSettle { s with dist := { s.dist with holds := s.dist.holds.filter fun h => h.2 != t.task.order } }

/-- The cancel that DCANCEL has asked for takes effect. A task that completes while a decrement waits for room does not run, and is
cancelled: the successors that are left are not decremented. -/
def State.cancelPending (s : State) : State :=
  let d := s.dist
  let h := d.cHandle.toNat
  let is := fun (t : Task) => h != 0 && t.ctx == d.cCtx.toNat && t.handle == h
  if !d.cBusy then s else
  match d.tasks.find? is, d.teams.find? fun t => is t.task with
  | some t, _ => (s.dropTask t).cancelDone 0
  | none, some t => if t.st = .running ∨ t.freezing then s.cancelDone 2 else (s.cancelTeam t).cancelDone 0
  | none, none =>
    if h ≠ 0 ∧ d.dying.any fun x => x.1 == d.cCtx.toNat && x.2.1 == h then
      State.cancelDone { s with dist := { d with dying := d.dying.filter fun x => !(x.1 == d.cCtx.toNat && x.2.1 == h) } } 0
    else s.cancelDone 1

/-- DCANCEL (12 R283, Table 12-4): a write names the task, and go starts a cancel unless one is in progress; the step without a value
is the cancel itself. -/
def execDcancel (s : State) : Out :=
  match s.arg with
  | .value _ v =>
    .next (if s.dist.cBusy then s else
      { s with dist := { s.dist with cCtx := v.extractLsb' 48 16, cHandle := v.extractLsb' 16 32, cBusy := v.getLsbD 0 } })
  | .nothing => .next s.cancelPending
  | _ => .next s

/-! ### Completion (09 R227, 10 R247, 12 R281) -/

/-- A team that has finished completes. -/
def State.completeTeam (s : State) (t : Team) : Except Halt State :=
  let mine := fun (f : Flight) => f.hart.any fun h => h.ctx == t.task.ctx && h.team == t.task.order
  (s.settleStores mine).map fun u => ((u.drainHost mine).dropTeam t).completeTask t.task

/-- TASK_COMPLETE (12 R281): team number b of context a completes after its stores have performed. -/
def execTaskComplete (s : State) : Out :=
  match s.arg with
  | .nums ctx order _ =>
    let s := s.cancelPending
    match s.team ctx order with
    | none => .next s
    | some t => if !s.finished t ∨ t.freezing ∨ t.st = .frozen then .next s else s.outcome (s.completeTeam t)
  | _ => .next s

/-! ### Landings, which lower the counts of watches (12 R282, R285) -/

/-- PUT_E_LANDING (13 R311): bytes of a `put.e` arrive; a local command is read here and landed, or sent. With a number, the landing
of that number that the port holds back is tried again. -/
def execPutELanding (s : State) : Out :=
  let s := s.cancelPending
  match s.arg with
  | .put x =>
    match x.cmd with
    | none =>
      if s.heldPuts.any fun y => y.1.tag == x.tag then .next { s with heldPuts := s.heldPuts ++ [(x, 0)] } else s.outcome (s.takePut x 0)
    | some k =>
      match s.cmds.find? fun c => c.k == k && c.words.lop == 6 && c.st == .queued with
      | none => .next s
      | some c => if s.behindOwn c then .next s else s.outcome (s.runPut c)
  | .nums k _ _ => s.outcome (s.tryHeld k)
  | _ => .next s

/-- PKRESP_RETRY: the engine walks again. -/
def execPkrespRetry (s : State) : Out :=
  let s := s.cancelPending
  match s.arg with
  | .value _ v =>
    match s.landings.find? fun l => ticketIs v l.ticket with
    | some l => s.outcome (s.retryLanding l)
    | none =>
      match s.cmds.find? fun c => match c.st with
        | .parked n _ => ticketIs v n
        | _ => false with
      | some c =>
        match c.words.lop with
        | 4 => s.outcome (State.runCopy (s.updCmd c.k fun x => { x with st := .begun }) { c with st := .begun })
        | 6 => s.outcome (State.runPut (s.updCmd c.k fun x => { x with st := .queued }) { c with st := .queued })
        | _ => .next (s.updCmd c.k fun x => { x with st := .queued })
      | none =>
        match s.episodes.find? fun e => e.parked.any fun x => ticketIs v x.2.1 with
        | none => .next s
        | some e =>
          let e' := { e with parked := e.parked.filter fun x => !ticketIs v x.2.1 }
          let t := s.updEpisode e fun _ => e'
          match e.parked.find? fun x => ticketIs v x.2.1 with
          | some (rank, _, some chunk) =>
            let t := t.overflowFree e.ctx fun o =>
              o.kind == 0 && o.team == e.team && o.id == e.id && o.episode == e.number && o.dst == rank && o.chunk == chunk
            match (t.rankCmds e' (t.episodeSize e')).find? fun x => x.1 == rank with
            | some (_, c) => t.outcome (t.landRank e' rank c)
            | none => .next t
          | _ => .next t
  | _ => .next s

/-! ### Acceptance (12 R277-R280) -/

/-- A packet of slot n of the port. -/
def State.acceptSlot (s : State) (n : Nat) : State :=
  match s.dist.slots[n]? with
  | none => s
  | some x =>
    if x.state ≠ 1 ∨ !s.dist.en then s
    else if !x.lEn ∨ (s.context x.lCtx.toNat).isNone then s.endSlot n 7
    else
      let code := s.validate x.lCtx.toNat x.all
      if s.packetAway x.lCtx.toNat x.all then s
      else if code ≠ 0 then s.endSlot n code
      else if s.tablesFull x.all then s
      else (s.acceptTask x.lCtx.toNat x.all none).endSlot n 0

/-- TASK_PACKET_ACCEPT (12 R277-R280): a packet of the port, of a command, or from another package. While DCTL.en is 0 it
waits. -/
def execTaskPacketAccept (s : State) : Out :=
  let s := s.cancelPending
  match s.arg with
  | .packet (.slot n) => .next (s.acceptSlot n)
  | .packet (.cmd k) =>
    match s.cmds.find? fun c => c.k == k && c.words.lop == 7 && c.st == .queued with
    | none => .next s
    | some c => if s.behindOwn c ∨ (c.taskPkg.isNone ∧ !s.dist.en) then .next s else s.outcome (s.runTaskPut c)
  | .packet (.remote ctx b) =>
    .next (if !s.dist.en ∨ (s.context ctx).isNone ∨ s.packetAway ctx b ∨ s.validate ctx b ≠ 0 ∨ s.tablesFull b then s else s.acceptTask ctx b none)
  | _ => .next s

/-! ### Selection (12 R284-R288) -/

/-- AGEING_STEP (12 R284). -/
def execAgeingStep (s : State) : Out := .next { s with dist := s.dist.age s.nstime }
/-- QUANTUM_EXPIRY (12 R288). -/
def execQuantumExpiry (s : State) : Out := .next { s with dist := s.dist.expire s.nstime }

/-- The placement of a candidate brings back logical Spires that have been launched. -/
def State.isResume (s : State) (c : Cand) (l : List (Nat × Nat)) : Bool :=
  c.team.any fun x => x.source.isSome || l.all fun y => s.hasHarts x y.1

/-- TASK_PLACEMENT (12 R286-R288): the next new placement, or a pre-emption for a task that cannot be placed. -/
def execTaskPlacement (s : State) : Out :=
  match s.cancelPending.select with
  | (t, some (.place c l)) => if t.isResume c l then .next s else t.outcome (t.placeCand c l)
  | (t, some (.preempt c vs)) => .next (t.preemptFor c vs)
  | (t, none) => .next t

/-- RESUME_PLACEMENT (15 R359): the next placement brings back a team that has been launched; the records of one that op 3 has accepted
from an image are loaded now. -/
def execResumePlacement (s : State) : Out :=
  match s.cancelPending.select with
  | (t, some (.place c l)) =>
    if !t.isResume c l then .next s else
    match c.team with
    | none => .next s
    | some x =>
      let u := t.loadRecords x
      t.outcome (u.placeCand { c with team := u.team x.task.ctx x.task.order } l)
  | _ => .next s

end Sys2Proof.Machine
end

