-- ==== Sys2Proof/Machine/Power.lean ====
section
/-! DEFINITION. Speed table, droop, power, heat, wear, alarms and the reset that an alarm holds (16 R366-R369, R380,
R384, R385). -/
namespace Sys2Proof.Machine

/-! ### Speed table (16 R366, R367) -/

/-- Change the speed-table entry of a Spire. -/
def State.updSpeed (s : State) (p : Nat) (f : Speed → Speed) : State :=
  { s with belfry := { s.belfry with speed := s.belfry.speed.map fun x => if x.p = p then f x else x } }

/-- SPEED_CHANGE (16 R366): the entry of Spire a takes effect on its clock. -/
def execSpeedChange (s : State) : Out :=
  match s.arg with
  | .nums p _ _ => .next (s.updSpeed p fun x => { x with clk := x.mhz })
  | _ => .next s

/-- A write of SPD p by firmware: a lower age is ignored. -/
def State.writeAge (s : State) (p : Nat) (v : Word) : State :=
  s.updSpeed p fun x => if x.age < v.extractLsb' 32 8 then { x with age := v.extractLsb' 32 8 } else x

/-- SPD_AGE_WRITE (16 R366): firmware writes SPD p. -/
def execSpdAgeWrite (s : State) : Out :=
  match s.arg with
  | .value p v => .next (s.writeAge p v)
  | _ => .next s

/-! ### Droop (16 R368) -/

/-- DROOP_DETECT: a stretch begins on Spire a; the 17th within 1 ms since the last step raises the sag component. -/
def execDroopDetect (s : State) : Out :=
  match s.arg with
  | .nums p _ _ => .next (s.updSpeed p fun x =>
      if x.held then x else
      let recent := s.nstime :: x.recent.filter fun t => decide (s.nstime < t + 1000000000)
      let n := (recent.filter fun t => decide (s.nstime < t + 1000000) && decide (x.upAt ≤ t)).length
      if 16 < n then { x with held := true, recent := recent, sag := min 8 (x.sag + 1), upAt := s.nstime + 1 }
      else { x with held := true, recent := recent })
  | _ => .next s

/-- SUPPLY_RECOVERY: the stretch of Spire a ends. -/
def execSupplyRecovery (s : State) : Out :=
  match s.arg with
  | .nums p _ _ => .next (s.updSpeed p fun x => { x with held := false })
  | _ => .next s

/-- SAG_STEP_DOWN: 100 ms without a stretch since the last step down lower the sag component of Spire a. -/
def execSagStepDown (s : State) : Out :=
  match s.arg with
  | .nums p _ _ => .next (s.updSpeed p fun x =>
      let since := max x.downAt ((x.recent.head?).getD 0)
      if x.held ∨ s.nstime < since + 100000000 then x else { x with sag := x.sag - 1, downAt := s.nstime })
  | _ => .next s

/-! ### The security alarm (16 R384, R385) -/

/-- What survives a reset: the non-volatile store, the fuses, the flash and the key store; and, as the model's choice, the access-violation
counter and the anti-rollback counter (log 38). -/
def Belfry.keep (b : Belfry) : Belfry :=
  let act := if b.flashNew then !b.flashAct else b.flashAct
  { Belfry.reset with
    speed := b.speed.map fun x =>
      let y : Speed := { Speed.reset x.p with ret := x.ret, age := x.age, fused := x.fused }
      { y with clk := y.mhz }
    hbm := b.hbm.map fun x => { Stack.reset x.s with spare := x.spare, repaired := x.repaired, remap := x.remap }
    ports := b.ports.map fun x => { Port.reset x.n with bad := x.bad, lanes := (if x.bad.extractLsb' 0 4 == 0#4 then 0xF#5 else 0x1F#5) &&& ~~~x.bad }
    trams := b.trams.map fun x => { x with st := if x.retired then .down else .up, atA := ⟨0, []⟩, atB := ⟨0, []⟩ }
    routers := b.routers, almpol := b.almpol, zeroized := b.zeroized, violations := b.violations, key := b.key, pub := b.pub
    rollback := b.rollback
    flash0 := b.flash0, flash1 := b.flash1, flashAct := act }

/-- The package in reset; host memory is not part of it, and the model's own fields go on (log 38). -/
def State.toReset (s : State) : State :=
  { State.reset with host := s.host, agenda := s.agenda, arg := s.arg, draw := s.draw, belfry := s.belfry.keep }

/-- Change a mailbox: true is the manager cores'. -/
def State.updMail (s : State) (mgr : Bool) (f : Mailbox → Mailbox) : State :=
  { s with belfry := if mgr then { s.belfry with mbMgr := f s.belfry.mbMgr } else { s.belfry with mbHost := f s.belfry.mbHost } }
/-- A mailbox. -/
def State.mail (s : State) (mgr : Bool) : Mailbox := if mgr then s.belfry.mbMgr else s.belfry.mbHost
/-- The first request of the queue ends with a status. -/
def State.endMail (s : State) (mgr : Bool) (status : Nat) : State :=
  let t := s.updMail mgr fun m => { m with busy := false, status := BitVec.ofNat 8 status }
  { t with belfry := { t.belfry with mbQueue := t.belfry.mbQueue.filter (· != mgr) } }

/-- A report that is being signed ends with status 3 (16 R385). -/
def State.stopSigning (s : State) : State :=
  match s.belfry.mbQueue with
  | [] => s
  | m :: _ => if (s.mail m).op = 1 then s.endMail m 3 else s

/-- Erase the key store (16 R385). -/
def State.zeroize (s : State) : State := { s with belfry := { s.belfry with zeroized := true, key := none } }

/-- Stop every Spire: every open strip is discarded (16 Table 16-6, pol 3). -/
def State.stopSpires (s : State) : State :=
  let t := (s.harts.filter fun h => h.hcr.run == 1 && !h.out && (h.hcr.sstate == 0 || h.hcr.sstate == 2)).foldl
    (fun (t : State) h => t.takeOut h.id false) s
  { t with belfry := { t.belfry with stopped := true } }

/-- Source n raises the alarm: recorded, and the fused policy acts. -/
def State.alarm (s : State) (n : Nat) : State :=
  if 5 ≤ n then s else
  let s := State.stopSigning { s with belfry := { s.belfry with almsrc := s.belfry.almsrc ||| (1#5 <<< n) } }
  match field s.belfry.almpol.toNat (2 * n) 2 with
  | 0 => s
  | 1 => s.zeroize
  | 2 =>
    let t := s.zeroize.toReset
    { t with belfry := { t.belfry with almsrc := s.belfry.almsrc, inReset := true } }
  | _ => s.zeroize.stopSpires

/-- SECURITY_ALARM (16 R384). -/
def execSecurityAlarm (s : State) : Out :=
  match s.arg with
  | .alarm n => .next (s.alarm n)
  | _ => .next s

/-! ### Power and heat (16 R369) -/

/-- Cap steps of the power limit: one more on the fastest working Spires. -/
def Belfry.capUp (b : Belfry) (work : Nat → Bool) : Belfry :=
  let top := ((b.speed.filter fun x => work x.p).map Speed.mhz).foldl max 0
  { b with speed := b.speed.map fun x => if work x.p && x.mhz == top then { x with cap := min 15 (x.cap + 1) } else x }

/-- One cap step less on the slowest Spires among those that hold one. -/
def Belfry.capDown (b : Belfry) : Belfry :=
  let held := b.speed.filter fun x => x.cap != 0
  let low := (held.map Speed.mhz).foldl min (((held.head?).map Speed.mhz).getD 0)
  { b with speed := b.speed.map fun x => if x.cap != 0 && x.mhz == low then { x with cap := x.cap - 1 } else x }

/-- The power rule of one measurement. -/
def Belfry.measurePower (b : Belfry) (work : Nat → Bool) (now w : Nat) : Belfry :=
  let b := { b with pwrnow := BitVec.ofNat 12 (min 4095 w) }
  if b.pwrlim.toNat < w then { b.capUp work with lowAt := none }
  else if 100 * w < 95 * b.pwrlim.toNat then
    let since := b.lowAt.getD now
    if since + 10000000 ≤ now then { b.capDown with lowAt := some now } else { b with lowAt := some since }
  else { b with lowAt := none }

/-- The junction rule: in force from 105 degrees until below 100. -/
def Belfry.measureHeat (b : Belfry) (temps : List (Nat × Nat)) : Belfry :=
  let hot := (List.range Config.cupolas).filter fun c =>
    match temps.find? fun t => t.1 == c with
    | some t => decide (105 ≤ t.2) || (decide (100 ≤ t.2) && b.hot.contains c)
    | none => b.hot.contains c
  { b with hot := hot, speed := b.speed.map fun x => if hot.contains (cupolaOf x.p) then { x with cap := min 15 (x.cap + 1) } else x }

/-- POWER_MEASUREMENT: power, then heat, then the alarm of 125 degrees. -/
def execPowerMeasurement (s : State) : Out :=
  match s.arg with
  | .power x =>
    let b := (s.belfry.measurePower (fun p => !(s.speedOf p).ret) s.nstime x.watts).measureHeat x.temps
    let t : State := { s with belfry := b }
    .next (if x.temps.any fun y => decide (125 ≤ y.2) then t.alarm 3 else t)
  | _ => .next s

/-- A write of PWRLIM by firmware: a larger value is stored as 3,200 W. -/
def State.writePwrlim (s : State) (v : Word) : State :=
  { s with belfry := { s.belfry with pwrlim := BitVec.ofNat 12 (min 3200 (field v.toNat 0 12)) } }

/-- PWRLIM_WRITE (16 R369): firmware sets the limit. -/
def execPwrlimWrite (s : State) : Out :=
  match s.arg with
  | .value _ v => .next (s.writePwrlim v)
  | _ => .next s

/-! ### Wear (16 R380) -/

/-- Predicted days in a health word. -/
def eolWord (days : Nat) : BitVec 16 := if 65534 < days then 0xFFFF else BitVec.ofNat 16 days

/-- Days until fused - 25 * age falls below 1,150 MHz, at a number of days per ageing step; 0 for no trend. -/
def Speed.eolDays (x : Speed) (slope : Nat) : BitVec 16 :=
  let now := x.fused.toNat - 25 * x.age.toNat
  if now < 1150 then 0
  else if slope = 0 then 0xFFFF
  else eolWord (((now - 1150) / 25 + 1) * slope)

/-- The health word of a port: at its end of life with the eye margin below firmware's limit and the spare in use. -/
def Port.wear (x : Port) (eol eye fec : Nat) : Port :=
  { x with eye := BitVec.ofNat 8 eye, fec := BitVec.ofNat 32 (min fec (2 ^ 32 - 1))
           eol := if eye % 256 < x.limit.toNat ∧ x.lanes.getLsbD 4 then 0 else eolWord eol }

/-- WEAR_PREDICTION (16 R380): the fit of one resource is published. -/
def execWearPrediction (s : State) : Out :=
  match s.arg with
  | .wear (.spire p slope) => .next (s.updSpeed p fun x => { x with slope := BitVec.ofNat 32 slope, eol := x.eolDays slope })
  | .wear (.stack n eol) =>
    .next { s with belfry := { s.belfry with hbm := s.belfry.hbm.map fun x =>
      if x.s = n then { x with eol := if 4096 ≤ x.remap.length then 0 else eolWord eol } else x } }
  | .wear (.port n eol eye fec) => .next { s with belfry := { s.belfry with ports := s.belfry.ports.map fun x => if x.n = n then x.wear eol eye fec else x } }
  | _ => .next s

end Sys2Proof.Machine
end

