-- ==== Sys2Proof/Machine/Links.lean ====
section
/-! DEFINITION. The Tramontane exchange and the Etesian links (16 R373-R377). -/
namespace Sys2Proof.Machine

/-! ### Tramontane (16 R373, R374) -/

/-- A flit that die x sends fails: the replays that fail in a row are counted, and the sixteenth retrains the link. -/
def Tram.failAt (x : Nat) (t : Tram) : Tram :=
  if t.st ≠ .up then t
  else if 16 ≤ (t.endAt x).fails then { t with st := .retraining, atA := { t.atA with fails := 0 }, atB := { t.atB with fails := 0 } }
  else t.updEnd x fun e => { e with fails := e.fails + 1 }

/-- TRAMONTANE_CRC_FAIL (16 R373): a flit from die a to die b fails, and the link replays it with every flit after it, from the buffer at
a; the sixteenth failed replay in a row retrains the link. -/
def execTramontaneCrcFail (s : State) : Out :=
  match s.arg with
  | .nums a b _ => .next { s with belfry := s.belfry.updTram a b (Tram.failAt a) }
  | _ => .next s

/-- TRAMONTANE_RETRAIN_END (16 R373): up when c = 1, else down; what links that are down hold goes out on its detours. -/
def execTramontaneRetrainEnd (s : State) : Out :=
  match s.arg with
  | .nums a b ok =>
    let f := fun (t : Tram) => if t.st ≠ .retraining then t else { t with st := if ok = 1 then .up else .down }
    .next { s with belfry := (s.belfry.updTram a b f).resend }
  | _ => .next s

/-! ### Other packages (16 R377) -/

/-- Next sequence number that a destination delivers from a source; numbering starts at 0 (log 39). -/
def nextSeq (l : List (Nat × Nat)) (k : Nat) : Nat := ((l.find? fun x => x.1 == k).map (·.2)).getD 0
/-- Count a delivery. -/
def bumpSeq (l : List (Nat × Nat)) (k : Nat) : List (Nat × Nat) := (k, nextSeq l k + 1) :: l.filter fun x => x.1 != k

/-- What becomes of a flit in sequence: not taken yet, so that its credit is withheld and its source sends it again; taken, its credit
withheld while the port holds part of it back (13 R310); or taken. -/
inductive FlitEnd | refused | held | taken
  deriving DecidableEq, Repr

/-- The content of a flit from another package, which a port brought. A cancel that waits comes before it (12 R285). -/
def State.deliverFlit (s : State) (x : FlitLoad) (port pkg : Nat) : Except Halt (State × FlitEnd) :=
  match x with
  | .put y =>
    let s := s.cancelPending
    let y := { y with cmd := none, port := some port }
    if s.heldPuts.any fun z => z.1.tag == y.tag then .ok ({ s with heldPuts := s.heldPuts ++ [(y, 0)] }, .held) else
    (State.finishPut y 0 (s.landPut y 0)).map fun r => match r.2 with
      | none => (r.1, .taken)
      | some k => ({ r.1 with heldPuts := r.1.heldPuts ++ [(y, k)] }, .held)
  | .packet ctx b =>
    let s := s.cancelPending
    .ok (if !s.dist.en ∨ s.packetAway ctx b then (s, .refused)
      else if (s.context ctx).isNone ∨ s.validate ctx b ≠ 0 then (s, .taken)
      else if s.tablesFull b then (s, .refused)
      else (s.acceptTask ctx b none, .taken))
  | .ack n =>
    let b : Belfry := { s.belfry with unacked := s.belfry.unacked.filter fun f => !(f.pkg == pkg && f.seq == n) }
    .ok ({ s with belfry := (b.unbuffer pkg n).sendHeld }, .taken)
  | .ended k code n =>
    .ok (if s.cmds.any fun c => c.k == k && c.st == .begun && c.read.isSome && (c.words.lop == 6 || c.words.lop == 7) then
        ((s.updCmd k fun c => { c with landed := n }).endCmd k code, .taken)
      else (s, .taken))
  | .other => .ok (s, .taken)

/-- A flit or an idle reaches port n, which is not down any more; `credit` of its oldest flits leave its replay buffer, and flits that were
held go out (16 R375, R376). -/
def Belfry.heard (b : Belfry) (n credit : Nat) : Belfry :=
  (b.updPort n fun x => { x with down := false, buf := x.buf.drop credit }).sendHeld

/-- A port that can receive: it has a good lane and is not switching its spare (16 R376). -/
def Belfry.hears (b : Belfry) (n : Nat) : Bool := b.ports.any fun x => x.n == n && !x.switching && x.lanes != 0

/-- FLIT_RECEIVE (16 R374-R377): a flit in sequence is delivered, a duplicate or one ahead of its turn is not. -/
def execFlitReceive (s : State) : Out :=
  match s.arg with
  | .flit (.tramontane src dst n) => .next { s with belfry := s.belfry.receive ⟨src, dst, n⟩ }
  | .flit (.idle port) => .next (if s.belfry.hears port then { s with belfry := s.belfry.heard port 0 } else s)
  | .flit (.etesian port pkg n credit x) =>
    if !s.belfry.hears port then .next s else
    let s : State := { s with belfry := s.belfry.heard port credit }
    if n ≠ nextSeq s.belfry.etSeq pkg then .next { s with belfry := s.belfry.owe port } else
    s.outcome ((s.deliverFlit x port pkg).map fun r =>
      let b := r.1.belfry
      match r.2 with
      | .refused => r.1
      | .held => { r.1 with belfry := { b with etSeq := bumpSeq b.etSeq pkg } }
      | .taken => { r.1 with belfry := Belfry.owe { b with etSeq := bumpSeq b.etSeq pkg } port })
  | _ => .next s

/-! ### Lanes and ports (16 R375, R376) -/

/-- Change an Etesian port. -/
def State.updPort (s : State) (n : Nat) (f : Port → Port) : State := { s with belfry := s.belfry.updPort n f }

/-- Retire a lane: out of service, and the spare is switched in when it is good and not in use; a port with no good lane
is down. -/
def Port.retire (x : Port) (lane : Nat) : Port :=
  let bad := x.bad ||| (1#5 <<< lane)
  let lanes := x.lanes &&& ~~~(1#5 <<< lane)
  let spare := !(x.lanes.getLsbD 4) && !(bad.getLsbD 4) && x.lanes.getLsbD lane
  { x with bad := bad, lanes := lanes, switching := x.switching || spare, down := x.down || (lanes == 0 && !(x.switching || spare)) }

/-- ETESIAN_CRC_FAIL (16 R375): flit c to package b fails on port a, and the port sends it again, after what it has sent, from its replay
buffer. -/
def execEtesianCrcFail (s : State) : Out :=
  match s.arg with
  | .nums n pkg seq =>
    .next (s.updPort n fun x => { x with buf := x.buf.filter (· != (pkg, seq)) ++ x.buf.filter (· == (pkg, seq)) })
  | _ => .next s

/-- LANE_AUTO_RETIRE (16 R376): lane b of port a. -/
def execLaneAutoRetire (s : State) : Out :=
  match s.arg with
  | .nums n lane _ => .next (s.updPort n fun x => if 5 ≤ lane ∨ x.bad.getLsbD lane then x else x.retire lane)
  | _ => .next s

/-- SPARE_SWITCH_COMPLETE (16 R376): port a resumes with its spare, and the flits that were held go out. -/
def execSpareSwitchComplete (s : State) : Out :=
  match s.arg with
  | .nums n _ _ =>
    let t := s.updPort n fun x =>
      if !x.switching then x else
      let lanes := if x.bad.getLsbD 4 then x.lanes else x.lanes ||| 0x10#5
      { x with switching := false, lanes := lanes, down := x.down || lanes == 0 }
    .next { t with belfry := t.belfry.sendHeld }
  | _ => .next s

/-- PORT_DOWN_TIMEOUT (16 R376): port a has received no flit or idle for 20 us; routes avoid it from then on. A port that switches its
spare carries none, and is not down for that. -/
def execPortDownTimeout (s : State) : Out :=
  match s.arg with
  | .nums n _ _ => .next (s.updPort n fun x => { x with down := x.down || !x.switching })
  | _ => .next s

/-- A package without a route is noted, one with a route is not (16 R377). -/
def Belfry.noteRoute (b : Belfry) (pkg : Nat) : Belfry :=
  let l := b.unreach.filter (· != pkg)
  { b with unreach := if (b.route pkg).isSome then l else l ++ [pkg] }

/-- A flit goes out again on the current route. -/
def Belfry.resendOut (b : Belfry) (pkg n : Nat) : Belfry :=
  let u := b.unbuffer pkg n
  Belfry.sendOn { u with unacked := u.unacked.map fun f => if f.pkg = pkg ∧ f.seq = n then { f with port := none } else f } pkg n

/-- E2E_RESEND_TIMEOUT (16 R377): a flit to package a that is not acknowledged goes out again on the current route; it stays
unacknowledged. Without a route the package is noted. -/
def execE2eResendTimeout (s : State) : Out :=
  match s.arg with
  | .nums pkg n _ =>
    .next (if s.belfry.unacked.any fun f => f.pkg == pkg && f.seq == n then { s with belfry := (s.belfry.resendOut pkg n).noteRoute pkg } else s)
  | _ => .next s

/-- A command targets a package (16 R377). -/
def Cmd.targets (c : Cmd) (pkg : Nat) : Bool :=
  (c.words.lop == 6 && c.words.w3.toNat % 2 ^ 16 == pkg) || (c.words.lop == 7 && c.taskPkg == some pkg)

/-- An episode has ranks in a package. -/
def State.spans (s : State) (e : Episode) (pkg : Nat) : Bool :=
  (((s.activeFabric e.ctx e.team).bind fun f => f.collEntry e.id).bind fun w =>
    s.belfry.groups.find? fun g => g.1 == field w.toNat 18 16).any fun g => g.2.contains pkg

/-- A command has not ended. -/
def Cmd.open (c : Cmd) : Bool := match c.st with
  | .ended _ => false
  | _ => true

/-- UNREACHABLE_TIMEOUT (16 R377): no route to package a for 50 us: the commands that target it end with code 0x07, parked ones too. Its
unacknowledged flits stay kept. -/
def execUnreachableTimeout (s : State) : Out :=
  match s.arg with
  | .nums pkg _ _ =>
    if pkg = Config.ownPackage ∨ (s.belfry.route pkg).isSome then .next s else
    let t : State := { s with
      cmds := s.cmds.map fun c => if c.targets pkg ∧ c.open then { c with st := .ended 7 } else c
      belfry := s.belfry.noteRoute pkg }
    .next ((t.episodes.filter fun e => t.spans e pkg).foldl (fun t e => t.endEpisode e 7) t)
  | _ => .next s

end Sys2Proof.Machine
end

