-- ==== Sys2Proof/Machine/Sha3.lean ====
section
/-! DEFINITION. The hash functions of FIPS 202 that the Belfry uses: SHA3-512 for digests, SHAKE128 and SHAKE256 within ML-DSA-87
(00 R11, 16 R381). -/
namespace Sys2Proof.Machine

/-- The Keccak state: lane (x, y) at x + 5 * y. -/
abbrev Lanes := Vector (BitVec 64) 25

/-- Lane (x, y), both modulo 5. -/
def Lanes.at (a : Lanes) (x y : Nat) : BitVec 64 := a[x % 5 + 5 * (y % 5)]'(by omega)

/-- A state by its lanes. -/
def Lanes.of (f : Nat → Nat → BitVec 64) : Lanes := Vector.ofFn fun i : Fin 25 => f (i.val % 5) (i.val / 5)

/-- Rotation offsets of the step rho. -/
def rhoOffsets : List Nat :=
  [0, 1, 62, 28, 27] ++ [36, 44, 6, 55, 20] ++ [3, 10, 43, 25, 39] ++ [41, 45, 15, 21, 8] ++ [18, 2, 61, 56, 14]

/-- Round constants of the step iota. -/
def roundConstants : List (BitVec 64) :=
  [0x0000000000000001, 0x0000000000008082, 0x800000000000808A, 0x8000000080008000, 0x000000000000808B, 0x0000000080000001]
    ++ [0x8000000080008081, 0x8000000000008009, 0x000000000000008A, 0x0000000000000088, 0x0000000080008009, 0x000000008000000A]
    ++ [0x000000008000808B, 0x800000000000008B, 0x8000000000008089, 0x8000000000008003, 0x8000000000008002, 0x8000000000000080]
    ++ [0x000000000000800A, 0x800000008000000A, 0x8000000080008081, 0x8000000000008080, 0x0000000080000001, 0x8000000080008008]

/-- The step theta. -/
def theta (a : Lanes) : Lanes :=
  let parity : Vector (BitVec 64) 5 := Vector.ofFn fun x : Fin 5 => a.at x 0 ^^^ a.at x 1 ^^^ a.at x 2 ^^^ a.at x 3 ^^^ a.at x 4
  let col := fun (x : Nat) => parity[x % 5]'(by omega)
  Lanes.of fun x y => a.at x y ^^^ col (x + 4) ^^^ (col (x + 1)).rotateLeft 1

/-- The steps rho and pi: lane (x, y) moves to (y, 2x + 3y), rotated. -/
def rhoPi (a : Lanes) : Lanes :=
  Lanes.of fun x y =>
    let u := (x + 3 * y) % 5
    (a.at u x).rotateLeft ((rhoOffsets[u + 5 * x]?).getD 0)

/-- The step chi. -/
def chi (a : Lanes) : Lanes := Lanes.of fun x y => a.at x y ^^^ (~~~(a.at (x + 1) y) &&& a.at (x + 2) y)

/-- One round. -/
def keccakRound (a : Lanes) (rc : BitVec 64) : Lanes :=
  let b := chi (rhoPi (theta a))
  b.set 0 (b.at 0 0 ^^^ rc)

/-- Keccak-f[1600]. -/
def keccakF (a : Lanes) : Lanes := roundConstants.foldl keccakRound a

/-- Add a block of bytes to the state. -/
def Lanes.add (a : Lanes) (b : List Byte) : Lanes :=
  Lanes.of fun x y => a.at x y ^^^ BitVec.ofNat 64 (ofBytes ((b.drop (8 * (x + 5 * y))).take 8))

/-- The first n bytes of the state. -/
def Lanes.bytes (a : Lanes) (n : Nat) : List Byte := (a.toList.flatMap fun x => toBytes 8 x.toNat).take n

/-- A message padded to a multiple of `rate` bytes: domain suffix, zeros, and the last bit. -/
def spongePad (rate suffix : Nat) (m : List Byte) : List Byte :=
  let n := rate - m.length % rate
  m ++ if n = 1 then [BitVec.ofNat 8 (suffix + 128)]
    else BitVec.ofNat 8 suffix :: (List.replicate (n - 2) 0#8 ++ [128#8])

/-- Squeeze blocks of `rate` bytes. -/
def squeeze (rate : Nat) : Nat → Lanes → List Byte
  | 0, _ => []
  | k + 1, a => a.bytes rate ++ squeeze rate k (keccakF a)

/-- The sponge: n bytes of a message. -/
def sponge (rate suffix : Nat) (m : List Byte) (n : Nat) : List Byte :=
  let p := spongePad rate suffix m
  let a := (chunks rate p.length p).foldl (fun a b => keccakF (a.add b)) (Vector.replicate 25 0 : Lanes)
  (squeeze rate (ceilDiv n rate) a).take n

/-- SHA3-512, 64 bytes. -/
def sha3Bytes (m : List Byte) : List Byte := sponge 72 0x06 m 64
/-- SHA3-512 as a number, its first byte lowest. -/
def sha3 (m : List Byte) : BitVec 512 := BitVec.ofNat 512 (ofBytes (sha3Bytes m))
/-- SHAKE128 and SHAKE256, n bytes. -/
def shake128 (m : List Byte) (n : Nat) : List Byte := sponge 168 0x1F m n
def shake256 (m : List Byte) (n : Nat) : List Byte := sponge 136 0x1F m n

end Sys2Proof.Machine
end

