-- ==== Sys2Proof/Machine/MlDsa.lean ====
section
/-! DEFINITION. ML-DSA-87 of FIPS 204: key generation, signing and verification (00 R11, 16 R381-R383). Algorithms by their numbers in
the standard; bytes and integers are little-endian. -/
namespace Sys2Proof.Machine.MlDsa

/-! ### Parameters (FIPS 204 Table 1) -/

def q : Nat := 8380417
def k : Nat := 8
def l : Nat := 7
def tau : Nat := 60
def beta : Nat := 120
def gamma1 : Nat := 524288
def gamma2 : Nat := 261888
def omega : Nat := 75

/-- A polynomial of 256 coefficients, lowest first. -/
abbrev Poly := List Int

/-- Coefficient i. -/
def coef (w : Poly) (i : Nat) : Int := (w[i]?).getD 0
/-- A polynomial by its coefficients. -/
def poly (f : Nat → Int) : Poly := (List.range 256).map f
/-- A coefficient reduced to 0 .. q - 1. -/
def modq (x : Int) : Int := x % (q : Int)
/-- The symmetric remainder: in (-m/2, m/2]. -/
def cmod (x : Int) (m : Nat) : Int :=
  let r := x % (m : Int)
  if (m : Int) < 2 * r then r - m else r
/-- Sum, difference, and product by coefficients. -/
def add (a b : Poly) : Poly := List.zipWith (fun x y => modq (x + y)) a b
def sub (a b : Poly) : Poly := List.zipWith (fun x y => modq (x - y)) a b
def pointwise (a b : Poly) : Poly := List.zipWith (fun x y => modq (x * y)) a b
def zero : Poly := poly fun _ => 0

/-! ### The number-theoretic transform (section 7.5) -/

/-- The powers of zeta = 1753, a root of unity of order 512. -/
def zetas : List Nat := ((List.range 512).foldl (fun (x : List Nat × Nat) _ => (x.2 :: x.1, x.2 * 1753 % q)) ([], 1)).1.reverse
/-- Power e of zeta. -/
def zeta (e : Nat) : Int := ((zetas[e % 512]?).getD 0 : Nat)
/-- The exponent of the point at which coefficient j of a transform evaluates: 2 * BitRev8(j) + 1. -/
def point (j : Nat) : Nat := 2 * ((List.range 8).foldl (fun r i => 2 * r + j / 2 ^ i % 2) 0) + 1

/-- NTT (Algorithm 41): evaluation at the odd powers of zeta. -/
def ntt (w : Poly) : Poly :=
  poly fun j => modq ((w.zipIdx.map fun x => x.1 * zeta (x.2 * point j)).foldl (fun (s : Int) (t : Int) => s + t) 0)
/-- Its inverse (Algorithm 42); 8347681 is the inverse of 256. -/
def intt (w : Poly) : Poly :=
  poly fun i => modq (8347681 * (w.zipIdx.map fun x => x.1 * zeta (512 - i * point x.2 % 512)).foldl (fun (s : Int) (t : Int) => s + t) 0)

/-- A vector of polynomials, and a matrix by rows. -/
abbrev PolyVec := List Poly
/-- Matrix times vector in the transform domain. -/
def mulVec (a : List PolyVec) (v : PolyVec) : PolyVec := a.map fun r => (List.zipWith pointwise r v).foldl add zero
/-- The largest absolute value of a coefficient. -/
def norm (v : PolyVec) : Nat := (v.map fun w => (w.map fun x => (cmod x q).natAbs).foldl max 0).foldl max 0

/-! ### Packing (Algorithms 16 to 22, 28) -/

/-- Numbers of c bits each, packed into bytes; and back. -/
def pack (c : Nat) (l : List Nat) : List Byte := toBytes (c * l.length / 8) (l.foldr (fun x n => x % 2 ^ c + 2 ^ c * n) 0)
def unpack (c n : Nat) (b : List Byte) : List Nat :=
  let x := ofBytes b
  (List.range n).map fun i => field x (c * i) c
/-- BitPack with upper end b, and BitUnpack. -/
def bitPack (c b : Nat) (w : Poly) : List Byte := pack c (w.map fun x => ((b : Int) - x).toNat)
def bitUnpack (c b : Nat) (v : List Byte) : Poly := (unpack c 256 v).map fun (x : Nat) => (b : Int) - x
/-- SimpleBitPack and SimpleBitUnpack. -/
def simplePack (c : Nat) (w : Poly) : List Byte := pack c (w.map Int.toNat)
def simpleUnpack (c : Nat) (v : List Byte) : Poly := (unpack c 256 v).map fun (x : Nat) => (x : Int)
/-- Pieces of n bytes. -/
def pieces (n : Nat) (b : List Byte) : List (List Byte) := chunks n b.length b

/-- HintBitPack (Algorithm 20). -/
def hintPack (h : List (List Bool)) : List Byte :=
  let ones := h.map fun r => (List.range 256).filter fun j => (r[j]?).getD false
  let all := ones.flatMap id
  let ends := ((List.range k).map fun i => ((ones.take (i + 1)).map List.length).foldl (fun s t => s + t) 0)
  ((all ++ List.replicate (omega - all.length) 0) ++ ends).map fun n => BitVec.ofNat 8 n

/-- Numbers rise strictly. -/
def rises : List Nat → Bool
  | [] => true
  | [_] => true
  | a :: b :: t => decide (a < b) && rises (b :: t)

/-- HintBitUnpack (Algorithm 21); none when the bytes are malformed. -/
def hintUnpack (y : List Byte) : Option (List (List Bool)) :=
  let y := y.map BitVec.toNat
  let stop := fun (i : Nat) => (y[omega + i]?).getD 0
  let start := fun (i : Nat) => if i = 0 then 0 else stop (i - 1)
  let row := fun (i : Nat) => (y.take (stop i)).drop (start i)
  let ok := (List.range k).all fun i => decide (start i ≤ stop i) && decide (stop i ≤ omega) && rises (row i)
  if ok && ((y.take omega).drop (stop (k - 1))).all (· == 0) then
    some ((List.range k).map fun i => (List.range 256).map fun j => (row i).contains j)
  else none

/-! ### Sampling (Algorithms 14, 15, 29 to 34) -/

/-- The first n results of a list of bytes cut by a sampler; 0 beyond its end, which a stream of this length does not reach in practice. -/
def firstOf (n : Nat) (l : List Int) : Poly := (List.range n).map fun i => (l[i]?).getD 0

/-- RejNTTPoly: three bytes to a coefficient below q. -/
def rejNtt (seed : List Byte) : Poly :=
  firstOf 256 ((pieces 3 (shake128 seed 2016)).filterMap fun b =>
    let z := ofBytes b % 2 ^ 23
    if z < q then some (z : Int) else none)

/-- RejBoundedPoly: half bytes to coefficients -2 .. 2. -/
def rejBounded (seed : List Byte) : Poly :=
  firstOf 256 ((shake256 seed 1088).flatMap fun b => [b.toNat % 16, b.toNat / 16].filterMap fun x =>
    if x < 15 then some (2 - (x % 5 : Nat) : Int) else none)

/-- ExpandA: the matrix in the transform domain. -/
def expandA (rho : List Byte) : List PolyVec :=
  (List.range k).map fun r => (List.range l).map fun s => rejNtt (rho ++ [BitVec.ofNat 8 s, BitVec.ofNat 8 r])
/-- ExpandS: the secret vectors. -/
def expandS (rho : List Byte) : PolyVec × PolyVec :=
  let f := fun (r : Nat) => rejBounded (rho ++ toBytes 2 r)
  ((List.range l).map f, (List.range k).map fun r => f (r + l))
/-- ExpandMask. -/
def expandMask (rho : List Byte) (mu : Nat) : PolyVec :=
  (List.range l).map fun r => bitUnpack 20 gamma1 (shake256 (rho ++ toBytes 2 (mu + r)) 640)

/-- The positions that SampleInBall draws: for each i from 196 the next byte that is at most i. -/
def ballDraws : Nat → Nat → List Nat → List (Nat × Nat)
  | 0, _, _ => []
  | n + 1, i, s =>
    match s.dropWhile fun j => decide (i < j) with
    | [] => []
    | j :: t => (i, j) :: ballDraws n (i + 1) t

/-- SampleInBall: 60 coefficients of +1 or -1. -/
def sampleInBall (seed : List Byte) : Poly :=
  let s := shake256 seed 2176
  let signs := ofBytes (s.take 8)
  (ballDraws tau (256 - tau) ((s.drop 8).map BitVec.toNat)).foldl (fun (c : Poly) x =>
    (c.set x.1 (coef c x.2)).set x.2 (if bitAt signs (x.1 + tau - 256) then -1 else 1)) zero

/-! ### Rounding and hints (Algorithms 35 to 40) -/

/-- Power2Round with d = 13. -/
def power2Round (r : Int) : Int × Int :=
  let p := modq r
  let r0 := cmod p 8192
  ((p - r0) / 8192, r0)
/-- Decompose. -/
def decompose (r : Int) : Int × Int :=
  let p := modq r
  let r0 := cmod p (2 * gamma2)
  if p - r0 = q - 1 then (0, r0 - 1) else ((p - r0) / (2 * gamma2), r0)
def highBits (r : Int) : Int := (decompose r).1
def lowBits (r : Int) : Int := (decompose r).2
/-- MakeHint and UseHint. -/
def makeHint (z r : Int) : Bool := highBits r != highBits (r + z)
def useHint (h : Bool) (r : Int) : Int :=
  let x := decompose r
  if !h then x.1 else if 0 < x.2 then (x.1 + 1) % 16 else (x.1 - 1) % 16
/-- w1Encode. -/
def w1Encode (w : PolyVec) : List Byte := w.flatMap (simplePack 4)

/-! ### Keys and signatures -/

/-- Key generation from a seed of 32 bytes (Algorithm 6): public key and private key. -/
def keyGen (seed : List Byte) : List Byte × List Byte :=
  let x := shake256 (seed ++ [BitVec.ofNat 8 k, BitVec.ofNat 8 l]) 128
  let rho := x.take 32
  let s := expandS ((x.drop 32).take 64)
  let t := List.zipWith add ((mulVec (expandA rho) (s.1.map ntt)).map intt) s.2
  let pk := rho ++ t.flatMap fun w => simplePack 10 (w.map fun x => (power2Round x).1)
  (pk, rho ++ x.drop 96 ++ shake256 pk 64 ++ s.1.flatMap (bitPack 3 2) ++ s.2.flatMap (bitPack 3 2)
    ++ t.flatMap fun w => bitPack 13 4096 (w.map fun x => (power2Round x).2))

/-- One attempt of the signing loop at counter kappa: the signature, or none when it is rejected. -/
def signTry (a : List PolyVec) (s1 s2 t0 : PolyVec) (mu rho : List Byte) (kappa : Nat) : Option (List Byte) :=
  let y := expandMask rho kappa
  let w := (mulVec a (y.map ntt)).map intt
  let c := shake256 (mu ++ w1Encode (w.map fun p => p.map highBits)) 64
  let ch := ntt (sampleInBall c)
  let times := fun (v : PolyVec) => v.map fun p => intt (pointwise ch p)
  let z := (List.zipWith add y (times s1)).map fun p => p.map fun x => cmod x q
  let w' := List.zipWith sub w (times s2)
  let ct := times t0
  let h := List.zipWith (fun (r c : Poly) => List.zipWith (fun r c => makeHint (-c) (r + c)) r c) w' ct
  let ones := (h.map fun r => (r.filter id).length).foldl (fun s t => s + t) 0
  if gamma1 - beta ≤ norm z ∨ gamma2 - beta ≤ norm (w'.map fun p => p.map lowBits) ∨ gamma2 ≤ norm ct ∨ omega < ones then none
  else some (c ++ z.flatMap (bitPack 20 gamma1) ++ hintPack h)

/-- The message of the pure form with an empty context string (Algorithm 2). -/
def pure (m : List Byte) : List Byte := [0#8, 0#8] ++ m

/-- Signature of a message with a private key and 32 bytes of randomness (Algorithms 2 and 7): the first attempt that is accepted,
within the 814 that the standard allows. -/
def sign (sk m rnd : List Byte) : List Byte :=
  let part := fun (o n : Nat) => (sk.drop o).take n
  let mu := shake256 (part 64 64 ++ pure m) 64
  let rho := shake256 (part 32 32 ++ rnd ++ mu) 64
  let vec := fun (c b o n : Nat) => ((pieces (32 * c) (part o (32 * c * n))).map fun p => ntt (bitUnpack c b p))
  let s1 := vec 3 2 128 l
  let s2 := vec 3 2 (128 + 96 * l) k
  let t0 := vec 13 4096 (128 + 96 * (k + l)) k
  ((List.range 814).findSome? fun i => signTry (expandA (part 0 32)) s1 s2 t0 mu rho (i * l)).getD []

/-- A signature of a message verifies under a public key (Algorithms 3 and 8). -/
def verify (pk m sig : List Byte) : Bool :=
  if pk.length ≠ 2592 ∨ sig.length ≠ 4627 then false else
  let c := sig.take 64
  let z := (pieces 640 ((sig.drop 64).take (640 * l))).map (bitUnpack 20 gamma1)
  match hintUnpack (sig.drop (64 + 640 * l)) with
  | none => false
  | some h =>
    let t1 := (pieces 320 (pk.drop 32)).map (simpleUnpack 10)
    let mu := shake256 (shake256 pk 64 ++ pure m) 64
    let ch := ntt (sampleInBall c)
    let az := mulVec (expandA (pk.take 32)) (z.map ntt)
    let ct := t1.map fun p => pointwise ch (ntt (p.map fun x => x * 8192))
    let w := (List.zipWith sub az ct).map intt
    let w1 := List.zipWith (fun (r : Poly) (b : List Bool) => List.zipWith (fun x y => useHint y x) r b) w h
    decide (norm z < gamma1 - beta) && c == shake256 (mu ++ w1Encode w1) 64

end Sys2Proof.Machine.MlDsa
end

