-- ==== Sys2Proof/Machine/Retire.lean ====
section
/-! DEFINITION. Retirement and sparing (16 R378, R379). -/
namespace Sys2Proof.Machine

/-- A retirement ends with a code. -/
def State.retDone (s : State) (code : Nat) : State := { s with belfry := { s.belfry with retcode := BitVec.ofNat 8 code, retWait := none } }

/-- Set the ret bit of a Spire, and for class 1 retire its router (16 Table 16-4). -/
def State.setRet (s : State) (j : RetJob) : State :=
  let t := s.updSpeed j.index fun x => { x with ret := true }
  if j.cls = 1 then { t with belfry := { t.belfry with routers := insertNat j.index t.belfry.routers } } else t

/-- Teams that a retirement moves: those on the Spire, and for a router those with an image in its Cupola. -/
def State.retTeams (s : State) (cls p : Nat) : List Team :=
  s.dist.teams.filter fun t => t.place.contains (some p) ||
    (cls == 1 && t.task.n != 0 && t.place.any fun x => x.any fun q => cupolaOf q == cupolaOf p)

/-- A team whose image loads for its launch has not run: it waits for Spires again as a ready task. -/
def State.unplaceLaunch (s : State) (t : Team) : State :=
  let u := s.dropTeam t
  { u with dist := { u.dist with tasks := u.dist.tasks ++ [{ t.task with ready := true, readyNo := u.dist.readied }], readied := u.dist.readied + 1 } }

/-- Freeze the teams of a job that must be frozen; none when one of them has no save slot. -/
def State.retFreeze (s : State) : List Team → Option State
  | [] => some s
  | t :: ts =>
    match s.team t.task.ctx t.task.order with
    | none => s.retFreeze ts
    | some t =>
      if t.freezing ∨ t.preempting then s.retFreeze ts
      else if t.st = .loading ∧ !s.launched t then (s.unplaceLaunch t).retFreeze ts
      else if !s.slotFor t then none
      else (s.beginFreeze t).retFreeze ts

/-- Resume in place the teams of a job whose freeze the retirement began; the code of the retirement (16 Table 16-4a). -/
def State.retResume (s : State) : List (Nat × Nat × Bool) → Nat → State × Nat
  | [], code => (s, code)
  | x :: xs, code =>
    match s.team x.1 x.2.1 with
    | none => s.retResume xs code
    | some t =>
      if !x.2.2 ∨ t.st ≠ .frozen then s.retResume xs code else
      match s.resumeInPlace t with
      | none => s.retResume xs code
      | some ((0, _), u) => u.retResume xs code
      | some ((c, fstat), u) =>
        State.retResume { u with tm := { u.tm with code := BitVec.ofNat 8 c, fstat := if c = 7 then BitVec.ofNat 8 fstat else u.tm.fstat } } xs 4

/-- The resume of a team of a job waits for an image that cannot be read yet (16 R374, R379). -/
def State.resumeWaits (s : State) (j : RetJob) : Bool :=
  j.teams.any fun x => x.2.2 && (s.team x.1 x.2.1).any fun t => t.st == .frozen && (s.resumeInPlace t).isNone

/-- Once every team of the job has left the Spire, it stops and the teams resume. A team that has been placed elsewhere since runs on. -/
def retFinish (j : RetJob) (s : State) : State :=
  if j.teams.any fun x => (s.team x.1 x.2.1).any fun t => t.freezing || t.preempting || t.place.contains (some j.index) then s else
  let t := s.setRet j
  if t.resumeWaits j then s else
  let y := State.retResume { t with belfry := { t.belfry with retWait := none } } j.teams 0
  y.1.retDone y.2

/-- Begin to retire Spire p by class 0, or router p with it by class 1; the Spire of a router may have been retired before. -/
def retBegin (cls p : Nat) (s : State) : State :=
  let gone := (s.speedOf p).ret
  if Config.spires ≤ p then s.retDone 1
  else if (cls = 0 ∧ gone) ∨ (cls = 1 ∧ s.belfry.routers.contains p) then s.retDone 2
  else if !gone && ((List.range Config.spires).filter fun q => q != p && !(s.speedOf q).ret).isEmpty then s.retDone 5
  else
    let ts := s.retTeams cls p
    match s.retFreeze ts with
    | none => s.retDone 6
    | some t =>
      let j : RetJob := ⟨cls, p, 0, ts.map fun x => (x.task.ctx, x.task.order, !(x.freezing || x.preempting))⟩
      if ts.isEmpty then (t.setRet j).retDone 0 else { t with belfry := { t.belfry with retWait := some j } }

/-- Retire a lane (16 R376): index port * 8 + lane. -/
def retLane (i : Nat) (s : State) : State :=
  if 256 ≤ i ∨ 5 ≤ i % 8 then s.retDone 1
  else if s.belfry.ports.any fun x => x.n == i / 8 && x.bad.getLsbD (i % 8) then s.retDone 2
  else (s.updPort (i / 8) fun x => x.retire (i % 8)).retDone 0

/-- Retire a Tramontane link (16 R373): index die * 8 + peer; what it holds is resent, and the detour is permanent. -/
def retLink (i : Nat) (s : State) : State :=
  let a := i / 8
  let b := i % 8
  if Config.dies ≤ a ∨ a = b then s.retDone 1
  else if s.belfry.trams.any fun x => x.joins a b && x.retired then s.retDone 2
  else State.retDone { s with belfry := (s.belfry.updTram a b fun x => { x with retired := true, st := .down }).resend } 0

/-- Spare a row of a stack: post-package repair while it has spare rows, then the remap table (16 R379). -/
def Stack.spareRow (x : Stack) (row : Nat) : Stack :=
  if x.spare ≠ 0 then { x with spare := x.spare - 1, repaired := x.repaired ++ [row] } else { x with remap := x.remap ++ [row] }

/-- Begin to spare a row of stack i: accesses to it are held until it has been copied (16 R379). -/
def retRow (i row : Nat) (s : State) : State :=
  match s.belfry.hbm.find? fun x => x.s == i with
  | none => s.retDone 1
  | some x =>
    if x.repaired.contains row ∨ x.remap.contains row then s.retDone 2
    else if x.spare = 0 ∧ 4096 ≤ x.remap.length then s.retDone 3
    else { s with belfry := { s.belfry with retWait := some ⟨4, i, row, []⟩ } }

/-- The words of a row that its copy cannot correct: which they are is a free value (log 71). -/
def State.lostWords (s : State) (j : RetJob) : List Nat :=
  (Config.badWords s.draw j.index j.row).filter fun w =>
    decide (8 * w < Config.devEnd) && stackOf (8 * w) == j.index && Config.rowOf (8 * w) == j.row

/-- The row has been copied to its spare: what could not be corrected is written as poison, and the held accesses go on. -/
def retRowEnd (j : RetJob) (s : State) : State :=
  let t := (s.lostWords j).foldl (fun s w => s.spoil (.dev w)) { s with draw := s.draw + 1 }
  State.retDone { t with belfry := { t.belfry with hbm := t.belfry.hbm.map fun y => if y.s = j.index then y.spareRow j.row else y } } 0

/-- Retire by class (16 Table 16-4); classes 5 to 15 are invalid. -/
def retAct (cls i row : Nat) (s : State) : State :=
  match cls with
  | 0 | 1 => retBegin cls i s
  | 2 => retLane i s
  | 3 => retLink i s
  | 4 => retRow i row s
  | _ => s.retDone 1

/-- A write of RETCMD by firmware: ignored while busy; its fields are stored, and go starts the class when p accepts it. -/
def State.writeRetcmd (s : State) (p : Nat → Bool) (v : Word) : State :=
  if s.belfry.retWait.isSome then s else
  let t : State := { s with belfry := { s.belfry with retcmd := v &&& 0xFFFFFFFFFFFF00F0#64 } }
  if !v.getLsbD 0 then t
  else if p (field v.toNat 4 4) then retAct (field v.toNat 4 4) (field v.toNat 16 16) (field v.toNat 32 32) t
  else s

/-- A step of a retirement of the classes that p accepts: a write of RETCMD, or, without a value, what is in progress goes on. -/
def retStep (p : Nat → Bool) (s : State) : Out :=
  match s.arg, s.belfry.retWait with
  | .value _ v, _ => .next (s.writeRetcmd p v)
  | .nothing, some j => .next (if !p j.cls then s else if j.cls = 4 then retRowEnd j s else retFinish j s)
  | _, _ => .next s

/-- RETIRE_SPIRE (16 R378): class 0. -/
def execRetireSpire (s : State) : Out := retStep (· == 0) s
/-- RETIRE_ROUTER (16 R378): class 1. -/
def execRetireRouter (s : State) : Out := retStep (· == 1) s
/-- RETIRE_ETESIAN_LANE (16 R376): class 2. -/
def execRetireEtesianLane (s : State) : Out := retStep (· == 2) s
/-- RETIRE_TRAMONTANE_LINK (16 R373): class 3. -/
def execRetireTramontaneLink (s : State) : Out := retStep (· == 3) s
/-- RETIRE_HBM_ROW (16 R379): class 4. -/
def execRetireHbmRow (s : State) : Out := retStep (· == 4) s
/-- RETIRE_INVALID_CLASS (16 Table 16-5): classes 5 to 15. -/
def execRetireInvalidClass (s : State) : Out := retStep (fun c => decide (5 ≤ c)) s

end Sys2Proof.Machine
end

