-- ==== Sys2Proof/Machine/Security.lean ====
section
/-! DEFINITION. Boot, the distributor's enable, the attestation mailboxes and the removal of power (16 R381-R385). -/
namespace Sys2Proof.Machine

/-- A list as n bytes: cut, or filled with zeros. -/
def asBytes (n : Nat) (l : List Byte) : List Byte := (l ++ zeroBytes n).take n

/-- The number of the image in a flash copy. -/
def Belfry.flash (b : Belfry) (second : Bool) : Nat := if b.flashAct != second then b.flash1 else b.flash0

/-- Stage k of image n verifies: the image's vendor key has the fused digest, the stage's ML-DSA-87 signature holds, and its version is not
below the anti-rollback counter (16 R381). -/
def Belfry.verifies (b : Belfry) (n k : Nat) : Bool :=
  sha3 (Config.imageKey n) == Config.vendorDigest
    && MlDsa.verify (Config.imageKey n) (Config.stageImage n k) (Config.stageSig n k)
    && decide (b.rollback ≤ Config.stageVersion n k)

/-- The image that supplies stage k at boot: the active copy, or the second when that fails (16 R381). -/
def Belfry.stage (b : Belfry) (k : Nat) : Option Nat := [b.flash false, b.flash true].find? fun n => b.verifies n k

/-- A measurement register extended by a digest (16 R381). -/
def extendMeas (m digest : BitVec 512) : BitVec 512 := sha3 (toBytes 64 m.toNat ++ toBytes 64 digest.toNat)

/-- Boot from stage k on: each of n stages is verified and then measured, and after the last the manager cores are released; when both copies
of one fail, the package stays in recovery. -/
def Belfry.bootFrom : Nat → Nat → Belfry → Belfry
  | 0, _, b => { b with booted := true }
  | n + 1, k, b =>
    match b.stage k with
    | none => { b with recovery := true }
    | some i =>
      let m := (b.meas.toList[k]?).getD 0
      Belfry.bootFrom n (k + 1) { b with meas := b.meas.setIfInBounds k (extendMeas m (sha3 (Config.stageImage i k))) }

/-- The identity key pair is derived from the fused seed at the first boot; a zeroized key store takes none (16 R382, R385). -/
def Belfry.identity (b : Belfry) : Belfry :=
  if b.key.isSome ∨ b.zeroized then b else
  let x := MlDsa.keyGen (asBytes 32 Config.seed)
  { b with key := some x.2, pub := x.1 }

/-- What the package shows of its identity: the public key and the vendor certificate (16 R382). -/
def Belfry.exposed (b : Belfry) : List Byte × List Byte := (b.pub, Config.vendorCert)

/-- Boot (16 R381, R382). -/
def Belfry.boot (b : Belfry) : Belfry := Belfry.bootFrom 4 0 b.identity

/-- Reset and boot. -/
def State.restart (s : State) : State :=
  let t := s.toReset
  { t with belfry := t.belfry.boot }

/-- PACKAGE_RESET (16 R381); a package held by an alarm stays in reset. -/
def execPackageReset (s : State) : Out := .next (if s.belfry.inReset then s else s.restart)
/-- POWER_REMOVAL (16 R384): the hold ends; the package starts again. -/
def execPowerRemoval (s : State) : Out := .next s.restart

/-- A write of DCTL by firmware. -/
def State.writeDctl (s : State) (v : Word) : State := { s with dist := { s.dist with en := v.getLsbD 0 } }

/-- DCTL_WRITE (16 R381): firmware writes DCTL. -/
def execDctlWrite (s : State) : Out :=
  match s.arg with
  | .value _ v => .next (s.writeDctl v)
  | _ => .next s

/-! ### Mailboxes (16 R383) -/

/-- The lowest HSP eol and its Spire. -/
def Belfry.worst (b : Belfry) : Nat :=
  match minBy (fun (x : Speed) => x.eol.toNat) b.speed with
  | some x => x.eol.toNat + x.p * 2 ^ 16
  | none => 0xFFFF

/-- The attestation report (16 Table 16-7). -/
def State.report (s : State) (nonce : BitVec 512) : List Byte :=
  let b := s.belfry
  toBytes 64 nonce.toNat ++ (b.meas.toList.flatMap fun m => toBytes 64 m.toNat)
    ++ toBytes 64 (sha3 (dws ((List.range Config.spires).map fun p => (s.speedOf p).word))).toNat
    ++ asBytes 16 Config.serial ++ dws [b.worst] ++ zeroBytes 40
    ++ dws (b.hbm.map s.stackWord) ++ dws (b.ports.map Port.word) ++ zeroBytes 192

/-- A write of op to a mailbox (b of a `value` is 1 for the manager cores'): ignored while busy, else the request starts.
Without a write, the request at the head of the queue ends. -/
def mailWrite (p : Nat → Bool) (finish : Bool → State → Out) (s : State) : Out :=
  match s.arg, s.belfry.mbQueue with
  | .value who v, _ =>
    let mgr := who == 1
    if (s.mail mgr).busy ∨ !p (field v.toNat 0 8) then .next s else
    let t := s.updMail mgr fun m => { m with busy := true, op := v.extractLsb' 0 8 }
    .next { t with belfry := { t.belfry with mbQueue := t.belfry.mbQueue ++ [mgr] } }
  | .nothing, m :: _ => if p (s.mail m).op.toNat then finish m s else .next s
  | _, _ => .next s

/-- MAILBOX_REPORT (16 R383): op 1. Without a key it ends with status 1. -/
def execMailboxReport (s : State) : Out :=
  mailWrite (· == 1) (fun m s =>
    match s.belfry.key with
    | none => .next (s.endMail m 1)
    | some key =>
      let r := s.report (s.mail m).nonce
      let t : State := { s with draw := s.draw + 1 }
      .next ((t.updMail m fun x => { x with report := r, sig := MlDsa.sign key r (asBytes 32 (Config.signRnd s.draw)) }).endMail m 0)) s

/-- MAILBOX_FIRMWARE_UPDATE (16 R383): op 2. The image is verified and written to the inactive flash copy. -/
def execMailboxFirmwareUpdate (s : State) : Out :=
  mailWrite (· == 2) (fun m s =>
    let n := Config.firmwareImage s.dev.cells (field (s.mail m).nonce.toNat 0 64)
    if (List.range 4).all (s.belfry.verifies n) then
      let b := s.belfry
      .next (State.endMail { s with belfry := { b with flash0 := if b.flashAct then n else b.flash0, flash1 := if b.flashAct then b.flash1 else n
                                                       flashNew := true } } m 0)
    else .next (s.endMail m 4)) s

/-- MAILBOX_UNASSIGNED_OP (16 R383): any other op ends with status 2. -/
def execMailboxUnassignedOp (s : State) : Out :=
  mailWrite (fun op => op != 1 && op != 2) (fun m s => .next (s.endMail m 2)) s

end Sys2Proof.Machine
end

