-- ==== Sys2Proof/Machine/Registers.lean ====
section
/-! DEFINITION. Writes of registers that have no step of their own, by their access codes (00 R7; 11 Table 11-6; 12 Tables
12-1, 12-4; 13 Table 13-4; 14 Table 14-9; 15 Table 15-4; 16 Table 16-5). -/
namespace Sys2Proof.Machine

/-- Is a level manager software (the runtime or firmware)? -/
def isManager (l : Level) : Bool := l == .runtime || l == .firmware

/-- Change the context that CSEL names. -/
def State.updCsel (s : State) (f : Context → Context) : State := s.updContext s.dist.csel.toNat f

/-- A write of CTXDESC of Spire p: the descriptor's context keeps the address too (11 R273). -/
def State.writeCtxdesc (s : State) (p : Nat) (v : Word) : State :=
  let a := v.toNat / 64 * 64
  State.updContext { s with ctxdesc := (p, a) :: s.ctxdesc.filter fun x => x.1 != p } (s.dev8 a % 65536) fun c => { c with desc := a }

/-- The effect of a permitted write. -/
def State.writeReg (s : State) (r : MgrReg) (v : Word) : State :=
  let tm := fun (f : TmRegs → TmRegs) => if s.tm.busy then s else { s with tm := f s.tm }
  match r with
  | .ctxdesc p => s.writeCtxdesc p v
  | .splog p => { s with frames := s.frames.map fun f => if f.key / 64 = p ∧ v.getLsbD (f.key % 64) then { f with log := false } else f }
  | .invva d => s.updInv d fun x => { x with va := v }
  | .quantum => { s with dist := { s.dist with quantum := v.setWidth 32 } }
  | .ageint => { s with dist := { s.dist with ageint := v.setWidth 32 } }
  | .csel => State.updContext { s with dist := { s.dist with csel := v.setWidth 16 } } (v.toNat % 65536) fun c => { c with ovfhwm := c.ovfused }
  | .cblog => s.updCsel fun c => { c with cblog := v &&& ~~~63#64 }
  | .cbloglen => s.updCsel fun c => { c with cbloglen := v.setWidth 32 }
  | .pktbind n => s.updPkt n fun x => { x with en := v.getLsbD 16, ctxid := v.setWidth 16 }
  | .slotWord n w => s.updPkt n fun x => (List.range 8).foldl (fun x i => x.put (8 * w + i) (v.extractLsb' (8 * i) 8)) x
  | .ovfbase => s.updCsel fun c => if c.ovfused = 0 then { c with ovfbase := v &&& ~~~0xFFF#64 } else c
  | .ovflen => s.updCsel fun c => if c.ovfused = 0 then { c with ovflen := v.setWidth 32 } else c
  | .tmarg => tm fun x => { x with arg := v.setWidth 32 }
  | .tmimg => tm fun x => { x with img := v &&& ~~~0xFFF#64 }
  | .tmlen => tm fun x => { x with len := v }
  | .tmdesc => tm fun x => { x with desc := v &&& ~~~63#64 }
  | .cxsave => if s.tm.busy then s else s.updCsel fun c => { c with cxsave := v &&& ~~~0x7FFFFFF#64 }
  | .cxslots => if s.tm.busy then s else s.updCsel fun c => { c with cxslots := v.setWidth 16 }
  | .fimg c => s.updFabric c fun f => { f with fimg := v }
  | .fbank c => s.updFabric c fun f => { f with dreq := f.dreq && !v.getLsbD 7, tovf := f.tovf && !v.getLsbD 6 }
  | .fstat c => s.updFabric c fun f => { f with code := v.setWidth 8, widx := v.extractLsb' 16 16 }
  | .almstat => { s with belfry := { s.belfry with almsrc := s.belfry.almsrc &&& ~~~v.setWidth 5 } }
  | .nonce mgr w => s.updMail mgr fun m =>
      { m with nonce := BitVec.ofNat 512 (setField m.nonce.toNat (64 * (w % 8)) 64 v.toNat) }
  | .hcr h n => s.updHart h fun x => { x with hcr := x.hcr.writePriv n v }
  | .dctl => s.writeDctl v
  | .spd p => s.writeAge p v
  | .retcmd => s.writeRetcmd (fun _ => true) v
  | .pwrlim => s.writePwrlim v
  | .readOnly => s

/-- Registers with RWF fields (00 Table 0-3): only firmware writes them. -/
def firmwareOnly (r : MgrReg) : Bool :=
  match r with
  | .fstat _ | .dctl | .spd _ | .retcmd | .pwrlim => true
  | _ => false

/-- Who may write a register: the host its packet slots and its mailbox, firmware the RWF fields, manager software the rest (HCRs by
01 R15). -/
def regPermits (r : MgrReg) (who : Level) : Bool :=
  if firmwareOnly r then who == .firmware else
  match r with
  | .slotWord _ _ => who == .host
  | .nonce mgr _ => if mgr then isManager who else who == .host
  | _ => isManager who

/-- REGISTER_WRITE (00 R7): a write to RWF fields from the runtime or a team is ignored and counted; all of a register with RWF fields
is (log 67). -/
def execRegisterWrite (s : State) : Out :=
  match s.arg with
  | .reg x =>
    if regPermits x.reg x.who then .next (s.writeReg x.reg x.val)
    else if firmwareOnly x.reg && (x.who == .runtime || x.who == .team) then
      .next { s with belfry := { s.belfry with violations := s.belfry.violations + 1 } }
    else .next s
  | _ => .next s

/-! ### Registers by address (11 R276; 12 R278, R292; 13 R312; 14 R343; 15 R358; 16 R365, R383) -/

/-- The step that a write of an op to a mailbox is: the manager cores' is mailbox 1. -/
def mailOp (mgr : Nat) (v : Word) : Instr × StepArg :=
  (if v.toNat % 256 = 1 then .mailboxReport else if v.toNat % 256 = 2 then .mailboxFirmwareUpdate else .mailboxUnassignedOp, .value mgr v)

/-- The step that a write of TMCMD is (15 Table 15-4). -/
def tmOp (v : Word) : Instr × StepArg :=
  (match field v.toNat 4 4 with
   | 1 => .tmFreeze
   | 2 => .tmWriteImage
   | 3 => .tmResume
   | 4 => .tmEnd
   | 5 => .tmRestart
   | 6 => .tmReflect
   | _ => .tmUnassignedOp, .value 0 v)

/-- The step that a write by the manager core of Cupola c to the register at a physical address is; none where no register takes it. A core
reaches the blocks of its own Cupola's Spires, its own faults and fabric, its own die's translation block, and the blocks of the package.
FCMD with both bits abandons (log 77). -/
def regStep (c : Nat) (who : Level) (addr : Nat) (v : Word) : Option (Instr × StepArg) :=
  let reg := fun (r : MgrReg) => some (Instr.registerWrite, StepArg.reg ⟨r, who, v⟩)
  let w := addr % 0x10000 / 8
  let p := 16 * c + addr % 0x10000 / 0x1000
  if addr % 8 ≠ 0 then none else
  match addr / 0x10000 with
  | 0x100 => match addr % 0x1000 / 8 with
    | 0 => reg (.ctxdesc p)
    | 3 => reg (.splog p)
    | 4 => some (.spsave, .value p v)
    | _ => none
  | 0x101 => match w with
    | 0 => some (.fqbaseWrite, .value c v)
    | 1 => some (.fqheadWrite, .value c v)
    | _ => none
  | 0x102 => match w with
    | 0 => some (.invctlGo, .value (c / 4) v)
    | 1 => reg (.invva (c / 4))
    | _ => none
  | 0x103 => match w with
    | 0 => reg .dctl
    | 1 => reg .quantum
    | 2 => reg .ageint
    | 4 => some (.dcancel, .value 0 v)
    | 5 => reg .csel
    | 6 => reg .cblog
    | 7 => reg .cbloglen
    | n => if 9 ≤ n ∧ n < 24 then reg (.pktbind (n - 9)) else none
  | 0x104 => match w with
    | 0 => reg .ovfbase
    | 1 => reg .ovflen
    | 3 => some (if v.getLsbD 0 then .pkrespFail else .pkrespRetry, .value 0 v)
    | _ => none
  | 0x105 => match w with
    | 0 => reg (.fimg c)
    | 1 => if v.getLsbD 1 then some (.fcmdAbort, .nums c 0 0) else if v.getLsbD 0 then some (.fcmdLoad, .nums c 0 0) else none
    | 2 => reg (.fbank c)
    | 3 => reg (.fstat c)
    | _ => none
  | 0x106 => match w with
    | 0 => some (tmOp v)
    | 1 => reg .tmarg
    | 2 => reg .tmimg
    | 3 => reg .tmlen
    | 4 => reg .tmdesc
    | 6 => reg .cxsave
    | 7 => reg .cxslots
    | _ => none
  | 0x107 =>
    if w = 0 then reg .retcmd
    else if w = 2 then reg .pwrlim
    else if w = 5 then reg .almstat
    else if 0x200 ≤ w ∧ w < 0x400 then reg (.spd (w - 0x200))
    else if w = 0x800 then some (mailOp 1 v)
    else if 0x808 ≤ w ∧ w < 0x810 then reg (.nonce true (w - 0x808))
    else none
  | _ => none

/-- The step that a write of 8 bytes by the host to BAR 0 is: PKTSTAT, or a word of its mailbox; the rest of BAR 0 takes none (12 Table 12-1,
16 R371, R383). -/
def barStep (addr : Nat) (bytes : List Byte) : Option (Instr × StepArg) :=
  let v : Word := BitVec.ofNat 64 (ofBytes bytes)
  let w := addr / 8
  if addr % 8 ≠ 0 ∨ bytes.length ≠ 8 then none
  else if 0x1E0 ≤ w ∧ w < 0x1EF then some (.pktstatGo, .value (w - 0x1E0) v)
  else if w = 0x200 then some (mailOp 0 v)
  else if 0x208 ≤ w ∧ w < 0x210 then some (.registerWrite, .reg ⟨.nonce false (w - 0x208), .host, v⟩)
  else none

/-- The step of the table that an input is, when it is the write of a register. -/
def Input.regStep (a : Input) : Option (Instr × StepArg) :=
  match a with
  | .mgrWrite c fw addr v => if c < Config.cupolas then Sys2Proof.Machine.regStep c (if fw then .firmware else .runtime) addr v else none
  | .hostWrite addr bytes => barStep addr bytes
  | _ => none

end Sys2Proof.Machine
end

