-- ==== Sys2Proof/Machine/Transform.lean ====
section
/-! DEFINITION. The twiddle generator (07 R164-R168), butterflies in floating-point and XBF formats (07 R169-R174),
permutations and block alignment (07 R175-R178). -/
namespace Sys2Proof.Machine

/-! ### Twiddle generator -/

/-- Fields of TWG (07 Table 7-2). -/
structure Twg where
  base   : Nat
  stride : Nat
  sh     : Nat
  post   : Bool
  inv    : Bool
  logn   : Nat
  deriving DecidableEq, Repr

/-- TWG of a hart. -/
def Hart.twg (h : Hart) : Twg :=
  let x := h.regs.h.twg.toNat
  ⟨field x 32 32, field x 13 19, field x 8 5, bitAt x 7, bitAt x 6, field x 0 6⟩
/-- Transform length N. -/
def Twg.n (g : Twg) : Nat := 2 ^ g.logn
/-- e(t) (07 R164). -/
def Twg.e (g : Twg) (t : Nat) : Nat := (g.base + t * g.stride) * 2 ^ g.sh % g.n
/-- The effective exponent of W[x]. -/
def Twg.eff (g : Twg) (x : Nat) : Nat := if g.inv then (g.n - x % g.n) % g.n else x % g.n

/-- Change HCR TWG. -/
def Hart.setTwg (h : Hart) (v : Word) : Hart := { h with regs := { h.regs with h := { h.regs.h with twg := v } } }
/-- TWG.base := (TWG.base + VL) mod 2^32 (07 R168, R169). -/
def Hart.advanceTwg (h : Hart) : Hart :=
  h.setTwg (BitVec.ofNat 64 (setField h.regs.h.twg.toNat 32 32 (h.twg.base + h.vl)))
/-- logn is 1 to 32, and not 1 for radix 4 (07 R165). -/
def Hart.twgLegal (r4 : Bool) (h : Hart) : M Unit :=
  failIf (h.twg.logn == 0 || decide (32 < h.twg.logn) || (r4 && h.twg.logn == 1)) illegal

/-- π in units of 2^-160 (log 19). -/
def pi160 : Nat := 0x3243f6a8885a308d313198a2e03707344a4093822
/-- Odd and even parts of a Taylor sum: the next term and the sums of cos and sin, in units of 2^-160. -/
def cosSinAux (x : Nat) : Nat → Nat → Nat → Int → Int → Int × Int
  | 0, _, _, c, s => (c, s)
  | fuel + 1, k, term, c, s =>
    let t : Int := term
    let y := match k % 4 with
      | 0 => (c + t, s)
      | 1 => (c, s + t)
      | 2 => (c - t, s)
      | _ => (c, s - t)
    cosSinAux x fuel (k + 1) (term * x / 2 ^ 160 / (k + 1)) y.1 y.2
/-- cos and sin of 2 π f / N for f below N / 4, in units of 2^-160. -/
def cosSinQ (f n : Nat) : Int × Int := cosSinAux (2 * pi160 * f / n) 48 0 (2 ^ 160) 0 0
/-- cos(2πf/N) and -sin(2πf/N) in units of 2^-160, exact where rational (07 R164). -/
def twiddle (f n : Nat) : Int × Int :=
  let q := 4 * f / n
  let y := if 4 * f % n = 0 then ((2 ^ 160 : Int), (0 : Int)) else cosSinQ (f - q * (n / 4)) n
  match q % 4 with
  | 0 => (y.1, -y.2)
  | 1 => (-y.2, -y.1)
  | 2 => (-y.1, y.2)
  | _ => (y.2, y.1)

/-- A component of a twiddle rounded RNE to F. -/
def twF (F : Fp) (x : Int) : Nat := (F.roundFin .rne false (decide (x < 0)) x.natAbs (-160)).1
/-- A component of a twiddle as a mantissa of 2^-14. -/
def twX (x : Int) : Int := (rneShift x (-146)).1

/-- `twset sb` (07 R166). TWG is written whatever VL is (DESIGN CHOICE, log 76). -/
def execTwset (b : SReg) (s : State) : Out :=
  vecH [] [] (fun h => (ewIn [8, 16, 32, 64] h).bind fun _ => h.clean b) (fun h => .ok (h.setTwg (h.s b))) s

/-! ### The root of a modulus (07 R167) -/

/-- MOD0 or MOD1. -/
def Hart.modulus (h : Hart) (p1 : Bool) : Nat := (if p1 then h.regs.h.mod1 else h.regs.h.mod0).toNat
/-- The root g of modulus p: Table 2-9, else MROOT mod p. -/
def Hart.root (h : Hart) (p : Nat) : Nat :=
  if p = 0x78000001 then 31 else if p = 0x1C000001 then 3 else if p = 0x6C000001 then 13
  else if p = 0xFFFFFFFF00000001 then 7 else h.regs.h.mroot.toNat % p
/-- The modulus serves the width (02 R64). -/
def modOk (w : MWidth) (p : Nat) : Bool := w == .m64 || decide (p < 2 ^ 32)
/-- W[x] as a residue: g^(((p - 1) / N) * f) mod p. -/
def twM (h : Hart) (g : Twg) (p x : Nat) : Nat := powMod (h.root p) ((p - 1) / g.n * g.eff x) p

/-- Governing width of `twget`. -/
def twWidth : TwFmt → Nat
  | .cbf16 | .xbf | .m32 => 32
  | .cfp32 | .m64 => 64

/-- One twiddle in its format. -/
def twElt (h : Hart) (t : TwFmt) (g : Twg) (x : Nat) : Nat :=
  let w := twiddle (g.eff x) g.n
  match t with
  | .cbf16 => twF fpBF16 w.1 + twF fpBF16 w.2 * 2 ^ 16
  | .cfp32 => twF fpFP32 w.1 + twF fpFP32 w.2 * 2 ^ 32
  | .xbf => wrapI 16 (twX w.1) + wrapI 16 (twX w.2) * 2 ^ 16
  | .m32 | .m64 => twM h g (h.modulus false) x

/-- `twget.fmt vd, m` (07 R168). -/
def execTwget (t : TwFmt) (d : VIdx) (m : MIdx) (s : State) : Out :=
  vecH [] [d] (fun h => (ewIn [twWidth t] h).bind fun _ => h.twgLegal false) (fun h =>
    match h.maskClean m with
    | .error e => .error e
    | .ok _ =>
      let g := h.twg
      let act := h.active m
      let p := h.modulus false
      let residue := t == .m32 || t == .m64
      let bad := residue && (!modOk (if t == .m32 then .m32 else .m64) p || (p - 1) % g.n != 0)
      let val := fun i => if bad then 0 else twElt h t g (g.e i)
      let write := fun (h : Hart) =>
        if t = .xbf then h.putBlocks d 32 ((blocksOf act).map fun b =>
          ⟨b.1, (List.range 32).map fun j => if b.2.contains (32 * b.1 + j) then val (32 * b.1 + j) else 0, 0x80, false, []⟩)
        else .ok { h with regs := h.regs.setV d ((h.regs.v[d]).setElts (twWidth t) (act.map fun i => (i, (⟨val i, false⟩ : Elt)))) }
      match (if bad && !act.isEmpty then h.raise flMrange (act.head?.getD 0) else .ok h) with
      | .error e => .error e
      | .ok h => (write h).map Hart.advanceTwg) s

/-! ### Stages (07 R169, R170) -/

/-- A coefficient of a stage: J^j with a sign, times a twiddle W[x] or a coefficient element of a register. -/
inductive Coef
  | one (j : Nat) (neg : Bool)
  | tw (j : Nat) (neg : Bool) (x : Nat)
  | elt (r : VIdx) (i : Nat)
  deriving DecidableEq, Repr

/-- W[x] with J^j and a sign: an exact identity when its effective exponent is 0. -/
def mkCoef (g : Twg) (j : Nat) (neg : Bool) (x : Nat) : Coef := if x % g.n = 0 then .one j neg else .tw j neg (x % g.n)

/-- Rows of stage coefficients for group index t: output k is the sum over m of row[k][m] * x[m]. With post = 1 the outer twiddle
stands in each row's coefficients, so an exact zero takes its sign from all the products as one sum (DESIGN CHOICE, log 70). -/
def stageRows (g : Twg) (r4 plain : Bool) (t : Nat) : List (List Coef) :=
  let e := g.e t
  let one := Coef.one 0 false
  if r4 then
    (List.range 4).map fun k => (List.range 4).map fun m => mkCoef g (m * k % 4) false ((if g.post then k else m) * e)
  else if plain then [[one, one], [one, .one 0 true]]
  else if g.post then [[one, one], [mkCoef g 0 false e, mkCoef g 0 true e]]
  else [[one, mkCoef g 0 false e], [one, mkCoef g 0 true e]]

/-- A group: its lowest element, where its inputs and outputs lie, and its rows. -/
structure Group where
  low  : Nat
  ins  : List (VIdx × Nat)
  outs : List (VIdx × Nat)
  rows : List (List Coef)
  deriving DecidableEq, Repr

/-- Groups of the vi form: in-register at distance 2^h, each with every member below VL. -/
def viGroups (h : Hart) (r : Nat) (d a : VIdx) (imm : Nat) (rows : Nat → List (List Coef)) : List Group :=
  let dist := 2 ^ imm
  ((List.range h.vl).filter fun g => decide (g % (r * dist) < dist) && decide (g + (r - 1) * dist < h.vl)).map
    fun g =>
      let ix := (List.range r).map fun k => g + k * dist
      ⟨g, ix.map fun i => (a, i), ix.map fun i => (d, i), rows (g % dist)⟩

/-- Groups of the vv form: across registers at each element. -/
def vvGroups (h : Hart) (ins outs : List VIdx) (rows : Nat → List (List Coef)) : List Group :=
  (List.range h.vl).map fun i => ⟨i, ins.map fun r => (r, i), outs.map fun r => (r, i), rows i⟩

/-- Input and output registers of a butterfly. -/
def bflyIn (r4 : Bool) (a : VIdx) : BOpB → List VIdx
  | .vv b => if r4 then [a, a + 1, b, b + 1] else [a, b]
  | .vi _ => [a]
/-- Output registers. -/
def bflyOut (r4 : Bool) (d : VIdx) : BOpB → List VIdx
  | .vv _ => if r4 then [d, d + 1, d + 2, d + 3] else [d, d + 1]
  | .vi _ => [d]

/-- The groups of a butterfly instruction, active or not. -/
def bflyGroups (h : Hart) (r4 plain : Bool) (d a : VIdx) (b : BOpB) : List Group :=
  let rows := stageRows h.twg r4 plain
  match b with
  | .vi k => viGroups h (if r4 then 4 else 2) d a k.toNat rows
  | .vv _ => vvGroups h (bflyIn r4 a b) (bflyOut r4 d b) rows

/-- The groups of `bflyg` (07 R174). -/
def pairGroups (h : Hart) (d a b : VIdx) : List Group :=
  ((List.range h.vl).filter fun i => i % 2 == 0 && decide (i + 1 < h.vl)).map fun i =>
    ⟨i, [(a, i), (a, i + 1)], [(d, i), (d, i + 1)], [[.elt b i, .elt b (i + 1)], [.elt (b + 1) i, .elt (b + 1) (i + 1)]]⟩

/-- The active groups: the mask bit of its lowest element alone governs a group, and traps when it is poisoned
(07 R169, 06 R146). The bit of a group left out because a member is at or above VL governs nothing (DESIGN CHOICE, log 69). -/
def activeGroups (h : Hart) (m : MIdx) (gs : List Group) : M (List Group) :=
  let k := h.regs.getM m
  match gs.find? fun g => k.isBad h.ew g.low with
  | some g => .error (poisonTrap g.low)
  | none => .ok (gs.filter fun g => k.on h.ew g.low)

/-- Some input element of a group, or a coefficient element of one of its rows, is poisoned: the output of that row is. `rd` reads
an element with the poison of what it stands under. -/
def Group.rowBad (g : Group) (rd : VIdx → Nat → Elt) (row : List Coef) : Bool :=
  g.ins.any (fun x => (rd x.1 x.2).bad) || row.any fun c => match c with
    | .elt r i => (rd r i).bad
    | _ => false
/-- Some element that feeds a group is poisoned. -/
def Group.isBad (g : Group) (h : Hart) (w : Nat) : Bool := g.rowBad (fun r i => (h.regs.v[r]).elt w i) g.rows.flatten

/-- The power of i that J^j with a sign is. -/
def Twg.rot (g : Twg) (j : Nat) (neg : Bool) : Nat := ((if g.inv then j else 3 * j) + 2 * b2n neg) % 4

/-! ### Floating-point stages (07 R171) -/

/-- i^r times a pair, exactly. -/
def rotF (r : Nat) (x : FVal × FVal) : FVal × FVal :=
  match r with
  | 0 => x
  | 1 => (x.2.neg, x.1)
  | 2 => (x.1.neg, x.2.neg)
  | _ => (x.2, x.1.neg)

/-- The exact terms of one product: of the real part, and of the imaginary part. -/
def termsF (c x : FVal × FVal) : List (FVal × FlagSet) × List (FVal × FlagSet) :=
  ([mulVal c.1 x.1, negTerm (mulVal c.2 x.2)], [mulVal c.1 x.2, mulVal c.2 x.1])

/-- The terms of one coefficient applied to one input. -/
def coefTermsF (h : Hart) (t : CFmt) (g : Twg) (c : Coef) (x : FVal × FVal) : List (FVal × FlagSet) × List (FVal × FlagSet) :=
  let u := fun (v : Nat) => t.fp.unpack h.fz v
  match c with
  | .one j neg => let y := rotF (g.rot j neg) x; ([(y.1, 0)], [(y.2, 0)])
  | .tw j neg e =>
    let w := twiddle (g.eff e) g.n
    termsF (t.fp.unpack false (twF t.fp w.1), t.fp.unpack false (twF t.fp w.2)) (rotF (g.rot j neg) x)
  | .elt r i =>
    let p := cparts t ((h.regs.v[r]).elt (2 * t.comp) i).val
    termsF (u p.1, u p.2) x

/-- The outputs of one group in a complex floating-point format, each with its poison and flags: a coefficient feeds the output of
its own row alone (07 R174, 02 R52). -/
def groupF (h : Hart) (t : CFmt) (g : Group) : List ((VIdx × Nat) × Elt × FlagSet) :=
  let w := 2 * t.comp
  let rd := fun (r : VIdx) (i : Nat) => (h.regs.v[r]).elt w i
  let xs := g.ins.map fun x => let p := cparts t (rd x.1 x.2).val; (t.fp.unpack h.fz p.1, t.fp.unpack h.fz p.2)
  g.outs.zip (g.rows.map fun row =>
    let ts := (row.zip xs).map fun p => coefTermsF h t h.twg p.1 p.2
    let all := xs.flatMap fun x => [x.1, x.2]
    let cs := row.flatMap fun c => match c with
      | .elt r i => let p := cparts t (rd r i).val; [t.fp.unpack h.fz p.1, t.fp.unpack h.fz p.2]
      | _ => []
    let re := cround t.fp h.rnd h.fz (ts.flatMap (·.1)) (all ++ cs)
    let im := cround t.fp h.rnd h.fz (ts.flatMap (·.2)) (all ++ cs)
    let bad := g.rowBad rd row
    (⟨cjoin t re.1 im.1, bad⟩, if bad then 0 else re.2 ||| im.2))

/-- Write single elements into registers. -/
def Regs.putAt (x : Regs) (w : Nat) (es : List ((VIdx × Nat) × Elt)) : Regs :=
  es.foldl (fun r e => r.setV e.1.1 ((r.v[e.1.1]).setElt w e.1.2 e.2)) x

/-- Run groups in a complex floating-point format. -/
def runF (t : CFmt) (gs : Hart → List Group) (m : MIdx) (h : Hart) : M Hart :=
  match activeGroups h m (gs h) with
  | .error e => .error e
  | .ok gs =>
    let w := 2 * t.comp
    let rs := gs.map fun g => (g.low, groupF h t g)
    (h.raiseAll (rs.map fun r => (r.1, (r.2.map fun y => y.2.2).foldl (· ||| ·) 0))).map fun h =>
      { h with regs := h.regs.putAt w (rs.flatMap fun r => r.2.map fun y => (y.1, y.2.1)) }

/-! ### XBF stages (07 R172) -/

/-- An exact dyadic m * 2^e. -/
abbrev Dyadic := Int × Int
/-- Sum. -/
def Dyadic.add (x y : Dyadic) : Dyadic :=
  let lo := min x.2 y.2
  (x.1 * 2 ^ (x.2 - lo).toNat + y.1 * 2 ^ (y.2 - lo).toNat, lo)
/-- Product. -/
def Dyadic.mul (x y : Dyadic) : Dyadic := (x.1 * y.1, x.2 + y.2)
/-- Negation. -/
def Dyadic.neg (x : Dyadic) : Dyadic := (-x.1, x.2)
/-- i^r times a pair. -/
def rotX (r : Nat) (x : Dyadic × Dyadic) : Dyadic × Dyadic :=
  match r with
  | 0 => x
  | 1 => (x.2.neg, x.1)
  | 2 => (x.1.neg, x.2.neg)
  | _ => (x.2, x.1.neg)
/-- Complex product. -/
def mulX (c x : Dyadic × Dyadic) : Dyadic × Dyadic :=
  ((c.1.mul x.1).add (c.2.mul x.2).neg, (c.1.mul x.2).add (c.2.mul x.1))

/-- Width of an XBF element. -/
def xbfWidth (cplx : Bool) : Nat := if cplx then 32 else 16
/-- The value of an XBF element; the imaginary part of a real one is 0. -/
def xbfVal (h : Hart) (cplx : Bool) (x : VIdx × Nat) : Dyadic × Dyadic :=
  let r := h.regs.v[x.1]
  let q := (r.elt (xbfWidth cplx) x.2).val
  let e : Int := (r.scaleAt (x.2 / 32) : Int) - 142
  ((sgn 16 q, e), (if cplx then sgn 16 (q / 65536) else 0, e))

/-- A coefficient applied to an input, exactly. -/
def coefX (h : Hart) (cplx : Bool) (g : Twg) (c : Coef) (x : Dyadic × Dyadic) : Dyadic × Dyadic :=
  match c with
  | .one j neg => rotX (g.rot j neg) x
  | .tw j neg e =>
    let w := twiddle (g.eff e) g.n
    mulX ((twX w.1, -14), (twX w.2, -14)) (rotX (g.rot j neg) x)
  | .elt r i => mulX (xbfVal h cplx (r, i)) x

/-- An exact output element: where, its value, the data and coefficient blocks that feed it, poison, its group. -/
structure XOut where
  at_   : VIdx × Nat
  val   : Dyadic × Dyadic
  feed  : List (VIdx × Nat)
  cfeed : List (VIdx × Nat)
  bad   : Bool
  low   : Nat
  deriving DecidableEq, Repr

/-- The exact outputs of one group. -/
def groupX (h : Hart) (cplx : Bool) (g : Group) : List XOut :=
  let xs := g.ins.map (xbfVal h cplx)
  let feed := g.ins.map fun x => (x.1, x.2 / 32)
  let rd := fun (r : VIdx) (i : Nat) => (h.regs.v[r]).scaled (xbfWidth cplx) i
  (g.outs.zip g.rows).map fun p =>
    let ts := (p.2.zip xs).map fun q => coefX h cplx h.twg q.1 q.2
    let cfeed := p.2.filterMap fun c => match c with
      | .elt r i => some (r, i / 32)
      | _ => none
    ⟨p.1, ts.foldl (fun a y => (a.1.add y.1, a.2.add y.2)) ((0, 0), (0, 0)), feed, cfeed, g.rowBad rd p.2, g.low⟩

/-- Form one output block of register r from its processed elements (07 R172). A flag is raised at the group of the element that was
rounded or clamped (R165); that of the block as a whole at its lowest group. -/
def formBlock (h : Hart) (cplx : Bool) (k b : Nat) (xs : List XOut) : Block :=
  let scale := fun (x : VIdx × Nat) => (h.regs.v[x.1]).scaleAt x.2
  let feeds := xs.flatMap (·.feed)
  let low := (xs.head?.map (·.low)).getD 0
  let bad := xs.any (·.bad)
  if feeds.any (fun x => scale x == 0xFF) || (xs.flatMap (·.cfeed)).any (fun x => scale x == 0xFF) then
    ⟨b, List.replicate 32 0, 0xFF, bad, [(low, flNv)]⟩
  else
    let e := feeds.foldl (fun a x => max a (scale x)) 0
    let comps := (List.range 32).flatMap fun j =>
      match xs.find? fun x => x.at_.2 == 32 * b + j with
      | none => if cplx then [((0, 0) : Dyadic), (0, 0)] else [(0, 0)]
      | some x => if cplx then [x.val.1, x.val.2] else [x.val.1]
    let lo := comps.foldl (fun (a : Int) c => min a c.2) 0
    -- values in units of 2^(e - 142)
    let ys := comps.map fun c => c.1 * 2 ^ (c.2 - lo).toNat
    let q := xbfRenorm ys (lo - ((e : Int) - 142)) e k (h.regs.h.bfpmode.getLsbD 0)
    let fl := (blockFlags b cplx 0 0 (q.1.map (·.2))).filterMap fun f =>
      (xs.find? fun x => x.at_.2 == f.1).map fun x => (x.low, f.2)
    ⟨b, packMant cplx (q.1.map (·.1)), q.2.1, bad, (low, q.2.2) :: fl⟩

/-- Run groups in an XBF format. -/
def runX (cplx : Bool) (k : Nat) (gs : Hart → List Group) (m : MIdx) (h : Hart) : M Hart :=
  match activeGroups h m (gs h) with
  | .error e => .error e
  | .ok gs =>
    let outs := gs.flatMap (groupX h cplx)
    let keys := (outs.map fun x => (x.at_.1, x.at_.2 / 32)).eraseDups
    let bs := keys.map fun key => (key.1, formBlock h cplx k key.2 (outs.filter fun x => x.at_.1 == key.1 && x.at_.2 / 32 == key.2))
    let fl := bs.flatMap fun b => if b.2.bad then [] else b.2.fl
    (h.raiseAll (gs.map fun g => (g.low, (fl.filter fun f => f.1 == g.low).foldl (fun x f => x ||| f.2) 0))).map fun h =>
      { h with regs := bs.foldl (fun r b => r.setV b.1 ((r.v[b.1]).putBlock (xbfWidth cplx) b.2)) h.regs }

/-! ### Butterfly instructions -/

/-- Width of a butterfly type. -/
def bflyWidth : BflyT → Nat
  | .cbf16 | .xbf => 32
  | .cfp32 => 64
  | .rxbf => 16

/-- Run groups of a type: k is log2 of the radix. -/
def runT (t : BflyT) (k : Nat) (gs : Hart → List Group) (m : MIdx) (h : Hart) : M Hart :=
  match t with
  | .cbf16 => runF .cbf16 gs m h
  | .cfp32 => runF .cfp32 gs m h
  | .xbf => runX true k gs m h
  | .rxbf => runX false k gs m h

/-- The vv form advances TWG. -/
def advanceIf (b : BOpB) (uses : Bool) (h : Hart) : Hart :=
  match b with
  | .vv _ => if uses then h.advanceTwg else h
  | .vi _ => h

/-- `bfly2.t` (07 R169-R172); rxbf uses no twiddle. -/
def execBfly2 (t : BflyT) (d a : VIdx) (b : BOpB) (m : MIdx) (s : State) : Out :=
  let uses := t != .rxbf
  vecH (bflyIn false a b) (bflyOut false d b) (fun h =>
      if !bflyLimit false d a b then .error illegal
      else (ewIn [bflyWidth t] h).bind fun _ => if uses then h.twgLegal false else .ok ())
    (fun h => (runT t 1 (fun h => bflyGroups h false (!uses) d a b) m h).map (advanceIf b uses)) s
/-- `bfly4.t`; there is no rxbf form. -/
def execBfly4 (t : BflyT) (d a : VIdx) (b : BOpB) (m : MIdx) (s : State) : Out :=
  vecH (bflyIn true a b) (bflyOut true d b) (fun h =>
      if !bflyLimit true d a b || t == .rxbf then .error illegal
      else (ewIn [bflyWidth t] h).bind fun _ => h.twgLegal true)
    (fun h => (runT t 2 (fun h => bflyGroups h true false d a b) m h).map (advanceIf b true)) s
/-- `bflyg.t` (07 R174). -/
def execBflyg (t : BflyT) (d a b : VIdx) (m : MIdx) (s : State) : Out :=
  vecH [a, b, b + 1] [d] (fun h => if 30 < b.val then .error illegal else ewIn [bflyWidth t] h)
    (fun h => runT t 1 (fun h => pairGroups h d a b) m h) s

/-! ### Permutations (07 R175-R177) -/

/-- Radices r[0] to r[q-1] of the digit reversal. -/
def digitRadices (n b : Nat) : List Nat :=
  let q := ceilDiv n b
  (List.range q).map fun k => if k + 1 < q then 2 ^ b else 2 ^ (n - b * (q - 1))
/-- The i with rev(i) = j. -/
def revSource (n b j : Nat) : Nat := ((digitRadices n b).reverse.foldl (fun (x : Nat × Nat) r => (x.1 / r, x.2 * r + x.1 % r)) (j, 0)).2

/-- Move element src(n, j) to each active j, where n = floor(log2 VL). -/
def permute (d a : VIdx) (m : MIdx) (legal : Bool) (src : Nat → Nat → Nat) (s : State) : Out :=
  vecH [a] [d] (fun h => if legal then ewIn [8, 16, 32, 64] h else .error illegal) (fun h =>
    vecMap h.ew d m (fun h j =>
      let n := Nat.log2 h.vl
      (h.regs.v[a]).elt h.ew (if j < 2 ^ n then src n j else j)) h) s

/-- `vdrev vd, va, b, m` (07 R175). -/
def execVdrev (d a : VIdx) (imm : BitVec 5) (m : MIdx) (s : State) : Out :=
  permute d a m (decide (1 ≤ imm.toNat) && decide (imm.toNat ≤ 8)) (fun n j => revSource n imm.toNat j) s
/-- `vtrn vd, va, c, m` (07 R176). -/
def execVtrn (d a : VIdx) (imm : BitVec 5) (m : MIdx) (s : State) : Out :=
  permute d a m true (fun n j =>
    let c := imm.toNat
    if n < c then j else j % 2 ^ (n - c) * 2 ^ c + j / 2 ^ (n - c)) s

/-! ### Block alignment (07 R178) -/

/-- One aligned block; a flag is raised at the element rounded or clamped (07 R162). The common exponent poisons every block when
the scale of one is poisoned (`sbad`). -/
def alignBlock (h : Hart) (cplx : Bool) (a : VIdx) (E : Nat) (nan sbad : Bool) (b : Nat) (act : List Nat) : Block :=
  let r := h.regs.v[a]
  let w := xbfWidth cplx
  let bad := sbad || (List.range 32).any fun j => (r.elt w (32 * b + j)).bad
  if nan then ⟨b, List.replicate 32 0, 0xFF, bad, [(act.head?.getD 0, flNv)]⟩
  else
    let comps := (List.range 32).flatMap fun j =>
      let q := (r.elt w (32 * b + j)).val
      if cplx then [sgn 16 q, sgn 16 (q / 65536)] else [sgn 16 q]
    let qs := comps.map fun c => rneShift c ((r.scaleAt b : Int) - E)
    ⟨b, packMant cplx (qs.map fun x => if x.1 = -32768 then -32767 else x.1), E, bad,
      blockFlags b cplx 0 0 (qs.map fun x => flagIf (!x.2) flNx ||| flagIf (x.1 == -32768) flBovf)⟩

/-- `xbfn.fmt vd, va, m`. -/
def execXbfn (cplx : Bool) (d a : VIdx) (m : MIdx) (s : State) : Out :=
  vecH [a] [d] (ewIn [xbfWidth cplx]) (fun h =>
    match h.maskClean m with
    | .error e => .error e
    | .ok _ =>
      let bs := blocksOf (h.active m)
      let es := bs.map fun b => (h.regs.v[a]).scaleAt b.1
      let E := es.foldl max 0
      h.putBlocks d (xbfWidth cplx) (bs.map fun b => alignBlock h cplx a E (es.contains 0xFF) (bs.any fun x => (h.regs.v[a]).scaleIsBad x.1) b.1 b.2)) s

end Sys2Proof.Machine
end

