-- ==== Sys2Proof/Machine/Residue.lean ====
section
/-! DEFINITION. Residue arithmetic, modular butterflies, lift, reconstruction and the bound check (07 R173, R179-R182). -/
namespace Sys2Proof.Machine

/-- A coefficient of a modular stage. -/
def coefM (h : Hart) (g : Twg) (p : Nat) (c : Coef) : Nat :=
  let j := fun (k : Nat) => powMod (twM h g p (g.n / 4)) k p
  match c with
  | .one k neg => if neg then p - 1 else j k
  | .tw k neg x => (if neg then p - 1 else j k) * twM h g p x % p
  | .elt _ _ => 0

/-- The outputs of one modular group, canonical, with flags (07 R173). -/
def groupM (h : Hart) (w p : Nat) (ok : Bool) (g : Group) : List ((VIdx × Nat) × Nat) × FlagSet :=
  if !ok then (g.outs.map fun o => (o, 0), flMrange) else
  let cs := g.ins.map fun x => canon ((h.regs.v[x.1]).elt w x.2).val p
  let ys := g.rows.map fun row => ((row.zip cs).foldl (fun a c => a + coefM h h.twg p c.1 * c.2.1) 0) % p
  (g.outs.zip ys, cs.foldl (fun f c => f ||| c.2) 0)

/-- A modular butterfly: with an invalid modulus every element it would write becomes 0 and mrange is set. -/
def runM (w : MWidth) (p1 : Bool) (gs : Hart → List Group) (m : MIdx) (h : Hart) : M Hart :=
  match activeGroups h m (gs h) with
  | .error e => .error e
  | .ok gs =>
    let p := h.modulus p1
    let ok := modOk w p && (p - 1) % h.twg.n == 0
    let rs := gs.map fun g => (g.low, g.isBad h w.bits, groupM h w.bits p ok g)
    (h.raiseAll (rs.map fun r => (r.1, if r.2.1 then 0 else r.2.2.2))).map fun h =>
      { h with regs := h.regs.putAt w.bits (rs.flatMap fun r => r.2.2.1.map fun y => (y.1, (⟨y.2, r.2.1⟩ : Elt))) }

/-- `bfly2.mN`. -/
def execBfly2M (w : MWidth) (p1 : Bool) (d a : VIdx) (b : BOpB) (m : MIdx) (s : State) : Out :=
  vecH (bflyIn false a b) (bflyOut false d b) (fun h =>
      if !bflyLimit false d a b then .error illegal else (ewIn [w.bits] h).bind fun _ => h.twgLegal false)
    (fun h => (runM w p1 (fun h => bflyGroups h false false d a b) m h).map (advanceIf b true)) s
/-- `bfly4.mN`. -/
def execBfly4M (w : MWidth) (p1 : Bool) (d a : VIdx) (b : BOpB) (m : MIdx) (s : State) : Out :=
  vecH (bflyIn true a b) (bflyOut true d b) (fun h =>
      if !bflyLimit true d a b then .error illegal else (ewIn [w.bits] h).bind fun _ => h.twgLegal true)
    (fun h => (runM w p1 (fun h => bflyGroups h true false d a b) m h).map (advanceIf b true)) s

/-- A binary residue operation on canonical operands (07 R179, 02 R64). -/
def modOp2 (w : MWidth) (p1 : Bool) (d a : VIdx) (b : BOp2) (m : MIdx) (f : Nat → Nat → Nat → Nat) (s : State) : Out :=
  vecH (a :: b2Regs b) [d] (ewIn [w.bits]) (vecFlag w.bits d m fun h i =>
    let p := h.modulus p1
    let x := (h.regs.v[a]).elt w.bits i
    let y := h.b2 w.bits b i
    let bad := x.bad || y.bad
    if !modOk w p then (⟨0, bad⟩, flMrange) else
    let u := canon x.val p
    let v := canon y.val p
    (⟨f p u.1 v.1, bad⟩, u.2 ||| v.2)) s

/-- `mmul.mN`. -/
def execMmul (w : MWidth) (p1 : Bool) (d a : VIdx) (b : BOp2) (m : MIdx) (s : State) : Out :=
  modOp2 w p1 d a b m (fun p x y => x * y % p) s
/-- `madd.mN`. -/
def execMadd (w : MWidth) (p1 : Bool) (d a : VIdx) (b : BOp2) (m : MIdx) (s : State) : Out :=
  modOp2 w p1 d a b m (fun p x y => (x + y) % p) s
/-- `msub.mN`. -/
def execMsub (w : MWidth) (p1 : Bool) (d a : VIdx) (b : BOp2) (m : MIdx) (s : State) : Out :=
  modOp2 w p1 d a b m (fun p x y => (x + (p - y)) % p) s

/-- `mred.mN`: the entry into the modular domain. -/
def execMred (w : MWidth) (p1 : Bool) (d a : VIdx) (m : MIdx) (s : State) : Out :=
  vecH [a] [d] (ewIn [w.bits]) (vecFlag w.bits d m fun h i =>
    let p := h.modulus p1
    let x := (h.regs.v[a]).elt w.bits i
    if !modOk w p then (⟨0, x.bad⟩, flMrange) else (⟨(sgn w.bits x.val % p).toNat, x.bad⟩, 0)) s

/-- movf for a magnitude beyond BND (07 R180). -/
def Hart.movf (h : Hart) (v : Int) : FlagSet := flagIf (decide (h.regs.h.bnd.toNat < v.natAbs)) flMovf

/-- `mlift.mN` (07 R180). -/
def execMlift (w : MWidth) (p1 : Bool) (d a : VIdx) (m : MIdx) (s : State) : Out :=
  vecH [a] [d] (ewIn [w.bits]) (vecFlag w.bits d m fun h i =>
    let p := h.modulus p1
    let x := (h.regs.v[a]).elt w.bits i
    if !modOk w p then (⟨0, x.bad⟩, flMrange) else
    let c := canon x.val p
    let v := liftRes c.1 p
    (⟨wrapI w.bits v, x.bad⟩, c.2 ||| h.movf v)) s

/-- `mcrt vd, va, vb, m` (07 R181). -/
def execMcrt (d a b : VIdx) (m : MIdx) (s : State) : Out :=
  vecH [a, b] [d] (ewIn [64]) (vecFlag 64 d m fun h i =>
    let x := (h.regs.v[a]).elt 64 i
    let y := (h.regs.v[b]).elt 64 i
    let r := crt2 x.val y.val (h.modulus false) (h.modulus true)
    (⟨r.1, x.bad || y.bad⟩, r.2 ||| h.movf (sgn 64 r.1))) s

/-- `mchk.sel sn, sbx, sby`: writes flags only (07 R182). -/
def execMchk (c : MchkSel) (d a b : SReg) (s : State) : Out :=
  vecH [] [] (fun h => (ewIn [8, 16, 32, 64] h).bind fun _ => failIf (h.bad d || h.bad a || h.bad b) poisonTrap) (fun h =>
    let m0 := h.modulus false
    let m1 := h.modulus true
    let M := match c with
      | .p0 => m0
      | .p1 => m1
      | .pp => m0 * m1
    let invalid := c == .pp && (m0 == m1 || Nat.gcd m0 m1 != 1 || decide (2 ^ 62 ≤ M))
    let big := decide (M / 2 < (h.s d).toNat * (h.s a).toNat * (h.s b).toNat)
    h.raise (if invalid then flMrange ||| flMovf else flagIf big flMovf) 0) s

end Sys2Proof.Machine
end

