-- ==== Sys2Proof/Machine/ScalarFp.lean ====
section
/-! DEFINITION. Scalar floating point: majors 0x0C to 0x0E (04 R106, R107, Table 4-5). -/
namespace Sys2Proof.Machine

/-- Write a scalar floating-point result with its poison, and raise its flags (log 24). -/
def Hart.fpOut (h : Hart) (d : SReg) (x : Nat × FlagSet) (bad : Bool) : M Hart :=
  (h.raise x.2 0).map fun h => h.setS d (BitVec.ofNat 64 x.1) bad

/-- The low bits of a scalar register as an operand of a format. -/
def Hart.fpIn (h : Hart) (w : Nat) (r : SReg) : Nat := (h.s r).toNat % 2 ^ w

/-- A scalar floating-point operation of two operands. -/
def Hart.fp2 (h : Hart) (k : SFmt) (d a b : SReg) (f : Fp → Rnd → Bool → Nat → Nat → Nat × FlagSet) : M Hart :=
  h.fpOut d (f k.fp h.rnd h.fz (h.fpIn k.width a) (h.fpIn k.width b)) (h.bad a || h.bad b)

/-- A scalar floating-point operation of one operand. -/
def Hart.fp1 (h : Hart) (k : SFmt) (d a : SReg) (f : Fp → Rnd → Bool → Nat → Nat × FlagSet) : M Hart :=
  h.fpOut d (f k.fp h.rnd h.fz (h.fpIn k.width a)) (h.bad a)

/-- A comparison as a scalar result. -/
def cmpOut (x : Bool × FlagSet) : Nat × FlagSet := (b2n x.1, x.2)

/-- `fadd.fmt sd, sa, sb` (04 R106). -/
def execFadd (k : SFmt) (d a b : SReg) (s : State) : Out :=
  plainH s fun h => h.fp2 k d a b fun F r z x y => F.add r z x y
/-- `fsub.fmt sd, sa, sb` (04 R106). -/
def execFsub (k : SFmt) (d a b : SReg) (s : State) : Out :=
  plainH s fun h => h.fp2 k d a b fun F r z x y => F.sub r z x y
/-- `fmul.fmt sd, sa, sb` (04 R106). -/
def execFmul (k : SFmt) (d a b : SReg) (s : State) : Out :=
  plainH s fun h => h.fp2 k d a b fun F r z x y => F.mul r z x y
/-- `fdiv.fmt sd, sa, sb` (04 R106). -/
def execFdiv (k : SFmt) (d a b : SReg) (s : State) : Out :=
  plainH s fun h => h.fp2 k d a b fun F r z x y => F.div r z x y
/-- `fmin.fmt sd, sa, sb` (04 R106). -/
def execFmin (k : SFmt) (d a b : SReg) (s : State) : Out :=
  plainH s fun h => h.fp2 k d a b fun F _ z x y => F.minmax false z x y
/-- `fmax.fmt sd, sa, sb` (04 R106). -/
def execFmax (k : SFmt) (d a b : SReg) (s : State) : Out :=
  plainH s fun h => h.fp2 k d a b fun F _ z x y => F.minmax true z x y
/-- `fsgnj.fmt sd, sa, sb` (04 R106). -/
def execFsgnj (k : SFmt) (d a b : SReg) (s : State) : Out :=
  plainH s fun h => h.fp2 k d a b fun F _ _ x y => (x % 2 ^ F.sb + y / 2 ^ F.sb % 2 * 2 ^ F.sb, 0)
/-- `feq.fmt sd, sa, sb` (04 R106). -/
def execFeq (k : SFmt) (d a b : SReg) (s : State) : Out :=
  plainH s fun h => h.fp2 k d a b fun F _ z x y => cmpOut (F.cmp .eq z x y)
/-- `flt.fmt sd, sa, sb` (04 R106). -/
def execFlt (k : SFmt) (d a b : SReg) (s : State) : Out :=
  plainH s fun h => h.fp2 k d a b fun F _ z x y => cmpOut (F.cmp .lt z x y)
/-- `fle.fmt sd, sa, sb` (04 R106). -/
def execFle (k : SFmt) (d a b : SReg) (s : State) : Out :=
  plainH s fun h => h.fp2 k d a b fun F _ z x y => cmpOut (F.cmp .le z x y)
/-- `fsqrt.fmt sd, sa` (04 R106). -/
def execFsqrt (k : SFmt) (d a : SReg) (s : State) : Out :=
  plainH s fun h => h.fp1 k d a fun F r z x => F.sqrt r z x
/-- `fneg.fmt sd, sa` (04 R106). -/
def execFneg (k : SFmt) (d a : SReg) (s : State) : Out :=
  plainH s fun h => h.fp1 k d a fun F _ _ x => ((x + 2 ^ F.sb) % 2 ^ (F.sb + 1), 0)
/-- `fabs.fmt sd, sa` (04 R106). -/
def execFabs (k : SFmt) (d a : SReg) (s : State) : Out :=
  plainH s fun h => h.fp1 k d a fun F _ _ x => (x % 2 ^ F.sb, 0)
/-- `fmadd.fmt sd, sa, sb`: tied, s_d is the addend (04 R106, 02 R55). -/
def execFmadd (k : SFmt) (d a b : SReg) (s : State) : Out :=
  plainH s fun h =>
    h.fpOut d (k.fp.fma h.rnd h.fz false false (h.fpIn k.width a) (h.fpIn k.width b) (h.fpIn k.width d))
      (h.bad a || h.bad b || h.bad d)

/-- A scalar conversion of an operand of w bits. -/
def Hart.cvt (h : Hart) (w : Nat) (d a : SReg) (f : Rnd → Bool → Nat → Nat × FlagSet) : M Hart :=
  h.fpOut d (f h.rnd h.fz (h.fpIn w a)) (h.bad a)

/-- `fcvt.fp64.fp32 sd, sa` (04 R107). -/
def execFcvtFp64Fp32 (d a : SReg) (s : State) : Out := plainH s fun h => h.cvt 32 d a fun r z x => cvtFF fpFP32 fpFP64 r z z x
/-- `fcvt.fp32.fp64 sd, sa` (04 R107). -/
def execFcvtFp32Fp64 (d a : SReg) (s : State) : Out := plainH s fun h => h.cvt 64 d a fun r z x => cvtFF fpFP64 fpFP32 r z z x
/-- `fcvt.fp32.i64 sd, sa` (04 R107). -/
def execFcvtFp32I64 (d a : SReg) (s : State) : Out := plainH s fun h => h.cvt 64 d a fun r z x => cvtIF true 64 fpFP32 r z x
/-- `fcvt.fp64.i64 sd, sa` (04 R107). -/
def execFcvtFp64I64 (d a : SReg) (s : State) : Out := plainH s fun h => h.cvt 64 d a fun r z x => cvtIF true 64 fpFP64 r z x
/-- `fcvt.fp32.ui64 sd, sa` (04 R107). -/
def execFcvtFp32Ui64 (d a : SReg) (s : State) : Out := plainH s fun h => h.cvt 64 d a fun r z x => cvtIF false 64 fpFP32 r z x
/-- `fcvt.fp64.ui64 sd, sa` (04 R107). -/
def execFcvtFp64Ui64 (d a : SReg) (s : State) : Out := plainH s fun h => h.cvt 64 d a fun r z x => cvtIF false 64 fpFP64 r z x
/-- `fcvt.i64.fp32 sd, sa` (04 R107). -/
def execFcvtI64Fp32 (d a : SReg) (s : State) : Out := plainH s fun h => h.cvt 32 d a fun r z x => cvtFI fpFP32 true 64 r z x
/-- `fcvt.i64.fp64 sd, sa` (04 R107). -/
def execFcvtI64Fp64 (d a : SReg) (s : State) : Out := plainH s fun h => h.cvt 64 d a fun r z x => cvtFI fpFP64 true 64 r z x
/-- `fcvt.ui64.fp32 sd, sa` (04 R107). -/
def execFcvtUi64Fp32 (d a : SReg) (s : State) : Out := plainH s fun h => h.cvt 32 d a fun r z x => cvtFI fpFP32 false 64 r z x
/-- `fcvt.ui64.fp64 sd, sa` (04 R107). -/
def execFcvtUi64Fp64 (d a : SReg) (s : State) : Out := plainH s fun h => h.cvt 64 d a fun r z x => cvtFI fpFP64 false 64 r z x
/-- `fcvt.fp16.fp32 sd, sa` (04 R107). -/
def execFcvtFp16Fp32 (d a : SReg) (s : State) : Out := plainH s fun h => h.cvt 32 d a fun r z x => cvtFF fpFP32 fpFP16 r z z x
/-- `fcvt.fp32.fp16 sd, sa` (04 R107). -/
def execFcvtFp32Fp16 (d a : SReg) (s : State) : Out := plainH s fun h => h.cvt 16 d a fun r z x => cvtFF fpFP16 fpFP32 r z z x
/-- `fcvt.bf16.fp32 sd, sa`: with RMODE = 4 it rounds stochastically with one draw (04 R107, 02 R48). -/
def execFcvtBf16Fp32 (d a : SReg) (s : State) : Out :=
  plainH s fun h =>
    if h.stochastic then
      let x := h.draw
      x.1.fpOut d (cvtFF fpFP32 fpBF16 (.sto x.2) h.fz h.fz (h.fpIn 32 a)) (h.bad a)
    else h.cvt 32 d a fun r z x => cvtFF fpFP32 fpBF16 r z z x
/-- `fcvt.fp32.bf16 sd, sa` (04 R107). -/
def execFcvtFp32Bf16 (d a : SReg) (s : State) : Out := plainH s fun h => h.cvt 16 d a fun r z x => cvtFF fpBF16 fpFP32 r z z x

end Sys2Proof.Machine
end

