-- ==== Sys2Proof/Machine/ScalarInt.lean ====
section
/-! DEFINITION. Integer scalar instructions: majors 0x01 to 0x07 (04 R98-R101, Tables 4-1 and 4-2). -/
namespace Sys2Proof.Machine

/-- 1 or 0 as a word. -/
def ofBool (b : Bool) : Word := if b then 1 else 0
/-- An integer modulo 2^64. -/
def ofInt64 (x : Int) : Word := BitVec.ofInt 64 x

/-- Result of `add` (04 Table 4-1). -/
def aluAdd (a b : Word) : Word := a + b
/-- Result of `sub` (04 Table 4-1). -/
def aluSub (a b : Word) : Word := a - b
/-- Result of `and` (04 Table 4-1). -/
def aluAnd (a b : Word) : Word := a &&& b
/-- Result of `or` (04 Table 4-1). -/
def aluOr (a b : Word) : Word := a ||| b
/-- Result of `xor` (04 Table 4-1). -/
def aluXor (a b : Word) : Word := a ^^^ b
/-- Result of `sll` (04 Table 4-1). -/
def aluSll (a b : Word) : Word := a <<< (b.toNat % 64)
/-- Result of `srl` (04 Table 4-1). -/
def aluSrl (a b : Word) : Word := a >>> (b.toNat % 64)
/-- Result of `sra` (04 Table 4-1). -/
def aluSra (a b : Word) : Word := a.sshiftRight (b.toNat % 64)
/-- Result of `slt` (04 Table 4-1). -/
def aluSlt (a b : Word) : Word := ofBool (decide (a.toInt < b.toInt))
/-- Result of `sltu` (04 Table 4-1). -/
def aluSltu (a b : Word) : Word := ofBool (decide (a.toNat < b.toNat))
/-- Result of `seq` (04 Table 4-1). -/
def aluSeq (a b : Word) : Word := ofBool (a == b)
/-- Result of `min` (04 Table 4-1). -/
def aluMin (a b : Word) : Word := if a.toInt < b.toInt then a else b
/-- Result of `max` (04 Table 4-1). -/
def aluMax (a b : Word) : Word := if a.toInt < b.toInt then b else a
/-- Result of `minu` (04 Table 4-1). -/
def aluMinu (a b : Word) : Word := if a.toNat < b.toNat then a else b
/-- Result of `maxu` (04 Table 4-1). -/
def aluMaxu (a b : Word) : Word := if a.toNat < b.toNat then b else a
/-- Result of `mul` (04 Table 4-1). -/
def aluMul (a b : Word) : Word := a * b
/-- Result of `mulh` (04 Table 4-1). -/
def aluMulh (a b : Word) : Word := ofInt64 (a.toInt * b.toInt / 2 ^ 64)
/-- Result of `mulhu` (04 Table 4-1). -/
def aluMulhu (a b : Word) : Word := BitVec.ofNat 64 (a.toNat * b.toNat / 2 ^ 64)
/-- Result of `mulhsu` (04 Table 4-1). -/
def aluMulhsu (a b : Word) : Word := ofInt64 (a.toInt * b.toNat / 2 ^ 64)
/-- Result of `div` (04 Table 4-1). -/
def aluDiv (a b : Word) : Word := if b = 0 then BitVec.allOnes 64 else ofInt64 (truncDiv a.toInt b.toInt)
/-- Result of `divu` (04 Table 4-1). -/
def aluDivu (a b : Word) : Word := if b = 0 then BitVec.allOnes 64 else BitVec.ofNat 64 (a.toNat / b.toNat)
/-- Result of `rem` (04 Table 4-1). -/
def aluRem (a b : Word) : Word := if b = 0 then a else ofInt64 (truncMod a.toInt b.toInt)
/-- Result of `remu` (04 Table 4-1). -/
def aluRemu (a b : Word) : Word := if b = 0 then a else BitVec.ofNat 64 (a.toNat % b.toNat)
/-- Result of `clz` (04 Table 4-1). -/
def aluClz (a : Word) : Word := BitVec.ofNat 64 (64 - bitlen a.toNat)
/-- Result of `ctz` (04 Table 4-1). -/
def aluCtz (a : Word) : Word := BitVec.ofNat 64 (ctzN 64 a.toNat)
/-- Result of `popc` (04 Table 4-1). -/
def aluPopc (a : Word) : Word := BitVec.ofNat 64 (popcount 64 a.toNat)

/-- `add sd, sa, sb` (04 R100). -/
def execAdd (d a b : SReg) (s : State) : Out := plainH s fun h => .ok (h.alu2 d a b aluAdd)
/-- `sub sd, sa, sb` (04 R100). -/
def execSub (d a b : SReg) (s : State) : Out := plainH s fun h => .ok (h.alu2 d a b aluSub)
/-- `and sd, sa, sb` (04 R100). -/
def execAnd (d a b : SReg) (s : State) : Out := plainH s fun h => .ok (h.alu2 d a b aluAnd)
/-- `or sd, sa, sb` (04 R100). -/
def execOr (d a b : SReg) (s : State) : Out := plainH s fun h => .ok (h.alu2 d a b aluOr)
/-- `xor sd, sa, sb` (04 R100). -/
def execXor (d a b : SReg) (s : State) : Out := plainH s fun h => .ok (h.alu2 d a b aluXor)
/-- `sll sd, sa, sb` (04 R100). -/
def execSll (d a b : SReg) (s : State) : Out := plainH s fun h => .ok (h.alu2 d a b aluSll)
/-- `srl sd, sa, sb` (04 R100). -/
def execSrl (d a b : SReg) (s : State) : Out := plainH s fun h => .ok (h.alu2 d a b aluSrl)
/-- `sra sd, sa, sb` (04 R100). -/
def execSra (d a b : SReg) (s : State) : Out := plainH s fun h => .ok (h.alu2 d a b aluSra)
/-- `slt sd, sa, sb` (04 R100). -/
def execSlt (d a b : SReg) (s : State) : Out := plainH s fun h => .ok (h.alu2 d a b aluSlt)
/-- `sltu sd, sa, sb` (04 R100). -/
def execSltu (d a b : SReg) (s : State) : Out := plainH s fun h => .ok (h.alu2 d a b aluSltu)
/-- `seq sd, sa, sb` (04 R100). -/
def execSeq (d a b : SReg) (s : State) : Out := plainH s fun h => .ok (h.alu2 d a b aluSeq)
/-- `min sd, sa, sb` (04 R100). -/
def execMin (d a b : SReg) (s : State) : Out := plainH s fun h => .ok (h.alu2 d a b aluMin)
/-- `max sd, sa, sb` (04 R100). -/
def execMax (d a b : SReg) (s : State) : Out := plainH s fun h => .ok (h.alu2 d a b aluMax)
/-- `minu sd, sa, sb` (04 R100). -/
def execMinu (d a b : SReg) (s : State) : Out := plainH s fun h => .ok (h.alu2 d a b aluMinu)
/-- `maxu sd, sa, sb` (04 R100). -/
def execMaxu (d a b : SReg) (s : State) : Out := plainH s fun h => .ok (h.alu2 d a b aluMaxu)
/-- `mul sd, sa, sb` (04 R100). -/
def execMul (d a b : SReg) (s : State) : Out := plainH s fun h => .ok (h.alu2 d a b aluMul)
/-- `mulh sd, sa, sb` (04 R100). -/
def execMulh (d a b : SReg) (s : State) : Out := plainH s fun h => .ok (h.alu2 d a b aluMulh)
/-- `mulhu sd, sa, sb` (04 R100). -/
def execMulhu (d a b : SReg) (s : State) : Out := plainH s fun h => .ok (h.alu2 d a b aluMulhu)
/-- `mulhsu sd, sa, sb` (04 R100). -/
def execMulhsu (d a b : SReg) (s : State) : Out := plainH s fun h => .ok (h.alu2 d a b aluMulhsu)
/-- `div sd, sa, sb` (04 R100). -/
def execDiv (d a b : SReg) (s : State) : Out := plainH s fun h => .ok (h.alu2 d a b aluDiv)
/-- `divu sd, sa, sb` (04 R100). -/
def execDivu (d a b : SReg) (s : State) : Out := plainH s fun h => .ok (h.alu2 d a b aluDivu)
/-- `rem sd, sa, sb` (04 R100). -/
def execRem (d a b : SReg) (s : State) : Out := plainH s fun h => .ok (h.alu2 d a b aluRem)
/-- `remu sd, sa, sb` (04 R100). -/
def execRemu (d a b : SReg) (s : State) : Out := plainH s fun h => .ok (h.alu2 d a b aluRemu)
/-- `clz sd, sa` (04 R100). -/
def execClz (d a : SReg) (s : State) : Out := plainH s fun h => .ok (h.alu1 d a aluClz)
/-- `ctz sd, sa` (04 R100). -/
def execCtz (d a : SReg) (s : State) : Out := plainH s fun h => .ok (h.alu1 d a aluCtz)
/-- `popc sd, sa` (04 R100). -/
def execPopc (d a : SReg) (s : State) : Out := plainH s fun h => .ok (h.alu1 d a aluPopc)

/-- `addi sd, sa, imm` (04 R101). -/
def execAddi (d a : SReg) (imm : BitVec 16) (s : State) : Out :=
  plainH s fun h => .ok (h.alu1 d a fun x => x + imm.signExtend 64)
/-- `andi sd, sa, imm` (04 R101). -/
def execAndi (d a : SReg) (imm : BitVec 16) (s : State) : Out :=
  plainH s fun h => .ok (h.alu1 d a fun x => x &&& imm.setWidth 64)
/-- `ori sd, sa, imm` (04 R101). -/
def execOri (d a : SReg) (imm : BitVec 16) (s : State) : Out :=
  plainH s fun h => .ok (h.alu1 d a fun x => x ||| imm.setWidth 64)
/-- `lui sd, imm` (04 R101). -/
def execLui (d : SReg) (imm : BitVec 16) (s : State) : Out :=
  plainH s fun h => .ok (h.setS d (imm.signExtend 64 <<< 16) false)
/-- `slli sd, sa, sh` (04 R101). -/
def execSlli (d a : SReg) (sh : BitVec 6) (s : State) : Out := plainH s fun h => .ok (h.alu1 d a fun x => x <<< sh.toNat)
/-- `srli sd, sa, sh` (04 R101). -/
def execSrli (d a : SReg) (sh : BitVec 6) (s : State) : Out := plainH s fun h => .ok (h.alu1 d a fun x => x >>> sh.toNat)
/-- `srai sd, sa, sh` (04 R101). -/
def execSrai (d a : SReg) (sh : BitVec 6) (s : State) : Out :=
  plainH s fun h => .ok (h.alu1 d a fun x => x.sshiftRight sh.toNat)

end Sys2Proof.Machine
end

