-- ==== Sys2Proof/Machine/TileOps.lean ====
section
/-! DEFINITION. Outer-product tile instructions: updates, moves, the epilogue (08 R184-R194). -/
namespace Sys2Proof.Machine

/-- Element n of a tile: its word and poison bit (01 R20). -/
def Tile.elt (t : Tile) (n : Nat) : Elt := ⟨field t.data.toNat (32 * n) 32, t.poison.getLsbD n⟩
/-- The first n elements in order. -/
def Tile.elts (t : Tile) (n : Nat) : List Elt := (List.range n).map t.elt
/-- Number with a list of words, lowest first. -/
def packWords : List Nat → Nat
  | [] => 0
  | x :: xs => x % 2 ^ 32 + packWords xs * 2 ^ 32
/-- Number with a list of bits, lowest first. -/
def packBits : List Bool → Nat
  | [] => 0
  | x :: xs => b2n x + packBits xs * 2
/-- A tile whose first elements are a list; the words beyond it stay. -/
def Tile.putElts (t : Tile) (xs : List Elt) : Tile :=
  { data := BitVec.ofNat 131072 (setField t.data.toNat 0 (32 * xs.length) (packWords (xs.map (·.val))))
    poison := BitVec.ofNat 4096 (setField t.poison.toNat 0 xs.length (packBits (xs.map (·.bad)))) }
/-- Write element n of a tile. -/
def Tile.setElt (t : Tile) (n : Nat) (x : Elt) : Tile :=
  { data := BitVec.ofNat 131072 (setField t.data.toNat (32 * n) 32 x.val)
    poison := BitVec.ofNat 4096 (setField t.poison.toNat n 1 (b2n x.bad)) }

/-- Rows of a tile: 2L (01 Table 1-1). -/
def Hart.side (h : Hart) : Nat := 2 * h.lanes

/-! ### Outer products (08 R185-R188) -/

/-- Element width and group size of a type (08 R185). -/
def opaWidth : OpaT → Nat
  | .bf16 | .fp16 => 16
  | .e4m3 | .e5m2 | .i8 => 8
  | .e2m1 => 4
/-- Elements in a group. -/
def opaGroup : OpaT → Nat
  | .bf16 | .fp16 => 1
  | .e4m3 | .e5m2 | .i8 => 2
  | .e2m1 => 4
/-- Floating-point format of a type. -/
def opaFp : OpaT → Option Fp
  | .bf16 => some fpBF16
  | .fp16 => some fpFP16
  | .e4m3 => some fpE4M3
  | .e5m2 => some fpE5M2
  | .e2m1 => some fpE2M1
  | .i8 => none

/-- The groups of panel p of a register: elements that take part. -/
def panel (h : Hart) (t : OpaT) (r : VIdx) (m : MIdx) (p : Nat) : List (List (Option Elt)) :=
  let g := opaGroup t
  let k := h.regs.getM m
  (List.range h.side).map fun i => (List.range g).map fun u =>
    let e := p * h.side * g + g * i + u
    if e < h.vl && k.on (opaWidth t) e then some ((h.regs.v[r]).elt (opaWidth t) e) else none

/-- The pairs of a row group and a column group that both take part. -/
def opaTerms (a b : List (Option Elt)) : List (Elt × Elt) :=
  (a.zip b).filterMap fun p => match p.1, p.2 with
    | some x, some y => some (x, y)
    | _, _ => none

/-- One tile element after one panel, with flags (08 R187, 02 R56). `ops` negates each product, so an exact zero takes its sign from
the accumulator and the negated products (DESIGN CHOICE, log 70). -/
def opaElt (h : Hart) (t : OpaT) (sub : Bool) (acc : Elt) (ts : List (Elt × Elt)) : Elt × FlagSet :=
  if ts.isEmpty then (acc, 0) else
  let bad := acc.bad || ts.any fun p => p.1.bad || p.2.bad
  match opaFp t with
  | none =>
    let S := ts.foldl (fun s p => s + sgn 8 p.1.val * sgn 8 p.2.val) (0 : Int)
    (⟨wrapI 32 (sgn 32 acc.val + (if sub then -S else S)), bad⟩, 0)
  | some F =>
    let a := fpFP32.unpack h.fz acc.val
    let vs := ts.map fun p => (F.unpack h.fz p.1.val, F.unpack h.fz p.2.val)
    let terms := vs.map fun p => let q := mulVal p.1 p.2; if sub then negTerm q else q
    let r := cround fpFP32 .rne h.fz ((a, 0) :: terms) (a :: vs.flatMap fun p => [p.1, p.2])
    (⟨r.1, bad⟩, if bad then 0 else r.2)

/-- All tile elements after one panel, row-major, with flags by element. -/
def opaPanel (h : Hart) (t : OpaT) (sub : Bool) (a b : VIdx) (m : MIdx) (tile : List Elt) (p : Nat) : List (Elt × FlagSet) :=
  let rows := panel h t a m p
  let cols := panel h t b m p
  let ts := rows.flatMap fun r => cols.map fun c => opaTerms r c
  List.zipWith (fun acc x => opaElt h t sub acc x) tile ts

/-- All panels. -/
def opaPanels (h : Hart) (t : OpaT) (sub : Bool) (a b : VIdx) (m : MIdx) : List Nat → List Elt → List Elt × List (Nat × FlagSet)
  | [], tile => (tile, [])
  | p :: ps, tile =>
    let x := opaPanel h t sub a b m tile p
    let y := opaPanels h t sub a b m ps (x.map (·.1))
    (y.1, x.zipIdx.map (fun z => (z.2, z.1.2)) ++ y.2)

/-- An outer-product update (08 R187, R188). -/
def outer (sub : Bool) (t : OpaT) (d : AIdx) (a b : VIdx) (m : MIdx) (s : State) : Out :=
  vecH [a, b] [] (ewIn [opaWidth t]) (fun h =>
    match h.maskClean m with
    | .error e => .error e
    | .ok _ =>
      let n := h.side * h.side
      let K := ceilDiv h.vl (h.side * opaGroup t)
      let r := opaPanels h t sub a b m (List.range K) ((h.regs.a[d]).elts n)
      (h.raiseAll (r.2.filter fun x => x.2 != 0)).map fun h => { h with regs := h.regs.setA d ((h.regs.a[d]).putElts r.1) }) s

/-- `opa.t ad, va, vb, m`. -/
def execOpa (t : OpaT) (d : AIdx) (a b : VIdx) (m : MIdx) (s : State) : Out := outer false t d a b m s
/-- `ops.t ad, va, vb, m`. -/
def execOps (t : OpaT) (d : AIdx) (a b : VIdx) (m : MIdx) (s : State) : Out := outer true t d a b m s

/-! ### Moves (08 R189, R190) -/

/-- `azero ad`. -/
def execAzero (d : AIdx) (s : State) : Out := plainH s fun h => .ok { h with regs := h.regs.setA d Tile.zero }
/-- `amov ad, aa`. -/
def execAmov (d a : AIdx) (s : State) : Out := plainH s fun h => .ok { h with regs := h.regs.setA d h.regs.a[a] }

/-- The index of a row or column move; a poisoned one traps (08 R189). -/
def tileIx (c : SReg) (h : Hart) : M Unit := (ewIn [32] h).bind fun _ => h.clean c

/-- The tile element of line c at position i. -/
def lineAt (h : Hart) (row : Bool) (c i : Nat) : Nat := if row then h.side * c + i else h.side * i + c

/-- `arow` and `acol`: a line into a vector. -/
def tileRead (row : Bool) (d : VIdx) (a : AIdx) (c : SReg) (m : MIdx) (s : State) : Out :=
  vecH [] [d] (tileIx c) (fun h =>
    (h.maskClean m).map fun _ =>
      let k := (h.s c).toNat
      let xs := ((h.active m).filter fun i => decide (i < h.side)).map fun i =>
        (i, if h.side ≤ k then (⟨0, false⟩ : Elt) else (h.regs.a[a]).elt (lineAt h row k i))
      { h with regs := h.regs.setV d ((h.regs.v[d]).setElts 32 xs) }) s
/-- `awrow` and `awcol`: a vector into a line. -/
def tileWrite (row : Bool) (d : AIdx) (a : VIdx) (c : SReg) (m : MIdx) (s : State) : Out :=
  vecH [a] [] (tileIx c) (fun h =>
    (h.maskClean m).map fun _ =>
      let k := (h.s c).toNat
      if h.side ≤ k then h else
      let ix := (h.active m).filter fun i => decide (i < h.side)
      { h with regs := h.regs.setA d (ix.foldl (fun t i => t.setElt (lineAt h row k i) ((h.regs.v[a]).elt 32 i)) h.regs.a[d]) }) s

/-- `arow vd, aa, sb, m`. -/
def execArow (d : VIdx) (a : AIdx) (b : SReg) (m : MIdx) (s : State) : Out := tileRead true d a b m s
/-- `acol vd, aa, sb, m`. -/
def execAcol (d : VIdx) (a : AIdx) (b : SReg) (m : MIdx) (s : State) : Out := tileRead false d a b m s
/-- `awrow ad, va, sb, m`. -/
def execAwrow (d : AIdx) (a : VIdx) (b : SReg) (m : MIdx) (s : State) : Out := tileWrite true d a b m s
/-- `awcol ad, va, sb, m`. -/
def execAwcol (d : AIdx) (a : VIdx) (b : SReg) (m : MIdx) (s : State) : Out := tileWrite false d a b m s

/-- The address of a whole tile: a multiple of 64 within the scratchpad (08 R190). -/
def Hart.tileAddr (h : Hart) (a : SReg) (kind : AccKind) : M Nat :=
  match h.clean a with
  | .error e => .error e
  | .ok _ =>
    let x := (h.s a).toNat
    if x % 64 ≠ 0 ∨ Config.spadBytes < x + 4 * h.side * h.side then .error (accExc .loc kind 0 (.bad causeAccess 4, x)) else .ok x

/-- The rows of a tile in memory, each in its scratchpad piece. -/
def State.tileRows (s : State) (x : Nat) (kind : AccKind) : List Nat → M (List Piece)
  | [] => .ok []
  | i :: t =>
    let n := 4 * s.hart.side
    match s.pieces s.hart.who .loc (if kind = .load then .load else .store) kind (if kind = .load then permR else permW) (x + n * i) n with
    | .error e => .error (accExc .loc kind 0 e)
    | .ok ps => (s.tileRows x kind t).map fun qs => ps ++ qs

/-- Words of a list of bytes, each poisoned when a byte is. -/
def wordElts : List (Byte × Bool) → List Elt
  | a :: b :: c :: d :: t => (let v := byteVal [a, b, c, d]; ⟨v.1, v.2⟩) :: wordElts t
  | _ => []

/-- `ald ad, sa` (08 R190). -/
def execAld (d : AIdx) (a : SReg) (s : State) : Out :=
  plain s fun s =>
    match s.hart.tileAddr a .load with
    | .error e => .error e
    | .ok x =>
      match s.tileRows x .load (List.range s.hart.side) with
      | .error e => .error e
      | .ok ps =>
        let bs := readPieces (s.ownByte s.hart) ps
        let ws := wordElts (if bs.any (·.2) then freeBytes s.draw 0 bs else bs)
        let h := s.hart
        .ok { s with draw := if bs.any (·.2) then s.draw + 1 else s.draw
                     hart := { h with regs := h.regs.setA d ((h.regs.a[d]).putElts ws) } }

/-- The stores of a tile's elements, one unit of four bytes each (DESIGN CHOICE, log 37). -/
def tileUnits (s : State) (base : Nat) : List (Nat × Elt) → State × List StoreUnit
  | [] => (s, [])
  | (n, x) :: t =>
    let y := s.storeBytes 4 x
    let r := tileUnits y.1 base t
    (r.1, ⟨.spad s.hart.phys (base + 4 * n), base + 4 * n, y.2, x.bad, false⟩ :: r.2)

/-- `ast ad, sa` (08 R190): charged 16L² bytes. An address that the rule refuses faults before the capacity traps (DESIGN CHOICE,
log 69). -/
def execAst (d : AIdx) (a : SReg) (s : State) : Out :=
  plain s fun s =>
    match s.hart.tileAddr a .store with
    | .error e => .error e
    | .ok x =>
      let n := s.hart.side * s.hart.side
      if s.hart.capacity < s.hart.charge + 4 * n then .error (.trap causeCapacity 0 none) else
      match s.tileRows x .store (List.range s.hart.side) with
      | .error e => .error e
      | .ok _ =>
        let r := tileUnits s x (((s.hart.regs.a[d]).elts n).zipIdx.map fun y => (y.2, y.1))
        (r.1.hart.push (.store r.2) (4 * n)).map fun h => { r.1 with hart := h }

/-! ### The epilogue (08 R191-R194) -/

/-- The channel format of an output code. -/
def epiFormat : AepiOut → Format
  | .i8 => .i8
  | .i32 => .i32
  | .fp32 => .fp32
  | .fp16 => .fp16
  | .bf16 => .bf16
  | .e4m3 => .e4m3
  | .e5m2 => .e5m2

/-- One output: tile element times σ, converted (08 R192). -/
def epiElt (h : Hart) (out : AepiOut) (i32 : Bool) (sigma : Nat) (r : Rnd) (x : Nat) : Nat × FlagSet :=
  let s := fpFP32.unpack h.fz sigma
  let v := if i32 then FVal.ofInt (sgn 32 x) 0 false else fpFP32.unpack h.fz x
  let y := mulVal v s
  let z := match fmtFp (epiFormat out) with
    | some F => cvtVF F r h.fz y.1
    | none => cvtVI true (fmtWidth (epiFormat out)) r y.1
  (z.1, z.2 ||| y.2 ||| snans [v, s])

/-- Write the rows to the stream in order. -/
def epiRows (q : QIdx) (side w : Nat) : List (List Elt) → State → M State
  | [], s => .ok s
  | row :: rows, s =>
    let r := VReg.zero.setElts w (enumElts row)
    let x := s.hart.regs.q[q]
    match (if x.kind = kPortOut then emitPort s q x r side else emitPattern s q x r side) with
    | .error e => .error e
    | .ok t => epiRows q side w rows t

/-- `aepi.out.tt qd, aa, sb`. -/
def execAepi (out : AepiOut) (i32 : Bool) (d : QIdx) (a : AIdx) (b : SReg) (s : State) : Out :=
  plain s fun s =>
    let q := s.hart.regs.q[d]
    let fmt := epiFormat out
    let okKind := (q.kind == kPortOut && !q.ctl) || ((q.kind == kAffine || q.kind == kIndirect) && q.dir && q.complete)
    if !okKind || Format.ofCode q.fmt.toNat != some fmt then .error illegal else
    match s.hart.clean b with
    | .error e => .error e
    | .ok _ =>
      let h := s.hart
      let side := h.side
      let w := fmtWidth fmt
      if h.capacity < h.charge + side * vecCharge side w then .error (.trap causeCapacity 0 none) else
      let sb := (h.s b).toNat
      let sto := h.stochastic && (out == .bf16 || out == .e4m3 || out == .e5m2)
      let y := withDraws sto h.rnd (List.range (side * side)) h
      let tile := h.regs.a[a]
      let xs := y.2.map fun p =>
        let e := tile.elt p.1
        let z := epiElt h out i32 (sb % 2 ^ 32) p.2 e.val
        (p.1, (⟨z.1, e.bad⟩ : Elt), z.2)
      match y.1.raiseAll (flagsOf xs) with
      | .error e => .error e
      | .ok h =>
        let h := if bitAt sb 32 then { h with regs := h.regs.setA a Tile.zero } else h
        epiRows d side w (chunks side side (xs.map fun x => x.2.1)) { s with hart := h }

end Sys2Proof.Machine
end

