-- ==== Sys2Proof/Machine/VecMove.lean ====
section
/-! DEFINITION. Mask operations (06 R153), merge, slides, permutation and moves (06 R154, R155), reductions (06 R156). -/
namespace Sys2Proof.Machine

/-- Widths of the instructions that EW governs (06 R143). -/
def ewAny (h : Hart) : M Unit := ewIn [8, 16, 32, 64] h

/-! ### Masks -/

/-- md[i] := f(ma[i], mb[i]), poisoned with the bits it reads (06 R153). -/
def maskOp2 (d a b m : MIdx) (f : Bool → Bool → Bool) (s : State) : Out :=
  vecH [] [] ewAny (maskMap d m fun h i =>
    let x := h.regs.getM a
    let y := h.regs.getM b
    (f (x.bits.getLsbD i) (y.bits.getLsbD i), x.poison.getLsbD i || y.poison.getLsbD i)) s

/-- `mand`. -/
def execMand (d a b m : MIdx) (s : State) : Out := maskOp2 d a b m (fun x y => x && y) s
/-- `mor`. -/
def execMor (d a b m : MIdx) (s : State) : Out := maskOp2 d a b m (fun x y => x || y) s
/-- `mxor`. -/
def execMxor (d a b m : MIdx) (s : State) : Out := maskOp2 d a b m (fun x y => x != y) s
/-- `mandn`. -/
def execMandn (d a b m : MIdx) (s : State) : Out := maskOp2 d a b m (fun x y => x && !y) s
/-- `mnot`. -/
def execMnot (d a m : MIdx) (s : State) : Out := maskOp2 d a a m (fun x _ => !x) s
/-- `mset`: clean ones. -/
def execMset (d m : MIdx) (s : State) : Out := vecH [] [] ewAny (maskMap d m fun _ _ => (true, false)) s
/-- `mclr`: clean zeros. -/
def execMclr (d m : MIdx) (s : State) : Out := vecH [] [] ewAny (maskMap d m fun _ _ => (false, false)) s

/-- `vmfirst`: ones up to and including the first true element; poisoned from the first poisoned bit on that no clean one
precedes (06 R153). -/
def execVmfirst (d a m : MIdx) (s : State) : Out :=
  vecH [] [] ewAny (fun h =>
    let x := h.regs.getM a
    let act := h.active m
    let f := (act.find? fun i => x.bits.getLsbD i).getD h.vl
    -- lowest active j with a poisoned bit and no active k < j clean and 1
    let clean := (act.find? fun i => x.bits.getLsbD i && !x.poison.getLsbD i).getD h.vl
    let p := act.find? fun j => x.poison.getLsbD j && decide (j ≤ clean)
    maskMap d m (fun _ i => (decide (i ≤ f), match p with
      | none => false
      | some j => decide (j ≤ i))) h) s

/-- `vpopc`: writes s_d also when VL = 0. -/
def execVpopc (d : SReg) (a m : MIdx) (s : State) : Out :=
  vecH [] [] ewAny (fun h =>
    (h.maskClean m).map fun _ =>
      let x := h.regs.getM a
      let act := h.active m
      h.setS d (BitVec.ofNat 64 (act.filter fun i => x.bits.getLsbD i).length) (act.any fun i => x.poison.getLsbD i)) s

/-- Active elements with the number of ones before each, and whether a poisoned bit precedes it. -/
def iotaElts (x : MReg) (w : Nat) : List Nat → Nat → Bool → List (Nat × Elt)
  | [], _, _ => []
  | i :: t, n, bad =>
    (i, ⟨n % 2 ^ w, bad⟩) :: iotaElts x w t (n + b2n (x.bits.getLsbD i)) (bad || x.poison.getLsbD i)

/-- `viota`. -/
def execViota (d : VIdx) (a m : MIdx) (s : State) : Out :=
  vecH [] [d] ewAny (fun h =>
    (h.maskClean m).map fun _ =>
      { h with regs := h.regs.setV d ((h.regs.v[d]).setElts h.ew (iotaElts (h.regs.getM a) h.ew (h.active m) 0 false)) }) s

/-! ### Merge, slides, permutation and moves -/

/-- `vmerge`: the mask selects for every element below VL. -/
def execVmerge (d a b : VIdx) (m : MIdx) (s : State) : Out :=
  vecH [a, b] [d] ewAny (fun h =>
    (h.maskClean m).map fun _ =>
      let k := h.regs.getM m
      let xs := (List.range h.vl).map fun i => (i, (h.regs.v[if k.on h.ew i then a else b]).elt h.ew i)
      { h with regs := h.regs.setV d ((h.regs.v[d]).setElts h.ew xs) }) s

/-- The offset of a slide; a poisoned scalar traps before any effect (06 R146). -/
def Hart.slideBy (h : Hart) (b : BOpS) : M Nat :=
  match b with
  | .vs r => (h.clean r).map fun _ => (h.s r).toNat
  | .vi k => .ok k.toNat

/-- A slide (06 R155): an inserted position gets 0, and in the k forms vd's own element, which is read and written. A poisoned
scalar offset is reported before a poisoned mask bit (DESIGN CHOICE, log 69). -/
def slide (up keep : Bool) (d a : VIdx) (b : BOpS) (m : MIdx) (s : State) : Out :=
  vecH (if keep then [d, a] else [a]) [d] (fun h => (ewAny h).bind fun _ => (h.slideBy b).map fun _ => ()) (fun h =>
    match h.slideBy b with
    | .error e => .error e
    | .ok k =>
      (h.maskClean m).map fun _ =>
        let xs := (h.active m).map fun i =>
          let j := if up then i - k else i + k
          (i, if (if up then decide (k ≤ i) else decide (j < h.vl)) then (h.regs.v[a]).elt h.ew j
              else if keep then (h.regs.v[d]).elt h.ew i else ⟨0, false⟩)
        { h with regs := h.regs.setV d ((h.regs.v[d]).setElts h.ew xs) }) s

/-- `vslideup`. -/
def execVslideup (d a : VIdx) (b : BOpS) (m : MIdx) (s : State) : Out := slide true false d a b m s
/-- `vslidedown`. -/
def execVslidedown (d a : VIdx) (b : BOpS) (m : MIdx) (s : State) : Out := slide false false d a b m s
/-- `vslideupk`. -/
def execVslideupk (d a : VIdx) (b : BOpS) (m : MIdx) (s : State) : Out := slide true true d a b m s
/-- `vslidedownk`. -/
def execVslidedownk (d a : VIdx) (b : BOpS) (m : MIdx) (s : State) : Out := slide false true d a b m s

/-- `vperm`: va[vb[i]] for an index below VL, else 0. -/
def execVperm (d a b : VIdx) (m : MIdx) (s : State) : Out :=
  vecH [a, b] [d] ewAny (fun h => vecMap h.ew d m (fun h i =>
    let j := (h.regs.v[b]).elt h.ew i
    let x : Elt := if j.val < h.vl then (h.regs.v[a]).elt h.ew j.val else ⟨0, false⟩
    ⟨x.val, x.bad || j.bad⟩) h) s
/-- `vmv`. -/
def execVmv (d a : VIdx) (m : MIdx) (s : State) : Out :=
  vecH [a] [d] ewAny (fun h => vecMap h.ew d m (fun h i => (h.regs.v[a]).elt h.ew i) h) s
/-- `vmv.xs`. -/
def execVmvXs (d : VIdx) (b : SReg) (m : MIdx) (s : State) : Out :=
  vecH [] [d] ewAny (fun h => vecMap h.ew d m (fun h _ => h.sElt h.ew b) h) s
/-- `vmv.sx`: whatever VL and the mask hold. -/
def execVmvSx (d : SReg) (a : VIdx) (s : State) : Out :=
  vecH [a] [] ewAny (fun h => let x := (h.regs.v[a]).elt h.ew 0; .ok (h.setS d (BitVec.ofNat 64 x.val) x.bad)) s
/-- `vext`: 0 past the register's elements; a poisoned index traps. -/
def execVext (d : SReg) (a : VIdx) (b : SReg) (s : State) : Out :=
  vecH [a] [] (fun h => (ewAny h).bind fun _ => h.clean b) (fun h =>
    let j := (h.s b).toNat
    let x : Elt := if h.vlmax h.ew ≤ j then ⟨0, false⟩ else (h.regs.v[a]).elt h.ew j
    .ok (h.setS d (BitVec.ofNat 64 x.val) x.bad)) s

/-! ### Reductions -/

/-- Reduce the active elements of va into element 0 of vd (06 R156); with VL = 0 vd is unchanged. -/
def reduce (w : Nat) (d a : VIdx) (m : MIdx) (id : Nat) (f : Hart → Nat → Nat → Nat × FlagSet) (s : State) : Out :=
  vecH [a] [d] (ewIn [w]) (fun h =>
    match h.maskClean m with
    | .error e => .error e
    | .ok _ =>
      if h.vl = 0 then .ok h else
      let k := h.regs.getM m
      let r := treeOf (f h) ((List.range h.vl).map fun i => if k.on w i then some ((h.regs.v[a]).elt w i) else none)
      (h.raiseAll (r.2.map fun fl => (0, fl))).map fun h =>
        { h with regs := h.regs.setV d ((h.regs.v[d]).setElt w 0 (r.1.getD ⟨id, false⟩)) }) s

/-- Width of a reduction group. -/
def redWidth : RedGroup → Nat
  | .i8 => 8
  | .i16 | .fp16 | .bf16 => 16
  | .i32 | .fp32 => 32
  | .i64 | .fp64 => 64
/-- Floating-point format of a reduction group. -/
def redFp : RedGroup → Option Fp
  | .fp64 => some fpFP64
  | .fp32 => some fpFP32
  | .fp16 => some fpFP16
  | .bf16 => some fpBF16
  | _ => none

/-- `vredsum`. -/
def execVredsum (g : RedGroup) (d a : VIdx) (m : MIdx) (s : State) : Out :=
  reduce (redWidth g) d a m 0 (fun h x y => match redFp g with
    | some F => F.add h.rnd h.fz x y
    | none => ((x + y) % 2 ^ redWidth g, 0)) s
/-- `vredmin`. -/
def execVredmin (g : RedGroup) (d a : VIdx) (m : MIdx) (s : State) : Out :=
  reduce (redWidth g) d a m (match redFp g with
    | some F => F.infE
    | none => 2 ^ (redWidth g - 1) - 1) (fun h x y => match redFp g with
    | some F => F.minmax false h.fz x y
    | none => (if sgn (redWidth g) y < sgn (redWidth g) x then y else x, 0)) s
/-- `vredmax`. -/
def execVredmax (g : RedGroup) (d a : VIdx) (m : MIdx) (s : State) : Out :=
  reduce (redWidth g) d a m (match redFp g with
    | some F => F.signed true F.infE
    | none => 2 ^ (redWidth g - 1)) (fun h x y => match redFp g with
    | some F => F.minmax true h.fz x y
    | none => (if sgn (redWidth g) x < sgn (redWidth g) y then y else x, 0)) s
/-- `vredminu`. -/
def execVredminu (w : IWidth) (d a : VIdx) (m : MIdx) (s : State) : Out :=
  reduce w.bits d a m (2 ^ w.bits - 1) (fun _ x y => (Nat.min x y, 0)) s
/-- `vredmaxu`. -/
def execVredmaxu (w : IWidth) (d a : VIdx) (m : MIdx) (s : State) : Out :=
  reduce w.bits d a m 0 (fun _ x y => (Nat.max x y, 0)) s
/-- `vredand`. -/
def execVredand (w : IWidth) (d a : VIdx) (m : MIdx) (s : State) : Out :=
  reduce w.bits d a m (2 ^ w.bits - 1) (fun _ x y => (x &&& y, 0)) s
/-- `vredor`. -/
def execVredor (w : IWidth) (d a : VIdx) (m : MIdx) (s : State) : Out :=
  reduce w.bits d a m 0 (fun _ x y => (x ||| y, 0)) s
/-- `vredxor`. -/
def execVredxor (w : IWidth) (d a : VIdx) (m : MIdx) (s : State) : Out :=
  reduce w.bits d a m 0 (fun _ x y => (x ^^^ y, 0)) s

end Sys2Proof.Machine
end

