-- ==== Sys2Proof/Machine/Dispatch.lean ====
section
/-! DEFINITION. One arm per constructor of Instr, each a direct call of its meaning. -/
namespace Sys2Proof.Machine

def exec (i : Instr) (s : State) : Host.Outcome State Fault Refusal :=
  match i with
  | .add x0 x1 x2 => Sys2Proof.Machine.execAdd x0 x1 x2 s
  | .sub x0 x1 x2 => Sys2Proof.Machine.execSub x0 x1 x2 s
  | .and x0 x1 x2 => Sys2Proof.Machine.execAnd x0 x1 x2 s
  | .or x0 x1 x2 => Sys2Proof.Machine.execOr x0 x1 x2 s
  | .xor x0 x1 x2 => Sys2Proof.Machine.execXor x0 x1 x2 s
  | .sll x0 x1 x2 => Sys2Proof.Machine.execSll x0 x1 x2 s
  | .srl x0 x1 x2 => Sys2Proof.Machine.execSrl x0 x1 x2 s
  | .sra x0 x1 x2 => Sys2Proof.Machine.execSra x0 x1 x2 s
  | .slt x0 x1 x2 => Sys2Proof.Machine.execSlt x0 x1 x2 s
  | .sltu x0 x1 x2 => Sys2Proof.Machine.execSltu x0 x1 x2 s
  | .seq x0 x1 x2 => Sys2Proof.Machine.execSeq x0 x1 x2 s
  | .min x0 x1 x2 => Sys2Proof.Machine.execMin x0 x1 x2 s
  | .max x0 x1 x2 => Sys2Proof.Machine.execMax x0 x1 x2 s
  | .minu x0 x1 x2 => Sys2Proof.Machine.execMinu x0 x1 x2 s
  | .maxu x0 x1 x2 => Sys2Proof.Machine.execMaxu x0 x1 x2 s
  | .clz x0 x1 => Sys2Proof.Machine.execClz x0 x1 s
  | .ctz x0 x1 => Sys2Proof.Machine.execCtz x0 x1 s
  | .popc x0 x1 => Sys2Proof.Machine.execPopc x0 x1 s
  | .mul x0 x1 x2 => Sys2Proof.Machine.execMul x0 x1 x2 s
  | .mulh x0 x1 x2 => Sys2Proof.Machine.execMulh x0 x1 x2 s
  | .mulhu x0 x1 x2 => Sys2Proof.Machine.execMulhu x0 x1 x2 s
  | .mulhsu x0 x1 x2 => Sys2Proof.Machine.execMulhsu x0 x1 x2 s
  | .div x0 x1 x2 => Sys2Proof.Machine.execDiv x0 x1 x2 s
  | .divu x0 x1 x2 => Sys2Proof.Machine.execDivu x0 x1 x2 s
  | .rem x0 x1 x2 => Sys2Proof.Machine.execRem x0 x1 x2 s
  | .remu x0 x1 x2 => Sys2Proof.Machine.execRemu x0 x1 x2 s
  | .addi x0 x1 x2 => Sys2Proof.Machine.execAddi x0 x1 x2 s
  | .slli x0 x1 x2 => Sys2Proof.Machine.execSlli x0 x1 x2 s
  | .srli x0 x1 x2 => Sys2Proof.Machine.execSrli x0 x1 x2 s
  | .srai x0 x1 x2 => Sys2Proof.Machine.execSrai x0 x1 x2 s
  | .andi x0 x1 x2 => Sys2Proof.Machine.execAndi x0 x1 x2 s
  | .ori x0 x1 x2 => Sys2Proof.Machine.execOri x0 x1 x2 s
  | .lui x0 x1 => Sys2Proof.Machine.execLui x0 x1 s
  | .ldb x0 x1 x2 x3 => Sys2Proof.Machine.execLdb x0 x1 x2 x3 s
  | .ldh x0 x1 x2 x3 => Sys2Proof.Machine.execLdh x0 x1 x2 x3 s
  | .ldw x0 x1 x2 x3 => Sys2Proof.Machine.execLdw x0 x1 x2 x3 s
  | .ldd x0 x1 x2 x3 => Sys2Proof.Machine.execLdd x0 x1 x2 x3 s
  | .ldbu x0 x1 x2 x3 => Sys2Proof.Machine.execLdbu x0 x1 x2 x3 s
  | .ldhu x0 x1 x2 x3 => Sys2Proof.Machine.execLdhu x0 x1 x2 x3 s
  | .ldwu x0 x1 x2 x3 => Sys2Proof.Machine.execLdwu x0 x1 x2 x3 s
  | .stb x0 x1 x2 x3 => Sys2Proof.Machine.execStb x0 x1 x2 x3 s
  | .sth x0 x1 x2 x3 => Sys2Proof.Machine.execSth x0 x1 x2 x3 s
  | .stw x0 x1 x2 x3 => Sys2Proof.Machine.execStw x0 x1 x2 x3 s
  | .std x0 x1 x2 x3 => Sys2Proof.Machine.execStd x0 x1 x2 x3 s
  | .fadd x0 x1 x2 x3 => Sys2Proof.Machine.execFadd x0 x1 x2 x3 s
  | .fsub x0 x1 x2 x3 => Sys2Proof.Machine.execFsub x0 x1 x2 x3 s
  | .fmul x0 x1 x2 x3 => Sys2Proof.Machine.execFmul x0 x1 x2 x3 s
  | .fdiv x0 x1 x2 x3 => Sys2Proof.Machine.execFdiv x0 x1 x2 x3 s
  | .fmadd x0 x1 x2 x3 => Sys2Proof.Machine.execFmadd x0 x1 x2 x3 s
  | .fmin x0 x1 x2 x3 => Sys2Proof.Machine.execFmin x0 x1 x2 x3 s
  | .fmax x0 x1 x2 x3 => Sys2Proof.Machine.execFmax x0 x1 x2 x3 s
  | .fsqrt x0 x1 x2 => Sys2Proof.Machine.execFsqrt x0 x1 x2 s
  | .fneg x0 x1 x2 => Sys2Proof.Machine.execFneg x0 x1 x2 s
  | .fabs x0 x1 x2 => Sys2Proof.Machine.execFabs x0 x1 x2 s
  | .fsgnj x0 x1 x2 x3 => Sys2Proof.Machine.execFsgnj x0 x1 x2 x3 s
  | .feq x0 x1 x2 x3 => Sys2Proof.Machine.execFeq x0 x1 x2 x3 s
  | .flt x0 x1 x2 x3 => Sys2Proof.Machine.execFlt x0 x1 x2 x3 s
  | .fle x0 x1 x2 x3 => Sys2Proof.Machine.execFle x0 x1 x2 x3 s
  | .fcvtFp64Fp32 x0 x1 => Sys2Proof.Machine.execFcvtFp64Fp32 x0 x1 s
  | .fcvtFp32Fp64 x0 x1 => Sys2Proof.Machine.execFcvtFp32Fp64 x0 x1 s
  | .fcvtFp32I64 x0 x1 => Sys2Proof.Machine.execFcvtFp32I64 x0 x1 s
  | .fcvtFp64I64 x0 x1 => Sys2Proof.Machine.execFcvtFp64I64 x0 x1 s
  | .fcvtFp32Ui64 x0 x1 => Sys2Proof.Machine.execFcvtFp32Ui64 x0 x1 s
  | .fcvtFp64Ui64 x0 x1 => Sys2Proof.Machine.execFcvtFp64Ui64 x0 x1 s
  | .fcvtI64Fp32 x0 x1 => Sys2Proof.Machine.execFcvtI64Fp32 x0 x1 s
  | .fcvtI64Fp64 x0 x1 => Sys2Proof.Machine.execFcvtI64Fp64 x0 x1 s
  | .fcvtUi64Fp32 x0 x1 => Sys2Proof.Machine.execFcvtUi64Fp32 x0 x1 s
  | .fcvtUi64Fp64 x0 x1 => Sys2Proof.Machine.execFcvtUi64Fp64 x0 x1 s
  | .fcvtFp16Fp32 x0 x1 => Sys2Proof.Machine.execFcvtFp16Fp32 x0 x1 s
  | .fcvtFp32Fp16 x0 x1 => Sys2Proof.Machine.execFcvtFp32Fp16 x0 x1 s
  | .fcvtBf16Fp32 x0 x1 => Sys2Proof.Machine.execFcvtBf16Fp32 x0 x1 s
  | .fcvtFp32Bf16 x0 x1 => Sys2Proof.Machine.execFcvtFp32Bf16 x0 x1 s
  | .beq x0 x1 x2 => Sys2Proof.Machine.execBeq x0 x1 x2 s
  | .bne x0 x1 x2 => Sys2Proof.Machine.execBne x0 x1 x2 s
  | .bmany x0 x1 => Sys2Proof.Machine.execBmany x0 x1 s
  | .bmnone x0 x1 => Sys2Proof.Machine.execBmnone x0 x1 s
  | .jalr x0 x1 => Sys2Proof.Machine.execJalr x0 x1 s
  | .jr x0 x1 => Sys2Proof.Machine.execJr x0 x1 s
  | .jal x0 => Sys2Proof.Machine.execJal x0 s
  | .hcrr x0 x1 => Sys2Proof.Machine.execHcrr x0 x1 s
  | .hcrw x0 x1 => Sys2Proof.Machine.execHcrw x0 x1 s
  | .trap x0 => Sys2Proof.Machine.execTrap x0 s
  | .brk x0 => Sys2Proof.Machine.execBrk x0 s
  | .fence x0 => Sys2Proof.Machine.execFence x0 s
  | .barArrive x0 => Sys2Proof.Machine.execBarArrive x0 s
  | .barWait x0 => Sys2Proof.Machine.execBarWait x0 s
  | .await x0 => Sys2Proof.Machine.execAwait x0 s
  | .tkwait x0 x1 => Sys2Proof.Machine.execTkwait x0 x1 s
  | .farmInit x0 x1 => Sys2Proof.Machine.execFarmInit x0 x1 s
  | .farmNext x0 => Sys2Proof.Machine.execFarmNext x0 s
  | .setvl x0 x1 x2 => Sys2Proof.Machine.execSetvl x0 x1 x2 s
  | .setvlAcq x0 x1 x2 x3 => Sys2Proof.Machine.execSetvlAcq x0 x1 x2 x3 s
  | .strip x0 => Sys2Proof.Machine.execStrip x0 s
  | .stripRel x0 x1 => Sys2Proof.Machine.execStripRel x0 x1 s
  | .vld x0 x1 x2 => Sys2Proof.Machine.execVld x0 x1 x2 s
  | .vlds x0 x1 x2 x3 => Sys2Proof.Machine.execVlds x0 x1 x2 x3 s
  | .vldx x0 x1 x2 x3 => Sys2Proof.Machine.execVldx x0 x1 x2 x3 s
  | .vldff x0 x1 x2 => Sys2Proof.Machine.execVldff x0 x1 x2 s
  | .vldsc x0 x1 x2 x3 => Sys2Proof.Machine.execVldsc x0 x1 x2 x3 s
  | .vgl x0 x1 x2 x3 => Sys2Proof.Machine.execVgl x0 x1 x2 x3 s
  | .vtake x0 x1 x2 x3 => Sys2Proof.Machine.execVtake x0 x1 x2 x3 s
  | .vread x0 x1 x2 x3 => Sys2Proof.Machine.execVread x0 x1 x2 x3 s
  | .vst x0 x1 x2 => Sys2Proof.Machine.execVst x0 x1 x2 s
  | .vsts x0 x1 x2 x3 => Sys2Proof.Machine.execVsts x0 x1 x2 x3 s
  | .vstx x0 x1 x2 x3 => Sys2Proof.Machine.execVstx x0 x1 x2 x3 s
  | .vstsc x0 x1 x2 x3 => Sys2Proof.Machine.execVstsc x0 x1 x2 x3 s
  | .vsc x0 x1 x2 x3 => Sys2Proof.Machine.execVsc x0 x1 x2 x3 s
  | .vput x0 x1 x2 x3 => Sys2Proof.Machine.execVput x0 x1 x2 x3 s
  | .vatom x0 x1 x2 x3 x4 => Sys2Proof.Machine.execVatom x0 x1 x2 x3 x4 s
  | .vaddI x0 x1 x2 x3 x4 => Sys2Proof.Machine.execVaddI x0 x1 x2 x3 x4 s
  | .vsubI x0 x1 x2 x3 x4 => Sys2Proof.Machine.execVsubI x0 x1 x2 x3 x4 s
  | .vmulI x0 x1 x2 x3 x4 => Sys2Proof.Machine.execVmulI x0 x1 x2 x3 x4 s
  | .vmulh x0 x1 x2 x3 x4 => Sys2Proof.Machine.execVmulh x0 x1 x2 x3 x4 s
  | .vmulhu x0 x1 x2 x3 x4 => Sys2Proof.Machine.execVmulhu x0 x1 x2 x3 x4 s
  | .vminI x0 x1 x2 x3 x4 => Sys2Proof.Machine.execVminI x0 x1 x2 x3 x4 s
  | .vmaxI x0 x1 x2 x3 x4 => Sys2Proof.Machine.execVmaxI x0 x1 x2 x3 x4 s
  | .vminu x0 x1 x2 x3 x4 => Sys2Proof.Machine.execVminu x0 x1 x2 x3 x4 s
  | .vmaxu x0 x1 x2 x3 x4 => Sys2Proof.Machine.execVmaxu x0 x1 x2 x3 x4 s
  | .vand x0 x1 x2 x3 x4 => Sys2Proof.Machine.execVand x0 x1 x2 x3 x4 s
  | .vor x0 x1 x2 x3 x4 => Sys2Proof.Machine.execVor x0 x1 x2 x3 x4 s
  | .vxor x0 x1 x2 x3 x4 => Sys2Proof.Machine.execVxor x0 x1 x2 x3 x4 s
  | .vsll x0 x1 x2 x3 x4 => Sys2Proof.Machine.execVsll x0 x1 x2 x3 x4 s
  | .vsrl x0 x1 x2 x3 x4 => Sys2Proof.Machine.execVsrl x0 x1 x2 x3 x4 s
  | .vsra x0 x1 x2 x3 x4 => Sys2Proof.Machine.execVsra x0 x1 x2 x3 x4 s
  | .vmadd x0 x1 x2 x3 x4 => Sys2Proof.Machine.execVmadd x0 x1 x2 x3 x4 s
  | .vsadd x0 x1 x2 x3 x4 => Sys2Proof.Machine.execVsadd x0 x1 x2 x3 x4 s
  | .vsaddu x0 x1 x2 x3 x4 => Sys2Proof.Machine.execVsaddu x0 x1 x2 x3 x4 s
  | .vssub x0 x1 x2 x3 x4 => Sys2Proof.Machine.execVssub x0 x1 x2 x3 x4 s
  | .vssubu x0 x1 x2 x3 x4 => Sys2Proof.Machine.execVssubu x0 x1 x2 x3 x4 s
  | .vdivI x0 x1 x2 x3 x4 => Sys2Proof.Machine.execVdivI x0 x1 x2 x3 x4 s
  | .vdivu x0 x1 x2 x3 x4 => Sys2Proof.Machine.execVdivu x0 x1 x2 x3 x4 s
  | .vrem x0 x1 x2 x3 x4 => Sys2Proof.Machine.execVrem x0 x1 x2 x3 x4 s
  | .vremu x0 x1 x2 x3 x4 => Sys2Proof.Machine.execVremu x0 x1 x2 x3 x4 s
  | .vabsI x0 x1 x2 x3 => Sys2Proof.Machine.execVabsI x0 x1 x2 x3 s
  | .vceqI x0 x1 x2 x3 x4 => Sys2Proof.Machine.execVceqI x0 x1 x2 x3 x4 s
  | .vcneI x0 x1 x2 x3 x4 => Sys2Proof.Machine.execVcneI x0 x1 x2 x3 x4 s
  | .vcltI x0 x1 x2 x3 x4 => Sys2Proof.Machine.execVcltI x0 x1 x2 x3 x4 s
  | .vcltu x0 x1 x2 x3 x4 => Sys2Proof.Machine.execVcltu x0 x1 x2 x3 x4 s
  | .vcleI x0 x1 x2 x3 x4 => Sys2Proof.Machine.execVcleI x0 x1 x2 x3 x4 s
  | .vcleu x0 x1 x2 x3 x4 => Sys2Proof.Machine.execVcleu x0 x1 x2 x3 x4 s
  | .vaddF x0 x1 x2 x3 x4 => Sys2Proof.Machine.execVaddF x0 x1 x2 x3 x4 s
  | .vsubF x0 x1 x2 x3 x4 => Sys2Proof.Machine.execVsubF x0 x1 x2 x3 x4 s
  | .vmulF x0 x1 x2 x3 x4 => Sys2Proof.Machine.execVmulF x0 x1 x2 x3 x4 s
  | .vdivF x0 x1 x2 x3 x4 => Sys2Proof.Machine.execVdivF x0 x1 x2 x3 x4 s
  | .vfmaF x0 x1 x2 x3 x4 => Sys2Proof.Machine.execVfmaF x0 x1 x2 x3 x4 s
  | .vfms x0 x1 x2 x3 x4 => Sys2Proof.Machine.execVfms x0 x1 x2 x3 x4 s
  | .vfnma x0 x1 x2 x3 x4 => Sys2Proof.Machine.execVfnma x0 x1 x2 x3 x4 s
  | .vminF x0 x1 x2 x3 x4 => Sys2Proof.Machine.execVminF x0 x1 x2 x3 x4 s
  | .vmaxF x0 x1 x2 x3 x4 => Sys2Proof.Machine.execVmaxF x0 x1 x2 x3 x4 s
  | .vsqrt x0 x1 x2 x3 => Sys2Proof.Machine.execVsqrt x0 x1 x2 x3 s
  | .vabsF x0 x1 x2 x3 => Sys2Proof.Machine.execVabsF x0 x1 x2 x3 s
  | .vneg x0 x1 x2 x3 => Sys2Proof.Machine.execVneg x0 x1 x2 x3 s
  | .vsgnj x0 x1 x2 x3 x4 => Sys2Proof.Machine.execVsgnj x0 x1 x2 x3 x4 s
  | .vceqF x0 x1 x2 x3 x4 => Sys2Proof.Machine.execVceqF x0 x1 x2 x3 x4 s
  | .vcneF x0 x1 x2 x3 x4 => Sys2Proof.Machine.execVcneF x0 x1 x2 x3 x4 s
  | .vcltF x0 x1 x2 x3 x4 => Sys2Proof.Machine.execVcltF x0 x1 x2 x3 x4 s
  | .vcleF x0 x1 x2 x3 x4 => Sys2Proof.Machine.execVcleF x0 x1 x2 x3 x4 s
  | .vcun x0 x1 x2 x3 x4 => Sys2Proof.Machine.execVcun x0 x1 x2 x3 x4 s
  | .vaddF8 x0 x1 x2 x3 x4 => Sys2Proof.Machine.execVaddF8 x0 x1 x2 x3 x4 s
  | .vsubF8 x0 x1 x2 x3 x4 => Sys2Proof.Machine.execVsubF8 x0 x1 x2 x3 x4 s
  | .vmulF8 x0 x1 x2 x3 x4 => Sys2Proof.Machine.execVmulF8 x0 x1 x2 x3 x4 s
  | .vfmaF8 x0 x1 x2 x3 x4 => Sys2Proof.Machine.execVfmaF8 x0 x1 x2 x3 x4 s
  | .vminF8 x0 x1 x2 x3 x4 => Sys2Proof.Machine.execVminF8 x0 x1 x2 x3 x4 s
  | .vmaxF8 x0 x1 x2 x3 x4 => Sys2Proof.Machine.execVmaxF8 x0 x1 x2 x3 x4 s
  | .vaddC x0 x1 x2 x3 x4 => Sys2Proof.Machine.execVaddC x0 x1 x2 x3 x4 s
  | .vsubC x0 x1 x2 x3 x4 => Sys2Proof.Machine.execVsubC x0 x1 x2 x3 x4 s
  | .vmulC x0 x1 x2 x3 x4 => Sys2Proof.Machine.execVmulC x0 x1 x2 x3 x4 s
  | .vfmaC x0 x1 x2 x3 x4 => Sys2Proof.Machine.execVfmaC x0 x1 x2 x3 x4 s
  | .vmulc x0 x1 x2 x3 x4 => Sys2Proof.Machine.execVmulc x0 x1 x2 x3 x4 s
  | .vconj x0 x1 x2 x3 => Sys2Proof.Machine.execVconj x0 x1 x2 x3 s
  | .vmuli x0 x1 x2 x3 => Sys2Proof.Machine.execVmuli x0 x1 x2 x3 s
  | .mand x0 x1 x2 x3 => Sys2Proof.Machine.execMand x0 x1 x2 x3 s
  | .mor x0 x1 x2 x3 => Sys2Proof.Machine.execMor x0 x1 x2 x3 s
  | .mxor x0 x1 x2 x3 => Sys2Proof.Machine.execMxor x0 x1 x2 x3 s
  | .mandn x0 x1 x2 x3 => Sys2Proof.Machine.execMandn x0 x1 x2 x3 s
  | .mnot x0 x1 x2 => Sys2Proof.Machine.execMnot x0 x1 x2 s
  | .vmfirst x0 x1 x2 => Sys2Proof.Machine.execVmfirst x0 x1 x2 s
  | .vpopc x0 x1 x2 => Sys2Proof.Machine.execVpopc x0 x1 x2 s
  | .viota x0 x1 x2 => Sys2Proof.Machine.execViota x0 x1 x2 s
  | .mset x0 x1 => Sys2Proof.Machine.execMset x0 x1 s
  | .mclr x0 x1 => Sys2Proof.Machine.execMclr x0 x1 s
  | .vmerge x0 x1 x2 x3 => Sys2Proof.Machine.execVmerge x0 x1 x2 x3 s
  | .vslideup x0 x1 x2 x3 => Sys2Proof.Machine.execVslideup x0 x1 x2 x3 s
  | .vslidedown x0 x1 x2 x3 => Sys2Proof.Machine.execVslidedown x0 x1 x2 x3 s
  | .vslideupk x0 x1 x2 x3 => Sys2Proof.Machine.execVslideupk x0 x1 x2 x3 s
  | .vslidedownk x0 x1 x2 x3 => Sys2Proof.Machine.execVslidedownk x0 x1 x2 x3 s
  | .vperm x0 x1 x2 x3 => Sys2Proof.Machine.execVperm x0 x1 x2 x3 s
  | .vmv x0 x1 x2 => Sys2Proof.Machine.execVmv x0 x1 x2 s
  | .vmvXs x0 x1 x2 => Sys2Proof.Machine.execVmvXs x0 x1 x2 s
  | .vmvSx x0 x1 => Sys2Proof.Machine.execVmvSx x0 x1 s
  | .vext x0 x1 x2 => Sys2Proof.Machine.execVext x0 x1 x2 s
  | .vredsum x0 x1 x2 x3 => Sys2Proof.Machine.execVredsum x0 x1 x2 x3 s
  | .vredmin x0 x1 x2 x3 => Sys2Proof.Machine.execVredmin x0 x1 x2 x3 s
  | .vredmax x0 x1 x2 x3 => Sys2Proof.Machine.execVredmax x0 x1 x2 x3 s
  | .vredminu x0 x1 x2 x3 => Sys2Proof.Machine.execVredminu x0 x1 x2 x3 s
  | .vredmaxu x0 x1 x2 x3 => Sys2Proof.Machine.execVredmaxu x0 x1 x2 x3 s
  | .vredand x0 x1 x2 x3 => Sys2Proof.Machine.execVredand x0 x1 x2 x3 s
  | .vredor x0 x1 x2 x3 => Sys2Proof.Machine.execVredor x0 x1 x2 x3 s
  | .vredxor x0 x1 x2 x3 => Sys2Proof.Machine.execVredxor x0 x1 x2 x3 s
  | .vcvt x0 x1 x2 x3 x4 x5 => Sys2Proof.Machine.execVcvt x0 x1 x2 x3 x4 x5 s
  | .vmxq x0 x1 x2 x3 x4 x5 => Sys2Proof.Machine.execVmxq x0 x1 x2 x3 x4 x5 s
  | .vmxd x0 x1 x2 x3 x4 => Sys2Proof.Machine.execVmxd x0 x1 x2 x3 x4 s
  | .bfly2 x0 x1 x2 x3 x4 => Sys2Proof.Machine.execBfly2 x0 x1 x2 x3 x4 s
  | .bfly4 x0 x1 x2 x3 x4 => Sys2Proof.Machine.execBfly4 x0 x1 x2 x3 x4 s
  | .bflyg x0 x1 x2 x3 x4 => Sys2Proof.Machine.execBflyg x0 x1 x2 x3 x4 s
  | .mmul x0 x1 x2 x3 x4 x5 => Sys2Proof.Machine.execMmul x0 x1 x2 x3 x4 x5 s
  | .madd x0 x1 x2 x3 x4 x5 => Sys2Proof.Machine.execMadd x0 x1 x2 x3 x4 x5 s
  | .msub x0 x1 x2 x3 x4 x5 => Sys2Proof.Machine.execMsub x0 x1 x2 x3 x4 x5 s
  | .mred x0 x1 x2 x3 x4 => Sys2Proof.Machine.execMred x0 x1 x2 x3 x4 s
  | .mlift x0 x1 x2 x3 x4 => Sys2Proof.Machine.execMlift x0 x1 x2 x3 x4 s
  | .bfly2M x0 x1 x2 x3 x4 x5 => Sys2Proof.Machine.execBfly2M x0 x1 x2 x3 x4 x5 s
  | .bfly4M x0 x1 x2 x3 x4 x5 => Sys2Proof.Machine.execBfly4M x0 x1 x2 x3 x4 x5 s
  | .mcrt x0 x1 x2 x3 => Sys2Proof.Machine.execMcrt x0 x1 x2 x3 s
  | .mchk x0 x1 x2 x3 => Sys2Proof.Machine.execMchk x0 x1 x2 x3 s
  | .twset x0 => Sys2Proof.Machine.execTwset x0 s
  | .twget x0 x1 x2 => Sys2Proof.Machine.execTwget x0 x1 x2 s
  | .vdrev x0 x1 x2 x3 => Sys2Proof.Machine.execVdrev x0 x1 x2 x3 s
  | .vtrn x0 x1 x2 x3 => Sys2Proof.Machine.execVtrn x0 x1 x2 x3 s
  | .xbfn x0 x1 x2 x3 => Sys2Proof.Machine.execXbfn x0 x1 x2 x3 s
  | .opa x0 x1 x2 x3 x4 => Sys2Proof.Machine.execOpa x0 x1 x2 x3 x4 s
  | .ops x0 x1 x2 x3 x4 => Sys2Proof.Machine.execOps x0 x1 x2 x3 x4 s
  | .azero x0 => Sys2Proof.Machine.execAzero x0 s
  | .ald x0 x1 => Sys2Proof.Machine.execAld x0 x1 s
  | .ast x0 x1 => Sys2Proof.Machine.execAst x0 x1 s
  | .arow x0 x1 x2 x3 => Sys2Proof.Machine.execArow x0 x1 x2 x3 s
  | .acol x0 x1 x2 x3 => Sys2Proof.Machine.execAcol x0 x1 x2 x3 s
  | .awrow x0 x1 x2 x3 => Sys2Proof.Machine.execAwrow x0 x1 x2 x3 s
  | .awcol x0 x1 x2 x3 => Sys2Proof.Machine.execAwcol x0 x1 x2 x3 s
  | .amov x0 x1 => Sys2Proof.Machine.execAmov x0 x1 s
  | .aepi x0 x1 x2 x3 x4 => Sys2Proof.Machine.execAepi x0 x1 x2 x3 x4 s
  | .sbind x0 x1 => Sys2Proof.Machine.execSbind x0 x1 s
  | .sunbind x0 => Sys2Proof.Machine.execSunbind x0 s
  | .sisect x0 x1 x2 => Sys2Proof.Machine.execSisect x0 x1 x2 s
  | .sunite x0 x1 x2 => Sys2Proof.Machine.execSunite x0 x1 x2 s
  | .sskip x0 x1 => Sys2Proof.Machine.execSskip x0 x1 s
  | .ssave x0 x1 => Sys2Proof.Machine.execSsave x0 x1 s
  | .srest x0 x1 => Sys2Proof.Machine.execSrest x0 x1 s
  | .saff x0 x1 x2 x3 x4 x5 x6 x7 x8 => Sys2Proof.Machine.execSaff x0 x1 x2 x3 x4 x5 x6 x7 x8 s
  | .sidx x0 x1 x2 x3 => Sys2Proof.Machine.execSidx x0 x1 x2 x3 s
  | .sfib x0 x1 x2 x3 x4 x5 x6 x7 x8 => Sys2Proof.Machine.execSfib x0 x1 x2 x3 x4 x5 x6 x7 x8 s
  | .copy x0 x1 x2 x3 x4 x5 x6 x7 => Sys2Proof.Machine.execCopy x0 x1 x2 x3 x4 x5 x6 x7 s
  | .coll x0 x1 x2 x3 x4 x5 x6 x7 x8 => Sys2Proof.Machine.execColl x0 x1 x2 x3 x4 x5 x6 x7 x8 s
  | .putE x0 x1 x2 x3 x4 x5 => Sys2Proof.Machine.execPutE x0 x1 x2 x3 x4 x5 s
  | .taskPut x0 x1 x2 => Sys2Proof.Machine.execTaskPut x0 x1 x2 s
  | .teret => Sys2Proof.Machine.execTeret s
  | .halt => Sys2Proof.Machine.execHalt s
  | .hint => Sys2Proof.Machine.execHint s
  | .stripCommit => Sys2Proof.Machine.execStripCommit s
  | .commitEnd => Sys2Proof.Machine.execCommitEnd s
  | .stripWatchdog => Sys2Proof.Machine.execStripWatchdog s
  | .fqbaseWrite => Sys2Proof.Machine.execFqbaseWrite s
  | .fqheadWrite => Sys2Proof.Machine.execFqheadWrite s
  | .scalarLoadReturn => Sys2Proof.Machine.execScalarLoadReturn s
  | .stripTerminalComplete => Sys2Proof.Machine.execStripTerminalComplete s
  | .presenceDeferralServe => Sys2Proof.Machine.execPresenceDeferralServe s
  | .linkReservationExpiry => Sys2Proof.Machine.execLinkReservationExpiry s
  | .awaitComplete => Sys2Proof.Machine.execAwaitComplete s
  | .tkwaitSatisfied => Sys2Proof.Machine.execTkwaitSatisfied s
  | .lazyVectorMove => Sys2Proof.Machine.execLazyVectorMove s
  | .pageRestoreComplete => Sys2Proof.Machine.execPageRestoreComplete s
  | .spsave => Sys2Proof.Machine.execSpsave s
  | .spsaveComplete => Sys2Proof.Machine.execSpsaveComplete s
  | .patrolScrub => Sys2Proof.Machine.execPatrolScrub s
  | .translationWalk => Sys2Proof.Machine.execTranslationWalk s
  | .invctlGo => Sys2Proof.Machine.execInvctlGo s
  | .invalidationComplete => Sys2Proof.Machine.execInvalidationComplete s
  | .copyExecute => Sys2Proof.Machine.execCopyExecute s
  | .commandEnd => Sys2Proof.Machine.execCommandEnd s
  | .pkrespRetry => Sys2Proof.Machine.execPkrespRetry s
  | .pkrespFail => Sys2Proof.Machine.execPkrespFail s
  | .collExecute => Sys2Proof.Machine.execCollExecute s
  | .collChunkArrival => Sys2Proof.Machine.execCollChunkArrival s
  | .putELanding => Sys2Proof.Machine.execPutELanding s
  | .streamDelivery => Sys2Proof.Machine.execStreamDelivery s
  | .streamFetchAhead => Sys2Proof.Machine.execStreamFetchAhead s
  | .slotReservation => Sys2Proof.Machine.execSlotReservation s
  | .slotLands => Sys2Proof.Machine.execSlotLands s
  | .nodeFire => Sys2Proof.Machine.execNodeFire s
  | .controlTokenArrival => Sys2Proof.Machine.execControlTokenArrival s
  | .fcmdLoad => Sys2Proof.Machine.execFcmdLoad s
  | .fcmdAbort => Sys2Proof.Machine.execFcmdAbort s
  | .fabricLoadComplete => Sys2Proof.Machine.execFabricLoadComplete s
  | .fabricFlip => Sys2Proof.Machine.execFabricFlip s
  | .episodeComplete => Sys2Proof.Machine.execEpisodeComplete s
  | .farmNextServe => Sys2Proof.Machine.execFarmNextServe s
  | .pktstatGo => Sys2Proof.Machine.execPktstatGo s
  | .taskPacketAccept => Sys2Proof.Machine.execTaskPacketAccept s
  | .taskComplete => Sys2Proof.Machine.execTaskComplete s
  | .taskPlacement => Sys2Proof.Machine.execTaskPlacement s
  | .ageingStep => Sys2Proof.Machine.execAgeingStep s
  | .quantumExpiry => Sys2Proof.Machine.execQuantumExpiry s
  | .hartSwitchOut => Sys2Proof.Machine.execHartSwitchOut s
  | .dcancel => Sys2Proof.Machine.execDcancel s
  | .tmFreeze => Sys2Proof.Machine.execTmFreeze s
  | .freezeComplete => Sys2Proof.Machine.execFreezeComplete s
  | .tmWriteImage => Sys2Proof.Machine.execTmWriteImage s
  | .tmResume => Sys2Proof.Machine.execTmResume s
  | .resumePlacement => Sys2Proof.Machine.execResumePlacement s
  | .tmEnd => Sys2Proof.Machine.execTmEnd s
  | .tmRestart => Sys2Proof.Machine.execTmRestart s
  | .tmReflect => Sys2Proof.Machine.execTmReflect s
  | .tmUnassignedOp => Sys2Proof.Machine.execTmUnassignedOp s
  | .speedChange => Sys2Proof.Machine.execSpeedChange s
  | .spdAgeWrite => Sys2Proof.Machine.execSpdAgeWrite s
  | .droopDetect => Sys2Proof.Machine.execDroopDetect s
  | .sagStepDown => Sys2Proof.Machine.execSagStepDown s
  | .powerMeasurement => Sys2Proof.Machine.execPowerMeasurement s
  | .pwrlimWrite => Sys2Proof.Machine.execPwrlimWrite s
  | .hostCxlMemAccess => Sys2Proof.Machine.execHostCxlMemAccess s
  | .hostStoreCompletion => Sys2Proof.Machine.execHostStoreCompletion s
  | .tramontaneCrcFail => Sys2Proof.Machine.execTramontaneCrcFail s
  | .flitReceive => Sys2Proof.Machine.execFlitReceive s
  | .etesianCrcFail => Sys2Proof.Machine.execEtesianCrcFail s
  | .laneAutoRetire => Sys2Proof.Machine.execLaneAutoRetire s
  | .spareSwitchComplete => Sys2Proof.Machine.execSpareSwitchComplete s
  | .portDownTimeout => Sys2Proof.Machine.execPortDownTimeout s
  | .e2eResendTimeout => Sys2Proof.Machine.execE2eResendTimeout s
  | .unreachableTimeout => Sys2Proof.Machine.execUnreachableTimeout s
  | .retireSpire => Sys2Proof.Machine.execRetireSpire s
  | .retireRouter => Sys2Proof.Machine.execRetireRouter s
  | .retireEtesianLane => Sys2Proof.Machine.execRetireEtesianLane s
  | .retireTramontaneLink => Sys2Proof.Machine.execRetireTramontaneLink s
  | .retireHbmRow => Sys2Proof.Machine.execRetireHbmRow s
  | .retireInvalidClass => Sys2Proof.Machine.execRetireInvalidClass s
  | .wearPrediction => Sys2Proof.Machine.execWearPrediction s
  | .packageReset => Sys2Proof.Machine.execPackageReset s
  | .dctlWrite => Sys2Proof.Machine.execDctlWrite s
  | .mailboxReport => Sys2Proof.Machine.execMailboxReport s
  | .mailboxFirmwareUpdate => Sys2Proof.Machine.execMailboxFirmwareUpdate s
  | .mailboxUnassignedOp => Sys2Proof.Machine.execMailboxUnassignedOp s
  | .securityAlarm => Sys2Proof.Machine.execSecurityAlarm s
  | .powerRemoval => Sys2Proof.Machine.execPowerRemoval s
  | .registerWrite => Sys2Proof.Machine.execRegisterWrite s
  | .storeWrittenAtHome => Sys2Proof.Machine.execStoreWrittenAtHome s
  | .tramontaneRetrainEnd => Sys2Proof.Machine.execTramontaneRetrainEnd s
  | .supplyRecovery => Sys2Proof.Machine.execSupplyRecovery s
  | .hostSnoop => Sys2Proof.Machine.execHostSnoop s
  | .backInvalidateResponse => Sys2Proof.Machine.execBackInvalidateResponse s

end Sys2Proof.Machine
end

