-- ==== Sys2Proof/Machine/Step.lean ====
section
/-! DEFINITION. One step of the part: the next input of the agenda, or the next instruction of the hart in focus (log 1). -/
namespace Sys2Proof.Machine

/-- The next instruction of the hart in focus: fetch, decode, execute. An instruction whose arrays are away waits (15 R350). -/
def stepHart (s : State) : Host.Outcome State Fault Refusal :=
  match s.fetch s.hart with
  | .error e => s.take e
  | .ok x =>
    let t := s.fetched
    if t.arraysAway x.1 then t.awayWait (exec x.1 t) else exec x.1 t

/-- One input of the agenda; one that the package does not take in its present condition is lost. The write of a register that has a step of
its own is that step. -/
def stepInput (a : Input) (s : State) : Host.Outcome State Fault Refusal :=
  if !s.admits a then .next s else
  match a with
  | .event i x => if isEvent i then exec i { s with arg := x } else .next s
  | a => match a.regStep with
    | some (i, x) => exec i { s with arg := x }
    | none => .next (s.input a)

/-- One step of the part. -/
def step (s : State) : Host.Outcome State Fault Refusal :=
  match s.agenda with
  | a :: rest => stepInput a { s with agenda := rest }
  | [] => if s.canRun then stepHart s else .next s.rotate

/-- The state with an instruction stored where step fetches it next (log 4). -/
def State.withFetchWord (s : State) (nbits w : Nat) : State := placeWord s nbits w

end Sys2Proof.Machine
end

