-- ==== Sys2Proof/Safety.lean ====
section
/-! DEFINITION. The invariant of memory, safe runs, and the conditions and results that statements name. -/
namespace Sys2Proof.Machine

/-- The invariant of memory: every memory of the part is in its canonical form. -/
def State.memOk (s : State) : Prop :=
  s.dev.wf = true ∧ s.host.wf = true ∧ s.spad.wf = true ∧ s.sdm.wf = true

/-- A run of n steps that neither faults nor refuses. -/
def safeRun (n : Nat) (s : State) : Prop := ∃ t, Sys2Proof.core.run n s = .next t

/-- The state after an instruction of n bytes inside a strip: its hart is h, at the next instruction, its strip no longer
empty, and it waits for nothing. All else is as in s. -/
def State.goesOn (s : State) (h : Hart) (n : Nat) : State :=
  { s with hart := { h with pc := h.pc + BitVec.ofNat 64 n, fresh := false, stall := none } }

/-- The state after a control transfer to pc. -/
def State.jumps (s : State) (h : Hart) (pc : Word) : State :=
  { s with hart := { h with pc := pc, fresh := false, stall := none } }

/-- The open strip of s closes, leaving t, and the closing instruction acts on t: nothing asks the hart to leave when the commit ends
(01 R29, R32). -/
def State.closesTo (s t : State) : Prop := s.close = .ok (t, true) ∧ (s.hart.fresh = true ∨ t.hart.asked = false)

/-- The numbers of the team HCRs (01 Table 1-3). -/
def teamHcr (n : Nat) : Prop :=
  n ≤ 0x00C ∨ (0x010 ≤ n ∧ n ≤ 0x016) ∨ (0x018 ≤ n ∧ n ≤ 0x01D) ∨ (0x020 ≤ n ∧ n ≤ 0x022) ∨ (0x028 ≤ n ∧ n ≤ 0x02D) ∨ n = 0x02F

/-- No flag is enabled to trap (01 R25). -/
def Hart.flagsMasked (h : Hart) : Prop := h.regs.h.fenable &&& 0x00FF#16 = 0#16

/-- No stream register is attached to a vector register (09 R198, R199). -/
def Hart.detached (h : Hart) : Prop := ∀ q : QIdx, (h.regs.q[q]).att = false

/-- No bit of mask m that governs an element below VL is poisoned (06 R146). -/
def Hart.maskSound (h : Hart) (m : MIdx) : Prop := ∀ i, i < h.vl → (h.regs.getM m).isBad h.ew i = false

/-- EW is 8, 16, 32 or 64 bits (06 R143). -/
def Hart.ewWide (h : Hart) : Prop := h.ew = 8 ∨ h.ew = 16 ∨ h.ew = 32 ∨ h.ew = 64

/-- Element i is below VL and active under mask m (01 R19). -/
def Hart.writes (h : Hart) (m : MIdx) (i : Nat) : Prop := i < h.vl ∧ (h.regs.getM m).on h.ew i = true

/-- What writing a vector register element by element, at a width of at least a byte, leaves: every element that act selects holds its
value at width w with its poison; every bit of the data and of the poison outside those elements is as before; the scale slice is as
before (01 R18, R19). -/
def VReg.writtenAs (old new : VReg) (w : Nat) (act : Nat → Prop) (f : Nat → Elt) : Prop :=
  new.scale = old.scale ∧ new.scaleBad = old.scaleBad
  ∧ (∀ i, w * i + w ≤ 16384 → act i → new.elt w i = ⟨(f i).val % 2 ^ w, (f i).bad⟩)
  ∧ (∀ b, b < 16384 → ¬ act (b / w) → new.data.getLsbD b = old.data.getLsbD b)
  ∧ (∀ b, b < 2048 → ¬ act (8 * b / w) → new.poison.getLsbD b = old.poison.getLsbD b)

/-- Instruction i writes vector register d as writtenAs says, raises flags fl, and goes on; nothing else changes. -/
def State.writesV (s : State) (i : Instr) (w : Nat) (d : VIdx) (act : Nat → Prop) (f : Nat → Elt) (fl : FlagSet) : Prop :=
  ∃ v, exec i s = .next (s.goesOn { s.hart.orFlags fl with regs := (s.hart.orFlags fl).regs.setV d v } 4)
    ∧ (s.hart.regs.v[d]).writtenAs v w act f

/-- What writing a mask bit by bit leaves: m0 stays as it reads; in another mask every selected bit holds its value and
poison, and the others are as before (01 R16, R19, 06 R146). -/
def MReg.writtenAs (old new : MReg) (act : Nat → Prop) (f : Nat → Bool × Bool) : Prop :=
  ∀ j, j < 2048 →
    (act j → new.bits.getLsbD j = (f j).1 ∧ new.poison.getLsbD j = (f j).2)
    ∧ (¬ act j → new.bits.getLsbD j = old.bits.getLsbD j ∧ new.poison.getLsbD j = old.poison.getLsbD j)

/-- Instruction i writes mask d as writtenAs says, raises flags fl, and goes on; a write of m0 is discarded. -/
def State.writesM (s : State) (i : Instr) (d : MIdx) (act : Nat → Prop) (f : Nat → Bool × Bool) (fl : FlagSet) : Prop :=
  ∃ k, exec i s = .next (s.goesOn { s.hart.orFlags fl with regs := (s.hart.orFlags fl).regs.setM d k } 4)
    ∧ (s.hart.regs.getM d).writtenAs k act f

/-- The flags that the active elements raise together: those of an element whose result is poisoned do not count
(02 R52, 06 R145). -/
def Hart.flagsOf (h : Hart) (m : MIdx) (f : Nat → Elt × FlagSet) : FlagSet :=
  ((h.active m).map fun i => if (f i).1.bad then 0 else (f i).2).foldl (fun a x => a ||| x) 0

/-- The enabled flags that an element raises: none where its result is poisoned (01 R25, 02 R52). -/
def Hart.trapFlags (h : Hart) (x : Elt × FlagSet) : FlagSet := (if x.1.bad then 0 else x.2) &&& h.regs.h.fenable &&& 0x00FF#16

/-- No active element raises an enabled flag. -/
def Hart.quiet (h : Hart) (m : MIdx) (f : Nat → Elt × FlagSet) : Prop := ∀ j, h.writes m j → h.trapFlags (f j) = 0

/-- Instruction i traps on the lowest active element that raises an enabled flag, before any effect: with cause 0x0B where it raises an
enabled floating-point flag, else with 0x0C (01 R25, 06 R145). -/
def State.flagTraps (s : State) (i : Instr) (m : MIdx) (f : Nat → Elt × FlagSet) : Prop :=
  ∀ j, s.hart.writes m j → s.hart.trapFlags (f j) ≠ 0 → (∀ k, k < j → s.hart.writes m k → s.hart.trapFlags (f k) = 0) →
    exec i s = s.take (.trap (if s.hart.trapFlags (f j) &&& 0x003F#16 = 0 then 0x0C else 0x0B) j none)

/-- Instruction i writes the elements that f gives with their flags, or traps on an enabled one. -/
def State.writesOrTraps (s : State) (i : Instr) (w : Nat) (d : VIdx) (m : MIdx) (f : Nat → Elt × FlagSet) : Prop :=
  (s.hart.quiet m f → s.writesV i w d (s.hart.writes m) (fun j => (f j).1) (s.hart.flagsOf m f)) ∧ s.flagTraps i m f

/-- The enabled flags of a set. -/
def Hart.enabledOf (h : Hart) (f : FlagSet) : FlagSet := f &&& h.regs.h.fenable &&& 0x00FF#16

/-- Instruction i, whose elements raise flags in the order of a list, has its effect when none of them is enabled; else it traps on the
first element that raises an enabled one, before any effect (01 R25, 06 R145). -/
def State.doneOrTraps (s : State) (i : Instr) (fl : List (Nat × FlagSet)) (done : Prop) : Prop :=
  ((∀ x ∈ fl, s.hart.enabledOf x.2 = 0) → done)
  ∧ ∀ x, fl.find? (fun y => s.hart.enabledOf y.2 != 0) = some x →
      exec i s = s.take (.trap (if s.hart.enabledOf x.2 &&& 0x003F#16 = 0 then 0x0C else 0x0B) x.1 none)

/-- The state once the hart has looked up the pieces of its active elements below j, which changes the translation caches alone
(11 R268). -/
def State.warmTo (s : State) (m : MIdx) (ps : Nat → List Piece) (j : Nat) : State :=
  ((s.hart.active m).filter fun i => decide (i < j)).foldl (fun t i => t.warm s.hart.who s.hart.space (ps i)) s

/-- What writing a list of (element number, element) at width w leaves, also at 4 bits, where the two elements of a byte share its
poison bit: writing both clears it first (01 R18). -/
def VReg.writtenBy (old new : VReg) (w : Nat) (xs : List (Nat × Elt)) : Prop :=
  new.scale = old.scale ∧ new.scaleBad = old.scaleBad
  ∧ (∀ x ∈ xs, w * x.1 + w ≤ 16384 → (new.elt w x.1).val = x.2.val % 2 ^ w)
  ∧ (∀ b, b < 16384 → (∀ x ∈ xs, x.1 ≠ b / w) → new.data.getLsbD b = old.data.getLsbD b)
  ∧ ∀ b, b < 2048 → new.poison.getLsbD b =
      if w = 4 then
        xs.any (fun x => x.1 / 2 == b && x.2.bad)
          || (old.poison.getLsbD b && !(xs.any (fun x => x.1 == 2 * b) && xs.any fun x => x.1 == 2 * b + 1))
      else match xs.find? fun x => x.1 == 8 * b / w with
        | some x => x.2.bad
        | none => old.poison.getLsbD b

/-- What writing whole blocks of 32 elements at width w leaves: every element of a block holds its code, and its scale entry the
block's scale, all poisoned when the block is; every other block is as before (02 R52-R54, R61). -/
def VReg.writtenInBlocks (old new : VReg) (w : Nat) (bs : List Block) : Prop :=
  (∀ b ∈ bs, b.b < 128 → w * (32 * b.b + 32) ≤ 16384 →
      new.scaleAt b.b = b.e % 256 ∧ new.scaleIsBad b.b = b.bad
      ∧ ∀ j, j < 32 → new.elt w (32 * b.b + j) = ⟨(b.codes[j]?).getD 0 % 2 ^ w, b.bad⟩)
  ∧ ∀ k, k < 128 → (∀ b ∈ bs, b.b ≠ k) →
      new.scaleAt k = old.scaleAt k ∧ new.scaleIsBad k = old.scaleIsBad k
      ∧ (w * (32 * k + 32) ≤ 16384 → ∀ j, j < 32 → new.elt w (32 * k + j) = old.elt w (32 * k + j))

/-- What writing single elements of several registers at width w leaves: each holds its value and poison, and every other bit of the
registers is as before. -/
def writtenAt (old new : Vector VReg 32) (w : Nat) (es : List ((VIdx × Nat) × Elt)) : Prop :=
  ∀ r : VIdx, new[r].scale = old[r].scale ∧ new[r].scaleBad = old[r].scaleBad
    ∧ (∀ e ∈ es, e.1.1 = r → w * e.1.2 + w ≤ 16384 → new[r].elt w e.1.2 = ⟨e.2.val % 2 ^ w, e.2.bad⟩)
    ∧ (∀ b, b < 16384 → (∀ e ∈ es, e.1 ≠ (r, b / w)) → new[r].data.getLsbD b = old[r].data.getLsbD b)
    ∧ (∀ b, b < 2048 → (∀ e ∈ es, e.1 ≠ (r, 8 * b / w)) → new[r].poison.getLsbD b = old[r].poison.getLsbD b)

/-- The union of flags. -/
def anyFlag (fs : List FlagSet) : FlagSet := fs.foldl (fun a f => a ||| f) 0

/-- The flags of blocks: a poisoned one raises none (02 R52). -/
def blocksFlag (bs : List Block) : FlagSet := anyFlag ((bs.filter fun b => !b.bad).flatMap fun b => b.fl.map (·.2))

/-- The flags that the elements of blocks raise, in order: a poisoned block raises none (02 R52). -/
def flagsOfBlocks (bs : List Block) : List (Nat × FlagSet) := bs.flatMap fun b => if b.bad then [] else b.fl

/-- The hart with vector registers v, flags fl set, and TWG = g. -/
def Hart.withV (h : Hart) (v : Vector VReg 32) (fl : FlagSet) (g : Word) : Hart :=
  { h with regs := { h.regs with v := v, h := { h.regs.h with fflags := h.regs.h.fflags ||| (fl &&& 0x00FF#16), twg := g } } }

/-- Instruction i writes blocks of vector register d of the hart, which is h by then, sets their flags and TWG := g, and goes on;
nothing else changes. -/
def State.writesBlocks (s : State) (i : Instr) (h : Hart) (w : Nat) (d : VIdx) (bs : List Block) (g : Word) : Prop :=
  ∃ v, exec i s = .next (s.goesOn (h.withV (h.regs.v.set d v) (blocksFlag bs) g) 4) ∧ (s.hart.regs.v[d]).writtenInBlocks v w bs

/-- Instruction i writes single elements of vector registers with flags fl, sets TWG := g, and goes on; nothing else changes. -/
def State.writesAt (s : State) (i : Instr) (w : Nat) (es : List ((VIdx × Nat) × Elt)) (fl : FlagSet) (g : Word) : Prop :=
  ∃ v, exec i s = .next (s.goesOn (s.hart.withV v fl g) 4) ∧ writtenAt s.hart.regs.v v w es

/-- The output blocks in register r of groups gs in an XBF format. -/
def Hart.outBlocks (h : Hart) (cplx : Bool) (k : Nat) (gs : List Group) (r : VIdx) : List Block :=
  let outs := gs.flatMap (groupX h cplx)
  (((outs.filter fun x => x.at_.1 == r).map fun x => x.at_.2 / 32).eraseDups).map fun b =>
    formBlock h cplx k b (outs.filter fun x => x.at_.1 == r && x.at_.2 / 32 == b)

/-- The flags of groups in an XBF format: those that the blocks raise at the lowest element of each (07 R165, 06 R145). -/
def Hart.flagsX (h : Hart) (cplx : Bool) (k : Nat) (gs : List Group) : List (Nat × FlagSet) :=
  let fl := (List.finRange 32).flatMap fun r => flagsOfBlocks (h.outBlocks cplx k gs r)
  gs.map fun g => (g.low, anyFlag ((fl.filter fun f => f.1 == g.low).map (·.2)))

/-- Instruction i writes the output blocks of its groups gs in an XBF format with their flags, sets TWG := g, and goes on; nothing
else changes. The block of register r and number b is formed from the outputs that lie in it (07 R172). -/
def State.writesX (s : State) (i : Instr) (cplx : Bool) (k : Nat) (gs : List Group) (g : Word) : Prop :=
  let h := s.hart
  let bs := h.outBlocks cplx k gs
  ∃ v, exec i s = .next (s.goesOn (h.withV v (anyFlag ((List.finRange 32).map fun r => blocksFlag (bs r))) g) 4)
    ∧ ∀ r : VIdx, (h.regs.v[r]).writtenInBlocks v[r] (xbfWidth cplx) (bs r)

end Sys2Proof.Machine
end

