-- ==== Sys2Proof/Certificates/Slice0/Obligations.lean ====
section
/-! DEFINITION. The statements for the provers. Each docstring names the rules of spec/ that the statement formalises, and the
log entries where a clause rests on a choice of the model. -/

open Sys2Proof Sys2Proof.Machine

/-! ### Encoding and the step -/

/-- 03 R70-R88, Tables 3-5 to 3-13: words written out bit by bit from the tables stand for their instructions. The words:
`add s1, s2, s3`; `addi s0, s0, 0`; `ldd s4, 8(s5)` of majors 0x08; `fadd.fp32 s1, s2, s3`; `beq s1, s2, -1`; `jal 1`;
`setvl s1, s2, e32`; `vld v1, s2, m0`; `vadd.i32 v1, v2, v3, m4`; `vfma.bf16 v1, v2, v3, m0`; `teret`; `halt`; and the long
forms `sidx q1, s2` with go and `task.put s3, loc, 5`. -/
def Obligations.WordsDecode : Prop :=  decodeWords [0b000001_00001_00010_00011_00000000000] = some (.add 1 2 3)
  ∧ decodeWords [0b000011_00000_00000_0000000000000000] = some (.addi 0 0 0)
  ∧ decodeWords [0b001000_00100_00101_0000000001000_011] = some (.ldd false 4 5 8#13)
  ∧ decodeWords [0b001100_00001_00010_00011_00000000000] = some (.fadd .fp32 1 2 3)
  ∧ decodeWords [0b010000_00001_00010_1111111111111111] = some (.beq 1 2 0xFFFF#16)
  ∧ decodeWords [0b010011_00000000000000000000000001] = some (.jal 1#26)
  ∧ decodeWords [0b011000_00001_00010_00000_000_010_00_000] = some (.setvl 1 2 .e32)
  ∧ decodeWords [0b011001_00001_00010_00000_000_000_00000] = some (.vld 1 2 0)
  ∧ decodeWords [0b100000_00001_00010_00011_100_00_10_0000] = some (.vaddI .w32 1 2 (.vv 3) 4)
  ∧ decodeWords [0b100101_00001_00010_00011_000_11_000100] = some (.vfmaF .bf16 1 2 3 0)
  ∧ decodeWords [0x54400000] = some .teret
  ∧ decodeWords [0x54600000] = some .halt
  ∧ decodeWords [0b111111_000010_00001_00010_00000_00010, 0, 0, 0] = some (.sidx 1 2 true false)
  ∧ decodeWords [0b111111_000111_00011_00000_00000_00000, 0b000000000_00_10_0000000000011_0_1_0100, 5, 0]
      = some (.taskPut 3 ⟨.loc, .glb, 3#13, false, true, 4⟩ 5#16)

/-- 03 R70-R88: the words that the encoder makes of a well-formed instruction decode to it, whatever its operands. -/
def Obligations.RoundTrip : Prop :=  ∀ i : Instr, i.wf = true → isEvent i = false → decodeWords (encode i) = some i

/-- 03 R78, R79, R80, Table 3-5: a word with a reserved or unassigned major decodes to nothing; every word with major 0x3E is a hint,
whatever its other bits, and a hint changes nothing but the pc, and the marks that an instruction has executed and waits for nothing. The
canonical no-op is `addi s0, s0, 0`, encoded 0x0C00_0000, and changes no more. -/
def Obligations.HintsAndUnassignedMajors : Prop :=
  (∀ w : Nat, w / 2 ^ 26 % 64 ∈ [0x00, 0x0F, 0x17, 0x1C, 0x1D, 0x1E, 0x1F, 0x2B, 0x2F, 0x35, 0x39, 0x3B, 0x3C, 0x3D] →
      decodeWord w = none)
  ∧ (∀ (w : Nat) (s : State), w / 2 ^ 26 % 64 = 0x3E → decodeWord w = some .hint ∧ exec .hint s = .next (s.goesOn s.hart 4))
  ∧ encode (.addi 0 0 0) = [0x0C000000] ∧ decodeWords [0x0C000000] = some (.addi 0 0 0)
  ∧ ∀ s : State, exec (.addi 0 0 0) s = .next (s.goesOn s.hart 4)

/-- 03 R70, 11 R268: with no input pending and a hart that can run and has no strip-terminal instruction in progress, a step at whose pc
the fetched block holds clean bytes that decode to an instruction is that instruction's meaning, unless the instruction uses arrays that
have not moved into the Spire yet. The fetch itself changes the translation caches at most, and nothing where the Spire's TLB covers
the block. Inputs come first (log 1); what a fetch leaves in the caches is log 8. -/
def Obligations.StepRunsDecoded : Prop :=  ∀ (s : State) (blk : List (Byte × Bool)) (i : Instr) (n : Nat),
    s.agenda = [] → s.canRun = true → s.hart.doing = none →
    s.fetchBlock s.hart (s.hart.pc.toNat / 16 * 16) = .ok blk → (∀ x ∈ blk, x.2 = false) →
    decodeBlock (blk.map (·.1)) (s.hart.pc.toNat / 4 * 4 % 16) = some (i, n) → s.arraysAway i = false →
    step s = exec i s.fetched
    ∧ (∃ tlb nonLeaf misses, s.fetched = { s with tlb := tlb, nonLeaf := nonLeaf, misses := misses })
    ∧ ((∃ e ∈ s.tlb, e.place = .spire s.hart.phys ∧ e.covers s.hart.id.ctx false (s.hart.pc.toNat / 16 * 16) = true) → s.fetched = s)

/-- 03 R70, R78, 04 R99, 15 R350, 01 R38: a step with an event of the opcode table at the head of the agenda runs that event with its
parameters (log 1: the model's choice of how the events of 95 come to happen) where the package takes it, runs the write of a register
that has a step of its own as that step, and loses an input that it does not take; a step whose block is fetched takes the poison trap
when a word of the instruction is poisoned, the four words of a long form being one instruction, and the illegal-instruction trap when
clean bytes decode to nothing; an instruction whose arrays are away waits for them, where it does not wait for a slot first (the mark
`away` of a hart is log 44, the model's choice); a strip-terminal instruction in progress goes on without a fetch. -/
def Obligations.StepOtherwise : Prop :=
  (∀ (s : State) (i : Instr) (x : StepArg) (rest : List Input),
      s.agenda = .event i x :: rest → isEvent i = true → s.admits (.event i x) = true →
      step s = exec i { s with agenda := rest, arg := x })
  ∧ (∀ (s : State) (a : Input) (rest : List Input), s.agenda = a :: rest → s.admits a = false → step s = .next { s with agenda := rest })
  ∧ (∀ (s : State) (a : Input) (i : Instr) (x : StepArg) (rest : List Input),
      s.agenda = a :: rest → s.admits a = true → a.regStep = some (i, x) → step s = exec i { s with agenda := rest, arg := x })
  ∧ (∀ (s : State) (i : Instr), s.agenda = [] → s.canRun = true → s.hart.doing = some i → s.arraysAway i = false → step s = exec i s)
  ∧ (∀ (s : State) (blk : List (Byte × Bool)),
      s.agenda = [] → s.canRun = true → s.hart.doing = none → s.fetchBlock s.hart (s.hart.pc.toNat / 16 * 16) = .ok blk →
      let off := s.hart.pc.toNat / 4 * 4 % 16
      let len := if off = 0 ∧ (leNat ((blk.map (·.1)).take 4)) / 2 ^ 26 = 0x3F then 16 else 4
      (((blk.drop off).take len).any (·.2) = true → step s = s.take (.trap 0x0E 0 none))
      ∧ (∀ (i : Instr) (n : Nat), (∀ x ∈ blk, x.2 = false) → decodeBlock (blk.map (·.1)) off = some (i, n) → s.arraysAway i = true →
          let t := s.fetched
          let slot := fun (u : State) => u.hart.stall = some .slotIn ∨ u.hart.stall = some .slotOut
          (∀ u, exec i t = .next u → slot u → step s = .next u)
          ∧ ((∀ u, exec i t = .next u → ¬ slot u) → step s = .next { t with hart := { t.hart with stall := some .mem, parked := false } }))
      ∧ ((∀ x ∈ blk, x.2 = false) → decodeBlock (blk.map (·.1)) off = none →
          step s = s.take (.trap 0x01 0 none)))

/-! ### State and memory -/

/-- 00 R8, 01 R16, Table 1-5: after package reset no hart is launched, the registers named here are 0, the retire table is
empty and no memory lists a byte. That memory reads 0 and that nothing has been retired is the model's choice (logs 3 and 12). -/
def Obligations.ResetValues : Prop :=  State.reset.hart.hcr.run = 0#2 ∧ State.reset.others = [] ∧ (∀ r, State.reset.hart.s r = 0#64)
  ∧ State.reset.hart.pc = 0#64 ∧ (∀ r : VIdx, State.reset.hart.regs.v[r] = VReg.zero) ∧ (∀ r : AIdx, State.reset.hart.regs.a[r] = Tile.zero)
  ∧ (∀ q : QIdx, State.reset.hart.regs.q[q] = Stream.idle)
  ∧ (∀ n : TkIdx, State.reset.hart.tk[n] = 0#16) ∧ State.reset.hart.regs.h.vl = 0#13 ∧ State.reset.hart.regs.h.rmode = 0#3
  ∧ State.reset.hart.regs.h.fflags = 0#16 ∧ State.reset.hart.regs.h.fenable = 0#16 ∧ State.reset.hart.hcr.tvec = 0#64
  ∧ State.reset.hart.hcr.wdog = 0#32 ∧ State.reset.contexts = [] ∧ State.reset.dist.teams = []
  ∧ (∀ x ∈ State.reset.belfry.speed, x.ret = false) ∧ (∀ a, State.reset.dev.get a = 0#8)

/-- The memories of the reset state are in canonical form (log 3: the model's form of memory). -/
def Obligations.ResetMemoryCanonical : Prop := State.reset.memOk

/-- Every step keeps the memories in canonical form. -/
def Obligations.StepKeepsMemoryCanonical : Prop :=  ∀ s t : State, s.memOk → step s = .next t → t.memOk

/-- 10 R249, 05 R125, 00 R5: in a canonical memory a stored byte is read back, every other byte is as before, and equal contents are
equal memories; the byte order is little-endian. A store of poisoned data poisons every 8-byte word that it touches, clean data
clears the words that it covers whole, and every other word keeps its poison. -/
def Obligations.MemoryContents : Prop :=
  ((∀ (m : Mem) (a b : Nat) (x : Byte), m.wf = true → (m.set a x).get b = if b = a then x else m.get b)
    ∧ (∀ (m : Mem) (a b : Nat) (bs : List Byte) (p : Bool), m.wf = true →
        (m.store a bs p).get b = if a ≤ b ∧ b < a + bs.length then (bs[b - a]?).getD 0 else m.get b)
    ∧ (∀ m n : Mem, m.wf = true → n.wf = true → (∀ a, m.get a = n.get a) → m.cells = n.cells)
    ∧ (∀ (m : Mem) (a n v : Nat), m.wf = true → (m.setN a n v).getN a n = v % 256 ^ n))
  ∧ (∀ (m : Mem) (a b : Nat) (bs : List Byte), bs ≠ [] →
      ((m.store a bs true).isBad b = (decide (a / 8 ≤ b / 8 ∧ b / 8 ≤ (a + bs.length - 1) / 8) || m.isBad b))
      ∧ ((m.store a bs false).isBad b = (!decide (a ≤ b / 8 * 8 ∧ b / 8 * 8 + 8 ≤ a + bs.length) && m.isBad b)))

/-- 01 R16, 04 R99: `s0` reads zero, clean, and a write of it is discarded; a write of another scalar register is read back
with its poison and changes no other register. `m0` reads all ones, clean, and a write of it is discarded. -/
def Obligations.HardwiredRegisters : Prop :=  (∀ (h : Hart) (d r : SReg) (v : Word) (p : Bool),
    (h.setS d v p).s r = (if r = 0 then 0#64 else if r = d then v else h.s r)
    ∧ (h.setS d v p).bad r = (if r = 0 then false else if r = d then p else h.bad r)
    ∧ h.setS 0 v p = h
    ∧ ∃ x y, h.setS d v p = { h with regs := { h.regs with s := x, sPoison := y } })
  ∧ (∀ (x : Regs) (d r : MIdx) (k : MReg),
    (x.setM d k).getM r = (if r = 0 then ⟨BitVec.allOnes 2048, 0#2048⟩ else if r = d then k else x.getM r)
    ∧ x.setM 0 k = x ∧ ∃ y, x.setM d k = { x with m := y })

/-! ### Scalar instructions -/

/-- 04 R99, R100, Table 4-1, 02 R42: each register-register integer instruction writes s_d, poisoned when an operand it reads
is, and goes on; nothing else changes. -/
def Obligations.ScalarAluCompletes : Prop :=  ∀ (d a b : SReg) (s : State),
    let x := s.hart.s a
    let y := s.hart.s b
    let one := fun (v : Word) => (Host.Outcome.next (s.goesOn (s.hart.setS d v (s.hart.bad a)) 4) : Out)
    let two := fun (v : Word) => (Host.Outcome.next (s.goesOn (s.hart.setS d v (s.hart.bad a || s.hart.bad b)) 4) : Out)
    exec (.add d a b) s = two (x + y)
    ∧ exec (.sub d a b) s = two (x - y)
    ∧ exec (.and d a b) s = two (x &&& y)
    ∧ exec (.or d a b) s = two (x ||| y)
    ∧ exec (.xor d a b) s = two (x ^^^ y)
    ∧ exec (.sll d a b) s = two (x <<< (y &&& 63#64))
    ∧ exec (.srl d a b) s = two (x >>> (y &&& 63#64))
    ∧ exec (.sra d a b) s = two (x.sshiftRight' (y &&& 63#64))
    ∧ exec (.slt d a b) s = two (if x.slt y then 1#64 else 0#64)
    ∧ exec (.sltu d a b) s = two (if x.ult y then 1#64 else 0#64)
    ∧ exec (.seq d a b) s = two (if x = y then 1#64 else 0#64)
    ∧ exec (.min d a b) s = two (if x.slt y then x else y)
    ∧ exec (.max d a b) s = two (if x.slt y then y else x)
    ∧ exec (.minu d a b) s = two (if x.ult y then x else y)
    ∧ exec (.maxu d a b) s = two (if x.ult y then y else x)
    ∧ exec (.mul d a b) s = two (x * y)
    ∧ exec (.mulh d a b) s = two (BitVec.ofInt 64 (x.toInt * y.toInt / 2 ^ 64))
    ∧ exec (.mulhu d a b) s = two (BitVec.ofNat 64 (x.toNat * y.toNat / 2 ^ 64))
    ∧ exec (.mulhsu d a b) s = two (BitVec.ofInt 64 (x.toInt * y.toNat / 2 ^ 64))
    ∧ exec (.div d a b) s = two (if y = 0#64 then BitVec.allOnes 64 else x.sdiv y)
    ∧ exec (.divu d a b) s = two (if y = 0#64 then BitVec.allOnes 64 else x / y)
    ∧ exec (.rem d a b) s = two (if y = 0#64 then x else x.srem y)
    ∧ exec (.remu d a b) s = two (if y = 0#64 then x else x % y)
    ∧ (∃ n, exec (.clz d a) s = one (BitVec.ofNat 64 n) ∧ n ≤ 64 ∧ (∀ i, 64 - n ≤ i → x.getLsbD i = false)
        ∧ (n < 64 → x.getLsbD (63 - n) = true))
    ∧ (∃ n, exec (.ctz d a) s = one (BitVec.ofNat 64 n) ∧ n ≤ 64 ∧ (∀ i, i < n → x.getLsbD i = false)
        ∧ (n < 64 → x.getLsbD n = true))
    ∧ exec (.popc d a) s = one (BitVec.ofNat 64 ((List.range 64).countP fun i => x.getLsbD i))

/-- 04 R99, R101: each register-immediate integer instruction writes s_d and goes on; nothing else changes. -/
def Obligations.ScalarImmediateCompletes : Prop :=  ∀ (d a : SReg) (imm : BitVec 16) (sh : BitVec 6) (s : State),
    let x := s.hart.s a
    let one := fun (v : Word) => (Host.Outcome.next (s.goesOn (s.hart.setS d v (s.hart.bad a)) 4) : Out)
    exec (.addi d a imm) s = one (x + imm.signExtend 64)
    ∧ exec (.andi d a imm) s = one (x &&& imm.zeroExtend 64)
    ∧ exec (.ori d a imm) s = one (x ||| imm.zeroExtend 64)
    ∧ exec (.slli d a sh) s = one (x <<< sh)
    ∧ exec (.srli d a sh) s = one (x >>> sh)
    ∧ exec (.srai d a sh) s = one (x.sshiftRight' sh)
    ∧ exec (.lui d imm) s = .next (s.goesOn (s.hart.setS d (imm.signExtend 64 * 65536#64) false) 4)

/-- 04 R108-R111, 03 R79: branches and jumps with clean operands go to PC + sext(offset) * 4 or to the next instruction, and
change nothing else but the link register of `jal` and `jalr`; a hint changes only the pc. -/
def Obligations.BranchesComplete : Prop :=  ∀ (a b : SReg) (m : MIdx) (off : BitVec 16) (far : BitVec 26) (s : State),
    let h := s.hart
    let target := h.pc + off.signExtend 64 * 4#64
    let next := h.pc + 4#64
    let reg := h.s b + off.signExtend 64 * 4#64
    let any := ∃ i, i < h.vl ∧ (h.regs.getM m).on h.ew i = true
    ((h.bad a || h.bad b) = false →
        exec (.beq a b off) s = .next (s.jumps h (if h.s a = h.s b then target else next))
        ∧ exec (.bne a b off) s = .next (s.jumps h (if h.s a = h.s b then next else target)))
    ∧ (h.maskSound m →
        (any → exec (.bmany m off) s = .next (s.jumps h target) ∧ exec (.bmnone m off) s = .next (s.jumps h next))
        ∧ (¬ any → exec (.bmany m off) s = .next (s.jumps h next) ∧ exec (.bmnone m off) s = .next (s.jumps h target)))
    ∧ exec (.jal far) s = .next (s.jumps (h.setS 31 next false) (h.pc + far.signExtend 64 * 4#64))
    ∧ (h.bad b = false → reg.toNat % 4 = 0 →
        exec (.jalr b off) s = .next (s.jumps (h.setS 31 next false) reg) ∧ exec (.jr b off) s = .next (s.jumps h reg))
    ∧ exec .hint s = .next (s.goesOn h 4)

/-- 04 R99, R109, R111, 01 R25, R28, 09 R225: a branch or jump on a poisoned register traps with cause 0x0E, a mask branch with the lowest
element that a poisoned bit governs, and a register jump to a target that is no multiple of 4 with cause 0x02; an access with a poisoned
base with cause 0x0E; a store past the capacity with cause 0x09 before any effect, whatever its address (log 69); every operation that
raises an enabled floating-point flag with cause 0x0B, and one that raises another enabled flag with cause 0x0C. That a poisoned operand
does not suppress a scalar operation's flags is the model's reading (log 24). -/
def Obligations.ScalarTraps : Prop :=
  (∀ (a b : SReg) (m : MIdx) (off : BitVec 16) (i : Nat) (s : State),
      let h := s.hart
      ((h.bad a || h.bad b) = true →
          exec (.beq a b off) s = s.take (.trap 0x0E 0 none) ∧ exec (.bne a b off) s = s.take (.trap 0x0E 0 none))
      ∧ (h.bad b = true →
          exec (.jalr b off) s = s.take (.trap 0x0E 0 none) ∧ exec (.jr b off) s = s.take (.trap 0x0E 0 none))
      ∧ (h.bad b = false → (h.s b + off.signExtend 64 * 4#64).toNat % 4 ≠ 0 →
          exec (.jalr b off) s = s.take (.trap 0x02 0 none) ∧ exec (.jr b off) s = s.take (.trap 0x02 0 none))
      ∧ (i < h.vl → (h.regs.getM m).isBad h.ew i = true → (∀ j, j < i → (h.regs.getM m).isBad h.ew j = false) →
          exec (.bmany m off) s = s.take (.trap 0x0E i none) ∧ exec (.bmnone m off) s = s.take (.trap 0x0E i none)))
  ∧ (∀ (g : Bool) (d a : SReg) (off : BitVec 13) (s : State),
      (s.hart.bad a = true →
        ∀ i ∈ [Instr.ldb g d a off, .ldh g d a off, .ldw g d a off, .ldd g d a off, .ldbu g d a off, .ldhu g d a off,
            .ldwu g d a off, .stb g d a off, .sth g d a off, .stw g d a off, .std g d a off],
          exec i s = s.take (.trap 0x0E 0 none))
      ∧ (s.hart.bad a = false → s.hart.capacity < s.hart.charge + 8 →
        exec (.std g d a off) s = s.take (.trap 0x09 0 none) ∧ exec (.stb g d a off) s = s.take (.trap 0x09 0 none)
        ∧ exec (.sth g d a off) s = s.take (.trap 0x09 0 none) ∧ exec (.stw g d a off) s = s.take (.trap 0x09 0 none)))
  ∧ (∀ (k : SFmt) (d a b : SReg) (s : State),
      let h := s.hart
      let x := (h.s a).toNat % 2 ^ k.width
      let y := (h.s b).toNat % 2 ^ k.width
      let u := fun (w : Nat) => (h.s a).toNat % 2 ^ w
      let r := h.rnd
      let z := h.fz
      let traps := fun (i : Instr) (f : FlagSet) =>
        f &&& h.regs.h.fenable &&& 0x003F#16 ≠ 0#16 → exec i s = s.take (.trap 0x0B 0 none)
      traps (.fadd k d a b) (k.fp.add r z x y).2 ∧ traps (.fsub k d a b) (k.fp.sub r z x y).2
      ∧ traps (.fmul k d a b) (k.fp.mul r z x y).2 ∧ traps (.fdiv k d a b) (k.fp.div r z x y).2
      ∧ traps (.fmadd k d a b) (k.fp.fma r z false false x y ((h.s d).toNat % 2 ^ k.width)).2
      ∧ traps (.fmin k d a b) (k.fp.minmax false z x y).2 ∧ traps (.fmax k d a b) (k.fp.minmax true z x y).2
      ∧ traps (.fsqrt k d a) (k.fp.sqrt r z x).2 ∧ traps (.feq k d a b) (k.fp.cmp .eq z x y).2
      ∧ traps (.flt k d a b) (k.fp.cmp .lt z x y).2 ∧ traps (.fle k d a b) (k.fp.cmp .le z x y).2
      ∧ traps (.fcvtFp64Fp32 d a) (cvtFF fpFP32 fpFP64 r z z (u 32)).2
      ∧ traps (.fcvtFp32Fp64 d a) (cvtFF fpFP64 fpFP32 r z z (u 64)).2
      ∧ traps (.fcvtFp32I64 d a) (cvtIF true 64 fpFP32 r z (u 64)).2 ∧ traps (.fcvtFp64I64 d a) (cvtIF true 64 fpFP64 r z (u 64)).2
      ∧ traps (.fcvtFp32Ui64 d a) (cvtIF false 64 fpFP32 r z (u 64)).2
      ∧ traps (.fcvtFp64Ui64 d a) (cvtIF false 64 fpFP64 r z (u 64)).2
      ∧ traps (.fcvtI64Fp32 d a) (cvtFI fpFP32 true 64 r z (u 32)).2 ∧ traps (.fcvtI64Fp64 d a) (cvtFI fpFP64 true 64 r z (u 64)).2
      ∧ traps (.fcvtUi64Fp32 d a) (cvtFI fpFP32 false 64 r z (u 32)).2
      ∧ traps (.fcvtUi64Fp64 d a) (cvtFI fpFP64 false 64 r z (u 64)).2
      ∧ traps (.fcvtFp16Fp32 d a) (cvtFF fpFP32 fpFP16 r z z (u 32)).2
      ∧ traps (.fcvtFp32Fp16 d a) (cvtFF fpFP16 fpFP32 r z z (u 16)).2
      ∧ traps (.fcvtFp32Bf16 d a) (cvtFF fpBF16 fpFP32 r z z (u 16)).2
      ∧ traps (.fcvtBf16Fp32 d a)
          (cvtFF fpFP32 fpBF16 (if h.regs.h.rmode = 4#3 then .sto (srand h.regs.h.seed).2 else r) z z (u 32)).2
      ∧ (h.bad a = false → modValid (h.s a) = false → h.regs.h.fenable &&& 0x0080#16 ≠ 0#16 →
        exec (.hcrw a 0x006#16) s = s.take (.trap 0x0C 0 none) ∧ exec (.hcrw a 0x007#16) s = s.take (.trap 0x0C 0 none)))

/-- 04 R102, R105, R99: a scalar load with a clean base whose bytes are reachable reads them, newest buffered store first:
clean bytes give the sign- or zero-extended value, clean; a poisoned byte gives a poisoned register (the value is then free,
log 10). Nothing else changes but the translation caches, which keep what a GLB load has looked up (log 8). A GLB load completes so when
its data does not return later (log 6). -/
def Obligations.ScalarLoadsComplete : Prop :=  ∀ (g : Bool) (d a : SReg) (off : BitVec 13) (s : State),
    let h := s.hart
    let ea := (h.s a + off.signExtend 64).toNat
    let loads := fun (i : Instr) (n : Nat) (ext : Nat → Word) =>
      ∀ ps, h.bad a = false → (g && h.lateGlb) = false →
        s.pieces h.who (if g then .glb else .loc) .load .load ⟨true, false, false⟩ ea n = .ok ps →
        let bs := readPieces (s.ownByte h) ps
        let t := s.warm h.who (if g then .glb else .loc) ps
        (bs.any (·.2) = false → exec i s = .next (t.goesOn (h.setS d (ext (ofBytes (bs.map (·.1)))) false) 4))
        ∧ (bs.any (·.2) = true → ∃ v, exec i s = .next (State.goesOn { t with draw := s.draw + 1 } (h.setS d v true) 4))
    let sx := fun (w n : Nat) => (BitVec.ofNat w n).signExtend 64
    let zx := fun (w n : Nat) => (BitVec.ofNat w n).setWidth 64
    loads (.ldb g d a off) 1 (sx 8) ∧ loads (.ldh g d a off) 2 (sx 16) ∧ loads (.ldw g d a off) 4 (sx 32)
    ∧ loads (.ldd g d a off) 8 (zx 64) ∧ loads (.ldbu g d a off) 1 (zx 8) ∧ loads (.ldhu g d a off) 2 (zx 16)
    ∧ loads (.ldwu g d a off) 4 (zx 32)

/-- 04 R102, R105, 01 R28, R99: a scalar store with a clean base whose bytes are reachable enters the strip buffer, charged 8
bytes: the low bytes of s_d over the pieces of its address, or poisoned bytes when s_d is poisoned (free values, log 10).
It goes on; no register and no byte of memory changes, since it performs at commit; the translation caches keep what a GLB store has
looked up (log 8). -/
def Obligations.ScalarStoresComplete : Prop :=  ∀ (g : Bool) (d a : SReg) (off : BitVec 13) (s : State),
    let h := s.hart
    let ea := (h.s a + off.signExtend 64).toNat
    let stores := fun (i : Instr) (n : Nat) =>
      ∀ ps, h.bad a = false → h.charge + 8 ≤ h.capacity →
        s.pieces h.who (if g then .glb else .loc) .store .store ⟨false, true, false⟩ ea n = .ok ps →
        let t := s.warm h.who (if g then .glb else .loc) ps
        (h.bad d = false →
          exec i s = .next (t.goesOn { h with charge := h.charge + 8
                                              buf := h.buf ++ [.store (cutUnits false g ps (toBytes n (h.s d).toNat))] } 4))
        ∧ (h.bad d = true → ∃ bs : List Byte, bs.length = n ∧
          exec i s = .next (State.goesOn { t with draw := s.draw + 1 }
            { h with charge := h.charge + 8, buf := h.buf ++ [.store (cutUnits true g ps bs)] } 4))
    stores (.stb g d a off) 1 ∧ stores (.sth g d a off) 2 ∧ stores (.stw g d a off) 4 ∧ stores (.std g d a off) 8

/-- 04 R106, 01 R17, R25: with no flag enabled each scalar floating-point instruction writes its result over the whole of s_d,
sets its flags in FFLAGS and goes on. An FP32 operand is bits [31:0]; `fmadd` adds s_d; `fneg`, `fabs` and `fsgnj` act on the
sign bit and set no flag. A poisoned operand does not suppress the flags (log 24). -/
def Obligations.ScalarFloatCompletes : Prop :=  ∀ (k : SFmt) (d a b : SReg) (s : State), s.hart.flagsMasked →
    let h := s.hart
    let w := k.width
    let x := (h.s a).toNat % 2 ^ w
    let y := (h.s b).toNat % 2 ^ w
    let out := fun (r : Nat × FlagSet) (p : Bool) =>
      (Host.Outcome.next (s.goesOn ((h.orFlags r.2).setS d (BitVec.ofNat 64 r.1) p) 4) : Out)
    let p1 := h.bad a
    let p2 := h.bad a || h.bad b
    let cmp := fun (r : Bool × FlagSet) => ((if r.1 then 1 else 0, r.2) : Nat × FlagSet)
    exec (.fadd k d a b) s = out (k.fp.add h.rnd h.fz x y) p2
    ∧ exec (.fsub k d a b) s = out (k.fp.sub h.rnd h.fz x y) p2
    ∧ exec (.fmul k d a b) s = out (k.fp.mul h.rnd h.fz x y) p2
    ∧ exec (.fdiv k d a b) s = out (k.fp.div h.rnd h.fz x y) p2
    ∧ exec (.fmadd k d a b) s = out (k.fp.fma h.rnd h.fz false false x y ((h.s d).toNat % 2 ^ w)) (p2 || h.bad d)
    ∧ exec (.fmin k d a b) s = out (k.fp.minmax false h.fz x y) p2
    ∧ exec (.fmax k d a b) s = out (k.fp.minmax true h.fz x y) p2
    ∧ exec (.fsqrt k d a) s = out (k.fp.sqrt h.rnd h.fz x) p1
    ∧ exec (.fneg k d a) s = out (x ^^^ 2 ^ (w - 1), 0) p1
    ∧ exec (.fabs k d a) s = out (x % 2 ^ (w - 1), 0) p1
    ∧ exec (.fsgnj k d a b) s = out (x % 2 ^ (w - 1) + y / 2 ^ (w - 1) * 2 ^ (w - 1), 0) p2
    ∧ exec (.feq k d a b) s = out (cmp (k.fp.cmp .eq h.fz x y)) p2
    ∧ exec (.flt k d a b) s = out (cmp (k.fp.cmp .lt h.fz x y)) p2
    ∧ exec (.fle k d a b) s = out (cmp (k.fp.cmp .le h.fz x y)) p2

/-- 04 R107, 02 R48, R54, 01 R25: with no flag enabled each scalar conversion writes the converted value over the whole of
s_d, sets its flags in FFLAGS and goes on; `fcvt.bf16.fp32` under RMODE 4 takes one draw of the generator. A poisoned source does not
suppress the flags (log 24). -/
def Obligations.ScalarConversionsComplete : Prop :=  ∀ (d a : SReg) (s : State), s.hart.flagsMasked →
    let h := s.hart
    let x := fun (w : Nat) => (h.s a).toNat % 2 ^ w
    let r := h.rnd
    let z := h.fz
    let out := fun (r : Nat × FlagSet) =>
      (Host.Outcome.next (s.goesOn ((h.orFlags r.2).setS d (BitVec.ofNat 64 r.1) (h.bad a)) 4) : Out)
    exec (.fcvtFp64Fp32 d a) s = out (cvtFF fpFP32 fpFP64 r z z (x 32))
    ∧ exec (.fcvtFp32Fp64 d a) s = out (cvtFF fpFP64 fpFP32 r z z (x 64))
    ∧ exec (.fcvtFp32I64 d a) s = out (cvtIF true 64 fpFP32 r z (x 64))
    ∧ exec (.fcvtFp64I64 d a) s = out (cvtIF true 64 fpFP64 r z (x 64))
    ∧ exec (.fcvtFp32Ui64 d a) s = out (cvtIF false 64 fpFP32 r z (x 64))
    ∧ exec (.fcvtFp64Ui64 d a) s = out (cvtIF false 64 fpFP64 r z (x 64))
    ∧ exec (.fcvtI64Fp32 d a) s = out (cvtFI fpFP32 true 64 r z (x 32))
    ∧ exec (.fcvtI64Fp64 d a) s = out (cvtFI fpFP64 true 64 r z (x 64))
    ∧ exec (.fcvtUi64Fp32 d a) s = out (cvtFI fpFP32 false 64 r z (x 32))
    ∧ exec (.fcvtUi64Fp64 d a) s = out (cvtFI fpFP64 false 64 r z (x 64))
    ∧ exec (.fcvtFp16Fp32 d a) s = out (cvtFF fpFP32 fpFP16 r z z (x 32))
    ∧ exec (.fcvtFp32Fp16 d a) s = out (cvtFF fpFP16 fpFP32 r z z (x 16))
    ∧ exec (.fcvtFp32Bf16 d a) s = out (cvtFF fpBF16 fpFP32 r z z (x 16))
    ∧ (h.regs.h.rmode ≠ 4#3 → exec (.fcvtBf16Fp32 d a) s = out (cvtFF fpFP32 fpBF16 r z z (x 32)))
    ∧ (h.regs.h.rmode = 4#3 →
        let g := srand h.regs.h.seed
        let r := cvtFF fpFP32 fpBF16 (.sto g.2) z z (x 32)
        let h' := { h with regs := { h.regs with h := { h.regs.h with seed := g.1 } } }
        exec (.fcvtBf16Fp32 d a) s = .next (s.goesOn ((h'.orFlags r.2).setS d (BitVec.ofNat 64 r.1) (h.bad a)) 4))

/-! ### The strip, traps and returns -/

/-- 01 R26, R27, R29, R31, R33, 09 R217: closing an empty strip commits nothing, and the strip that opens next is timed from there, but a
strip-terminal instruction in TERM is timed on; closing one whose buffer is empty changes no
memory, adds 1 to STRIPN, sets HSTAT.preempt to 0, ends a serial mark, takes the pending token counts off the counters, and
leaves a strip opened at the closing instruction: checkpoint equal to the registers, nothing buffered or charged. -/
def Obligations.StripCloses : Prop :=  ∀ s : State,
    (s.hart.fresh = true → s.close = .ok ({ s with hart :=
        { s.hart with stall := none, stripNs := if s.hart.hcr.sstate = 2#3 then s.hart.stripNs else 0 } }, true))
    ∧ (s.hart.fresh = false → s.hart.buf = [] →
      ∃ t, s.close = .ok (t, true) ∧ t.dev = s.dev ∧ t.host = s.host ∧ t.spad = s.spad ∧ t.sdm = s.sdm ∧ t.others = s.others
        ∧ t.hart.pc = s.hart.pc ∧ t.hart.opened = s.hart.pc ∧ t.hart.fresh = true ∧ t.hart.stall = none
        ∧ t.hart.buf = [] ∧ t.hart.charge = 0 ∧ t.hart.hcr.stripn = s.hart.hcr.stripn + 1#64
        ∧ t.hart.hcr.preempt = 0#2 ∧ t.hart.hcr.sstate = 0#3 ∧ t.hart.serial = false ∧ t.hart.stripNs = 0
        ∧ t.hart.ckpt = t.hart.regs ∧ t.hart.regs.s = s.hart.regs.s ∧ t.hart.regs.sPoison = s.hart.regs.sPoison
        ∧ t.hart.regs.v = s.hart.regs.v ∧ t.hart.regs.m = s.hart.regs.m ∧ t.hart.regs.a = s.hart.regs.a
        ∧ t.hart.regs.h = s.hart.regs.h
        ∧ (∀ n : TkIdx, t.hart.tk[n] = s.hart.tk[n] - BitVec.ofNat 16 s.hart.tkPend[n] ∧ t.hart.tkPend[n] = 0))

/-- 01 R28, R29, 04 R105, 09 R211, R221, R222, 10 R230, R249, 11 R258, 22 R418: what the commit of a strip with one entry performs, when
nothing makes the store wait. A store to a scratchpad, the hart's own or another Spire's, or to a scalar data memory, of any length, writes
its bytes there, and no other byte of any memory; a poisoned one poisons every word that it touches, a clean one clears the words that it
covers whole; the frame it writes is dirty and logged. A GLB or HOST store within a word enters the Spire's interface or the CXL port
and changes no memory yet. A command takes its place behind those of its engine, which has room, with the next number, after the stores
held on its path. A farm entry starts the epoch, whose first range, if the strip has taken it, is the hart's, consumed. -/
def Obligations.StripCommits : Prop :=  ∀ (s : State) (l : Loc) (p off va : Nat) (bs : List Byte) (bad lg : Bool) (c : CmdWords) (total base : Word)
    (taken : Option Nat) (tm : Team), s.hart.fresh = false →
    let h := s.hart
    let u : StoreUnit := ⟨l, va, bs, bad, lg⟩
    let other := fun (t : State) => t.hart.buf = [] ∧ t.hart.regs.s = h.regs.s ∧ t.hart.regs.v = h.regs.v
    let put := fun (m n : Mem) (lo : Nat) =>
      n.wf = true
      ∧ (∀ a, n.get a = if lo ≤ a ∧ a < lo + bs.length then (bs[a - lo]?).getD 0 else m.get a)
      ∧ ∀ a, n.isBad a = if bad then decide (lo / 8 ≤ a / 8 ∧ a / 8 ≤ (lo + bs.length - 1) / 8) || m.isBad a
          else !decide (lo ≤ a / 8 * 8 ∧ a / 8 * 8 + 8 ≤ lo + bs.length) && m.isBad a
    (bs ≠ [] → h.buf = [.store [u]] → s.shut h.phys u = false →
      (l = .spad p off → s.spad.wf = true → ∃ t, s.close = .ok (t, true) ∧ other t ∧ put s.spad t.spad (p * 2 ^ 21 + off)
        ∧ t.dev = s.dev ∧ t.host = s.host ∧ t.sdm = s.sdm ∧ t.flight = s.flight ∧ t.full = s.full
        ∧ t.frames = s.frames.map fun f => if p * 64 + off / 32768 ≤ f.key ∧ f.key ≤ p * 64 + (off + bs.length - 1) / 32768
            then { f with dirty := true, log := true } else f)
      ∧ (l = .sdm p off → s.sdm.wf = true → ∃ t, s.close = .ok (t, true) ∧ other t ∧ put s.sdm t.sdm (p * 2 ^ 16 + off)
        ∧ t.dev = s.dev ∧ t.host = s.host ∧ t.spad = s.spad ∧ t.flight = s.flight ∧ t.frames = s.frames)
      ∧ (off % 8 + bs.length ≤ 8 →
        (l = .dev off → ∃ t, s.close = .ok (t, true) ∧ other t ∧ t.flight = s.flight ++ [⟨some h.id, h.phys, 0, [u]⟩]
          ∧ t.dev = s.dev ∧ t.host = s.host ∧ t.spad = s.spad ∧ t.sdm = s.sdm ∧ t.hostOut = s.hostOut)
        ∧ (l = .host off → ∃ t, s.close = .ok (t, true) ∧ other t ∧ t.hostOut = s.hostOut ++ [⟨some h.id, h.phys, 0, [u]⟩]
          ∧ t.dev = s.dev ∧ t.host = s.host ∧ t.spad = s.spad ∧ t.sdm = s.sdm ∧ t.flight = s.flight)))
    ∧ (∀ r, h.buf = [.cmd c] → s.drain (fun f => f.onPath h.phys) = .ok r →
        (r.cmds.filter fun x => x.waits (h.phys / 64 * 8 + h.phys % 64 / 8)).length < 64 →
        ∃ t, s.close = .ok (t, true) ∧ other t ∧ t.nextCmd = r.nextCmd + 1
          ∧ t.cmds = r.cmds ++ [{ k := r.nextCmd, hart := h.id, phys := h.phys, engine := h.phys / 64 * 8 + h.phys % 64 / 8, words := c
                                  landed := 0, read := none, shadow := [], full := false, st := .queued, episode := 0 }]
          ∧ t.dev = r.dev ∧ t.host = r.host ∧ t.spad = r.spad ∧ t.sdm = r.sdm ∧ t.flight = r.flight)
    ∧ (h.buf = [.farm total base taken] → s.team h.id.ctx h.id.team = some tm →
        ∃ t, s.close = .ok (t, true) ∧ other t ∧ t.dev = s.dev ∧ t.host = s.host ∧ t.spad = s.spad ∧ t.sdm = s.sdm ∧ t.cmds = s.cmds
          ∧ t.team h.id.ctx h.id.team = some { tm with farm :=
              { started := true, total := total.toNat, base := if base = 0#64 then 1 else min base.toNat (2 ^ 32)
                cursor := taken.getD 0, claims := (taken.map fun n => ⟨h.id.lhid, 0, n, false⟩).toList } })

/-- 09 R225, 01 R30, 11 R271, Tables 1-6 and 9-10: a program trap of a hart with a handler that does not run discards the strip and
delivers: the checkpointed registers return, the buffer drops, TCAUSE, TELEM and TINFO say what trapped, TEPC is the address
that opened the strip, in_handler is set, HSTAT.preempt is 0, a serial mark ends, and a strip opens at TVEC; token counters,
STRIPN, CLOCK and the stall counters stay, and so does every byte of memory. With TVEC = 0, or in the handler, the trap goes to
the runtime instead: the trap registers stay, the hart is OUT with a record, which a Cupola without a fault ring holds. -/
def Obligations.ProgramTraps : Prop :=
  (∀ (s : State) (cause elem : Nat) (info : Option Word), s.hart.hcr.tvec ≠ 0#64 → s.hart.inHandler = false →
      ∃ t, s.take (.trap cause elem info) = .next t
        ∧ t.hart.pc = s.hart.hcr.tvec ∧ t.hart.opened = s.hart.hcr.tvec ∧ t.hart.inHandler = true
        ∧ t.hart.hcr.tepc = s.hart.opened ∧ t.hart.hcr.tcause = BitVec.ofNat 8 cause
        ∧ t.hart.hcr.telem = BitVec.ofNat 13 elem ∧ t.hart.hcr.tinfo = info.getD s.hart.pc
        ∧ t.hart.hcr.preempt = 0#2 ∧ t.hart.hcr.sstate = 0#3 ∧ t.hart.serial = false
        ∧ t.hart.buf = [] ∧ t.hart.charge = 0 ∧ t.hart.fresh = true ∧ t.hart.ckpt = t.hart.regs
        ∧ t.hart.regs.s = s.hart.ckpt.s ∧ t.hart.regs.sPoison = s.hart.ckpt.sPoison ∧ t.hart.regs.v = s.hart.ckpt.v
        ∧ t.hart.regs.m = s.hart.ckpt.m ∧ t.hart.regs.a = s.hart.ckpt.a ∧ t.hart.regs.h = s.hart.ckpt.h
        ∧ t.hart.tk = s.hart.tk ∧ t.hart.hcr.stripn = s.hart.hcr.stripn ∧ t.hart.hcr.clock = s.hart.hcr.clock
        ∧ t.hart.hcr.stallMem = s.hart.hcr.stallMem ∧ t.others = s.others
        ∧ t.dev = s.dev ∧ t.host = s.host ∧ t.spad = s.spad ∧ t.sdm = s.sdm)
  ∧ (∀ (s : State) (cause elem : Nat) (info : Option Word) (r : FaultRing),
      s.hart.hcr.tvec = 0#64 ∨ s.hart.inHandler = true →
      s.rings[s.hart.phys / 16]? = some r → r.base.toNat / 8192 = 0 →
      ∃ t x, s.take (.trap cause elem info) = .next t ∧ t.hart.fault = some x
        ∧ x = { lhid := s.hart.id.lhid, ctxid := s.hart.id.ctx, detail := 0, kind := 0, space := 0, cause := cause, addr := 0#64,
                info := info.getD s.hart.pc, elem := elem }
        ∧ t.hart.hcr.sstate = 3#3 ∧ t.hart.hcr.preempt = 0#2 ∧ t.hart.pc = s.hart.opened ∧ t.hart.buf = []
        ∧ t.hart.regs.s = s.hart.ckpt.s ∧ t.hart.regs.v = s.hart.ckpt.v ∧ t.hart.hcr.tcause = s.hart.hcr.tcause
        ∧ t.hart.hcr.tepc = s.hart.hcr.tepc ∧ t.hart.inHandler = s.hart.inHandler
        ∧ t.rings[s.hart.phys / 16]? = some { r with held := r.held ++ [x] }
        ∧ t.dev = s.dev ∧ t.host = s.host ∧ t.spad = s.spad ∧ t.sdm = s.sdm)

/-- 09 R224, Table 9-9: `trap` and `brk` of a hart with a handler that does not run commit the open strip and deliver cause
0x11 or 0x10: TEPC is the next instruction, TINFO their own address, TELEM 0, and a strip opens at TVEC. The committed
registers and memories stay. With TVEC = 0, or in the handler, the hart is OUT at the next instruction instead, with a record that
a Cupola without a fault ring holds. `trap 7` is 0x5420_0007 and `brk 1` is 0x5480_0001. -/
def Obligations.SoftwareTrapsComplete : Prop :=  decodeWords [0x54200007] = some (.trap 7) ∧ decodeWords [0x54800001] = some (.brk 1)
  ∧ (∀ (code : BitVec 16) (s t : State), s.closesTo t → t.hart.hcr.tvec ≠ 0#64 → t.hart.inHandler = false →
    let delivered := fun (i : Instr) (cause : BitVec 8) =>
      ∃ u, exec i s = .next u ∧ u.hart.pc = t.hart.hcr.tvec ∧ u.hart.opened = t.hart.hcr.tvec ∧ u.hart.inHandler = true
        ∧ u.hart.hcr.tcause = cause ∧ u.hart.hcr.tepc = t.hart.pc + 4#64 ∧ u.hart.hcr.tinfo = t.hart.pc
        ∧ u.hart.hcr.telem = 0#13 ∧ u.hart.buf = [] ∧ u.hart.fresh = true ∧ u.hart.regs.s = t.hart.regs.s
        ∧ u.hart.regs.sPoison = t.hart.regs.sPoison ∧ u.hart.regs.v = t.hart.regs.v ∧ u.hart.regs.m = t.hart.regs.m
        ∧ u.hart.regs.a = t.hart.regs.a ∧ u.hart.regs.h = t.hart.regs.h ∧ u.hart.tk = t.hart.tk ∧ u.others = t.others
        ∧ u.dev = t.dev ∧ u.host = t.host ∧ u.spad = t.spad ∧ u.sdm = t.sdm
    delivered (.trap code) 0x11#8 ∧ delivered (.brk code) 0x10#8)
  ∧ ∀ (code : BitVec 16) (s t : State) (r : FaultRing), s.closesTo t → t.hart.hcr.tvec = 0#64 ∨ t.hart.inHandler = true →
    t.rings[t.hart.phys / 16]? = some r → r.base.toNat / 8192 = 0 →
    let reported := fun (i : Instr) (cause : Nat) =>
      ∃ u x, exec i s = .next u ∧ u.hart.fault = some x
        ∧ x = { lhid := t.hart.id.lhid, ctxid := t.hart.id.ctx, detail := 0, kind := 0, space := 0, cause := cause, addr := 0#64,
                info := t.hart.pc, elem := 0 }
        ∧ u.rings[t.hart.phys / 16]? = some { r with held := r.held ++ [x] }
        ∧ u.hart.pc = t.hart.pc + 4#64 ∧ u.hart.hcr = { t.hart.hcr with sstate := 3#3 } ∧ u.hart.inHandler = t.hart.inHandler
        ∧ u.hart.regs.s = t.hart.regs.s ∧ u.hart.regs.v = t.hart.regs.v ∧ u.hart.regs.m = t.hart.regs.m ∧ u.hart.buf = []
        ∧ u.hart.tk = t.hart.tk ∧ u.dev = t.dev ∧ u.host = t.host ∧ u.spad = t.spad ∧ u.sdm = t.sdm
    reported (.trap code) 0x11 ∧ reported (.brk code) 0x10

/-- 09 R226, 15 R345: `teret`, whose word is 0x5440_0000, drains and commits the strip, clears in_handler, sets the pc to TEPC
with bits [1:0] 0 and opens a strip there, serial when REPLAY was 1, which it clears. It does so outside a handler too. -/
def Obligations.TeretCompletes : Prop :=  decodeWords [0x54400000] = some .teret
  ∧ ∀ s t : State, s.closesTo t →
    ∃ u, exec .teret s = .next u ∧ u.hart.inHandler = false ∧ u.hart.pc = t.hart.hcr.tepc &&& 0xFFFFFFFFFFFFFFFC#64
      ∧ u.hart.opened = u.hart.pc ∧ u.hart.fresh = true ∧ u.hart.buf = [] ∧ u.hart.hcr.sstate = 0#3
      ∧ u.hart.serial = t.hart.hcr.replay ∧ u.hart.hcr.replay = false ∧ u.hart.ckpt = u.hart.regs
      ∧ u.hart.regs.s = t.hart.regs.s ∧ u.hart.regs.v = t.hart.regs.v ∧ u.hart.regs.m = t.hart.regs.m
      ∧ u.hart.regs.a = t.hart.regs.a ∧ u.hart.regs.h = t.hart.regs.h ∧ u.hart.tk = t.hart.tk
      ∧ u.hart.hcr.tcause = t.hart.hcr.tcause ∧ u.hart.hcr.tepc = t.hart.hcr.tepc ∧ u.others = t.others
      ∧ u.dev = t.dev ∧ u.host = t.host ∧ u.spad = t.spad ∧ u.sdm = t.sdm

/-- 09 R227, 01 Table 1-6, 15 R356: `halt` commits the strip and moves the hart to HALTED (run 3, sstate 4), with the time of
its halt; the pc then points past it (log 25: the model's choice). Nothing else changes. -/
def Obligations.HaltCompletes : Prop :=  ∀ s t : State, s.closesTo t →
    exec .halt s = .next { t with hart := { t.hart with pc := t.hart.pc + 4#64, haltTime := t.nstime, stall := none,
                                                        hcr := { t.hart.hcr with sstate := 4#3, run := 3#2 } } }

/-- 05 R116-R118: with a clean s_a, `setvl` and `setvl.acq` close the open strip, set EW to the code and VL to the lesser of
s_a and VLMAX, and write VL to s_d; `strip` and `strip.rel` keep VL and EW and write VL to s_d, `strip.rel` after the hart's
accepted stores have performed at its scope. A poisoned s_a traps before the commit. -/
def Obligations.StripOpeningCompletes : Prop :=  ∀ (d a : SReg) (w : EW) (sc : Scope) (s : State),
    (∀ t, s.closesTo t →
      (s.hart.bad a = false →
        let code : BitVec 3 := match w with
          | .e8 => 0#3
          | .e16 => 1#3
          | .e32 => 2#3
          | .e64 => 3#3
          | .e4 => 4#3
        let bits := match w with
          | .e8 => 8
          | .e16 => 16
          | .e32 => 32
          | .e64 => 64
          | .e4 => 4
        let vl := min (t.hart.s a).toNat (32 / 2 ^ t.hart.pmode.toNat * 512 / bits)
        let h := { t.hart with regs := { t.hart.regs with h := { t.hart.regs.h with vl := BitVec.ofNat 13 vl, ew := code } } }
        exec (.setvl d a w) s = .next (t.goesOn (h.setS d (BitVec.ofNat 64 vl) false) 4)
        ∧ exec (.setvlAcq d a w sc) s = .next (t.goesOn (h.setS d (BitVec.ofNat 64 vl) false) 4))
      ∧ exec (.strip d) s = .next (t.goesOn (t.hart.setS d (t.hart.regs.h.vl.zeroExtend 64) false) 4)
      ∧ (∀ u, t.performed sc = .ok u →
          exec (.stripRel d sc) s = .next (u.goesOn (u.hart.setS d (u.hart.regs.h.vl.zeroExtend 64) false) 4)))
    ∧ (s.hart.bad a = true →
        exec (.setvl d a w) s = s.take (.trap 0x0E 0 none) ∧ exec (.setvlAcq d a w sc) s = s.take (.trap 0x0E 0 none))

/-- 01 R23, R24, Table 1-3, 04 R112: `hcrr` of a team HCR writes its value to s_d, clean, and goes on; a privileged number
traps with cause 0x03, an unlisted one with cause 0x01. The values named are those of the registers themselves. -/
def Obligations.HcrReadCompletes : Prop :=  ∀ (d : SReg) (s : State),
    let h := s.hart
    let reads := fun (n : BitVec 16) (v : Word) => exec (.hcrr d n) s = .next (s.goesOn (h.setS d v false) 4)
    reads 0x000#16 (h.regs.h.vl.zeroExtend 64) ∧ reads 0x001#16 (h.regs.h.ew.zeroExtend 64)
    ∧ reads 0x002#16 (h.regs.h.mtr.zeroExtend 64) ∧ reads 0x003#16 (h.regs.h.rmode.zeroExtend 64)
    ∧ reads 0x004#16 (h.regs.h.fflags.zeroExtend 64) ∧ reads 0x005#16 (h.regs.h.fenable.zeroExtend 64)
    ∧ reads 0x006#16 h.regs.h.mod0 ∧ reads 0x007#16 h.regs.h.mod1 ∧ reads 0x008#16 h.regs.h.mroot
    ∧ reads 0x009#16 h.regs.h.bnd ∧ reads 0x00A#16 (h.regs.h.bfpmode.zeroExtend 64) ∧ reads 0x00B#16 h.regs.h.twg
    ∧ reads 0x012#16 (BitVec.ofNat 64 (h.lsid % 2 ^ 16)) ∧ reads 0x013#16 (BitVec.ofNat 64 (h.nhart % 2 ^ 32))
    ∧ reads 0x014#16 (BitVec.ofNat 64 (h.nspire % 2 ^ 16)) ∧ reads 0x015#16 (BitVec.ofNat 64 (h.handle % 2 ^ 32))
    ∧ reads 0x022#16 (BitVec.ofNat 64 ((s.speedOf h.phys).clk % 2 ^ 16)) ∧ reads 0x02F#16 0#64
    ∧ reads 0x00C#16 h.regs.h.seed ∧ reads 0x010#16 h.hcr.stripn ∧ reads 0x011#16 (BitVec.ofNat 64 (h.id.lhid % 2 ^ 32))
    ∧ reads 0x016#16 (h.pmode.zeroExtend 64) ∧ reads 0x018#16 h.hcr.tvec ∧ reads 0x019#16 (h.hcr.tcause.zeroExtend 64)
    ∧ reads 0x01A#16 h.hcr.tepc ∧ reads 0x01B#16 (h.hcr.telem.zeroExtend 64) ∧ reads 0x01C#16 h.hcr.tinfo
    ∧ reads 0x01D#16 (if h.hcr.replay then 1#64 else 0#64) ∧ reads 0x020#16 h.hcr.clock
    ∧ reads 0x021#16 (BitVec.ofNat 64 s.nstime) ∧ reads 0x028#16 h.hcr.stallIn ∧ reads 0x029#16 h.hcr.stallOut
    ∧ reads 0x02A#16 h.hcr.stallMem ∧ reads 0x02B#16 h.hcr.stallTok ∧ reads 0x02C#16 h.hcr.stallBar
    ∧ reads 0x02D#16 h.hcr.stallPres
    ∧ (∀ n ∈ [0x100#16, 0x101#16, 0x102#16, 0x103#16, 0x104#16], exec (.hcrr d n) s = s.take (.trap 0x03 0 none))
    ∧ (∀ n : BitVec 16, ¬ teamHcr n.toNat → (n.toNat < 0x100 ∨ 0x104 < n.toNat) → exec (.hcrr d n) s = s.take (.trap 0x01 0 none))

/-- 01 R23, R24, Tables 1-3 and 1-4, 04 R114: `hcrw` of a clean s_a writes the named register and goes on; reserved bits stay
0, an RMODE above 4 and a write of a read-only register change nothing, a modulus that is not allowed sets mrange instead, and
SCLR clears the stall counters that its bits name. Privileged numbers trap with cause 0x03, unlisted ones with cause 0x01, as a
poisoned s_a does with cause 0x0E for a team HCR. -/
def Obligations.HcrWriteCompletes : Prop :=
  (∀ (a : SReg) (n : BitVec 16) (s : State), s.hart.bad a = true → teamHcr n.toNat → exec (.hcrw a n) s = s.take (.trap 0x0E 0 none))
  ∧ ∀ (a : SReg) (s : State), s.hart.bad a = false →
    let h := s.hart
    let v := h.s a
    let team := fun (n : BitVec 16) (y : StripHcr) =>
      exec (.hcrw a n) s = .next (s.goesOn { h with regs := { h.regs with h := y } } 4)
    let out := fun (n : BitVec 16) (x : Hcr) => exec (.hcrw a n) s = .next (s.goesOn { h with hcr := x } 4)
    team 0x002#16 { h.regs.h with mtr := v.setWidth 2 }
    ∧ (v.toNat % 8 < 5 → team 0x003#16 { h.regs.h with rmode := v.setWidth 3 })
    ∧ (5 ≤ v.toNat % 8 → team 0x003#16 h.regs.h)
    ∧ team 0x004#16 { h.regs.h with fflags := v.setWidth 16 &&& 0x00FF#16 }
    ∧ team 0x005#16 { h.regs.h with fenable := v.setWidth 16 &&& 0x80FF#16 }
    ∧ (modValid v = true → team 0x006#16 { h.regs.h with mod0 := v } ∧ team 0x007#16 { h.regs.h with mod1 := v })
    ∧ (modValid v = false → h.flagsMasked →
        team 0x006#16 { h.regs.h with fflags := h.regs.h.fflags ||| 0x0080#16 }
        ∧ team 0x007#16 { h.regs.h with fflags := h.regs.h.fflags ||| 0x0080#16 })
    ∧ team 0x008#16 { h.regs.h with mroot := v } ∧ team 0x009#16 { h.regs.h with bnd := v }
    ∧ team 0x00A#16 { h.regs.h with bfpmode := v.setWidth 8 &&& 1#8 }
    ∧ team 0x00B#16 { h.regs.h with twg := v } ∧ team 0x00C#16 { h.regs.h with seed := v }
    ∧ out 0x018#16 { h.hcr with tvec := v &&& 0xFFFFFFFFFFFFFFFC#64 } ∧ out 0x019#16 { h.hcr with tcause := v.setWidth 8 }
    ∧ out 0x01A#16 { h.hcr with tepc := v } ∧ out 0x01B#16 { h.hcr with telem := v.setWidth 13 }
    ∧ out 0x01C#16 { h.hcr with tinfo := v } ∧ out 0x01D#16 { h.hcr with replay := v.getLsbD 0 }
    ∧ out 0x02F#16 { h.hcr with stallIn := if v.getLsbD 0 then 0 else h.hcr.stallIn
                                stallOut := if v.getLsbD 1 then 0 else h.hcr.stallOut
                                stallMem := if v.getLsbD 2 then 0 else h.hcr.stallMem
                                stallTok := if v.getLsbD 3 then 0 else h.hcr.stallTok
                                stallBar := if v.getLsbD 4 then 0 else h.hcr.stallBar
                                stallPres := if v.getLsbD 5 then 0 else h.hcr.stallPres }
    ∧ (∀ n ∈ [0x000#16, 0x001#16, 0x010#16, 0x011#16, 0x012#16, 0x013#16, 0x014#16, 0x015#16, 0x016#16, 0x020#16, 0x021#16, 0x022#16,
        0x028#16, 0x029#16, 0x02A#16, 0x02B#16, 0x02C#16, 0x02D#16], out n h.hcr)
    ∧ (∀ n ∈ [0x100#16, 0x101#16, 0x102#16, 0x103#16, 0x104#16], exec (.hcrw a n) s = s.take (.trap 0x03 0 none))
    ∧ (∀ n : BitVec 16, ¬ teamHcr n.toNat → (n.toNat < 0x100 ∨ 0x104 < n.toNat) → exec (.hcrw a n) s = s.take (.trap 0x01 0 none))

/-! ### Synchronisation and farms -/

/-- 09 R216, R218, R219, R220, R223, 05 R128, 01 R26, 10 R230: with an empty strip open and their condition met, the strip-terminal
instructions of synchronisation complete as a strip of their own: `fence.hart` and `fence.spire` at once; `await` when every
counter that s_a selects is at least 1, taking 1 from each; `bar.arrive` records an arrival in the current episode when the
hart's last one is not in it and no store of the hart is in flight; `bar.wait` when it is not. Each goes to the next
instruction, adds 1 to STRIPN, and changes no memory. A fence of wider scope completes, after the open strip has closed, once the stores
held on the path of its Spire have performed there (log 16): at the Cupola's order point for cupola, which holds back none at the
Spire's interface, at their homes for die and package, and for system with every HOST store complete too; what makes such a store wait
makes the fence wait. A `bar.arrive` or `bar.wait` of a team launched without the co-scheduled flag traps with cause 0x01, as a strip of
its own. -/
def Obligations.SynchronisationCompletes : Prop :=  (∀ (a : SReg) (id : BitVec 6) (sc : Scope) (s : State), s.hart.fresh = true → s.hart.buf = [] →
    let lhid := s.hart.id.lhid
    let done := fun (i : Instr) (p : State → Prop) => ∃ t, exec i s = .next t
      ∧ t.hart.pc = s.hart.pc + 4#64 ∧ t.hart.hcr.stripn = s.hart.hcr.stripn + 1#64 ∧ t.hart.fresh = true
      ∧ t.hart.hcr.sstate = 0#3 ∧ t.hart.hcr.preempt = 0#2 ∧ t.hart.regs.s = s.hart.regs.s ∧ t.hart.regs.v = s.hart.regs.v
      ∧ t.hart.regs.m = s.hart.regs.m ∧ t.hart.regs.a = s.hart.regs.a ∧ t.hart.regs.h = s.hart.regs.h
      ∧ t.dev = s.dev ∧ t.host = s.host ∧ t.spad = s.spad ∧ t.sdm = s.sdm ∧ p t
    (sc = .hart ∨ sc = .spire → done (.fence sc) fun t => ∀ n : TkIdx, t.hart.tk[n] = s.hart.tk[n] - BitVec.ofNat 16 s.hart.tkPend[n])
    ∧ ((∀ n : TkIdx, s.hart.tkPend[n] = 0) → s.hart.bad a = false →
        (∀ n : TkIdx, (s.hart.s a).getLsbD n.val = true → s.hart.tk[n] ≠ 0#16) →
        done (.await a) fun t => ∀ n : TkIdx,
          t.hart.tk[n] = if (s.hart.s a).getLsbD n.val then s.hart.tk[n] - 1#16 else s.hart.tk[n])
    ∧ (∀ tm, s.team s.hart.id.ctx s.hart.id.team = some tm → tm.task.cosched = true → s.flight = [] →
        tm.lastArrival lhid id.toNat ≠ some (tm.bar id.toNat).episode →
        done (.barWait id) (fun _ => True)
        ∧ (id.toNat < tm.bars.length → done (.barArrive id) fun t => ∃ tm', t.team s.hart.id.ctx s.hart.id.team = some tm'
            ∧ (tm'.bar id.toNat).episode = (tm.bar id.toNat).episode
            ∧ (tm'.bar id.toNat).arrivals = (tm.bar id.toNat).arrivals ++ [(lhid, s.nstime)]
            ∧ tm'.lastArrival lhid id.toNat = some (tm.bar id.toNat).episode)))
  ∧ (∀ (sc : Scope) (s t u : State), s.closesTo t → t.hart.buf = [] → (t.inTerm (.fence sc)).performed sc = .ok u →
      ∃ w, exec (.fence sc) s = .next w
        ∧ w.hart.pc = t.hart.pc + 4#64 ∧ w.hart.hcr.stripn = t.hart.hcr.stripn + 1#64 ∧ w.hart.fresh = true ∧ w.hart.hcr.sstate = 0#3
        ∧ w.hart.regs.s = t.hart.regs.s ∧ w.hart.regs.v = t.hart.regs.v ∧ w.hart.regs.m = t.hart.regs.m ∧ w.hart.regs.h = t.hart.regs.h
        ∧ w.dev = u.dev ∧ w.host = u.host ∧ w.spad = u.spad ∧ w.sdm = u.sdm ∧ w.flight = u.flight ∧ w.hostOut = u.hostOut
        ∧ (sc = .cupola → w.dev = t.dev ∧ ∀ f ∈ w.flight, ¬ (f.level = 0 ∧ f.phys = t.hart.phys))
        ∧ (sc = .die ∨ sc = .package ∨ sc = .system → ∀ f ∈ w.flight, f.onPath t.hart.phys = false)
        ∧ (sc = .system → w.hostOut = []))
  ∧ (∀ (sc : Scope) (s t : State) (e : Exc), s.closesTo t → (t.inTerm (.fence sc)).performed sc = .error e →
      exec (.fence sc) s = (t.inTerm (.fence sc)).take e)
  ∧ ∀ (id : BitVec 6) (s t : State) (tm : Team), s.closesTo t →
    t.team t.hart.id.ctx t.hart.id.team = some tm → tm.task.cosched = false →
    exec (.barArrive id) s = (t.inTerm (.barArrive id)).take (.trap 0x01 0 none)
    ∧ exec (.barWait id) s = (t.inTerm (.barWait id)).take (.trap 0x01 0 none)

/-- 09 R217, R216, R220: `tkwait` with a clean s_a whose count the counter covers beyond the pending counts adds it to them
and goes on; otherwise the hart waits for tokens without any other effect. `await`, after the open strip has closed, waits so in
TERM, parked, when a counter that the clean s_a selects is 0. -/
def Obligations.TkwaitCompletes : Prop :=  ∀ (n : TkIdx) (a : SReg) (s : State), s.hart.bad a = false →
    let c := (s.hart.s a).toNat % 65536
    (s.hart.tkPend[n] + c ≤ s.hart.tk[n].toNat →
      exec (.tkwait n a) s = .next (s.goesOn { s.hart with tkPend := s.hart.tkPend.set n (s.hart.tkPend[n] + c) } 4))
    ∧ (s.hart.tk[n].toNat < s.hart.tkPend[n] + c →
      exec (.tkwait n a) s = .next { s with hart := { s.hart with stall := some .tok, parked := false } })
    ∧ (∀ (b : SReg) (t : State) (k : TkIdx), s.closesTo t → t.hart.bad b = false → (t.hart.s b).getLsbD k.val = true →
        t.hart.tk[k] = 0#16 →
        exec (.await b) s = .next { t with hart := { t.hart with stall := some .tok, parked := true, doing := some (.await b),
                                                                 hcr := { t.hart.hcr with sstate := 2#3 } } })

/-- 01 R21: a token counter saturates at 65,535: an increment that would exceed it leaves it there and sets tkovf; any other
adds 1. It happens in whatever state the strip is, and a discard does not undo it. -/
def Obligations.TokenCounterSaturates : Prop :=  ∀ (h : Hart) (n m : TkIdx),
    (h.token n).tk[m] = (if m = n ∧ h.tk[n] ≠ 65535#16 then h.tk[m] + 1#16 else h.tk[m])
    ∧ (h.token n).hcr.tkovf = (h.hcr.tkovf || h.tk[n] == 65535#16)
    ∧ (h.token n).hcr.sstate = h.hcr.sstate ∧ (h.token n).discard.tk = (h.token n).tk
    ∧ (h.token n).discard.hcr.tkovf = (h.token n).hcr.tkovf

/-- 09 R221, R222, 01 R28: `farm.init` enters the strip buffer with total and base, charged 64 bytes; `farm.next`, to a
register from 1 to 30, writes the start and the count that the farm gives, and only the farm of the hart's team changes, the strip
having obtained the claim. After a `farm.init` of its own strip it sees the new epoch: the range starts at 0, with the count that the
epoch will give, or has given in this strip. -/
def Obligations.FarmCompletes : Prop :=  ∀ (d a b : SReg) (s : State) (tm : Team),
    let init := fun (e : BufEntry) => match e with
      | .farm _ _ _ => true
      | _ => false
    (s.hart.charge + 64 ≤ s.hart.capacity → exec (.farmInit a b) s = .next (s.goesOn
        { s.hart with charge := s.hart.charge + 64, buf := s.hart.buf ++ [.farm (s.hart.s a) (s.hart.s b) none] } 4))
    ∧ (1 ≤ d.val → d.val ≤ 30 → s.team s.hart.id.ctx s.hart.id.team = some tm → s.hart.buf.any init = false →
        let r := tm.farm.next s.hart.id.lhid (s.speedOf s.hart.phys).clk s.hart.nhart
        exec (.farmNext d) s = .next (State.goesOn
          (s.updTeam s.hart.id.ctx s.hart.id.team fun t => { t with farm := r.1 })
          ((({ s.hart with claimed := true } : Hart).setS d (BitVec.ofNat 64 r.2.1) false).setS (d + 1) (BitVec.ofNat 64 r.2.2) false) 4))
    ∧ (∀ (x y : List BufEntry) (total base : Word) (taken : Option Nat), 1 ≤ d.val → d.val ≤ 30 →
        s.hart.buf = x ++ .farm total base taken :: y → y.any init = false →
        let n := taken.getD ((startFarm total base).next s.hart.id.lhid (s.speedOf s.hart.phys).clk s.hart.nhart).2.2
        exec (.farmNext d) s = .next (s.goesOn
          ((({ s.hart with buf := x ++ .farm total base (some n) :: y } : Hart).setS d 0#64 false).setS (d + 1) (BitVec.ofNat 64 n) false) 4))
    ∧ (d = 0 ∨ d = 31 → exec (.farmNext d) s = s.take (.trap 0x01 0 none))

/-- 09 R222: what a farm gives. A pending claim of the hart is given again; before any epoch, and when nothing remains, the
range is empty; else the count is the lesser of the share by speed and half of an even share, at least 1, the claim is pending
and the cursor moves past it and never past the total. -/
def Obligations.FarmGivesRanges : Prop :=  ∀ (f : Farm) (lhid speed nhart : Nat), 0 < nhart →
    let r := f.next lhid speed nhart
    let mine := f.claims.find? fun c => c.lhid == lhid && c.pending
    let rem := f.total - f.cursor
    (∀ c, mine = some c → r = (f, c.start, c.count))
    ∧ (mine = none → f.started = false → r = (f, 0, 0))
    ∧ (mine = none → f.started = true → f.total ≤ f.cursor → r = (f, f.cursor, 0))
    ∧ (mine = none → f.started = true → f.cursor < f.total →
        ∃ count, r.2 = (f.cursor, count) ∧ 1 ≤ count ∧ count ≤ (rem + 2 * nhart - 1) / (2 * nhart)
          ∧ count ≤ max 1 (rneDiv (f.base * speed) 1250)
          ∧ (count = (rem + 2 * nhart - 1) / (2 * nhart) ∨ count = max 1 (rneDiv (f.base * speed) 1250))
          ∧ r.1.cursor = f.cursor + count ∧ r.1.cursor ≤ f.total ∧ r.1.total = f.total
          ∧ (r.1.claims.find? fun c => c.lhid == lhid && c.pending) = some ⟨lhid, f.cursor, count, true⟩)

/-! ### Vector instructions -/

/-- 06 R143, R144, R146, R148, 03 R73, R74, 02 R42: with EW the instruction's width, no stream attached and no poisoned mask
bit below VL, each vector integer instruction writes its result to every active element, poisoned when an operand is, and
nothing else. `opb` is an element, a scalar's low bits or a sign-extended immediate; a shift count is its low log2(EW) bits, an
immediate count being unsigned. -/
def Obligations.VectorIntegerCompletes : Prop :=  ∀ (k : IWidth) (d a c : VIdx) (b : BOp3) (m : MIdx) (s : State),
    s.hart.detached → s.hart.maskSound m → s.hart.ew = k.bits →
    let h := s.hart
    let n := k.bits
    let va := fun (r : VIdx) (i : Nat) => (h.regs.v[r]).elt n i
    let opb := fun (i : Nat) => match b with
      | .vv v => va v i
      | .vs r => ⟨(h.s r).toNat % 2 ^ n, h.bad r⟩
      | .vi x => ⟨(x.signExtend 64).toNat % 2 ^ n, false⟩
    let count := fun (i : Nat) => match b with
      | .vi x => x.toNat % n
      | _ => (opb i).val % n
    let out := fun (i : Instr) (f : Nat → BitVec n) (p : Nat → Bool) =>
      s.writesV i n d (h.writes m) (fun j => ⟨(f j).toNat, p j⟩) 0
    let op := fun (i : Instr) (f : BitVec n → BitVec n → BitVec n) =>
      out i (fun j => f (BitVec.ofNat n (va a j).val) (BitVec.ofNat n (opb j).val)) (fun j => (va a j).bad || (opb j).bad)
    let sh := fun (i : Instr) (f : BitVec n → Nat → BitVec n) =>
      out i (fun j => f (BitVec.ofNat n (va a j).val) (count j)) (fun j => (va a j).bad || (opb j).bad)
    let clip := fun (x : Int) => BitVec.ofInt n (max (-2 ^ (n - 1)) (min (2 ^ (n - 1) - 1) x))
    op (.vaddI k d a b m) (fun x y => x + y) ∧ op (.vsubI k d a b m) (fun x y => x - y)
    ∧ op (.vmulI k d a b m) (fun x y => x * y)
    ∧ op (.vmulh k d a b m) (fun x y => BitVec.ofInt n (x.toInt * y.toInt / 2 ^ n))
    ∧ op (.vmulhu k d a b m) (fun x y => BitVec.ofNat n (x.toNat * y.toNat / 2 ^ n))
    ∧ op (.vminI k d a b m) (fun x y => if y.slt x then y else x)
    ∧ op (.vmaxI k d a b m) (fun x y => if x.slt y then y else x)
    ∧ op (.vminu k d a b m) (fun x y => if y.ult x then y else x)
    ∧ op (.vmaxu k d a b m) (fun x y => if x.ult y then y else x)
    ∧ op (.vand k d a b m) (fun x y => x &&& y) ∧ op (.vor k d a b m) (fun x y => x ||| y)
    ∧ op (.vxor k d a b m) (fun x y => x ^^^ y)
    ∧ sh (.vsll k d a b m) (fun x c => x <<< c) ∧ sh (.vsrl k d a b m) (fun x c => x >>> c)
    ∧ sh (.vsra k d a b m) (fun x c => x.sshiftRight c)
    ∧ op (.vsadd k d a b m) (fun x y => clip (x.toInt + y.toInt)) ∧ op (.vssub k d a b m) (fun x y => clip (x.toInt - y.toInt))
    ∧ op (.vsaddu k d a b m) (fun x y => BitVec.ofNat n (min (x.toNat + y.toNat) (2 ^ n - 1)))
    ∧ op (.vssubu k d a b m) (fun x y => BitVec.ofNat n (x.toNat - y.toNat))
    ∧ op (.vdivI k d a b m) (fun x y => if y = 0#n then BitVec.allOnes n else x.sdiv y)
    ∧ op (.vdivu k d a b m) (fun x y => if y = 0#n then BitVec.allOnes n else x / y)
    ∧ op (.vrem k d a b m) (fun x y => if y = 0#n then x else x.srem y)
    ∧ op (.vremu k d a b m) (fun x y => if y = 0#n then x else x % y)
    ∧ out (.vmadd k d a c m)
        (fun j => BitVec.ofNat n (va a j).val * BitVec.ofNat n (va c j).val + BitVec.ofNat n (va d j).val)
        (fun j => (va a j).bad || (va c j).bad || (va d j).bad)
    ∧ out (.vabsI k d a m) (fun j => let x := BitVec.ofNat n (va a j).val; if x.slt 0#n then -x else x) (fun j => (va a j).bad)

/-- 06 R145, R146, R149, R151, 01 R25: each vector compare writes its bit, poisoned with its operands, for every active element of the
mask; a floating-point one sets the flags of the elements without poison, or traps on the lowest element that raises an enabled one;
nothing else changes, and a write of m0 is discarded. -/
def Obligations.VectorComparesComplete : Prop :=
  (∀ (k : IWidth) (d m : MIdx) (a : VIdx) (b : BOp3) (s : State),
      s.hart.detached → s.hart.maskSound m → s.hart.ew = k.bits →
      let h := s.hart
      let n := k.bits
      let va := fun (r : VIdx) (i : Nat) => (h.regs.v[r]).elt n i
      let opb := fun (i : Nat) => match b with
        | .vv v => va v i
        | .vs r => ⟨(h.s r).toNat % 2 ^ n, h.bad r⟩
        | .vi x => ⟨(x.signExtend 64).toNat % 2 ^ n, false⟩
      let op := fun (i : Instr) (f : BitVec n → BitVec n → Bool) =>
        s.writesM i d (h.writes m) (fun j =>
          (f (BitVec.ofNat n (va a j).val) (BitVec.ofNat n (opb j).val), (va a j).bad || (opb j).bad)) 0
      op (.vceqI k d a b m) (fun x y => x == y) ∧ op (.vcneI k d a b m) (fun x y => x != y)
      ∧ op (.vcltI k d a b m) (fun x y => x.slt y) ∧ op (.vcltu k d a b m) (fun x y => x.ult y)
      ∧ op (.vcleI k d a b m) (fun x y => x.sle y) ∧ op (.vcleu k d a b m) (fun x y => x.ule y))
  ∧ (∀ (k : FFmt) (d m : MIdx) (a : VIdx) (b : BOp2) (s : State),
      s.hart.detached → s.hart.maskSound m → s.hart.ew = k.width →
      let h := s.hart
      let w := k.width
      let opb := fun (i : Nat) => match b with
        | .vv v => (h.regs.v[v]).elt w i
        | .vs x => ⟨(h.s x).toNat % 2 ^ w, h.bad x⟩
      let cmp := fun (i : Instr) (c : FCmp) =>
        let r := fun (j : Nat) => k.fp.cmp c h.fz ((h.regs.v[a]).elt w j).val (opb j).val
        let p := fun (j : Nat) => ((h.regs.v[a]).elt w j).bad || (opb j).bad
        let f := fun (j : Nat) => ((⟨0, p j⟩ : Elt), (r j).2)
        (h.quiet m f → s.writesM i d (h.writes m) (fun j => ((r j).1, p j)) (h.flagsOf m f)) ∧ s.flagTraps i m f
      cmp (.vceqF k d a b m) .eq ∧ cmp (.vcneF k d a b m) .ne ∧ cmp (.vcltF k d a b m) .lt ∧ cmp (.vcleF k d a b m) .le
      ∧ cmp (.vcun k d a b m) .un)

/-- 06 R145, R146, R150, R152, 02 R52, R55, 01 R25: with EW the instruction's width, no stream attached and no poisoned mask bit below
VL, each vector floating-point, FP8 and complex instruction writes its result to every active element, poisoned when an operand is, sets
the flags of the elements whose result is not poisoned, and does nothing else, where none of these flags is enabled; else it traps on the
lowest element that raises an enabled one, before any effect. -/
def Obligations.VectorFloatCompletes : Prop :=  ∀ (k : FFmt) (t : F8Fmt) (c : CFmt) (d a e : VIdx) (b : BOp2) (m : MIdx) (s : State),
    s.hart.detached → s.hart.maskSound m →
    let h := s.hart
    let r := h.rnd
    let z := h.fz
    let opb := fun (w i : Nat) => match b with
      | .vv v => (h.regs.v[v]).elt w i
      | .vs x => ⟨(h.s x).toNat % 2 ^ w, h.bad x⟩
    let out := fun (i : Instr) (w : Nat) (f : Nat → Elt × FlagSet) => s.writesOrTraps i w d m f
    let one := fun (i : Instr) (w : Nat) (f : Nat → Nat × FlagSet) =>
      out i w fun j => let x := (h.regs.v[a]).elt w j; (⟨(f x.val).1, x.bad⟩, (f x.val).2)
    let two := fun (i : Instr) (w : Nat) (f : Nat → Nat → Nat × FlagSet) =>
      out i w fun j =>
        let x := (h.regs.v[a]).elt w j
        let y := opb w j
        (⟨(f x.val y.val).1, x.bad || y.bad⟩, (f x.val y.val).2)
    let three := fun (i : Instr) (w : Nat) (f : Nat → Nat → Nat → Nat × FlagSet) =>
      out i w fun j =>
        let x := (h.regs.v[a]).elt w j
        let y := (h.regs.v[e]).elt w j
        let u := (h.regs.v[d]).elt w j
        (⟨(f x.val y.val u.val).1, x.bad || y.bad || u.bad⟩, (f x.val y.val u.val).2)
    let w := k.width
    let cw := 2 * c.comp
    (h.ew = w →
      two (.vaddF k d a b m) w (k.fp.add r z) ∧ two (.vsubF k d a b m) w (k.fp.sub r z)
      ∧ two (.vmulF k d a b m) w (k.fp.mul r z) ∧ two (.vdivF k d a b m) w (k.fp.div r z)
      ∧ three (.vfmaF k d a e m) w (k.fp.fma r z false false) ∧ three (.vfms k d a e m) w (k.fp.fma r z false true)
      ∧ three (.vfnma k d a e m) w (k.fp.fma r z true false)
      ∧ two (.vminF k d a b m) w (k.fp.minmax false z) ∧ two (.vmaxF k d a b m) w (k.fp.minmax true z)
      ∧ one (.vsqrt k d a m) w (k.fp.sqrt r z) ∧ one (.vabsF k d a m) w (fun x => (x % 2 ^ (w - 1), 0))
      ∧ one (.vneg k d a m) w (fun x => (x ^^^ 2 ^ (w - 1), 0))
      ∧ two (.vsgnj k d a b m) w (fun x y => (x % 2 ^ (w - 1) + y / 2 ^ (w - 1) * 2 ^ (w - 1), 0)))
    ∧ (h.ew = 8 →
      two (.vaddF8 t d a b m) 8 (t.fp.add r z) ∧ two (.vsubF8 t d a b m) 8 (t.fp.sub r z)
      ∧ two (.vmulF8 t d a b m) 8 (t.fp.mul r z) ∧ three (.vfmaF8 t d a e m) 8 (t.fp.fma r z false false)
      ∧ two (.vminF8 t d a b m) 8 (t.fp.minmax false z) ∧ two (.vmaxF8 t d a b m) 8 (t.fp.minmax true z))
    ∧ (h.ew = cw →
      two (.vaddC c d a b m) cw (fun x y => complexOp c .add r z x y 0)
      ∧ two (.vsubC c d a b m) cw (fun x y => complexOp c .sub r z x y 0)
      ∧ two (.vmulC c d a b m) cw (fun x y => complexOp c .mul r z x y 0)
      ∧ two (.vmulc c d a b m) cw (fun x y => complexOp c .mulc r z x y 0)
      ∧ three (.vfmaC c d a e m) cw (complexOp c .fma r z)
      ∧ one (.vconj c d a m) cw (fun x => (x ^^^ 2 ^ (cw - 1), 0))
      ∧ one (.vmuli c d a m) cw (fun x => ((x / 2 ^ c.comp ^^^ 2 ^ (c.comp - 1)) + x % 2 ^ c.comp * 2 ^ c.comp, 0)))

/-- 06 R157-R161, 02 R48, R52-R54, R59-R62: conversions. `vcvt` to a format without scale writes the converted value to every active
element, at 4 bits too, poisoned when its source element is or, from a format with scale, when the scale entry of its block is, and sets
the flags of the others; a stochastic form takes one draw of the generator for each active element in order. `vcvt` to an XBF format forms
every block of 32 that holds an active element, and `vmxq` quantises such blocks; `vmxd` dequantises each active element with the scale
entry of its block. Nothing else changes. An enabled flag traps on the lowest element that raises it. The poison that a block's scale
entry gives its elements is log 40, special MX elements that set no flag are log 73, and that the elements of a block of scale 0xFF draw
is log 63. -/
def Obligations.ConversionsComplete : Prop :=  ∀ (dst src : Format) (md sr : Bool) (q : MxFmt) (x : MxSide) (d a : VIdx) (m : MIdx) (s : State),
    s.hart.detached → s.hart.maskSound m →
    let h := s.hart
    let r := h.regs.v[a]
    let blocks := fun (i : Instr) (h : Hart) (w : Nat) (bs : List Block) =>
      s.doneOrTraps i (flagsOfBlocks bs) (s.writesBlocks i h w d bs h.regs.h.twg)
    (cvtPair dst src = true → (md = true → cvtMod dst src = true) → h.ew = max (fmtWidth dst) (fmtWidth src) →
      (let elt := fun (j : Nat) (rm : Rnd) =>
          let u := r.elt (fmtWidth src) j
          let y := cvtElt dst src md rm h.fz (r.scaleAt (j / 32)) u.val
          ((⟨y.1, u.bad || (fmtScaled src && r.scaleIsBad (j / 32))⟩ : Elt), y.2)
        let sto := (md && src.group == .f)
          || ((dst == .bf16 || dst == .e4m3 || dst == .e5m2) && src.group != .x && h.regs.h.rmode == 4#3)
        let y := withDraws sto h.rnd (h.active m) h
        let xs := y.2.map fun x => (x.1, elt x.1 x.2)
        (dst.group ≠ .x → s.doneOrTraps (.vcvt dst src md d a m) (xs.map fun x => (x.1, if x.2.1.bad then 0 else x.2.2))
          (∃ v, exec (.vcvt dst src md d a m) s = .next (s.goesOn (y.1.withV (h.regs.v.set d v)
                (anyFlag ((xs.filter fun x => !x.2.1.bad).map fun x => x.2.2)) h.regs.h.twg) 4)
            ∧ (h.regs.v[d]).writtenBy v (fmtWidth dst) (xs.map fun x => (x.1, x.2.1))))
        ∧ (dst.group ≠ .x → sto = false → 8 ≤ fmtWidth dst →
          s.writesOrTraps (.vcvt dst src md d a m) (fmtWidth dst) d m fun j => elt j h.rnd))
      ∧ (dst.group = .x → blocks (.vcvt dst src md d a m) h (fmtWidth dst)
          ((blocksOf (h.active m)).map fun b => xbfBlock h src a b.1 b.2)))
    ∧ (h.ew = (match x with
        | .fp32 => 32
        | _ => 16) →
      (let y := mxBlocks q x (sr || h.regs.h.rmode == 4#3) a (blocksOf (h.active m)) h;
        blocks (.vmxq q x sr d a m) y.1 q.width y.2)
      ∧ (let f := fun (j : Nat) =>
          let u := r.elt q.width j
          let e := r.scaleAt (j / 32)
          let y := mxVal u.val e q (mxFp x) h.rnd h.fz
          ((⟨y.1, u.bad || r.scaleIsBad (j / 32)⟩ : Elt), if e = 255 then y.2 ||| flNv else y.2)
        s.writesOrTraps (.vmxd x q d a m) h.ew d m f))

/-- 06 R153, R146: mask operations write the bits of the active elements of md, each poisoned with the bits it reads;
`vmfirst` gives ones up to and including the first true active element, `viota` the number of true active elements before
each, `vpopc` their number, in s_d. Nothing else changes. -/
def Obligations.MaskOperationsComplete : Prop :=  ∀ (d a b m : MIdx) (v : VIdx) (x : SReg) (s : State), s.hart.detached → s.hart.maskSound m → s.hart.ewWide →
    let h := s.hart
    let act := fun (j : Nat) => decide (j < h.vl) && (h.regs.getM m).on h.ew j
    let bit := fun (k : MIdx) (j : Nat) => (h.regs.getM k).bits.getLsbD j
    let bad := fun (k : MIdx) (j : Nat) => (h.regs.getM k).poison.getLsbD j
    let two := fun (i : Instr) (f : Bool → Bool → Bool) =>
      s.writesM i d (h.writes m) (fun j => (f (bit a j) (bit b j), bad a j || bad b j)) 0
    let noneBefore := fun (p : Nat → Bool) (j : Nat) => (List.range j).all fun k => !(act k && p k)
    two (.mand d a b m) (fun x y => x && y) ∧ two (.mor d a b m) (fun x y => x || y)
    ∧ two (.mxor d a b m) (fun x y => x != y) ∧ two (.mandn d a b m) (fun x y => x && !y)
    ∧ s.writesM (.mnot d a m) d (h.writes m) (fun j => (!bit a j, bad a j)) 0
    ∧ s.writesM (.mset d m) d (h.writes m) (fun _ => (true, false)) 0
    ∧ s.writesM (.mclr d m) d (h.writes m) (fun _ => (false, false)) 0
    ∧ s.writesM (.vmfirst d a m) d (h.writes m) (fun j => (noneBefore (bit a) j,
        (List.range (j + 1)).any fun k => act k && bad a k && noneBefore (fun l => bit a l && !bad a l) k)) 0
    ∧ s.writesV (.viota v a m) h.ew v (h.writes m) (fun j => ⟨(List.range j).countP fun k => act k && bit a k,
        (List.range j).any fun k => act k && bad a k⟩) 0
    ∧ exec (.vpopc x a m) s = .next (s.goesOn (h.setS x
        (BitVec.ofNat 64 ((List.range h.vl).countP fun k => act k && bit a k))
        ((List.range h.vl).any fun k => act k && bad a k)) 4)

/-- 06 R154, R155, R146: `vmerge` takes va where the mask is set and vb elsewhere, below VL; a slide moves elements by its
count and gives 0, or in its k form vd's own element, where no element comes from; `vperm` gathers, 0 past VL; `vmv` and
`vmv.xs` copy an element or a scalar; `vmv.sx` and `vext` write s_d from element 0 or from the element that s_b names. That the k form
rewrites the element, so that its poison covers it whole, is log 45. -/
def Obligations.VectorMovesComplete : Prop :=  ∀ (d a b : VIdx) (k : BOpS) (m : MIdx) (x y : SReg) (s : State), s.hart.detached → s.hart.ewWide →
    let h := s.hart
    let va := fun (r : VIdx) (i : Nat) => (h.regs.v[r]).elt h.ew i
    let zero : Elt := ⟨0, false⟩
    let n := match k with
      | .vs r => (h.s r).toNat
      | .vi i => i.toNat
    let toS := fun (e : Elt) => (Host.Outcome.next (s.goesOn (h.setS x (BitVec.ofNat 64 e.val) e.bad) 4) : Out)
    (h.maskSound m →
      s.writesV (.vmerge d a b m) h.ew d (fun i => i < h.vl) (fun i => if (h.regs.getM m).on h.ew i then va a i else va b i) 0
      ∧ s.writesV (.vperm d a b m) h.ew d (h.writes m) (fun i =>
          let j := va b i
          if j.val < h.vl then ⟨(va a j.val).val, (va a j.val).bad || j.bad⟩ else ⟨0, j.bad⟩) 0
      ∧ s.writesV (.vmv d a m) h.ew d (h.writes m) (va a) 0
      ∧ s.writesV (.vmvXs d y m) h.ew d (h.writes m) (fun _ => ⟨(h.s y).toNat % 2 ^ h.ew, h.bad y⟩) 0
      ∧ ((∀ r, k = .vs r → h.bad r = false) →
        s.writesV (.vslideup d a k m) h.ew d (h.writes m) (fun i => if n ≤ i then va a (i - n) else zero) 0
        ∧ s.writesV (.vslidedown d a k m) h.ew d (h.writes m) (fun i => if i + n < h.vl then va a (i + n) else zero) 0
        ∧ s.writesV (.vslideupk d a k m) h.ew d (h.writes m) (fun i => if n ≤ i then va a (i - n) else va d i) 0
        ∧ s.writesV (.vslidedownk d a k m) h.ew d (h.writes m) (fun i => if i + n < h.vl then va a (i + n) else va d i) 0))
    ∧ exec (.vmvSx x a) s = toS (va a 0)
    ∧ (h.bad y = false →
        exec (.vext x a y) s = toS (if (h.s y).toNat < h.lanes * 512 / h.ew then va a (h.s y).toNat else zero))

/-- 06 R145, R156, 02 R57, 01 R25: a reduction of a hart with VL above 0 writes element 0 of vd alone: the tree of its operator over the
active elements, or its identity where none is active, with the flags of the combinations that no poison enters, where none is
enabled; the first combination of the tree that raises an enabled one traps at element 0, before any effect; with VL = 0 it changes
nothing. -/
def Obligations.ReductionsComplete : Prop :=  ∀ (g : RedGroup) (k : IWidth) (d a : VIdx) (m : MIdx) (s : State),
    s.hart.detached → s.hart.maskSound m →
    let h := s.hart
    let red := fun (i : Instr) (w id : Nat) (f : Nat → Nat → Nat × FlagSet) =>
      h.ew = w →
      (h.vl = 0 → exec i s = .next (s.goesOn h 4))
      ∧ (0 < h.vl →
        let r := treeOf f ((List.range h.vl).map fun j =>
          if (h.regs.getM m).on w j then some ((h.regs.v[a]).elt w j) else none)
        let on := fun (f : FlagSet) => f &&& h.regs.h.fenable &&& 0x00FF#16
        ((∀ f ∈ r.2, on f = 0#16) →
          s.writesV i w d (fun j => j = 0) (fun _ => r.1.getD ⟨id, false⟩) (r.2.foldl (fun x y => x ||| y) 0))
        ∧ ∀ f, r.2.find? (fun f => on f != 0#16) = some f →
          exec i s = s.take (.trap (if on f &&& 0x003F#16 = 0#16 then 0x0C else 0x0B) 0 none))
    let int := fun (i : Instr) (id : Nat) (f : Nat → Nat → Nat) => red i k.bits id fun x y => (f x y, 0)
    let w := k.bits
    int (.vredminu k d a m) (2 ^ w - 1) min ∧ int (.vredmaxu k d a m) 0 max
    ∧ int (.vredand k d a m) (2 ^ w - 1) (fun x y => x &&& y) ∧ int (.vredor k d a m) 0 (fun x y => x ||| y)
    ∧ int (.vredxor k d a m) 0 (fun x y => x ^^^ y)
    ∧ (∀ F, redFp g = some F →
        red (.vredsum g d a m) (redWidth g) 0 (F.add h.rnd h.fz)
        ∧ red (.vredmin g d a m) (redWidth g) F.infE (F.minmax false h.fz)
        ∧ red (.vredmax g d a m) (redWidth g) (F.signed true F.infE) (F.minmax true h.fz))
    ∧ (redFp g = none →
        let n := redWidth g
        let lt := fun (x y : Nat) => (BitVec.ofNat n x).slt (BitVec.ofNat n y)
        red (.vredsum g d a m) n 0 (fun x y => ((x + y) % 2 ^ n, 0))
        ∧ red (.vredmin g d a m) n (2 ^ (n - 1) - 1) (fun x y => (if lt y x then y else x, 0))
        ∧ red (.vredmax g d a m) n (2 ^ (n - 1)) (fun x y => (if lt x y then y else x, 0)))

/-- 07 R179-R182, 02 R64, R65, R67, 01 R25: residue instructions. `mmul`, `madd` and `msub` work on
operands reduced modulo p, with mrange for one that was not, and give 0 with mrange when p does not serve the width; `mred`
reduces a signed value; `mlift` lifts to the centred value, with movf beyond BND; `mcrt` joins two residues; `mchk` sets
flags only. Active elements of vd and FFLAGS change, nothing else, where no flag raised is enabled; else the lowest element that raises
an enabled one traps before any effect, with cause 0x0C. -/
def Obligations.ResidueCompletes : Prop :=  ∀ (k : MWidth) (p1 : Bool) (c : MchkSel) (d a e : VIdx) (b : BOp2) (m : MIdx) (x y z : SReg) (s : State), s.hart.detached →
    let h := s.hart
    let w := k.bits
    let p := (if p1 then h.regs.h.mod1 else h.regs.h.mod0).toNat
    let serves := k = .m64 ∨ p < 2 ^ 32
    let va := fun (j : Nat) => (h.regs.v[a]).elt w j
    let opb := fun (j : Nat) => match b with
      | .vv v => (h.regs.v[v]).elt w j
      | .vs r => ⟨(h.s r).toNat % 2 ^ w, h.bad r⟩
    let out := fun (i : Instr) (n : Nat) (f : Nat → Elt × FlagSet) => s.writesOrTraps i n d m f
    let two := fun (i : Instr) (f : Nat → Nat → Nat) => out i w fun j =>
      let u := (va j).val
      let v := (opb j).val
      let bad := (va j).bad || (opb j).bad
      if serves then (⟨f (u % p) (v % p), bad⟩, if p ≤ u ∨ p ≤ v then flMrange else 0) else (⟨0, bad⟩, flMrange)
    let movf := fun (v : Int) => if h.regs.h.bnd.toNat < v.natAbs then flMovf else (0 : FlagSet)
    (h.maskSound m → h.ew = w →
      two (.mmul k p1 d a b m) (fun u v => u * v % p) ∧ two (.madd k p1 d a b m) (fun u v => (u + v) % p)
      ∧ two (.msub k p1 d a b m) (fun u v => (u + (p - v)) % p)
      ∧ out (.mred k p1 d a m) w (fun j =>
          if serves then (⟨((BitVec.ofNat w (va j).val).toInt % p).toNat, (va j).bad⟩, 0) else (⟨0, (va j).bad⟩, flMrange))
      ∧ out (.mlift k p1 d a m) w (fun j =>
          let u := (va j).val % p
          let v : Int := if u ≤ p / 2 then u else (u : Int) - p
          if serves then (⟨(BitVec.ofInt w v).toNat, (va j).bad⟩, (if p ≤ (va j).val then flMrange else 0) ||| movf v)
          else (⟨0, (va j).bad⟩, flMrange)))
    ∧ (h.maskSound m → h.ew = 64 → out (.mcrt d a e m) 64 fun j =>
        let u := (h.regs.v[a]).elt 64 j
        let v := (h.regs.v[e]).elt 64 j
        let r := crt2 u.val v.val h.regs.h.mod0.toNat h.regs.h.mod1.toNat
        (⟨r.1, u.bad || v.bad⟩, r.2 ||| movf (BitVec.ofNat 64 r.1).toInt))
    ∧ (h.ewWide → h.bad x = false → h.bad y = false → h.bad z = false →
        let m0 := h.regs.h.mod0.toNat
        let m1 := h.regs.h.mod1.toNat
        let q := match c with
          | .p0 => m0
          | .p1 => m1
          | .pp => m0 * m1
        let fl := if c = .pp ∧ (m0 = m1 ∨ Nat.gcd m0 m1 ≠ 1 ∨ 2 ^ 62 ≤ q) then flMrange ||| flMovf
          else if q / 2 < (h.s x).toNat * (h.s y).toNat * (h.s z).toNat then flMovf else 0
        (fl &&& h.regs.h.fenable = 0#16 → exec (.mchk c x y z) s = .next (s.goesOn (h.orFlags fl) 4))
        ∧ (fl &&& h.regs.h.fenable ≠ 0#16 → exec (.mchk c x y z) s = s.take (.trap 0x0C 0 none)))

/-- 07 R164-R178: `twset` writes TWG; `twget` writes the twiddle of its element to every active element (XBF: whole blocks), or 0 with
mrange when the modulus does not serve, and moves TWG.base on by VL; a legal butterfly writes the outputs of its active groups, those
whose lowest element's mask bit is set, by the stage's coefficients, XBF outputs block by block, and sets the flags of those that are
not poisoned, its vv forms with a twiddle moving TWG.base on by VL too; `bflyg` does so for its pairs; `vdrev` and `vtrn` move elements
by digit reversal and rotation of the index; `xbfn` brings the blocks that hold an active element to the largest of their scales.
Nothing else changes. An enabled flag traps, before any effect, at the lowest element of the first group that raises it (07 R165). The
twiddle, stage and block functions are the model's, from 07 R164-R172 (logs 19, 69, 70); the poison of scale
entries is log 40, and nv beside a NaN term log 34; `twset` does so whatever VL is (log 76). -/
def Obligations.TransformCompletes : Prop :=  ∀ (t : TwFmt) (y : BflyT) (k : MWidth) (cplx p1 : Bool) (d a e : VIdx) (b : BOpB) (im : BitVec 5) (m : MIdx) (x : SReg)
    (s : State), s.hart.detached → s.hart.maskSound m →
    let h := s.hart
    let g := h.regs.h.twg
    let moved := BitVec.ofNat 64 (g.toNat % 2 ^ 32 + (g.toNat / 2 ^ 32 + h.vl) % 2 ^ 32 * 2 ^ 32)
    let legal2 := 1 ≤ g.toNat % 64 ∧ g.toNat % 64 ≤ 32
    let legal4 := 2 ≤ g.toNat % 64 ∧ g.toNat % 64 ≤ 32
    let after := match b with
      | .vv _ => moved
      | .vi _ => g
    let n := Nat.log2 h.vl
    let on := fun (gs : List Group) => gs.filter fun u => (h.regs.getM m).on h.ew u.low
    let outF := fun (i : Instr) (c : CFmt) (gs : List Group) (g : Word) =>
      let ys := (on gs).flatMap (groupF h c)
      s.doneOrTraps i ((on gs).map fun u => (u.low, anyFlag ((groupF h c u).map fun z => z.2.2)))
        (s.writesAt i (2 * c.comp) (ys.map fun u => (u.1, u.2.1)) (anyFlag (ys.map fun u => u.2.2)) g)
    let outT := fun (i : Instr) (k : Nat) (gs : List Group) (g : Word) => match y with
      | .cbf16 => outF i .cbf16 gs g
      | .cfp32 => outF i .cfp32 gs g
      | .xbf => s.doneOrTraps i (h.flagsX true k (on gs)) (s.writesX i true k (on gs) g)
      | .rxbf => s.doneOrTraps i (h.flagsX false k (on gs)) (s.writesX i false k (on gs) g)
    let p := h.modulus p1
    let outM := fun (i : Instr) (gs : List Group) (g : Word) =>
      let ys := (on gs).map fun u => (u.isBad h k.bits, groupM h k.bits p (modOk k p && (p - 1) % h.twg.n == 0) u)
      s.doneOrTraps i (((on gs).map (·.low)).zip (ys.map fun u => if u.1 then 0 else u.2.2))
        (s.writesAt i k.bits (ys.flatMap fun u => u.2.1.map fun v => (v.1, (⟨v.2, u.1⟩ : Elt)))
          (anyFlag ((ys.filter fun u => !u.1).map fun u => u.2.2)) g)
    let p0 := h.modulus false
    let noRoot := match t with
      | .m32 => !modOk .m32 p0 || (p0 - 1) % h.twg.n != 0
      | .m64 => !modOk .m64 p0 || (p0 - 1) % h.twg.n != 0
      | _ => false
    let tw := fun (i : Nat) => if noRoot then 0 else twElt h t h.twg (h.twg.e i)
    let twFlag := if noRoot && !(h.active m).isEmpty then flMrange else 0
    (h.ewWide → h.bad x = false →
      exec (.twset x) s = .next (s.goesOn { h with regs := { h.regs with h := { h.regs.h with twg := h.s x } } } 4))
    ∧ (h.ew = twWidth t → legal2 → t ≠ .xbf →
        s.doneOrTraps (.twget t d m) [((h.active m).headD 0, twFlag)]
          (s.writesAt (.twget t d m) (twWidth t) ((h.active m).map fun i => ((d, i), (⟨tw i, false⟩ : Elt))) twFlag moved))
    ∧ (h.ew = 32 → legal2 → s.writesBlocks (.twget .xbf d m) h 32 d
        ((blocksOf (h.active m)).map fun u =>
          ⟨u.1, (List.range 32).map fun j => if 32 * u.1 + j ∈ u.2 then twElt h .xbf h.twg (h.twg.e (32 * u.1 + j)) else 0, 0x80, false, []⟩)
        moved)
    ∧ (h.ew = bflyWidth y → bflyLimit false d a b = true → (y ≠ .rxbf → legal2) →
        outT (.bfly2 y d a b m) 1 (bflyGroups h false (y == .rxbf) d a b) (if y = .rxbf then g else after))
    ∧ (h.ew = bflyWidth y → bflyLimit true d a b = true → y ≠ .rxbf → legal4 →
        outT (.bfly4 y d a b m) 2 (bflyGroups h true false d a b) after)
    ∧ (h.ew = bflyWidth y → e.val ≤ 30 → outT (.bflyg y d a e m) 1 (pairGroups h d a e) g)
    ∧ (h.ew = k.bits → bflyLimit false d a b = true → legal2 → outM (.bfly2M k p1 d a b m) (bflyGroups h false false d a b) after)
    ∧ (h.ew = k.bits → bflyLimit true d a b = true → legal4 → outM (.bfly4M k p1 d a b m) (bflyGroups h true false d a b) after)
    ∧ (h.ewWide → 1 ≤ im.toNat → im.toNat ≤ 8 → s.writesV (.vdrev d a im m) h.ew d (h.writes m) (fun j =>
        (h.regs.v[a]).elt h.ew (if j < 2 ^ n then revSource n im.toNat j else j)) 0)
    ∧ (h.ewWide → s.writesV (.vtrn d a im m) h.ew d (h.writes m) (fun j =>
        (h.regs.v[a]).elt h.ew (if j < 2 ^ n ∧ im.toNat ≤ n
          then j % 2 ^ (n - im.toNat) * 2 ^ im.toNat + j / 2 ^ (n - im.toNat) else j)) 0)
    ∧ (h.ew = (if cplx then 32 else 16) →
        let bs := blocksOf (h.active m)
        let es := bs.map fun u => (h.regs.v[a]).scaleAt u.1
        let bad := bs.any fun u => (h.regs.v[a]).scaleIsBad u.1
        let blocks := bs.map fun u => alignBlock h cplx a (es.foldl max 0) (es.contains 0xFF) bad u.1 u.2
        s.doneOrTraps (.xbfn cplx d a m) (flagsOfBlocks blocks) (s.writesBlocks (.xbfn cplx d a m) h h.ew d blocks g))

/-- 03 R74, 05 R123, 06 R146, 07 R165, R166, R182, 08 R189, 01 R25: the traps that vector, transform, tile and vector-memory instructions
take before any effect. An instruction at an EW that is none of its widths is illegal, and so is a butterfly or `twget` with an illegal TWG.
With no stream attached, the lowest element below VL whose governing mask bit is poisoned traps with cause 0x0E, and of an indexed access
also the lowest active one whose index is poisoned; a poisoned slide offset, `vext` index, `twset` or `mchk` operand, tile index, base or
stride traps with cause 0x0E at element 0. A strip-terminal access takes these traps as a strip of its own, after the open strip has closed.
That a scalar operand is looked at before the mask is log 69. -/
def Obligations.VectorTraps : Prop :=  ∀ (k : IWidth) (f : FFmt) (f8 : F8Fmt) (c : CFmt) (mw : MWidth) (g : RedGroup) (tf : TwFmt) (y : BflyT) (o : OpaT)
    (mx : MxFmt) (x : MxSide) (dst src : Format) (md sr cplx p1 : Bool) (sel : MchkSel) (op : AtomOp) (d a e : VIdx) (b3 : BOp3) (b2 : BOp2)
    (bs : BOpS) (bb : BOpB) (im : BitVec 5) (dm am bm m : MIdx) (ad : AIdx) (u v w : SReg) (j : Nat) (s : State),
    let h := s.hart
    let any := [8, 16, 32, 64]
    let lt := h.regs.h.twg.toNat % 64
    -- instructions that the mask governs, with the widths they accept
    let masked : List (Instr × List Nat) :=
      ([Instr.vaddI, .vsubI, .vmulI, .vmulh, .vmulhu, .vminI, .vmaxI, .vminu, .vmaxu, .vand, .vor, .vxor, .vsll, .vsrl, .vsra, .vsadd, .vsaddu,
          .vssub, .vssubu, .vdivI, .vdivu, .vrem, .vremu].map fun i => (i k d a b3 m, [k.bits]))
      ++ ([Instr.vceqI, .vcneI, .vcltI, .vcltu, .vcleI, .vcleu].map fun i => (i k dm a b3 m, [k.bits]))
      ++ [(.vmadd k d a e m, [k.bits]), (.vabsI k d a m, [k.bits])]
      ++ ([Instr.vredminu, .vredmaxu, .vredand, .vredor, .vredxor].map fun i => (i k d a m, [k.bits]))
      ++ ([Instr.vaddF, .vsubF, .vmulF, .vdivF, .vminF, .vmaxF, .vsgnj].map fun i => (i f d a b2 m, [f.width]))
      ++ ([Instr.vceqF, .vcneF, .vcltF, .vcleF, .vcun].map fun i => (i f dm a b2 m, [f.width]))
      ++ ([Instr.vfmaF, .vfms, .vfnma].map fun i => (i f d a e m, [f.width]))
      ++ ([Instr.vsqrt, .vabsF, .vneg].map fun i => (i f d a m, [f.width]))
      ++ ([Instr.vaddF8, .vsubF8, .vmulF8, .vminF8, .vmaxF8].map fun i => (i f8 d a b2 m, [8])) ++ [(.vfmaF8 f8 d a e m, [8])]
      ++ ([Instr.vaddC, .vsubC, .vmulC, .vmulc].map fun i => (i c d a b2 m, [2 * c.comp]))
      ++ [(.vfmaC c d a e m, [2 * c.comp]), (.vconj c d a m, [2 * c.comp]), (.vmuli c d a m, [2 * c.comp])]
      ++ ([Instr.mand, .mor, .mxor, .mandn].map fun i => (i dm am bm m, any))
      ++ [(.mnot dm am m, any), (.vmfirst dm am m, any), (.vpopc u am m, any), (.viota d am m, any), (.mset dm m, any), (.mclr dm m, any),
          (.vmerge d a e m, any), (.vperm d a e m, any), (.vmv d a m, any), (.vmvXs d u m, any), (.vtrn d a im m, any)]
      ++ ([Instr.vredsum, .vredmin, .vredmax].map fun i => (i g d a m, [redWidth g]))
      ++ ([Instr.mmul, .madd, .msub].map fun i => (i mw p1 d a b2 m, [mw.bits]))
      ++ [(.mred mw p1 d a m, [mw.bits]), (.mlift mw p1 d a m, [mw.bits]), (.mcrt d a e m, [64])]
      ++ [(.vmxq mx x sr d a m, [mxWidth x]), (.vmxd x mx d a m, [mxWidth x]), (.xbfn cplx d a m, [if cplx then 32 else 16]),
          (.opa o ad a e m, [opaWidth o]), (.ops o ad a e m, [opaWidth o])]
    let slides := [Instr.vslideup d a bs m, .vslidedown d a bs m, .vslideupk d a bs m, .vslidedownk d a bs m]
    let lines := [Instr.arow d ad u m, .acol d ad u m, .awrow ad d u m, .awcol ad d u m]
    let plain := [Instr.vld d u m, .vldff d u m, .vst d u m]
    let strided := [Instr.vlds d u v m, .vsts d u v m]
    let indexed := [Instr.vldx d u a m, .vstx d u a m]
    let twiddled := [Instr.twget tf d m, .bfly2M mw p1 d a bb m, .bfly4M mw p1 d a bb m, .bfly4 y d a bb m]
    let narrow := ([Instr.vmvSx u a, .vext u a v, .mchk sel u v w, .twset u, .vdrev d a im m] ++ slides ++ plain ++ strided ++ indexed).map
        (fun i => (i, any)) ++ lines.map (fun i => (i, [32]))
      ++ [(.vcvt dst src md d a m, [max (fmtWidth dst) (fmtWidth src)]), (.twget tf d m, [twWidth tf]), (.bfly2 y d a bb m, [bflyWidth y]),
          (.bfly4 y d a bb m, [bflyWidth y]), (.bflyg y d a e m, [bflyWidth y]), (.bfly2M mw p1 d a bb m, [mw.bits]),
          (.bfly4M mw p1 d a bb m, [mw.bits])]
    let maskBad := fun (h : Hart) (i : Nat) => (h.regs.getM m).isBad h.ew i
    let firstBad := j < h.vl ∧ maskBad h j = true ∧ ∀ i, i < j → maskBad h i = false
    let ixBad := fun (h : Hart) (i : Nat) => maskBad h i || ((h.regs.getM m).on h.ew i && ((h.regs.v[a]).elt h.ew i).bad)
    let illegal := fun (i : Instr) => exec i s = s.take (.trap 0x01 0 none)
    let poison := fun (i : Instr) (n : Nat) => exec i s = s.take (.trap 0x0E n none)
    (∀ i ∈ masked ++ narrow, h.ew ∉ i.2 → illegal i.1)
    ∧ (lt = 0 ∨ 32 < lt → (∀ i ∈ twiddled, illegal i) ∧ (y ≠ .rxbf → illegal (.bfly2 y d a bb m)))
    ∧ (lt = 1 → illegal (.bfly4M mw p1 d a bb m) ∧ illegal (.bfly4 y d a bb m))
    ∧ (h.detached → firstBad →
        (∀ i ∈ masked, h.ew ∈ i.2 → poison i.1 j)
        ∧ (h.ewWide → 1 ≤ im.toNat → im.toNat ≤ 8 → poison (.vdrev d a im m) j)
        ∧ (h.ewWide → (∀ r, bs = .vs r → h.bad r = false) → ∀ i ∈ slides, poison i j)
        ∧ (h.ew = 32 → h.bad u = false → ∀ i ∈ lines, poison i j)
        ∧ (cvtPair dst src = true → (md = true → cvtMod dst src = true) → h.ew = max (fmtWidth dst) (fmtWidth src) →
            poison (.vcvt dst src md d a m) j)
        ∧ (h.ew = twWidth tf → 1 ≤ lt → lt ≤ 32 → poison (.twget tf d m) j)
        ∧ (h.ewWide → h.bad u = false → (∀ i ∈ plain, poison i j) ∧ (h.bad v = false → ∀ i ∈ strided, poison i j)))
    ∧ (h.detached → h.ewWide → h.bad u = false → j < h.vl → ixBad h j = true → (∀ i, i < j → ixBad h i = false) →
        ∀ i ∈ indexed, poison i j)
    ∧ (h.ewWide →
        (∀ r, bs = .vs r → h.bad r = true → ∀ i ∈ slides, poison i 0)
        ∧ (h.bad v = true → poison (.vext u a v) 0)
        ∧ (h.bad u = true → poison (.twset u) 0 ∧ ∀ i ∈ plain ++ strided ++ indexed, poison i 0)
        ∧ ((h.bad u || h.bad v || h.bad w) = true → poison (.mchk sel u v w) 0)
        ∧ (h.bad u = false → h.bad v = true → ∀ i ∈ strided, poison i 0))
    ∧ (h.ew = 32 → h.bad u = true → ∀ i ∈ lines, poison i 0)
    ∧ ∀ t : State, s.closesTo t → t.hart.begun = false → (op = .cas → d.val < 31) →
        let terminal : List (Instr × List Nat) :=
          [(.vldsc d u a m, any), (.vstsc d u a m, any), (.vgl d u a m, [32, 64]), (.vsc d u a m, [32, 64]), (.vtake d u a m, [64]),
            (.vread d u a m, [64]), (.vput d u a m, [64]), (.vatom op d u a m, atomWidths op)]
        ∀ i ∈ terminal,
          (t.hart.ew ∉ i.2 → exec i.1 s = (t.inTerm i.1).take (.trap 0x01 0 none))
          ∧ (t.hart.ew ∈ i.2 → t.hart.bad u = true → exec i.1 s = (t.inTerm i.1).take (.trap 0x0E 0 none))
          ∧ (t.hart.ew ∈ i.2 → t.hart.bad u = false → t.hart.detached → j < t.hart.vl → ixBad t.hart j = true →
              (∀ i, i < j → ixBad t.hart i = false) → exec i.1 s = (t.inTerm i.1).take (.trap 0x0E j none))

/-- 09 R198, R199, R201, R203, R204, 03 R74, 14 R314: what a vector instruction with an attached stream does in its own step, shown by `vmv`
and `vmv.xs`. An input that is attached to the register read delivers first, once in a strip: an affine pattern in LOC or PEER its next
elements at base plus the sum of index times stride, a dense fibre its next coordinates and positions, a port the slot that landed
first; fewer than VL elements make VL their number; the instruction then acts on what was delivered. An output that is attached to the
register written takes elements 0 to VL - 1 of the register after the write, which enter the strip buffer as stores to its next addresses,
those that follow one another in an aligned word joined, charged as a vector store. A stream whose width is not EW, an incomplete pattern or a
reserved format makes the instruction illegal before it has any effect. -/
def Obligations.AttachedStreams : Prop :=  ∀ (d a : VIdx) (x : SReg) (m : MIdx) (i : QIdx) (s : State),
    let h := s.hart
    let q := h.regs.q[i]
    let n := q.n.toNat
    let sp : Space := if q.space = 0#2 then .loc else .peer
    let alone := q.att = true ∧ ∀ r : QIdx, r ≠ i → (h.regs.q[r]).att = false
    let clean := ∀ j, j < h.vl → (h.regs.getM m).isBad h.ew j = false
    let affine := q.kind = 1#4 ∧ q.complete = true ∧ q.width = h.ew ∧ (Format.ofCode q.fmt.toNat).isSome = true ∧ q.ahead = []
      ∧ (q.space = 0#2 ∨ q.space = 1#2)
    let k := if q.done then 0 else min h.vl (q.total - n)
    let ea := fun (j : Nat) => q.ea (n + j) (q.i3 (n + j) * q.str 3)
    -- `vmv` acts on the hart as the delivery leaves it, with k elements
    let moves := fun (t : State) (g : Hart) => ∃ r, (g.regs.v[d]).writtenAs r g.ew (g.writes m) (fun j => (g.regs.v[a]).elt g.ew j)
      ∧ exec (.vmv d a m) s = .next (t.goesOn { g with regs := g.regs.setV d r } 4)
    let short := fun (k : Nat) => if k < h.vl then BitVec.ofNat 13 k else h.regs.h.vl
    (h.ewWide → alone → clean → q.vreg = a → q.delivered = false →
      (affine → q.dir = false → ∀ (ps : Nat → List Piece),
        (∀ j, j < k → s.pieces h.who sp .load .stream ⟨true, false, false⟩ (ea j) (h.ew / 8) = .ok (ps j)
          ∧ (readPieces (s.seenByte h.phys) (ps j)).any (·.2) = false) →
        ∃ r, (h.regs.v[a]).writtenAs r h.ew (fun j => j < k) (fun j => ⟨ofBytes ((readPieces (s.seenByte h.phys) (ps j)).map (·.1)), false⟩)
          ∧ moves s { h with regs := { h.regs with
              v := h.regs.v.set a r, h := { h.regs.h with vl := short k }
              q := h.regs.q.set i { q with n := BitVec.ofNat 64 (n + k), done := q.done || decide (q.total ≤ n + k), delivered := true } } })
      ∧ (q.kind = 3#4 → q.lvk = 0#2 → q.pend = false → q.badPos = false → q.done = false → q.ahead = [] → q.width = h.ew → a.val < 31 →
          q.d3.toNat * q.size ≤ q.d5.toNat → q.d5.toNat ≤ q.d6.toNat → q.iw = true ∨ q.d6.toNat ≤ 2 ^ 32 →
          let k := min h.vl (q.d6.toNat - q.d5.toNat)
          let next := q.d5.toNat + k
          let b : VIdx := a + 1
          ∃ r r', (h.regs.v[a]).writtenAs r h.ew (fun j => j < k) (fun j => ⟨q.d5.toNat + j - q.d3.toNat * q.size, false⟩)
            ∧ (h.regs.v[b]).writtenAs r' h.ew (fun j => j < k) (fun j => ⟨q.d5.toNat + j, false⟩)
            ∧ moves s { h with regs := { h.regs with
                v := (h.regs.v.set a r).set b r', h := { h.regs.h with vl := short k }
                q := h.regs.q.set i { q with d5 := BitVec.ofNat 64 next, n := q.n + BitVec.ofNat 64 k
                                             done := decide (q.d6.toNat ≤ next), flt := false, delivered := true } } })
      ∧ (∀ f l y, q.kind = 6#4 → q.width = h.ew → (Format.ofCode q.fmt.toNat).isSome = true → fmtScaled q.format = false →
          s.portLink h i false = some (f, l) → f.state ≠ .stopped → ((f.linkState l).firstSlot fun z => z.st == .held) = none →
          ((f.linkState l).firstSlot fun z => z.st == .landed) = some y → s.portBad = [] → y.x.n ≤ h.vl →
          let t := s.updFabric f.c fun g => { g.updLink l fun ls => ls.updSlot y.no fun z => { z with st := .held } with
            waiting := g.waiting.filter fun w => !(w.1 == h.id) }
          ∃ r, (h.regs.v[a]).writtenAs r h.ew (fun j => j < y.x.n) (fun j => (⟨y.x.data, y.x.scale, y.x.poison, y.x.scaleBad⟩ : VReg).elt h.ew j)
            ∧ moves t { h with regs := { h.regs with
                v := h.regs.v.set a r, h := { h.regs.h with vl := BitVec.ofNat 13 y.x.n }
                q := h.regs.q.set i { q with delivered := true, n := q.n + BitVec.ofNat 64 y.x.n } } }))
    ∧ (h.ewWide → alone → clean → q.vreg = d → affine → q.dir = true → ∀ (ps : Nat → List Piece),
        let charge := (h.vl * h.ew + 511) / 512 * 64
        h.charge + charge ≤ h.capacity →
        (∀ j, j < k → s.pieces h.who sp .store .store ⟨false, true, false⟩ (ea j) (h.ew / 8) = .ok (ps j)) →
        ∃ r, (h.regs.v[d]).writtenAs r h.ew (h.writes m) (fun _ => ⟨(h.s x).toNat % 2 ^ h.ew, h.bad x⟩)
          ∧ ((∀ j, j < k → (r.elt h.ew j).bad = false) → exec (.vmvXs d x m) s = .next (s.goesOn { h with
          charge := h.charge + charge
          buf := h.buf ++ [.store (joinWords ((List.range k).flatMap fun j => cutUnits false false (ps j) (toBytes (h.ew / 8) (r.elt h.ew j).val)))]
          regs := { h.regs with v := h.regs.v.set d r
                                q := h.regs.q.set i { q with n := BitVec.ofNat 64 (n + k), done := q.done || decide (q.total ≤ n + k) } } } 4)))
    ∧ (h.ewWide → q.att = true →
        q.width ≠ h.ew ∨ (q.kind = 1#4 ∨ q.kind = 2#4) ∧ (q.complete = false ∨ (Format.ofCode q.fmt.toNat).isSome = false) →
        let illegal := fun (i : Instr) => exec i s = s.take (.trap 0x01 0 none)
        (q.isInput = true → q.covers a = true → illegal (.vmv d a m) ∧ illegal (.vmvSx x a) ∧ (h.bad x = false → illegal (.vst a x m)))
        ∧ (q.isOutput = true → q.covers d = true → illegal (.vmv d a m) ∧ illegal (.vmvXs d x m) ∧ (h.bad x = false → illegal (.vld d x m))))

/-! ### Tiles -/

/-- 08 R185-R190: with EW the type's width, no stream attached and no poisoned mask bit below VL, `opa` and `ops` leave in tile ad the
panels' sums, set the flags that the elements without poison raise, and change nothing else; an enabled flag traps instead, before any
effect, at the first element in panel order that raises it (the sign of an exact zero that `ops` leaves is log 70); `azero` clears a tile,
`amov` copies one; `arow` and `acol` write the line of a tile that s_b names, 0 past its side, to the active elements below the side;
`awrow` and `awcol` write them back, and nothing past the side. -/
def Obligations.TilesComplete : Prop :=  ∀ (t : OpaT) (d a : AIdx) (x y : VIdx) (c : SReg) (m : MIdx) (s : State), s.hart.detached →
    let h := s.hart
    let side := 2 * (32 / 2 ^ h.pmode.toNat)
    let word := fun (u : Tile) (n : Nat) => (⟨u.data.toNat / 2 ^ (32 * n) % 2 ^ 32, u.poison.getLsbD n⟩ : Elt)
    let line := fun (row : Bool) (i : Nat) => if row then side * (h.s c).toNat + i else side * i + (h.s c).toNat
    let outer := fun (i : Instr) (sub : Bool) =>
      let cells := (List.range (side * side)).map (word h.regs.a[d])
      let panels := (h.vl + side * opaGroup t - 1) / (side * opaGroup t)
      let r := opaPanels h t sub x y m (List.range panels) cells
      let fl := anyFlag (r.2.map fun x => x.2)
      s.doneOrTraps i r.2
        (∃ u, exec i s = .next (s.goesOn { h.orFlags fl with regs := (h.orFlags fl).regs.setA d u } 4)
          ∧ (∀ n, n < side * side → r.1[n]? = some (word u n))
          ∧ ∀ n, side * side ≤ n → n < 4096 → word u n = word h.regs.a[d] n)
    let reads := fun (i : Instr) (row : Bool) =>
      s.writesV i 32 x (fun j => h.writes m j ∧ j < side)
        (fun j => if side ≤ (h.s c).toNat then ⟨0, false⟩ else word h.regs.a[a] (line row j)) 0
    let writes := fun (i : Instr) (row : Bool) =>
      ∃ u : Tile, exec i s = .next (s.goesOn { h with regs := h.regs.setA d u } 4)
        ∧ ∀ n, n < 4096 → word u n =
            match (List.range side).find? fun j => n == line row j && decide (j < h.vl) && (h.regs.getM m).on h.ew j with
            | some j => if side ≤ (h.s c).toNat then word h.regs.a[d] n else (h.regs.v[x]).elt 32 j
            | none => word h.regs.a[d] n
    (h.maskSound m → h.ew = opaWidth t → outer (.opa t d x y m) false ∧ outer (.ops t d x y m) true)
    ∧ exec (.azero d) s = .next (s.goesOn { h with regs := h.regs.setA d Tile.zero } 4)
    ∧ exec (.amov d a) s = .next (s.goesOn { h with regs := h.regs.setA d h.regs.a[a] } 4)
    ∧ (h.maskSound m → h.ew = 32 → h.bad c = false →
        reads (.arow x a c m) true ∧ reads (.acol x a c m) false ∧ writes (.awrow d x c m) true ∧ writes (.awcol d x c m) false)

/-! ### Vector and tile memory -/

/-- 05 R119-R127, 06 R146: a vector load of a hart without attached streams, with EW at least 8 bits, clean mask, base,
stride and indices of active elements, whose active elements are all reachable, writes them: the element at base plus i
times EW, plus i times the stride, or plus the index times EW, in bytes, read newest buffered store first, poisoned when a
byte is (its value is then free, log 10). Nothing else changes but the translation caches, which keep what each GLB or HOST element in
turn has looked up (log 8). `vldff` does the same. -/
def Obligations.VectorLoadsComplete : Prop :=  ∀ (d ix : VIdx) (a st : SReg) (m : MIdx) (ps : Nat → List Piece) (s : State),
    s.hart.detached → s.hart.ewWide → s.hart.maskSound m → s.hart.bad a = false →
    let h := s.hart
    let n := h.ew / 8
    let base := (h.s a).toNat
    let bytes := fun (i : Nat) => readPieces (s.ownByte h) (ps i)
    let loads := fun (i : Instr) (ea : Nat → Nat) =>
      (∀ j, h.writes m j → (s.warmTo m ps j).pieces h.who h.space .load .load ⟨true, false, false⟩ (ea j) n = .ok (ps j)) →
      ∃ v f k, exec i s = .next (State.goesOn { s.warmTo m ps h.vl with draw := k } { h with regs := h.regs.setV d v } 4)
        ∧ (h.regs.v[d]).writtenAs v h.ew (h.writes m) f
        ∧ ((∀ j, h.writes m j → (bytes j).any (·.2) = false) → k = s.draw)
        ∧ ∀ j, h.writes m j → (f j).bad = (bytes j).any (·.2) ∧ ((f j).bad = false → (f j).val = ofBytes ((bytes j).map (·.1)))
    loads (.vld d a m) (fun j => (base + j * n) % 2 ^ 64)
    ∧ loads (.vldff d a m) (fun j => (base + j * n) % 2 ^ 64)
    ∧ (h.bad st = false → loads (.vlds d a st m) (fun j => (h.s a + BitVec.ofNat 64 j * h.s st).toNat))
    ∧ ((∀ j, h.writes m j → ((h.regs.v[ix]).elt h.ew j).bad = false) →
        loads (.vldx d a ix m) (fun j => (base + ((h.regs.v[ix]).elt h.ew j).val * n) % 2 ^ 64))

/-- 05 R127: when the first unreachable active element of a `vldff` is element i above 0, the elements below it are loaded and
VL becomes i; no trap is taken. -/
def Obligations.FirstFaultLoadShortens : Prop :=  ∀ (d : VIdx) (a : SReg) (m : MIdx) (ps : Nat → List Piece) (i c y x : Nat) (s : State),
    s.hart.detached → s.hart.ewWide → s.hart.maskSound m → s.hart.bad a = false → 0 < i → s.hart.writes m i →
    let h := s.hart
    let n := h.ew / 8
    let ea := fun (j : Nat) => ((h.s a).toNat + j * n) % 2 ^ 64
    let piece := fun (j : Nat) => (s.warmTo m ps j).pieces h.who h.space .load .load ⟨true, false, false⟩ (ea j) n
    (∀ j, j < i → h.writes m j → piece j = .ok (ps j) ∧ (readPieces (s.ownByte h) (ps j)).any (·.2) = false) →
    piece i = .error (.bad c y, x) →
    ∃ v, exec (.vldff d a m) s = .next ((s.warmTo m ps i).goesOn { h with regs := { h.regs with
        v := h.regs.v.set d v, h := { h.regs.h with vl := BitVec.ofNat 13 i } } } 4)
      ∧ (h.regs.v[d]).writtenAs v h.ew (fun j => j < i ∧ h.writes m j)
          (fun j => ⟨ofBytes ((readPieces (s.ownByte h) (ps j)).map (·.1)), false⟩)

/-- 05 R119, R122, R126, 01 R28: a vector store under the same conditions enters the strip buffer as one entry with the bytes of its
active elements in rising order, those of a poisoned element under the poison code (free values, log 10), charged 64 bytes for every
64 bytes of VL elements or part of them; no register and no byte of memory changes, the translation caches keep what its elements
have looked up (log 8). One whose charge passes the capacity takes the
strip-capacity trap before any effect, wherever its elements lie (log 69). -/
def Obligations.VectorStoresComplete : Prop :=  ∀ (d ix : VIdx) (a st : SReg) (m : MIdx) (ps : Nat → List Piece) (s : State),
    s.hart.detached → s.hart.ewWide → s.hart.maskSound m → s.hart.bad a = false →
    let h := s.hart
    let data := fun (j : Nat) => (h.regs.v[d]).elt h.ew j
    let n := h.ew / 8
    let base := (h.s a).toNat
    let charge := (h.vl * h.ew + 511) / 512 * 64
    let stores := fun (i : Instr) (ea : Nat → Nat) =>
      (h.charge + charge ≤ h.capacity →
        (∀ j, h.writes m j → (s.warmTo m ps j).pieces h.who h.space .store .store ⟨false, true, false⟩ (ea j) n = .ok (ps j)) →
        ∃ (k : Nat) (bs : Nat → List Byte), exec i s = .next (State.goesOn { s.warmTo m ps h.vl with draw := k } { h with
            charge := h.charge + charge
            buf := h.buf ++ [.store ((h.active m).flatMap fun j => cutUnits (data j).bad (h.regs.h.mtr == 2#2) (ps j) (bs j))] } 4)
          ∧ (∀ j, h.writes m j → (bs j).length = n ∧ ((data j).bad = false → bs j = toBytes n (data j).val))
          ∧ ((∀ j, h.writes m j → (data j).bad = false) → k = s.draw))
      ∧ (h.capacity < h.charge + charge → exec i s = s.take (.trap 0x09 0 none))
    stores (.vst d a m) (fun j => (base + j * n) % 2 ^ 64)
    ∧ (h.bad st = false → stores (.vsts d a st m) (fun j => (h.s a + BitVec.ofNat 64 j * h.s st).toNat))
    ∧ ((∀ j, h.writes m j → ((h.regs.v[ix]).elt h.ew j).bad = false) →
        stores (.vstx d a ix m) (fun j => (base + ((h.regs.v[ix]).elt h.ew j).val * n) % 2 ^ 64))

/-- 08 R190-R194, 01 R28, 09 R201: `ald` reads a whole tile of clean bytes from a resident part of the scratchpad at a multiple of
64, row by row; `ast` of a clean tile enters the strip buffer with a unit of four bytes for each element (log 37) and a charge of 4
bytes each. `aepi` to an affine output stream of its format, without stochastic rounding, traps on an enabled flag at the lowest element
that raises it; else it writes its 2L rows to the stream when the stream has room for them and its addresses lie in the scalar data
memory: each row enters the strip buffer with its elements, those that follow one another in an aligned word joined, each of which holds
the tile element times the scale in s_b's low word, converted, or free bytes under the poison code where the tile element is poisoned
(log 10); the flags of the clean elements are set, the stream moves on by the elements
written, the rows are charged as vector stores, and bit 32 of s_b clears the tile; no byte of memory and no other register changes. -/
def Obligations.TileStoresComplete : Prop :=
  (∀ (d : AIdx) (a : SReg) (s : State),
      let h := s.hart
      let side := 2 * (32 / 2 ^ h.pmode.toNat)
      let x := (h.s a).toNat
      let word := fun (u : Tile) (n : Nat) => (⟨u.data.toNat / 2 ^ (32 * n) % 2 ^ 32, u.poison.getLsbD n⟩ : Elt)
      let byte := fun (i : Nat) => s.ownByte h (.spad h.phys (x + i))
      h.bad a = false → x % 64 = 0 → x + 4 * side * side ≤ 0x200000 →
      (∀ i, i < 4 * side * side → s.resident h.phys (x + i) h.id.ctx h.lsid = true) →
      ((∀ i, i < 4 * side * side → (byte i).2 = false) →
        ∃ u, exec (.ald d a) s = .next (s.goesOn { h with regs := h.regs.setA d u } 4)
          ∧ (∀ n, n < side * side → word u n = ⟨ofBytes ((List.range 4).map fun j => (byte (4 * n + j)).1), false⟩)
          ∧ (∀ n, side * side ≤ n → n < 4096 → word u n = word h.regs.a[d] n))
      ∧ (h.charge + 4 * (side * side) ≤ h.capacity → (∀ n, n < side * side → (word h.regs.a[d] n).bad = false) →
        exec (.ast d a) s = .next (s.goesOn { h with
          charge := h.charge + 4 * (side * side)
          buf := h.buf ++ [.store ((List.range (side * side)).map fun n =>
            ⟨.spad h.phys (x + 4 * n), x + 4 * n, toBytes 4 (word h.regs.a[d] n).val, false, false⟩)] } 4)))
  ∧ (∀ (out : AepiOut) (i32 : Bool) (d : QIdx) (a : AIdx) (b : SReg) (s : State),
      let h := s.hart
      let q := h.regs.q[d]
      let side := 2 * (32 / 2 ^ h.pmode.toNat)
      let w := fmtWidth (epiFormat out)
      let charge := side * ((side * w + 511) / 512 * 64)
      h.regs.h.rmode ≠ 4#3 → h.bad b = false → q.kind = 1#4 → q.dir = true → q.complete = true → q.done = false →
      q.fmt = BitVec.ofNat 5 (epiFormat out).code → q.space = 0#2 →
      q.n.toNat + side * side < min q.total (2 ^ 64) → h.charge + charge ≤ h.capacity →
      let ea := fun (k : Nat) => let j := q.n.toNat + k; q.ea j (q.i3 j * q.str 3)
      let elt := fun (k : Nat) => (⟨h.regs.a[a].data.toNat / 2 ^ (32 * k) % 2 ^ 32, h.regs.a[a].poison.getLsbD k⟩ : Elt)
      let y := fun (k : Nat) => epiElt h out i32 ((h.s b).toNat % 2 ^ 32) h.rnd (elt k).val
      let fl := anyFlag (((List.range (side * side)).filter fun k => !(elt k).bad).map fun k => (y k).2)
      (∀ k, k < side * side → 0x200000 ≤ ea k ∧ ea k + w / 8 ≤ 0x210000 ∧ ea k % 4096 + w / 8 ≤ 4096) →
      s.doneOrTraps (.aepi out i32 d a b) ((List.range (side * side)).map fun k => (k, if (elt k).bad then 0 else (y k).2))
        (∃ (t : State) (bs : Nat → List Byte), exec (.aepi out i32 d a b) s = .next t
        ∧ t.hart.pc = h.pc + 4#64 ∧ t.hart.charge = h.charge + charge
        ∧ t.hart.buf = h.buf ++ (List.range side).map (fun i => .store (joinWords ((List.range side).map fun j =>
            let k := side * i + j
            ⟨.sdm h.phys (ea k - 0x200000), ea k, bs k, (elt k).bad, false⟩)))
        ∧ (∀ k, k < side * side → (bs k).length = w / 8 ∧ ((elt k).bad = false → bs k = toBytes (w / 8) (y k).1))
        ∧ t.hart.regs.q = h.regs.q.set d { q with n := q.n + BitVec.ofNat 64 (side * side) }
        ∧ t.hart.regs.a = (if (h.s b).getLsbD 32 then h.regs.a.set a Tile.zero else h.regs.a)
        ∧ t.hart.regs.h = { h.regs.h with fflags := h.regs.h.fflags ||| (fl &&& 0x00FF#16) }
        ∧ t.hart.regs.s = h.regs.s ∧ t.hart.regs.v = h.regs.v ∧ t.hart.regs.m = h.regs.m
        ∧ t.dev = s.dev ∧ t.host = s.host ∧ t.spad = s.spad ∧ t.sdm = s.sdm ∧ t.others = s.others))

/-- 05 R119, R124, R128-R136, R138-R142, Tables 5-4 and 5-5: with an empty strip open, no stream attached, EW legal, clean mask, indices,
base and data, and every active element aligned in a resident page of the hart's own scratchpad that is not being saved, each
strip-terminal vector instruction completes in one step as a strip of its own (log 66). `vldsc`, `vgl`, `vtake` and `vread` write what
memory holds to the active elements of vd, poisoned when its word is; `vatom` returns the old value of each element and leaves Table
5-4's value there, elements of one address acting in order, and a poisoned word stays as it is; `vstsc`, `vsc` and `vput` store their
elements. `vgl` makes the link set the granules of its elements; `vsc` stores and succeeds where the link holds, writes the success bits
to its mask, and empties the link set; with VL = 0 neither has an effect but the strip's. `vtake` empties the presence bits of its words,
`vput` fills them, `vread` leaves them; these need distinct words in the state they wait for and nothing deferred. No other register,
byte, poison or presence bit changes. -/
def Obligations.HomeAccessesComplete : Prop :=  ∀ (op : AtomOp) (d ix : VIdx) (a : SReg) (m : MIdx) (s : State),
    let h := s.hart
    let n := h.ew / 8
    let ea := fun (j : Nat) => ((h.s a).toNat + ((h.regs.v[ix]).elt h.ew j).val * n) % 2 ^ 64
    let at' := fun (j : Nat) => h.phys * 2 ^ 21 + ea j
    let word := fun (j : Nat) => h.phys * 2 ^ 18 + ea j / 8
    let granule := fun (j : Nat) => Granule.spad h.phys (ea j / 8)
    let old := fun (j : Nat) => s.spad.getN (at' j) n
    let bad := fun (j : Nat) => s.spad.isBad (at' j)
    h.fresh = true → h.buf = [] → h.begun = false → h.got = [] → h.lost = [] → h.pace = 0 →
    h.detached → h.maskSound m → h.bad a = false → h.regs.h.mtr = 0#2 →
    (∀ j, h.writes m j → ((h.regs.v[ix]).elt h.ew j).bad = false ∧ ea j % n = 0 ∧ ea j + n ≤ 0x200000
      ∧ s.resident h.phys (ea j) h.id.ctx h.lsid = true ∧ s.saving (.spad h.phys (ea j)) = false) →
    let last := fun (j : Nat) => ∀ k, j < k → h.writes m k → ea k ≠ ea j
    -- completion: what every one of them leaves
    let done := fun (i : Instr) (fl : FlagSet) (p : State → Prop) =>
      ∃ t, exec i s = .next t
        ∧ t.hart.pc = h.pc + 4#64 ∧ t.hart.hcr.stripn = h.hcr.stripn + 1#64 ∧ t.hart.fresh = true ∧ t.hart.hcr.sstate = 0#3
        ∧ t.hart.regs.s = h.regs.s ∧ t.hart.regs.a = h.regs.a
        ∧ t.hart.regs.h = { h.regs.h with fflags := h.regs.h.fflags ||| (fl &&& 0x00FF#16) }
        ∧ (∀ k : TkIdx, t.hart.tk[k] = h.tk[k] - BitVec.ofNat 16 h.tkPend[k])
        ∧ t.dev = s.dev ∧ t.host = s.host ∧ t.sdm = s.sdm ∧ p t
    -- what a load writes: the active elements of vd, and no memory
    let loads := fun (i : Instr) (p : State → Prop) => done i 0 fun t =>
      (∃ f, (h.regs.v[d]).writtenAs t.hart.regs.v[d] h.ew (h.writes m) f
        ∧ ∀ j, h.writes m j → (f j).bad = bad j ∧ (bad j = false → (f j).val = old j))
      ∧ (∀ r : VIdx, r ≠ d → t.hart.regs.v[r] = h.regs.v[r]) ∧ t.hart.regs.m = h.regs.m ∧ t.spad = s.spad ∧ p t
    -- what a store leaves of the scratchpad, for the elements that `on` selects, with their values
    let stored := fun (t : State) (on : Nat → Prop) (f : Nat → Elt) =>
      (∀ j, h.writes m j → on j → (∀ k, j < k → h.writes m k → on k → ea k ≠ ea j) → (f j).bad = false →
        t.spad.getN (at' j) n = (f j).val % 256 ^ n)
      ∧ (∀ b, (∀ j, h.writes m j → on j → ¬ (at' j ≤ b ∧ b < at' j + n)) → t.spad.get b = s.spad.get b)
      ∧ (∀ b, (∀ j, h.writes m j → on j → at' j / 8 ≠ b / 8) → t.spad.isBad b = s.spad.isBad b)
    let clean := fun (r : VIdx) => ∀ j, h.writes m j → ((h.regs.v[r]).elt h.ew j).bad = false
    let elt := fun (j : Nat) => (h.regs.v[d]).elt h.ew j
    (h.ewWide → s.sc = s.scDone →
      loads (.vldsc d a ix m) (fun t => t.full = s.full ∧ t.hart.links = h.links)
      ∧ done (.vstsc d a ix m) 0 fun t => stored t (fun _ => True) elt ∧ t.hart.regs.v = h.regs.v ∧ t.hart.regs.m = h.regs.m
          ∧ t.full = s.full
          ∧ ∀ j, h.writes m j → (t.spad.isBad (at' j) = true ↔
              if n = 8 then ∃ k, h.writes m k ∧ ea k = ea j ∧ last k ∧ (elt k).bad = true
              else bad j = true ∨ ∃ k, h.writes m k ∧ ea k / 8 = ea j / 8 ∧ (elt k).bad = true))
    ∧ (h.ew ∈ atomWidths op → h.flagsMasked → (op = .cas → d.val < 31 ∧ clean (d + 1)) → clean d →
        ∃ ret : Nat → Nat,
          let new := fun (j : Nat) => atomApply op h.ew (ret j) (elt j).val ((h.regs.v[d + 1]).elt h.ew j).val
          done (.vatom op d a ix m) (anyFlag (((h.active m).filter fun j => !bad j).map fun j => (new j).2)) fun t =>
            (h.regs.v[d]).writtenAs t.hart.regs.v[d] h.ew (h.writes m) (fun j => ⟨ret j, bad j⟩)
            ∧ (∀ r : VIdx, r ≠ d → t.hart.regs.v[r] = h.regs.v[r]) ∧ t.hart.regs.m = h.regs.m ∧ t.full = s.full
            ∧ (∀ b, t.spad.isBad b = s.spad.isBad b)
            ∧ (∀ b, (∀ j, h.writes m j → ¬ (at' j ≤ b ∧ b < at' j + n)) → t.spad.get b = s.spad.get b)
            ∧ ∀ j, h.writes m j →
                (bad j = true → t.spad.getN (at' j) n = old j)
                ∧ (bad j = false →
                  ((∀ k, k < j → h.writes m k → ea k ≠ ea j) → ret j = old j)
                  ∧ (∀ i, i < j → h.writes m i → ea i = ea j → (∀ k, i < k → k < j → h.writes m k → ea k ≠ ea j) →
                      ret j = (new i).1.getD (ret i))
                  ∧ (last j → t.spad.getN (at' j) n = (new j).1.getD (ret j))))
    ∧ (op = .cas → d.val = 31 → exec (.vatom op d a ix m) s =
        (State.inTerm { s with hart := { h with stall := none, stripNs := if h.hcr.sstate = 2#3 then h.stripNs else 0 } }
          (.vatom op d a ix m)).take (.trap 0x01 0 none))
    ∧ (h.ew = 32 ∨ h.ew = 64 →
        loads (.vgl d a ix m) (fun t => t.full = s.full ∧ (h.vl = 0 → t.hart.links = h.links)
          ∧ (0 < h.vl → (∀ l ∈ t.hart.links, l.intact = true)
              ∧ ∀ g, (∃ l ∈ t.hart.links, l.g = g) ↔ ∃ j, h.writes m j ∧ g = granule j))
        ∧ (clean d → done (.vsc d a ix m) 0 fun t =>
            let wins := fun (j : Nat) => s.linkHolds (granule j) = true
            stored t wins elt ∧ t.hart.regs.v = h.regs.v ∧ t.full = s.full
            ∧ (∀ r : MIdx, r ≠ m → t.hart.regs.m[r] = h.regs.m[r])
            ∧ (m ≠ 0 → (h.regs.getM m).writtenAs (t.hart.regs.getM m) (h.writes m) fun j => (s.linkHolds (granule j), false))
            ∧ (h.vl = 0 → t.hart.links = h.links) ∧ (0 < h.vl → t.hart.links = [])))
    ∧ (h.ew = 64 → s.deferred = [] →
        (∀ i j, h.writes m i → h.writes m j → i ≠ j → word i ≠ word j) →
        let mine := fun (w : Nat) => ∃ j, h.writes m j ∧ w = word j
        ((∀ j, h.writes m j → word j ∈ s.full) →
          loads (.vtake d a ix m) (fun t => (∀ w, mine w → w ∉ t.full) ∧ ∀ w, ¬ mine w → (w ∈ t.full ↔ w ∈ s.full))
          ∧ loads (.vread d a ix m) (fun t => t.full = s.full))
        ∧ (clean d → (∀ j, h.writes m j → word j ∉ s.full) → done (.vput d a ix m) 0 fun t =>
            stored t (fun _ => True) elt ∧ t.hart.regs.v = h.regs.v ∧ t.hart.regs.m = h.regs.m
            ∧ (∀ j, h.writes m j → t.spad.isBad (at' j) = false)
            ∧ ∀ w, w ∈ t.full ↔ mine w ∨ w ∈ s.full))

/-! ### Streams and engine commands -/

/-- 09 R197, R200, R202, R203, R208-R210, logs 14, 15, 74, 76: the stream instructions, where their registers are as the rules ask
and their scalar operands clean, change the stream registers they name (and their inputs) as stated and nothing else: attachment, the
end of one (a derived stream releases its inputs), intersection and union, the skip of a fibre of each level kind to the first
coordinate not below the target and of both dense inputs of a derived stream, saving into and restoring from the scalar data memory
every kind but a port, an affine level, an index level, and a fibre. That a restored pattern counts as complete (log 15) and its start is
read again (log 14), and that only kinds 4 and 5 are asked for their inputs (log 76), is the model's choice. -/
def Obligations.StreamsComplete : Prop :=  ∀ (d x y : QIdx) (v : VIdx) (a b c : SReg) (go iw out : Bool) (lv lvk : Fin 4) (cnt size len : BitVec 32) (f : Format)
    (sp : Space) (s : State),
    let h := s.hart
    let q := h.regs.q[d]
    let qx := h.regs.q[x]
    let qy := h.regs.q[y]
    let port := q.kind = 6#4 ∨ q.kind = 7#4
    let derived := q.kind = 4#4 ∨ q.kind = 5#4
    let t := (h.s a).toNat
    let sets := fun (i : Instr) (n : Nat) (r : Regs) => exec i s = .next (s.goesOn { h with regs := r } n)
    let moved := fun (z : Stream) (k unit : Nat) =>
      { z with d5 := BitVec.ofNat 64 k, ahead := z.ahead.filter fun e => decide (unit ≤ e.pos) }
    let skips := fun (z : Stream) (k unit : Nat) =>
      sets (.sskip d a) 4 { h.regs with q := h.regs.q.set d { moved z k unit with done := z.done || decide (z.d6.toNat ≤ k) } }
    let dense := fun (z : Stream) =>
      z.lvk = 0#2 ∧ z.pend = false ∧ z.badPos = false ∧ z.row ≤ z.d5.toNat ∧ z.d5.toNat < z.d6.toNat
    let aim := fun (z : Stream) => min z.d6.toNat (max z.d5.toNat (z.row + t))
    let off := (h.s a).toNat - 0x200000
    let inSdm := (h.s a).toNat % 64 = 0 ∧ 0x200000 ≤ (h.s a).toNat ∧ (h.s a).toNat < 0x210000
    (q.kind ≠ 0#4 → q.att = false → q.cons = false → v.val + q.span ≤ 32 → h.regs.taken d v q.span = false →
      sets (.sbind d v) 4 { h.regs with q := h.regs.q.set d { q with att := true, vreg := v } })
    ∧ (q.kind = 0#4 ∨ q.att = false → sets (.sunbind d) 4 h.regs)
    ∧ (q.att = true → port → sets (.sunbind d) 4 { h.regs with q := h.regs.q.set d { q with att := false, vreg := 0 } })
    ∧ (q.att = true → q.kind = 1#4 ∨ q.kind = 2#4 ∨ q.kind = 3#4 →
        sets (.sunbind d) 4 { h.regs with q := h.regs.q.set d Stream.idle })
    ∧ (q.att = true → derived →
        let r := h.regs.q.set q.qa { h.regs.q[q.qa] with cons := false }
        sets (.sunbind d) 4 { h.regs with q := (r.set q.qb { r[q.qb] with cons := false }).set d Stream.idle })
    ∧ (d ≠ x → d ≠ y → x ≠ y → q.kind = 0#4 → qx.kind = 3#4 → qy.kind = 3#4 → qx.att = false → qy.att = false →
        qx.cons = false → qy.cons = false → qx.iw = qy.iw →
        let made := fun (k : BitVec 4) =>
          let z := { Stream.idle with kind := k, qa := x, qb := y, iw := qx.iw, fmt := if qx.iw then 7#5 else 6#5,
                                      space := qx.space, complete := true }
          { h.regs with q := ((h.regs.q.set x { qx with cons := true }).set y { qy with cons := true }).set d z }
        sets (.sisect d x y) 4 (made 4#4) ∧ sets (.sunite d x y) 4 (made 5#4))
    ∧ (h.bad a = false → q.kind = 3#4 → dense q → skips q (aim q) (aim q))
    ∧ (h.bad a = false → q.kind = 3#4 → q.lvk ≠ 1#2 → q.pend = false → q.badPos = false → q.fin ≤ q.pos →
        sets (.sskip d a) 4 { h.regs with q := h.regs.q.set d { q with done := true } })
    ∧ (∀ (r : Stream) (word : Nat → Nat), h.bad a = false → q.kind = 3#4 → s.fibreStart q = .ok r → r.badPos = false →
        r.d5.toNat < r.d6.toNat →
        (r.lvk = 1#2 → r.d6.toNat ≤ r.len →
          (∀ p, r.d5.toNat ≤ p → p < r.d6.toNat → s.crd r p = .ok ⟨word p, false⟩ ∧ word p < r.size) →
          (∀ p, r.d5.toNat ≤ p → p + 1 < r.d6.toNat → word p < word (p + 1)) →
          ∃ k, r.d5.toNat ≤ k ∧ k ≤ r.d6.toNat ∧ (∀ p, r.d5.toNat ≤ p → p < k → word p < t) ∧ (k < r.d6.toNat → t ≤ word k)
            ∧ skips r k k)
        ∧ (r.lvk = 2#2 → r.row ≤ r.d5.toNat → r.d6.toNat ≤ r.row + r.size →
          (∀ w, r.d5.toNat / 64 ≤ w → w ≤ (r.d6.toNat - 1) / 64 → s.bitWord r w = .ok ⟨word w, false⟩ ∧ word w < 2 ^ 64) →
          ∃ k, aim r ≤ k ∧ k ≤ r.d6.toNat ∧ (∀ p, aim r ≤ p → p < k → (word (p / 64)).testBit (p % 64) = false)
            ∧ (k < r.d6.toNat → (word (k / 64)).testBit (k % 64) = true) ∧ skips r k (k / 64))
        ∧ (r.lvk = 3#2 → r.d5 = r.d3 → r.d6.toNat = r.d3.toNat + 1 → r.d5.toNat < r.len →
          s.crd r r.d5.toNat = .ok ⟨word 0, false⟩ → word 0 < r.size →
          let k := if t ≤ word 0 then r.d5.toNat else r.d6.toNat
          skips r k k))
    ∧ (h.bad a = false → derived → q.qa = x → q.qb = y → d ≠ x → d ≠ y → x ≠ y → dense qx → dense qy →
        let spent := fun (z : Stream) => decide (z.d6.toNat ≤ aim z)
        let ended := if q.kind = 4#4 then spent qx || spent qy else spent qx && spent qy
        sets (.sskip d a) 4 { h.regs with
          q := ((h.regs.q.set x (moved qx (aim qx) (aim qx))).set y (moved qy (aim qy) (aim qy))).set d { q with done := q.done || ended } })
    ∧ (h.bad a = false → ¬ port → inSdm → h.charge + 64 ≤ h.capacity → q.badPos = false →
        exec (.ssave d a) s = .next (s.goesOn
          { h with charge := h.charge + 64, buf := h.buf ++ [.store [⟨.sdm h.phys off, (h.s a).toNat, q.pack, false, false⟩]] } 4))
    ∧ (h.bad a = false → ¬ port → inSdm →
        let bs := (List.range 64).map fun i => s.ownByte h (.sdm h.phys (off + i))
        let r := Stream.unpack (bs.map (·.1))
        (∀ e ∈ bs, e.2 = false) → ofBytes (bs.map (·.1)) % 2 ^ 33 = 0 → r.kind.toNat < 6 →
        (r.kind = 4#4 ∨ r.kind = 5#4 → r.qa ≠ d ∧ r.qb ≠ d) →
        (r.att = true → r.vreg.val + r.span ≤ 32 ∧ h.regs.taken d r.vreg r.span = false) →
        sets (.srest d a) 4 { h.regs with q := h.regs.q.set d r })
    ∧ (¬ port → q.att = false → q.cons = false → h.bad a = false → h.bad b = false →
        -2 ^ 31 ≤ (h.s b).toInt → (h.s b).toInt < 2 ^ 31 →
        let stride := (h.s b).toNat % 2 ^ 32
        let done := fun (z : Stream) => if go then { z with n := 0#64, done := false, complete := true } else z
        let first := { Stream.idle with kind := 1#4, dir := out, fmt := BitVec.ofNat 5 f.code, space := BitVec.ofNat 2 sp.code,
                                        base := h.s a, d3 := cnt.zeroExtend 64, d5 := BitVec.ofNat 64 stride }
        (fmtScaled f = false →
          sets (.saff d a b 0 go cnt f out sp) 16 { h.regs with q := h.regs.q.set d (done first) })
        ∧ (lv ≠ 0 → q.kind = 1#4 ∨ q.kind = 2#4 → sets (.saff d a b lv go cnt f out sp) 16 { h.regs with
            q := h.regs.q.set d (done { q.setLevel lv.val cnt stride with ahead := [] }) }))
    ∧ (q.kind = 1#4 → h.bad a = false →
        let z := { q with kind := 2#4, abase := h.s a, iw := iw, ahead := [] }
        sets (.sidx d a go iw) 16 { h.regs with
          q := h.regs.q.set d (if go then { z with n := 0#64, done := false, complete := true } else z) })
    ∧ (¬ port → q.att = false → q.cons = false → h.bad a = false → h.bad b = false → h.bad c = false →
        (lvk = 0 ∨ lvk = 3 → a = 0) → (lvk = 0 ∨ lvk = 2 → b = 0 ∧ len = 0#32) →
        let n := BitVec.ofNat 64 (size.toNat + 1)
        ∃ z, sets (.sfib d a b lvk iw size len c sp) 16 { h.regs with q := h.regs.q.set d z }
          ∧ z.kind = 3#4 ∧ z.lvk.toNat = lvk.val ∧ z.iw = iw ∧ z.base = h.s a ∧ z.abase = h.s b ∧ z.d3 = h.s c
          ∧ z.d4.toNat = size.toNat * 2 ^ 32 + len.toNat ∧ z.space.toNat = sp.code ∧ z.n = 0#64 ∧ z.done = false
          ∧ z.att = false ∧ z.cons = false ∧ (lvk ≠ 1 → z.pend = false)
          ∧ (lvk = 0 ∨ lvk = 2 → z.d5 = h.s c * n ∧ z.d6 = h.s c * n + n)
          ∧ (lvk = 3 → z.d5 = h.s c ∧ z.d6 = h.s c + 1#64))

/-- 09 R211-R215, 01 R28: `copy`, `coll`, `put.e` and `task.put` with clean operands enter the strip buffer, charged 64 bytes,
with the four words of the instruction and the values of their scalar registers; they go on past 16 bytes, and nothing else
changes before the commit. -/
def Obligations.CommandsComplete : Prop :=  ∀ (d a b : SReg) (form : CopyForm) (es : Fin 4) (w : CmdW1) (sp dp tag : BitVec 32) (kind : CollKind) (fmt : BitVec 5)
    (op : CollOp) (id : BitVec 8) (root pkg : BitVec 16) (s : State),
    let h := s.hart
    h.bad d = false → h.bad a = false → h.bad b = false → h.charge + 64 ≤ h.capacity →
    let enters := fun (i : Instr) (x y : Word) =>
      ∃ w0 w1 w2 w3 : BitVec 32, encode i = [w0.toNat, w1.toNat, w2.toNat, w3.toNat]
        ∧ exec i s = .next (s.goesOn { h with charge := h.charge + 64, buf := h.buf ++ [.cmd ⟨w0, w1, w2, w3, h.s d, x, y⟩] } 16)
    enters (.copy d a b form es w sp dp) (h.s a) (h.s b) ∧ enters (.coll d a b kind w fmt op id root) (h.s a) (h.s b)
    ∧ enters (.putE d a b w tag pkg) (h.s a) (h.s b) ∧ enters (.taskPut d w pkg) 0#64 0#64

/-! ### Steps of the part that are not instructions (95) -/

/-- 16 R366-R369, R380, R381, Tables 16-2 and 16-5: the steps of the speed table, of power, of wear and of DCTL change the
Belfry's registers as stated and nothing else: the clock of a Spire becomes max(600, fused - 25 * (age + live)) MHz; age only
rises; the 17th stretch within 1 ms raises the sag component, 100 ms without one lower it; a limit above 3,200 W is stored as
3,200; power above the limit adds a cap step to every working Spire at the highest speed, 10 ms below 95 % of it remove one from every
Spire that holds one at the lowest speed among these, and a sensor at 105 degrees adds one to every Spire of its Cupola. That the count
of stretches starts again at a step, and the 10 ms at each removal, is the model's reading (log 59); the slope of a wear report is its
input (log 22). -/
def Obligations.PowerStepsComplete : Prop :=  ∀ (p a c slope w : Nat) (v : Word) (temps : List (Nat × Nat)) (s : State),
    let b := s.belfry
    let speed := fun (i : Instr) (f : Speed → Speed) =>
      exec i s = .next { s with belfry := { b with speed := b.speed.map fun x => if x.p = p then f x else x } }
    let mhz := fun (x : Speed) => max 600 (x.fused.toNat - 25 * (x.age.toNat + min 15 (x.sag + x.cap)))
    (s.arg = .nums p a c →
      speed .speedChange (fun x => { x with clk := mhz x })
      ∧ speed .supplyRecovery (fun x => { x with held := false })
      ∧ speed .droopDetect (fun x =>
          let kept := x.recent.filter fun t => decide (s.nstime < t + 1000000000)
          let n := ((s.nstime :: kept).filter fun t => decide (s.nstime < t + 1000000) && decide (x.upAt ≤ t)).length
          if x.held then x
          else if 16 < n then { x with held := true, recent := s.nstime :: kept, sag := min 8 (x.sag + 1), upAt := s.nstime + 1 }
          else { x with held := true, recent := s.nstime :: kept })
      ∧ speed .sagStepDown (fun x =>
          if x.held = false ∧ x.downAt + 100000000 ≤ s.nstime ∧ (∀ t ∈ x.recent.head?, t + 100000000 ≤ s.nstime)
          then { x with sag := x.sag - 1, downAt := s.nstime } else x))
    ∧ (s.arg = .value p v →
        speed .spdAgeWrite (fun x => { x with age := if x.age.ult (v.extractLsb' 32 8) then v.extractLsb' 32 8 else x.age })
        ∧ exec .pwrlimWrite s = .next { s with belfry := { b with pwrlim := BitVec.ofNat 12 (min 3200 (v.toNat % 4096)) } }
        ∧ exec .dctlWrite s = .next { s with dist := { s.dist with en := v.getLsbD 0 } })
    ∧ (s.arg = .power ⟨w, temps⟩ → (∀ t ∈ temps, t.2 < 125) →
        let limit := b.pwrlim.toNat
        let hot := (List.range 32).filter fun d =>
          match temps.find? fun t => t.1 == d with
          | some t => decide (105 ≤ t.2) || (decide (100 ≤ t.2) && b.hot.contains d)
          | none => b.hot.contains d
        let heat := fun (x : Speed) => if hot.contains (x.p / 16) then { x with cap := min 15 (x.cap + 1) } else x
        let after := fun (l : List Speed) (low : Option Nat) =>
          exec .powerMeasurement s = .next { s with belfry := { b with
            pwrnow := BitVec.ofNat 12 (min 4095 w), lowAt := low, hot := hot, speed := l.map heat } }
        (limit < w →
          let top := ((b.speed.filter fun x => !(s.speedOf x.p).ret).map mhz).foldl max 0
          after (b.speed.map fun x =>
            if !(s.speedOf x.p).ret && mhz x == top then { x with cap := min 15 (x.cap + 1) } else x) none)
        ∧ (w ≤ limit → 95 * limit ≤ 100 * w → after b.speed none)
        ∧ (100 * w < 95 * limit → s.nstime < b.lowAt.getD s.nstime + 10000000 → after b.speed (some (b.lowAt.getD s.nstime)))
        ∧ (100 * w < 95 * limit → b.lowAt.getD s.nstime + 10000000 ≤ s.nstime →
          after (b.speed.map fun x =>
            if x.cap ≠ 0 ∧ b.speed.all (fun y => y.cap == 0 || decide (mhz x ≤ mhz y)) = true then { x with cap := x.cap - 1 } else x)
            (some s.nstime)))
    ∧ (s.arg = .wear (.spire p slope) →
        speed .wearPrediction (fun x =>
          let now := x.fused.toNat - 25 * x.age.toNat
          let days := ((now - 1150) / 25 + 1) * slope
          { x with slope := BitVec.ofNat 32 slope
                   eol := if now < 1150 then 0#16 else if slope = 0 ∨ 65534 < days then 0xFFFF#16 else BitVec.ofNat 16 days }))

/-- 16 R373-R377: the steps of the links change the Belfry's records of them as stated and nothing else: a failed flit counts at the end
of the link that sent it, the sixteenth failed replay in a row retrains a Tramontane link, the training ends up or down and what links
that are down hold goes out on their detours, a port's lane retires with its spare switched in, after which held flits go out, a port
that does not switch goes down until it hears a flit or an idle, a flit that failed goes out again behind what its port has sent, a flit
between dies that heads a buffer goes on its way or is delivered in its turn, a duplicate is discarded and one ahead of its turn waits,
an acknowledgement and returned credits free the buffers, a flit that is not acknowledged goes out again on the current route, and the
commands for a package without a route end with code 0x07. What flits carry, and that a flit held back for want of room goes out when
there is room, is the model's choice (log 39). -/
def Obligations.LinkStepsComplete : Prop :=  ∀ (a c d : Nat) (s : State),
    let b := s.belfry
    let tram := fun (i : Instr) (f : Tram → Tram) => exec i s = .next { s with belfry := { b with
      trams := b.trams.map fun x => if (x.a = a ∧ x.b = c) ∨ (x.a = c ∧ x.b = a) then f x else x } }
    let port := fun (i : Instr) (f : Port → Port) => exec i s = .next { s with belfry := { b with
      ports := b.ports.map fun x => if x.n = a then f x else x } }
    let unreach := b.unreach.filter (· != a) ++ (if (b.route a).isSome then [] else [a])
    (s.arg = .nums a c d →
      port .etesianCrcFail (fun x => { x with buf := x.buf.filter (· != (c, d)) ++ x.buf.filter (· == (c, d)) })
      ∧ port .portDownTimeout (fun x => { x with down := x.down || !x.switching })
      ∧ (let spare := fun (x : Port) =>
          if x.n ≠ a ∨ x.switching = false then x
          else if x.bad.getLsbD 4 then { x with switching := false, down := x.down || x.lanes == 0#5 }
          else { x with switching := false, lanes := x.lanes ||| 0x10#5 }
        exec .spareSwitchComplete s = .next { s with belfry := Belfry.sendHeld { b with ports := b.ports.map spare } })
      ∧ port .laneAutoRetire (fun x =>
          if 5 ≤ c ∨ x.bad.getLsbD c then x else
          let lanes := x.lanes &&& ~~~(1#5 <<< c)
          let spare := x.lanes.getLsbD c && !x.lanes.getLsbD 4 && !x.bad.getLsbD 4 && c != 4
          { x with bad := x.bad ||| (1#5 <<< c), lanes := lanes, switching := x.switching || spare
                   down := x.down || (lanes == 0#5 && !x.switching && !spare) })
      ∧ tram .tramontaneCrcFail (fun x =>
          let mine := if x.a = a then x.atA else x.atB
          if x.st ≠ .up then x
          else if 16 ≤ mine.fails then { x with st := .retraining, atA := { x.atA with fails := 0 }, atB := { x.atB with fails := 0 } }
          else if x.a = a then { x with atA := { x.atA with fails := x.atA.fails + 1 } }
          else { x with atB := { x.atB with fails := x.atB.fails + 1 } })
      ∧ (let ended := fun (x : Tram) =>
          if ((x.a = a ∧ x.b = c) ∨ (x.a = c ∧ x.b = a)) ∧ x.st = .retraining then { x with st := if d = 1 then .up else .down } else x
        exec .tramontaneRetrainEnd s = .next { s with belfry := Belfry.resend { b with trams := b.trams.map ended } })
      ∧ ((∃ f ∈ b.unacked, f.pkg = a ∧ f.seq = c) →
          let freed := b.ports.map fun x => { x with buf := x.buf.filter (· != (a, c)) }
          let p := (b.route a).filter fun n => b.carries n && freed.any fun x => x.n == n && decide (x.buf.length < 1024)
          let credit := p.map fun n => ((b.ports.find? fun x => x.n == n).map (·.owed)).getD 0
          exec .e2eResendTimeout s = .next { s with belfry := { b with
            unreach := unreach
            ports := freed.map fun x => if p = some x.n then { x with buf := x.buf ++ [(a, c)], owed := 0 } else x
            unacked := b.unacked.map fun f =>
              if f.pkg = a ∧ f.seq = c then { f with port := p, credit := credit.getD f.credit } else f } })
      ∧ (a ≠ Config.ownPackage → b.route a = none → s.episodes = [] →
          exec .unreachableTimeout s = .next { s with
            cmds := s.cmds.map fun x => if x.targets a = true ∧ x.open = true then { x with st := .ended 7 } else x
            belfry := { b with unreach := unreach } }))
    ∧ (s.arg = .flit (.tramontane a c d) →
        let turn := ((b.tramSeq.find? fun x => x.1 == a && x.2.1 == c).map (·.2.2)).getD 0
        let taken := fun (x y : Nat) => b.updTram x y fun t => t.updEnd x TramEnd.taken
        let gets := fun (z : Belfry) => exec .flitReceive s = .next { s with belfry := z }
        (b.carrier ⟨a, c, d⟩ = none → gets b)
        ∧ ∀ x y, b.carrier ⟨a, c, d⟩ = some (x, y) →
          (y = c → turn = d → gets { taken x y with tramSeq := (a, c, d + 1) :: b.tramSeq.filter fun x => !(x.1 == a && x.2.1 == c) })
          ∧ (y = c → d < turn → gets (taken x y)) ∧ (y = c → turn < d → gets b)
          ∧ (y ≠ c → gets (((taken x y).forward y ⟨a, c, d⟩).getD b)))
    ∧ (∀ port credit,
        let turn := ((b.etSeq.find? fun x => x.1 == a).map (·.2)).getD 0
        let hears := b.ports.any fun x => x.n == port && !x.switching && x.lanes != 0
        let heard := fun (k : Nat) => Belfry.sendHeld { b with ports := b.ports.map fun x =>
          if x.n = port then { x with down := false, buf := x.buf.drop k } else x }
        let owes := fun (z : Belfry) => { z with ports := z.ports.map fun x => if x.n = port then { x with owed := x.owed + 1 } else x }
        let gets := fun (z : Belfry) => exec .flitReceive s = .next { s with belfry := z }
        (s.arg = .flit (.idle port) → if hears then gets (heard 0) else gets b)
        ∧ (s.arg = .flit (.etesian port a c credit (.ack d)) →
          (hears = false → gets b)
          ∧ (hears = true → turn ≠ c → gets (owes (heard credit)))
          ∧ (hears = true → turn = c →
            let z := heard credit
            let freed := Belfry.sendHeld { z with
              unacked := z.unacked.filter fun f => !(f.pkg == a && f.seq == d)
              ports := z.ports.map fun x => { x with buf := x.buf.filter (· != (a, d)) } }
            gets (owes { freed with etSeq := (a, c + 1) :: b.etSeq.filter fun x => x.1 != a }))))

/-- 16 R376-R385, 00 R7, R8, 01 R15, R22: a go of RETCMD while no retirement is in progress stores its fields and ends with the code of
its class: 0x00 with the resource retired, 0x01 for an index or class that does not exist, 0x02 for one retired before, 0x03 for a stack
without a spare row, 0x05 for the last working Spire, 0x06 when its team has no save slot for the freeze, which begins otherwise; a row is
first copied, which changes no byte and poisons words of that row alone (which is free, log 71). A mailbox takes a request while it is not
busy; the request at the head ends with its report signed by the identity key (status 1 when there is none), its image stored or refused,
or its op unknown. An alarm is recorded and acts as its policy says; a reset or the removal of power leaves the reset state, with host
memory and the stored values kept, and boots: the manager cores are released when every stage verifies (that device memory is then empty
and NSTIME 0, and host memory kept, is the model's choice: logs 38, 5). The runtime and firmware write the privileged HCRs of a hart. A
write of a register with RWF fields by the runtime or a team is discarded and counted (log 67); one by the host is discarded and not
counted (log 61). -/
def Obligations.ControlStepsComplete : Prop :=  ∀ (v : Word) (who n : Nat) (r : MgrReg) (lvl : Level) (s : State),
    let b := s.belfry
    let idx := v.toNat / 2 ^ 16 % 2 ^ 16
    let row := v.toNat / 2 ^ 32 % 2 ^ 32
    let stored := { b with retcmd := v &&& 0xFFFFFFFF_FFFF00F0#64 }
    let ends := fun (i : Instr) (code : BitVec 8) (f : Belfry → Belfry) =>
      exec i s = .next { s with belfry := { f stored with retcode := code, retWait := none } }
    let ret := fun (x : Belfry) => { x with speed := x.speed.map fun y => if y.p = idx then { y with ret := true } else y }
    let mgr := who == 1
    let mail := fun (m : Bool) => if m then b.mbMgr else b.mbHost
    let put := fun (x : Belfry) (m : Bool) (y : Mailbox) => if m then { x with mbMgr := y } else { x with mbHost := y }
    let took := fun (i : Instr) => exec i s = .next { s with belfry :=
      { put b mgr { mail mgr with busy := true, op := v.extractLsb' 0 8 } with mbQueue := b.mbQueue ++ [mgr] } }
    let gave := fun (i : Instr) (m : Bool) (y : Mailbox) (status : BitVec 8) => exec i s = .next { s with belfry :=
      { put b m { y with busy := false, status := status } with mbQueue := b.mbQueue.filter (· != m) } }
    let fresh := fun (i : Instr) => ∃ t, exec i s = .next t ∧ t.hart = Hart.reset ∧ t.others = [] ∧ t.dev = Mem.empty
      ∧ t.spad = Mem.empty ∧ t.host = s.host ∧ t.contexts = [] ∧ t.dist = Distributor.reset ∧ t.nstime = 0
      ∧ (t.belfry.booted = true ↔ ∀ k, k < 4 → (t.belfry.stage k).isSome = true) ∧ t.belfry.recovery = !t.belfry.booted
      ∧ t.belfry.inReset = false ∧ t.belfry.stopped = false ∧ t.belfry.almsrc = 0#5 ∧ t.belfry.zeroized = b.zeroized
      ∧ t.belfry.speed.map (fun x => (x.p, x.ret, x.age, x.fused)) = b.speed.map (fun x => (x.p, x.ret, x.age, x.fused))
    (s.arg = .value who v → b.retWait = none → v.getLsbD 0 = true →
      let cls := v.toNat / 16 % 16
      let free := idx < 512 ∧ (s.speedOf idx).ret = false ∧ (∃ q, q < 512 ∧ q ≠ idx ∧ (s.speedOf q).ret = false)
        ∧ (∀ t ∈ s.dist.teams, ∀ q, some q ∈ t.place → q / 16 ≠ idx / 16)
      let gone := idx < 512 ∧ (s.speedOf idx).ret = true ∧ (∀ t ∈ s.dist.teams, ∀ q, some q ∈ t.place → q / 16 ≠ idx / 16)
      (cls = 0 → (512 ≤ idx → ends .retireSpire 1 id) ∧ (idx < 512 → (s.speedOf idx).ret = true → ends .retireSpire 2 id)
        ∧ (free → ends .retireSpire 0 ret)
        ∧ (idx < 512 → (s.speedOf idx).ret = false → (∀ q, q < 512 → q ≠ idx → (s.speedOf q).ret = true) → ends .retireSpire 5 id)
        ∧ (∀ tm ∈ s.dist.teams, idx < 512 → (s.speedOf idx).ret = false → (∃ q, q < 512 ∧ q ≠ idx ∧ (s.speedOf q).ret = false) →
          (∀ y ∈ s.dist.teams, some idx ∈ y.place ↔ y = tm) → s.team tm.task.ctx tm.task.order = some tm → s.dist.teams.count tm = 1 →
          tm.st = .running → tm.freezing = false → tm.preempting = false →
          (s.slotFor tm = false → ends .retireSpire 6 id)
          ∧ (s.slotFor tm = true → ∃ t, exec .retireSpire s = .next t
            ∧ t.belfry.retWait = some ⟨0, idx, 0, [(tm.task.ctx, tm.task.order, true)]⟩)))
      ∧ (cls = 1 → (512 ≤ idx → ends .retireRouter 1 id) ∧ (idx < 512 → idx ∈ b.routers → ends .retireRouter 2 id)
        ∧ (free ∨ gone → idx ∉ b.routers → ends .retireRouter 0 fun x => { ret x with routers := insertNat idx x.routers }))
      ∧ (cls = 2 → (256 ≤ idx ∨ 5 ≤ idx % 8 → ends .retireEtesianLane 1 id)
        ∧ (idx < 256 → idx % 8 < 5 → (∃ x ∈ b.ports, x.n = idx / 8 ∧ x.bad.getLsbD (idx % 8) = true) → ends .retireEtesianLane 2 id)
        ∧ (idx < 256 → idx % 8 < 5 → (∀ x ∈ b.ports, x.n = idx / 8 → x.bad.getLsbD (idx % 8) = false) →
          ends .retireEtesianLane 0 fun x =>
            { x with ports := x.ports.map fun y => if y.n = idx / 8 then y.retire (idx % 8) else y }))
      ∧ (cls = 3 → (64 ≤ idx ∨ idx / 8 = idx % 8 → ends .retireTramontaneLink 1 id)
        ∧ (idx < 64 → idx / 8 ≠ idx % 8 → (∃ x ∈ b.trams,
          ((x.a = idx / 8 ∧ x.b = idx % 8) ∨ (x.a = idx % 8 ∧ x.b = idx / 8)) ∧ x.retired = true) → ends .retireTramontaneLink 2 id)
        ∧ (idx < 64 → idx / 8 ≠ idx % 8 →
          (∀ x ∈ b.trams, (x.a = idx / 8 ∧ x.b = idx % 8) ∨ (x.a = idx % 8 ∧ x.b = idx / 8) → x.retired = false) →
          ends .retireTramontaneLink 0 fun x => Belfry.resend { x with trams := x.trams.map fun y =>
            if (y.a = idx / 8 ∧ y.b = idx % 8) ∨ (y.a = idx % 8 ∧ y.b = idx / 8) then { y with retired := true, st := .down }
            else y }))
      ∧ (cls = 4 → ((∀ x ∈ b.hbm, x.s ≠ idx) → ends .retireHbmRow 1 id)
        ∧ (∀ x, b.hbm.find? (fun y => y.s == idx) = some x →
          (row ∈ x.repaired ∨ row ∈ x.remap → ends .retireHbmRow 2 id)
          ∧ (row ∉ x.repaired → row ∉ x.remap →
            (x.spare = 0 → 4096 ≤ x.remap.length → ends .retireHbmRow 3 id)
            ∧ (x.spare ≠ 0 ∨ x.remap.length < 4096 →
              exec .retireHbmRow s = .next { s with belfry := { stored with retWait := some ⟨4, idx, row, []⟩ } }))))
      ∧ (5 ≤ cls → ends .retireInvalidClass 1 id))
    ∧ (∀ i w ts, s.arg = .nothing → b.retWait = some ⟨4, i, w, ts⟩ →
      ∃ t, exec .retireHbmRow s = .next t
        ∧ t.belfry = { b with retcode := 0, retWait := none, hbm := b.hbm.map fun y =>
            if y.s = i then (if y.spare ≠ 0 then { y with spare := y.spare - 1, repaired := y.repaired ++ [w] }
              else { y with remap := y.remap ++ [w] }) else y }
        ∧ t.host = s.host ∧ t.spad = s.spad ∧ t.sdm = s.sdm ∧ (∀ a, t.dev.get a = s.dev.get a)
        ∧ ∀ k, t.dev.isBad (8 * k) = true ↔
            s.dev.isBad (8 * k) = true
              ∨ (k ∈ Config.badWords s.draw i w ∧ 8 * k < Config.devEnd ∧ stackOf (8 * k) = i ∧ Config.rowOf (8 * k) = w))
    ∧ (s.arg = .value who v → (mail mgr).busy = false →
        (v.toNat % 256 = 1 → took .mailboxReport) ∧ (v.toNat % 256 = 2 → took .mailboxFirmwareUpdate)
        ∧ (v.toNat % 256 ≠ 1 → v.toNat % 256 ≠ 2 → took .mailboxUnassignedOp))
    ∧ (∀ (m : Bool) (q : List Bool), s.arg = .nothing → b.mbQueue = m :: q →
        let img := Config.firmwareImage s.dev.cells ((mail m).nonce.toNat % 2 ^ 64)
        ((mail m).op = 1#8 → b.key = none → gave .mailboxReport m (mail m) 1)
        ∧ (∀ key, (mail m).op = 1#8 → b.key = some key →
          let rep := s.report (mail m).nonce
          exec .mailboxReport s = .next { s with draw := s.draw + 1, belfry :=
            { put b m { mail m with report := rep, sig := MlDsa.sign key rep (asBytes 32 (Config.signRnd s.draw)), busy := false, status := 0 } with
              mbQueue := b.mbQueue.filter (· != m) } })
        ∧ ((mail m).op = 2#8 →
          let good := (List.range 4).all fun k => b.verifies img k
          let z := put b m { mail m with busy := false, status := if good then 0 else 4 }
          exec .mailboxFirmwareUpdate s = .next { s with belfry := { z with
            flash0 := if good && b.flashAct then img else b.flash0, flash1 := if good && !b.flashAct then img else b.flash1
            flashNew := good || b.flashNew, mbQueue := b.mbQueue.filter (· != m) } })
        ∧ ((mail m).op ≠ 1#8 → (mail m).op ≠ 2#8 → gave .mailboxUnassignedOp m (mail m) 2))
    ∧ (s.arg = .alarm n → n < 5 → b.mbQueue = [] →
        let src := b.almsrc ||| (1#5 <<< n)
        let pol := b.almpol.toNat / 4 ^ n % 4
        (pol = 0 → exec .securityAlarm s = .next { s with belfry := { b with almsrc := src } })
        ∧ (pol = 1 → exec .securityAlarm s = .next { s with belfry := { b with almsrc := src, zeroized := true, key := none } })
        ∧ (pol = 2 → ∃ t, exec .securityAlarm s = .next t ∧ t.belfry.inReset = true ∧ t.belfry.zeroized = true ∧ t.belfry.key = none
            ∧ t.belfry.almsrc = src ∧ t.hart = Hart.reset ∧ t.others = [] ∧ t.host = s.host)
        ∧ (pol = 3 → ∃ t, exec .securityAlarm s = .next t ∧ t.belfry = { b with almsrc := src, zeroized := true, key := none, stopped := true }
            ∧ t.host = s.host ∧ t.dist.teams.map (·.task) = s.dist.teams.map (·.task)))
    ∧ fresh .powerRemoval ∧ (b.inReset = false → fresh .packageReset) ∧ (b.inReset = true → exec .packageReset s = .next s)
    ∧ (s.arg = .reg ⟨r, lvl, v⟩ →
        (lvl = .firmware → r = .quantum →
          exec .registerWrite s = .next { s with dist := { s.dist with quantum := v.setWidth 32 } })
        ∧ (lvl = .runtime → r = .tmimg → s.tm.busy = false →
          exec .registerWrite s = .next { s with tm := { s.tm with img := v &&& ~~~0xFFF#64 } })
        ∧ (lvl = .firmware → r = .almstat →
          exec .registerWrite s = .next { s with belfry := { b with almsrc := b.almsrc &&& ~~~v.setWidth 5 } })
        ∧ (lvl = .firmware →
          (r = .dctl → exec .registerWrite s = .next { s with dist := { s.dist with en := v.getLsbD 0 } })
          ∧ (r = .pwrlim →
            exec .registerWrite s = .next { s with belfry := { b with pwrlim := BitVec.ofNat 12 (min 3200 (v.toNat % 4096)) } })
          ∧ (let older := fun (x : Speed) =>
              if x.p = who ∧ x.age.ult (v.extractLsb' 32 8) = true then { x with age := v.extractLsb' 32 8 } else x
            r = .spd who → exec .registerWrite s = .next { s with belfry := { b with speed := b.speed.map older } }))
        ∧ (∀ i num, lvl = .firmware ∨ lvl = .runtime → r = .hcr i num →
          exec .registerWrite s = .next (s.updHart i fun x => { x with hcr :=
            if num = 0x100 then { x.hcr with hphys := v.setWidth 32 }
            else if num = 0x101 then { x.hcr with wdog := v.setWidth 32 }
            else if num = 0x102 then { x.hcr with ptroot := v }
            else if num = 0x103 then { x.hcr with hptroot := v }
            else if num = 0x104 then { x.hcr with tkovf := x.hcr.tkovf && !v.getLsbD 7 }
            else x.hcr }))
        ∧ (r = .fstat who ∨ r = .dctl ∨ r = .spd who ∨ r = .retcmd ∨ r = .pwrlim →
          (lvl = .runtime ∨ lvl = .team →
            exec .registerWrite s = .next { s with belfry := { b with violations := b.violations + 1 } })
          ∧ (lvl = .host → exec .registerWrite s = .next s)))

/-- 12 R278-R291, 09 R219, R222, logs 57, 62: the steps of the distributor: a go latches the binding of its slot; a packet without binding
ends with code 7, a valid one enters the task table, ready when it waits for nothing; ageing counts whole ageing intervals; a team has
expired while its quantum, as QUANTUM stands, has passed; a write of DCANCEL names a task unless a cancel is in progress, which then
takes a waiting task from its table (result 0), leaves a team that runs (2), ends one that does not (0), cancels a completing task whose
decrement waits (0), or finds none (1), and comes before the next completion, acceptance, landing or selection; a finished
team leaves with its harts and credits its successors; a placed team without an image runs at its entry; an episode in which every hart
has arrived ends; a `farm.next` is served. That a team which a freeze takes out counts as running for a cancel (log 62), and that an
episode without an arrival does not end (log 57), is the model's reading. -/
def Obligations.DistributorStepsComplete : Prop :=  ∀ (n ctx order id : Nat) (v : Word) (s : State),
    let d := s.dist
    let up := fun (t : Task) =>
      if t.ready then { t with aged := if d.ageint = 0#32 then 0 else (s.nstime - t.since) / d.ageint.toNat } else t
    let bad7 := fun (x : PktSlot) => { x with code := 7#8, state := 3#2 }
    (∀ x, d.slots[n]? = some x →
      (s.arg = .value n v → v.getLsbD 16 = true → x.state ≠ 1#2 → exec .pktstatGo s =
        .next { s with dist := { d with slots := d.slots.set n { x with state := 1#2, lEn := x.en, lCtx := x.ctxid } } })
      ∧ (s.arg = .packet (.slot n) → d.cBusy = false → d.en = true → x.state = 1#2 →
        (x.lEn = false → exec .taskPacketAccept s = .next { s with dist := { d with slots := d.slots.set n (bad7 x) } })
        ∧ (x.lEn = true → (s.context x.lCtx.toNat).isSome = true → s.validate x.lCtx.toNat x.all = 0 →
            s.packetAway x.lCtx.toNat x.all = false → s.tablesFull x.all = false →
            pktKind x.all = 0 → pkt x.all 7 1 = 0 → d.dying = [] → (∀ y ∈ d.tasks, y.kind = 0) →
            ∃ t y, exec .taskPacketAccept s = .next t ∧ t.dist.slots = d.slots.set n { x with code := 0#8, state := 2#2 }
              ∧ t.dist.accepted = d.accepted + 1 ∧ y ∈ t.dist.tasks ∧ y.order = d.accepted ∧ y.ctx = x.lCtx.toNat
              ∧ y.ready = true ∧ y.handle = pktHandle x.all ∧ y.entry = BitVec.ofNat 64 (pktEntry x.all)
              ∧ t.dist.teams = d.teams ∧ t.hart = s.hart ∧ t.others = s.others ∧ t.dev = s.dev)))
    ∧ exec .ageingStep s = .next { s with dist := { d with
        tasks := d.tasks.map up, teams := d.teams.map fun t => { t with task := up t.task } } }
    ∧ exec .quantumExpiry s = .next { s with dist := { d with teams := d.teams.map fun t =>
        { t with expired := t.st == .running && decide (d.quantum.toNat ≤ s.nstime - t.since) } } }
    ∧ (s.arg = .value n v → exec .dcancel s = .next (if d.cBusy then s else
        { s with dist := { d with cCtx := v.extractLsb' 48 16, cHandle := v.extractLsb' 16 32, cBusy := v.getLsbD 0 } }))
    ∧ (s.arg = .nothing → d.cBusy = true →
        let mine := fun (t : Task) => d.cHandle.toNat != 0 && t.ctx == d.cCtx.toNat && t.handle == d.cHandle.toNat
        let gives := fun (r : BitVec 2) => exec .dcancel s = .next { s with dist := { d with cBusy := false, cResult := r } }
        (∀ t, d.tasks.find? mine = some t → exec .dcancel s = .next { s with dist := { d with
          cBusy := false, cResult := 0#2, tasks := d.tasks.filter fun x => x.order != t.order
          arrivals := d.arrivals.filter fun a => a.watch != t.order, holds := d.holds.filter fun x => x.2 != t.order } })
        ∧ ((∀ t ∈ d.tasks, mine t = false) → ∀ t, d.teams.find? (fun t => mine t.task) = some t →
            (t.st = .running ∨ t.freezing = true → gives 2#2)
            ∧ (t.st ≠ .running → t.freezing = false → (∀ c ∈ s.cmds, ¬ (c.hart.ctx = t.task.ctx ∧ c.hart.team = t.task.order)) →
                s.episodes = [] → (∀ x ∈ d.teams, x.ending = false) →
                ∃ u, exec .dcancel s = .next u ∧ u.dist.cBusy = false ∧ u.dist.cResult = 0#2 ∧ u.dist.tasks = d.tasks
                  ∧ u.team t.task.ctx t.task.order = none))
        ∧ ((∀ t ∈ d.tasks, mine t = false) → (∀ t ∈ d.teams, mine t.task = false) →
            let dies := fun (x : Nat × Nat × List Nat) => d.cHandle.toNat != 0 && x.1 == d.cCtx.toNat && x.2.1 == d.cHandle.toNat
            ((∀ x ∈ d.dying, dies x = false) → gives 1#2)
            ∧ ((∃ x ∈ d.dying, dies x = true) → exec .dcancel s = .next { s with dist := { d with
                cBusy := false, cResult := 0#2, dying := d.dying.filter fun x => !dies x } })))
    ∧ (∀ i ∈ [Instr.taskComplete, .taskPacketAccept, .putELanding, .pkrespRetry, .taskPlacement, .resumePlacement],
        s.cancelPending.dist.cBusy = false ∧ exec i s = exec i s.cancelPending)
    ∧ (s.arg = .nums ctx order id → ∀ t, s.team ctx order = some t →
        (d.cBusy = false → s.finished t = true → t.freezing = false → t.st ≠ .frozen →
          (∀ f ∈ s.flight ++ s.hostOut, ∀ i, f.hart = some i → ¬ (i.ctx = ctx ∧ i.team = order)) →
          ∃ u, exec .taskComplete s = .next u ∧ u.team ctx order = none ∧ (∀ l, u.findHart ⟨ctx, order, l⟩ = none)
            ∧ u.dev = s.dev ∧ u.host = s.host ∧ u.spad = s.spad ∧ u.sdm = s.sdm ∧ u.dist.accepted = d.accepted
            ∧ ∀ h x, t.task.succ = [h] → h ≠ 0 → d.dying = [] → d.tasks = [x] → x.ctx = t.task.ctx → x.handle = h → x.ready = false →
                x.count = 1 → x.kind = 0 → ∃ y ∈ u.dist.tasks, y.order = x.order ∧ y.ready = true ∧ y.count = 0)
        ∧ ((∀ c, s.context ctx = some c → c.cbloglen ≠ 0#32 →
            let log := c.cblog.toNat / 64 * 64
            log + 64 * c.cbloglen.toNat ≤ Config.devEnd →
            s.devFree 512 (log + 64 * (c.cblogseq.toNat % c.cbloglen.toNat)) 64 = .ok ()) → id < 64 → id < t.bars.length → t.st ≠ .frozen → (t.bar id).arrivals ≠ [] → t.nhart ≤ (t.bar id).arrivals.length →
          ∃ u t', exec .episodeComplete s = .next u ∧ u.team ctx order = some t' ∧ t'.bar id = ⟨(t.bar id).episode + 1, []⟩
            ∧ (∀ k, k ≠ id → t'.bar k = t.bar k) ∧ u.spad = s.spad ∧ u.sdm = s.sdm
            ∧ ∀ c, s.context ctx = some c → c.cbloglen ≠ 0#32 →
                ∃ c', u.context ctx = some c' ∧ c'.cblogseq = c.cblogseq + 1#64))
    ∧ (∀ c l x, d.cBusy = false → s.select.2 = some (.place c l) → c.team = none → c.task.image = 0 → s.context c.task.ctx = some x →
        x.launched = none → s.flight = [] → s.frames = [] →
        (∀ x ∈ d.teams, ¬ (x.task.ctx = c.task.ctx ∧ x.task.order = c.task.order)) →
        (∀ h ∈ s.harts, h.hcr.run ≠ 0#2 → ¬ (h.id.ctx = c.task.ctx ∧ h.id.team = c.task.order)) →
        ∃ t tm, exec .taskPlacement s = .next t ∧ t.team c.task.ctx c.task.order = some tm ∧ tm.st = .running
          ∧ tm.since = s.nstime ∧ (∀ x ∈ t.dist.tasks, x.order ≠ c.task.order)
          ∧ ∀ ls p, tm.place[ls]? = some (some p) → ∃ h, t.findHart ⟨c.task.ctx, c.task.order, ls * tm.perSpire⟩ = some h
              ∧ h.pc = c.task.entry ∧ h.phys = p ∧ h.hcr.run = 1#2)
    ∧ (∀ (r : SReg) k tm, s.arg = .hart s.hart.id → (∀ e ∈ s.hart.buf, ∀ x y z, e ≠ .farm x y z) → s.hart.hcr.run = 1#2 → s.hart.hcr.sstate = 0#3 → s.hart.out = false →
        s.hart.takeable = false → s.hart.overdue = false → s.fetch s.hart = .ok (.farmNext r, k) → 1 ≤ r.val → r.val ≤ 30 →
        s.team s.hart.id.ctx s.hart.id.team = some tm →
        let g := tm.farm.next s.hart.id.lhid (s.speedOf s.hart.phys).clk s.hart.nhart
        exec .farmNextServe s = .next (State.goesOn
          (s.updTeam s.hart.id.ctx s.hart.id.team fun t => { t with farm := g.1 })
          ((({ s.hart with claimed := true } : Hart).setS r (BitVec.ofNat 64 g.2.1) false).setS (r + 1) (BitVec.ofNat 64 g.2.2) false) 4))

/-- 01 R29-R33, 04 R105, 05 R128, R140-R141, 08 R193, 09 R198-R199, R216, R217, 13 R293, 14 R316, 15 R350, logs 6, 44, 53: the steps
that end a wait of a hart or act on its strip. A hart that waits at an instruction completes it once its condition holds, as the instruction
itself does: `await`, `tkwait`, a fence, a presence element deferred at its bank, a GLB load, a delivery and a slot of a port, for an attached
register or an `aepi`. A strip that waits commits, the hart then proceeds, the watchdog discards a strip that lasts too long, a request to
leave waiting or not, an element is fetched ahead with the aligned words that it lies in, or taken from such words, its fault held, and
the vector arrays become the team's. When a GLB load has returned (log 6), that these steps end a wait for a slot (log 53) and that arrays
which are away move at one step (log 44) are the model's choices. -/
def Obligations.HartStepsComplete : Prop :=  ∀ (k : Nat) (n : TkIdx) (a : SReg) (d ix : VIdx) (m : MIdx) (off : BitVec 13) (q : QIdx) (j p w : Nat) (s : State),
    let h := s.hart
    let here := { s with hart := { h with stall := none } }
    let waits := fun (c : Stall) (i : Instr) => h.hcr.run = 1#2 ∧ h.hcr.sstate ≠ 1#3 ∧ h.out = false ∧ h.takeable = false
      ∧ h.overdue = false ∧ h.stall = some c ∧ here.fetch here.hart = .ok (i, k)
    let mine := s.arg = .hart h.id
    let same := fun (t : State) => t.hart.regs.s = h.regs.s ∧ t.hart.regs.m = h.regs.m ∧ t.hart.regs.a = h.regs.a
      ∧ t.dev = s.dev ∧ t.host = s.host ∧ t.sdm = s.sdm
    let opened := fun (t : State) => t.hart.pc = h.pc + 4#64 ∧ t.hart.hcr.stripn = h.hcr.stripn + 1#64 ∧ t.hart.fresh = true
      ∧ t.hart.hcr.sstate = 0#3 ∧ t.hart.stall = none
    (mine → waits .tok (.await a) → h.fresh = true → h.buf = [] → (∀ r : TkIdx, h.tkPend[r] = 0) → h.bad a = false →
      (∀ r : TkIdx, (h.s a).getLsbD r.val = true → h.tk[r] ≠ 0#16) →
      ∃ t, exec .awaitComplete s = .next t ∧ opened t ∧ same t ∧ t.spad = s.spad
        ∧ ∀ r : TkIdx, t.hart.tk[r] = if (h.s a).getLsbD r.val then h.tk[r] - 1#16 else h.tk[r])
    ∧ (mine → waits .tok (.tkwait n a) → h.bad a = false →
        let c := (h.s a).toNat % 65536
        h.tkPend[n] + c ≤ h.tk[n].toNat →
        exec .tkwaitSatisfied s = .next (s.goesOn { h with tkPend := h.tkPend.set n (h.tkPend[n] + c) } 4))
    ∧ (mine → waits .mem (.fence .hart) → h.fresh = true → h.buf = [] →
        ∃ t, exec .stripTerminalComplete s = .next t ∧ opened t ∧ same t ∧ t.spad = s.spad)
    ∧ (∀ x, s.arg = .nums p w 0 → s.served p w = some x → x.hart = h.id → h.fresh = true → h.buf = [] → h.detached → h.maskSound m →
        h.bad a = false → h.regs.h.mtr = 0#2 → h.ew = 64 → h.begun = false → h.got = [] → h.pace = 0 → h.away = false → j < 256 → (∀ i, h.writes m i ↔ i = j) →
        ((h.regs.v[ix]).elt 64 j).bad = false →
        let ea := ((h.s a).toNat + ((h.regs.v[ix]).elt 64 j).val * 8) % 2 ^ 64
        ea % 8 = 0 → ea + 8 ≤ 0x200000 → s.resident h.phys ea h.id.ctx h.lsid = true → s.saving (.spad h.phys ea) = false → p = h.phys → w = ea / 8 →
        let at8 := h.phys * 2 ^ 21 + ea
        let served := fun (t : State) => exec .presenceDeferralServe s = .next t ∧ opened t ∧ same t ∧ t.deferred = s.deferred.erase x
        (x = ⟨h.id, p, w, false⟩ → waits .pres (.vtake d a ix m) →
          ∃ t, served t ∧ t.spad = s.spad ∧ t.full = s.full.filter (fun y => y != p * 2 ^ 18 + w)
            ∧ (s.spad.isBad at8 = false → (t.hart.regs.v[d]).elt 64 j = ⟨s.spad.getN at8 8, false⟩))
        ∧ (x = ⟨h.id, p, w, false⟩ → waits .pres (.vread d a ix m) →
          ∃ t, served t ∧ t.spad = s.spad ∧ t.full = s.full
            ∧ (s.spad.isBad at8 = false → (t.hart.regs.v[d]).elt 64 j = ⟨s.spad.getN at8 8, false⟩))
        ∧ (x = ⟨h.id, p, w, true⟩ → waits .pres (.vput d a ix m) → ((h.regs.v[d]).elt 64 j).bad = false →
          ∃ t, served t ∧ t.full = insertNat (p * 2 ^ 18 + w) s.full ∧ t.hart.regs.v = h.regs.v
            ∧ t.spad = s.spad.store at8 (toBytes 8 ((h.regs.v[d]).elt 64 j).val) false))
    ∧ (∀ ps, mine → waits .mem (.ldd true d a off) → h.lateGlb = true → h.bad a = false →
        s.pieces h.who .glb .load .load ⟨true, false, false⟩ (h.s a + off.signExtend 64).toNat 8 = .ok ps →
        let bs := readPieces (s.ownByte h) ps
        bs.any (·.2) = false →
        ∃ t, exec .scalarLoadReturn s = .next t ∧ t.hart = ({ (s.goesOn (h.setS d (BitVec.ofNat 64 (ofBytes (bs.map (·.1)))) false) 4).hart
            with lateGlb := true } : Hart) ∧ t.dev = s.dev ∧ t.spad = s.spad ∧ t.sdm = s.sdm)
    ∧ (∀ i f l x, s.arg = .stream h.id q j → h.waitQ = some q →
        (h.regs.q[q].kind = 6#4 → h.regs.q[q].att = true → h.away = false → waits .slotIn i → here.portLink h q false = some (f, l) → f.state ≠ .stopped →
          ((f.linkState l).firstSlot fun y => y.st == .held) = none → ((f.linkState l).firstSlot fun y => y.st == .landed) = some x →
          ∃ t, exec .streamDelivery s = .next t ∧ t.hart.pc = h.pc ∧ t.hart.stall = none
            ∧ t.hart.regs.q = h.regs.q.set q { h.regs.q[q] with delivered := true, n := h.regs.q[q].n + BitVec.ofNat 64 x.x.n }
            ∧ t.hart.regs.h = { h.regs.h with vl := BitVec.ofNat 13 x.x.n } ∧ t.hart.regs.s = h.regs.s
            ∧ (∀ r : VIdx, r ≠ h.regs.q[q].vreg → t.hart.regs.v[r] = h.regs.v[r]))
        ∧ (h.regs.q[q].kind = 7#4 → waits .slotOut i → (h.regs.q[q].att = true ∨ ∃ y a' w' m', i = .aepi y a' q w' m') → here.portLink h q true = some (f, l) → f.state = .run → f.canReserve l (f.destWaits l) = true →
          exec .slotReservation s = .next (here.updFabric f.c fun y => y.updLink l fun z => z.reserve (some h.id))))
    ∧ (let x := h.regs.q[q]
        let fetched := fun (y : Ahead) => ∃ t, exec .streamFetchAhead s = .next t ∧ t.dev = s.dev ∧ t.spad = s.spad ∧ t.sdm = s.sdm
          ∧ t.hart = { h with regs := { h.regs with q := h.regs.q.set q { x with ahead := x.ahead ++ [y] } } }
        let ea := x.ea j (x.i3 j * x.str 3)
        let access := s.pieces h.who x.sp .load .stream ⟨true, false, false⟩ ea (x.width / 8)
        s.arg = .stream h.id q w → h.hcr.run = 1#2 → h.out = false → h.hcr.sstate = 0#3 → x.kind = 1#4 → x.dir = false →
        x.complete = true → x.done = false → 8 ≤ x.width → x.nextAhead x.n.toNat = j → j < x.total → j < x.n.toNat + 2 * h.vlmax x.width →
        (∀ ps, access = .ok ps → (readPieces (s.seenByte h.phys) ps).any (·.2) = false →
          x.held ea (x.width / 8) = none →
          fetched ⟨false, j, ofBytes ((readPieces (s.seenByte h.phys) ps).map (·.1)), false, none, s.wordsAround x.sp ea (x.width / 8)⟩)
        ∧ (∀ bs, x.held ea (x.width / 8) = some bs → bs.any (·.2) = false →
          fetched ⟨false, j, ofBytes (bs.map (·.1)), false, none, bs.mapIdx fun i e => (ea + i, e)⟩)
        ∧ (∀ c y z, access = .error (.bad c y, z) → x.held ea (x.width / 8) = none →
          fetched ⟨false, j, 0, false, some (c, y, z), []⟩))
    ∧ (mine → h.hcr.run = 1#2 → h.out = false → ∃ t, exec .lazyVectorMove s = .next t ∧ t.hart = { h with away := false }
        ∧ t.vecOwner = (h.phys, h.id.ctx, h.id.team) :: s.vecOwner.filter (fun x => x.1 != h.phys) ∧ t.dev = s.dev ∧ t.spad = s.spad)
    ∧ (mine → h.hcr.run ≠ 0#2 → h.hcr.sstate = 1#3 →
        (h.fresh = false → (∀ e ∈ h.buf, ∃ us, e = .store us ∧ ∀ u ∈ us, s.shut h.phys u = false) →
          ∃ t, exec .stripCommit s = .next t ∧ t.hart.buf = [] ∧ t.hart.fresh = true ∧ t.hart.hcr.sstate = 1#3 ∧ t.hart.pc = h.pc
            ∧ t.hart.opened = h.pc ∧ t.hart.hcr.stripn = h.hcr.stripn + 1#64 ∧ t.hart.charge = 0 ∧ t.hart.regs.s = h.regs.s
            ∧ t.hart.regs.v = h.regs.v ∧ t.hart.regs.h = h.regs.h ∧ t.hart.ckpt = t.hart.regs)
        ∧ (h.fresh = true → s.releasing = false → ∃ t, exec .commitEnd s = .next t
            ∧ t.hart = { h with stall := none, hcr := { h.hcr with sstate := if h.asked then 1#3 else 0#3 } } ∧ t.dev = s.dev ∧ t.spad = s.spad))
    ∧ (mine → h.hcr.run = 1#2 → h.out = false → h.timed = true → h.hcr.wdog ≠ 0#32 →
        h.hcr.wdog.toNat ≤ h.stripNs → h.hcr.tvec ≠ 0#64 → h.inHandler = false →
        ∃ t, exec .stripWatchdog s = .next t ∧ t.hart.pc = h.hcr.tvec ∧ t.hart.inHandler = true ∧ t.hart.hcr.tcause = 0x0A#8
          ∧ t.hart.hcr.tepc = h.opened ∧ t.hart.hcr.tinfo = h.pc ∧ t.hart.buf = [] ∧ t.hart.regs.s = h.ckpt.s
          ∧ t.hart.regs.v = h.ckpt.v ∧ t.hart.regs.h = h.ckpt.h ∧ t.dev = s.dev ∧ t.host = s.host ∧ t.spad = s.spad ∧ t.sdm = s.sdm)

/-- 05 R137, 10 R230-R233, R249, 11 R256-R272, Table 11-6, 16 R372, logs 8, 16, 43: the steps of memory and translation. A restore brings
the page of its owner from its backing and a save takes a dirty page there, at the write of SPSAVE (log 43), or when its backing can be
written; a walk that finds a leaf leaves entries in the TLB of the Spire, in those of the Spires whose misses it ends and in the cache of
its die (log 8), and a faulting one none; an invalidation removes the entries it names by INVVA as it stood at go, ends when no translated
access is left, and what is written while one is in progress is queued; an accepted store reaches its order point and its home (log 16);
the host's accesses perform at their homes and a response gives up a line; a corrected error is counted, and a word that cannot be
corrected is poisoned; the registers of a fault ring are written; a reservation runs out. Memories are taken in canonical form, which
every step keeps. -/
def Obligations.MemoryStepsComplete : Prop :=  ∀ (p page k : Nat) (v : Word) (g : Granule) (f : Frame) (own : Nat × Nat) (x : Flight) (s : State), s.memOk →
    let b := s.backing own.1 own.2 page p
    let inRange := b.1 + 32768 ≤ Config.devEnd ∧ b.2 + 512 ≤ Config.devEnd
    let at0 := p * 2 ^ 21 + page * 32768
    let sets := fun (i : Instr) (t : State) => exec i s = .next t
    let near := fun (a n : Nat) => s.farFrom p (.dev a) n = false
    let saves := fun (i : Instr) =>
      s.frames = [f] → f.key = p * 64 + page → page < 64 → own = (f.ctx, f.lsid) → f.dirty = true → f.resident = true →
        let framed := fun (t : State) (g : Frame) => { t with frames := [g] }
        (s.devFree p b.1 32768 = .ok () → s.devFree p b.2 512 = .ok () → (b.1 + 32768 ≤ b.2 ∨ b.2 + 512 ≤ b.1) →
          ∃ t, sets i t ∧ t.frames = [{ f with dirty := false, save := true, asked := false }] ∧ t.spad = s.spad
            ∧ (∀ j, j < 32768 → t.dev.get (b.1 + j) = s.spad.get (at0 + j))
            ∧ ∀ a, (a < b.1 ∨ b.1 + 32768 ≤ a) → (a < b.2 ∨ b.2 + 512 ≤ a) → t.dev.get a = s.dev.get a)
        ∧ (s.devFree p b.1 32768 = .error .wait → sets i (framed s { f with asked := true }))
        ∧ (∀ line, s.devFree p b.1 32768 = .error (.hold line) → sets i (framed (s.snoop line) { f with asked := true }))
    (s.arg = .nums p page k → page < 64 →
      (s.frames.find? (fun y => y.key == p * 64 + page) = some f → f.restore = some own → (f.dirty && f.resident) = false → inRange →
        near b.1 32768 → near b.2 512 →
        ∃ t, sets .pageRestoreComplete t ∧ t.resident p (page * 32768) own.1 own.2 = true ∧ t.dev = s.dev ∧ t.sdm = s.sdm
          ∧ (∀ i, i < 32768 → t.spad.get (at0 + i) = s.dev.get (b.1 + i))
          ∧ ∀ a, (a < at0 ∨ at0 + 32768 ≤ a) → t.spad.get a = s.spad.get a)
      ∧ (f.asked = true → saves .spsaveComplete)
      ∧ ((∀ y ∈ s.frames, y.key = p * 64 + page → y.asked = true → y.dirty = true → y.resident = false) →
          sets .spsaveComplete { s with frames := s.frames.map fun y =>
            if y.key = p * 64 + page then { y with save := false, asked := false } else y }))
    ∧ (s.arg = .value p v →
        ((∀ y ∈ s.frames, y.key / 64 = p → v.getLsbD (y.key % 64) = true → y.resident = true → y.dirty = false) → sets .spsave s)
        ∧ (v.getLsbD page = true → saves .spsave)
        ∧ (∀ r, s.rings[p]? = some r → r.held = [] →
            sets .fqbaseWrite { s with rings := s.rings.set p { r with base := v &&& ~~~0x1FFF#64 } }
            ∧ sets .fqheadWrite { s with rings := s.rings.set p { r with head := v.setWidth 8 } })
        ∧ (∀ y, s.invs[p]? = some y →
            let kept := v &&& 0x1FFFFF#64
            let gone := fun (t : State) => { t with
              tlb := t.tlb.filter fun e => !(e.matches v.toNat y.va.toNat), nonLeaf := t.nonLeaf.filter fun e => !(e.matches v.toNat y.va.toNat) }
            (y.busy = true → sets .invctlGo { s with invs := s.invs.set p { y with queued := y.queued ++ [v] } })
            ∧ (y.busy = false → v.getLsbD 31 = false → sets .invctlGo { s with invs := s.invs.set p { y with ctl := kept } })
            ∧ (y.busy = false → v.getLsbD 31 = true → sets .invctlGo { gone s with
              invs := s.invs.set p { y with ctl := kept, busy := true, goVa := y.va } })))
    ∧ (∀ y, s.arg = .nums p page k → s.invs[p]? = some y → y.busy = true →
        let gone := { s with tlb := s.tlb.filter fun e => !(e.matches y.ctl.toNat y.goVa.toNat)
                             nonLeaf := s.nonLeaf.filter fun e => !(e.matches y.ctl.toNat y.goVa.toNat) }
        ((∃ h ∈ s.harts, h.translated = true) → sets .invalidationComplete s)
        ∧ ((∀ h ∈ s.harts, h.translated = false) → s.flight = [] →
        (y.queued = [] → sets .invalidationComplete { gone with invs := s.invs.set p { y with busy := false } })
        ∧ (∀ z zs, y.queued = z :: zs → z.getLsbD 31 = true →
            ∃ t, sets .invalidationComplete t ∧ t.invs = s.invs.set p { y with ctl := z &&& 0x1FFFFF#64, queued := zs, goVa := y.va } ∧ t.dev = s.dev)))
    ∧ (∀ host root, s.arg = .walk p k host v → p < 512 → v.toNat < 2 ^ 48 → s.rootOf p k host = some root →
        (∀ e ∈ s.tlb, e.place = .die (p / 64) → e.covers k host v.toNat = false) →
        (∀ l, s.walk p k host root v.toNat = .ok l → ∃ t, sets .translationWalk t ∧ t.dev = s.dev
          ∧ (∀ pl, pl = .spire p ∨ pl = .die (p / 64) ∨ (∃ m ∈ s.misses, ∃ q ∈ m.spires, pl = .spire q ∧ m.die = p / 64 ∧ m.ctx = k
              ∧ m.host = host ∧ l.va ≤ m.page * 4096 ∧ m.page * 4096 < l.va + l.size) → ⟨pl, k, host, l.va, l.size, l.r, l.w, l.x, l.pa⟩ ∈ t.tlb)
          ∧ ∀ m ∈ t.misses, ¬ (m.die = p / 64 ∧ m.ctx = k ∧ m.host = host ∧ m.page = v.toNat / 4096))
        ∧ (s.walk p k host root v.toNat = .error .away → sets .translationWalk s)
        ∧ (∀ e, e ≠ .away → s.walk p k host root v.toNat = .error e → sets .translationWalk { s with misses := s.misses.filter fun m =>
            !(m.die == p / 64 && m.ctx == k && m.host == host && m.page == v.toNat / 4096) }))
    ∧ (∀ u, s.arg = .nums k page p → s.flight[k]? = some x → x.units = [u] →
        (page = 1 → x.level = 0 → (∀ y ∈ s.flight.take k, (y.level == 0 && y.phys == x.phys && y.clash x) = false) →
          sets .storeWrittenAtHome { s with flight := s.flight.eraseIdx k ++ [{ x with level := 1 }] })
        ∧ (∀ a, page = 0 → u.loc = .dev a → s.blocked x = false → x.far s = false → s.hostHolds x.origin u = none →
          let n := u.bytes.length
          let d := s.descOf x.origin.ctx
          ∃ t, sets .storeWrittenAtHome t ∧ t.flight = s.flight.erase x ∧ t.spad = s.spad ∧ t.sdm = s.sdm ∧ t.host = s.host
            ∧ (a % 8 + n ≤ 8 →
                u.log = false ∨ (s.ctxdesc = [] ∧ (a + n ≤ d ∨ d + 8 ≤ a) ∧ s.descWord x.origin 0 / 2 ^ 16 % 2 = 0) →
                t.dev = s.dev.store a u.bytes u.bad)))
    ∧ (∀ a u, s.arg = .nums k page p → s.hostOut[k]? = some x → (∀ y ∈ s.hostOut.take k, y.clash x = false) →
        x.units = [u] → u.loc = .host a → a % 8 + u.bytes.length ≤ 8 →
        sets .hostStoreCompletion { s with hostOut := s.hostOut.eraseIdx k, host := s.host.store a u.bytes u.bad })
    ∧ (∀ y : HostAccess, s.arg = .hostAccess y → y.addr % 64 + y.bytes.length ≤ 64 → y.addr + y.bytes.length ≤ Config.devEnd →
        y.addr < Config.devEnd → s.copying y.addr y.bytes.length = false →
        ∃ t, sets .hostCxlMemAccess t ∧ y.addr / 64 ∈ t.hostLines ∧ t.spad = s.spad ∧ t.host = s.host ∧ t.sdm = s.sdm
          ∧ t.dev = if y.write then s.dev.store y.addr y.bytes y.poison else s.dev)
    ∧ (s.arg = .nums k page p → k ∈ s.backInv → (∀ r ∈ s.rings, r.held = []) → s.overflow = [] → sets .backInvalidateResponse { s with
        backInv := s.backInv.filter fun y => y != k, hostLines := s.hostLines.filter fun y => y != k })
    ∧ (s.arg = .granule g →
        sets .linkReservationExpiry { s with reservations := s.reservations.filter fun r => !(r.g == g && r.left == 0) })
    ∧ sets .hostSnoop s
    ∧ (∀ site, s.arg = .scrub site false →
        ((∀ w, site ≠ .dev w) → sets .patrolScrub { s with belfry := { s.belfry with corrected := s.belfry.corrected + 1 } })
        ∧ (∀ w, site = .dev w →
            let day := fun (l : List Nat) => s.nstime :: l.filter fun t => decide (s.nstime < t + 86400000000000)
            let note := fun (y : Stack) => if y.s = stackOf (8 * w) then { y with ces := day y.ces } else y
            sets .patrolScrub { s with belfry := { s.belfry with hbm := s.belfry.hbm.map note } }))
    ∧ (∀ i r, s.arg = .scrub (.vreg i r k) true → sets .patrolScrub (s.updHart i fun h =>
        { h with regs := h.regs.setV r ((h.regs.v[r]).spoil k) }))
    ∧ (s.arg = .scrub (.spad p k) true → ∃ t, sets .patrolScrub t ∧ t.spad.cells = s.spad.cells ∧ t.dev = s.dev
        ∧ t.spad.isBad (p * 2 ^ 21 + 8 * k) = true ∧ ∀ l ∈ t.hart.links, l.g = .spad p k → l.intact = false)

/-- 09 R211-R214, 13 R299-R311, 10 R233: the steps of the engines. A copy whose byte count is above 2^40, or whose addresses or pitches
are no multiples of its element, ends with code 0x03; a linear copy inside the scalar data memory of a placed or saved logical Spire moves
its bytes and ends with code 0x00, at once or when the runtime answers its parked access; so does a copy of any form, linear,
two-dimensional or transposing, from any space to scratchpads and scalar data memories, and one of at most one word to GLB or HOST; a
command that ended writes its status word and then counts its token; arriving bytes land and count; a verdict of failure ends a command
with code 0x02; a rank joins its episode and a chunk lands. -/
def Obligations.EngineStepsComplete : Prop :=  ∀ (k code : Nat) (v : Word) (c : Cmd) (tm : Team) (s : State), s.memOk →
    let w1 := c.words.w1.toNat
    let base := tm.sdmSpire (c.hart.lhid / tm.perSpire) * 2 ^ 16
    let near := s.farFrom c.phys (.sdm (tm.sdmSpire (c.hart.lhid / tm.perSpire)) 0) 1 = false
    let first := ∀ y ∈ s.cmds, y.hart = c.hart → y.words.lop = c.words.lop → c.k ≤ y.k
    let inSdm := fun (a n : Nat) => 0x200000 ≤ a ∧ a + n ≤ 0x210000
    let ended := fun (t : State) (x : Nat) (n : Nat) => ∃ y ∈ t.cmds, y.k = c.k ∧ y.st = .ended x ∧ y.landed = n
    let same := fun (t : State) => t.dev = s.dev ∧ t.host = s.host ∧ t.spad = s.spad ∧ t.hart.regs = s.hart.regs
    let parked := fun (y : Cmd) => match y.st with
      | .parked n _ => ticketIs v n
      | _ => false
    let n := c.words.b.toNat
    let src := base + (c.words.a.toNat - 0x200000)
    let dst := base + (c.words.d.toNat - 0x200000)
    let plainCopy := near ∧ c.words.w0.toNat % 32 / 8 = 0 ∧ n ≤ 2 ^ 40 ∧ w1 / 2 ^ 19 % 4 = 0 ∧ w1 / 2 ^ 21 % 4 = 0 ∧ c.landed = 0 ∧ c.read = none
      ∧ c.shadow = [] ∧ s.hostOut = [] ∧ inSdm c.words.a.toNat n ∧ inSdm c.words.d.toNat n
      ∧ s.team c.hart.ctx c.hart.team = some tm
    let copied := fun (i : Instr) => ∃ t, exec i s = .next t ∧ ended t 0 n ∧ same t
      ∧ (∀ i, i < n → t.sdm.get (dst + i) = s.sdm.get (src + i))
      ∧ ∀ a, (a < dst ∨ dst + n ≤ a) → t.sdm.get a = s.sdm.get a
    (s.arg = .nums k 0 0 → s.cmds.find? (fun y => y.k == k && y.words.lop == 4 && (y.st == .queued || y.st == .begun)) = some c →
      (∀ y ∈ s.cmds, y.hart = c.hart → y.words.lop = 4 → k ≤ y.k) →
      (c.words.w0.toNat % 32 / 8 = 0 → 2 ^ 40 < n → exec .copyExecute s = .next { s with
        cmds := s.cmds.map fun y => if y.k = k then { y with st := .ended 3 } else y })
      ∧ (plainCopy → copied .copyExecute)
      ∧ (let form := c.words.w0.toNat % 32 / 8
        let e := 2 ^ (c.words.w0.toNat % 8)
        let rows := n % 2 ^ 32
        let cols := n / 2 ^ 32
        let sp := c.words.w2.toNat
        let dp := c.words.w3.toNat
        let a := c.words.a.toNat
        let d := c.words.d.toNat
        let size := if form = 0 then n else rows * cols * e
        let r := fun (i : Nat) => i / (cols * e)
        let q := fun (i : Nat) => i / e % cols
        let from' := fun (i : Nat) => (if form = 0 then a + i else a + r i * sp + q i * e + i % e) % 2 ^ 64
        let to' := fun (i : Nat) =>
          (if form = 0 then d + i else if form = 1 then d + r i * dp + q i * e + i % e else d + q i * dp + r i * e + i % e) % 2 ^ 64
        let aligned := a % e = 0 ∧ d % e = 0 ∧ sp % e = 0 ∧ dp % e = 0
        let plain := (form = 0 → n ≤ 2 ^ 40) ∧ (form ≠ 0 → aligned) ∧ c.landed = 0 ∧ c.read = none ∧ c.shadow = [] ∧ s.hostOut = []
        (form ≠ 0 → ¬ aligned → exec .copyExecute s = .next { s with
          cmds := s.cmds.map fun y => if y.k = k then { y with st := .ended 3 } else y })
        ∧ (∀ src dst : Nat → Loc, plain → c.words.dspace = .loc ∨ c.words.dspace = .peer →
          (∀ i, i < size → s.engHome c.hart c.phys c.words.sspace false (from' i) = .ok (src i)
            ∧ s.engHome c.hart c.phys c.words.dspace true (to' i) = .ok (dst i) ∧ s.saving (dst i) = false ∧ ∀ pa, dst i ≠ .dev pa) →
          (∀ i j, i < size → j < size → dst i = dst j → i = j) →
          ∃ t, exec .copyExecute s = .next t ∧ ended t 0 size ∧ t.hart.regs = s.hart.regs
            ∧ (∀ i, i < size → (t.engineByte (dst i)).1 = (s.engineByte (src i)).1)
            ∧ ∀ l, (∀ i, i < size → dst i ≠ l) → (t.engineByte l).1 = (s.engineByte l).1)
        ∧ (∀ (src : Nat → Loc) (l : Loc), plain → form = 0 → 0 < n → d % 8 + n ≤ 8 →
          (∀ i, i < n → s.engHome c.hart c.phys c.words.sspace false (from' i) = .ok (src i)) →
          s.engHome c.hart c.phys c.words.dspace true d = .ok l →
          let bs := (List.range n).map fun i => s.engineByte (src i)
          let bytes := bs.map (·.1)
          let bad := bs.any (·.2)
          let desc := s.descOf c.hart.ctx
          ∃ t, (∀ pa, l = .dev pa → pa % 8 + n ≤ 8 → s.hostLines = [] → s.ctxdesc = [] → (pa + n ≤ desc ∨ desc + 8 ≤ pa) →
              s.descWord c.origin 0 / 2 ^ 16 % 2 = 0 →
              exec .copyExecute s = .next t ∧ ended t 0 n ∧ t.dev = s.dev.store pa bytes bad ∧ t.host = s.host ∧ t.spad = s.spad)
            ∧ ∀ pa, l = .host pa → pa % 8 + n ≤ 8 →
              exec .copyExecute s = .next t ∧ ended t 0 n ∧ t.host = s.host.store pa bytes bad ∧ t.dev = s.dev ∧ t.spad = s.spad)))
    ∧ (s.arg = .value k v → s.landings = [] → s.cmds.find? parked = some c →
        (c.words.lop = 4 → s.dist.cBusy = false → plainCopy → copied .pkrespRetry)
        ∧ exec .pkrespFail s = .next { s with cmds := s.cmds.map fun y => if y.k = c.k then { y with st := .ended 2 } else y })
    ∧ (s.arg = .nums k 0 0 → s.cmds.find? (fun y => y.k == k) = some c → c.st = .ended code → first → (∀ y ∈ s.dist.teams, y.ending = false) →
        c.hart = s.hart.id → s.hart.hcr.run ≠ 0#2 → s.team c.hart.ctx c.hart.team = some tm → tm.task.n = 0 →
        let status := (if c.words.lop = 7 then 0 else min c.landed (2 ^ 48 - 1)) * 2 ^ 16 + c.words.lop * 256 + code
        ∃ t, exec .commandEnd s = .next t ∧ t.cmds = s.cmds.filter (fun y => y.k != k) ∧ t.dev = s.dev ∧ t.spad = s.spad
          ∧ t.hart = (if w1.testBit 4 then s.hart.token (Fin.ofNat 16 (w1 % 16)) else s.hart)
          ∧ t.sdm = if w1.testBit 5 then s.sdm.store (base + 8 * (w1 / 2 ^ 6 % 2 ^ 13)) (toBytes 8 status) false else s.sdm)
    ∧ (∀ (ctx tag pa : Nat) (addr : Word) (x : Byte) (bad : Bool) (a : Arrival), s.arg = .put ⟨ctx, tag, addr, [x], [bad], none, none⟩ → s.dist.cBusy = false →
        s.arrival tag = some a → a.landed + 1 < a.total → (∀ y ∈ s.heldPuts, y.1.tag ≠ tag) →
        s.translate 512 a.ctx false (((s.context a.ctx).map fun y => y.ptroot.toNat).getD 0) .store ⟨false, true, false⟩ addr.toNat = .ok pa →
        s.farFrom 512 (.dev pa) 1 = false → s.hostLines = [] → s.ctxdesc = [] →
        let d := s.descOf a.ctx
        ∃ t, exec .putELanding s = .next t ∧ t.dist.tasks = s.dist.tasks ∧ t.spad = s.spad
          ∧ t.dist.arrivals = s.dist.arrivals.map (fun y => if y.tag = tag then { y with landed := y.landed + 1 } else y)
          ∧ (pa + 1 ≤ d ∨ d + 8 ≤ pa → s.descWord ⟨a.ctx, 512⟩ 0 / 2 ^ 16 % 2 = 0 → t.dev = s.dev.store pa [x] bad))
    ∧ (∀ (h : Hart) (f : Fabric) (r size : Nat) (w : BitVec 64), s.arg = .nums k 0 0 →
        s.cmds.find? (fun y => y.k == k && y.words.lop == 5 && y.st == .queued) = some c →
        (∀ y ∈ s.cmds, y.hart = c.hart → y.words.lop = 5 → y.st = .queued → k ≤ y.k) →
        s.team c.hart.ctx c.hart.team = some tm → s.findHart c.hart = some h →
        s.activeFabric c.hart.ctx c.hart.team = some f → s.overflow = [] →
        f.collEntry c.words.collId = some w → s.rankOf tm w c.hart.lhid = (some r, size) → 1 < size → s.episodes = [] →
        ∃ t e, exec .collExecute s = .next t ∧ t.episodes = [e] ∧ e.ctx = c.hart.ctx ∧ e.team = c.hart.team ∧ e.id = c.words.collId
          ∧ e.ranks = [⟨r, c.k⟩] ∧ e.result = [] ∧ same t ∧ t.sdm = s.sdm ∧ ∃ y ∈ t.cmds, y.k = k ∧ y.st = .begun)
    ∧ (∀ (ctx team id ep rank dst : Nat) (e : Episode) (bs : List (Byte × Bool)), s.arg = .chunk ctx team id ep rank 0 dst → near → first → c.words.lop = 5 →
        s.episodes.find? (fun y => y.is ctx team id ep) = some e → 0 < s.episodeSize e → s.episodeSize e ≤ e.ranks.length →
        e.parked = [] → e.result[rank]? = some bs →
        (s.rankCmds e (s.episodeSize e)).find? (fun y => y.1 == rank) = some (rank, c) → c.st = .begun → c.landed = 0 →
        s.team c.hart.ctx c.hart.team = some tm → w1 / 2 ^ 21 % 4 = 0 → bs.length ≤ 65536 → inSdm c.words.a.toNat bs.length →
        ∃ t, exec .collChunkArrival s = .next t ∧ ended t 0 bs.length ∧ same t
          ∧ (∀ i, i < bs.length → some (t.sdm.get (src + i)) = bs[i]?.map (·.1))
          ∧ ∀ a, (a < src ∨ src + bs.length ≤ a) → t.sdm.get a = s.sdm.get a)

/-- 14 R315, R316, R326-R328, R331, R336-R340: the steps of a fabric. FCMD.load starts a load in RUN and NONE, FCMD.abort ends
it with status 0x0D, a loaded image that passes its checks drains the old one, and at the quiescent point the banks flip; a
slot in flight lands converted, a delay node fires its strip, and a token lands at a gate or at a token counter. -/
def Obligations.FabricStepsComplete : Prop :=  ∀ (c j : Nat) (f : Fabric) (s : State), s.arg = .nums c j 0 → s.fabric c = some f →
    let now := fun (i : Instr) (p : State → Fabric → Prop) => ∃ t g, exec i s = .next t ∧ t.fabric c = some g ∧ p t g
      ∧ (∀ d, d ≠ c → t.fabric d = s.fabric d) ∧ t.dev = s.dev ∧ t.host = s.host ∧ t.spad = s.spad ∧ t.sdm = s.sdm
    let w := imgLink f.image j
    (f.state = .run ∨ f.state = .none →
      now .fcmdLoad fun _ g => g = { f with state := .loading, load := some ⟨f.fimg.toNat, 1⟩ })
    ∧ (f.state = .loading ∨ f.state = .drain → ∀ l, f.load = some l → l.cause ≠ 0 →
        now .fcmdAbort fun _ g => g = { f with state := if f.image.isEmpty then .none else .run, inact := [], code := 0x0D#8
                                               widx := 0#16, load := if l.cause = 1 then none else some l })
    ∧ (∀ l tm k img, f.state = .loading → f.load = some l → l.cause ≠ 0 → s.cupolaTeam c = some (tm, k) →
        s.loadWords f l (tm.savedFabric k) = .words img → (checkImage (s.fabEnv c tm k) img).1 = 0 →
        now .fabricLoadComplete fun _ g => g.state = .drain ∧ g.inact = img ∧ g.inactAddr = l.addr ∧ g.code = 0#8 ∧ g.widx = 0#16
          ∧ g.image = f.image ∧ g.links = f.links ∧ g.nodes = f.nodes ∧ g.tokens = f.tokens ∧ g.act = f.act)
    ∧ (f.state = .drain → f.quiescent = true →
        now .fabricFlip fun _ g => g.state = .run ∧ g.image = f.inact ∧ g.addr = f.inactAddr ∧ g.act = !f.act ∧ g.inact = []
          ∧ g.load = none ∧ ∀ l ∈ g.links, ∀ x ∈ l.slots, x.st = .free)
    ∧ (∀ y, f.state = .run → ((f.linkState j).firstSlot fun x => x.st == .flying) = some y → epPort (linkDst w) = none →
        now .slotLands fun _ g => g = f.updLink j fun l => l.updSlot y.no fun z => { z with
          st := .landed, x := slotConvert ((linkSfmt w).getD .i8) ((linkDfmt w).getD .i8) y.x })
    ∧ (∀ x l, f.state = .run → s.leaving f = false → j < imgNodes f.image → (f.nodeState j).delay = some x →
        f.termLink j 8 true = some l → f.canReserve l (f.destWaits l) = true →
        now .nodeFire fun _ g => g = (f.updNode j fun _ => { f.nodeState j with delay := none }).updLink l fun y => y.send x)
    ∧ (∀ tk, f.state = .run → f.tokens.find? (fun t => t.link == j) = some tk → tk.bad = false →
        (∀ m t, epOf (linkDst w) = .node m t → nodeKind (imgNode f.image m) = 7 → (f.nodeState m).permits < 65535 →
          now .controlTokenArrival fun _ g => g = { f with
            tokens := f.tokens.erase tk
            nodes := f.nodes.map fun n => if n.node = m then { n with permits := n.permits + 1 } else n })
        ∧ (∀ l k n tm, epOf (linkDst w) = .counter l k n → s.team f.ctx f.team = some tm → k < tm.perSpire → s.hart.hcr.run ≠ 0#2 →
          s.hart.id = ⟨f.ctx, f.team, (f.group * tm.task.n + l) * tm.perSpire + k⟩ →
          ∃ t, exec .controlTokenArrival s = .next t ∧ t.hart = s.hart.token (Fin.ofNat 16 n) ∧ t.dev = s.dev
            ∧ t.spad = s.spad ∧ t.sdm = s.sdm ∧ t.host = s.host))

/-- 15 R344-R363, Tables 15-1 and 15-4: team management. A go of TMCMD while no operation runs stores its fields: op 1 asks every
hart of a live team to leave and stays busy, op 2 writes the image of a frozen team or says in NEED how many pages it takes, op
3 makes it wait for Spires again, op 4 ends a team, ops 5 and 6 restart a hart in OUT or reflect its fault, another op ends
with code 0x0C. A hart that is asked to leave is switched out, a team without harts left freezes, a placed one runs again. That
HSTAT.preempt counts a hart taken out in TERM, and not one at the end of its commit, is the model's reading (log 46). -/
def Obligations.TeamStepsComplete : Prop :=  ∀ (v : Word) (who ctx order : Nat) (tm : Team) (s : State), s.memOk →
    let h := s.hart
    let op := v.toNat / 16 % 16
    let regs := { s.tm with ctxid := v.extractLsb' 48 16, handle := v.extractLsb' 16 32, op := v.extractLsb' 4 4 }
    let t0 := { s with tm := regs }
    let ends := fun (t : State) (c : BitVec 8) => t.tm = { regs with code := c, busy := false }
    let team := fun (t : State) (p : Team → Prop) => ∃ x, t.team tm.task.ctx tm.task.order = some x ∧ p x
    let same := fun (t : State) => t.dev = s.dev ∧ t.host = s.host ∧ t.spad = s.spad
    (s.arg = .value who v → v.getLsbD 0 = true → s.tm.busy = false →
      (op = 0 ∨ 7 ≤ op → exec .tmUnassignedOp s = .next { s with tm := { regs with code := 0x0C#8, busy := false } })
      ∧ (op = 4 → t0.tmTeam = none → exec .tmEnd s = .next { s with tm := { regs with code := 1#8, busy := false } })
      ∧ (op = 4 → t0.tmTeam = some tm → tm.freezing = false → s.cmds = [] → s.landings = [] → s.episodes = [] →
          (∀ x ∈ s.dist.teams, x.ending = false) →
          ∃ t, exec .tmEnd s = .next t ∧ ends t 0#8 ∧ t.team tm.task.ctx tm.task.order = none ∧ same t ∧ t.sdm = s.sdm
            ∧ ∀ l, t.findHart ⟨tm.task.ctx, tm.task.order, l⟩ = none)
      ∧ (t0.liveTeam = some tm →
        (op = 1 → tm.st ≠ .frozen → tm.freezing = false → tm.source = none → s.slotFor tm = true →
          ∃ t, exec .tmFreeze s = .next t ∧ t.tm = { regs with busy := true } ∧ (team t fun x => x.freezing = true) ∧ same t
            ∧ (h.id.ctx = tm.task.ctx → h.id.team = tm.task.order → t.hart = { h with freezeReq := true }))
        ∧ (op = 1 → tm.st = .frozen → exec .tmFreeze s = .next { s with tm := { regs with code := 0#8, busy := false } })
        ∧ (∀ c, op = 2 → tm.st = .frozen → tm.freezing = false → s.context tm.task.ctx = some c →
          let b := s.buildImage tm c
          let at0 := s.tm.img.toNat / 4096 * 4096
          (s.tm.len.toNat < b.length → exec .tmWriteImage s = .next { s with tm :=
            { regs with need := BitVec.ofNat 32 (b.length / 4096), code := 3#8, busy := false } })
          ∧ (b.length ≤ s.tm.len.toNat → s.devFree 512 at0 b.length = .ok () →
            ∃ t, exec .tmWriteImage s = .next t ∧ ends t 0#8 ∧ t.dev = s.dev.store at0 b false ∧ t.spad = s.spad))
        ∧ (op = 3 → s.tm.img.toNat / 4096 = 0 → tm.st = .frozen → tm.freezing = false → tm.groups = [] →
          s.badDesc tm.task.ctx = false →
          (if tm.task.cosched then tm.task.nspire else 1) ≤ ((List.range 512).filter s.unretired).length →
          ∃ t, exec .tmResume s = .next t ∧ ends t 0#8 ∧ (team t fun x => x.st = .switchedOut ∧ x.task.ready = true) ∧ same t
            ∧ t.hart = h)
        ∧ (∀ r, tm.freezing = false → tm.ending = false → h.id = ⟨tm.task.ctx, tm.task.order, s.tm.arg.toNat⟩ →
          h.hcr.run ≠ 0#2 → h.hcr.sstate = 3#3 → h.out = false → h.fault = some r →
          (op = 5 → ∃ t, exec .tmRestart s = .next t ∧ ends t 0#8 ∧ same t ∧ t.hart.fault = none ∧ t.hart.pc = h.pc
            ∧ t.hart.opened = h.pc ∧ t.hart.hcr = { h.hcr with sstate := 0#3 } ∧ t.hart.regs.s = h.regs.s ∧ t.hart.regs.v = h.regs.v
            ∧ t.hart.fresh = true ∧ t.hart.buf = [])
          ∧ (op = 6 → h.hcr.tvec ≠ 0#64 → ∃ t, exec .tmReflect s = .next t ∧ ends t 0#8 ∧ same t ∧ t.hart.fault = none
            ∧ t.hart.pc = h.hcr.tvec ∧ t.hart.inHandler = true ∧ t.hart.fresh = true ∧ t.hart.regs.s = h.regs.s
            ∧ t.hart.hcr = { h.hcr with sstate := 0#3, tcause := BitVec.ofNat 8 r.cause, tepc := h.pc, tinfo := r.info
                                        telem := BitVec.ofNat 13 r.elem }))))
    ∧ (s.arg = .nums ctx order 0 → s.team ctx order = some tm → tm.freezing = true → tm.ending = false → tm.saveSlot = none →
        (∀ ls, ls < tm.task.nspire → s.spireOut tm ls = true) → (∀ c ∈ s.cmds, ¬ (c.hart.ctx = ctx ∧ c.hart.team = order)) →
        (∀ f ∈ s.flight ++ s.hostOut, ∀ i, f.hart = some i → ¬ (i.ctx = ctx ∧ i.team = order)) → s.episodes = [] →
        (∀ f ∈ s.frames, (tm.owns f && f.dirty) = false) → (∀ f ∈ s.fabrics, ¬ (f.ctx = ctx ∧ f.team = order)) →
        ∃ t, exec .freezeComplete s = .next t ∧ same t
          ∧ team t fun x => x.st = .frozen ∧ x.freezing = false ∧ x.frozenAt = s.nstime ∧ ∀ ls, ls < tm.task.nspire → x.spireOf ls = none)
    ∧ (∀ c l, s.dist.cBusy = false → s.select.2 = some (.place c l) → c.team = some tm → tm.source = none → tm.fabric = [] → s.flight = [] →
        (∀ y, s.context c.task.ctx = some y → y.launched = some c.task.order) → tm.st = .switchedOut →
        (∀ y ∈ l, s.hasHarts tm y.1 = true) → (∃ x, s.team c.task.ctx c.task.order = some x) → (∀ f ∈ s.frames, f.resident = false) →
        ∃ t x, exec .resumePlacement s = .next t ∧ t.team c.task.ctx c.task.order = some x ∧ x.st = .running ∧ x.since = s.nstime
          ∧ x.freezing = false ∧ x.cmds = [] ∧ ((∀ p ∈ (tm.setPlace l).place, p.isSome = true) → x.saveSlot = none))
    ∧ (s.arg = .hart h.id → h.hcr.run = 1#2 → h.out = false → h.preemptReq = true → h.fabricReq = false → h.takeable = true →
        (∀ f ∈ s.flight ++ s.hostOut, f.hart ≠ some h.id) →
        (∀ x, s.team h.id.ctx h.id.team = some x → x.preempting = false ∧ x.evict = [] ∧ x.task.cosched = true) →
        ∃ t, exec .hartSwitchOut s = .next t ∧ same t ∧ t.sdm = s.sdm ∧ t.hart.out = true ∧ t.hart.preemptReq = false
          ∧ t.hart.freezeReq = false ∧ t.hart.buf = [] ∧ t.hart.pc = h.opened ∧ t.hart.regs.s = h.ckpt.s ∧ t.hart.regs.v = h.ckpt.v
          ∧ t.hart.tk = h.tk ∧ t.hart.links = []
          ∧ t.hart.hcr = { h.hcr with run := 2#2, sstate := 3#3
                                      preempt := if h.hcr.sstate = 1#3 ∨ h.hcr.preempt = 2#2 then h.hcr.preempt else h.hcr.preempt + 1#2 })
end

