-- ==== Sys2Proof/Laws/Bits.lean ====
section
/-! SUPPORT. Laws of bit fields, by bits. -/
set_option Elab.async false
namespace Sys2Proof.Machine

/-- A bit of a field is a bit of the number. -/
theorem field_testBit (x lo w i : Nat) : (field x lo w).testBit i = (decide (i < w) && x.testBit (lo + i)) := by
  simp [field, Nat.testBit_mod_two_pow, Nat.testBit_div_two_pow, Nat.add_comm]

/-- A replaced field holds the low bits of the value, and every other bit is as before. -/
theorem setField_testBit (x lo w v i : Nat) :
    (setField x lo w v).testBit i = if lo ≤ i ∧ i < lo + w then v.testBit (i - lo) else x.testBit i := by
  have hx : x % 2 ^ lo < 2 ^ lo := Nat.mod_lt _ (by positivity)
  have hlow : 2 ^ lo * (v % 2 ^ w) + x % 2 ^ lo < 2 ^ (lo + w) := by
    have h1 : v % 2 ^ w + 1 ≤ 2 ^ w := Nat.mod_lt _ (by positivity)
    calc _ < 2 ^ lo * (v % 2 ^ w) + 2 ^ lo := by omega
      _ = 2 ^ lo * (v % 2 ^ w + 1) := by ring
      _ ≤ 2 ^ lo * 2 ^ w := Nat.mul_le_mul_left _ h1
      _ = 2 ^ (lo + w) := by rw [Nat.pow_add]
  have e : setField x lo w v = 2 ^ (lo + w) * (x / 2 ^ (lo + w)) + (2 ^ lo * (v % 2 ^ w) + x % 2 ^ lo) := by
    simp only [setField]; ring
  rw [e, Nat.testBit_two_pow_mul_add _ hlow, Nat.testBit_two_pow_mul_add _ hx,
    Nat.testBit_div_two_pow, Nat.testBit_mod_two_pow, Nat.testBit_mod_two_pow]
  by_cases h1 : i < lo
  · have : i < lo + w := by omega
    simp [h1, this, show ¬ lo ≤ i by omega]
  · by_cases h2 : i < lo + w
    · simp [h2, show lo ≤ i by omega, show i - lo < w by omega, show ¬ i < lo by omega]
    · simp [h2, show i - (lo + w) + (lo + w) = i by omega]

/-- A field of the number is read back from where it was put. -/
theorem field_setField_same (x lo w v : Nat) : field (setField x lo w v) lo w = v % 2 ^ w := by
  apply Nat.eq_of_testBit_eq
  intro i
  rw [field_testBit, setField_testBit, Nat.testBit_mod_two_pow]
  by_cases h : i < w <;> simp [h]

/-- A field that does not meet the replaced one is as before. -/
theorem field_setField_other (x lo w v lo' w' : Nat) (h : lo + w ≤ lo' ∨ lo' + w' ≤ lo) :
    field (setField x lo w v) lo' w' = field x lo' w' := by
  apply Nat.eq_of_testBit_eq
  intro i
  rw [field_testBit, setField_testBit, field_testBit]
  by_cases h1 : i < w'
  · simp [h1]; intro h2 h3; omega
  · simp [h1]

end Sys2Proof.Machine
end

