-- ==== Sys2Proof/Laws/Decode.lean ====
section
/-! SUPPORT. Laws of the decoder's parts: fields and words, codes and their values, operands and their fields. -/
set_option Elab.async false
namespace Sys2Proof

/-! ### Words and fields -/

/-- Fields in range are read back from their word. -/
theorem ofWord_word (x : Fields) (h1 : x.major < 64) (h2 : x.d < 32) (h3 : x.a < 32) (h4 : x.b < 32) (h5 : x.f < 2048) :
    Fields.ofWord x.word = x := by
  cases x
  simp only [Fields.ofWord, Fields.word, Fields.mk.injEq] at *
  refine ⟨?_, ?_, ?_, ?_, ?_⟩ <;> omega

/-- A word whose major is not 0x3F is no prefix. -/
theorem word_not_prefix (x : Fields) (h1 : x.major < 63) (h2 : x.d < 32) (h3 : x.a < 32) (h4 : x.b < 32) (h5 : x.f < 2048) :
    isPrefix x.word = false := by
  cases x
  simp only [isPrefix, Fields.word, beq_eq_false_iff_ne] at *
  omega

/-- The prefix word of a long form is a prefix. -/
theorem prefixWord_prefix (x : LongFields) (h1 : x.lop < 64) (h2 : x.pd < 32) (h3 : x.pa < 32) (h4 : x.pb < 32)
    (h5 : x.psub < 32) : isPrefix x.prefixWord = true := by
  cases x
  simp only [isPrefix, LongFields.prefixWord, beq_iff_eq] at *
  omega

/-- Fields in range are read back from the words of a long form. -/
theorem ofWords_prefixWord (x : LongFields) (h1 : x.lop < 64) (h2 : x.pd < 32) (h3 : x.pa < 32) (h4 : x.pb < 32)
    (h5 : x.psub < 32) : LongFields.ofWords x.prefixWord x.w1 x.w2 x.w3 = x := by
  cases x
  simp only [LongFields.ofWords, LongFields.prefixWord, LongFields.mk.injEq, and_true] at *
  refine ⟨?_, ?_, ?_, ?_, ?_⟩ <;> omega

/-! ### Registers, flags and immediates -/

theorem r5_val (x : Fin 32) : r5 x.val = x := by simp [r5]
theorem r3_val (x : Fin 8) : r3 x.val = x := by simp [r3]
theorem r2_val (x : Fin 4) : r2 x.val = x := by simp [r2]
/-- A mask number read from a field with bits above it. -/
theorem r3_add (k : Nat) (x : Fin 8) : r3 (8 * k + x.val) = x := by simp [r3, Fin.ext_iff, Fin.ofNat]
theorem bit_lt (b : Bool) : bit b < 2 := by cases b <;> decide
theorem bit_eq (b : Bool) : (bit b == 1) = b := by cases b <;> rfl

/-- The halves of a 16-bit immediate, b and f, join to it. -/
theorem ofNat16_split (x : BitVec 16) : BitVec.ofNat 16 (x.toNat / 2 ^ 11 * 2 ^ 11 + x.toNat % 2 ^ 11) = x := by
  apply BitVec.eq_of_toNat_eq
  simp only [BitVec.toNat_ofNat]
  omega
/-- The parts of a 26-bit offset join to it. -/
theorem ofNat26_split (x : BitVec 26) :
    BitVec.ofNat 26 (x.toNat / 2 ^ 21 * 2 ^ 21 + x.toNat / 2 ^ 16 % 32 * 2 ^ 16 + x.toNat / 2 ^ 11 % 32 * 2 ^ 11
      + x.toNat % 2 ^ 11) = x := by
  apply BitVec.eq_of_toNat_eq
  simp only [BitVec.toNat_ofNat]
  omega
/-- The halves of a 13-bit offset above a size code join to it. -/
theorem ofNat13_split (x : BitVec 13) (k : Nat) (hk : k < 8) :
    BitVec.ofNat 13 ((x.toNat / 2 ^ 8 * 2 ^ 11 + (x.toNat % 2 ^ 8 * 8 + k)) / 8) = x := by
  apply BitVec.eq_of_toNat_eq
  simp only [BitVec.toNat_ofNat]
  omega
/-- A number below a power of two is read back at that width. -/
theorem ofNat_toNat_add (n k : Nat) (x : BitVec n) : BitVec.ofNat n (2 ^ n * k + x.toNat) = x := by
  apply BitVec.eq_of_toNat_eq
  simp only [BitVec.toNat_ofNat]
  rw [Nat.mul_add_mod, Nat.mod_eq_of_lt x.isLt]
/-- A token counter read from a field with bits above it. -/
theorem tk_add (k : Nat) (x : Fin 16) : Fin.ofNat 16 (16 * k + x.val) = x := by simp [Fin.ext_iff, Fin.ofNat]

/-! ### Operands -/

theorem bop3_enc (o : BOp3) : bop3 o.enc.1 o.enc.2 = some o := by cases o <;> simp [bop3, BOp3.enc, r5]
theorem bop2_enc (o : BOp2) : bop2 o.enc.1 o.enc.2 = some o := by cases o <;> simp [bop2, BOp2.enc, r5]
theorem bopS_enc (o : BOpS) : bopS o.enc.1 o.enc.2 = some o := by cases o <;> simp [bopS, BOpS.enc, r5]
theorem bopB_enc (o : BOpB) : bopB o.enc.1 o.enc.2 = some o := by cases o <;> simp [bopB, BOpB.enc, r5]
theorem BOp3.enc_lt (o : BOp3) : o.enc.1 < 3 ∧ o.enc.2 < 32 := by cases o <;> simp [BOp3.enc] <;> omega
theorem BOp2.enc_lt (o : BOp2) : o.enc.1 < 3 ∧ o.enc.2 < 32 := by cases o <;> (simp [BOp2.enc])
theorem BOpS.enc_lt (o : BOpS) : o.enc.1 < 3 ∧ o.enc.2 < 32 := by cases o <;> (simp [BOpS.enc]; try omega)
theorem BOpB.enc_lt (o : BOpB) : o.enc.1 < 3 ∧ o.enc.2 < 32 := by cases o <;> (simp [BOpB.enc]; try omega)

/-! ### Codes: the value of a code is the value it was made from, and every code is in its field -/

theorem EW.ofCode_code (x : EW) : EW.ofCode x.code = some x := by cases x <;> rfl
theorem EW.code_lt (x : EW) : x.code < 5 := by cases x <;> decide
theorem Space.ofCode_code (x : Space) : Space.ofCode x.code = some x := by cases x <;> rfl
theorem Space.code_lt (x : Space) : x.code < 4 := by cases x <;> decide
theorem Scope.ofCode_code (x : Scope) : Scope.ofCode x.code = some x := by cases x <;> rfl
theorem Scope.code_lt (x : Scope) : x.code < 6 := by cases x <;> decide
theorem IWidth.ofCode_code (x : IWidth) : IWidth.ofCode x.code = some x := by cases x <;> rfl
theorem IWidth.code_lt (x : IWidth) : x.code < 4 := by cases x <;> decide
theorem SFmt.ofCode_code (x : SFmt) : SFmt.ofCode x.code = some x := by cases x <;> rfl
theorem SFmt.code_lt (x : SFmt) : x.code < 2 := by cases x <;> decide
theorem FFmt.ofCode_code (x : FFmt) : FFmt.ofCode x.code = some x := by cases x <;> rfl
theorem FFmt.code_lt (x : FFmt) : x.code < 4 := by cases x <;> decide
theorem F8Fmt.ofCode_code (x : F8Fmt) : F8Fmt.ofCode x.code = some x := by cases x <;> rfl
theorem F8Fmt.code_lt (x : F8Fmt) : x.code < 2 := by cases x <;> decide
theorem CFmt.ofCode_code (x : CFmt) : CFmt.ofCode x.code = some x := by cases x <;> rfl
theorem CFmt.code_lt (x : CFmt) : x.code < 2 := by cases x <;> decide
theorem Format.ofCode_code (x : Format) : Format.ofCode x.code = some x := by cases x <;> rfl
theorem Format.code_lt (x : Format) : x.code < 29 := by cases x <;> decide
theorem AtomOp.ofCode_code (x : AtomOp) : AtomOp.ofCode x.code = some x := by cases x <;> rfl
theorem AtomOp.code_lt (x : AtomOp) : x.code < 12 := by cases x <;> decide
theorem RedGroup.ofCode_code (x : RedGroup) : RedGroup.ofCode x.code = some x := by cases x <;> rfl
theorem RedGroup.code_lt (x : RedGroup) : x.code < 8 := by cases x <;> decide
theorem BflyT.ofCode_code (x : BflyT) : BflyT.ofCode x.code = some x := by cases x <;> rfl
theorem BflyT.code_lt (x : BflyT) : x.code < 4 := by cases x <;> decide
theorem MWidth.ofCode_code (x : MWidth) : MWidth.ofCode x.code = some x := by cases x <;> rfl
theorem MWidth.code_lt (x : MWidth) : x.code < 2 := by cases x <;> decide
theorem OpaT.ofCode_code (x : OpaT) : OpaT.ofCode x.code = some x := by cases x <;> rfl
theorem OpaT.code_lt (x : OpaT) : x.code < 6 := by cases x <;> decide
theorem CopyForm.ofCode_code (x : CopyForm) : CopyForm.ofCode x.code = some x := by cases x <;> rfl
theorem CopyForm.code_lt (x : CopyForm) : x.code < 3 := by cases x <;> decide
theorem CollKind.ofCode_code (x : CollKind) : CollKind.ofCode x.code = some x := by cases x <;> rfl
theorem CollKind.code_lt (x : CollKind) : x.code < 5 := by cases x <;> decide
theorem CollOp.ofCode_code (x : CollOp) : CollOp.ofCode x.code = some x := by cases x <;> rfl
theorem CollOp.code_lt (x : CollOp) : x.code < 5 := by cases x <;> decide
theorem MxFmt.ofCode_code (x : MxFmt) : MxFmt.ofCode x.code = some x := by cases x <;> rfl
theorem MxFmt.code_lt (x : MxFmt) : x.code < 23 := by cases x <;> decide
theorem MxSide.ofCode_code (x : MxSide) : MxSide.ofCode x.code = some x := by cases x <;> rfl
theorem MxSide.code_lt (x : MxSide) : x.code < 12 := by cases x <;> decide
theorem MchkSel.ofCode_code (x : MchkSel) : MchkSel.ofCode x.code = some x := by cases x <;> rfl
theorem MchkSel.code_lt (x : MchkSel) : x.code < 4 := by cases x <;> decide
theorem TwFmt.ofCode_code (x : TwFmt) : TwFmt.ofCode x.code = some x := by cases x <;> rfl
theorem TwFmt.code_lt (x : TwFmt) : x.code < 6 := by cases x <;> decide
theorem AepiOut.ofCode_code (x : AepiOut) : AepiOut.ofCode x.code = some x := by cases x <;> rfl
theorem AepiOut.code_lt (x : AepiOut) : x.code < 14 := by cases x <;> decide

/-! ### The common payload word -/

theorem CmdW1.word_lt (x : CmdW1) : x.word < 2 ^ 23 := by
  have h1 := x.dspace.code_lt
  have h2 := x.sspace.code_lt
  have h3 := x.sidx.isLt
  have h4 := bit_lt x.ston
  have h5 := bit_lt x.tkon
  have h6 := x.tk.isLt
  simp only [CmdW1.word]
  omega

/-- The common payload word decodes to its fields. -/
theorem decW1_word (x : CmdW1) : decW1 x.word = some x := by
  have h1 := x.dspace.code_lt
  have h2 := x.sspace.code_lt
  have h3 := x.sidx.isLt
  have h4 := bit_lt x.ston
  have h5 := bit_lt x.tkon
  have h6 := x.tk.isLt
  have hw := x.word_lt
  have e0 : x.word / 2 ^ 23 = 0 := by omega
  have e1 : x.word / 2 ^ 21 % 4 = x.dspace.code := by simp only [CmdW1.word]; omega
  have e2 : x.word / 2 ^ 19 % 4 = x.sspace.code := by simp only [CmdW1.word]; omega
  have e3 : x.word / 64 = 2 ^ 13 * (x.dspace.code * 4 + x.sspace.code) + x.sidx.toNat := by simp only [CmdW1.word]; omega
  have e4 : x.word / 32 % 2 = bit x.ston := by simp only [CmdW1.word]; omega
  have e5 : x.word / 16 % 2 = bit x.tkon := by simp only [CmdW1.word]; omega
  have e6 : x.word = 16 * (x.word / 16) + x.tk.val := by simp only [CmdW1.word]; omega
  have e7 : Fin.ofNat 16 x.word = x.tk := by rw [e6]; exact tk_add _ _
  simp only [decW1, e0, e1, e2, e3, e4, e5, e7, Space.ofCode_code, ofNat_toNat_add, bit_eq]
  rfl

end Sys2Proof
end

