-- ==== Sys2Proof/Laws/Dispatch.lean ====
section
/-! SUPPORT. `exec` of each constructor is its meaning. -/
set_option Elab.async false
namespace Sys2Proof.Machine
@[simp] theorem exec_add x0 x1 x2 (s : State) : exec (.add x0 x1 x2) s = Sys2Proof.Machine.execAdd x0 x1 x2 s := rfl
@[simp] theorem exec_sub x0 x1 x2 (s : State) : exec (.sub x0 x1 x2) s = Sys2Proof.Machine.execSub x0 x1 x2 s := rfl
@[simp] theorem exec_and x0 x1 x2 (s : State) : exec (.and x0 x1 x2) s = Sys2Proof.Machine.execAnd x0 x1 x2 s := rfl
@[simp] theorem exec_or x0 x1 x2 (s : State) : exec (.or x0 x1 x2) s = Sys2Proof.Machine.execOr x0 x1 x2 s := rfl
@[simp] theorem exec_xor x0 x1 x2 (s : State) : exec (.xor x0 x1 x2) s = Sys2Proof.Machine.execXor x0 x1 x2 s := rfl
@[simp] theorem exec_sll x0 x1 x2 (s : State) : exec (.sll x0 x1 x2) s = Sys2Proof.Machine.execSll x0 x1 x2 s := rfl
@[simp] theorem exec_srl x0 x1 x2 (s : State) : exec (.srl x0 x1 x2) s = Sys2Proof.Machine.execSrl x0 x1 x2 s := rfl
@[simp] theorem exec_sra x0 x1 x2 (s : State) : exec (.sra x0 x1 x2) s = Sys2Proof.Machine.execSra x0 x1 x2 s := rfl
@[simp] theorem exec_slt x0 x1 x2 (s : State) : exec (.slt x0 x1 x2) s = Sys2Proof.Machine.execSlt x0 x1 x2 s := rfl
@[simp] theorem exec_sltu x0 x1 x2 (s : State) : exec (.sltu x0 x1 x2) s = Sys2Proof.Machine.execSltu x0 x1 x2 s := rfl
@[simp] theorem exec_seq x0 x1 x2 (s : State) : exec (.seq x0 x1 x2) s = Sys2Proof.Machine.execSeq x0 x1 x2 s := rfl
@[simp] theorem exec_min x0 x1 x2 (s : State) : exec (.min x0 x1 x2) s = Sys2Proof.Machine.execMin x0 x1 x2 s := rfl
@[simp] theorem exec_max x0 x1 x2 (s : State) : exec (.max x0 x1 x2) s = Sys2Proof.Machine.execMax x0 x1 x2 s := rfl
@[simp] theorem exec_minu x0 x1 x2 (s : State) : exec (.minu x0 x1 x2) s = Sys2Proof.Machine.execMinu x0 x1 x2 s := rfl
@[simp] theorem exec_maxu x0 x1 x2 (s : State) : exec (.maxu x0 x1 x2) s = Sys2Proof.Machine.execMaxu x0 x1 x2 s := rfl
@[simp] theorem exec_clz x0 x1 (s : State) : exec (.clz x0 x1) s = Sys2Proof.Machine.execClz x0 x1 s := rfl
@[simp] theorem exec_ctz x0 x1 (s : State) : exec (.ctz x0 x1) s = Sys2Proof.Machine.execCtz x0 x1 s := rfl
@[simp] theorem exec_popc x0 x1 (s : State) : exec (.popc x0 x1) s = Sys2Proof.Machine.execPopc x0 x1 s := rfl
@[simp] theorem exec_mul x0 x1 x2 (s : State) : exec (.mul x0 x1 x2) s = Sys2Proof.Machine.execMul x0 x1 x2 s := rfl
@[simp] theorem exec_mulh x0 x1 x2 (s : State) : exec (.mulh x0 x1 x2) s = Sys2Proof.Machine.execMulh x0 x1 x2 s := rfl
@[simp] theorem exec_mulhu x0 x1 x2 (s : State) : exec (.mulhu x0 x1 x2) s = Sys2Proof.Machine.execMulhu x0 x1 x2 s := rfl
@[simp] theorem exec_mulhsu x0 x1 x2 (s : State) : exec (.mulhsu x0 x1 x2) s = Sys2Proof.Machine.execMulhsu x0 x1 x2 s := rfl
@[simp] theorem exec_div x0 x1 x2 (s : State) : exec (.div x0 x1 x2) s = Sys2Proof.Machine.execDiv x0 x1 x2 s := rfl
@[simp] theorem exec_divu x0 x1 x2 (s : State) : exec (.divu x0 x1 x2) s = Sys2Proof.Machine.execDivu x0 x1 x2 s := rfl
@[simp] theorem exec_rem x0 x1 x2 (s : State) : exec (.rem x0 x1 x2) s = Sys2Proof.Machine.execRem x0 x1 x2 s := rfl
@[simp] theorem exec_remu x0 x1 x2 (s : State) : exec (.remu x0 x1 x2) s = Sys2Proof.Machine.execRemu x0 x1 x2 s := rfl
@[simp] theorem exec_addi x0 x1 x2 (s : State) : exec (.addi x0 x1 x2) s = Sys2Proof.Machine.execAddi x0 x1 x2 s := rfl
@[simp] theorem exec_slli x0 x1 x2 (s : State) : exec (.slli x0 x1 x2) s = Sys2Proof.Machine.execSlli x0 x1 x2 s := rfl
@[simp] theorem exec_srli x0 x1 x2 (s : State) : exec (.srli x0 x1 x2) s = Sys2Proof.Machine.execSrli x0 x1 x2 s := rfl
@[simp] theorem exec_srai x0 x1 x2 (s : State) : exec (.srai x0 x1 x2) s = Sys2Proof.Machine.execSrai x0 x1 x2 s := rfl
@[simp] theorem exec_andi x0 x1 x2 (s : State) : exec (.andi x0 x1 x2) s = Sys2Proof.Machine.execAndi x0 x1 x2 s := rfl
@[simp] theorem exec_ori x0 x1 x2 (s : State) : exec (.ori x0 x1 x2) s = Sys2Proof.Machine.execOri x0 x1 x2 s := rfl
@[simp] theorem exec_lui x0 x1 (s : State) : exec (.lui x0 x1) s = Sys2Proof.Machine.execLui x0 x1 s := rfl
@[simp] theorem exec_ldb x0 x1 x2 x3 (s : State) : exec (.ldb x0 x1 x2 x3) s = Sys2Proof.Machine.execLdb x0 x1 x2 x3 s := rfl
@[simp] theorem exec_ldh x0 x1 x2 x3 (s : State) : exec (.ldh x0 x1 x2 x3) s = Sys2Proof.Machine.execLdh x0 x1 x2 x3 s := rfl
@[simp] theorem exec_ldw x0 x1 x2 x3 (s : State) : exec (.ldw x0 x1 x2 x3) s = Sys2Proof.Machine.execLdw x0 x1 x2 x3 s := rfl
@[simp] theorem exec_ldd x0 x1 x2 x3 (s : State) : exec (.ldd x0 x1 x2 x3) s = Sys2Proof.Machine.execLdd x0 x1 x2 x3 s := rfl
@[simp] theorem exec_ldbu x0 x1 x2 x3 (s : State) : exec (.ldbu x0 x1 x2 x3) s = Sys2Proof.Machine.execLdbu x0 x1 x2 x3 s := rfl
@[simp] theorem exec_ldhu x0 x1 x2 x3 (s : State) : exec (.ldhu x0 x1 x2 x3) s = Sys2Proof.Machine.execLdhu x0 x1 x2 x3 s := rfl
@[simp] theorem exec_ldwu x0 x1 x2 x3 (s : State) : exec (.ldwu x0 x1 x2 x3) s = Sys2Proof.Machine.execLdwu x0 x1 x2 x3 s := rfl
@[simp] theorem exec_stb x0 x1 x2 x3 (s : State) : exec (.stb x0 x1 x2 x3) s = Sys2Proof.Machine.execStb x0 x1 x2 x3 s := rfl
@[simp] theorem exec_sth x0 x1 x2 x3 (s : State) : exec (.sth x0 x1 x2 x3) s = Sys2Proof.Machine.execSth x0 x1 x2 x3 s := rfl
@[simp] theorem exec_stw x0 x1 x2 x3 (s : State) : exec (.stw x0 x1 x2 x3) s = Sys2Proof.Machine.execStw x0 x1 x2 x3 s := rfl
@[simp] theorem exec_std x0 x1 x2 x3 (s : State) : exec (.std x0 x1 x2 x3) s = Sys2Proof.Machine.execStd x0 x1 x2 x3 s := rfl
@[simp] theorem exec_fadd x0 x1 x2 x3 (s : State) : exec (.fadd x0 x1 x2 x3) s = Sys2Proof.Machine.execFadd x0 x1 x2 x3 s := rfl
@[simp] theorem exec_fsub x0 x1 x2 x3 (s : State) : exec (.fsub x0 x1 x2 x3) s = Sys2Proof.Machine.execFsub x0 x1 x2 x3 s := rfl
@[simp] theorem exec_fmul x0 x1 x2 x3 (s : State) : exec (.fmul x0 x1 x2 x3) s = Sys2Proof.Machine.execFmul x0 x1 x2 x3 s := rfl
@[simp] theorem exec_fdiv x0 x1 x2 x3 (s : State) : exec (.fdiv x0 x1 x2 x3) s = Sys2Proof.Machine.execFdiv x0 x1 x2 x3 s := rfl
@[simp] theorem exec_fmadd x0 x1 x2 x3 (s : State) : exec (.fmadd x0 x1 x2 x3) s = Sys2Proof.Machine.execFmadd x0 x1 x2 x3 s := rfl
@[simp] theorem exec_fmin x0 x1 x2 x3 (s : State) : exec (.fmin x0 x1 x2 x3) s = Sys2Proof.Machine.execFmin x0 x1 x2 x3 s := rfl
@[simp] theorem exec_fmax x0 x1 x2 x3 (s : State) : exec (.fmax x0 x1 x2 x3) s = Sys2Proof.Machine.execFmax x0 x1 x2 x3 s := rfl
@[simp] theorem exec_fsqrt x0 x1 x2 (s : State) : exec (.fsqrt x0 x1 x2) s = Sys2Proof.Machine.execFsqrt x0 x1 x2 s := rfl
@[simp] theorem exec_fneg x0 x1 x2 (s : State) : exec (.fneg x0 x1 x2) s = Sys2Proof.Machine.execFneg x0 x1 x2 s := rfl
@[simp] theorem exec_fabs x0 x1 x2 (s : State) : exec (.fabs x0 x1 x2) s = Sys2Proof.Machine.execFabs x0 x1 x2 s := rfl
@[simp] theorem exec_fsgnj x0 x1 x2 x3 (s : State) : exec (.fsgnj x0 x1 x2 x3) s = Sys2Proof.Machine.execFsgnj x0 x1 x2 x3 s := rfl
@[simp] theorem exec_feq x0 x1 x2 x3 (s : State) : exec (.feq x0 x1 x2 x3) s = Sys2Proof.Machine.execFeq x0 x1 x2 x3 s := rfl
@[simp] theorem exec_flt x0 x1 x2 x3 (s : State) : exec (.flt x0 x1 x2 x3) s = Sys2Proof.Machine.execFlt x0 x1 x2 x3 s := rfl
@[simp] theorem exec_fle x0 x1 x2 x3 (s : State) : exec (.fle x0 x1 x2 x3) s = Sys2Proof.Machine.execFle x0 x1 x2 x3 s := rfl
@[simp] theorem exec_fcvtFp64Fp32 x0 x1 (s : State) : exec (.fcvtFp64Fp32 x0 x1) s = Sys2Proof.Machine.execFcvtFp64Fp32 x0 x1 s := rfl
@[simp] theorem exec_fcvtFp32Fp64 x0 x1 (s : State) : exec (.fcvtFp32Fp64 x0 x1) s = Sys2Proof.Machine.execFcvtFp32Fp64 x0 x1 s := rfl
@[simp] theorem exec_fcvtFp32I64 x0 x1 (s : State) : exec (.fcvtFp32I64 x0 x1) s = Sys2Proof.Machine.execFcvtFp32I64 x0 x1 s := rfl
@[simp] theorem exec_fcvtFp64I64 x0 x1 (s : State) : exec (.fcvtFp64I64 x0 x1) s = Sys2Proof.Machine.execFcvtFp64I64 x0 x1 s := rfl
@[simp] theorem exec_fcvtFp32Ui64 x0 x1 (s : State) : exec (.fcvtFp32Ui64 x0 x1) s = Sys2Proof.Machine.execFcvtFp32Ui64 x0 x1 s := rfl
@[simp] theorem exec_fcvtFp64Ui64 x0 x1 (s : State) : exec (.fcvtFp64Ui64 x0 x1) s = Sys2Proof.Machine.execFcvtFp64Ui64 x0 x1 s := rfl
@[simp] theorem exec_fcvtI64Fp32 x0 x1 (s : State) : exec (.fcvtI64Fp32 x0 x1) s = Sys2Proof.Machine.execFcvtI64Fp32 x0 x1 s := rfl
@[simp] theorem exec_fcvtI64Fp64 x0 x1 (s : State) : exec (.fcvtI64Fp64 x0 x1) s = Sys2Proof.Machine.execFcvtI64Fp64 x0 x1 s := rfl
@[simp] theorem exec_fcvtUi64Fp32 x0 x1 (s : State) : exec (.fcvtUi64Fp32 x0 x1) s = Sys2Proof.Machine.execFcvtUi64Fp32 x0 x1 s := rfl
@[simp] theorem exec_fcvtUi64Fp64 x0 x1 (s : State) : exec (.fcvtUi64Fp64 x0 x1) s = Sys2Proof.Machine.execFcvtUi64Fp64 x0 x1 s := rfl
@[simp] theorem exec_fcvtFp16Fp32 x0 x1 (s : State) : exec (.fcvtFp16Fp32 x0 x1) s = Sys2Proof.Machine.execFcvtFp16Fp32 x0 x1 s := rfl
@[simp] theorem exec_fcvtFp32Fp16 x0 x1 (s : State) : exec (.fcvtFp32Fp16 x0 x1) s = Sys2Proof.Machine.execFcvtFp32Fp16 x0 x1 s := rfl
@[simp] theorem exec_fcvtBf16Fp32 x0 x1 (s : State) : exec (.fcvtBf16Fp32 x0 x1) s = Sys2Proof.Machine.execFcvtBf16Fp32 x0 x1 s := rfl
@[simp] theorem exec_fcvtFp32Bf16 x0 x1 (s : State) : exec (.fcvtFp32Bf16 x0 x1) s = Sys2Proof.Machine.execFcvtFp32Bf16 x0 x1 s := rfl
@[simp] theorem exec_beq x0 x1 x2 (s : State) : exec (.beq x0 x1 x2) s = Sys2Proof.Machine.execBeq x0 x1 x2 s := rfl
@[simp] theorem exec_bne x0 x1 x2 (s : State) : exec (.bne x0 x1 x2) s = Sys2Proof.Machine.execBne x0 x1 x2 s := rfl
@[simp] theorem exec_bmany x0 x1 (s : State) : exec (.bmany x0 x1) s = Sys2Proof.Machine.execBmany x0 x1 s := rfl
@[simp] theorem exec_bmnone x0 x1 (s : State) : exec (.bmnone x0 x1) s = Sys2Proof.Machine.execBmnone x0 x1 s := rfl
@[simp] theorem exec_jalr x0 x1 (s : State) : exec (.jalr x0 x1) s = Sys2Proof.Machine.execJalr x0 x1 s := rfl
@[simp] theorem exec_jr x0 x1 (s : State) : exec (.jr x0 x1) s = Sys2Proof.Machine.execJr x0 x1 s := rfl
@[simp] theorem exec_jal x0 (s : State) : exec (.jal x0) s = Sys2Proof.Machine.execJal x0 s := rfl
@[simp] theorem exec_hcrr x0 x1 (s : State) : exec (.hcrr x0 x1) s = Sys2Proof.Machine.execHcrr x0 x1 s := rfl
@[simp] theorem exec_hcrw x0 x1 (s : State) : exec (.hcrw x0 x1) s = Sys2Proof.Machine.execHcrw x0 x1 s := rfl
@[simp] theorem exec_trap x0 (s : State) : exec (.trap x0) s = Sys2Proof.Machine.execTrap x0 s := rfl
@[simp] theorem exec_brk x0 (s : State) : exec (.brk x0) s = Sys2Proof.Machine.execBrk x0 s := rfl
@[simp] theorem exec_fence x0 (s : State) : exec (.fence x0) s = Sys2Proof.Machine.execFence x0 s := rfl
@[simp] theorem exec_barArrive x0 (s : State) : exec (.barArrive x0) s = Sys2Proof.Machine.execBarArrive x0 s := rfl
@[simp] theorem exec_barWait x0 (s : State) : exec (.barWait x0) s = Sys2Proof.Machine.execBarWait x0 s := rfl
@[simp] theorem exec_await x0 (s : State) : exec (.await x0) s = Sys2Proof.Machine.execAwait x0 s := rfl
@[simp] theorem exec_tkwait x0 x1 (s : State) : exec (.tkwait x0 x1) s = Sys2Proof.Machine.execTkwait x0 x1 s := rfl
@[simp] theorem exec_farmInit x0 x1 (s : State) : exec (.farmInit x0 x1) s = Sys2Proof.Machine.execFarmInit x0 x1 s := rfl
@[simp] theorem exec_farmNext x0 (s : State) : exec (.farmNext x0) s = Sys2Proof.Machine.execFarmNext x0 s := rfl
@[simp] theorem exec_setvl x0 x1 x2 (s : State) : exec (.setvl x0 x1 x2) s = Sys2Proof.Machine.execSetvl x0 x1 x2 s := rfl
@[simp] theorem exec_setvlAcq x0 x1 x2 x3 (s : State) : exec (.setvlAcq x0 x1 x2 x3) s = Sys2Proof.Machine.execSetvlAcq x0 x1 x2 x3 s := rfl
@[simp] theorem exec_strip x0 (s : State) : exec (.strip x0) s = Sys2Proof.Machine.execStrip x0 s := rfl
@[simp] theorem exec_stripRel x0 x1 (s : State) : exec (.stripRel x0 x1) s = Sys2Proof.Machine.execStripRel x0 x1 s := rfl
@[simp] theorem exec_vld x0 x1 x2 (s : State) : exec (.vld x0 x1 x2) s = Sys2Proof.Machine.execVld x0 x1 x2 s := rfl
@[simp] theorem exec_vlds x0 x1 x2 x3 (s : State) : exec (.vlds x0 x1 x2 x3) s = Sys2Proof.Machine.execVlds x0 x1 x2 x3 s := rfl
@[simp] theorem exec_vldx x0 x1 x2 x3 (s : State) : exec (.vldx x0 x1 x2 x3) s = Sys2Proof.Machine.execVldx x0 x1 x2 x3 s := rfl
@[simp] theorem exec_vldff x0 x1 x2 (s : State) : exec (.vldff x0 x1 x2) s = Sys2Proof.Machine.execVldff x0 x1 x2 s := rfl
@[simp] theorem exec_vldsc x0 x1 x2 x3 (s : State) : exec (.vldsc x0 x1 x2 x3) s = Sys2Proof.Machine.execVldsc x0 x1 x2 x3 s := rfl
@[simp] theorem exec_vgl x0 x1 x2 x3 (s : State) : exec (.vgl x0 x1 x2 x3) s = Sys2Proof.Machine.execVgl x0 x1 x2 x3 s := rfl
@[simp] theorem exec_vtake x0 x1 x2 x3 (s : State) : exec (.vtake x0 x1 x2 x3) s = Sys2Proof.Machine.execVtake x0 x1 x2 x3 s := rfl
@[simp] theorem exec_vread x0 x1 x2 x3 (s : State) : exec (.vread x0 x1 x2 x3) s = Sys2Proof.Machine.execVread x0 x1 x2 x3 s := rfl
@[simp] theorem exec_vst x0 x1 x2 (s : State) : exec (.vst x0 x1 x2) s = Sys2Proof.Machine.execVst x0 x1 x2 s := rfl
@[simp] theorem exec_vsts x0 x1 x2 x3 (s : State) : exec (.vsts x0 x1 x2 x3) s = Sys2Proof.Machine.execVsts x0 x1 x2 x3 s := rfl
@[simp] theorem exec_vstx x0 x1 x2 x3 (s : State) : exec (.vstx x0 x1 x2 x3) s = Sys2Proof.Machine.execVstx x0 x1 x2 x3 s := rfl
@[simp] theorem exec_vstsc x0 x1 x2 x3 (s : State) : exec (.vstsc x0 x1 x2 x3) s = Sys2Proof.Machine.execVstsc x0 x1 x2 x3 s := rfl
@[simp] theorem exec_vsc x0 x1 x2 x3 (s : State) : exec (.vsc x0 x1 x2 x3) s = Sys2Proof.Machine.execVsc x0 x1 x2 x3 s := rfl
@[simp] theorem exec_vput x0 x1 x2 x3 (s : State) : exec (.vput x0 x1 x2 x3) s = Sys2Proof.Machine.execVput x0 x1 x2 x3 s := rfl
@[simp] theorem exec_vatom x0 x1 x2 x3 x4 (s : State) : exec (.vatom x0 x1 x2 x3 x4) s = Sys2Proof.Machine.execVatom x0 x1 x2 x3 x4 s := rfl
@[simp] theorem exec_vaddI x0 x1 x2 x3 x4 (s : State) : exec (.vaddI x0 x1 x2 x3 x4) s = Sys2Proof.Machine.execVaddI x0 x1 x2 x3 x4 s := rfl
@[simp] theorem exec_vsubI x0 x1 x2 x3 x4 (s : State) : exec (.vsubI x0 x1 x2 x3 x4) s = Sys2Proof.Machine.execVsubI x0 x1 x2 x3 x4 s := rfl
@[simp] theorem exec_vmulI x0 x1 x2 x3 x4 (s : State) : exec (.vmulI x0 x1 x2 x3 x4) s = Sys2Proof.Machine.execVmulI x0 x1 x2 x3 x4 s := rfl
@[simp] theorem exec_vmulh x0 x1 x2 x3 x4 (s : State) : exec (.vmulh x0 x1 x2 x3 x4) s = Sys2Proof.Machine.execVmulh x0 x1 x2 x3 x4 s := rfl
@[simp] theorem exec_vmulhu x0 x1 x2 x3 x4 (s : State) : exec (.vmulhu x0 x1 x2 x3 x4) s = Sys2Proof.Machine.execVmulhu x0 x1 x2 x3 x4 s := rfl
@[simp] theorem exec_vminI x0 x1 x2 x3 x4 (s : State) : exec (.vminI x0 x1 x2 x3 x4) s = Sys2Proof.Machine.execVminI x0 x1 x2 x3 x4 s := rfl
@[simp] theorem exec_vmaxI x0 x1 x2 x3 x4 (s : State) : exec (.vmaxI x0 x1 x2 x3 x4) s = Sys2Proof.Machine.execVmaxI x0 x1 x2 x3 x4 s := rfl
@[simp] theorem exec_vminu x0 x1 x2 x3 x4 (s : State) : exec (.vminu x0 x1 x2 x3 x4) s = Sys2Proof.Machine.execVminu x0 x1 x2 x3 x4 s := rfl
@[simp] theorem exec_vmaxu x0 x1 x2 x3 x4 (s : State) : exec (.vmaxu x0 x1 x2 x3 x4) s = Sys2Proof.Machine.execVmaxu x0 x1 x2 x3 x4 s := rfl
@[simp] theorem exec_vand x0 x1 x2 x3 x4 (s : State) : exec (.vand x0 x1 x2 x3 x4) s = Sys2Proof.Machine.execVand x0 x1 x2 x3 x4 s := rfl
@[simp] theorem exec_vor x0 x1 x2 x3 x4 (s : State) : exec (.vor x0 x1 x2 x3 x4) s = Sys2Proof.Machine.execVor x0 x1 x2 x3 x4 s := rfl
@[simp] theorem exec_vxor x0 x1 x2 x3 x4 (s : State) : exec (.vxor x0 x1 x2 x3 x4) s = Sys2Proof.Machine.execVxor x0 x1 x2 x3 x4 s := rfl
@[simp] theorem exec_vsll x0 x1 x2 x3 x4 (s : State) : exec (.vsll x0 x1 x2 x3 x4) s = Sys2Proof.Machine.execVsll x0 x1 x2 x3 x4 s := rfl
@[simp] theorem exec_vsrl x0 x1 x2 x3 x4 (s : State) : exec (.vsrl x0 x1 x2 x3 x4) s = Sys2Proof.Machine.execVsrl x0 x1 x2 x3 x4 s := rfl
@[simp] theorem exec_vsra x0 x1 x2 x3 x4 (s : State) : exec (.vsra x0 x1 x2 x3 x4) s = Sys2Proof.Machine.execVsra x0 x1 x2 x3 x4 s := rfl
@[simp] theorem exec_vmadd x0 x1 x2 x3 x4 (s : State) : exec (.vmadd x0 x1 x2 x3 x4) s = Sys2Proof.Machine.execVmadd x0 x1 x2 x3 x4 s := rfl
@[simp] theorem exec_vsadd x0 x1 x2 x3 x4 (s : State) : exec (.vsadd x0 x1 x2 x3 x4) s = Sys2Proof.Machine.execVsadd x0 x1 x2 x3 x4 s := rfl
@[simp] theorem exec_vsaddu x0 x1 x2 x3 x4 (s : State) : exec (.vsaddu x0 x1 x2 x3 x4) s = Sys2Proof.Machine.execVsaddu x0 x1 x2 x3 x4 s := rfl
@[simp] theorem exec_vssub x0 x1 x2 x3 x4 (s : State) : exec (.vssub x0 x1 x2 x3 x4) s = Sys2Proof.Machine.execVssub x0 x1 x2 x3 x4 s := rfl
@[simp] theorem exec_vssubu x0 x1 x2 x3 x4 (s : State) : exec (.vssubu x0 x1 x2 x3 x4) s = Sys2Proof.Machine.execVssubu x0 x1 x2 x3 x4 s := rfl
@[simp] theorem exec_vdivI x0 x1 x2 x3 x4 (s : State) : exec (.vdivI x0 x1 x2 x3 x4) s = Sys2Proof.Machine.execVdivI x0 x1 x2 x3 x4 s := rfl
@[simp] theorem exec_vdivu x0 x1 x2 x3 x4 (s : State) : exec (.vdivu x0 x1 x2 x3 x4) s = Sys2Proof.Machine.execVdivu x0 x1 x2 x3 x4 s := rfl
@[simp] theorem exec_vrem x0 x1 x2 x3 x4 (s : State) : exec (.vrem x0 x1 x2 x3 x4) s = Sys2Proof.Machine.execVrem x0 x1 x2 x3 x4 s := rfl
@[simp] theorem exec_vremu x0 x1 x2 x3 x4 (s : State) : exec (.vremu x0 x1 x2 x3 x4) s = Sys2Proof.Machine.execVremu x0 x1 x2 x3 x4 s := rfl
@[simp] theorem exec_vabsI x0 x1 x2 x3 (s : State) : exec (.vabsI x0 x1 x2 x3) s = Sys2Proof.Machine.execVabsI x0 x1 x2 x3 s := rfl
@[simp] theorem exec_vceqI x0 x1 x2 x3 x4 (s : State) : exec (.vceqI x0 x1 x2 x3 x4) s = Sys2Proof.Machine.execVceqI x0 x1 x2 x3 x4 s := rfl
@[simp] theorem exec_vcneI x0 x1 x2 x3 x4 (s : State) : exec (.vcneI x0 x1 x2 x3 x4) s = Sys2Proof.Machine.execVcneI x0 x1 x2 x3 x4 s := rfl
@[simp] theorem exec_vcltI x0 x1 x2 x3 x4 (s : State) : exec (.vcltI x0 x1 x2 x3 x4) s = Sys2Proof.Machine.execVcltI x0 x1 x2 x3 x4 s := rfl
@[simp] theorem exec_vcltu x0 x1 x2 x3 x4 (s : State) : exec (.vcltu x0 x1 x2 x3 x4) s = Sys2Proof.Machine.execVcltu x0 x1 x2 x3 x4 s := rfl
@[simp] theorem exec_vcleI x0 x1 x2 x3 x4 (s : State) : exec (.vcleI x0 x1 x2 x3 x4) s = Sys2Proof.Machine.execVcleI x0 x1 x2 x3 x4 s := rfl
@[simp] theorem exec_vcleu x0 x1 x2 x3 x4 (s : State) : exec (.vcleu x0 x1 x2 x3 x4) s = Sys2Proof.Machine.execVcleu x0 x1 x2 x3 x4 s := rfl
@[simp] theorem exec_vaddF x0 x1 x2 x3 x4 (s : State) : exec (.vaddF x0 x1 x2 x3 x4) s = Sys2Proof.Machine.execVaddF x0 x1 x2 x3 x4 s := rfl
@[simp] theorem exec_vsubF x0 x1 x2 x3 x4 (s : State) : exec (.vsubF x0 x1 x2 x3 x4) s = Sys2Proof.Machine.execVsubF x0 x1 x2 x3 x4 s := rfl
@[simp] theorem exec_vmulF x0 x1 x2 x3 x4 (s : State) : exec (.vmulF x0 x1 x2 x3 x4) s = Sys2Proof.Machine.execVmulF x0 x1 x2 x3 x4 s := rfl
@[simp] theorem exec_vdivF x0 x1 x2 x3 x4 (s : State) : exec (.vdivF x0 x1 x2 x3 x4) s = Sys2Proof.Machine.execVdivF x0 x1 x2 x3 x4 s := rfl
@[simp] theorem exec_vfmaF x0 x1 x2 x3 x4 (s : State) : exec (.vfmaF x0 x1 x2 x3 x4) s = Sys2Proof.Machine.execVfmaF x0 x1 x2 x3 x4 s := rfl
@[simp] theorem exec_vfms x0 x1 x2 x3 x4 (s : State) : exec (.vfms x0 x1 x2 x3 x4) s = Sys2Proof.Machine.execVfms x0 x1 x2 x3 x4 s := rfl
@[simp] theorem exec_vfnma x0 x1 x2 x3 x4 (s : State) : exec (.vfnma x0 x1 x2 x3 x4) s = Sys2Proof.Machine.execVfnma x0 x1 x2 x3 x4 s := rfl
@[simp] theorem exec_vminF x0 x1 x2 x3 x4 (s : State) : exec (.vminF x0 x1 x2 x3 x4) s = Sys2Proof.Machine.execVminF x0 x1 x2 x3 x4 s := rfl
@[simp] theorem exec_vmaxF x0 x1 x2 x3 x4 (s : State) : exec (.vmaxF x0 x1 x2 x3 x4) s = Sys2Proof.Machine.execVmaxF x0 x1 x2 x3 x4 s := rfl
@[simp] theorem exec_vsqrt x0 x1 x2 x3 (s : State) : exec (.vsqrt x0 x1 x2 x3) s = Sys2Proof.Machine.execVsqrt x0 x1 x2 x3 s := rfl
@[simp] theorem exec_vabsF x0 x1 x2 x3 (s : State) : exec (.vabsF x0 x1 x2 x3) s = Sys2Proof.Machine.execVabsF x0 x1 x2 x3 s := rfl
@[simp] theorem exec_vneg x0 x1 x2 x3 (s : State) : exec (.vneg x0 x1 x2 x3) s = Sys2Proof.Machine.execVneg x0 x1 x2 x3 s := rfl
@[simp] theorem exec_vsgnj x0 x1 x2 x3 x4 (s : State) : exec (.vsgnj x0 x1 x2 x3 x4) s = Sys2Proof.Machine.execVsgnj x0 x1 x2 x3 x4 s := rfl
@[simp] theorem exec_vceqF x0 x1 x2 x3 x4 (s : State) : exec (.vceqF x0 x1 x2 x3 x4) s = Sys2Proof.Machine.execVceqF x0 x1 x2 x3 x4 s := rfl
@[simp] theorem exec_vcneF x0 x1 x2 x3 x4 (s : State) : exec (.vcneF x0 x1 x2 x3 x4) s = Sys2Proof.Machine.execVcneF x0 x1 x2 x3 x4 s := rfl
@[simp] theorem exec_vcltF x0 x1 x2 x3 x4 (s : State) : exec (.vcltF x0 x1 x2 x3 x4) s = Sys2Proof.Machine.execVcltF x0 x1 x2 x3 x4 s := rfl
@[simp] theorem exec_vcleF x0 x1 x2 x3 x4 (s : State) : exec (.vcleF x0 x1 x2 x3 x4) s = Sys2Proof.Machine.execVcleF x0 x1 x2 x3 x4 s := rfl
@[simp] theorem exec_vcun x0 x1 x2 x3 x4 (s : State) : exec (.vcun x0 x1 x2 x3 x4) s = Sys2Proof.Machine.execVcun x0 x1 x2 x3 x4 s := rfl
@[simp] theorem exec_vaddF8 x0 x1 x2 x3 x4 (s : State) : exec (.vaddF8 x0 x1 x2 x3 x4) s = Sys2Proof.Machine.execVaddF8 x0 x1 x2 x3 x4 s := rfl
@[simp] theorem exec_vsubF8 x0 x1 x2 x3 x4 (s : State) : exec (.vsubF8 x0 x1 x2 x3 x4) s = Sys2Proof.Machine.execVsubF8 x0 x1 x2 x3 x4 s := rfl
@[simp] theorem exec_vmulF8 x0 x1 x2 x3 x4 (s : State) : exec (.vmulF8 x0 x1 x2 x3 x4) s = Sys2Proof.Machine.execVmulF8 x0 x1 x2 x3 x4 s := rfl
@[simp] theorem exec_vfmaF8 x0 x1 x2 x3 x4 (s : State) : exec (.vfmaF8 x0 x1 x2 x3 x4) s = Sys2Proof.Machine.execVfmaF8 x0 x1 x2 x3 x4 s := rfl
@[simp] theorem exec_vminF8 x0 x1 x2 x3 x4 (s : State) : exec (.vminF8 x0 x1 x2 x3 x4) s = Sys2Proof.Machine.execVminF8 x0 x1 x2 x3 x4 s := rfl
@[simp] theorem exec_vmaxF8 x0 x1 x2 x3 x4 (s : State) : exec (.vmaxF8 x0 x1 x2 x3 x4) s = Sys2Proof.Machine.execVmaxF8 x0 x1 x2 x3 x4 s := rfl
@[simp] theorem exec_vaddC x0 x1 x2 x3 x4 (s : State) : exec (.vaddC x0 x1 x2 x3 x4) s = Sys2Proof.Machine.execVaddC x0 x1 x2 x3 x4 s := rfl
@[simp] theorem exec_vsubC x0 x1 x2 x3 x4 (s : State) : exec (.vsubC x0 x1 x2 x3 x4) s = Sys2Proof.Machine.execVsubC x0 x1 x2 x3 x4 s := rfl
@[simp] theorem exec_vmulC x0 x1 x2 x3 x4 (s : State) : exec (.vmulC x0 x1 x2 x3 x4) s = Sys2Proof.Machine.execVmulC x0 x1 x2 x3 x4 s := rfl
@[simp] theorem exec_vfmaC x0 x1 x2 x3 x4 (s : State) : exec (.vfmaC x0 x1 x2 x3 x4) s = Sys2Proof.Machine.execVfmaC x0 x1 x2 x3 x4 s := rfl
@[simp] theorem exec_vmulc x0 x1 x2 x3 x4 (s : State) : exec (.vmulc x0 x1 x2 x3 x4) s = Sys2Proof.Machine.execVmulc x0 x1 x2 x3 x4 s := rfl
@[simp] theorem exec_vconj x0 x1 x2 x3 (s : State) : exec (.vconj x0 x1 x2 x3) s = Sys2Proof.Machine.execVconj x0 x1 x2 x3 s := rfl
@[simp] theorem exec_vmuli x0 x1 x2 x3 (s : State) : exec (.vmuli x0 x1 x2 x3) s = Sys2Proof.Machine.execVmuli x0 x1 x2 x3 s := rfl
@[simp] theorem exec_mand x0 x1 x2 x3 (s : State) : exec (.mand x0 x1 x2 x3) s = Sys2Proof.Machine.execMand x0 x1 x2 x3 s := rfl
@[simp] theorem exec_mor x0 x1 x2 x3 (s : State) : exec (.mor x0 x1 x2 x3) s = Sys2Proof.Machine.execMor x0 x1 x2 x3 s := rfl
@[simp] theorem exec_mxor x0 x1 x2 x3 (s : State) : exec (.mxor x0 x1 x2 x3) s = Sys2Proof.Machine.execMxor x0 x1 x2 x3 s := rfl
@[simp] theorem exec_mandn x0 x1 x2 x3 (s : State) : exec (.mandn x0 x1 x2 x3) s = Sys2Proof.Machine.execMandn x0 x1 x2 x3 s := rfl
@[simp] theorem exec_mnot x0 x1 x2 (s : State) : exec (.mnot x0 x1 x2) s = Sys2Proof.Machine.execMnot x0 x1 x2 s := rfl
@[simp] theorem exec_vmfirst x0 x1 x2 (s : State) : exec (.vmfirst x0 x1 x2) s = Sys2Proof.Machine.execVmfirst x0 x1 x2 s := rfl
@[simp] theorem exec_vpopc x0 x1 x2 (s : State) : exec (.vpopc x0 x1 x2) s = Sys2Proof.Machine.execVpopc x0 x1 x2 s := rfl
@[simp] theorem exec_viota x0 x1 x2 (s : State) : exec (.viota x0 x1 x2) s = Sys2Proof.Machine.execViota x0 x1 x2 s := rfl
@[simp] theorem exec_mset x0 x1 (s : State) : exec (.mset x0 x1) s = Sys2Proof.Machine.execMset x0 x1 s := rfl
@[simp] theorem exec_mclr x0 x1 (s : State) : exec (.mclr x0 x1) s = Sys2Proof.Machine.execMclr x0 x1 s := rfl
@[simp] theorem exec_vmerge x0 x1 x2 x3 (s : State) : exec (.vmerge x0 x1 x2 x3) s = Sys2Proof.Machine.execVmerge x0 x1 x2 x3 s := rfl
@[simp] theorem exec_vslideup x0 x1 x2 x3 (s : State) : exec (.vslideup x0 x1 x2 x3) s = Sys2Proof.Machine.execVslideup x0 x1 x2 x3 s := rfl
@[simp] theorem exec_vslidedown x0 x1 x2 x3 (s : State) : exec (.vslidedown x0 x1 x2 x3) s = Sys2Proof.Machine.execVslidedown x0 x1 x2 x3 s := rfl
@[simp] theorem exec_vslideupk x0 x1 x2 x3 (s : State) : exec (.vslideupk x0 x1 x2 x3) s = Sys2Proof.Machine.execVslideupk x0 x1 x2 x3 s := rfl
@[simp] theorem exec_vslidedownk x0 x1 x2 x3 (s : State) : exec (.vslidedownk x0 x1 x2 x3) s = Sys2Proof.Machine.execVslidedownk x0 x1 x2 x3 s := rfl
@[simp] theorem exec_vperm x0 x1 x2 x3 (s : State) : exec (.vperm x0 x1 x2 x3) s = Sys2Proof.Machine.execVperm x0 x1 x2 x3 s := rfl
@[simp] theorem exec_vmv x0 x1 x2 (s : State) : exec (.vmv x0 x1 x2) s = Sys2Proof.Machine.execVmv x0 x1 x2 s := rfl
@[simp] theorem exec_vmvXs x0 x1 x2 (s : State) : exec (.vmvXs x0 x1 x2) s = Sys2Proof.Machine.execVmvXs x0 x1 x2 s := rfl
@[simp] theorem exec_vmvSx x0 x1 (s : State) : exec (.vmvSx x0 x1) s = Sys2Proof.Machine.execVmvSx x0 x1 s := rfl
@[simp] theorem exec_vext x0 x1 x2 (s : State) : exec (.vext x0 x1 x2) s = Sys2Proof.Machine.execVext x0 x1 x2 s := rfl
@[simp] theorem exec_vredsum x0 x1 x2 x3 (s : State) : exec (.vredsum x0 x1 x2 x3) s = Sys2Proof.Machine.execVredsum x0 x1 x2 x3 s := rfl
@[simp] theorem exec_vredmin x0 x1 x2 x3 (s : State) : exec (.vredmin x0 x1 x2 x3) s = Sys2Proof.Machine.execVredmin x0 x1 x2 x3 s := rfl
@[simp] theorem exec_vredmax x0 x1 x2 x3 (s : State) : exec (.vredmax x0 x1 x2 x3) s = Sys2Proof.Machine.execVredmax x0 x1 x2 x3 s := rfl
@[simp] theorem exec_vredminu x0 x1 x2 x3 (s : State) : exec (.vredminu x0 x1 x2 x3) s = Sys2Proof.Machine.execVredminu x0 x1 x2 x3 s := rfl
@[simp] theorem exec_vredmaxu x0 x1 x2 x3 (s : State) : exec (.vredmaxu x0 x1 x2 x3) s = Sys2Proof.Machine.execVredmaxu x0 x1 x2 x3 s := rfl
@[simp] theorem exec_vredand x0 x1 x2 x3 (s : State) : exec (.vredand x0 x1 x2 x3) s = Sys2Proof.Machine.execVredand x0 x1 x2 x3 s := rfl
@[simp] theorem exec_vredor x0 x1 x2 x3 (s : State) : exec (.vredor x0 x1 x2 x3) s = Sys2Proof.Machine.execVredor x0 x1 x2 x3 s := rfl
@[simp] theorem exec_vredxor x0 x1 x2 x3 (s : State) : exec (.vredxor x0 x1 x2 x3) s = Sys2Proof.Machine.execVredxor x0 x1 x2 x3 s := rfl
@[simp] theorem exec_vcvt x0 x1 x2 x3 x4 x5 (s : State) : exec (.vcvt x0 x1 x2 x3 x4 x5) s = Sys2Proof.Machine.execVcvt x0 x1 x2 x3 x4 x5 s := rfl
@[simp] theorem exec_vmxq x0 x1 x2 x3 x4 x5 (s : State) : exec (.vmxq x0 x1 x2 x3 x4 x5) s = Sys2Proof.Machine.execVmxq x0 x1 x2 x3 x4 x5 s := rfl
@[simp] theorem exec_vmxd x0 x1 x2 x3 x4 (s : State) : exec (.vmxd x0 x1 x2 x3 x4) s = Sys2Proof.Machine.execVmxd x0 x1 x2 x3 x4 s := rfl
@[simp] theorem exec_bfly2 x0 x1 x2 x3 x4 (s : State) : exec (.bfly2 x0 x1 x2 x3 x4) s = Sys2Proof.Machine.execBfly2 x0 x1 x2 x3 x4 s := rfl
@[simp] theorem exec_bfly4 x0 x1 x2 x3 x4 (s : State) : exec (.bfly4 x0 x1 x2 x3 x4) s = Sys2Proof.Machine.execBfly4 x0 x1 x2 x3 x4 s := rfl
@[simp] theorem exec_bflyg x0 x1 x2 x3 x4 (s : State) : exec (.bflyg x0 x1 x2 x3 x4) s = Sys2Proof.Machine.execBflyg x0 x1 x2 x3 x4 s := rfl
@[simp] theorem exec_mmul x0 x1 x2 x3 x4 x5 (s : State) : exec (.mmul x0 x1 x2 x3 x4 x5) s = Sys2Proof.Machine.execMmul x0 x1 x2 x3 x4 x5 s := rfl
@[simp] theorem exec_madd x0 x1 x2 x3 x4 x5 (s : State) : exec (.madd x0 x1 x2 x3 x4 x5) s = Sys2Proof.Machine.execMadd x0 x1 x2 x3 x4 x5 s := rfl
@[simp] theorem exec_msub x0 x1 x2 x3 x4 x5 (s : State) : exec (.msub x0 x1 x2 x3 x4 x5) s = Sys2Proof.Machine.execMsub x0 x1 x2 x3 x4 x5 s := rfl
@[simp] theorem exec_mred x0 x1 x2 x3 x4 (s : State) : exec (.mred x0 x1 x2 x3 x4) s = Sys2Proof.Machine.execMred x0 x1 x2 x3 x4 s := rfl
@[simp] theorem exec_mlift x0 x1 x2 x3 x4 (s : State) : exec (.mlift x0 x1 x2 x3 x4) s = Sys2Proof.Machine.execMlift x0 x1 x2 x3 x4 s := rfl
@[simp] theorem exec_bfly2M x0 x1 x2 x3 x4 x5 (s : State) : exec (.bfly2M x0 x1 x2 x3 x4 x5) s = Sys2Proof.Machine.execBfly2M x0 x1 x2 x3 x4 x5 s := rfl
@[simp] theorem exec_bfly4M x0 x1 x2 x3 x4 x5 (s : State) : exec (.bfly4M x0 x1 x2 x3 x4 x5) s = Sys2Proof.Machine.execBfly4M x0 x1 x2 x3 x4 x5 s := rfl
@[simp] theorem exec_mcrt x0 x1 x2 x3 (s : State) : exec (.mcrt x0 x1 x2 x3) s = Sys2Proof.Machine.execMcrt x0 x1 x2 x3 s := rfl
@[simp] theorem exec_mchk x0 x1 x2 x3 (s : State) : exec (.mchk x0 x1 x2 x3) s = Sys2Proof.Machine.execMchk x0 x1 x2 x3 s := rfl
@[simp] theorem exec_twset x0 (s : State) : exec (.twset x0) s = Sys2Proof.Machine.execTwset x0 s := rfl
@[simp] theorem exec_twget x0 x1 x2 (s : State) : exec (.twget x0 x1 x2) s = Sys2Proof.Machine.execTwget x0 x1 x2 s := rfl
@[simp] theorem exec_vdrev x0 x1 x2 x3 (s : State) : exec (.vdrev x0 x1 x2 x3) s = Sys2Proof.Machine.execVdrev x0 x1 x2 x3 s := rfl
@[simp] theorem exec_vtrn x0 x1 x2 x3 (s : State) : exec (.vtrn x0 x1 x2 x3) s = Sys2Proof.Machine.execVtrn x0 x1 x2 x3 s := rfl
@[simp] theorem exec_xbfn x0 x1 x2 x3 (s : State) : exec (.xbfn x0 x1 x2 x3) s = Sys2Proof.Machine.execXbfn x0 x1 x2 x3 s := rfl
@[simp] theorem exec_opa x0 x1 x2 x3 x4 (s : State) : exec (.opa x0 x1 x2 x3 x4) s = Sys2Proof.Machine.execOpa x0 x1 x2 x3 x4 s := rfl
@[simp] theorem exec_ops x0 x1 x2 x3 x4 (s : State) : exec (.ops x0 x1 x2 x3 x4) s = Sys2Proof.Machine.execOps x0 x1 x2 x3 x4 s := rfl
@[simp] theorem exec_azero x0 (s : State) : exec (.azero x0) s = Sys2Proof.Machine.execAzero x0 s := rfl
@[simp] theorem exec_ald x0 x1 (s : State) : exec (.ald x0 x1) s = Sys2Proof.Machine.execAld x0 x1 s := rfl
@[simp] theorem exec_ast x0 x1 (s : State) : exec (.ast x0 x1) s = Sys2Proof.Machine.execAst x0 x1 s := rfl
@[simp] theorem exec_arow x0 x1 x2 x3 (s : State) : exec (.arow x0 x1 x2 x3) s = Sys2Proof.Machine.execArow x0 x1 x2 x3 s := rfl
@[simp] theorem exec_acol x0 x1 x2 x3 (s : State) : exec (.acol x0 x1 x2 x3) s = Sys2Proof.Machine.execAcol x0 x1 x2 x3 s := rfl
@[simp] theorem exec_awrow x0 x1 x2 x3 (s : State) : exec (.awrow x0 x1 x2 x3) s = Sys2Proof.Machine.execAwrow x0 x1 x2 x3 s := rfl
@[simp] theorem exec_awcol x0 x1 x2 x3 (s : State) : exec (.awcol x0 x1 x2 x3) s = Sys2Proof.Machine.execAwcol x0 x1 x2 x3 s := rfl
@[simp] theorem exec_amov x0 x1 (s : State) : exec (.amov x0 x1) s = Sys2Proof.Machine.execAmov x0 x1 s := rfl
@[simp] theorem exec_aepi x0 x1 x2 x3 x4 (s : State) : exec (.aepi x0 x1 x2 x3 x4) s = Sys2Proof.Machine.execAepi x0 x1 x2 x3 x4 s := rfl
@[simp] theorem exec_sbind x0 x1 (s : State) : exec (.sbind x0 x1) s = Sys2Proof.Machine.execSbind x0 x1 s := rfl
@[simp] theorem exec_sunbind x0 (s : State) : exec (.sunbind x0) s = Sys2Proof.Machine.execSunbind x0 s := rfl
@[simp] theorem exec_sisect x0 x1 x2 (s : State) : exec (.sisect x0 x1 x2) s = Sys2Proof.Machine.execSisect x0 x1 x2 s := rfl
@[simp] theorem exec_sunite x0 x1 x2 (s : State) : exec (.sunite x0 x1 x2) s = Sys2Proof.Machine.execSunite x0 x1 x2 s := rfl
@[simp] theorem exec_sskip x0 x1 (s : State) : exec (.sskip x0 x1) s = Sys2Proof.Machine.execSskip x0 x1 s := rfl
@[simp] theorem exec_ssave x0 x1 (s : State) : exec (.ssave x0 x1) s = Sys2Proof.Machine.execSsave x0 x1 s := rfl
@[simp] theorem exec_srest x0 x1 (s : State) : exec (.srest x0 x1) s = Sys2Proof.Machine.execSrest x0 x1 s := rfl
@[simp] theorem exec_saff x0 x1 x2 x3 x4 x5 x6 x7 x8 (s : State) : exec (.saff x0 x1 x2 x3 x4 x5 x6 x7 x8) s = Sys2Proof.Machine.execSaff x0 x1 x2 x3 x4 x5 x6 x7 x8 s := rfl
@[simp] theorem exec_sidx x0 x1 x2 x3 (s : State) : exec (.sidx x0 x1 x2 x3) s = Sys2Proof.Machine.execSidx x0 x1 x2 x3 s := rfl
@[simp] theorem exec_sfib x0 x1 x2 x3 x4 x5 x6 x7 x8 (s : State) : exec (.sfib x0 x1 x2 x3 x4 x5 x6 x7 x8) s = Sys2Proof.Machine.execSfib x0 x1 x2 x3 x4 x5 x6 x7 x8 s := rfl
@[simp] theorem exec_copy x0 x1 x2 x3 x4 x5 x6 x7 (s : State) : exec (.copy x0 x1 x2 x3 x4 x5 x6 x7) s = Sys2Proof.Machine.execCopy x0 x1 x2 x3 x4 x5 x6 x7 s := rfl
@[simp] theorem exec_coll x0 x1 x2 x3 x4 x5 x6 x7 x8 (s : State) : exec (.coll x0 x1 x2 x3 x4 x5 x6 x7 x8) s = Sys2Proof.Machine.execColl x0 x1 x2 x3 x4 x5 x6 x7 x8 s := rfl
@[simp] theorem exec_putE x0 x1 x2 x3 x4 x5 (s : State) : exec (.putE x0 x1 x2 x3 x4 x5) s = Sys2Proof.Machine.execPutE x0 x1 x2 x3 x4 x5 s := rfl
@[simp] theorem exec_taskPut x0 x1 x2 (s : State) : exec (.taskPut x0 x1 x2) s = Sys2Proof.Machine.execTaskPut x0 x1 x2 s := rfl
@[simp] theorem exec_teret (s : State) : exec (.teret) s = Sys2Proof.Machine.execTeret s := rfl
@[simp] theorem exec_halt (s : State) : exec (.halt) s = Sys2Proof.Machine.execHalt s := rfl
@[simp] theorem exec_hint (s : State) : exec (.hint) s = Sys2Proof.Machine.execHint s := rfl
@[simp] theorem exec_stripCommit (s : State) : exec (.stripCommit) s = Sys2Proof.Machine.execStripCommit s := rfl
@[simp] theorem exec_commitEnd (s : State) : exec (.commitEnd) s = Sys2Proof.Machine.execCommitEnd s := rfl
@[simp] theorem exec_stripWatchdog (s : State) : exec (.stripWatchdog) s = Sys2Proof.Machine.execStripWatchdog s := rfl
@[simp] theorem exec_fqbaseWrite (s : State) : exec (.fqbaseWrite) s = Sys2Proof.Machine.execFqbaseWrite s := rfl
@[simp] theorem exec_fqheadWrite (s : State) : exec (.fqheadWrite) s = Sys2Proof.Machine.execFqheadWrite s := rfl
@[simp] theorem exec_scalarLoadReturn (s : State) : exec (.scalarLoadReturn) s = Sys2Proof.Machine.execScalarLoadReturn s := rfl
@[simp] theorem exec_stripTerminalComplete (s : State) : exec (.stripTerminalComplete) s = Sys2Proof.Machine.execStripTerminalComplete s := rfl
@[simp] theorem exec_presenceDeferralServe (s : State) : exec (.presenceDeferralServe) s = Sys2Proof.Machine.execPresenceDeferralServe s := rfl
@[simp] theorem exec_linkReservationExpiry (s : State) : exec (.linkReservationExpiry) s = Sys2Proof.Machine.execLinkReservationExpiry s := rfl
@[simp] theorem exec_awaitComplete (s : State) : exec (.awaitComplete) s = Sys2Proof.Machine.execAwaitComplete s := rfl
@[simp] theorem exec_tkwaitSatisfied (s : State) : exec (.tkwaitSatisfied) s = Sys2Proof.Machine.execTkwaitSatisfied s := rfl
@[simp] theorem exec_lazyVectorMove (s : State) : exec (.lazyVectorMove) s = Sys2Proof.Machine.execLazyVectorMove s := rfl
@[simp] theorem exec_pageRestoreComplete (s : State) : exec (.pageRestoreComplete) s = Sys2Proof.Machine.execPageRestoreComplete s := rfl
@[simp] theorem exec_spsave (s : State) : exec (.spsave) s = Sys2Proof.Machine.execSpsave s := rfl
@[simp] theorem exec_spsaveComplete (s : State) : exec (.spsaveComplete) s = Sys2Proof.Machine.execSpsaveComplete s := rfl
@[simp] theorem exec_patrolScrub (s : State) : exec (.patrolScrub) s = Sys2Proof.Machine.execPatrolScrub s := rfl
@[simp] theorem exec_translationWalk (s : State) : exec (.translationWalk) s = Sys2Proof.Machine.execTranslationWalk s := rfl
@[simp] theorem exec_invctlGo (s : State) : exec (.invctlGo) s = Sys2Proof.Machine.execInvctlGo s := rfl
@[simp] theorem exec_invalidationComplete (s : State) : exec (.invalidationComplete) s = Sys2Proof.Machine.execInvalidationComplete s := rfl
@[simp] theorem exec_copyExecute (s : State) : exec (.copyExecute) s = Sys2Proof.Machine.execCopyExecute s := rfl
@[simp] theorem exec_commandEnd (s : State) : exec (.commandEnd) s = Sys2Proof.Machine.execCommandEnd s := rfl
@[simp] theorem exec_pkrespRetry (s : State) : exec (.pkrespRetry) s = Sys2Proof.Machine.execPkrespRetry s := rfl
@[simp] theorem exec_pkrespFail (s : State) : exec (.pkrespFail) s = Sys2Proof.Machine.execPkrespFail s := rfl
@[simp] theorem exec_collExecute (s : State) : exec (.collExecute) s = Sys2Proof.Machine.execCollExecute s := rfl
@[simp] theorem exec_collChunkArrival (s : State) : exec (.collChunkArrival) s = Sys2Proof.Machine.execCollChunkArrival s := rfl
@[simp] theorem exec_putELanding (s : State) : exec (.putELanding) s = Sys2Proof.Machine.execPutELanding s := rfl
@[simp] theorem exec_streamDelivery (s : State) : exec (.streamDelivery) s = Sys2Proof.Machine.execStreamDelivery s := rfl
@[simp] theorem exec_streamFetchAhead (s : State) : exec (.streamFetchAhead) s = Sys2Proof.Machine.execStreamFetchAhead s := rfl
@[simp] theorem exec_slotReservation (s : State) : exec (.slotReservation) s = Sys2Proof.Machine.execSlotReservation s := rfl
@[simp] theorem exec_slotLands (s : State) : exec (.slotLands) s = Sys2Proof.Machine.execSlotLands s := rfl
@[simp] theorem exec_nodeFire (s : State) : exec (.nodeFire) s = Sys2Proof.Machine.execNodeFire s := rfl
@[simp] theorem exec_controlTokenArrival (s : State) : exec (.controlTokenArrival) s = Sys2Proof.Machine.execControlTokenArrival s := rfl
@[simp] theorem exec_fcmdLoad (s : State) : exec (.fcmdLoad) s = Sys2Proof.Machine.execFcmdLoad s := rfl
@[simp] theorem exec_fcmdAbort (s : State) : exec (.fcmdAbort) s = Sys2Proof.Machine.execFcmdAbort s := rfl
@[simp] theorem exec_fabricLoadComplete (s : State) : exec (.fabricLoadComplete) s = Sys2Proof.Machine.execFabricLoadComplete s := rfl
@[simp] theorem exec_fabricFlip (s : State) : exec (.fabricFlip) s = Sys2Proof.Machine.execFabricFlip s := rfl
@[simp] theorem exec_episodeComplete (s : State) : exec (.episodeComplete) s = Sys2Proof.Machine.execEpisodeComplete s := rfl
@[simp] theorem exec_farmNextServe (s : State) : exec (.farmNextServe) s = Sys2Proof.Machine.execFarmNextServe s := rfl
@[simp] theorem exec_pktstatGo (s : State) : exec (.pktstatGo) s = Sys2Proof.Machine.execPktstatGo s := rfl
@[simp] theorem exec_taskPacketAccept (s : State) : exec (.taskPacketAccept) s = Sys2Proof.Machine.execTaskPacketAccept s := rfl
@[simp] theorem exec_taskComplete (s : State) : exec (.taskComplete) s = Sys2Proof.Machine.execTaskComplete s := rfl
@[simp] theorem exec_taskPlacement (s : State) : exec (.taskPlacement) s = Sys2Proof.Machine.execTaskPlacement s := rfl
@[simp] theorem exec_ageingStep (s : State) : exec (.ageingStep) s = Sys2Proof.Machine.execAgeingStep s := rfl
@[simp] theorem exec_quantumExpiry (s : State) : exec (.quantumExpiry) s = Sys2Proof.Machine.execQuantumExpiry s := rfl
@[simp] theorem exec_hartSwitchOut (s : State) : exec (.hartSwitchOut) s = Sys2Proof.Machine.execHartSwitchOut s := rfl
@[simp] theorem exec_dcancel (s : State) : exec (.dcancel) s = Sys2Proof.Machine.execDcancel s := rfl
@[simp] theorem exec_tmFreeze (s : State) : exec (.tmFreeze) s = Sys2Proof.Machine.execTmFreeze s := rfl
@[simp] theorem exec_freezeComplete (s : State) : exec (.freezeComplete) s = Sys2Proof.Machine.execFreezeComplete s := rfl
@[simp] theorem exec_tmWriteImage (s : State) : exec (.tmWriteImage) s = Sys2Proof.Machine.execTmWriteImage s := rfl
@[simp] theorem exec_tmResume (s : State) : exec (.tmResume) s = Sys2Proof.Machine.execTmResume s := rfl
@[simp] theorem exec_resumePlacement (s : State) : exec (.resumePlacement) s = Sys2Proof.Machine.execResumePlacement s := rfl
@[simp] theorem exec_tmEnd (s : State) : exec (.tmEnd) s = Sys2Proof.Machine.execTmEnd s := rfl
@[simp] theorem exec_tmRestart (s : State) : exec (.tmRestart) s = Sys2Proof.Machine.execTmRestart s := rfl
@[simp] theorem exec_tmReflect (s : State) : exec (.tmReflect) s = Sys2Proof.Machine.execTmReflect s := rfl
@[simp] theorem exec_tmUnassignedOp (s : State) : exec (.tmUnassignedOp) s = Sys2Proof.Machine.execTmUnassignedOp s := rfl
@[simp] theorem exec_speedChange (s : State) : exec (.speedChange) s = Sys2Proof.Machine.execSpeedChange s := rfl
@[simp] theorem exec_spdAgeWrite (s : State) : exec (.spdAgeWrite) s = Sys2Proof.Machine.execSpdAgeWrite s := rfl
@[simp] theorem exec_droopDetect (s : State) : exec (.droopDetect) s = Sys2Proof.Machine.execDroopDetect s := rfl
@[simp] theorem exec_sagStepDown (s : State) : exec (.sagStepDown) s = Sys2Proof.Machine.execSagStepDown s := rfl
@[simp] theorem exec_powerMeasurement (s : State) : exec (.powerMeasurement) s = Sys2Proof.Machine.execPowerMeasurement s := rfl
@[simp] theorem exec_pwrlimWrite (s : State) : exec (.pwrlimWrite) s = Sys2Proof.Machine.execPwrlimWrite s := rfl
@[simp] theorem exec_hostCxlMemAccess (s : State) : exec (.hostCxlMemAccess) s = Sys2Proof.Machine.execHostCxlMemAccess s := rfl
@[simp] theorem exec_hostStoreCompletion (s : State) : exec (.hostStoreCompletion) s = Sys2Proof.Machine.execHostStoreCompletion s := rfl
@[simp] theorem exec_tramontaneCrcFail (s : State) : exec (.tramontaneCrcFail) s = Sys2Proof.Machine.execTramontaneCrcFail s := rfl
@[simp] theorem exec_flitReceive (s : State) : exec (.flitReceive) s = Sys2Proof.Machine.execFlitReceive s := rfl
@[simp] theorem exec_etesianCrcFail (s : State) : exec (.etesianCrcFail) s = Sys2Proof.Machine.execEtesianCrcFail s := rfl
@[simp] theorem exec_laneAutoRetire (s : State) : exec (.laneAutoRetire) s = Sys2Proof.Machine.execLaneAutoRetire s := rfl
@[simp] theorem exec_spareSwitchComplete (s : State) : exec (.spareSwitchComplete) s = Sys2Proof.Machine.execSpareSwitchComplete s := rfl
@[simp] theorem exec_portDownTimeout (s : State) : exec (.portDownTimeout) s = Sys2Proof.Machine.execPortDownTimeout s := rfl
@[simp] theorem exec_e2eResendTimeout (s : State) : exec (.e2eResendTimeout) s = Sys2Proof.Machine.execE2eResendTimeout s := rfl
@[simp] theorem exec_unreachableTimeout (s : State) : exec (.unreachableTimeout) s = Sys2Proof.Machine.execUnreachableTimeout s := rfl
@[simp] theorem exec_retireSpire (s : State) : exec (.retireSpire) s = Sys2Proof.Machine.execRetireSpire s := rfl
@[simp] theorem exec_retireRouter (s : State) : exec (.retireRouter) s = Sys2Proof.Machine.execRetireRouter s := rfl
@[simp] theorem exec_retireEtesianLane (s : State) : exec (.retireEtesianLane) s = Sys2Proof.Machine.execRetireEtesianLane s := rfl
@[simp] theorem exec_retireTramontaneLink (s : State) : exec (.retireTramontaneLink) s = Sys2Proof.Machine.execRetireTramontaneLink s := rfl
@[simp] theorem exec_retireHbmRow (s : State) : exec (.retireHbmRow) s = Sys2Proof.Machine.execRetireHbmRow s := rfl
@[simp] theorem exec_retireInvalidClass (s : State) : exec (.retireInvalidClass) s = Sys2Proof.Machine.execRetireInvalidClass s := rfl
@[simp] theorem exec_wearPrediction (s : State) : exec (.wearPrediction) s = Sys2Proof.Machine.execWearPrediction s := rfl
@[simp] theorem exec_packageReset (s : State) : exec (.packageReset) s = Sys2Proof.Machine.execPackageReset s := rfl
@[simp] theorem exec_dctlWrite (s : State) : exec (.dctlWrite) s = Sys2Proof.Machine.execDctlWrite s := rfl
@[simp] theorem exec_mailboxReport (s : State) : exec (.mailboxReport) s = Sys2Proof.Machine.execMailboxReport s := rfl
@[simp] theorem exec_mailboxFirmwareUpdate (s : State) : exec (.mailboxFirmwareUpdate) s = Sys2Proof.Machine.execMailboxFirmwareUpdate s := rfl
@[simp] theorem exec_mailboxUnassignedOp (s : State) : exec (.mailboxUnassignedOp) s = Sys2Proof.Machine.execMailboxUnassignedOp s := rfl
@[simp] theorem exec_securityAlarm (s : State) : exec (.securityAlarm) s = Sys2Proof.Machine.execSecurityAlarm s := rfl
@[simp] theorem exec_powerRemoval (s : State) : exec (.powerRemoval) s = Sys2Proof.Machine.execPowerRemoval s := rfl
@[simp] theorem exec_registerWrite (s : State) : exec (.registerWrite) s = Sys2Proof.Machine.execRegisterWrite s := rfl
@[simp] theorem exec_storeWrittenAtHome (s : State) : exec (.storeWrittenAtHome) s = Sys2Proof.Machine.execStoreWrittenAtHome s := rfl
@[simp] theorem exec_tramontaneRetrainEnd (s : State) : exec (.tramontaneRetrainEnd) s = Sys2Proof.Machine.execTramontaneRetrainEnd s := rfl
@[simp] theorem exec_supplyRecovery (s : State) : exec (.supplyRecovery) s = Sys2Proof.Machine.execSupplyRecovery s := rfl
@[simp] theorem exec_hostSnoop (s : State) : exec (.hostSnoop) s = Sys2Proof.Machine.execHostSnoop s := rfl
@[simp] theorem exec_backInvalidateResponse (s : State) : exec (.backInvalidateResponse) s = Sys2Proof.Machine.execBackInvalidateResponse s := rfl

end Sys2Proof.Machine
end

