-- ==== Sys2Proof/Laws/Image.lean ====
section
/-! SUPPORT. Lengths of byte lists, and of the Strelran image of a team of one hart. -/
set_option Elab.async false
namespace Sys2Proof.Machine

theorem length_toBytes (n : Nat) : ∀ x, (toBytes n x).length = n := by
  induction n with
  | zero => intro x; rfl
  | succ n ih => intro x; simp [toBytes, ih]
theorem length_dws (l : List Nat) : (dws l).length = 8 * l.length := by
  unfold dws; induction l with
  | nil => rfl
  | cons a l ih => simp [length_toBytes] at ih ⊢; omega
theorem length_getBytes (m : Mem) (n : Nat) : ∀ a, (m.getBytes a n).length = n := by
  induction n with
  | zero => intro x; rfl
  | succ n ih => intro x; simp [Mem.getBytes, ih]
theorem length_zeroBytes (n : Nat) : (zeroBytes n).length = n := by simp [zeroBytes]
theorem alignUp_le (n x : Nat) (h : 0 < n) : alignUp n x ≤ x + n := by
  unfold alignUp ceilDiv
  have := Nat.div_mul_le_self (x + n - 1) n
  omega
theorem length_padTo (b : List Byte) : b.length ≤ (padTo 4096 b).length ∧ (padTo 4096 b).length ≤ b.length + 4096 := by
  have := alignUp_le 4096 b.length (by decide)
  simp only [padTo, List.length_append, length_zeroBytes]; omega
theorem length_pack (q : Stream) : q.pack.length = 64 := length_dws _
theorem length_flatMap_eq {α β : Type} (l : List α) (f : α → List β) (n : Nat) (h : ∀ x, (f x).length = n) : (l.flatMap f).length = n * l.length := by
  induction l with
  | nil => simp
  | cons a l ih => have := h a; simp only [List.flatMap_cons, List.length_append, List.length_cons]; rw [Nat.mul_add]; omega
theorem length_padLe (n : Nat) (b : List Byte) (h : 0 < n) : (padTo n b).length ≤ b.length + n := by
  have := alignUp_le n b.length h
  simp only [padTo, List.length_append, length_zeroBytes]; omega
theorem length_hartRec (h : Hart) : (hartRec 32 h).length ≤ 400000 := by
  have e : hrSize 32 = 151552 := by decide
  refine Nat.le_trans (length_padLe _ _ (by rw [e]; decide)) ?_
  rw [e]
  simp [length_dws, length_zeroBytes, length_flatMap_eq _ _ _ length_pack, length_flatMap_eq _ _ _ (fun x => length_toBytes _ _), List.length_finRange]
theorem length_spireRec (m : Mem) (p : Nat) : (spireRec m p).length = 69632 := by
  simp [spireRec, length_getBytes, length_toBytes, length_zeroBytes]
theorem length_bar (n : Nat) (b : Barrier) : (barSection n b).length = barRecSize n := by
  simp [barSection, barRecSize, length_dws, length_toBytes]
theorem length_addSection (x : List Byte × List Nat) (b : List Byte) : (addSection x (some b)).1.length ≤ x.1.length + b.length + 4096 := by
  have := (length_padTo b).2
  simp only [addSection, List.length_append]; omega
theorem addSection_len (x : List Byte × List Nat) (b : Option (List Byte)) : (addSection x b).2.length = x.2.length + 1 := by
  cases b <;> simp [addSection]
/-- The image of a frozen team of one hart, without an image, watches, commands or successors, is short and not empty. -/
theorem length_image (s : State) (t : Team) (c : Context) (h1 : t.perSpire = 1) (h2 : t.nhart = 1) (h3 : t.task.nspire = 1) (h4 : t.groups = [])
    (h5 : s.watches t = []) (h6 : t.cmds = []) (h7 : t.bars.length = 64) (h8 : t.task.succ = []) :
    (s.buildImage t c).length ≤ 1000000 ∧ 0 < (s.buildImage t c).length := by
  have hb : (t.bars.flatMap (barSection t.nhart)).length = 4608 := by
    rw [length_flatMap_eq _ _ 72 (fun x => by rw [length_bar, h2]; rfl), h7]
  have hf : (farmSection t).length = 48 := by
    have : List.range 1 = [0] := rfl
    unfold farmSection
    rw [h2, this]
    simp only [List.flatMap_cons, List.flatMap_nil, List.append_nil, List.length_append, length_dws]
    split <;> simp [length_dws]
  unfold State.buildImage
  rw [h1, h2, h3, h5, h6, h8]
  unfold fabricSection
  rw [h4]
  have hh := length_hartRec (s.recHart t c 0)
  have hs := length_spireRec s.sdm (t.savedSdm 0)
  have r1 : List.range 1 = [0] := rfl
  simp only [r1, List.flatMap_cons, List.flatMap_nil, List.append_nil, optSection, List.isEmpty_nil, if_true, List.foldl]
  have e : ∀ (x : List Byte × List Nat), addSection x none = (x.1, x.2 ++ [0]) := fun _ => rfl
  simp only [e]
  generalize hA : hartRec 32 _ = A
  have hh : A.length ≤ 400000 := by rw [← hA]; exact length_hartRec _
  have hw : (succWords []).length = 4 := by decide
  have a1 := length_addSection (zeroBytes 4096, []) A
  have b1 := addSection_len (zeroBytes 4096, []) (some A)
  generalize addSection (zeroBytes 4096, []) (some A) = x1 at *
  have a2 := length_addSection x1 (spireRec s.sdm (t.savedSdm 0))
  have b2 := addSection_len x1 (some (spireRec s.sdm (t.savedSdm 0)))
  generalize addSection x1 (some (spireRec s.sdm (t.savedSdm 0))) = x2 at *
  have a3 := length_addSection (x2.1, x2.2 ++ [0]) (farmSection t)
  have b3 := addSection_len (x2.1, x2.2 ++ [0]) (some (farmSection t))
  generalize addSection (x2.1, x2.2 ++ [0]) (some (farmSection t)) = x3 at *
  rw [h2] at hb
  have a4 := length_addSection x3 (t.bars.flatMap (barSection 1))
  have b4 := addSection_len x3 (some (t.bars.flatMap (barSection 1)))
  generalize addSection x3 (some (t.bars.flatMap (barSection 1))) = x4 at *
  simp only [List.length_append, length_zeroBytes, List.length_cons, List.length_nil] at a1 a2 a3 a4 b1 b2 b3 b4
  generalize sumWords _ = S
  refine ⟨?_, ?_⟩
  · rw [List.length_append]
    refine Nat.le_trans (Nat.add_le_add (length_padTo _).2 (by rw [List.length_drop])) ?_
    simp only [length_dws, List.length_append, List.length_cons, List.length_nil]
    omega
  · rw [List.length_append]
    refine Nat.lt_of_lt_of_le ?_ (Nat.le_add_right _ _)
    refine Nat.lt_of_lt_of_le ?_ (length_padTo _).1
    simp only [length_dws, List.length_append, List.length_cons, List.length_nil]
    omega
end Sys2Proof.Machine
end

