-- ==== Sys2Proof/Laws/Memory.lean ====
section
/-! SUPPORT. Laws of a memory: the canonical form is kept by every operation, and what a read gives after a write. -/
set_option Elab.async false
namespace Sys2Proof.Machine

/-! ### Rising lists -/

theorem rising_iff (l : List Nat) : rising l = true ↔ l.Pairwise (· < ·) := by
  induction l with
  | nil => simp [rising]
  | cons a l ih =>
    cases l with
    | nil => simp [rising]
    | cons b t =>
      simp only [rising, Bool.and_eq_true, decide_eq_true_eq, ih, List.pairwise_cons, List.mem_cons, forall_eq_or_imp]
      constructor
      · rintro ⟨h, h1, h2⟩
        exact ⟨⟨h, fun x hx => Nat.lt_trans h (h1 x hx)⟩, h1, h2⟩
      · rintro ⟨⟨h, -⟩, h1, h2⟩
        exact ⟨h, h1, h2⟩

/-- What the canonical form says. -/
theorem Mem.wf_iff (m : Mem) :
    m.wf = true ↔ (m.cells.map (·.1)).Pairwise (· < ·) ∧ (∀ c ∈ m.cells, c.2 ≠ 0) ∧ m.bad.Pairwise (· < ·) := by
  simp [Mem.wf, rising_iff, and_assoc]

theorem mem_insertKey {α : Type} (k : Nat) (v : α) (l : List (Nat × α)) (x : Nat × α) (h : x ∈ insertKey k v l) : x = (k, v) ∨ x ∈ l := by
  induction l with
  | nil => simpa [insertKey] using h
  | cons a t ih =>
    obtain ⟨a, w⟩ := a
    simp only [insertKey] at h
    split at h
    · simpa using h
    · split at h
      · simp only [List.mem_cons] at h ⊢; tauto
      · simp only [List.mem_cons] at h ⊢
        rcases h with h | h
        · exact .inr (.inl h)
        · rcases ih h with h | h <;> tauto

theorem mem_eraseKey {α : Type} (k : Nat) (l : List (Nat × α)) (x : Nat × α) (h : x ∈ eraseKey k l) : x ∈ l := by
  induction l with
  | nil => simp [eraseKey] at h
  | cons a t ih =>
    obtain ⟨a, w⟩ := a
    simp only [eraseKey] at h
    split at h
    · exact List.mem_cons_of_mem _ h
    · rcases List.mem_cons.1 h with h | h
      · exact h ▸ List.mem_cons_self
      · exact List.mem_cons_of_mem _ (ih h)

theorem insertKey_sorted {α : Type} (k : Nat) (v : α) (l : List (Nat × α)) (h : (l.map (·.1)).Pairwise (· < ·)) :
    ((insertKey k v l).map (·.1)).Pairwise (· < ·) := by
  induction l with
  | nil => simp [insertKey]
  | cons a t ih =>
    obtain ⟨a, w⟩ := a
    simp only [List.map_cons, List.pairwise_cons] at h
    simp only [insertKey]
    split
    · rename_i hk
      simp only [List.map_cons, List.pairwise_cons, List.mem_cons, forall_eq_or_imp]
      exact ⟨⟨hk, fun x hx => Nat.lt_trans hk (h.1 x hx)⟩, h⟩
    · split
      · rename_i hk; subst hk
        simpa using h
      · rename_i h1 h2
        simp only [List.map_cons, List.pairwise_cons]
        refine ⟨?_, ih h.2⟩
        intro x hx
        obtain ⟨y, hy, rfl⟩ := List.mem_map.1 hx
        rcases mem_insertKey _ _ _ _ hy with rfl | hy
        · show a < k; omega
        · exact h.1 _ (List.mem_map_of_mem hy)

theorem eraseKey_sorted {α : Type} (k : Nat) (l : List (Nat × α)) (h : (l.map (·.1)).Pairwise (· < ·)) :
    ((eraseKey k l).map (·.1)).Pairwise (· < ·) := by
  induction l with
  | nil => simp [eraseKey]
  | cons a t ih =>
    obtain ⟨a, w⟩ := a
    simp only [List.map_cons, List.pairwise_cons] at h
    simp only [eraseKey]
    split
    · exact h.2
    · simp only [List.map_cons, List.pairwise_cons]
      refine ⟨?_, ih h.2⟩
      intro x hx
      obtain ⟨y, hy, rfl⟩ := List.mem_map.1 hx
      exact h.1 _ (List.mem_map_of_mem (mem_eraseKey _ _ _ hy))

/-- A key after another is put in. -/
theorem lookupKey_insertKey {α : Type} (k j : Nat) (v : α) (l : List (Nat × α)) (h : (l.map (·.1)).Pairwise (· < ·)) :
    lookupKey j (insertKey k v l) = if j = k then some v else lookupKey j l := by
  induction l with
  | nil => simp [insertKey, lookupKey, eq_comm]
  | cons a t ih =>
    obtain ⟨a, w⟩ := a
    simp only [List.map_cons, List.pairwise_cons] at h
    simp only [insertKey]
    split
    · simp only [lookupKey, eq_comm]
    · split
      · rename_i hk; subst hk
        simp only [lookupKey]; split <;> simp_all [eq_comm]
      · rename_i h1 h2
        simp only [lookupKey, ih h.2]
        split
        · rename_i h3; rw [if_neg (by omega)]
        · rfl

theorem lookupKey_none {α : Type} (j : Nat) (l : List (Nat × α)) (h : ∀ x ∈ l, x.1 ≠ j) : lookupKey j l = none := by
  induction l with
  | nil => rfl
  | cons a t ih =>
    simp only [List.mem_cons, forall_eq_or_imp] at h
    simp only [lookupKey, if_neg h.1, ih h.2]

/-- A key after another is removed. -/
theorem lookupKey_eraseKey {α : Type} (k j : Nat) (l : List (Nat × α)) (h : (l.map (·.1)).Pairwise (· < ·)) :
    lookupKey j (eraseKey k l) = if j = k then none else lookupKey j l := by
  induction l with
  | nil => simp [eraseKey, lookupKey]
  | cons a t ih =>
    obtain ⟨a, w⟩ := a
    simp only [List.map_cons, List.pairwise_cons] at h
    simp only [eraseKey]
    split
    · rename_i hk; subst hk
      split
      · subst_vars
        exact lookupKey_none _ _ fun x hx => Nat.ne_of_gt (h.1 _ (List.mem_map_of_mem hx))
      · rename_i h3; simp only [lookupKey, if_neg (Ne.symm h3)]
    · rename_i h2
      simp only [lookupKey, ih h.2]
      split
      · rename_i h3; rw [if_neg (by omega)]
      · rfl

theorem insertNat_mem (k : Nat) (l : List Nat) (x : Nat) : x ∈ insertNat k l ↔ x = k ∨ x ∈ l := by
  induction l with
  | nil => simp [insertNat]
  | cons a t ih =>
    simp only [insertNat]
    split
    · simp
    · split
      · rename_i h; subst h; simp
      · simp only [List.mem_cons, ih]; tauto

theorem insertNat_sorted (k : Nat) (l : List Nat) (h : l.Pairwise (· < ·)) : (insertNat k l).Pairwise (· < ·) := by
  induction l with
  | nil => simp [insertNat]
  | cons a t ih =>
    simp only [List.pairwise_cons] at h
    simp only [insertNat]
    split
    · rename_i hk
      simp only [List.pairwise_cons, List.mem_cons, forall_eq_or_imp]
      exact ⟨⟨hk, fun x hx => Nat.lt_trans hk (h.1 x hx)⟩, h⟩
    · split
      · simpa using h
      · simp only [List.pairwise_cons]
        refine ⟨fun x hx => ?_, ih h.2⟩
        rcases (insertNat_mem _ _ _).1 hx with rfl | hx
        · omega
        · exact h.1 x hx

theorem badRange_sorted (n : Nat) : ∀ (w : Nat) (l : List Nat), l.Pairwise (· < ·) → (badRange w n l).Pairwise (· < ·) := by
  induction n with
  | zero => intro w l h; exact h
  | succ n ih => intro w l h; exact ih _ _ (insertNat_sorted _ _ h)

theorem badRange_mem (n : Nat) : ∀ (w : Nat) (l : List Nat) (x : Nat), x ∈ badRange w n l ↔ (w ≤ x ∧ x < w + n) ∨ x ∈ l := by
  induction n with
  | zero => intro w l x; simp [badRange]
  | succ n ih =>
    intro w l x
    simp only [badRange, ih, insertNat_mem]
    constructor
    · rintro (h | rfl | h)
      · left; omega
      · left; omega
      · exact .inr h
    · rintro (h | h)
      · by_cases e : x = w
        · exact .inr (.inl e)
        · left; omega
      · exact .inr (.inr h)

/-! ### The canonical form -/

theorem Mem.empty_wf : Mem.empty.wf = true := rfl

theorem Mem.set_wf (m : Mem) (a : Nat) (b : Byte) (h : m.wf = true) : (m.set a b).wf = true := by
  rw [Mem.wf_iff] at h ⊢
  refine ⟨?_, ?_, h.2.2⟩
  · show ((m.set a b).cells.map (·.1)).Pairwise (· < ·)
    unfold Mem.set; dsimp only; split
    · exact eraseKey_sorted _ _ h.1
    · exact insertKey_sorted _ _ _ h.1
  · show ∀ c ∈ (m.set a b).cells, c.2 ≠ 0
    unfold Mem.set; dsimp only; split
    · exact fun c hc => h.2.1 c (mem_eraseKey _ _ _ hc)
    · rename_i hb
      intro c hc
      rcases mem_insertKey _ _ _ _ hc with rfl | hc
      · exact hb
      · exact h.2.1 c hc

@[simp] theorem Mem.set_bad (m : Mem) (a : Nat) (b : Byte) : (m.set a b).bad = m.bad := rfl

theorem Mem.setBytes_wf (bs : List Byte) : ∀ (m : Mem) (a : Nat), m.wf = true → (m.setBytes a bs).wf = true := by
  induction bs with
  | nil => intro m a h; exact h
  | cons b t ih => intro m a h; exact ih _ _ (m.set_wf a b h)

@[simp] theorem Mem.setBytes_bad (bs : List Byte) : ∀ (m : Mem) (a : Nat), (m.setBytes a bs).bad = m.bad := by
  induction bs with
  | nil => intro m a; rfl
  | cons b t ih => intro m a; exact ih _ _

theorem Mem.setN_wf (m : Mem) (a n v : Nat) (h : m.wf = true) : (m.setN a n v).wf = true := Mem.setBytes_wf _ _ _ h

/-- The canonical form does not ask anything of the poisoned words but that they rise. -/
theorem Mem.wf_bad (m : Mem) (l : List Nat) (h : m.wf = true) (hl : l.Pairwise (· < ·)) : ({ m with bad := l } : Mem).wf = true := by
  rw [Mem.wf_iff] at h ⊢; exact ⟨h.1, h.2.1, hl⟩

theorem Mem.bad_sorted (m : Mem) (h : m.wf = true) : m.bad.Pairwise (· < ·) := ((Mem.wf_iff m).1 h).2.2

theorem Mem.store_wf (m : Mem) (a : Nat) (bs : List Byte) (p : Bool) (h : m.wf = true) : (m.store a bs p).wf = true := by
  have h1 := Mem.setBytes_wf bs m a h
  unfold Mem.store; dsimp only
  split
  · exact Mem.wf_bad _ _ h1 (badRange_sorted _ _ _ (Mem.bad_sorted _ h1))
  · exact Mem.wf_bad _ _ h1 ((Mem.bad_sorted _ h1).filter _)

theorem Mem.spoil_wf (m : Mem) (w : Nat) (h : m.wf = true) : (m.spoil w).wf = true :=
  Mem.wf_bad _ _ h (insertNat_sorted _ _ (Mem.bad_sorted _ h))

/-- What a slice holds: its cells and its poisoned words lie in the range that it is moved to. -/
theorem Mem.slice_cells (m : Mem) (lo n at0 : Nat) (c : Nat × Byte) (h : c ∈ (m.slice lo n at0).cells) : at0 ≤ c.1 ∧ c.1 < at0 + n := by
  simp only [Mem.slice, List.mem_map, List.mem_filter, Bool.and_eq_true, decide_eq_true_eq] at h
  obtain ⟨x, ⟨-, h1, h2⟩, rfl⟩ := h
  dsimp only; omega

theorem Mem.slice_bad (m : Mem) (lo n at0 w : Nat) (hl : lo % 8 = 0) (ha : at0 % 8 = 0) (h : w ∈ (m.slice lo n at0).bad) :
    at0 ≤ 8 * w ∧ 8 * w < at0 + n := by
  simp only [Mem.slice, List.mem_map, List.mem_filter, Bool.and_eq_true, decide_eq_true_eq] at h
  obtain ⟨x, ⟨-, h1, h2⟩, rfl⟩ := h
  omega

/-- A slice with other poisoned words. -/
theorem Mem.slice_wf_bad (m : Mem) (lo n at0 : Nat) (l : List Nat) (h : m.wf = true) (hl : l.Pairwise (· < ·)) :
    ({ m.slice lo n at0 with bad := l } : Mem).wf = true := by
  have h0 := (Mem.wf_iff m).1 h
  rw [Mem.wf_iff]
  refine ⟨?_, ?_, hl⟩
  · simp only [Mem.slice, List.map_map]
    rw [List.pairwise_map]
    refine ((List.pairwise_map.1 h0.1).filter (fun c => decide (lo ≤ c.1) && decide (c.1 < lo + n))).imp_of_mem ?_
    intro x y hx hy hxy
    simp only [List.mem_filter, Bool.and_eq_true, decide_eq_true_eq] at hx hy
    simp only [Function.comp]; omega
  · intro c hc
    simp only [Mem.slice, List.mem_map, List.mem_filter] at hc
    obtain ⟨x, ⟨hx, -⟩, rfl⟩ := hc
    exact h0.2.1 x hx

theorem Mem.slice_wf (m : Mem) (lo n at0 : Nat) (h : m.wf = true) (hl : lo % 8 = 0) : (m.slice lo n at0).wf = true := by
  refine Mem.slice_wf_bad m lo n at0 _ h ?_
  rw [List.pairwise_map]
  refine ((Mem.bad_sorted m h).filter _).imp_of_mem ?_
  intro x y hx hy hxy
  simp only [List.mem_filter, Bool.and_eq_true, decide_eq_true_eq] at hx hy
  omega

/-- A range is replaced by a memory that holds cells and poisoned words of that range only. -/
theorem Mem.paste_wf (m x : Mem) (at0 n : Nat) (h : m.wf = true) (hx : x.wf = true) (hc : ∀ c ∈ x.cells, at0 ≤ c.1 ∧ c.1 < at0 + n)
    (hb : ∀ w ∈ x.bad, at0 ≤ 8 * w ∧ 8 * w < at0 + n) : (m.paste x at0 n).wf = true := by
  rw [Mem.wf_iff] at h hx ⊢
  refine ⟨?_, ?_, ?_⟩
  · simp only [Mem.paste, List.map_append, List.pairwise_append, List.pairwise_map, List.mem_append, List.mem_map, List.mem_filter,
      decide_eq_true_eq]
    refine ⟨⟨(List.pairwise_map.1 h.1).filter _, List.pairwise_map.1 hx.1, ?_⟩, (List.pairwise_map.1 h.1).filter _, ?_⟩
    · rintro a ⟨y, ⟨-, hy⟩, rfl⟩ b ⟨z, hz, rfl⟩
      have := hc z hz; omega
    · rintro a (⟨y, ⟨-, hy⟩, rfl⟩ | ⟨y, hy, rfl⟩) b ⟨z, ⟨-, hz⟩, rfl⟩
      · omega
      · have := hc y hy; omega
  · intro c hc'
    simp only [Mem.paste, List.mem_append, List.mem_filter] at hc'
    rcases hc' with (⟨h1, -⟩ | h1) | ⟨h1, -⟩
    · exact h.2.1 c h1
    · exact hx.2.1 c h1
    · exact h.2.1 c h1
  · simp only [Mem.paste, List.pairwise_append, List.mem_append, List.mem_filter, decide_eq_true_eq]
    refine ⟨⟨h.2.2.filter _, hx.2.2, ?_⟩, h.2.2.filter _, ?_⟩
    · rintro a ⟨-, ha⟩ b hb'
      have := hb b hb'; omega
    · rintro a (⟨-, ha⟩ | ha) b ⟨-, hb'⟩
      · omega
      · have := hb a ha; omega

/-- A copy between memories at multiples of 8 keeps the form. -/
theorem Mem.copyRange_wf (src dst : Mem) (lo n at0 : Nat) (hs : src.wf = true) (hd : dst.wf = true) (hl : lo % 8 = 0) (ha : at0 % 8 = 0) :
    (src.copyRange dst lo n at0).wf = true :=
  Mem.paste_wf _ _ _ _ hd (Mem.slice_wf _ _ _ _ hs hl) (fun c hc => Mem.slice_cells _ _ _ _ c hc) fun w hw => Mem.slice_bad _ _ _ _ w hl ha hw

/-- A cleared range. -/
theorem Mem.paste_empty_wf (m : Mem) (at0 n : Nat) (h : m.wf = true) : (m.paste Mem.empty at0 n).wf = true :=
  Mem.paste_wf _ _ _ _ h rfl (fun _ hc => absurd hc List.not_mem_nil) fun _ hw => absurd hw List.not_mem_nil

/-! ### Reads after writes -/

theorem Mem.get_set (m : Mem) (a b : Nat) (x : Byte) (h : m.wf = true) : (m.set a x).get b = if b = a then x else m.get b := by
  have hs := ((Mem.wf_iff m).1 h).1
  unfold Mem.get Mem.set; dsimp only
  split
  · rename_i hx
    rw [lookupKey_eraseKey _ _ _ hs]
    split
    · exact hx.symm
    · rfl
  · rw [lookupKey_insertKey _ _ _ _ hs]
    split <;> rfl

theorem Mem.get_setBytes (bs : List Byte) : ∀ (m : Mem) (a b : Nat), m.wf = true →
    (m.setBytes a bs).get b = if a ≤ b ∧ b < a + bs.length then (bs[b - a]?).getD 0 else m.get b := by
  induction bs with
  | nil => intro m a b _; rw [if_neg (by simp)]; rfl
  | cons x t ih =>
    intro m a b h
    show ((m.set a x).setBytes (a + 1) t).get b = _
    rw [ih _ _ _ (m.set_wf a x h), m.get_set a b x h]
    by_cases e : b = a
    · subst e
      rw [if_neg (by omega), if_pos rfl, if_pos (by simp)]
      simp
    · by_cases c : a + 1 ≤ b ∧ b < a + 1 + t.length
      · rw [if_pos c, if_pos (by simp; omega)]
        rw [show b - a = (b - (a + 1)) + 1 by omega, List.getElem?_cons_succ]
      · rw [if_neg c, if_neg e, if_neg (by simp; omega)]

/-- A store writes its bytes and leaves every other byte. -/
theorem Mem.get_store (m : Mem) (a b : Nat) (bs : List Byte) (p : Bool) (h : m.wf = true) :
    (m.store a bs p).get b = if a ≤ b ∧ b < a + bs.length then (bs[b - a]?).getD 0 else m.get b := by
  rw [← Mem.get_setBytes bs m a b h]
  unfold Mem.store; dsimp only; split <;> rfl

end Sys2Proof.Machine
end

