-- ==== Sys2Proof/Laws/State.lean ====
section
/-! SUPPORT. What each update of the state leaves in each field, so that no proof unfolds a record update. -/
namespace Sys2Proof.Machine

/-! ### Registers -/

@[simp] theorem Regs.setS_v (x : Regs) (r : SReg) (v : Word) (b : Bool) : (x.setS r v b).v = x.v := by unfold Regs.setS; split <;> rfl
@[simp] theorem Regs.setS_m (x : Regs) (r : SReg) (v : Word) (b : Bool) : (x.setS r v b).m = x.m := by unfold Regs.setS; split <;> rfl
@[simp] theorem Regs.setS_a (x : Regs) (r : SReg) (v : Word) (b : Bool) : (x.setS r v b).a = x.a := by unfold Regs.setS; split <;> rfl
@[simp] theorem Regs.setS_q (x : Regs) (r : SReg) (v : Word) (b : Bool) : (x.setS r v b).q = x.q := by unfold Regs.setS; split <;> rfl
@[simp] theorem Regs.setS_h (x : Regs) (r : SReg) (v : Word) (b : Bool) : (x.setS r v b).h = x.h := by unfold Regs.setS; split <;> rfl
@[simp] theorem Regs.setM_s (x : Regs) (r : MIdx) (v : MReg) : (x.setM r v).s = x.s := by unfold Regs.setM; split <;> rfl
@[simp] theorem Regs.setM_sPoison (x : Regs) (r : MIdx) (v : MReg) : (x.setM r v).sPoison = x.sPoison := by unfold Regs.setM; split <;> rfl
@[simp] theorem Regs.setM_v (x : Regs) (r : MIdx) (v : MReg) : (x.setM r v).v = x.v := by unfold Regs.setM; split <;> rfl
@[simp] theorem Regs.setM_a (x : Regs) (r : MIdx) (v : MReg) : (x.setM r v).a = x.a := by unfold Regs.setM; split <;> rfl
@[simp] theorem Regs.setM_q (x : Regs) (r : MIdx) (v : MReg) : (x.setM r v).q = x.q := by unfold Regs.setM; split <;> rfl
@[simp] theorem Regs.setM_h (x : Regs) (r : MIdx) (v : MReg) : (x.setM r v).h = x.h := by unfold Regs.setM; split <;> rfl
@[simp] theorem Regs.setV_s (x : Regs) (r : VIdx) (v : VReg) : (x.setV r v).s = x.s := rfl
@[simp] theorem Regs.setV_sPoison (x : Regs) (r : VIdx) (v : VReg) : (x.setV r v).sPoison = x.sPoison := rfl
@[simp] theorem Regs.setV_m (x : Regs) (r : VIdx) (v : VReg) : (x.setV r v).m = x.m := rfl
@[simp] theorem Regs.setV_a (x : Regs) (r : VIdx) (v : VReg) : (x.setV r v).a = x.a := rfl
@[simp] theorem Regs.setV_q (x : Regs) (r : VIdx) (v : VReg) : (x.setV r v).q = x.q := rfl
@[simp] theorem Regs.setV_h (x : Regs) (r : VIdx) (v : VReg) : (x.setV r v).h = x.h := rfl
@[simp] theorem Regs.setA_s (x : Regs) (r : AIdx) (v : Tile) : (x.setA r v).s = x.s := rfl
@[simp] theorem Regs.setA_sPoison (x : Regs) (r : AIdx) (v : Tile) : (x.setA r v).sPoison = x.sPoison := rfl
@[simp] theorem Regs.setA_v (x : Regs) (r : AIdx) (v : Tile) : (x.setA r v).v = x.v := rfl
@[simp] theorem Regs.setA_m (x : Regs) (r : AIdx) (v : Tile) : (x.setA r v).m = x.m := rfl
@[simp] theorem Regs.setA_q (x : Regs) (r : AIdx) (v : Tile) : (x.setA r v).q = x.q := rfl
@[simp] theorem Regs.setA_h (x : Regs) (r : AIdx) (v : Tile) : (x.setA r v).h = x.h := rfl
@[simp] theorem Regs.setQ_s (x : Regs) (r : QIdx) (v : Stream) : (x.setQ r v).s = x.s := rfl
@[simp] theorem Regs.setQ_sPoison (x : Regs) (r : QIdx) (v : Stream) : (x.setQ r v).sPoison = x.sPoison := rfl
@[simp] theorem Regs.setQ_v (x : Regs) (r : QIdx) (v : Stream) : (x.setQ r v).v = x.v := rfl
@[simp] theorem Regs.setQ_m (x : Regs) (r : QIdx) (v : Stream) : (x.setQ r v).m = x.m := rfl
@[simp] theorem Regs.setQ_a (x : Regs) (r : QIdx) (v : Stream) : (x.setQ r v).a = x.a := rfl
@[simp] theorem Regs.setQ_h (x : Regs) (r : QIdx) (v : Stream) : (x.setQ r v).h = x.h := rfl
@[simp] theorem Regs.setV_v (x : Regs) (r : VIdx) (v : VReg) : (x.setV r v).v = x.v.set r v := rfl
@[simp] theorem Regs.setA_a (x : Regs) (r : AIdx) (v : Tile) : (x.setA r v).a = x.a.set r v := rfl
@[simp] theorem Regs.setQ_q (x : Regs) (r : QIdx) (v : Stream) : (x.setQ r v).q = x.q.set r v := rfl

/-- A register after another is written: s0 reads zero and takes nothing (01 R16). -/
theorem Regs.getS_setS (x : Regs) (r t : SReg) (v : Word) (b : Bool) : (x.setS r v b).getS t = if t = r ∧ r ≠ 0 then v else x.getS t := by
  unfold Regs.setS Regs.getS
  by_cases hr : r = 0
  · subst hr; simp
  · by_cases ht : t = 0
    · subst ht; simp [Ne.symm hr]
    · simp only [hr, ht, if_false, ne_eq, not_false_eq_true, and_true]
      by_cases e : t = r
      · subst e; simp
      · rw [if_neg e]
        exact Vector.getElem_set_ne _ _ fun h => e (Fin.ext h.symm)
/-- The poison of a register after another is written (04 R99). -/
theorem Regs.badS_setS (x : Regs) (r t : SReg) (v : Word) (b : Bool) : (x.setS r v b).badS t = if t = r ∧ r ≠ 0 then b else x.badS t := by
  unfold Regs.setS Regs.badS
  by_cases hr : r = 0
  · subst hr; simp
  · by_cases e : t = r
    · subst e
      cases b <;> simp [hr]
    · have e' : t.val ≠ r.val := fun h => e (Fin.ext h)
      have e2 : t.val < r.val ∨ t.val - r.val ≠ 0 := by omega
      have e3 : decide (t < r) = decide (t.val < r.val) := rfl
      cases b <;> rcases e2 with c | c <;> simp [hr, e, e3, c]
/-- A mask after another is written: m0 reads all ones and takes nothing (01 R16). -/
theorem Regs.getM_setM (x : Regs) (r t : MIdx) (v : MReg) : (x.setM r v).getM t = if t = r ∧ r ≠ 0 then v else x.getM t := by
  unfold Regs.setM Regs.getM
  by_cases hr : r = 0
  · subst hr; simp
  · by_cases ht : t = 0
    · subst ht; simp [Ne.symm hr]
    · simp only [hr, ht, if_false, ne_eq, not_false_eq_true, and_true]
      by_cases e : t = r
      · subst e; simp
      · rw [if_neg e]
        exact Vector.getElem_set_ne _ _ fun h => e (Fin.ext h.symm)
/-- A vector register after another is written. -/
theorem Regs.v_setV (x : Regs) (r t : VIdx) (v : VReg) : (x.setV r v).v[t] = if t = r then v else x.v[t] := by
  by_cases e : t = r
  · subst e; simp [Regs.setV]
  · rw [if_neg e]
    exact Vector.getElem_set_ne r.isLt t.isLt fun h => e (Fin.ext h.symm)

/-! ### Harts -/

@[simp] theorem Hart.setS_id (h : Hart) (r : SReg) (v : Word) (b : Bool) : (h.setS r v b).id = h.id := rfl
@[simp] theorem Hart.setS_handle (h : Hart) (r : SReg) (v : Word) (b : Bool) : (h.setS r v b).handle = h.handle := rfl
@[simp] theorem Hart.setS_nhart (h : Hart) (r : SReg) (v : Word) (b : Bool) : (h.setS r v b).nhart = h.nhart := rfl
@[simp] theorem Hart.setS_nspire (h : Hart) (r : SReg) (v : Word) (b : Bool) : (h.setS r v b).nspire = h.nspire := rfl
@[simp] theorem Hart.setS_pmode (h : Hart) (r : SReg) (v : Word) (b : Bool) : (h.setS r v b).pmode = h.pmode := rfl
@[simp] theorem Hart.setS_phys (h : Hart) (r : SReg) (v : Word) (b : Bool) : (h.setS r v b).phys = h.phys := rfl
@[simp] theorem Hart.setS_slot (h : Hart) (r : SReg) (v : Word) (b : Bool) : (h.setS r v b).slot = h.slot := rfl
@[simp] theorem Hart.setS_pc (h : Hart) (r : SReg) (v : Word) (b : Bool) : (h.setS r v b).pc = h.pc := rfl
@[simp] theorem Hart.setS_hcr (h : Hart) (r : SReg) (v : Word) (b : Bool) : (h.setS r v b).hcr = h.hcr := rfl
@[simp] theorem Hart.setS_tk (h : Hart) (r : SReg) (v : Word) (b : Bool) : (h.setS r v b).tk = h.tk := rfl
@[simp] theorem Hart.setS_tkPend (h : Hart) (r : SReg) (v : Word) (b : Bool) : (h.setS r v b).tkPend = h.tkPend := rfl
@[simp] theorem Hart.setS_inHandler (h : Hart) (r : SReg) (v : Word) (b : Bool) : (h.setS r v b).inHandler = h.inHandler := rfl
@[simp] theorem Hart.setS_serial (h : Hart) (r : SReg) (v : Word) (b : Bool) : (h.setS r v b).serial = h.serial := rfl
@[simp] theorem Hart.setS_haltTime (h : Hart) (r : SReg) (v : Word) (b : Bool) : (h.setS r v b).haltTime = h.haltTime := rfl
@[simp] theorem Hart.setS_opened (h : Hart) (r : SReg) (v : Word) (b : Bool) : (h.setS r v b).opened = h.opened := rfl
@[simp] theorem Hart.setS_ckpt (h : Hart) (r : SReg) (v : Word) (b : Bool) : (h.setS r v b).ckpt = h.ckpt := rfl
@[simp] theorem Hart.setS_buf (h : Hart) (r : SReg) (v : Word) (b : Bool) : (h.setS r v b).buf = h.buf := rfl
@[simp] theorem Hart.setS_charge (h : Hart) (r : SReg) (v : Word) (b : Bool) : (h.setS r v b).charge = h.charge := rfl
@[simp] theorem Hart.setS_stripNs (h : Hart) (r : SReg) (v : Word) (b : Bool) : (h.setS r v b).stripNs = h.stripNs := rfl
@[simp] theorem Hart.setS_fresh (h : Hart) (r : SReg) (v : Word) (b : Bool) : (h.setS r v b).fresh = h.fresh := rfl
@[simp] theorem Hart.setS_links (h : Hart) (r : SReg) (v : Word) (b : Bool) : (h.setS r v b).links = h.links := rfl
@[simp] theorem Hart.setS_fails (h : Hart) (r : SReg) (v : Word) (b : Bool) : (h.setS r v b).fails = h.fails := rfl
@[simp] theorem Hart.setS_stall (h : Hart) (r : SReg) (v : Word) (b : Bool) : (h.setS r v b).stall = h.stall := rfl
@[simp] theorem Hart.setS_waitQ (h : Hart) (r : SReg) (v : Word) (b : Bool) : (h.setS r v b).waitQ = h.waitQ := rfl
@[simp] theorem Hart.setS_parked (h : Hart) (r : SReg) (v : Word) (b : Bool) : (h.setS r v b).parked = h.parked := rfl
@[simp] theorem Hart.setS_presAt (h : Hart) (r : SReg) (v : Word) (b : Bool) : (h.setS r v b).presAt = h.presAt := rfl
@[simp] theorem Hart.setS_begun (h : Hart) (r : SReg) (v : Word) (b : Bool) : (h.setS r v b).begun = h.begun := rfl
@[simp] theorem Hart.setS_todo (h : Hart) (r : SReg) (v : Word) (b : Bool) : (h.setS r v b).todo = h.todo := rfl
@[simp] theorem Hart.setS_got (h : Hart) (r : SReg) (v : Word) (b : Bool) : (h.setS r v b).got = h.got := rfl
@[simp] theorem Hart.setS_lost (h : Hart) (r : SReg) (v : Word) (b : Bool) : (h.setS r v b).lost = h.lost := rfl
@[simp] theorem Hart.setS_doing (h : Hart) (r : SReg) (v : Word) (b : Bool) : (h.setS r v b).doing = h.doing := rfl
@[simp] theorem Hart.setS_away (h : Hart) (r : SReg) (v : Word) (b : Bool) : (h.setS r v b).away = h.away := rfl
@[simp] theorem Hart.setS_pace (h : Hart) (r : SReg) (v : Word) (b : Bool) : (h.setS r v b).pace = h.pace := rfl
@[simp] theorem Hart.setS_claimed (h : Hart) (r : SReg) (v : Word) (b : Bool) : (h.setS r v b).claimed = h.claimed := rfl
@[simp] theorem Hart.setS_loads (h : Hart) (r : SReg) (v : Word) (b : Bool) : (h.setS r v b).loads = h.loads := rfl
@[simp] theorem Hart.setS_lateGlb (h : Hart) (r : SReg) (v : Word) (b : Bool) : (h.setS r v b).lateGlb = h.lateGlb := rfl
@[simp] theorem Hart.setS_fault (h : Hart) (r : SReg) (v : Word) (b : Bool) : (h.setS r v b).fault = h.fault := rfl
@[simp] theorem Hart.setS_preemptReq (h : Hart) (r : SReg) (v : Word) (b : Bool) : (h.setS r v b).preemptReq = h.preemptReq := rfl
@[simp] theorem Hart.setS_freezeReq (h : Hart) (r : SReg) (v : Word) (b : Bool) : (h.setS r v b).freezeReq = h.freezeReq := rfl
@[simp] theorem Hart.setS_fabricReq (h : Hart) (r : SReg) (v : Word) (b : Bool) : (h.setS r v b).fabricReq = h.fabricReq := rfl
@[simp] theorem Hart.setS_out (h : Hart) (r : SReg) (v : Word) (b : Bool) : (h.setS r v b).out = h.out := rfl
@[simp] theorem Hart.setS_regs (h : Hart) (r : SReg) (v : Word) (b : Bool) : (h.setS r v b).regs = h.regs.setS r v b := rfl
@[simp] theorem Hart.orFlags_id (h : Hart) (x : FlagSet) : (h.orFlags x).id = h.id := rfl
@[simp] theorem Hart.orFlags_handle (h : Hart) (x : FlagSet) : (h.orFlags x).handle = h.handle := rfl
@[simp] theorem Hart.orFlags_nhart (h : Hart) (x : FlagSet) : (h.orFlags x).nhart = h.nhart := rfl
@[simp] theorem Hart.orFlags_nspire (h : Hart) (x : FlagSet) : (h.orFlags x).nspire = h.nspire := rfl
@[simp] theorem Hart.orFlags_pmode (h : Hart) (x : FlagSet) : (h.orFlags x).pmode = h.pmode := rfl
@[simp] theorem Hart.orFlags_phys (h : Hart) (x : FlagSet) : (h.orFlags x).phys = h.phys := rfl
@[simp] theorem Hart.orFlags_slot (h : Hart) (x : FlagSet) : (h.orFlags x).slot = h.slot := rfl
@[simp] theorem Hart.orFlags_pc (h : Hart) (x : FlagSet) : (h.orFlags x).pc = h.pc := rfl
@[simp] theorem Hart.orFlags_hcr (h : Hart) (x : FlagSet) : (h.orFlags x).hcr = h.hcr := rfl
@[simp] theorem Hart.orFlags_tk (h : Hart) (x : FlagSet) : (h.orFlags x).tk = h.tk := rfl
@[simp] theorem Hart.orFlags_tkPend (h : Hart) (x : FlagSet) : (h.orFlags x).tkPend = h.tkPend := rfl
@[simp] theorem Hart.orFlags_inHandler (h : Hart) (x : FlagSet) : (h.orFlags x).inHandler = h.inHandler := rfl
@[simp] theorem Hart.orFlags_serial (h : Hart) (x : FlagSet) : (h.orFlags x).serial = h.serial := rfl
@[simp] theorem Hart.orFlags_haltTime (h : Hart) (x : FlagSet) : (h.orFlags x).haltTime = h.haltTime := rfl
@[simp] theorem Hart.orFlags_opened (h : Hart) (x : FlagSet) : (h.orFlags x).opened = h.opened := rfl
@[simp] theorem Hart.orFlags_ckpt (h : Hart) (x : FlagSet) : (h.orFlags x).ckpt = h.ckpt := rfl
@[simp] theorem Hart.orFlags_buf (h : Hart) (x : FlagSet) : (h.orFlags x).buf = h.buf := rfl
@[simp] theorem Hart.orFlags_charge (h : Hart) (x : FlagSet) : (h.orFlags x).charge = h.charge := rfl
@[simp] theorem Hart.orFlags_stripNs (h : Hart) (x : FlagSet) : (h.orFlags x).stripNs = h.stripNs := rfl
@[simp] theorem Hart.orFlags_fresh (h : Hart) (x : FlagSet) : (h.orFlags x).fresh = h.fresh := rfl
@[simp] theorem Hart.orFlags_links (h : Hart) (x : FlagSet) : (h.orFlags x).links = h.links := rfl
@[simp] theorem Hart.orFlags_fails (h : Hart) (x : FlagSet) : (h.orFlags x).fails = h.fails := rfl
@[simp] theorem Hart.orFlags_stall (h : Hart) (x : FlagSet) : (h.orFlags x).stall = h.stall := rfl
@[simp] theorem Hart.orFlags_waitQ (h : Hart) (x : FlagSet) : (h.orFlags x).waitQ = h.waitQ := rfl
@[simp] theorem Hart.orFlags_parked (h : Hart) (x : FlagSet) : (h.orFlags x).parked = h.parked := rfl
@[simp] theorem Hart.orFlags_presAt (h : Hart) (x : FlagSet) : (h.orFlags x).presAt = h.presAt := rfl
@[simp] theorem Hart.orFlags_begun (h : Hart) (x : FlagSet) : (h.orFlags x).begun = h.begun := rfl
@[simp] theorem Hart.orFlags_todo (h : Hart) (x : FlagSet) : (h.orFlags x).todo = h.todo := rfl
@[simp] theorem Hart.orFlags_got (h : Hart) (x : FlagSet) : (h.orFlags x).got = h.got := rfl
@[simp] theorem Hart.orFlags_lost (h : Hart) (x : FlagSet) : (h.orFlags x).lost = h.lost := rfl
@[simp] theorem Hart.orFlags_doing (h : Hart) (x : FlagSet) : (h.orFlags x).doing = h.doing := rfl
@[simp] theorem Hart.orFlags_away (h : Hart) (x : FlagSet) : (h.orFlags x).away = h.away := rfl
@[simp] theorem Hart.orFlags_pace (h : Hart) (x : FlagSet) : (h.orFlags x).pace = h.pace := rfl
@[simp] theorem Hart.orFlags_claimed (h : Hart) (x : FlagSet) : (h.orFlags x).claimed = h.claimed := rfl
@[simp] theorem Hart.orFlags_loads (h : Hart) (x : FlagSet) : (h.orFlags x).loads = h.loads := rfl
@[simp] theorem Hart.orFlags_lateGlb (h : Hart) (x : FlagSet) : (h.orFlags x).lateGlb = h.lateGlb := rfl
@[simp] theorem Hart.orFlags_fault (h : Hart) (x : FlagSet) : (h.orFlags x).fault = h.fault := rfl
@[simp] theorem Hart.orFlags_preemptReq (h : Hart) (x : FlagSet) : (h.orFlags x).preemptReq = h.preemptReq := rfl
@[simp] theorem Hart.orFlags_freezeReq (h : Hart) (x : FlagSet) : (h.orFlags x).freezeReq = h.freezeReq := rfl
@[simp] theorem Hart.orFlags_fabricReq (h : Hart) (x : FlagSet) : (h.orFlags x).fabricReq = h.fabricReq := rfl
@[simp] theorem Hart.orFlags_out (h : Hart) (x : FlagSet) : (h.orFlags x).out = h.out := rfl
@[simp] theorem Hart.orFlags_regs_s (h : Hart) (x : FlagSet) : (h.orFlags x).regs.s = h.regs.s := rfl
@[simp] theorem Hart.orFlags_regs_sPoison (h : Hart) (x : FlagSet) : (h.orFlags x).regs.sPoison = h.regs.sPoison := rfl
@[simp] theorem Hart.orFlags_regs_v (h : Hart) (x : FlagSet) : (h.orFlags x).regs.v = h.regs.v := rfl
@[simp] theorem Hart.orFlags_regs_m (h : Hart) (x : FlagSet) : (h.orFlags x).regs.m = h.regs.m := rfl
@[simp] theorem Hart.orFlags_regs_a (h : Hart) (x : FlagSet) : (h.orFlags x).regs.a = h.regs.a := rfl
@[simp] theorem Hart.orFlags_regs_q (h : Hart) (x : FlagSet) : (h.orFlags x).regs.q = h.regs.q := rfl
@[simp] theorem Hart.orFlags_fflags (h : Hart) (x : FlagSet) : (h.orFlags x).regs.h.fflags = h.regs.h.fflags ||| (x &&& 0x00FF#16) := rfl

/-! ### The machine -/

@[simp] theorem State.goesOn_hart (s : State) (h : Hart) (n : Nat) : (s.goesOn h n).hart = { h with pc := h.pc + BitVec.ofNat 64 n, fresh := false, stall := none } := rfl
@[simp] theorem State.goesOn_others (s : State) (h : Hart) (n : Nat) : (s.goesOn h n).others = s.others := rfl
@[simp] theorem State.goesOn_dev (s : State) (h : Hart) (n : Nat) : (s.goesOn h n).dev = s.dev := rfl
@[simp] theorem State.goesOn_host (s : State) (h : Hart) (n : Nat) : (s.goesOn h n).host = s.host := rfl
@[simp] theorem State.goesOn_spad (s : State) (h : Hart) (n : Nat) : (s.goesOn h n).spad = s.spad := rfl
@[simp] theorem State.goesOn_sdm (s : State) (h : Hart) (n : Nat) : (s.goesOn h n).sdm = s.sdm := rfl
@[simp] theorem State.goesOn_portBad (s : State) (h : Hart) (n : Nat) : (s.goesOn h n).portBad = s.portBad := rfl
@[simp] theorem State.goesOn_full (s : State) (h : Hart) (n : Nat) : (s.goesOn h n).full = s.full := rfl
@[simp] theorem State.goesOn_frames (s : State) (h : Hart) (n : Nat) : (s.goesOn h n).frames = s.frames := rfl
@[simp] theorem State.goesOn_flight (s : State) (h : Hart) (n : Nat) : (s.goesOn h n).flight = s.flight := rfl
@[simp] theorem State.goesOn_hostOut (s : State) (h : Hart) (n : Nat) : (s.goesOn h n).hostOut = s.hostOut := rfl
@[simp] theorem State.goesOn_hostLines (s : State) (h : Hart) (n : Nat) : (s.goesOn h n).hostLines = s.hostLines := rfl
@[simp] theorem State.goesOn_backInv (s : State) (h : Hart) (n : Nat) : (s.goesOn h n).backInv = s.backInv := rfl
@[simp] theorem State.goesOn_tlb (s : State) (h : Hart) (n : Nat) : (s.goesOn h n).tlb = s.tlb := rfl
@[simp] theorem State.goesOn_nonLeaf (s : State) (h : Hart) (n : Nat) : (s.goesOn h n).nonLeaf = s.nonLeaf := rfl
@[simp] theorem State.goesOn_misses (s : State) (h : Hart) (n : Nat) : (s.goesOn h n).misses = s.misses := rfl
@[simp] theorem State.goesOn_icache (s : State) (h : Hart) (n : Nat) : (s.goesOn h n).icache = s.icache := rfl
@[simp] theorem State.goesOn_deferred (s : State) (h : Hart) (n : Nat) : (s.goesOn h n).deferred = s.deferred := rfl
@[simp] theorem State.goesOn_reservations (s : State) (h : Hart) (n : Nat) : (s.goesOn h n).reservations = s.reservations := rfl
@[simp] theorem State.goesOn_vecOwner (s : State) (h : Hart) (n : Nat) : (s.goesOn h n).vecOwner = s.vecOwner := rfl
@[simp] theorem State.goesOn_ctxStore (s : State) (h : Hart) (n : Nat) : (s.goesOn h n).ctxStore = s.ctxStore := rfl
@[simp] theorem State.goesOn_ctxdesc (s : State) (h : Hart) (n : Nat) : (s.goesOn h n).ctxdesc = s.ctxdesc := rfl
@[simp] theorem State.goesOn_sc (s : State) (h : Hart) (n : Nat) : (s.goesOn h n).sc = s.sc := rfl
@[simp] theorem State.goesOn_scDone (s : State) (h : Hart) (n : Nat) : (s.goesOn h n).scDone = s.scDone := rfl
@[simp] theorem State.goesOn_nstime (s : State) (h : Hart) (n : Nat) : (s.goesOn h n).nstime = s.nstime := rfl
@[simp] theorem State.goesOn_contexts (s : State) (h : Hart) (n : Nat) : (s.goesOn h n).contexts = s.contexts := rfl
@[simp] theorem State.goesOn_rings (s : State) (h : Hart) (n : Nat) : (s.goesOn h n).rings = s.rings := rfl
@[simp] theorem State.goesOn_invs (s : State) (h : Hart) (n : Nat) : (s.goesOn h n).invs = s.invs := rfl
@[simp] theorem State.goesOn_cmds (s : State) (h : Hart) (n : Nat) : (s.goesOn h n).cmds = s.cmds := rfl
@[simp] theorem State.goesOn_nextCmd (s : State) (h : Hart) (n : Nat) : (s.goesOn h n).nextCmd = s.nextCmd := rfl
@[simp] theorem State.goesOn_nextTicket (s : State) (h : Hart) (n : Nat) : (s.goesOn h n).nextTicket = s.nextTicket := rfl
@[simp] theorem State.goesOn_episodes (s : State) (h : Hart) (n : Nat) : (s.goesOn h n).episodes = s.episodes := rfl
@[simp] theorem State.goesOn_landings (s : State) (h : Hart) (n : Nat) : (s.goesOn h n).landings = s.landings := rfl
@[simp] theorem State.goesOn_overflow (s : State) (h : Hart) (n : Nat) : (s.goesOn h n).overflow = s.overflow := rfl
@[simp] theorem State.goesOn_heldPuts (s : State) (h : Hart) (n : Nat) : (s.goesOn h n).heldPuts = s.heldPuts := rfl
@[simp] theorem State.goesOn_fabrics (s : State) (h : Hart) (n : Nat) : (s.goesOn h n).fabrics = s.fabrics := rfl
@[simp] theorem State.goesOn_dist (s : State) (h : Hart) (n : Nat) : (s.goesOn h n).dist = s.dist := rfl
@[simp] theorem State.goesOn_tm (s : State) (h : Hart) (n : Nat) : (s.goesOn h n).tm = s.tm := rfl
@[simp] theorem State.goesOn_belfry (s : State) (h : Hart) (n : Nat) : (s.goesOn h n).belfry = s.belfry := rfl
@[simp] theorem State.goesOn_agenda (s : State) (h : Hart) (n : Nat) : (s.goesOn h n).agenda = s.agenda := rfl
@[simp] theorem State.goesOn_arg (s : State) (h : Hart) (n : Nat) : (s.goesOn h n).arg = s.arg := rfl
@[simp] theorem State.goesOn_draw (s : State) (h : Hart) (n : Nat) : (s.goesOn h n).draw = s.draw := rfl
@[simp] theorem State.goesOn_mgrData (s : State) (h : Hart) (n : Nat) : (s.goesOn h n).mgrData = s.mgrData := rfl
@[simp] theorem State.goesOn_mgrReg (s : State) (h : Hart) (n : Nat) : (s.goesOn h n).mgrReg = s.mgrReg := rfl
@[simp] theorem State.goesOn_barData (s : State) (h : Hart) (n : Nat) : (s.goesOn h n).barData = s.barData := rfl
@[simp] theorem State.jumps_hart (s : State) (h : Hart) (p : Word) : (s.jumps h p).hart = { h with pc := p, fresh := false, stall := none } := rfl
@[simp] theorem State.jumps_others (s : State) (h : Hart) (p : Word) : (s.jumps h p).others = s.others := rfl
@[simp] theorem State.jumps_dev (s : State) (h : Hart) (p : Word) : (s.jumps h p).dev = s.dev := rfl
@[simp] theorem State.jumps_host (s : State) (h : Hart) (p : Word) : (s.jumps h p).host = s.host := rfl
@[simp] theorem State.jumps_spad (s : State) (h : Hart) (p : Word) : (s.jumps h p).spad = s.spad := rfl
@[simp] theorem State.jumps_sdm (s : State) (h : Hart) (p : Word) : (s.jumps h p).sdm = s.sdm := rfl
@[simp] theorem State.jumps_portBad (s : State) (h : Hart) (p : Word) : (s.jumps h p).portBad = s.portBad := rfl
@[simp] theorem State.jumps_full (s : State) (h : Hart) (p : Word) : (s.jumps h p).full = s.full := rfl
@[simp] theorem State.jumps_frames (s : State) (h : Hart) (p : Word) : (s.jumps h p).frames = s.frames := rfl
@[simp] theorem State.jumps_flight (s : State) (h : Hart) (p : Word) : (s.jumps h p).flight = s.flight := rfl
@[simp] theorem State.jumps_hostOut (s : State) (h : Hart) (p : Word) : (s.jumps h p).hostOut = s.hostOut := rfl
@[simp] theorem State.jumps_hostLines (s : State) (h : Hart) (p : Word) : (s.jumps h p).hostLines = s.hostLines := rfl
@[simp] theorem State.jumps_backInv (s : State) (h : Hart) (p : Word) : (s.jumps h p).backInv = s.backInv := rfl
@[simp] theorem State.jumps_tlb (s : State) (h : Hart) (p : Word) : (s.jumps h p).tlb = s.tlb := rfl
@[simp] theorem State.jumps_nonLeaf (s : State) (h : Hart) (p : Word) : (s.jumps h p).nonLeaf = s.nonLeaf := rfl
@[simp] theorem State.jumps_misses (s : State) (h : Hart) (p : Word) : (s.jumps h p).misses = s.misses := rfl
@[simp] theorem State.jumps_icache (s : State) (h : Hart) (p : Word) : (s.jumps h p).icache = s.icache := rfl
@[simp] theorem State.jumps_deferred (s : State) (h : Hart) (p : Word) : (s.jumps h p).deferred = s.deferred := rfl
@[simp] theorem State.jumps_reservations (s : State) (h : Hart) (p : Word) : (s.jumps h p).reservations = s.reservations := rfl
@[simp] theorem State.jumps_vecOwner (s : State) (h : Hart) (p : Word) : (s.jumps h p).vecOwner = s.vecOwner := rfl
@[simp] theorem State.jumps_ctxStore (s : State) (h : Hart) (p : Word) : (s.jumps h p).ctxStore = s.ctxStore := rfl
@[simp] theorem State.jumps_ctxdesc (s : State) (h : Hart) (p : Word) : (s.jumps h p).ctxdesc = s.ctxdesc := rfl
@[simp] theorem State.jumps_sc (s : State) (h : Hart) (p : Word) : (s.jumps h p).sc = s.sc := rfl
@[simp] theorem State.jumps_scDone (s : State) (h : Hart) (p : Word) : (s.jumps h p).scDone = s.scDone := rfl
@[simp] theorem State.jumps_nstime (s : State) (h : Hart) (p : Word) : (s.jumps h p).nstime = s.nstime := rfl
@[simp] theorem State.jumps_contexts (s : State) (h : Hart) (p : Word) : (s.jumps h p).contexts = s.contexts := rfl
@[simp] theorem State.jumps_rings (s : State) (h : Hart) (p : Word) : (s.jumps h p).rings = s.rings := rfl
@[simp] theorem State.jumps_invs (s : State) (h : Hart) (p : Word) : (s.jumps h p).invs = s.invs := rfl
@[simp] theorem State.jumps_cmds (s : State) (h : Hart) (p : Word) : (s.jumps h p).cmds = s.cmds := rfl
@[simp] theorem State.jumps_nextCmd (s : State) (h : Hart) (p : Word) : (s.jumps h p).nextCmd = s.nextCmd := rfl
@[simp] theorem State.jumps_nextTicket (s : State) (h : Hart) (p : Word) : (s.jumps h p).nextTicket = s.nextTicket := rfl
@[simp] theorem State.jumps_episodes (s : State) (h : Hart) (p : Word) : (s.jumps h p).episodes = s.episodes := rfl
@[simp] theorem State.jumps_landings (s : State) (h : Hart) (p : Word) : (s.jumps h p).landings = s.landings := rfl
@[simp] theorem State.jumps_overflow (s : State) (h : Hart) (p : Word) : (s.jumps h p).overflow = s.overflow := rfl
@[simp] theorem State.jumps_heldPuts (s : State) (h : Hart) (p : Word) : (s.jumps h p).heldPuts = s.heldPuts := rfl
@[simp] theorem State.jumps_fabrics (s : State) (h : Hart) (p : Word) : (s.jumps h p).fabrics = s.fabrics := rfl
@[simp] theorem State.jumps_dist (s : State) (h : Hart) (p : Word) : (s.jumps h p).dist = s.dist := rfl
@[simp] theorem State.jumps_tm (s : State) (h : Hart) (p : Word) : (s.jumps h p).tm = s.tm := rfl
@[simp] theorem State.jumps_belfry (s : State) (h : Hart) (p : Word) : (s.jumps h p).belfry = s.belfry := rfl
@[simp] theorem State.jumps_agenda (s : State) (h : Hart) (p : Word) : (s.jumps h p).agenda = s.agenda := rfl
@[simp] theorem State.jumps_arg (s : State) (h : Hart) (p : Word) : (s.jumps h p).arg = s.arg := rfl
@[simp] theorem State.jumps_draw (s : State) (h : Hart) (p : Word) : (s.jumps h p).draw = s.draw := rfl
@[simp] theorem State.jumps_mgrData (s : State) (h : Hart) (p : Word) : (s.jumps h p).mgrData = s.mgrData := rfl
@[simp] theorem State.jumps_mgrReg (s : State) (h : Hart) (p : Word) : (s.jumps h p).mgrReg = s.mgrReg := rfl
@[simp] theorem State.jumps_barData (s : State) (h : Hart) (p : Word) : (s.jumps h p).barData = s.barData := rfl
@[simp] theorem State.mapHarts_hart (s : State) (f : Hart → Hart) : (s.mapHarts f).hart = f s.hart := rfl
@[simp] theorem State.mapHarts_others (s : State) (f : Hart → Hart) : (s.mapHarts f).others = s.others.map f := rfl
@[simp] theorem State.mapHarts_dev (s : State) (f : Hart → Hart) : (s.mapHarts f).dev = s.dev := rfl
@[simp] theorem State.mapHarts_host (s : State) (f : Hart → Hart) : (s.mapHarts f).host = s.host := rfl
@[simp] theorem State.mapHarts_spad (s : State) (f : Hart → Hart) : (s.mapHarts f).spad = s.spad := rfl
@[simp] theorem State.mapHarts_sdm (s : State) (f : Hart → Hart) : (s.mapHarts f).sdm = s.sdm := rfl
@[simp] theorem State.mapHarts_portBad (s : State) (f : Hart → Hart) : (s.mapHarts f).portBad = s.portBad := rfl
@[simp] theorem State.mapHarts_full (s : State) (f : Hart → Hart) : (s.mapHarts f).full = s.full := rfl
@[simp] theorem State.mapHarts_frames (s : State) (f : Hart → Hart) : (s.mapHarts f).frames = s.frames := rfl
@[simp] theorem State.mapHarts_flight (s : State) (f : Hart → Hart) : (s.mapHarts f).flight = s.flight := rfl
@[simp] theorem State.mapHarts_hostOut (s : State) (f : Hart → Hart) : (s.mapHarts f).hostOut = s.hostOut := rfl
@[simp] theorem State.mapHarts_hostLines (s : State) (f : Hart → Hart) : (s.mapHarts f).hostLines = s.hostLines := rfl
@[simp] theorem State.mapHarts_backInv (s : State) (f : Hart → Hart) : (s.mapHarts f).backInv = s.backInv := rfl
@[simp] theorem State.mapHarts_tlb (s : State) (f : Hart → Hart) : (s.mapHarts f).tlb = s.tlb := rfl
@[simp] theorem State.mapHarts_nonLeaf (s : State) (f : Hart → Hart) : (s.mapHarts f).nonLeaf = s.nonLeaf := rfl
@[simp] theorem State.mapHarts_misses (s : State) (f : Hart → Hart) : (s.mapHarts f).misses = s.misses := rfl
@[simp] theorem State.mapHarts_icache (s : State) (f : Hart → Hart) : (s.mapHarts f).icache = s.icache := rfl
@[simp] theorem State.mapHarts_deferred (s : State) (f : Hart → Hart) : (s.mapHarts f).deferred = s.deferred := rfl
@[simp] theorem State.mapHarts_reservations (s : State) (f : Hart → Hart) : (s.mapHarts f).reservations = s.reservations := rfl
@[simp] theorem State.mapHarts_vecOwner (s : State) (f : Hart → Hart) : (s.mapHarts f).vecOwner = s.vecOwner := rfl
@[simp] theorem State.mapHarts_ctxStore (s : State) (f : Hart → Hart) : (s.mapHarts f).ctxStore = s.ctxStore := rfl
@[simp] theorem State.mapHarts_ctxdesc (s : State) (f : Hart → Hart) : (s.mapHarts f).ctxdesc = s.ctxdesc := rfl
@[simp] theorem State.mapHarts_sc (s : State) (f : Hart → Hart) : (s.mapHarts f).sc = s.sc := rfl
@[simp] theorem State.mapHarts_scDone (s : State) (f : Hart → Hart) : (s.mapHarts f).scDone = s.scDone := rfl
@[simp] theorem State.mapHarts_nstime (s : State) (f : Hart → Hart) : (s.mapHarts f).nstime = s.nstime := rfl
@[simp] theorem State.mapHarts_contexts (s : State) (f : Hart → Hart) : (s.mapHarts f).contexts = s.contexts := rfl
@[simp] theorem State.mapHarts_rings (s : State) (f : Hart → Hart) : (s.mapHarts f).rings = s.rings := rfl
@[simp] theorem State.mapHarts_invs (s : State) (f : Hart → Hart) : (s.mapHarts f).invs = s.invs := rfl
@[simp] theorem State.mapHarts_cmds (s : State) (f : Hart → Hart) : (s.mapHarts f).cmds = s.cmds := rfl
@[simp] theorem State.mapHarts_nextCmd (s : State) (f : Hart → Hart) : (s.mapHarts f).nextCmd = s.nextCmd := rfl
@[simp] theorem State.mapHarts_nextTicket (s : State) (f : Hart → Hart) : (s.mapHarts f).nextTicket = s.nextTicket := rfl
@[simp] theorem State.mapHarts_episodes (s : State) (f : Hart → Hart) : (s.mapHarts f).episodes = s.episodes := rfl
@[simp] theorem State.mapHarts_landings (s : State) (f : Hart → Hart) : (s.mapHarts f).landings = s.landings := rfl
@[simp] theorem State.mapHarts_overflow (s : State) (f : Hart → Hart) : (s.mapHarts f).overflow = s.overflow := rfl
@[simp] theorem State.mapHarts_heldPuts (s : State) (f : Hart → Hart) : (s.mapHarts f).heldPuts = s.heldPuts := rfl
@[simp] theorem State.mapHarts_fabrics (s : State) (f : Hart → Hart) : (s.mapHarts f).fabrics = s.fabrics := rfl
@[simp] theorem State.mapHarts_dist (s : State) (f : Hart → Hart) : (s.mapHarts f).dist = s.dist := rfl
@[simp] theorem State.mapHarts_tm (s : State) (f : Hart → Hart) : (s.mapHarts f).tm = s.tm := rfl
@[simp] theorem State.mapHarts_belfry (s : State) (f : Hart → Hart) : (s.mapHarts f).belfry = s.belfry := rfl
@[simp] theorem State.mapHarts_agenda (s : State) (f : Hart → Hart) : (s.mapHarts f).agenda = s.agenda := rfl
@[simp] theorem State.mapHarts_arg (s : State) (f : Hart → Hart) : (s.mapHarts f).arg = s.arg := rfl
@[simp] theorem State.mapHarts_draw (s : State) (f : Hart → Hart) : (s.mapHarts f).draw = s.draw := rfl
@[simp] theorem State.mapHarts_mgrData (s : State) (f : Hart → Hart) : (s.mapHarts f).mgrData = s.mgrData := rfl
@[simp] theorem State.mapHarts_mgrReg (s : State) (f : Hart → Hart) : (s.mapHarts f).mgrReg = s.mgrReg := rfl
@[simp] theorem State.mapHarts_barData (s : State) (f : Hart → Hart) : (s.mapHarts f).barData = s.barData := rfl
@[simp] theorem State.updHart_hart (s : State) (i : HartId) (f : Hart → Hart) : (s.updHart i f).hart = if s.hart.id == i && s.hart.hcr.run != 0 then f s.hart else s.hart := rfl
@[simp] theorem State.updHart_dev (s : State) (i : HartId) (f : Hart → Hart) : (s.updHart i f).dev = s.dev := rfl
@[simp] theorem State.updHart_host (s : State) (i : HartId) (f : Hart → Hart) : (s.updHart i f).host = s.host := rfl
@[simp] theorem State.updHart_spad (s : State) (i : HartId) (f : Hart → Hart) : (s.updHart i f).spad = s.spad := rfl
@[simp] theorem State.updHart_sdm (s : State) (i : HartId) (f : Hart → Hart) : (s.updHart i f).sdm = s.sdm := rfl
@[simp] theorem State.updHart_portBad (s : State) (i : HartId) (f : Hart → Hart) : (s.updHart i f).portBad = s.portBad := rfl
@[simp] theorem State.updHart_full (s : State) (i : HartId) (f : Hart → Hart) : (s.updHart i f).full = s.full := rfl
@[simp] theorem State.updHart_frames (s : State) (i : HartId) (f : Hart → Hart) : (s.updHart i f).frames = s.frames := rfl
@[simp] theorem State.updHart_flight (s : State) (i : HartId) (f : Hart → Hart) : (s.updHart i f).flight = s.flight := rfl
@[simp] theorem State.updHart_hostOut (s : State) (i : HartId) (f : Hart → Hart) : (s.updHart i f).hostOut = s.hostOut := rfl
@[simp] theorem State.updHart_hostLines (s : State) (i : HartId) (f : Hart → Hart) : (s.updHart i f).hostLines = s.hostLines := rfl
@[simp] theorem State.updHart_backInv (s : State) (i : HartId) (f : Hart → Hart) : (s.updHart i f).backInv = s.backInv := rfl
@[simp] theorem State.updHart_tlb (s : State) (i : HartId) (f : Hart → Hart) : (s.updHart i f).tlb = s.tlb := rfl
@[simp] theorem State.updHart_nonLeaf (s : State) (i : HartId) (f : Hart → Hart) : (s.updHart i f).nonLeaf = s.nonLeaf := rfl
@[simp] theorem State.updHart_misses (s : State) (i : HartId) (f : Hart → Hart) : (s.updHart i f).misses = s.misses := rfl
@[simp] theorem State.updHart_icache (s : State) (i : HartId) (f : Hart → Hart) : (s.updHart i f).icache = s.icache := rfl
@[simp] theorem State.updHart_deferred (s : State) (i : HartId) (f : Hart → Hart) : (s.updHart i f).deferred = s.deferred := rfl
@[simp] theorem State.updHart_reservations (s : State) (i : HartId) (f : Hart → Hart) : (s.updHart i f).reservations = s.reservations := rfl
@[simp] theorem State.updHart_vecOwner (s : State) (i : HartId) (f : Hart → Hart) : (s.updHart i f).vecOwner = s.vecOwner := rfl
@[simp] theorem State.updHart_ctxStore (s : State) (i : HartId) (f : Hart → Hart) : (s.updHart i f).ctxStore = s.ctxStore := rfl
@[simp] theorem State.updHart_ctxdesc (s : State) (i : HartId) (f : Hart → Hart) : (s.updHart i f).ctxdesc = s.ctxdesc := rfl
@[simp] theorem State.updHart_sc (s : State) (i : HartId) (f : Hart → Hart) : (s.updHart i f).sc = s.sc := rfl
@[simp] theorem State.updHart_scDone (s : State) (i : HartId) (f : Hart → Hart) : (s.updHart i f).scDone = s.scDone := rfl
@[simp] theorem State.updHart_nstime (s : State) (i : HartId) (f : Hart → Hart) : (s.updHart i f).nstime = s.nstime := rfl
@[simp] theorem State.updHart_contexts (s : State) (i : HartId) (f : Hart → Hart) : (s.updHart i f).contexts = s.contexts := rfl
@[simp] theorem State.updHart_rings (s : State) (i : HartId) (f : Hart → Hart) : (s.updHart i f).rings = s.rings := rfl
@[simp] theorem State.updHart_invs (s : State) (i : HartId) (f : Hart → Hart) : (s.updHart i f).invs = s.invs := rfl
@[simp] theorem State.updHart_cmds (s : State) (i : HartId) (f : Hart → Hart) : (s.updHart i f).cmds = s.cmds := rfl
@[simp] theorem State.updHart_nextCmd (s : State) (i : HartId) (f : Hart → Hart) : (s.updHart i f).nextCmd = s.nextCmd := rfl
@[simp] theorem State.updHart_nextTicket (s : State) (i : HartId) (f : Hart → Hart) : (s.updHart i f).nextTicket = s.nextTicket := rfl
@[simp] theorem State.updHart_episodes (s : State) (i : HartId) (f : Hart → Hart) : (s.updHart i f).episodes = s.episodes := rfl
@[simp] theorem State.updHart_landings (s : State) (i : HartId) (f : Hart → Hart) : (s.updHart i f).landings = s.landings := rfl
@[simp] theorem State.updHart_overflow (s : State) (i : HartId) (f : Hart → Hart) : (s.updHart i f).overflow = s.overflow := rfl
@[simp] theorem State.updHart_heldPuts (s : State) (i : HartId) (f : Hart → Hart) : (s.updHart i f).heldPuts = s.heldPuts := rfl
@[simp] theorem State.updHart_fabrics (s : State) (i : HartId) (f : Hart → Hart) : (s.updHart i f).fabrics = s.fabrics := rfl
@[simp] theorem State.updHart_dist (s : State) (i : HartId) (f : Hart → Hart) : (s.updHart i f).dist = s.dist := rfl
@[simp] theorem State.updHart_tm (s : State) (i : HartId) (f : Hart → Hart) : (s.updHart i f).tm = s.tm := rfl
@[simp] theorem State.updHart_belfry (s : State) (i : HartId) (f : Hart → Hart) : (s.updHart i f).belfry = s.belfry := rfl
@[simp] theorem State.updHart_agenda (s : State) (i : HartId) (f : Hart → Hart) : (s.updHart i f).agenda = s.agenda := rfl
@[simp] theorem State.updHart_arg (s : State) (i : HartId) (f : Hart → Hart) : (s.updHart i f).arg = s.arg := rfl
@[simp] theorem State.updHart_draw (s : State) (i : HartId) (f : Hart → Hart) : (s.updHart i f).draw = s.draw := rfl
@[simp] theorem State.updHart_mgrData (s : State) (i : HartId) (f : Hart → Hart) : (s.updHart i f).mgrData = s.mgrData := rfl
@[simp] theorem State.updHart_mgrReg (s : State) (i : HartId) (f : Hart → Hart) : (s.updHart i f).mgrReg = s.mgrReg := rfl
@[simp] theorem State.updHart_barData (s : State) (i : HartId) (f : Hart → Hart) : (s.updHart i f).barData = s.barData := rfl
@[simp] theorem State.updTeam_hart (s : State) (c o : Nat) (f : Team → Team) : (s.updTeam c o f).hart = s.hart := rfl
@[simp] theorem State.updTeam_others (s : State) (c o : Nat) (f : Team → Team) : (s.updTeam c o f).others = s.others := rfl
@[simp] theorem State.updTeam_dev (s : State) (c o : Nat) (f : Team → Team) : (s.updTeam c o f).dev = s.dev := rfl
@[simp] theorem State.updTeam_host (s : State) (c o : Nat) (f : Team → Team) : (s.updTeam c o f).host = s.host := rfl
@[simp] theorem State.updTeam_spad (s : State) (c o : Nat) (f : Team → Team) : (s.updTeam c o f).spad = s.spad := rfl
@[simp] theorem State.updTeam_sdm (s : State) (c o : Nat) (f : Team → Team) : (s.updTeam c o f).sdm = s.sdm := rfl
@[simp] theorem State.updTeam_portBad (s : State) (c o : Nat) (f : Team → Team) : (s.updTeam c o f).portBad = s.portBad := rfl
@[simp] theorem State.updTeam_full (s : State) (c o : Nat) (f : Team → Team) : (s.updTeam c o f).full = s.full := rfl
@[simp] theorem State.updTeam_frames (s : State) (c o : Nat) (f : Team → Team) : (s.updTeam c o f).frames = s.frames := rfl
@[simp] theorem State.updTeam_flight (s : State) (c o : Nat) (f : Team → Team) : (s.updTeam c o f).flight = s.flight := rfl
@[simp] theorem State.updTeam_hostOut (s : State) (c o : Nat) (f : Team → Team) : (s.updTeam c o f).hostOut = s.hostOut := rfl
@[simp] theorem State.updTeam_hostLines (s : State) (c o : Nat) (f : Team → Team) : (s.updTeam c o f).hostLines = s.hostLines := rfl
@[simp] theorem State.updTeam_backInv (s : State) (c o : Nat) (f : Team → Team) : (s.updTeam c o f).backInv = s.backInv := rfl
@[simp] theorem State.updTeam_tlb (s : State) (c o : Nat) (f : Team → Team) : (s.updTeam c o f).tlb = s.tlb := rfl
@[simp] theorem State.updTeam_nonLeaf (s : State) (c o : Nat) (f : Team → Team) : (s.updTeam c o f).nonLeaf = s.nonLeaf := rfl
@[simp] theorem State.updTeam_misses (s : State) (c o : Nat) (f : Team → Team) : (s.updTeam c o f).misses = s.misses := rfl
@[simp] theorem State.updTeam_icache (s : State) (c o : Nat) (f : Team → Team) : (s.updTeam c o f).icache = s.icache := rfl
@[simp] theorem State.updTeam_deferred (s : State) (c o : Nat) (f : Team → Team) : (s.updTeam c o f).deferred = s.deferred := rfl
@[simp] theorem State.updTeam_reservations (s : State) (c o : Nat) (f : Team → Team) : (s.updTeam c o f).reservations = s.reservations := rfl
@[simp] theorem State.updTeam_vecOwner (s : State) (c o : Nat) (f : Team → Team) : (s.updTeam c o f).vecOwner = s.vecOwner := rfl
@[simp] theorem State.updTeam_ctxStore (s : State) (c o : Nat) (f : Team → Team) : (s.updTeam c o f).ctxStore = s.ctxStore := rfl
@[simp] theorem State.updTeam_ctxdesc (s : State) (c o : Nat) (f : Team → Team) : (s.updTeam c o f).ctxdesc = s.ctxdesc := rfl
@[simp] theorem State.updTeam_sc (s : State) (c o : Nat) (f : Team → Team) : (s.updTeam c o f).sc = s.sc := rfl
@[simp] theorem State.updTeam_scDone (s : State) (c o : Nat) (f : Team → Team) : (s.updTeam c o f).scDone = s.scDone := rfl
@[simp] theorem State.updTeam_nstime (s : State) (c o : Nat) (f : Team → Team) : (s.updTeam c o f).nstime = s.nstime := rfl
@[simp] theorem State.updTeam_contexts (s : State) (c o : Nat) (f : Team → Team) : (s.updTeam c o f).contexts = s.contexts := rfl
@[simp] theorem State.updTeam_rings (s : State) (c o : Nat) (f : Team → Team) : (s.updTeam c o f).rings = s.rings := rfl
@[simp] theorem State.updTeam_invs (s : State) (c o : Nat) (f : Team → Team) : (s.updTeam c o f).invs = s.invs := rfl
@[simp] theorem State.updTeam_cmds (s : State) (c o : Nat) (f : Team → Team) : (s.updTeam c o f).cmds = s.cmds := rfl
@[simp] theorem State.updTeam_nextCmd (s : State) (c o : Nat) (f : Team → Team) : (s.updTeam c o f).nextCmd = s.nextCmd := rfl
@[simp] theorem State.updTeam_nextTicket (s : State) (c o : Nat) (f : Team → Team) : (s.updTeam c o f).nextTicket = s.nextTicket := rfl
@[simp] theorem State.updTeam_episodes (s : State) (c o : Nat) (f : Team → Team) : (s.updTeam c o f).episodes = s.episodes := rfl
@[simp] theorem State.updTeam_landings (s : State) (c o : Nat) (f : Team → Team) : (s.updTeam c o f).landings = s.landings := rfl
@[simp] theorem State.updTeam_overflow (s : State) (c o : Nat) (f : Team → Team) : (s.updTeam c o f).overflow = s.overflow := rfl
@[simp] theorem State.updTeam_heldPuts (s : State) (c o : Nat) (f : Team → Team) : (s.updTeam c o f).heldPuts = s.heldPuts := rfl
@[simp] theorem State.updTeam_fabrics (s : State) (c o : Nat) (f : Team → Team) : (s.updTeam c o f).fabrics = s.fabrics := rfl
@[simp] theorem State.updTeam_tm (s : State) (c o : Nat) (f : Team → Team) : (s.updTeam c o f).tm = s.tm := rfl
@[simp] theorem State.updTeam_belfry (s : State) (c o : Nat) (f : Team → Team) : (s.updTeam c o f).belfry = s.belfry := rfl
@[simp] theorem State.updTeam_agenda (s : State) (c o : Nat) (f : Team → Team) : (s.updTeam c o f).agenda = s.agenda := rfl
@[simp] theorem State.updTeam_arg (s : State) (c o : Nat) (f : Team → Team) : (s.updTeam c o f).arg = s.arg := rfl
@[simp] theorem State.updTeam_draw (s : State) (c o : Nat) (f : Team → Team) : (s.updTeam c o f).draw = s.draw := rfl
@[simp] theorem State.updTeam_mgrData (s : State) (c o : Nat) (f : Team → Team) : (s.updTeam c o f).mgrData = s.mgrData := rfl
@[simp] theorem State.updTeam_mgrReg (s : State) (c o : Nat) (f : Team → Team) : (s.updTeam c o f).mgrReg = s.mgrReg := rfl
@[simp] theorem State.updTeam_barData (s : State) (c o : Nat) (f : Team → Team) : (s.updTeam c o f).barData = s.barData := rfl
@[simp] theorem State.updFabric_hart (s : State) (c : Nat) (f : Fabric → Fabric) : (s.updFabric c f).hart = s.hart := rfl
@[simp] theorem State.updFabric_others (s : State) (c : Nat) (f : Fabric → Fabric) : (s.updFabric c f).others = s.others := rfl
@[simp] theorem State.updFabric_dev (s : State) (c : Nat) (f : Fabric → Fabric) : (s.updFabric c f).dev = s.dev := rfl
@[simp] theorem State.updFabric_host (s : State) (c : Nat) (f : Fabric → Fabric) : (s.updFabric c f).host = s.host := rfl
@[simp] theorem State.updFabric_spad (s : State) (c : Nat) (f : Fabric → Fabric) : (s.updFabric c f).spad = s.spad := rfl
@[simp] theorem State.updFabric_sdm (s : State) (c : Nat) (f : Fabric → Fabric) : (s.updFabric c f).sdm = s.sdm := rfl
@[simp] theorem State.updFabric_portBad (s : State) (c : Nat) (f : Fabric → Fabric) : (s.updFabric c f).portBad = s.portBad := rfl
@[simp] theorem State.updFabric_full (s : State) (c : Nat) (f : Fabric → Fabric) : (s.updFabric c f).full = s.full := rfl
@[simp] theorem State.updFabric_frames (s : State) (c : Nat) (f : Fabric → Fabric) : (s.updFabric c f).frames = s.frames := rfl
@[simp] theorem State.updFabric_flight (s : State) (c : Nat) (f : Fabric → Fabric) : (s.updFabric c f).flight = s.flight := rfl
@[simp] theorem State.updFabric_hostOut (s : State) (c : Nat) (f : Fabric → Fabric) : (s.updFabric c f).hostOut = s.hostOut := rfl
@[simp] theorem State.updFabric_hostLines (s : State) (c : Nat) (f : Fabric → Fabric) : (s.updFabric c f).hostLines = s.hostLines := rfl
@[simp] theorem State.updFabric_backInv (s : State) (c : Nat) (f : Fabric → Fabric) : (s.updFabric c f).backInv = s.backInv := rfl
@[simp] theorem State.updFabric_tlb (s : State) (c : Nat) (f : Fabric → Fabric) : (s.updFabric c f).tlb = s.tlb := rfl
@[simp] theorem State.updFabric_nonLeaf (s : State) (c : Nat) (f : Fabric → Fabric) : (s.updFabric c f).nonLeaf = s.nonLeaf := rfl
@[simp] theorem State.updFabric_misses (s : State) (c : Nat) (f : Fabric → Fabric) : (s.updFabric c f).misses = s.misses := rfl
@[simp] theorem State.updFabric_icache (s : State) (c : Nat) (f : Fabric → Fabric) : (s.updFabric c f).icache = s.icache := rfl
@[simp] theorem State.updFabric_deferred (s : State) (c : Nat) (f : Fabric → Fabric) : (s.updFabric c f).deferred = s.deferred := rfl
@[simp] theorem State.updFabric_reservations (s : State) (c : Nat) (f : Fabric → Fabric) : (s.updFabric c f).reservations = s.reservations := rfl
@[simp] theorem State.updFabric_vecOwner (s : State) (c : Nat) (f : Fabric → Fabric) : (s.updFabric c f).vecOwner = s.vecOwner := rfl
@[simp] theorem State.updFabric_ctxStore (s : State) (c : Nat) (f : Fabric → Fabric) : (s.updFabric c f).ctxStore = s.ctxStore := rfl
@[simp] theorem State.updFabric_ctxdesc (s : State) (c : Nat) (f : Fabric → Fabric) : (s.updFabric c f).ctxdesc = s.ctxdesc := rfl
@[simp] theorem State.updFabric_sc (s : State) (c : Nat) (f : Fabric → Fabric) : (s.updFabric c f).sc = s.sc := rfl
@[simp] theorem State.updFabric_scDone (s : State) (c : Nat) (f : Fabric → Fabric) : (s.updFabric c f).scDone = s.scDone := rfl
@[simp] theorem State.updFabric_nstime (s : State) (c : Nat) (f : Fabric → Fabric) : (s.updFabric c f).nstime = s.nstime := rfl
@[simp] theorem State.updFabric_contexts (s : State) (c : Nat) (f : Fabric → Fabric) : (s.updFabric c f).contexts = s.contexts := rfl
@[simp] theorem State.updFabric_rings (s : State) (c : Nat) (f : Fabric → Fabric) : (s.updFabric c f).rings = s.rings := rfl
@[simp] theorem State.updFabric_invs (s : State) (c : Nat) (f : Fabric → Fabric) : (s.updFabric c f).invs = s.invs := rfl
@[simp] theorem State.updFabric_cmds (s : State) (c : Nat) (f : Fabric → Fabric) : (s.updFabric c f).cmds = s.cmds := rfl
@[simp] theorem State.updFabric_nextCmd (s : State) (c : Nat) (f : Fabric → Fabric) : (s.updFabric c f).nextCmd = s.nextCmd := rfl
@[simp] theorem State.updFabric_nextTicket (s : State) (c : Nat) (f : Fabric → Fabric) : (s.updFabric c f).nextTicket = s.nextTicket := rfl
@[simp] theorem State.updFabric_episodes (s : State) (c : Nat) (f : Fabric → Fabric) : (s.updFabric c f).episodes = s.episodes := rfl
@[simp] theorem State.updFabric_landings (s : State) (c : Nat) (f : Fabric → Fabric) : (s.updFabric c f).landings = s.landings := rfl
@[simp] theorem State.updFabric_overflow (s : State) (c : Nat) (f : Fabric → Fabric) : (s.updFabric c f).overflow = s.overflow := rfl
@[simp] theorem State.updFabric_heldPuts (s : State) (c : Nat) (f : Fabric → Fabric) : (s.updFabric c f).heldPuts = s.heldPuts := rfl
@[simp] theorem State.updFabric_fabrics (s : State) (c : Nat) (f : Fabric → Fabric) : (s.updFabric c f).fabrics = s.fabrics.map fun x => if x.c == c then f x else x := rfl
@[simp] theorem State.updFabric_dist (s : State) (c : Nat) (f : Fabric → Fabric) : (s.updFabric c f).dist = s.dist := rfl
@[simp] theorem State.updFabric_tm (s : State) (c : Nat) (f : Fabric → Fabric) : (s.updFabric c f).tm = s.tm := rfl
@[simp] theorem State.updFabric_belfry (s : State) (c : Nat) (f : Fabric → Fabric) : (s.updFabric c f).belfry = s.belfry := rfl
@[simp] theorem State.updFabric_agenda (s : State) (c : Nat) (f : Fabric → Fabric) : (s.updFabric c f).agenda = s.agenda := rfl
@[simp] theorem State.updFabric_arg (s : State) (c : Nat) (f : Fabric → Fabric) : (s.updFabric c f).arg = s.arg := rfl
@[simp] theorem State.updFabric_draw (s : State) (c : Nat) (f : Fabric → Fabric) : (s.updFabric c f).draw = s.draw := rfl
@[simp] theorem State.updFabric_mgrData (s : State) (c : Nat) (f : Fabric → Fabric) : (s.updFabric c f).mgrData = s.mgrData := rfl
@[simp] theorem State.updFabric_mgrReg (s : State) (c : Nat) (f : Fabric → Fabric) : (s.updFabric c f).mgrReg = s.mgrReg := rfl
@[simp] theorem State.updFabric_barData (s : State) (c : Nat) (f : Fabric → Fabric) : (s.updFabric c f).barData = s.barData := rfl
@[simp] theorem State.updContext_hart (s : State) (c : Nat) (f : Context → Context) : (s.updContext c f).hart = s.hart := rfl
@[simp] theorem State.updContext_others (s : State) (c : Nat) (f : Context → Context) : (s.updContext c f).others = s.others := rfl
@[simp] theorem State.updContext_dev (s : State) (c : Nat) (f : Context → Context) : (s.updContext c f).dev = s.dev := rfl
@[simp] theorem State.updContext_host (s : State) (c : Nat) (f : Context → Context) : (s.updContext c f).host = s.host := rfl
@[simp] theorem State.updContext_spad (s : State) (c : Nat) (f : Context → Context) : (s.updContext c f).spad = s.spad := rfl
@[simp] theorem State.updContext_sdm (s : State) (c : Nat) (f : Context → Context) : (s.updContext c f).sdm = s.sdm := rfl
@[simp] theorem State.updContext_portBad (s : State) (c : Nat) (f : Context → Context) : (s.updContext c f).portBad = s.portBad := rfl
@[simp] theorem State.updContext_full (s : State) (c : Nat) (f : Context → Context) : (s.updContext c f).full = s.full := rfl
@[simp] theorem State.updContext_frames (s : State) (c : Nat) (f : Context → Context) : (s.updContext c f).frames = s.frames := rfl
@[simp] theorem State.updContext_flight (s : State) (c : Nat) (f : Context → Context) : (s.updContext c f).flight = s.flight := rfl
@[simp] theorem State.updContext_hostOut (s : State) (c : Nat) (f : Context → Context) : (s.updContext c f).hostOut = s.hostOut := rfl
@[simp] theorem State.updContext_hostLines (s : State) (c : Nat) (f : Context → Context) : (s.updContext c f).hostLines = s.hostLines := rfl
@[simp] theorem State.updContext_backInv (s : State) (c : Nat) (f : Context → Context) : (s.updContext c f).backInv = s.backInv := rfl
@[simp] theorem State.updContext_tlb (s : State) (c : Nat) (f : Context → Context) : (s.updContext c f).tlb = s.tlb := rfl
@[simp] theorem State.updContext_nonLeaf (s : State) (c : Nat) (f : Context → Context) : (s.updContext c f).nonLeaf = s.nonLeaf := rfl
@[simp] theorem State.updContext_misses (s : State) (c : Nat) (f : Context → Context) : (s.updContext c f).misses = s.misses := rfl
@[simp] theorem State.updContext_icache (s : State) (c : Nat) (f : Context → Context) : (s.updContext c f).icache = s.icache := rfl
@[simp] theorem State.updContext_deferred (s : State) (c : Nat) (f : Context → Context) : (s.updContext c f).deferred = s.deferred := rfl
@[simp] theorem State.updContext_reservations (s : State) (c : Nat) (f : Context → Context) : (s.updContext c f).reservations = s.reservations := rfl
@[simp] theorem State.updContext_vecOwner (s : State) (c : Nat) (f : Context → Context) : (s.updContext c f).vecOwner = s.vecOwner := rfl
@[simp] theorem State.updContext_ctxStore (s : State) (c : Nat) (f : Context → Context) : (s.updContext c f).ctxStore = s.ctxStore := rfl
@[simp] theorem State.updContext_ctxdesc (s : State) (c : Nat) (f : Context → Context) : (s.updContext c f).ctxdesc = s.ctxdesc := rfl
@[simp] theorem State.updContext_sc (s : State) (c : Nat) (f : Context → Context) : (s.updContext c f).sc = s.sc := rfl
@[simp] theorem State.updContext_scDone (s : State) (c : Nat) (f : Context → Context) : (s.updContext c f).scDone = s.scDone := rfl
@[simp] theorem State.updContext_nstime (s : State) (c : Nat) (f : Context → Context) : (s.updContext c f).nstime = s.nstime := rfl
@[simp] theorem State.updContext_contexts (s : State) (c : Nat) (f : Context → Context) : (s.updContext c f).contexts = s.contexts.map fun x => if x.id == c then f x else x := rfl
@[simp] theorem State.updContext_rings (s : State) (c : Nat) (f : Context → Context) : (s.updContext c f).rings = s.rings := rfl
@[simp] theorem State.updContext_invs (s : State) (c : Nat) (f : Context → Context) : (s.updContext c f).invs = s.invs := rfl
@[simp] theorem State.updContext_cmds (s : State) (c : Nat) (f : Context → Context) : (s.updContext c f).cmds = s.cmds := rfl
@[simp] theorem State.updContext_nextCmd (s : State) (c : Nat) (f : Context → Context) : (s.updContext c f).nextCmd = s.nextCmd := rfl
@[simp] theorem State.updContext_nextTicket (s : State) (c : Nat) (f : Context → Context) : (s.updContext c f).nextTicket = s.nextTicket := rfl
@[simp] theorem State.updContext_episodes (s : State) (c : Nat) (f : Context → Context) : (s.updContext c f).episodes = s.episodes := rfl
@[simp] theorem State.updContext_landings (s : State) (c : Nat) (f : Context → Context) : (s.updContext c f).landings = s.landings := rfl
@[simp] theorem State.updContext_overflow (s : State) (c : Nat) (f : Context → Context) : (s.updContext c f).overflow = s.overflow := rfl
@[simp] theorem State.updContext_heldPuts (s : State) (c : Nat) (f : Context → Context) : (s.updContext c f).heldPuts = s.heldPuts := rfl
@[simp] theorem State.updContext_fabrics (s : State) (c : Nat) (f : Context → Context) : (s.updContext c f).fabrics = s.fabrics := rfl
@[simp] theorem State.updContext_dist (s : State) (c : Nat) (f : Context → Context) : (s.updContext c f).dist = s.dist := rfl
@[simp] theorem State.updContext_tm (s : State) (c : Nat) (f : Context → Context) : (s.updContext c f).tm = s.tm := rfl
@[simp] theorem State.updContext_belfry (s : State) (c : Nat) (f : Context → Context) : (s.updContext c f).belfry = s.belfry := rfl
@[simp] theorem State.updContext_agenda (s : State) (c : Nat) (f : Context → Context) : (s.updContext c f).agenda = s.agenda := rfl
@[simp] theorem State.updContext_arg (s : State) (c : Nat) (f : Context → Context) : (s.updContext c f).arg = s.arg := rfl
@[simp] theorem State.updContext_draw (s : State) (c : Nat) (f : Context → Context) : (s.updContext c f).draw = s.draw := rfl
@[simp] theorem State.updContext_mgrData (s : State) (c : Nat) (f : Context → Context) : (s.updContext c f).mgrData = s.mgrData := rfl
@[simp] theorem State.updContext_mgrReg (s : State) (c : Nat) (f : Context → Context) : (s.updContext c f).mgrReg = s.mgrReg := rfl
@[simp] theorem State.updContext_barData (s : State) (c : Nat) (f : Context → Context) : (s.updContext c f).barData = s.barData := rfl
@[simp] theorem State.setDev8_hart (s : State) (a v : Nat) : (s.setDev8 a v).hart = s.hart := rfl
@[simp] theorem State.setDev8_others (s : State) (a v : Nat) : (s.setDev8 a v).others = s.others := rfl
@[simp] theorem State.setDev8_dev (s : State) (a v : Nat) : (s.setDev8 a v).dev = s.dev.store a (toBytes 8 v) false := rfl
@[simp] theorem State.setDev8_host (s : State) (a v : Nat) : (s.setDev8 a v).host = s.host := rfl
@[simp] theorem State.setDev8_spad (s : State) (a v : Nat) : (s.setDev8 a v).spad = s.spad := rfl
@[simp] theorem State.setDev8_sdm (s : State) (a v : Nat) : (s.setDev8 a v).sdm = s.sdm := rfl
@[simp] theorem State.setDev8_portBad (s : State) (a v : Nat) : (s.setDev8 a v).portBad = s.portBad := rfl
@[simp] theorem State.setDev8_full (s : State) (a v : Nat) : (s.setDev8 a v).full = s.full := rfl
@[simp] theorem State.setDev8_frames (s : State) (a v : Nat) : (s.setDev8 a v).frames = s.frames := rfl
@[simp] theorem State.setDev8_flight (s : State) (a v : Nat) : (s.setDev8 a v).flight = s.flight := rfl
@[simp] theorem State.setDev8_hostOut (s : State) (a v : Nat) : (s.setDev8 a v).hostOut = s.hostOut := rfl
@[simp] theorem State.setDev8_hostLines (s : State) (a v : Nat) : (s.setDev8 a v).hostLines = s.hostLines := rfl
@[simp] theorem State.setDev8_backInv (s : State) (a v : Nat) : (s.setDev8 a v).backInv = s.backInv := rfl
@[simp] theorem State.setDev8_tlb (s : State) (a v : Nat) : (s.setDev8 a v).tlb = s.tlb := rfl
@[simp] theorem State.setDev8_nonLeaf (s : State) (a v : Nat) : (s.setDev8 a v).nonLeaf = s.nonLeaf := rfl
@[simp] theorem State.setDev8_misses (s : State) (a v : Nat) : (s.setDev8 a v).misses = s.misses := rfl
@[simp] theorem State.setDev8_icache (s : State) (a v : Nat) : (s.setDev8 a v).icache = s.icache := rfl
@[simp] theorem State.setDev8_deferred (s : State) (a v : Nat) : (s.setDev8 a v).deferred = s.deferred := rfl
@[simp] theorem State.setDev8_reservations (s : State) (a v : Nat) : (s.setDev8 a v).reservations = s.reservations := rfl
@[simp] theorem State.setDev8_vecOwner (s : State) (a v : Nat) : (s.setDev8 a v).vecOwner = s.vecOwner := rfl
@[simp] theorem State.setDev8_ctxStore (s : State) (a v : Nat) : (s.setDev8 a v).ctxStore = s.ctxStore := rfl
@[simp] theorem State.setDev8_ctxdesc (s : State) (a v : Nat) : (s.setDev8 a v).ctxdesc = s.ctxdesc := rfl
@[simp] theorem State.setDev8_sc (s : State) (a v : Nat) : (s.setDev8 a v).sc = s.sc := rfl
@[simp] theorem State.setDev8_scDone (s : State) (a v : Nat) : (s.setDev8 a v).scDone = s.scDone := rfl
@[simp] theorem State.setDev8_nstime (s : State) (a v : Nat) : (s.setDev8 a v).nstime = s.nstime := rfl
@[simp] theorem State.setDev8_contexts (s : State) (a v : Nat) : (s.setDev8 a v).contexts = s.contexts := rfl
@[simp] theorem State.setDev8_rings (s : State) (a v : Nat) : (s.setDev8 a v).rings = s.rings := rfl
@[simp] theorem State.setDev8_invs (s : State) (a v : Nat) : (s.setDev8 a v).invs = s.invs := rfl
@[simp] theorem State.setDev8_cmds (s : State) (a v : Nat) : (s.setDev8 a v).cmds = s.cmds := rfl
@[simp] theorem State.setDev8_nextCmd (s : State) (a v : Nat) : (s.setDev8 a v).nextCmd = s.nextCmd := rfl
@[simp] theorem State.setDev8_nextTicket (s : State) (a v : Nat) : (s.setDev8 a v).nextTicket = s.nextTicket := rfl
@[simp] theorem State.setDev8_episodes (s : State) (a v : Nat) : (s.setDev8 a v).episodes = s.episodes := rfl
@[simp] theorem State.setDev8_landings (s : State) (a v : Nat) : (s.setDev8 a v).landings = s.landings := rfl
@[simp] theorem State.setDev8_overflow (s : State) (a v : Nat) : (s.setDev8 a v).overflow = s.overflow := rfl
@[simp] theorem State.setDev8_heldPuts (s : State) (a v : Nat) : (s.setDev8 a v).heldPuts = s.heldPuts := rfl
@[simp] theorem State.setDev8_fabrics (s : State) (a v : Nat) : (s.setDev8 a v).fabrics = s.fabrics := rfl
@[simp] theorem State.setDev8_dist (s : State) (a v : Nat) : (s.setDev8 a v).dist = s.dist := rfl
@[simp] theorem State.setDev8_tm (s : State) (a v : Nat) : (s.setDev8 a v).tm = s.tm := rfl
@[simp] theorem State.setDev8_belfry (s : State) (a v : Nat) : (s.setDev8 a v).belfry = s.belfry := rfl
@[simp] theorem State.setDev8_agenda (s : State) (a v : Nat) : (s.setDev8 a v).agenda = s.agenda := rfl
@[simp] theorem State.setDev8_arg (s : State) (a v : Nat) : (s.setDev8 a v).arg = s.arg := rfl
@[simp] theorem State.setDev8_draw (s : State) (a v : Nat) : (s.setDev8 a v).draw = s.draw := rfl
@[simp] theorem State.setDev8_mgrData (s : State) (a v : Nat) : (s.setDev8 a v).mgrData = s.mgrData := rfl
@[simp] theorem State.setDev8_mgrReg (s : State) (a v : Nat) : (s.setDev8 a v).mgrReg = s.mgrReg := rfl
@[simp] theorem State.setDev8_barData (s : State) (a v : Nat) : (s.setDev8 a v).barData = s.barData := rfl
@[simp] theorem State.breakLinks_dev (s : State) (g : Granule) (k : Option HartId) : (s.breakLinks g k).dev = s.dev := rfl
@[simp] theorem State.breakLinks_host (s : State) (g : Granule) (k : Option HartId) : (s.breakLinks g k).host = s.host := rfl
@[simp] theorem State.breakLinks_spad (s : State) (g : Granule) (k : Option HartId) : (s.breakLinks g k).spad = s.spad := rfl
@[simp] theorem State.breakLinks_sdm (s : State) (g : Granule) (k : Option HartId) : (s.breakLinks g k).sdm = s.sdm := rfl
@[simp] theorem State.breakLinks_portBad (s : State) (g : Granule) (k : Option HartId) : (s.breakLinks g k).portBad = s.portBad := rfl
@[simp] theorem State.breakLinks_full (s : State) (g : Granule) (k : Option HartId) : (s.breakLinks g k).full = s.full := rfl
@[simp] theorem State.breakLinks_frames (s : State) (g : Granule) (k : Option HartId) : (s.breakLinks g k).frames = s.frames := rfl
@[simp] theorem State.breakLinks_flight (s : State) (g : Granule) (k : Option HartId) : (s.breakLinks g k).flight = s.flight := rfl
@[simp] theorem State.breakLinks_hostOut (s : State) (g : Granule) (k : Option HartId) : (s.breakLinks g k).hostOut = s.hostOut := rfl
@[simp] theorem State.breakLinks_hostLines (s : State) (g : Granule) (k : Option HartId) : (s.breakLinks g k).hostLines = s.hostLines := rfl
@[simp] theorem State.breakLinks_backInv (s : State) (g : Granule) (k : Option HartId) : (s.breakLinks g k).backInv = s.backInv := rfl
@[simp] theorem State.breakLinks_tlb (s : State) (g : Granule) (k : Option HartId) : (s.breakLinks g k).tlb = s.tlb := rfl
@[simp] theorem State.breakLinks_nonLeaf (s : State) (g : Granule) (k : Option HartId) : (s.breakLinks g k).nonLeaf = s.nonLeaf := rfl
@[simp] theorem State.breakLinks_misses (s : State) (g : Granule) (k : Option HartId) : (s.breakLinks g k).misses = s.misses := rfl
@[simp] theorem State.breakLinks_icache (s : State) (g : Granule) (k : Option HartId) : (s.breakLinks g k).icache = s.icache := rfl
@[simp] theorem State.breakLinks_deferred (s : State) (g : Granule) (k : Option HartId) : (s.breakLinks g k).deferred = s.deferred := rfl
@[simp] theorem State.breakLinks_reservations (s : State) (g : Granule) (k : Option HartId) : (s.breakLinks g k).reservations = s.reservations := rfl
@[simp] theorem State.breakLinks_vecOwner (s : State) (g : Granule) (k : Option HartId) : (s.breakLinks g k).vecOwner = s.vecOwner := rfl
@[simp] theorem State.breakLinks_ctxStore (s : State) (g : Granule) (k : Option HartId) : (s.breakLinks g k).ctxStore = s.ctxStore := rfl
@[simp] theorem State.breakLinks_ctxdesc (s : State) (g : Granule) (k : Option HartId) : (s.breakLinks g k).ctxdesc = s.ctxdesc := rfl
@[simp] theorem State.breakLinks_sc (s : State) (g : Granule) (k : Option HartId) : (s.breakLinks g k).sc = s.sc := rfl
@[simp] theorem State.breakLinks_scDone (s : State) (g : Granule) (k : Option HartId) : (s.breakLinks g k).scDone = s.scDone := rfl
@[simp] theorem State.breakLinks_nstime (s : State) (g : Granule) (k : Option HartId) : (s.breakLinks g k).nstime = s.nstime := rfl
@[simp] theorem State.breakLinks_contexts (s : State) (g : Granule) (k : Option HartId) : (s.breakLinks g k).contexts = s.contexts := rfl
@[simp] theorem State.breakLinks_rings (s : State) (g : Granule) (k : Option HartId) : (s.breakLinks g k).rings = s.rings := rfl
@[simp] theorem State.breakLinks_invs (s : State) (g : Granule) (k : Option HartId) : (s.breakLinks g k).invs = s.invs := rfl
@[simp] theorem State.breakLinks_cmds (s : State) (g : Granule) (k : Option HartId) : (s.breakLinks g k).cmds = s.cmds := rfl
@[simp] theorem State.breakLinks_nextCmd (s : State) (g : Granule) (k : Option HartId) : (s.breakLinks g k).nextCmd = s.nextCmd := rfl
@[simp] theorem State.breakLinks_nextTicket (s : State) (g : Granule) (k : Option HartId) : (s.breakLinks g k).nextTicket = s.nextTicket := rfl
@[simp] theorem State.breakLinks_episodes (s : State) (g : Granule) (k : Option HartId) : (s.breakLinks g k).episodes = s.episodes := rfl
@[simp] theorem State.breakLinks_landings (s : State) (g : Granule) (k : Option HartId) : (s.breakLinks g k).landings = s.landings := rfl
@[simp] theorem State.breakLinks_overflow (s : State) (g : Granule) (k : Option HartId) : (s.breakLinks g k).overflow = s.overflow := rfl
@[simp] theorem State.breakLinks_heldPuts (s : State) (g : Granule) (k : Option HartId) : (s.breakLinks g k).heldPuts = s.heldPuts := rfl
@[simp] theorem State.breakLinks_fabrics (s : State) (g : Granule) (k : Option HartId) : (s.breakLinks g k).fabrics = s.fabrics := rfl
@[simp] theorem State.breakLinks_dist (s : State) (g : Granule) (k : Option HartId) : (s.breakLinks g k).dist = s.dist := rfl
@[simp] theorem State.breakLinks_tm (s : State) (g : Granule) (k : Option HartId) : (s.breakLinks g k).tm = s.tm := rfl
@[simp] theorem State.breakLinks_belfry (s : State) (g : Granule) (k : Option HartId) : (s.breakLinks g k).belfry = s.belfry := rfl
@[simp] theorem State.breakLinks_agenda (s : State) (g : Granule) (k : Option HartId) : (s.breakLinks g k).agenda = s.agenda := rfl
@[simp] theorem State.breakLinks_arg (s : State) (g : Granule) (k : Option HartId) : (s.breakLinks g k).arg = s.arg := rfl
@[simp] theorem State.breakLinks_draw (s : State) (g : Granule) (k : Option HartId) : (s.breakLinks g k).draw = s.draw := rfl
@[simp] theorem State.breakLinks_mgrData (s : State) (g : Granule) (k : Option HartId) : (s.breakLinks g k).mgrData = s.mgrData := rfl
@[simp] theorem State.breakLinks_mgrReg (s : State) (g : Granule) (k : Option HartId) : (s.breakLinks g k).mgrReg = s.mgrReg := rfl
@[simp] theorem State.breakLinks_barData (s : State) (g : Granule) (k : Option HartId) : (s.breakLinks g k).barData = s.barData := rfl
@[simp] theorem State.markFrame_hart (s : State) (p o : Nat) : (s.markFrame p o).hart = s.hart := rfl
@[simp] theorem State.markFrame_others (s : State) (p o : Nat) : (s.markFrame p o).others = s.others := rfl
@[simp] theorem State.markFrame_dev (s : State) (p o : Nat) : (s.markFrame p o).dev = s.dev := rfl
@[simp] theorem State.markFrame_host (s : State) (p o : Nat) : (s.markFrame p o).host = s.host := rfl
@[simp] theorem State.markFrame_spad (s : State) (p o : Nat) : (s.markFrame p o).spad = s.spad := rfl
@[simp] theorem State.markFrame_sdm (s : State) (p o : Nat) : (s.markFrame p o).sdm = s.sdm := rfl
@[simp] theorem State.markFrame_portBad (s : State) (p o : Nat) : (s.markFrame p o).portBad = s.portBad := rfl
@[simp] theorem State.markFrame_full (s : State) (p o : Nat) : (s.markFrame p o).full = s.full := rfl
@[simp] theorem State.markFrame_flight (s : State) (p o : Nat) : (s.markFrame p o).flight = s.flight := rfl
@[simp] theorem State.markFrame_hostOut (s : State) (p o : Nat) : (s.markFrame p o).hostOut = s.hostOut := rfl
@[simp] theorem State.markFrame_hostLines (s : State) (p o : Nat) : (s.markFrame p o).hostLines = s.hostLines := rfl
@[simp] theorem State.markFrame_backInv (s : State) (p o : Nat) : (s.markFrame p o).backInv = s.backInv := rfl
@[simp] theorem State.markFrame_tlb (s : State) (p o : Nat) : (s.markFrame p o).tlb = s.tlb := rfl
@[simp] theorem State.markFrame_nonLeaf (s : State) (p o : Nat) : (s.markFrame p o).nonLeaf = s.nonLeaf := rfl
@[simp] theorem State.markFrame_misses (s : State) (p o : Nat) : (s.markFrame p o).misses = s.misses := rfl
@[simp] theorem State.markFrame_icache (s : State) (p o : Nat) : (s.markFrame p o).icache = s.icache := rfl
@[simp] theorem State.markFrame_deferred (s : State) (p o : Nat) : (s.markFrame p o).deferred = s.deferred := rfl
@[simp] theorem State.markFrame_reservations (s : State) (p o : Nat) : (s.markFrame p o).reservations = s.reservations := rfl
@[simp] theorem State.markFrame_vecOwner (s : State) (p o : Nat) : (s.markFrame p o).vecOwner = s.vecOwner := rfl
@[simp] theorem State.markFrame_ctxStore (s : State) (p o : Nat) : (s.markFrame p o).ctxStore = s.ctxStore := rfl
@[simp] theorem State.markFrame_ctxdesc (s : State) (p o : Nat) : (s.markFrame p o).ctxdesc = s.ctxdesc := rfl
@[simp] theorem State.markFrame_sc (s : State) (p o : Nat) : (s.markFrame p o).sc = s.sc := rfl
@[simp] theorem State.markFrame_scDone (s : State) (p o : Nat) : (s.markFrame p o).scDone = s.scDone := rfl
@[simp] theorem State.markFrame_nstime (s : State) (p o : Nat) : (s.markFrame p o).nstime = s.nstime := rfl
@[simp] theorem State.markFrame_contexts (s : State) (p o : Nat) : (s.markFrame p o).contexts = s.contexts := rfl
@[simp] theorem State.markFrame_rings (s : State) (p o : Nat) : (s.markFrame p o).rings = s.rings := rfl
@[simp] theorem State.markFrame_invs (s : State) (p o : Nat) : (s.markFrame p o).invs = s.invs := rfl
@[simp] theorem State.markFrame_cmds (s : State) (p o : Nat) : (s.markFrame p o).cmds = s.cmds := rfl
@[simp] theorem State.markFrame_nextCmd (s : State) (p o : Nat) : (s.markFrame p o).nextCmd = s.nextCmd := rfl
@[simp] theorem State.markFrame_nextTicket (s : State) (p o : Nat) : (s.markFrame p o).nextTicket = s.nextTicket := rfl
@[simp] theorem State.markFrame_episodes (s : State) (p o : Nat) : (s.markFrame p o).episodes = s.episodes := rfl
@[simp] theorem State.markFrame_landings (s : State) (p o : Nat) : (s.markFrame p o).landings = s.landings := rfl
@[simp] theorem State.markFrame_overflow (s : State) (p o : Nat) : (s.markFrame p o).overflow = s.overflow := rfl
@[simp] theorem State.markFrame_heldPuts (s : State) (p o : Nat) : (s.markFrame p o).heldPuts = s.heldPuts := rfl
@[simp] theorem State.markFrame_fabrics (s : State) (p o : Nat) : (s.markFrame p o).fabrics = s.fabrics := rfl
@[simp] theorem State.markFrame_dist (s : State) (p o : Nat) : (s.markFrame p o).dist = s.dist := rfl
@[simp] theorem State.markFrame_tm (s : State) (p o : Nat) : (s.markFrame p o).tm = s.tm := rfl
@[simp] theorem State.markFrame_belfry (s : State) (p o : Nat) : (s.markFrame p o).belfry = s.belfry := rfl
@[simp] theorem State.markFrame_agenda (s : State) (p o : Nat) : (s.markFrame p o).agenda = s.agenda := rfl
@[simp] theorem State.markFrame_arg (s : State) (p o : Nat) : (s.markFrame p o).arg = s.arg := rfl
@[simp] theorem State.markFrame_draw (s : State) (p o : Nat) : (s.markFrame p o).draw = s.draw := rfl
@[simp] theorem State.markFrame_mgrData (s : State) (p o : Nat) : (s.markFrame p o).mgrData = s.mgrData := rfl
@[simp] theorem State.markFrame_mgrReg (s : State) (p o : Nat) : (s.markFrame p o).mgrReg = s.mgrReg := rfl
@[simp] theorem State.markFrame_barData (s : State) (p o : Nat) : (s.markFrame p o).barData = s.barData := rfl
@[simp] theorem State.shadow_hart (s : State) (i : HartId) (u : StoreUnit) : (s.shadow i u).hart = s.hart := rfl
@[simp] theorem State.shadow_others (s : State) (i : HartId) (u : StoreUnit) : (s.shadow i u).others = s.others := rfl
@[simp] theorem State.shadow_dev (s : State) (i : HartId) (u : StoreUnit) : (s.shadow i u).dev = s.dev := rfl
@[simp] theorem State.shadow_host (s : State) (i : HartId) (u : StoreUnit) : (s.shadow i u).host = s.host := rfl
@[simp] theorem State.shadow_spad (s : State) (i : HartId) (u : StoreUnit) : (s.shadow i u).spad = s.spad := rfl
@[simp] theorem State.shadow_sdm (s : State) (i : HartId) (u : StoreUnit) : (s.shadow i u).sdm = s.sdm := rfl
@[simp] theorem State.shadow_portBad (s : State) (i : HartId) (u : StoreUnit) : (s.shadow i u).portBad = s.portBad := rfl
@[simp] theorem State.shadow_full (s : State) (i : HartId) (u : StoreUnit) : (s.shadow i u).full = s.full := rfl
@[simp] theorem State.shadow_frames (s : State) (i : HartId) (u : StoreUnit) : (s.shadow i u).frames = s.frames := rfl
@[simp] theorem State.shadow_flight (s : State) (i : HartId) (u : StoreUnit) : (s.shadow i u).flight = s.flight := rfl
@[simp] theorem State.shadow_hostOut (s : State) (i : HartId) (u : StoreUnit) : (s.shadow i u).hostOut = s.hostOut := rfl
@[simp] theorem State.shadow_hostLines (s : State) (i : HartId) (u : StoreUnit) : (s.shadow i u).hostLines = s.hostLines := rfl
@[simp] theorem State.shadow_backInv (s : State) (i : HartId) (u : StoreUnit) : (s.shadow i u).backInv = s.backInv := rfl
@[simp] theorem State.shadow_tlb (s : State) (i : HartId) (u : StoreUnit) : (s.shadow i u).tlb = s.tlb := rfl
@[simp] theorem State.shadow_nonLeaf (s : State) (i : HartId) (u : StoreUnit) : (s.shadow i u).nonLeaf = s.nonLeaf := rfl
@[simp] theorem State.shadow_misses (s : State) (i : HartId) (u : StoreUnit) : (s.shadow i u).misses = s.misses := rfl
@[simp] theorem State.shadow_icache (s : State) (i : HartId) (u : StoreUnit) : (s.shadow i u).icache = s.icache := rfl
@[simp] theorem State.shadow_deferred (s : State) (i : HartId) (u : StoreUnit) : (s.shadow i u).deferred = s.deferred := rfl
@[simp] theorem State.shadow_reservations (s : State) (i : HartId) (u : StoreUnit) : (s.shadow i u).reservations = s.reservations := rfl
@[simp] theorem State.shadow_vecOwner (s : State) (i : HartId) (u : StoreUnit) : (s.shadow i u).vecOwner = s.vecOwner := rfl
@[simp] theorem State.shadow_ctxStore (s : State) (i : HartId) (u : StoreUnit) : (s.shadow i u).ctxStore = s.ctxStore := rfl
@[simp] theorem State.shadow_ctxdesc (s : State) (i : HartId) (u : StoreUnit) : (s.shadow i u).ctxdesc = s.ctxdesc := rfl
@[simp] theorem State.shadow_sc (s : State) (i : HartId) (u : StoreUnit) : (s.shadow i u).sc = s.sc := rfl
@[simp] theorem State.shadow_scDone (s : State) (i : HartId) (u : StoreUnit) : (s.shadow i u).scDone = s.scDone := rfl
@[simp] theorem State.shadow_nstime (s : State) (i : HartId) (u : StoreUnit) : (s.shadow i u).nstime = s.nstime := rfl
@[simp] theorem State.shadow_contexts (s : State) (i : HartId) (u : StoreUnit) : (s.shadow i u).contexts = s.contexts := rfl
@[simp] theorem State.shadow_rings (s : State) (i : HartId) (u : StoreUnit) : (s.shadow i u).rings = s.rings := rfl
@[simp] theorem State.shadow_invs (s : State) (i : HartId) (u : StoreUnit) : (s.shadow i u).invs = s.invs := rfl
@[simp] theorem State.shadow_nextCmd (s : State) (i : HartId) (u : StoreUnit) : (s.shadow i u).nextCmd = s.nextCmd := rfl
@[simp] theorem State.shadow_nextTicket (s : State) (i : HartId) (u : StoreUnit) : (s.shadow i u).nextTicket = s.nextTicket := rfl
@[simp] theorem State.shadow_episodes (s : State) (i : HartId) (u : StoreUnit) : (s.shadow i u).episodes = s.episodes := rfl
@[simp] theorem State.shadow_landings (s : State) (i : HartId) (u : StoreUnit) : (s.shadow i u).landings = s.landings := rfl
@[simp] theorem State.shadow_overflow (s : State) (i : HartId) (u : StoreUnit) : (s.shadow i u).overflow = s.overflow := rfl
@[simp] theorem State.shadow_heldPuts (s : State) (i : HartId) (u : StoreUnit) : (s.shadow i u).heldPuts = s.heldPuts := rfl
@[simp] theorem State.shadow_fabrics (s : State) (i : HartId) (u : StoreUnit) : (s.shadow i u).fabrics = s.fabrics := rfl
@[simp] theorem State.shadow_dist (s : State) (i : HartId) (u : StoreUnit) : (s.shadow i u).dist = s.dist := rfl
@[simp] theorem State.shadow_tm (s : State) (i : HartId) (u : StoreUnit) : (s.shadow i u).tm = s.tm := rfl
@[simp] theorem State.shadow_belfry (s : State) (i : HartId) (u : StoreUnit) : (s.shadow i u).belfry = s.belfry := rfl
@[simp] theorem State.shadow_agenda (s : State) (i : HartId) (u : StoreUnit) : (s.shadow i u).agenda = s.agenda := rfl
@[simp] theorem State.shadow_arg (s : State) (i : HartId) (u : StoreUnit) : (s.shadow i u).arg = s.arg := rfl
@[simp] theorem State.shadow_draw (s : State) (i : HartId) (u : StoreUnit) : (s.shadow i u).draw = s.draw := rfl
@[simp] theorem State.shadow_mgrData (s : State) (i : HartId) (u : StoreUnit) : (s.shadow i u).mgrData = s.mgrData := rfl
@[simp] theorem State.shadow_mgrReg (s : State) (i : HartId) (u : StoreUnit) : (s.shadow i u).mgrReg = s.mgrReg := rfl
@[simp] theorem State.shadow_barData (s : State) (i : HartId) (u : StoreUnit) : (s.shadow i u).barData = s.barData := rfl

end Sys2Proof.Machine
end

