-- ==== Sys2Proof/Laws/MemOk.lean ====
section
/-! SUPPORT. Every operation that writes a memory keeps the canonical form of all of them. -/
set_option Elab.async false
namespace Sys2Proof.Machine

/-- The memories of t are those of s. -/
def State.sameMem (s t : State) : Prop := t.dev = s.dev ∧ t.host = s.host ∧ t.spad = s.spad ∧ t.sdm = s.sdm

theorem State.sameMem.memOk {s t : State} (h : s.sameMem t) (k : s.memOk) : t.memOk := by
  obtain ⟨a, b, c, d⟩ := h
  unfold State.memOk; rw [a, b, c, d]; exact k

theorem State.sameMem_refl (s : State) : s.sameMem s := ⟨rfl, rfl, rfl, rfl⟩

theorem State.sameMem.trans {s t u : State} (h : s.sameMem t) (k : t.sameMem u) : s.sameMem u :=
  ⟨k.1.trans h.1, k.2.1.trans h.2.1, k.2.2.1.trans h.2.2.1, k.2.2.2.trans h.2.2.2⟩

/-- A fold of changes that each keep the memories. -/
theorem sameMem_foldl {α : Type} (f : State → α → State) (l : List α) (h : ∀ (s : State) (a : α), s.sameMem (f s a)) : ∀ s : State, s.sameMem (l.foldl f s) := by
  induction l with
  | nil => exact State.sameMem_refl
  | cons a l ih => exact fun s => (h s a).trans (ih _)

/-- A fold of changes that each keep the canonical form. -/
theorem memOk_foldl {α : Type} (f : State → α → State) (l : List α) (h : ∀ (s : State) (a : α), s.memOk → (f s a).memOk) : ∀ s : State, s.memOk → (l.foldl f s).memOk := by
  induction l with
  | nil => exact fun _ k => k
  | cons a l ih => exact fun s k => ih _ (h s a k)

theorem mapHarts_sameMem (s : State) (f : Hart → Hart) : s.sameMem (s.mapHarts f) := ⟨rfl, rfl, rfl, rfl⟩
theorem updHart_sameMem (s : State) (i : HartId) (f : Hart → Hart) : s.sameMem (s.updHart i f) := ⟨rfl, rfl, rfl, rfl⟩
theorem updTeam_sameMem (s : State) (c o : Nat) (f : Team → Team) : s.sameMem (s.updTeam c o f) := ⟨rfl, rfl, rfl, rfl⟩
theorem updFabric_sameMem (s : State) (c : Nat) (f : Fabric → Fabric) : s.sameMem (s.updFabric c f) := ⟨rfl, rfl, rfl, rfl⟩
theorem updContext_sameMem (s : State) (c : Nat) (f : Context → Context) : s.sameMem (s.updContext c f) := ⟨rfl, rfl, rfl, rfl⟩
theorem goesOn_sameMem (s : State) (h : Hart) (n : Nat) : s.sameMem (s.goesOn h n) := ⟨rfl, rfl, rfl, rfl⟩
theorem breakLinks_sameMem (s : State) (g : Granule) (k : Option HartId) : s.sameMem (s.breakLinks g k) := ⟨rfl, rfl, rfl, rfl⟩
theorem breakLines_sameMem (s : State) (a n : Nat) : s.sameMem (s.breakLines a n) := ⟨rfl, rfl, rfl, rfl⟩
theorem breakPage_sameMem (s : State) (p n : Nat) : s.sameMem (s.breakPage p n) := ⟨rfl, rfl, rfl, rfl⟩
theorem setTags_sameMem (s : State) (p n b : Nat) : s.sameMem (s.setTags p n b) := ⟨rfl, rfl, rfl, rfl⟩
theorem shadow_sameMem (s : State) (i : HartId) (u : StoreUnit) : s.sameMem (s.shadow i u) := ⟨rfl, rfl, rfl, rfl⟩
theorem place_sameMem (s : State) (h : Hart) (c : CmdWords) : s.sameMem (s.place h c) := ⟨rfl, rfl, rfl, rfl⟩

theorem emitPort_sameMem (s : State) (f : Fabric) (l q : Nat) (bad : Bool) : s.sameMem (s.emitPort f l q bad) := by
  unfold State.emitPort
  refine sameMem_foldl _ _ (fun s i => ?_) s
  dsimp only
  split
  · split
    · exact ⟨rfl, rfl, rfl, rfl⟩
    · exact State.sameMem_refl s
  · exact State.sameMem_refl s

theorem releasePort_sameMem (s : State) (h : Hart) (q : QIdx) (x : SlotData) : s.sameMem (s.releasePort h q x) := by
  unfold State.releasePort
  split
  · unfold State.emitPortTokens
    split
    · exact State.sameMem_refl s
    · exact emitPort_sameMem _ _ _ _ _
  · exact ⟨rfl, rfl, rfl, rfl⟩

theorem freePort_sameMem (s : State) (h : Hart) (q : QIdx) : s.sameMem (s.freePort h q) := by
  unfold State.freePort
  split
  · exact State.sameMem_refl s
  · exact ⟨rfl, rfl, rfl, rfl⟩

/-! ### Writes -/

theorem setDev8_memOk (s : State) (a v : Nat) (h : s.memOk) : (s.setDev8 a v).memOk := ⟨Mem.store_wf _ _ _ _ h.1, h.2⟩

theorem devStore_memOk (s : State) (a : Nat) (b : List Byte) (h : s.memOk) : (s.devStore a b).memOk :=
  (breakLines_sameMem _ _ _).memOk ⟨Mem.store_wf _ _ _ _ h.1, h.2⟩

theorem logStore_memOk (s : State) (o : Origin) (a : Nat) (h : s.memOk) : (s.logStore o a).memOk := by
  unfold State.logStore
  split
  · exact h
  · exact ⟨Mem.set_wf _ _ _ h.1, h.2⟩

theorem write_memOk (s : State) (o : Origin) (k : Option HartId) (u : StoreUnit) (h : s.memOk) : (s.write o k u).memOk := by
  obtain ⟨l, va, bs, b, lg⟩ := u
  cases l
  · exact ⟨h.1, h.2.1, Mem.store_wf _ _ _ _ h.2.2.1, h.2.2.2⟩
  · exact ⟨h.1, h.2.1, h.2.2.1, Mem.store_wf _ _ _ _ h.2.2.2⟩
  · exact h
  · cases lg
    · exact ⟨Mem.store_wf _ _ _ _ h.1, h.2⟩
    · exact logStore_memOk _ _ _ ⟨Mem.store_wf _ _ _ _ h.1, h.2⟩
  · exact ⟨h.1, Mem.store_wf _ _ _ _ h.2.1, h.2.2⟩

theorem writeAll_memOk (s : State) (o : Origin) (k : Option HartId) (u : StoreUnit) (h : s.memOk) : (s.writeAll o k u).memOk :=
  memOk_foldl _ _ (fun s x k' => write_memOk s o k x k') s h

theorem writeUnits_memOk (s : State) (o : Origin) (k : Option HartId) (us : List StoreUnit) (h : s.memOk) :
    (us.foldl (fun s u => s.writeAll o k u) s).memOk :=
  memOk_foldl _ _ (fun s x k' => writeAll_memOk s o k x k') s h

theorem drainFlights_memOk (l : List Flight) : ∀ s t : State, s.memOk → drainFlights l s = .ok t → t.memOk := by
  induction l with
  | nil => intro s t h e; cases e; exact h
  | cons f l ih =>
    intro s t h e
    unfold drainFlights at e
    split at e
    · cases e
    · split at e
      · cases e
      · exact ih _ _ (writeUnits_memOk { s with flight := s.flight.erase f } _ _ _ h) e

theorem drain_memOk (s t : State) (p : Flight → Bool) (h : s.memOk) (e : s.drain p = .ok t) : t.memOk := drainFlights_memOk _ _ _ h e

theorem drainHost_memOk (s : State) (p : Flight → Bool) (h : s.memOk) : (s.drainHost p).memOk := by
  unfold State.drainHost
  exact memOk_foldl _ _ (fun s f k => writeUnits_memOk { s with hostOut := s.hostOut.erase f } _ _ _ k) _ h

theorem perform_memOk (s : State) (h : Hart) (us : List StoreUnit) (k : s.memOk) : (s.perform h us).memOk := by
  unfold State.perform
  exact writeUnits_memOk _ _ _ _ ((sameMem_foldl _ _ (fun s u => shadow_sameMem s h.id u) s).memOk k)

theorem performEntry_memOk (h : Hart) (s : State) (e : BufEntry) (k : s.memOk) : (performEntry h s e).memOk := by
  unfold performEntry
  split
  · exact perform_memOk s h _ k
  · exact k
  · exact k
  · exact (updTeam_sameMem _ _ _ _).memOk k

theorem releaseEntry_sameMem (h : Hart) (s : State) (e : BufEntry) : s.sameMem (releaseEntry h s e) := by
  unfold releaseEntry
  split
  · exact releasePort_sameMem _ _ _ _
  · exact State.sameMem_refl s

theorem releaseStores_memOk (s t : State) (h : Hart) (k : s.memOk) (e : s.releaseStores h = .ok t) : t.memOk := by
  unfold State.releaseStores at e
  dsimp only at e
  split at e
  · cases e; exact k
  · split at e
    · exact drain_memOk _ _ _ k e
    · cases e; exact k

/-- A commit keeps the canonical form. -/
theorem commit_memOk (s : State) (t : State × Bool) (h : s.memOk) (e : s.commit = .ok t) : t.1.memOk := by
  unfold State.commit at e
  dsimp only at e
  split at e
  · cases e
  · split at e
    · cases e
    · rename_i u hu
      have h1 : u.memOk := by
        split at hu
        · cases hu; exact h
        · exact drain_memOk _ _ _ h hu
      have h2 := fun l => (sameMem_foldl (fun (x : State) c => x.place s.hart c) l (fun x c => place_sameMem x _ c) u).memOk h1
      split at e
      · cases e; exact h2 _
      · split at e
        · cases e
        · rename_i v hv
          have h3 := releaseStores_memOk _ _ _ (memOk_foldl (performEntry s.hart) s.hart.buf (fun x e k => performEntry_memOk _ x e k) _ (h2 _)) hv
          have h4 := (sameMem_foldl (releaseEntry s.hart) s.hart.buf (fun x e => releaseEntry_sameMem _ x e) v).memOk h3
          cases e
          generalize hw : List.foldl (fun (s_1 : State) (q : Fin 8) => _) _ (List.finRange 8) = w
          have h5 : w.memOk := by
            rw [← hw]
            refine (sameMem_foldl _ _ (fun x q => ?_) _).memOk h4
            split
            · exact freePort_sameMem x _ _
            · exact State.sameMem_refl x
          split <;> exact h5

theorem close_memOk (s : State) (t : State × Bool) (h : s.memOk) (e : s.close = .ok t) : t.1.memOk := by
  unfold State.close at e
  split at e
  · cases e; exact h
  · exact commit_memOk _ _ h e

/-! ### Fault records, pages and scrubbing -/

theorem snoop_sameMem (s : State) (l : Nat) : s.sameMem (s.snoop l) := by
  unfold State.snoop; split <;> exact ⟨rfl, rfl, rfl, rfl⟩

theorem drainRing_memOk (c n : Nat) : ∀ s t : State, s.memOk → s.drainRing c n = .ok t → t.memOk := by
  induction n with
  | zero => intro s t h e; cases e; exact h
  | succ n ih =>
    intro s t h e
    unfold State.drainRing at e
    split at e
    · cases e; exact h
    · split at e
      · cases e; exact h
      · split at e
        · cases e; exact h
        · dsimp only at e
          split at e
          · cases e
          · cases e; exact (snoop_sameMem _ _).memOk h
          · cases e; exact h
          · refine ih _ _ ?_ e
            exact devStore_memOk s _ _ h

theorem record_memOk (s t : State) (c : Nat) (x : FaultRec) (h : s.memOk) (e : s.record c x = .ok t) : t.memOk := by
  unfold State.record State.withRing at e
  split at e
  · cases e; exact h
  · refine drainRing_memOk _ _ _ _ ?_ e
    exact h

theorem backing_aligned (s : State) (c l p q : Nat) : (s.backing c l p q).1 % 8 = 0 := by
  unfold State.backing; dsimp only; omega

theorem savePage_memOk (s t : State) (f : Frame) (h : s.memOk) (e : s.savePage f = .ok t) : t.memOk := by
  unfold State.savePage at e
  dsimp only at e
  have hb := backing_aligned s f.ctx f.lsid (f.key % 64) (f.key / 64)
  generalize s.backing f.ctx f.lsid (f.key % 64) (f.key / 64) = b at e hb
  have ha : (f.key / 64 * 2 ^ 21 + f.key % 64 * 32768) % 8 = 0 := by omega
  generalize f.key / 64 * 2 ^ 21 + f.key % 64 * 32768 = a at e ha
  generalize 32768 = n at e
  generalize s.tagBytes _ _ = tb at e
  split at e
  · cases e
  · cases e
  · cases e
    exact devStore_memOk _ _ _ ((breakLines_sameMem _ _ _).memOk ⟨Mem.copyRange_wf _ _ _ _ _ h.2.2.1 h.1 ha hb, h.2⟩)

theorem loadPage_memOk (s t : State) (p page c l : Nat) (h : s.memOk) (e : s.loadPage p page c l = .ok t) : t.memOk := by
  unfold State.loadPage at e
  dsimp only at e
  have hb := backing_aligned s c l page p
  generalize s.backing c l page p = b at e hb
  have ha : (p * 2 ^ 21 + page * 32768) % 8 = 0 := by omega
  generalize p * 2 ^ 21 + page * 32768 = a at e ha
  generalize 32768 = n at e
  split at e
  · cases e
  · cases e
  · split at e
    · cases e
    cases e
    refine State.sameMem.memOk (setTags_sameMem _ _ _ _) ?_
    have k := (breakPage_sameMem s p page).memOk h
    generalize s.breakPage p page = u at k ⊢
    exact ⟨k.1, k.2.1, Mem.copyRange_wf _ _ _ _ _ h.1 h.2.2.1 hb ha, k.2.2.2⟩

theorem updFrame_sameMem (s : State) (key : Nat) (f : Frame → Frame) : s.sameMem (s.updFrame key f) := ⟨rfl, rfl, rfl, rfl⟩

/-- The start of a save leaves the memories as they are, or writes the page to its backing. -/
theorem startSave_memOk (s t : State) (f : Frame) (h : s.memOk) (e : s.startSave f = .ok t) : t.memOk := by
  unfold State.startSave at e
  split at e
  · rename_i u hu; cases e; exact savePage_memOk s u f h hu
  · cases e
  · cases e; rename_i l _; exact ((snoop_sameMem s l).trans (updFrame_sameMem _ _ _)).memOk h
  · cases e; exact h

theorem addMiss_sameMem (s : State) (p ctx : Nat) (host : Bool) (va : Nat) : s.sameMem (s.addMiss p ctx host va) := by
  unfold State.addMiss
  dsimp only
  split
  · exact ⟨rfl, rfl, rfl, rfl⟩
  · split
    · exact ⟨rfl, rfl, rfl, rfl⟩
    · exact State.sameMem_refl s

/-! ### Translation caches -/

theorem fillTlb_sameMem (s : State) (e : TlbEntry) : s.sameMem (s.fillTlb e) := ⟨rfl, rfl, rfl, rfl⟩

theorem fillWalk_sameMem (s : State) (p ctx : Nat) (host : Bool) (va : Nat) (l : Leaf) (nl : List NonLeaf) :
    s.sameMem (s.fillWalk p ctx host va l nl) := by
  unfold State.fillWalk
  exact ((fillTlb_sameMem s _).trans (sameMem_foldl _ _ (fun s _ => fillTlb_sameMem s _) _)).trans ⟨rfl, rfl, rfl, rfl⟩

/-- What an access leaves in the translation caches is not in a memory. -/
theorem look_sameMem (s : State) (p ctx : Nat) (host : Bool) (root va : Nat) : s.sameMem (s.look p ctx host root va) := by
  unfold State.look
  split
  · exact State.sameMem_refl s
  · split
    · exact fillTlb_sameMem s _
    · split
      · exact fillWalk_sameMem s _ _ _ _ _ _
      · exact State.sameMem_refl s

theorem warm_sameMem (s : State) (w : Who) (space : Space) (ps : List Piece) : s.sameMem (s.warm w space ps) := by
  cases space
  · exact State.sameMem_refl s
  · exact State.sameMem_refl s
  · exact sameMem_foldl _ _ (fun s _ => look_sameMem s _ _ _ _ _) s
  · exact sameMem_foldl _ _ (fun s _ => look_sameMem s _ _ _ _ _) s

/-- An access of the own Spire's memories, or of another Spire's, needs no translation. -/
@[simp] theorem State.warm_loc (s : State) (w : Who) (ps : List Piece) : s.warm w .loc ps = s := rfl
@[simp] theorem State.warm_peer (s : State) (w : Who) (ps : List Piece) : s.warm w .peer ps = s := rfl

theorem spoil_memOk (s : State) (g : ScrubSite) (h : s.memOk) : (s.spoil g).memOk := by
  unfold State.spoil
  split
  · exact ⟨h.1, h.2.1, Mem.spoil_wf _ _ h.2.2.1, h.2.2.2⟩
  · exact h
  · exact ⟨Mem.spoil_wf _ _ h.1, h.2⟩
  · split
    · exact h
    · exact ⟨h.1, h.2.1, h.2.2.1, Mem.spoil_wf _ _ h.2.2.2⟩
  all_goals exact h

end Sys2Proof.Machine
end

