-- ==== Sys2Proof/Laws/PerInstr.lean ====
section
/-! SUPPORT. Per instruction: the words of a well-formed instruction decode to it. -/


set_option Elab.async false
namespace Sys2Proof

/-- What the family RoundTrip says of an instruction: when it is well formed and has words, they decode to it. -/
def Laws.RoundTrip.Statement (i : Instr) : Prop :=
  i.wf = true → encode i ≠ [] → decodeWords (encode i) = some i

/-- A short instruction whose fields are in range and decode to it has the round trip. -/
theorem Laws.roundTrip_of_fields {i : Instr} (x : Fields) (he : encodeFields i = some x)
    (hb : x.major < 63 ∧ x.d < 32 ∧ x.a < 32 ∧ x.b < 32 ∧ x.f < 2048) (hd : decodeFields x = some i) :
    Laws.RoundTrip.Statement i := by
  intro hwf _
  obtain ⟨h1, h2, h3, h4, h5⟩ := hb
  simp [encode, he, decodeWords, word_not_prefix x h1 h2 h3 h4 h5, decodeWord, ofWord_word x (by omega) h2 h3 h4 h5, hd, onlyWf,
    hwf]

/-- A long form whose fields are in range and decode to it has the round trip. -/
theorem Laws.roundTrip_of_long {i : Instr} (x : LongFields) (he : encodeFields i = none) (hl : encodeLongFields i = some x)
    (hb : x.lop < 64 ∧ x.pd < 32 ∧ x.pa < 32 ∧ x.pb < 32 ∧ x.psub < 32) (hd : i.wf = true → decodeLongFields x = some i) :
    Laws.RoundTrip.Statement i := by
  intro hwf _
  obtain ⟨h1, h2, h3, h4, h5⟩ := hb
  simp [encode, he, hl, decodeWords, prefixWord_prefix x h1 h2 h3 h4 h5, decodeLong, ofWords_prefixWord x h1 h2 h3 h4 h5, hd hwf,
    onlyWf, hwf]

/-- A step that is no instruction has no words. -/
theorem Laws.roundTrip_of_none {i : Instr} (h : encode i = []) : Laws.RoundTrip.Statement i := fun _ hn => (hn h).elim

theorem Laws.RoundTrip.add (d : SReg) (a : SReg) (b : SReg) : Laws.RoundTrip.Statement (.add d a b) := by
  have h0 := d.isLt
  have h1 := a.isLt
  have h2 := b.isLt
  refine Laws.roundTrip_of_fields _ rfl (by refine ⟨?_, ?_, ?_, ?_, ?_⟩ <;> simp only [] <;> omega) ?_
  simp [decodeFields, dec01, r5_val, need, bit]

theorem Laws.RoundTrip.sub (d : SReg) (a : SReg) (b : SReg) : Laws.RoundTrip.Statement (.sub d a b) := by
  have h0 := d.isLt
  have h1 := a.isLt
  have h2 := b.isLt
  refine Laws.roundTrip_of_fields _ rfl (by refine ⟨?_, ?_, ?_, ?_, ?_⟩ <;> simp only [] <;> omega) ?_
  simp [decodeFields, dec01, r5_val, need, bit]

theorem Laws.RoundTrip.and (d : SReg) (a : SReg) (b : SReg) : Laws.RoundTrip.Statement (.and d a b) := by
  have h0 := d.isLt
  have h1 := a.isLt
  have h2 := b.isLt
  refine Laws.roundTrip_of_fields _ rfl (by refine ⟨?_, ?_, ?_, ?_, ?_⟩ <;> simp only [] <;> omega) ?_
  simp [decodeFields, dec01, r5_val, need, bit]

theorem Laws.RoundTrip.or (d : SReg) (a : SReg) (b : SReg) : Laws.RoundTrip.Statement (.or d a b) := by
  have h0 := d.isLt
  have h1 := a.isLt
  have h2 := b.isLt
  refine Laws.roundTrip_of_fields _ rfl (by refine ⟨?_, ?_, ?_, ?_, ?_⟩ <;> simp only [] <;> omega) ?_
  simp [decodeFields, dec01, r5_val, need, bit]

theorem Laws.RoundTrip.xor (d : SReg) (a : SReg) (b : SReg) : Laws.RoundTrip.Statement (.xor d a b) := by
  have h0 := d.isLt
  have h1 := a.isLt
  have h2 := b.isLt
  refine Laws.roundTrip_of_fields _ rfl (by refine ⟨?_, ?_, ?_, ?_, ?_⟩ <;> simp only [] <;> omega) ?_
  simp [decodeFields, dec01, r5_val, need, bit]

theorem Laws.RoundTrip.sll (d : SReg) (a : SReg) (b : SReg) : Laws.RoundTrip.Statement (.sll d a b) := by
  have h0 := d.isLt
  have h1 := a.isLt
  have h2 := b.isLt
  refine Laws.roundTrip_of_fields _ rfl (by refine ⟨?_, ?_, ?_, ?_, ?_⟩ <;> simp only [] <;> omega) ?_
  simp [decodeFields, dec01, r5_val, need, bit]

theorem Laws.RoundTrip.srl (d : SReg) (a : SReg) (b : SReg) : Laws.RoundTrip.Statement (.srl d a b) := by
  have h0 := d.isLt
  have h1 := a.isLt
  have h2 := b.isLt
  refine Laws.roundTrip_of_fields _ rfl (by refine ⟨?_, ?_, ?_, ?_, ?_⟩ <;> simp only [] <;> omega) ?_
  simp [decodeFields, dec01, r5_val, need, bit]

theorem Laws.RoundTrip.sra (d : SReg) (a : SReg) (b : SReg) : Laws.RoundTrip.Statement (.sra d a b) := by
  have h0 := d.isLt
  have h1 := a.isLt
  have h2 := b.isLt
  refine Laws.roundTrip_of_fields _ rfl (by refine ⟨?_, ?_, ?_, ?_, ?_⟩ <;> simp only [] <;> omega) ?_
  simp [decodeFields, dec01, r5_val, need, bit]

theorem Laws.RoundTrip.slt (d : SReg) (a : SReg) (b : SReg) : Laws.RoundTrip.Statement (.slt d a b) := by
  have h0 := d.isLt
  have h1 := a.isLt
  have h2 := b.isLt
  refine Laws.roundTrip_of_fields _ rfl (by refine ⟨?_, ?_, ?_, ?_, ?_⟩ <;> simp only [] <;> omega) ?_
  simp [decodeFields, dec01, r5_val, need, bit]

theorem Laws.RoundTrip.sltu (d : SReg) (a : SReg) (b : SReg) : Laws.RoundTrip.Statement (.sltu d a b) := by
  have h0 := d.isLt
  have h1 := a.isLt
  have h2 := b.isLt
  refine Laws.roundTrip_of_fields _ rfl (by refine ⟨?_, ?_, ?_, ?_, ?_⟩ <;> simp only [] <;> omega) ?_
  simp [decodeFields, dec01, r5_val, need, bit]

theorem Laws.RoundTrip.seq (d : SReg) (a : SReg) (b : SReg) : Laws.RoundTrip.Statement (.seq d a b) := by
  have h0 := d.isLt
  have h1 := a.isLt
  have h2 := b.isLt
  refine Laws.roundTrip_of_fields _ rfl (by refine ⟨?_, ?_, ?_, ?_, ?_⟩ <;> simp only [] <;> omega) ?_
  simp [decodeFields, dec01, r5_val, need, bit]

theorem Laws.RoundTrip.min (d : SReg) (a : SReg) (b : SReg) : Laws.RoundTrip.Statement (.min d a b) := by
  have h0 := d.isLt
  have h1 := a.isLt
  have h2 := b.isLt
  refine Laws.roundTrip_of_fields _ rfl (by refine ⟨?_, ?_, ?_, ?_, ?_⟩ <;> simp only [] <;> omega) ?_
  simp [decodeFields, dec01, r5_val, need, bit]

theorem Laws.RoundTrip.max (d : SReg) (a : SReg) (b : SReg) : Laws.RoundTrip.Statement (.max d a b) := by
  have h0 := d.isLt
  have h1 := a.isLt
  have h2 := b.isLt
  refine Laws.roundTrip_of_fields _ rfl (by refine ⟨?_, ?_, ?_, ?_, ?_⟩ <;> simp only [] <;> omega) ?_
  simp [decodeFields, dec01, r5_val, need, bit]

theorem Laws.RoundTrip.minu (d : SReg) (a : SReg) (b : SReg) : Laws.RoundTrip.Statement (.minu d a b) := by
  have h0 := d.isLt
  have h1 := a.isLt
  have h2 := b.isLt
  refine Laws.roundTrip_of_fields _ rfl (by refine ⟨?_, ?_, ?_, ?_, ?_⟩ <;> simp only [] <;> omega) ?_
  simp [decodeFields, dec01, r5_val, need, bit]

theorem Laws.RoundTrip.maxu (d : SReg) (a : SReg) (b : SReg) : Laws.RoundTrip.Statement (.maxu d a b) := by
  have h0 := d.isLt
  have h1 := a.isLt
  have h2 := b.isLt
  refine Laws.roundTrip_of_fields _ rfl (by refine ⟨?_, ?_, ?_, ?_, ?_⟩ <;> simp only [] <;> omega) ?_
  simp [decodeFields, dec01, r5_val, need, bit]

theorem Laws.RoundTrip.clz (d : SReg) (a : SReg) : Laws.RoundTrip.Statement (.clz d a) := by
  have h0 := d.isLt
  have h1 := a.isLt
  refine Laws.roundTrip_of_fields _ rfl (by refine ⟨?_, ?_, ?_, ?_, ?_⟩ <;> simp only [] <;> omega) ?_
  simp [decodeFields, dec01, r5_val, need, bit]

theorem Laws.RoundTrip.ctz (d : SReg) (a : SReg) : Laws.RoundTrip.Statement (.ctz d a) := by
  have h0 := d.isLt
  have h1 := a.isLt
  refine Laws.roundTrip_of_fields _ rfl (by refine ⟨?_, ?_, ?_, ?_, ?_⟩ <;> simp only [] <;> omega) ?_
  simp [decodeFields, dec01, r5_val, need, bit]

theorem Laws.RoundTrip.popc (d : SReg) (a : SReg) : Laws.RoundTrip.Statement (.popc d a) := by
  have h0 := d.isLt
  have h1 := a.isLt
  refine Laws.roundTrip_of_fields _ rfl (by refine ⟨?_, ?_, ?_, ?_, ?_⟩ <;> simp only [] <;> omega) ?_
  simp [decodeFields, dec01, r5_val, need, bit]

theorem Laws.RoundTrip.mul (d : SReg) (a : SReg) (b : SReg) : Laws.RoundTrip.Statement (.mul d a b) := by
  have h0 := d.isLt
  have h1 := a.isLt
  have h2 := b.isLt
  refine Laws.roundTrip_of_fields _ rfl (by refine ⟨?_, ?_, ?_, ?_, ?_⟩ <;> simp only [] <;> omega) ?_
  simp [decodeFields, dec02, r5_val, need, bit]

theorem Laws.RoundTrip.mulh (d : SReg) (a : SReg) (b : SReg) : Laws.RoundTrip.Statement (.mulh d a b) := by
  have h0 := d.isLt
  have h1 := a.isLt
  have h2 := b.isLt
  refine Laws.roundTrip_of_fields _ rfl (by refine ⟨?_, ?_, ?_, ?_, ?_⟩ <;> simp only [] <;> omega) ?_
  simp [decodeFields, dec02, r5_val, need, bit]

theorem Laws.RoundTrip.mulhu (d : SReg) (a : SReg) (b : SReg) : Laws.RoundTrip.Statement (.mulhu d a b) := by
  have h0 := d.isLt
  have h1 := a.isLt
  have h2 := b.isLt
  refine Laws.roundTrip_of_fields _ rfl (by refine ⟨?_, ?_, ?_, ?_, ?_⟩ <;> simp only [] <;> omega) ?_
  simp [decodeFields, dec02, r5_val, need, bit]

theorem Laws.RoundTrip.mulhsu (d : SReg) (a : SReg) (b : SReg) : Laws.RoundTrip.Statement (.mulhsu d a b) := by
  have h0 := d.isLt
  have h1 := a.isLt
  have h2 := b.isLt
  refine Laws.roundTrip_of_fields _ rfl (by refine ⟨?_, ?_, ?_, ?_, ?_⟩ <;> simp only [] <;> omega) ?_
  simp [decodeFields, dec02, r5_val, need, bit]

theorem Laws.RoundTrip.div (d : SReg) (a : SReg) (b : SReg) : Laws.RoundTrip.Statement (.div d a b) := by
  have h0 := d.isLt
  have h1 := a.isLt
  have h2 := b.isLt
  refine Laws.roundTrip_of_fields _ rfl (by refine ⟨?_, ?_, ?_, ?_, ?_⟩ <;> simp only [] <;> omega) ?_
  simp [decodeFields, dec02, r5_val, need, bit]

theorem Laws.RoundTrip.divu (d : SReg) (a : SReg) (b : SReg) : Laws.RoundTrip.Statement (.divu d a b) := by
  have h0 := d.isLt
  have h1 := a.isLt
  have h2 := b.isLt
  refine Laws.roundTrip_of_fields _ rfl (by refine ⟨?_, ?_, ?_, ?_, ?_⟩ <;> simp only [] <;> omega) ?_
  simp [decodeFields, dec02, r5_val, need, bit]

theorem Laws.RoundTrip.rem (d : SReg) (a : SReg) (b : SReg) : Laws.RoundTrip.Statement (.rem d a b) := by
  have h0 := d.isLt
  have h1 := a.isLt
  have h2 := b.isLt
  refine Laws.roundTrip_of_fields _ rfl (by refine ⟨?_, ?_, ?_, ?_, ?_⟩ <;> simp only [] <;> omega) ?_
  simp [decodeFields, dec02, r5_val, need, bit]

theorem Laws.RoundTrip.remu (d : SReg) (a : SReg) (b : SReg) : Laws.RoundTrip.Statement (.remu d a b) := by
  have h0 := d.isLt
  have h1 := a.isLt
  have h2 := b.isLt
  refine Laws.roundTrip_of_fields _ rfl (by refine ⟨?_, ?_, ?_, ?_, ?_⟩ <;> simp only [] <;> omega) ?_
  simp [decodeFields, dec02, r5_val, need, bit]

theorem Laws.RoundTrip.addi (d : SReg) (a : SReg) (imm : BitVec 16) : Laws.RoundTrip.Statement (.addi d a imm) := by
  have h0 := d.isLt
  have h1 := a.isLt
  have h2 := imm.isLt
  refine Laws.roundTrip_of_fields _ rfl (by refine ⟨?_, ?_, ?_, ?_, ?_⟩ <;> simp only [] <;> omega) ?_
  simp only [decodeFields, ofNat16_split imm] <;> simp [r5_val, need, bit]

theorem Laws.RoundTrip.slli (d : SReg) (a : SReg) (sh : BitVec 6) : Laws.RoundTrip.Statement (.slli d a sh) := by
  have h0 := d.isLt
  have h1 := a.isLt
  have h2 := sh.isLt
  refine Laws.roundTrip_of_fields _ rfl (by refine ⟨?_, ?_, ?_, ?_, ?_⟩ <;> simp only [] <;> omega) ?_
  have e0 : (0 + sh.toNat) / 64 % 4 = 0 := by omega
  have e1 : (0 + sh.toNat) / 256 = 0 := by omega
  have s0 : BitVec.ofNat 6 (0 + sh.toNat) = sh := ofNat_toNat_add 6 0 sh
  simp only [decodeFields, dec04, e0, e1, s0] <;> simp [r5_val, need, bit]

theorem Laws.RoundTrip.srli (d : SReg) (a : SReg) (sh : BitVec 6) : Laws.RoundTrip.Statement (.srli d a sh) := by
  have h0 := d.isLt
  have h1 := a.isLt
  have h2 := sh.isLt
  refine Laws.roundTrip_of_fields _ rfl (by refine ⟨?_, ?_, ?_, ?_, ?_⟩ <;> simp only [] <;> omega) ?_
  have e0 : (256 + sh.toNat) / 64 % 4 = 0 := by omega
  have e1 : (256 + sh.toNat) / 256 = 1 := by omega
  have s0 : BitVec.ofNat 6 (256 + sh.toNat) = sh := ofNat_toNat_add 6 4 sh
  simp only [decodeFields, dec04, e0, e1, s0] <;> simp [r5_val, need, bit]

theorem Laws.RoundTrip.srai (d : SReg) (a : SReg) (sh : BitVec 6) : Laws.RoundTrip.Statement (.srai d a sh) := by
  have h0 := d.isLt
  have h1 := a.isLt
  have h2 := sh.isLt
  refine Laws.roundTrip_of_fields _ rfl (by refine ⟨?_, ?_, ?_, ?_, ?_⟩ <;> simp only [] <;> omega) ?_
  have e0 : (512 + sh.toNat) / 64 % 4 = 0 := by omega
  have e1 : (512 + sh.toNat) / 256 = 2 := by omega
  have s0 : BitVec.ofNat 6 (512 + sh.toNat) = sh := ofNat_toNat_add 6 8 sh
  simp only [decodeFields, dec04, e0, e1, s0] <;> simp [r5_val, need, bit]

theorem Laws.RoundTrip.andi (d : SReg) (a : SReg) (imm : BitVec 16) : Laws.RoundTrip.Statement (.andi d a imm) := by
  have h0 := d.isLt
  have h1 := a.isLt
  have h2 := imm.isLt
  refine Laws.roundTrip_of_fields _ rfl (by refine ⟨?_, ?_, ?_, ?_, ?_⟩ <;> simp only [] <;> omega) ?_
  simp only [decodeFields, ofNat16_split imm] <;> simp [r5_val, need, bit]

theorem Laws.RoundTrip.ori (d : SReg) (a : SReg) (imm : BitVec 16) : Laws.RoundTrip.Statement (.ori d a imm) := by
  have h0 := d.isLt
  have h1 := a.isLt
  have h2 := imm.isLt
  refine Laws.roundTrip_of_fields _ rfl (by refine ⟨?_, ?_, ?_, ?_, ?_⟩ <;> simp only [] <;> omega) ?_
  simp only [decodeFields, ofNat16_split imm] <;> simp [r5_val, need, bit]

theorem Laws.RoundTrip.lui (d : SReg) (imm : BitVec 16) : Laws.RoundTrip.Statement (.lui d imm) := by
  have h0 := d.isLt
  have h1 := imm.isLt
  refine Laws.roundTrip_of_fields _ rfl (by refine ⟨?_, ?_, ?_, ?_, ?_⟩ <;> simp only [] <;> omega) ?_
  simp only [decodeFields, ofNat16_split imm] <;> simp [r5_val, need, bit]

theorem Laws.RoundTrip.ldb (glb : Bool) (d : SReg) (a : SReg) (off : BitVec 13) : Laws.RoundTrip.Statement (.ldb glb d a off) := by
  have h0 := bit_lt glb
  have h1 := d.isLt
  have h2 := a.isLt
  have h3 := off.isLt
  refine Laws.roundTrip_of_fields _ rfl (by refine ⟨?_, ?_, ?_, ?_, ?_⟩ <;> simp only [] <;> omega) ?_
  have e0 : (off.toNat % 2 ^ 8 * 8 + 0) % 8 = 0 := by omega
  cases glb <;> simp only [decLoad, e0, ofNat13_split off 0 (by omega), decodeFields, bit, Nat.reduceAdd, if_true] <;> simp [bit_eq, r5_val, need]

theorem Laws.RoundTrip.ldh (glb : Bool) (d : SReg) (a : SReg) (off : BitVec 13) : Laws.RoundTrip.Statement (.ldh glb d a off) := by
  have h0 := bit_lt glb
  have h1 := d.isLt
  have h2 := a.isLt
  have h3 := off.isLt
  refine Laws.roundTrip_of_fields _ rfl (by refine ⟨?_, ?_, ?_, ?_, ?_⟩ <;> simp only [] <;> omega) ?_
  have e0 : (off.toNat % 2 ^ 8 * 8 + 1) % 8 = 1 := by omega
  cases glb <;> simp only [decLoad, e0, ofNat13_split off 1 (by omega), decodeFields, bit, Nat.reduceAdd, if_true] <;> simp [bit_eq, r5_val, need]

theorem Laws.RoundTrip.ldw (glb : Bool) (d : SReg) (a : SReg) (off : BitVec 13) : Laws.RoundTrip.Statement (.ldw glb d a off) := by
  have h0 := bit_lt glb
  have h1 := d.isLt
  have h2 := a.isLt
  have h3 := off.isLt
  refine Laws.roundTrip_of_fields _ rfl (by refine ⟨?_, ?_, ?_, ?_, ?_⟩ <;> simp only [] <;> omega) ?_
  have e0 : (off.toNat % 2 ^ 8 * 8 + 2) % 8 = 2 := by omega
  cases glb <;> simp only [decLoad, e0, ofNat13_split off 2 (by omega), decodeFields, bit, Nat.reduceAdd, if_true] <;> simp [bit_eq, r5_val, need]

theorem Laws.RoundTrip.ldd (glb : Bool) (d : SReg) (a : SReg) (off : BitVec 13) : Laws.RoundTrip.Statement (.ldd glb d a off) := by
  have h0 := bit_lt glb
  have h1 := d.isLt
  have h2 := a.isLt
  have h3 := off.isLt
  refine Laws.roundTrip_of_fields _ rfl (by refine ⟨?_, ?_, ?_, ?_, ?_⟩ <;> simp only [] <;> omega) ?_
  have e0 : (off.toNat % 2 ^ 8 * 8 + 3) % 8 = 3 := by omega
  cases glb <;> simp only [decLoad, e0, ofNat13_split off 3 (by omega), decodeFields, bit, Nat.reduceAdd, if_true] <;> simp [bit_eq, r5_val, need]

theorem Laws.RoundTrip.ldbu (glb : Bool) (d : SReg) (a : SReg) (off : BitVec 13) : Laws.RoundTrip.Statement (.ldbu glb d a off) := by
  have h0 := bit_lt glb
  have h1 := d.isLt
  have h2 := a.isLt
  have h3 := off.isLt
  refine Laws.roundTrip_of_fields _ rfl (by refine ⟨?_, ?_, ?_, ?_, ?_⟩ <;> simp only [] <;> omega) ?_
  have e0 : (off.toNat % 2 ^ 8 * 8 + 4) % 8 = 4 := by omega
  cases glb <;> simp only [decLoad, e0, ofNat13_split off 4 (by omega), decodeFields, bit, Nat.reduceAdd, if_true] <;> simp [bit_eq, r5_val, need]

theorem Laws.RoundTrip.ldhu (glb : Bool) (d : SReg) (a : SReg) (off : BitVec 13) : Laws.RoundTrip.Statement (.ldhu glb d a off) := by
  have h0 := bit_lt glb
  have h1 := d.isLt
  have h2 := a.isLt
  have h3 := off.isLt
  refine Laws.roundTrip_of_fields _ rfl (by refine ⟨?_, ?_, ?_, ?_, ?_⟩ <;> simp only [] <;> omega) ?_
  have e0 : (off.toNat % 2 ^ 8 * 8 + 5) % 8 = 5 := by omega
  cases glb <;> simp only [decLoad, e0, ofNat13_split off 5 (by omega), decodeFields, bit, Nat.reduceAdd, if_true] <;> simp [bit_eq, r5_val, need]

theorem Laws.RoundTrip.ldwu (glb : Bool) (d : SReg) (a : SReg) (off : BitVec 13) : Laws.RoundTrip.Statement (.ldwu glb d a off) := by
  have h0 := bit_lt glb
  have h1 := d.isLt
  have h2 := a.isLt
  have h3 := off.isLt
  refine Laws.roundTrip_of_fields _ rfl (by refine ⟨?_, ?_, ?_, ?_, ?_⟩ <;> simp only [] <;> omega) ?_
  have e0 : (off.toNat % 2 ^ 8 * 8 + 6) % 8 = 6 := by omega
  cases glb <;> simp only [decLoad, e0, ofNat13_split off 6 (by omega), decodeFields, bit, Nat.reduceAdd, if_true] <;> simp [bit_eq, r5_val, need]

theorem Laws.RoundTrip.stb (glb : Bool) (d : SReg) (a : SReg) (off : BitVec 13) : Laws.RoundTrip.Statement (.stb glb d a off) := by
  have h0 := bit_lt glb
  have h1 := d.isLt
  have h2 := a.isLt
  have h3 := off.isLt
  refine Laws.roundTrip_of_fields _ rfl (by refine ⟨?_, ?_, ?_, ?_, ?_⟩ <;> simp only [] <;> omega) ?_
  have e0 : (off.toNat % 2 ^ 8 * 8 + 0) % 8 = 0 := by omega
  cases glb <;> simp only [decStore, e0, ofNat13_split off 0 (by omega), decodeFields, bit, Nat.reduceAdd, if_true] <;> simp [bit_eq, r5_val, need]

theorem Laws.RoundTrip.sth (glb : Bool) (d : SReg) (a : SReg) (off : BitVec 13) : Laws.RoundTrip.Statement (.sth glb d a off) := by
  have h0 := bit_lt glb
  have h1 := d.isLt
  have h2 := a.isLt
  have h3 := off.isLt
  refine Laws.roundTrip_of_fields _ rfl (by refine ⟨?_, ?_, ?_, ?_, ?_⟩ <;> simp only [] <;> omega) ?_
  have e0 : (off.toNat % 2 ^ 8 * 8 + 1) % 8 = 1 := by omega
  cases glb <;> simp only [decStore, e0, ofNat13_split off 1 (by omega), decodeFields, bit, Nat.reduceAdd, if_true] <;> simp [bit_eq, r5_val, need]

theorem Laws.RoundTrip.stw (glb : Bool) (d : SReg) (a : SReg) (off : BitVec 13) : Laws.RoundTrip.Statement (.stw glb d a off) := by
  have h0 := bit_lt glb
  have h1 := d.isLt
  have h2 := a.isLt
  have h3 := off.isLt
  refine Laws.roundTrip_of_fields _ rfl (by refine ⟨?_, ?_, ?_, ?_, ?_⟩ <;> simp only [] <;> omega) ?_
  have e0 : (off.toNat % 2 ^ 8 * 8 + 2) % 8 = 2 := by omega
  cases glb <;> simp only [decStore, e0, ofNat13_split off 2 (by omega), decodeFields, bit, Nat.reduceAdd, if_true] <;> simp [bit_eq, r5_val, need]

theorem Laws.RoundTrip.std (glb : Bool) (d : SReg) (a : SReg) (off : BitVec 13) : Laws.RoundTrip.Statement (.std glb d a off) := by
  have h0 := bit_lt glb
  have h1 := d.isLt
  have h2 := a.isLt
  have h3 := off.isLt
  refine Laws.roundTrip_of_fields _ rfl (by refine ⟨?_, ?_, ?_, ?_, ?_⟩ <;> simp only [] <;> omega) ?_
  have e0 : (off.toNat % 2 ^ 8 * 8 + 3) % 8 = 3 := by omega
  cases glb <;> simp only [decStore, e0, ofNat13_split off 3 (by omega), decodeFields, bit, Nat.reduceAdd, if_true] <;> simp [bit_eq, r5_val, need]

theorem Laws.RoundTrip.fadd (f : SFmt) (d : SReg) (a : SReg) (b : SReg) : Laws.RoundTrip.Statement (.fadd f d a b) := by
  have h0 := f.code_lt
  have h1 := d.isLt
  have h2 := a.isLt
  have h3 := b.isLt
  refine Laws.roundTrip_of_fields _ rfl (by refine ⟨?_, ?_, ?_, ?_, ?_⟩ <;> simp only [] <;> omega) ?_
  cases f <;> simp only [decSfp, decodeFields, SFmt.code, Nat.reduceAdd, if_true] <;> simp [SFmt.ofCode_code, r5_val, need, bit, SFmt.code]

theorem Laws.RoundTrip.fsub (f : SFmt) (d : SReg) (a : SReg) (b : SReg) : Laws.RoundTrip.Statement (.fsub f d a b) := by
  have h0 := f.code_lt
  have h1 := d.isLt
  have h2 := a.isLt
  have h3 := b.isLt
  refine Laws.roundTrip_of_fields _ rfl (by refine ⟨?_, ?_, ?_, ?_, ?_⟩ <;> simp only [] <;> omega) ?_
  cases f <;> simp only [decSfp, decodeFields, SFmt.code, Nat.reduceAdd, if_true] <;> simp [SFmt.ofCode_code, r5_val, need, bit, SFmt.code]

theorem Laws.RoundTrip.fmul (f : SFmt) (d : SReg) (a : SReg) (b : SReg) : Laws.RoundTrip.Statement (.fmul f d a b) := by
  have h0 := f.code_lt
  have h1 := d.isLt
  have h2 := a.isLt
  have h3 := b.isLt
  refine Laws.roundTrip_of_fields _ rfl (by refine ⟨?_, ?_, ?_, ?_, ?_⟩ <;> simp only [] <;> omega) ?_
  cases f <;> simp only [decSfp, decodeFields, SFmt.code, Nat.reduceAdd, if_true] <;> simp [SFmt.ofCode_code, r5_val, need, bit, SFmt.code]

theorem Laws.RoundTrip.fdiv (f : SFmt) (d : SReg) (a : SReg) (b : SReg) : Laws.RoundTrip.Statement (.fdiv f d a b) := by
  have h0 := f.code_lt
  have h1 := d.isLt
  have h2 := a.isLt
  have h3 := b.isLt
  refine Laws.roundTrip_of_fields _ rfl (by refine ⟨?_, ?_, ?_, ?_, ?_⟩ <;> simp only [] <;> omega) ?_
  cases f <;> simp only [decSfp, decodeFields, SFmt.code, Nat.reduceAdd, if_true] <;> simp [SFmt.ofCode_code, r5_val, need, bit, SFmt.code]

theorem Laws.RoundTrip.fmadd (f : SFmt) (d : SReg) (a : SReg) (b : SReg) : Laws.RoundTrip.Statement (.fmadd f d a b) := by
  have h0 := f.code_lt
  have h1 := d.isLt
  have h2 := a.isLt
  have h3 := b.isLt
  refine Laws.roundTrip_of_fields _ rfl (by refine ⟨?_, ?_, ?_, ?_, ?_⟩ <;> simp only [] <;> omega) ?_
  cases f <;> simp only [decSfp, decodeFields, SFmt.code, Nat.reduceAdd, if_true] <;> simp [SFmt.ofCode_code, r5_val, need, bit, SFmt.code]

theorem Laws.RoundTrip.fmin (f : SFmt) (d : SReg) (a : SReg) (b : SReg) : Laws.RoundTrip.Statement (.fmin f d a b) := by
  have h0 := f.code_lt
  have h1 := d.isLt
  have h2 := a.isLt
  have h3 := b.isLt
  refine Laws.roundTrip_of_fields _ rfl (by refine ⟨?_, ?_, ?_, ?_, ?_⟩ <;> simp only [] <;> omega) ?_
  cases f <;> simp only [decSfp, decodeFields, SFmt.code, Nat.reduceAdd, if_true] <;> simp [SFmt.ofCode_code, r5_val, need, bit, SFmt.code]

theorem Laws.RoundTrip.fmax (f : SFmt) (d : SReg) (a : SReg) (b : SReg) : Laws.RoundTrip.Statement (.fmax f d a b) := by
  have h0 := f.code_lt
  have h1 := d.isLt
  have h2 := a.isLt
  have h3 := b.isLt
  refine Laws.roundTrip_of_fields _ rfl (by refine ⟨?_, ?_, ?_, ?_, ?_⟩ <;> simp only [] <;> omega) ?_
  cases f <;> simp only [decSfp, decodeFields, SFmt.code, Nat.reduceAdd, if_true] <;> simp [SFmt.ofCode_code, r5_val, need, bit, SFmt.code]

theorem Laws.RoundTrip.fsqrt (f : SFmt) (d : SReg) (a : SReg) : Laws.RoundTrip.Statement (.fsqrt f d a) := by
  have h0 := f.code_lt
  have h1 := d.isLt
  have h2 := a.isLt
  refine Laws.roundTrip_of_fields _ rfl (by refine ⟨?_, ?_, ?_, ?_, ?_⟩ <;> simp only [] <;> omega) ?_
  cases f <;> simp only [decSfp, decodeFields, SFmt.code, Nat.reduceAdd, if_true] <;> simp [SFmt.ofCode_code, r5_val, need, bit, SFmt.code]

theorem Laws.RoundTrip.fneg (f : SFmt) (d : SReg) (a : SReg) : Laws.RoundTrip.Statement (.fneg f d a) := by
  have h0 := f.code_lt
  have h1 := d.isLt
  have h2 := a.isLt
  refine Laws.roundTrip_of_fields _ rfl (by refine ⟨?_, ?_, ?_, ?_, ?_⟩ <;> simp only [] <;> omega) ?_
  cases f <;> simp only [decSfp, decodeFields, SFmt.code, Nat.reduceAdd, if_true] <;> simp [SFmt.ofCode_code, r5_val, need, bit, SFmt.code]

theorem Laws.RoundTrip.fabs (f : SFmt) (d : SReg) (a : SReg) : Laws.RoundTrip.Statement (.fabs f d a) := by
  have h0 := f.code_lt
  have h1 := d.isLt
  have h2 := a.isLt
  refine Laws.roundTrip_of_fields _ rfl (by refine ⟨?_, ?_, ?_, ?_, ?_⟩ <;> simp only [] <;> omega) ?_
  cases f <;> simp only [decSfp, decodeFields, SFmt.code, Nat.reduceAdd, if_true] <;> simp [SFmt.ofCode_code, r5_val, need, bit, SFmt.code]

theorem Laws.RoundTrip.fsgnj (f : SFmt) (d : SReg) (a : SReg) (b : SReg) : Laws.RoundTrip.Statement (.fsgnj f d a b) := by
  have h0 := f.code_lt
  have h1 := d.isLt
  have h2 := a.isLt
  have h3 := b.isLt
  refine Laws.roundTrip_of_fields _ rfl (by refine ⟨?_, ?_, ?_, ?_, ?_⟩ <;> simp only [] <;> omega) ?_
  cases f <;> simp only [decSfp, decodeFields, SFmt.code, Nat.reduceAdd, if_true] <;> simp [SFmt.ofCode_code, r5_val, need, bit, SFmt.code]

theorem Laws.RoundTrip.feq (f : SFmt) (d : SReg) (a : SReg) (b : SReg) : Laws.RoundTrip.Statement (.feq f d a b) := by
  have h0 := f.code_lt
  have h1 := d.isLt
  have h2 := a.isLt
  have h3 := b.isLt
  refine Laws.roundTrip_of_fields _ rfl (by refine ⟨?_, ?_, ?_, ?_, ?_⟩ <;> simp only [] <;> omega) ?_
  cases f <;> simp only [decSfp, decodeFields, SFmt.code, Nat.reduceAdd, if_true] <;> simp [SFmt.ofCode_code, r5_val, need, bit, SFmt.code]

theorem Laws.RoundTrip.flt (f : SFmt) (d : SReg) (a : SReg) (b : SReg) : Laws.RoundTrip.Statement (.flt f d a b) := by
  have h0 := f.code_lt
  have h1 := d.isLt
  have h2 := a.isLt
  have h3 := b.isLt
  refine Laws.roundTrip_of_fields _ rfl (by refine ⟨?_, ?_, ?_, ?_, ?_⟩ <;> simp only [] <;> omega) ?_
  cases f <;> simp only [decSfp, decodeFields, SFmt.code, Nat.reduceAdd, if_true] <;> simp [SFmt.ofCode_code, r5_val, need, bit, SFmt.code]

theorem Laws.RoundTrip.fle (f : SFmt) (d : SReg) (a : SReg) (b : SReg) : Laws.RoundTrip.Statement (.fle f d a b) := by
  have h0 := f.code_lt
  have h1 := d.isLt
  have h2 := a.isLt
  have h3 := b.isLt
  refine Laws.roundTrip_of_fields _ rfl (by refine ⟨?_, ?_, ?_, ?_, ?_⟩ <;> simp only [] <;> omega) ?_
  cases f <;> simp only [decSfp, decodeFields, SFmt.code, Nat.reduceAdd, if_true] <;> simp [SFmt.ofCode_code, r5_val, need, bit, SFmt.code]

theorem Laws.RoundTrip.fcvtFp64Fp32 (d : SReg) (a : SReg) : Laws.RoundTrip.Statement (.fcvtFp64Fp32 d a) := by
  have h0 := d.isLt
  have h1 := a.isLt
  refine Laws.roundTrip_of_fields _ rfl (by refine ⟨?_, ?_, ?_, ?_, ?_⟩ <;> simp only [] <;> omega) ?_
  simp [decodeFields, dec0E, r5_val, need, bit]

theorem Laws.RoundTrip.fcvtFp32Fp64 (d : SReg) (a : SReg) : Laws.RoundTrip.Statement (.fcvtFp32Fp64 d a) := by
  have h0 := d.isLt
  have h1 := a.isLt
  refine Laws.roundTrip_of_fields _ rfl (by refine ⟨?_, ?_, ?_, ?_, ?_⟩ <;> simp only [] <;> omega) ?_
  simp [decodeFields, dec0E, r5_val, need, bit]

theorem Laws.RoundTrip.fcvtFp32I64 (d : SReg) (a : SReg) : Laws.RoundTrip.Statement (.fcvtFp32I64 d a) := by
  have h0 := d.isLt
  have h1 := a.isLt
  refine Laws.roundTrip_of_fields _ rfl (by refine ⟨?_, ?_, ?_, ?_, ?_⟩ <;> simp only [] <;> omega) ?_
  simp [decodeFields, dec0E, r5_val, need, bit]

theorem Laws.RoundTrip.fcvtFp64I64 (d : SReg) (a : SReg) : Laws.RoundTrip.Statement (.fcvtFp64I64 d a) := by
  have h0 := d.isLt
  have h1 := a.isLt
  refine Laws.roundTrip_of_fields _ rfl (by refine ⟨?_, ?_, ?_, ?_, ?_⟩ <;> simp only [] <;> omega) ?_
  simp [decodeFields, dec0E, r5_val, need, bit]

theorem Laws.RoundTrip.fcvtFp32Ui64 (d : SReg) (a : SReg) : Laws.RoundTrip.Statement (.fcvtFp32Ui64 d a) := by
  have h0 := d.isLt
  have h1 := a.isLt
  refine Laws.roundTrip_of_fields _ rfl (by refine ⟨?_, ?_, ?_, ?_, ?_⟩ <;> simp only [] <;> omega) ?_
  simp [decodeFields, dec0E, r5_val, need, bit]

theorem Laws.RoundTrip.fcvtFp64Ui64 (d : SReg) (a : SReg) : Laws.RoundTrip.Statement (.fcvtFp64Ui64 d a) := by
  have h0 := d.isLt
  have h1 := a.isLt
  refine Laws.roundTrip_of_fields _ rfl (by refine ⟨?_, ?_, ?_, ?_, ?_⟩ <;> simp only [] <;> omega) ?_
  simp [decodeFields, dec0E, r5_val, need, bit]

theorem Laws.RoundTrip.fcvtI64Fp32 (d : SReg) (a : SReg) : Laws.RoundTrip.Statement (.fcvtI64Fp32 d a) := by
  have h0 := d.isLt
  have h1 := a.isLt
  refine Laws.roundTrip_of_fields _ rfl (by refine ⟨?_, ?_, ?_, ?_, ?_⟩ <;> simp only [] <;> omega) ?_
  simp [decodeFields, dec0E, r5_val, need, bit]

theorem Laws.RoundTrip.fcvtI64Fp64 (d : SReg) (a : SReg) : Laws.RoundTrip.Statement (.fcvtI64Fp64 d a) := by
  have h0 := d.isLt
  have h1 := a.isLt
  refine Laws.roundTrip_of_fields _ rfl (by refine ⟨?_, ?_, ?_, ?_, ?_⟩ <;> simp only [] <;> omega) ?_
  simp [decodeFields, dec0E, r5_val, need, bit]

theorem Laws.RoundTrip.fcvtUi64Fp32 (d : SReg) (a : SReg) : Laws.RoundTrip.Statement (.fcvtUi64Fp32 d a) := by
  have h0 := d.isLt
  have h1 := a.isLt
  refine Laws.roundTrip_of_fields _ rfl (by refine ⟨?_, ?_, ?_, ?_, ?_⟩ <;> simp only [] <;> omega) ?_
  simp [decodeFields, dec0E, r5_val, need, bit]

theorem Laws.RoundTrip.fcvtUi64Fp64 (d : SReg) (a : SReg) : Laws.RoundTrip.Statement (.fcvtUi64Fp64 d a) := by
  have h0 := d.isLt
  have h1 := a.isLt
  refine Laws.roundTrip_of_fields _ rfl (by refine ⟨?_, ?_, ?_, ?_, ?_⟩ <;> simp only [] <;> omega) ?_
  simp [decodeFields, dec0E, r5_val, need, bit]

theorem Laws.RoundTrip.fcvtFp16Fp32 (d : SReg) (a : SReg) : Laws.RoundTrip.Statement (.fcvtFp16Fp32 d a) := by
  have h0 := d.isLt
  have h1 := a.isLt
  refine Laws.roundTrip_of_fields _ rfl (by refine ⟨?_, ?_, ?_, ?_, ?_⟩ <;> simp only [] <;> omega) ?_
  simp [decodeFields, dec0E, r5_val, need, bit]

theorem Laws.RoundTrip.fcvtFp32Fp16 (d : SReg) (a : SReg) : Laws.RoundTrip.Statement (.fcvtFp32Fp16 d a) := by
  have h0 := d.isLt
  have h1 := a.isLt
  refine Laws.roundTrip_of_fields _ rfl (by refine ⟨?_, ?_, ?_, ?_, ?_⟩ <;> simp only [] <;> omega) ?_
  simp [decodeFields, dec0E, r5_val, need, bit]

theorem Laws.RoundTrip.fcvtBf16Fp32 (d : SReg) (a : SReg) : Laws.RoundTrip.Statement (.fcvtBf16Fp32 d a) := by
  have h0 := d.isLt
  have h1 := a.isLt
  refine Laws.roundTrip_of_fields _ rfl (by refine ⟨?_, ?_, ?_, ?_, ?_⟩ <;> simp only [] <;> omega) ?_
  simp [decodeFields, dec0E, r5_val, need, bit]

theorem Laws.RoundTrip.fcvtFp32Bf16 (d : SReg) (a : SReg) : Laws.RoundTrip.Statement (.fcvtFp32Bf16 d a) := by
  have h0 := d.isLt
  have h1 := a.isLt
  refine Laws.roundTrip_of_fields _ rfl (by refine ⟨?_, ?_, ?_, ?_, ?_⟩ <;> simp only [] <;> omega) ?_
  simp [decodeFields, dec0E, r5_val, need, bit]

theorem Laws.RoundTrip.beq (a : SReg) (b : SReg) (off : BitVec 16) : Laws.RoundTrip.Statement (.beq a b off) := by
  have h0 := a.isLt
  have h1 := b.isLt
  have h2 := off.isLt
  refine Laws.roundTrip_of_fields _ rfl (by refine ⟨?_, ?_, ?_, ?_, ?_⟩ <;> simp only [] <;> omega) ?_
  simp only [decodeFields, ofNat16_split off] <;> simp [r5_val, need, bit]

theorem Laws.RoundTrip.bne (a : SReg) (b : SReg) (off : BitVec 16) : Laws.RoundTrip.Statement (.bne a b off) := by
  have h0 := a.isLt
  have h1 := b.isLt
  have h2 := off.isLt
  refine Laws.roundTrip_of_fields _ rfl (by refine ⟨?_, ?_, ?_, ?_, ?_⟩ <;> simp only [] <;> omega) ?_
  simp only [decodeFields, ofNat16_split off] <;> simp [r5_val, need, bit]

theorem Laws.RoundTrip.bmany (m : MIdx) (off : BitVec 16) : Laws.RoundTrip.Statement (.bmany m off) := by
  have h0 := m.isLt
  have h1 := off.isLt
  refine Laws.roundTrip_of_fields _ rfl (by refine ⟨?_, ?_, ?_, ?_, ?_⟩ <;> simp only [] <;> omega) ?_
  have e0 : m.val / 8 = 0 := by omega
  simp only [decodeFields, dec12, e0, ofNat16_split off]
  simp [r3_val, need]

theorem Laws.RoundTrip.bmnone (m : MIdx) (off : BitVec 16) : Laws.RoundTrip.Statement (.bmnone m off) := by
  have h0 := m.isLt
  have h1 := off.isLt
  refine Laws.roundTrip_of_fields _ rfl (by refine ⟨?_, ?_, ?_, ?_, ?_⟩ <;> simp only [] <;> omega) ?_
  have e0 : (8 + m.val) / 8 = 1 := by omega
  have e1 : r3 (8 + m.val) = m := r3_add 1 m
  simp only [decodeFields, dec12, e0, e1, ofNat16_split off]
  simp [need]

theorem Laws.RoundTrip.jalr (b : SReg) (off : BitVec 16) : Laws.RoundTrip.Statement (.jalr b off) := by
  have h0 := b.isLt
  have h1 := off.isLt
  refine Laws.roundTrip_of_fields _ rfl (by refine ⟨?_, ?_, ?_, ?_, ?_⟩ <;> simp only [] <;> omega) ?_
  simp only [decodeFields, dec12, ofNat16_split off] <;> simp [r5_val, need, bit]

theorem Laws.RoundTrip.jr (b : SReg) (off : BitVec 16) : Laws.RoundTrip.Statement (.jr b off) := by
  have h0 := b.isLt
  have h1 := off.isLt
  refine Laws.roundTrip_of_fields _ rfl (by refine ⟨?_, ?_, ?_, ?_, ?_⟩ <;> simp only [] <;> omega) ?_
  simp only [decodeFields, dec12, ofNat16_split off] <;> simp [r5_val, need, bit]

theorem Laws.RoundTrip.jal (off : BitVec 26) : Laws.RoundTrip.Statement (.jal off) := by
  have h0 := off.isLt
  refine Laws.roundTrip_of_fields _ rfl (by refine ⟨?_, ?_, ?_, ?_, ?_⟩ <;> simp only [] <;> omega) ?_
  simp only [decodeFields, ofNat26_split off] <;> simp [need, bit]

theorem Laws.RoundTrip.hcrr (d : SReg) (num : BitVec 16) : Laws.RoundTrip.Statement (.hcrr d num) := by
  have h0 := d.isLt
  have h1 := num.isLt
  refine Laws.roundTrip_of_fields _ rfl (by refine ⟨?_, ?_, ?_, ?_, ?_⟩ <;> simp only [] <;> omega) ?_
  simp only [decodeFields, ofNat16_split num] <;> simp [r5_val, need, bit]

theorem Laws.RoundTrip.hcrw (a : SReg) (num : BitVec 16) : Laws.RoundTrip.Statement (.hcrw a num) := by
  have h0 := a.isLt
  have h1 := num.isLt
  refine Laws.roundTrip_of_fields _ rfl (by refine ⟨?_, ?_, ?_, ?_, ?_⟩ <;> simp only [] <;> omega) ?_
  simp only [decodeFields, dec15, ofNat16_split num] <;> simp [r5_val, need, bit]

theorem Laws.RoundTrip.trap (code : BitVec 16) : Laws.RoundTrip.Statement (.trap code) := by
  have h0 := code.isLt
  refine Laws.roundTrip_of_fields _ rfl (by refine ⟨?_, ?_, ?_, ?_, ?_⟩ <;> simp only [] <;> omega) ?_
  simp only [decodeFields, dec15, ofNat16_split code] <;> simp [need, bit]

theorem Laws.RoundTrip.brk (code : BitVec 16) : Laws.RoundTrip.Statement (.brk code) := by
  have h0 := code.isLt
  refine Laws.roundTrip_of_fields _ rfl (by refine ⟨?_, ?_, ?_, ?_, ?_⟩ <;> simp only [] <;> omega) ?_
  simp only [decodeFields, dec15, ofNat16_split code] <;> simp [need, bit]

theorem Laws.RoundTrip.fence (sc : Scope) : Laws.RoundTrip.Statement (.fence sc) := by
  have h0 := sc.code_lt
  refine Laws.roundTrip_of_fields _ rfl (by refine ⟨?_, ?_, ?_, ?_, ?_⟩ <;> simp only [] <;> omega) ?_
  have e0 : sc.code % 64 = sc.code := by omega
  have e1 : sc.code / 64 = 0 := by omega
  have e2 : sc.code / 8 = 0 := by omega
  have e3 : sc.code % 8 = sc.code := by omega
  simp only [decodeFields, dec16, e0, e1, e2, e3, Scope.ofCode_code]
  simp

theorem Laws.RoundTrip.barArrive (id : BitVec 6) : Laws.RoundTrip.Statement (.barArrive id) := by
  have h0 := id.isLt
  refine Laws.roundTrip_of_fields _ rfl (by refine ⟨?_, ?_, ?_, ?_, ?_⟩ <;> simp only [] <;> omega) ?_
  have e0 : (64 + id.toNat) % 64 = id.toNat := by omega
  have e1 : (64 + id.toNat) / 64 = 1 := by omega
  simp only [decodeFields, dec16, e0, e1] <;> simp [ofNat_toNat_add 6 1 id, need, bit]

theorem Laws.RoundTrip.barWait (id : BitVec 6) : Laws.RoundTrip.Statement (.barWait id) := by
  have h0 := id.isLt
  refine Laws.roundTrip_of_fields _ rfl (by refine ⟨?_, ?_, ?_, ?_, ?_⟩ <;> simp only [] <;> omega) ?_
  have e0 : (128 + id.toNat) % 64 = id.toNat := by omega
  have e1 : (128 + id.toNat) / 64 = 2 := by omega
  simp only [decodeFields, dec16, e0, e1] <;> simp [ofNat_toNat_add 6 2 id, need, bit]

theorem Laws.RoundTrip.await (a : SReg) : Laws.RoundTrip.Statement (.await a) := by
  have h0 := a.isLt
  refine Laws.roundTrip_of_fields _ rfl (by refine ⟨?_, ?_, ?_, ?_, ?_⟩ <;> simp only [] <;> omega) ?_
  simp [decodeFields, dec16, r5_val, need, bit]

theorem Laws.RoundTrip.tkwait (n : TkIdx) (a : SReg) : Laws.RoundTrip.Statement (.tkwait n a) := by
  have h0 := n.isLt
  have h1 := a.isLt
  refine Laws.roundTrip_of_fields _ rfl (by refine ⟨?_, ?_, ?_, ?_, ?_⟩ <;> simp only [] <;> omega) ?_
  have e0 : (256 + n.val) % 64 = n.val := by omega
  have e1 : (256 + n.val) / 64 = 4 := by omega
  simp only [decodeFields, dec16, e0, e1] <;> simp [r5_val, need, bit]

theorem Laws.RoundTrip.farmInit (a : SReg) (b : SReg) : Laws.RoundTrip.Statement (.farmInit a b) := by
  have h0 := a.isLt
  have h1 := b.isLt
  refine Laws.roundTrip_of_fields _ rfl (by refine ⟨?_, ?_, ?_, ?_, ?_⟩ <;> simp only [] <;> omega) ?_
  simp [decodeFields, dec16, r5_val, need, bit]

theorem Laws.RoundTrip.farmNext (d : SReg) : Laws.RoundTrip.Statement (.farmNext d) := by
  have h0 := d.isLt
  refine Laws.roundTrip_of_fields _ rfl (by refine ⟨?_, ?_, ?_, ?_, ?_⟩ <;> simp only [] <;> omega) ?_
  simp [decodeFields, dec16, r5_val, need, bit]

theorem Laws.RoundTrip.setvl (d : SReg) (a : SReg) (w : EW) : Laws.RoundTrip.Statement (.setvl d a w) := by
  have h0 := d.isLt
  have h1 := a.isLt
  have h2 := w.code_lt
  refine Laws.roundTrip_of_fields _ rfl (by refine ⟨?_, ?_, ?_, ?_, ?_⟩ <;> simp only [] <;> omega) ?_
  have e0 : (w.code * 32) / 256 = 0 := by omega
  have e1 : (w.code * 32) % 32 = 0 := by omega
  have e2 : (w.code * 32) / 32 % 8 = w.code := by omega
  have e3 : (w.code * 32) / 8 % 4 = 0 := by omega
  have e4 : (w.code * 32) % 8 = 0 := by omega
  have e5 : (w.code * 32) / 8 % 32 = w.code * 4 := by omega
  have e6 : (w.code * 32) % 256 = w.code * 32 := by omega
  simp only [decodeFields, dec18, e0, e1, e2, e3, e4, e5, e6] <;> simp [EW.ofCode_code, r5_val, need, bit]

theorem Laws.RoundTrip.setvlAcq (d : SReg) (a : SReg) (w : EW) (sc : Scope) : Laws.RoundTrip.Statement (.setvlAcq d a w sc) := by
  have h0 := d.isLt
  have h1 := a.isLt
  have h2 := w.code_lt
  have h3 := sc.code_lt
  refine Laws.roundTrip_of_fields _ rfl (by refine ⟨?_, ?_, ?_, ?_, ?_⟩ <;> simp only [] <;> omega) ?_
  have e0 : (256 + w.code * 32 + sc.code) / 256 = 1 := by omega
  have e1 : (256 + w.code * 32 + sc.code) % 32 = sc.code := by omega
  have e2 : (256 + w.code * 32 + sc.code) / 32 % 8 = w.code := by omega
  have e3 : (256 + w.code * 32 + sc.code) / 8 % 4 = 0 := by omega
  have e4 : (256 + w.code * 32 + sc.code) % 8 = sc.code := by omega
  have e5 : (256 + w.code * 32 + sc.code) / 8 % 32 = w.code * 4 := by omega
  have e6 : (256 + w.code * 32 + sc.code) % 256 = w.code * 32 + sc.code := by omega
  simp only [decodeFields, dec18, e0, e1, e2, e3, e4, e5, e6] <;> simp [EW.ofCode_code, Scope.ofCode_code, r5_val, need, bit]

theorem Laws.RoundTrip.strip (d : SReg) : Laws.RoundTrip.Statement (.strip d) := by
  have h0 := d.isLt
  refine Laws.roundTrip_of_fields _ rfl (by refine ⟨?_, ?_, ?_, ?_, ?_⟩ <;> simp only [] <;> omega) ?_
  simp [decodeFields, dec18, r5_val, need, bit]

theorem Laws.RoundTrip.stripRel (d : SReg) (sc : Scope) : Laws.RoundTrip.Statement (.stripRel d sc) := by
  have h0 := d.isLt
  have h1 := sc.code_lt
  refine Laws.roundTrip_of_fields _ rfl (by refine ⟨?_, ?_, ?_, ?_, ?_⟩ <;> simp only [] <;> omega) ?_
  have e0 : (768 + sc.code) / 256 = 3 := by omega
  have e1 : (768 + sc.code) % 32 = sc.code := by omega
  have e2 : (768 + sc.code) / 32 % 8 = 0 := by omega
  have e3 : (768 + sc.code) / 8 % 4 = 0 := by omega
  have e4 : (768 + sc.code) % 8 = sc.code := by omega
  have e5 : (768 + sc.code) / 8 % 32 = 0 := by omega
  have e6 : (768 + sc.code) % 256 = sc.code := by omega
  simp only [decodeFields, dec18, e0, e1, e2, e3, e4, e5, e6] <;> simp [Scope.ofCode_code, r5_val, need, bit]

theorem Laws.RoundTrip.vld (d : VIdx) (a : SReg) (m : MIdx) : Laws.RoundTrip.Statement (.vld d a m) := by
  have h0 := d.isLt
  have h1 := a.isLt
  have h2 := m.isLt
  refine Laws.roundTrip_of_fields _ rfl (by refine ⟨?_, ?_, ?_, ?_, ?_⟩ <;> simp only [] <;> omega) ?_
  have e0 : (m.val * 256 + 0) / 256 = m.val := by omega
  have e1 : (m.val * 256 + 0) % 256 = 0 := by omega
  simp only [decodeFields, dec19, e0, e1] <;> simp [r3_val, r5_val, need, bit]

theorem Laws.RoundTrip.vlds (d : VIdx) (a : SReg) (st : SReg) (m : MIdx) : Laws.RoundTrip.Statement (.vlds d a st m) := by
  have h0 := d.isLt
  have h1 := a.isLt
  have h2 := st.isLt
  have h3 := m.isLt
  refine Laws.roundTrip_of_fields _ rfl (by refine ⟨?_, ?_, ?_, ?_, ?_⟩ <;> simp only [] <;> omega) ?_
  have e0 : (m.val * 256 + 32) / 256 = m.val := by omega
  have e1 : (m.val * 256 + 32) % 256 = 32 := by omega
  simp only [decodeFields, dec19, e0, e1] <;> simp [r3_val, r5_val, need, bit]

theorem Laws.RoundTrip.vldx (d : VIdx) (a : SReg) (ix : VIdx) (m : MIdx) : Laws.RoundTrip.Statement (.vldx d a ix m) := by
  have h0 := d.isLt
  have h1 := a.isLt
  have h2 := ix.isLt
  have h3 := m.isLt
  refine Laws.roundTrip_of_fields _ rfl (by refine ⟨?_, ?_, ?_, ?_, ?_⟩ <;> simp only [] <;> omega) ?_
  have e0 : (m.val * 256 + 64) / 256 = m.val := by omega
  have e1 : (m.val * 256 + 64) % 256 = 64 := by omega
  simp only [decodeFields, dec19, e0, e1] <;> simp [r3_val, r5_val, need, bit]

theorem Laws.RoundTrip.vldff (d : VIdx) (a : SReg) (m : MIdx) : Laws.RoundTrip.Statement (.vldff d a m) := by
  have h0 := d.isLt
  have h1 := a.isLt
  have h2 := m.isLt
  refine Laws.roundTrip_of_fields _ rfl (by refine ⟨?_, ?_, ?_, ?_, ?_⟩ <;> simp only [] <;> omega) ?_
  have e0 : (m.val * 256 + 96) / 256 = m.val := by omega
  have e1 : (m.val * 256 + 96) % 256 = 96 := by omega
  simp only [decodeFields, dec19, e0, e1] <;> simp [r3_val, r5_val, need, bit]

theorem Laws.RoundTrip.vldsc (d : VIdx) (a : SReg) (ix : VIdx) (m : MIdx) : Laws.RoundTrip.Statement (.vldsc d a ix m) := by
  have h0 := d.isLt
  have h1 := a.isLt
  have h2 := ix.isLt
  have h3 := m.isLt
  refine Laws.roundTrip_of_fields _ rfl (by refine ⟨?_, ?_, ?_, ?_, ?_⟩ <;> simp only [] <;> omega) ?_
  have e0 : (m.val * 256 + 128) / 256 = m.val := by omega
  have e1 : (m.val * 256 + 128) % 256 = 128 := by omega
  simp only [decodeFields, dec19, e0, e1] <;> simp [r3_val, r5_val, need, bit]

theorem Laws.RoundTrip.vgl (d : VIdx) (a : SReg) (ix : VIdx) (m : MIdx) : Laws.RoundTrip.Statement (.vgl d a ix m) := by
  have h0 := d.isLt
  have h1 := a.isLt
  have h2 := ix.isLt
  have h3 := m.isLt
  refine Laws.roundTrip_of_fields _ rfl (by refine ⟨?_, ?_, ?_, ?_, ?_⟩ <;> simp only [] <;> omega) ?_
  have e0 : (m.val * 256 + 160) / 256 = m.val := by omega
  have e1 : (m.val * 256 + 160) % 256 = 160 := by omega
  simp only [decodeFields, dec19, e0, e1] <;> simp [r3_val, r5_val, need, bit]

theorem Laws.RoundTrip.vtake (d : VIdx) (a : SReg) (ix : VIdx) (m : MIdx) : Laws.RoundTrip.Statement (.vtake d a ix m) := by
  have h0 := d.isLt
  have h1 := a.isLt
  have h2 := ix.isLt
  have h3 := m.isLt
  refine Laws.roundTrip_of_fields _ rfl (by refine ⟨?_, ?_, ?_, ?_, ?_⟩ <;> simp only [] <;> omega) ?_
  have e0 : (m.val * 256 + 224) / 256 = m.val := by omega
  have e1 : (m.val * 256 + 224) % 256 = 224 := by omega
  simp only [decodeFields, dec19, e0, e1] <;> simp [r3_val, r5_val, need, bit]

theorem Laws.RoundTrip.vread (d : VIdx) (a : SReg) (ix : VIdx) (m : MIdx) : Laws.RoundTrip.Statement (.vread d a ix m) := by
  have h0 := d.isLt
  have h1 := a.isLt
  have h2 := ix.isLt
  have h3 := m.isLt
  refine Laws.roundTrip_of_fields _ rfl (by refine ⟨?_, ?_, ?_, ?_, ?_⟩ <;> simp only [] <;> omega) ?_
  have e0 : (m.val * 256 + 225) / 256 = m.val := by omega
  have e1 : (m.val * 256 + 225) % 256 = 225 := by omega
  simp only [decodeFields, dec19, e0, e1] <;> simp [r3_val, r5_val, need, bit]

theorem Laws.RoundTrip.vst (d : VIdx) (a : SReg) (m : MIdx) : Laws.RoundTrip.Statement (.vst d a m) := by
  have h0 := d.isLt
  have h1 := a.isLt
  have h2 := m.isLt
  refine Laws.roundTrip_of_fields _ rfl (by refine ⟨?_, ?_, ?_, ?_, ?_⟩ <;> simp only [] <;> omega) ?_
  have e0 : (m.val * 256 + 0) / 256 = m.val := by omega
  have e1 : (m.val * 256 + 0) % 256 = 0 := by omega
  simp only [decodeFields, dec1A, e0, e1] <;> simp [r3_val, r5_val, need, bit]

theorem Laws.RoundTrip.vsts (d : VIdx) (a : SReg) (st : SReg) (m : MIdx) : Laws.RoundTrip.Statement (.vsts d a st m) := by
  have h0 := d.isLt
  have h1 := a.isLt
  have h2 := st.isLt
  have h3 := m.isLt
  refine Laws.roundTrip_of_fields _ rfl (by refine ⟨?_, ?_, ?_, ?_, ?_⟩ <;> simp only [] <;> omega) ?_
  have e0 : (m.val * 256 + 32) / 256 = m.val := by omega
  have e1 : (m.val * 256 + 32) % 256 = 32 := by omega
  simp only [decodeFields, dec1A, e0, e1] <;> simp [r3_val, r5_val, need, bit]

theorem Laws.RoundTrip.vstx (d : VIdx) (a : SReg) (ix : VIdx) (m : MIdx) : Laws.RoundTrip.Statement (.vstx d a ix m) := by
  have h0 := d.isLt
  have h1 := a.isLt
  have h2 := ix.isLt
  have h3 := m.isLt
  refine Laws.roundTrip_of_fields _ rfl (by refine ⟨?_, ?_, ?_, ?_, ?_⟩ <;> simp only [] <;> omega) ?_
  have e0 : (m.val * 256 + 64) / 256 = m.val := by omega
  have e1 : (m.val * 256 + 64) % 256 = 64 := by omega
  simp only [decodeFields, dec1A, e0, e1] <;> simp [r3_val, r5_val, need, bit]

theorem Laws.RoundTrip.vstsc (d : VIdx) (a : SReg) (ix : VIdx) (m : MIdx) : Laws.RoundTrip.Statement (.vstsc d a ix m) := by
  have h0 := d.isLt
  have h1 := a.isLt
  have h2 := ix.isLt
  have h3 := m.isLt
  refine Laws.roundTrip_of_fields _ rfl (by refine ⟨?_, ?_, ?_, ?_, ?_⟩ <;> simp only [] <;> omega) ?_
  have e0 : (m.val * 256 + 128) / 256 = m.val := by omega
  have e1 : (m.val * 256 + 128) % 256 = 128 := by omega
  simp only [decodeFields, dec1A, e0, e1] <;> simp [r3_val, r5_val, need, bit]

theorem Laws.RoundTrip.vsc (d : VIdx) (a : SReg) (ix : VIdx) (m : MIdx) : Laws.RoundTrip.Statement (.vsc d a ix m) := by
  have h0 := d.isLt
  have h1 := a.isLt
  have h2 := ix.isLt
  have h3 := m.isLt
  refine Laws.roundTrip_of_fields _ rfl (by refine ⟨?_, ?_, ?_, ?_, ?_⟩ <;> simp only [] <;> omega) ?_
  have e0 : (m.val * 256 + 192) / 256 = m.val := by omega
  have e1 : (m.val * 256 + 192) % 256 = 192 := by omega
  simp only [decodeFields, dec1A, e0, e1] <;> simp [r3_val, r5_val, need, bit]

theorem Laws.RoundTrip.vput (d : VIdx) (a : SReg) (ix : VIdx) (m : MIdx) : Laws.RoundTrip.Statement (.vput d a ix m) := by
  have h0 := d.isLt
  have h1 := a.isLt
  have h2 := ix.isLt
  have h3 := m.isLt
  refine Laws.roundTrip_of_fields _ rfl (by refine ⟨?_, ?_, ?_, ?_, ?_⟩ <;> simp only [] <;> omega) ?_
  have e0 : (m.val * 256 + 224) / 256 = m.val := by omega
  have e1 : (m.val * 256 + 224) % 256 = 224 := by omega
  simp only [decodeFields, dec1A, e0, e1] <;> simp [r3_val, r5_val, need, bit]

theorem Laws.RoundTrip.vatom (op : AtomOp) (d : VIdx) (a : SReg) (ix : VIdx) (m : MIdx) : Laws.RoundTrip.Statement (.vatom op d a ix m) := by
  have h0 := op.code_lt
  have h1 := d.isLt
  have h2 := a.isLt
  have h3 := ix.isLt
  have h4 := m.isLt
  refine Laws.roundTrip_of_fields _ rfl (by refine ⟨?_, ?_, ?_, ?_, ?_⟩ <;> simp only [] <;> omega) ?_
  have e0 : (m.val * 256 + 64 + op.code) / 256 = m.val := by omega
  have e1 : (m.val * 256 + 64 + op.code) / 32 % 8 = 2 := by omega
  have e2 : (m.val * 256 + 64 + op.code) % 32 = op.code := by omega
  simp only [decodeFields, dec1B, e0, e1, e2] <;> simp [AtomOp.ofCode_code, r3_val, r5_val, need, bit]

theorem Laws.RoundTrip.vaddI (w : IWidth) (d : VIdx) (a : VIdx) (b : BOp3) (m : MIdx) : Laws.RoundTrip.Statement (.vaddI w d a b m) := by
  have h0 := w.code_lt
  have h1 := d.isLt
  have h2 := a.isLt
  have h3 := b.enc_lt
  have h4 := m.isLt
  refine Laws.roundTrip_of_fields _ rfl (by refine ⟨?_, ?_, ?_, ?_, ?_⟩ <;> simp only [] <;> omega) ?_
  have e0 : (m.val * 256 + b.enc.1 * 64 + w.code * 16 + 0) / 256 = m.val := by omega
  have e1 : (m.val * 256 + b.enc.1 * 64 + w.code * 16 + 0) / 64 % 4 = b.enc.1 := by omega
  have e2 : (m.val * 256 + b.enc.1 * 64 + w.code * 16 + 0) / 16 % 4 = w.code := by omega
  have e3 : (m.val * 256 + b.enc.1 * 64 + w.code * 16 + 0) % 16 = 0 := by omega
  simp only [decodeFields, dec20, e0, e1, e2, e3] <;> simp [IWidth.ofCode_code, bop3_enc, r3_val, r5_val, need, bit]

theorem Laws.RoundTrip.vsubI (w : IWidth) (d : VIdx) (a : VIdx) (b : BOp3) (m : MIdx) : Laws.RoundTrip.Statement (.vsubI w d a b m) := by
  have h0 := w.code_lt
  have h1 := d.isLt
  have h2 := a.isLt
  have h3 := b.enc_lt
  have h4 := m.isLt
  refine Laws.roundTrip_of_fields _ rfl (by refine ⟨?_, ?_, ?_, ?_, ?_⟩ <;> simp only [] <;> omega) ?_
  have e0 : (m.val * 256 + b.enc.1 * 64 + w.code * 16 + 1) / 256 = m.val := by omega
  have e1 : (m.val * 256 + b.enc.1 * 64 + w.code * 16 + 1) / 64 % 4 = b.enc.1 := by omega
  have e2 : (m.val * 256 + b.enc.1 * 64 + w.code * 16 + 1) / 16 % 4 = w.code := by omega
  have e3 : (m.val * 256 + b.enc.1 * 64 + w.code * 16 + 1) % 16 = 1 := by omega
  simp only [decodeFields, dec20, e0, e1, e2, e3] <;> simp [IWidth.ofCode_code, bop3_enc, r3_val, r5_val, need, bit]

theorem Laws.RoundTrip.vmulI (w : IWidth) (d : VIdx) (a : VIdx) (b : BOp3) (m : MIdx) : Laws.RoundTrip.Statement (.vmulI w d a b m) := by
  have h0 := w.code_lt
  have h1 := d.isLt
  have h2 := a.isLt
  have h3 := b.enc_lt
  have h4 := m.isLt
  refine Laws.roundTrip_of_fields _ rfl (by refine ⟨?_, ?_, ?_, ?_, ?_⟩ <;> simp only [] <;> omega) ?_
  have e0 : (m.val * 256 + b.enc.1 * 64 + w.code * 16 + 2) / 256 = m.val := by omega
  have e1 : (m.val * 256 + b.enc.1 * 64 + w.code * 16 + 2) / 64 % 4 = b.enc.1 := by omega
  have e2 : (m.val * 256 + b.enc.1 * 64 + w.code * 16 + 2) / 16 % 4 = w.code := by omega
  have e3 : (m.val * 256 + b.enc.1 * 64 + w.code * 16 + 2) % 16 = 2 := by omega
  simp only [decodeFields, dec20, e0, e1, e2, e3] <;> simp [IWidth.ofCode_code, bop3_enc, r3_val, r5_val, need, bit]

theorem Laws.RoundTrip.vmulh (w : IWidth) (d : VIdx) (a : VIdx) (b : BOp3) (m : MIdx) : Laws.RoundTrip.Statement (.vmulh w d a b m) := by
  have h0 := w.code_lt
  have h1 := d.isLt
  have h2 := a.isLt
  have h3 := b.enc_lt
  have h4 := m.isLt
  refine Laws.roundTrip_of_fields _ rfl (by refine ⟨?_, ?_, ?_, ?_, ?_⟩ <;> simp only [] <;> omega) ?_
  have e0 : (m.val * 256 + b.enc.1 * 64 + w.code * 16 + 3) / 256 = m.val := by omega
  have e1 : (m.val * 256 + b.enc.1 * 64 + w.code * 16 + 3) / 64 % 4 = b.enc.1 := by omega
  have e2 : (m.val * 256 + b.enc.1 * 64 + w.code * 16 + 3) / 16 % 4 = w.code := by omega
  have e3 : (m.val * 256 + b.enc.1 * 64 + w.code * 16 + 3) % 16 = 3 := by omega
  simp only [decodeFields, dec20, e0, e1, e2, e3] <;> simp [IWidth.ofCode_code, bop3_enc, r3_val, r5_val, need, bit]

theorem Laws.RoundTrip.vmulhu (w : IWidth) (d : VIdx) (a : VIdx) (b : BOp3) (m : MIdx) : Laws.RoundTrip.Statement (.vmulhu w d a b m) := by
  have h0 := w.code_lt
  have h1 := d.isLt
  have h2 := a.isLt
  have h3 := b.enc_lt
  have h4 := m.isLt
  refine Laws.roundTrip_of_fields _ rfl (by refine ⟨?_, ?_, ?_, ?_, ?_⟩ <;> simp only [] <;> omega) ?_
  have e0 : (m.val * 256 + b.enc.1 * 64 + w.code * 16 + 4) / 256 = m.val := by omega
  have e1 : (m.val * 256 + b.enc.1 * 64 + w.code * 16 + 4) / 64 % 4 = b.enc.1 := by omega
  have e2 : (m.val * 256 + b.enc.1 * 64 + w.code * 16 + 4) / 16 % 4 = w.code := by omega
  have e3 : (m.val * 256 + b.enc.1 * 64 + w.code * 16 + 4) % 16 = 4 := by omega
  simp only [decodeFields, dec20, e0, e1, e2, e3] <;> simp [IWidth.ofCode_code, bop3_enc, r3_val, r5_val, need, bit]

theorem Laws.RoundTrip.vminI (w : IWidth) (d : VIdx) (a : VIdx) (b : BOp3) (m : MIdx) : Laws.RoundTrip.Statement (.vminI w d a b m) := by
  have h0 := w.code_lt
  have h1 := d.isLt
  have h2 := a.isLt
  have h3 := b.enc_lt
  have h4 := m.isLt
  refine Laws.roundTrip_of_fields _ rfl (by refine ⟨?_, ?_, ?_, ?_, ?_⟩ <;> simp only [] <;> omega) ?_
  have e0 : (m.val * 256 + b.enc.1 * 64 + w.code * 16 + 5) / 256 = m.val := by omega
  have e1 : (m.val * 256 + b.enc.1 * 64 + w.code * 16 + 5) / 64 % 4 = b.enc.1 := by omega
  have e2 : (m.val * 256 + b.enc.1 * 64 + w.code * 16 + 5) / 16 % 4 = w.code := by omega
  have e3 : (m.val * 256 + b.enc.1 * 64 + w.code * 16 + 5) % 16 = 5 := by omega
  simp only [decodeFields, dec20, e0, e1, e2, e3] <;> simp [IWidth.ofCode_code, bop3_enc, r3_val, r5_val, need, bit]

theorem Laws.RoundTrip.vmaxI (w : IWidth) (d : VIdx) (a : VIdx) (b : BOp3) (m : MIdx) : Laws.RoundTrip.Statement (.vmaxI w d a b m) := by
  have h0 := w.code_lt
  have h1 := d.isLt
  have h2 := a.isLt
  have h3 := b.enc_lt
  have h4 := m.isLt
  refine Laws.roundTrip_of_fields _ rfl (by refine ⟨?_, ?_, ?_, ?_, ?_⟩ <;> simp only [] <;> omega) ?_
  have e0 : (m.val * 256 + b.enc.1 * 64 + w.code * 16 + 6) / 256 = m.val := by omega
  have e1 : (m.val * 256 + b.enc.1 * 64 + w.code * 16 + 6) / 64 % 4 = b.enc.1 := by omega
  have e2 : (m.val * 256 + b.enc.1 * 64 + w.code * 16 + 6) / 16 % 4 = w.code := by omega
  have e3 : (m.val * 256 + b.enc.1 * 64 + w.code * 16 + 6) % 16 = 6 := by omega
  simp only [decodeFields, dec20, e0, e1, e2, e3] <;> simp [IWidth.ofCode_code, bop3_enc, r3_val, r5_val, need, bit]

theorem Laws.RoundTrip.vminu (w : IWidth) (d : VIdx) (a : VIdx) (b : BOp3) (m : MIdx) : Laws.RoundTrip.Statement (.vminu w d a b m) := by
  have h0 := w.code_lt
  have h1 := d.isLt
  have h2 := a.isLt
  have h3 := b.enc_lt
  have h4 := m.isLt
  refine Laws.roundTrip_of_fields _ rfl (by refine ⟨?_, ?_, ?_, ?_, ?_⟩ <;> simp only [] <;> omega) ?_
  have e0 : (m.val * 256 + b.enc.1 * 64 + w.code * 16 + 7) / 256 = m.val := by omega
  have e1 : (m.val * 256 + b.enc.1 * 64 + w.code * 16 + 7) / 64 % 4 = b.enc.1 := by omega
  have e2 : (m.val * 256 + b.enc.1 * 64 + w.code * 16 + 7) / 16 % 4 = w.code := by omega
  have e3 : (m.val * 256 + b.enc.1 * 64 + w.code * 16 + 7) % 16 = 7 := by omega
  simp only [decodeFields, dec20, e0, e1, e2, e3] <;> simp [IWidth.ofCode_code, bop3_enc, r3_val, r5_val, need, bit]

theorem Laws.RoundTrip.vmaxu (w : IWidth) (d : VIdx) (a : VIdx) (b : BOp3) (m : MIdx) : Laws.RoundTrip.Statement (.vmaxu w d a b m) := by
  have h0 := w.code_lt
  have h1 := d.isLt
  have h2 := a.isLt
  have h3 := b.enc_lt
  have h4 := m.isLt
  refine Laws.roundTrip_of_fields _ rfl (by refine ⟨?_, ?_, ?_, ?_, ?_⟩ <;> simp only [] <;> omega) ?_
  have e0 : (m.val * 256 + b.enc.1 * 64 + w.code * 16 + 8) / 256 = m.val := by omega
  have e1 : (m.val * 256 + b.enc.1 * 64 + w.code * 16 + 8) / 64 % 4 = b.enc.1 := by omega
  have e2 : (m.val * 256 + b.enc.1 * 64 + w.code * 16 + 8) / 16 % 4 = w.code := by omega
  have e3 : (m.val * 256 + b.enc.1 * 64 + w.code * 16 + 8) % 16 = 8 := by omega
  simp only [decodeFields, dec20, e0, e1, e2, e3] <;> simp [IWidth.ofCode_code, bop3_enc, r3_val, r5_val, need, bit]

theorem Laws.RoundTrip.vand (w : IWidth) (d : VIdx) (a : VIdx) (b : BOp3) (m : MIdx) : Laws.RoundTrip.Statement (.vand w d a b m) := by
  have h0 := w.code_lt
  have h1 := d.isLt
  have h2 := a.isLt
  have h3 := b.enc_lt
  have h4 := m.isLt
  refine Laws.roundTrip_of_fields _ rfl (by refine ⟨?_, ?_, ?_, ?_, ?_⟩ <;> simp only [] <;> omega) ?_
  have e0 : (m.val * 256 + b.enc.1 * 64 + w.code * 16 + 9) / 256 = m.val := by omega
  have e1 : (m.val * 256 + b.enc.1 * 64 + w.code * 16 + 9) / 64 % 4 = b.enc.1 := by omega
  have e2 : (m.val * 256 + b.enc.1 * 64 + w.code * 16 + 9) / 16 % 4 = w.code := by omega
  have e3 : (m.val * 256 + b.enc.1 * 64 + w.code * 16 + 9) % 16 = 9 := by omega
  simp only [decodeFields, dec20, e0, e1, e2, e3] <;> simp [IWidth.ofCode_code, bop3_enc, r3_val, r5_val, need, bit]

theorem Laws.RoundTrip.vor (w : IWidth) (d : VIdx) (a : VIdx) (b : BOp3) (m : MIdx) : Laws.RoundTrip.Statement (.vor w d a b m) := by
  have h0 := w.code_lt
  have h1 := d.isLt
  have h2 := a.isLt
  have h3 := b.enc_lt
  have h4 := m.isLt
  refine Laws.roundTrip_of_fields _ rfl (by refine ⟨?_, ?_, ?_, ?_, ?_⟩ <;> simp only [] <;> omega) ?_
  have e0 : (m.val * 256 + b.enc.1 * 64 + w.code * 16 + 10) / 256 = m.val := by omega
  have e1 : (m.val * 256 + b.enc.1 * 64 + w.code * 16 + 10) / 64 % 4 = b.enc.1 := by omega
  have e2 : (m.val * 256 + b.enc.1 * 64 + w.code * 16 + 10) / 16 % 4 = w.code := by omega
  have e3 : (m.val * 256 + b.enc.1 * 64 + w.code * 16 + 10) % 16 = 10 := by omega
  simp only [decodeFields, dec20, e0, e1, e2, e3] <;> simp [IWidth.ofCode_code, bop3_enc, r3_val, r5_val, need, bit]

theorem Laws.RoundTrip.vxor (w : IWidth) (d : VIdx) (a : VIdx) (b : BOp3) (m : MIdx) : Laws.RoundTrip.Statement (.vxor w d a b m) := by
  have h0 := w.code_lt
  have h1 := d.isLt
  have h2 := a.isLt
  have h3 := b.enc_lt
  have h4 := m.isLt
  refine Laws.roundTrip_of_fields _ rfl (by refine ⟨?_, ?_, ?_, ?_, ?_⟩ <;> simp only [] <;> omega) ?_
  have e0 : (m.val * 256 + b.enc.1 * 64 + w.code * 16 + 11) / 256 = m.val := by omega
  have e1 : (m.val * 256 + b.enc.1 * 64 + w.code * 16 + 11) / 64 % 4 = b.enc.1 := by omega
  have e2 : (m.val * 256 + b.enc.1 * 64 + w.code * 16 + 11) / 16 % 4 = w.code := by omega
  have e3 : (m.val * 256 + b.enc.1 * 64 + w.code * 16 + 11) % 16 = 11 := by omega
  simp only [decodeFields, dec20, e0, e1, e2, e3] <;> simp [IWidth.ofCode_code, bop3_enc, r3_val, r5_val, need, bit]

theorem Laws.RoundTrip.vsll (w : IWidth) (d : VIdx) (a : VIdx) (b : BOp3) (m : MIdx) : Laws.RoundTrip.Statement (.vsll w d a b m) := by
  have h0 := w.code_lt
  have h1 := d.isLt
  have h2 := a.isLt
  have h3 := b.enc_lt
  have h4 := m.isLt
  refine Laws.roundTrip_of_fields _ rfl (by refine ⟨?_, ?_, ?_, ?_, ?_⟩ <;> simp only [] <;> omega) ?_
  have e0 : (m.val * 256 + b.enc.1 * 64 + w.code * 16 + 12) / 256 = m.val := by omega
  have e1 : (m.val * 256 + b.enc.1 * 64 + w.code * 16 + 12) / 64 % 4 = b.enc.1 := by omega
  have e2 : (m.val * 256 + b.enc.1 * 64 + w.code * 16 + 12) / 16 % 4 = w.code := by omega
  have e3 : (m.val * 256 + b.enc.1 * 64 + w.code * 16 + 12) % 16 = 12 := by omega
  simp only [decodeFields, dec20, e0, e1, e2, e3] <;> simp [IWidth.ofCode_code, bop3_enc, r3_val, r5_val, need, bit]

theorem Laws.RoundTrip.vsrl (w : IWidth) (d : VIdx) (a : VIdx) (b : BOp3) (m : MIdx) : Laws.RoundTrip.Statement (.vsrl w d a b m) := by
  have h0 := w.code_lt
  have h1 := d.isLt
  have h2 := a.isLt
  have h3 := b.enc_lt
  have h4 := m.isLt
  refine Laws.roundTrip_of_fields _ rfl (by refine ⟨?_, ?_, ?_, ?_, ?_⟩ <;> simp only [] <;> omega) ?_
  have e0 : (m.val * 256 + b.enc.1 * 64 + w.code * 16 + 13) / 256 = m.val := by omega
  have e1 : (m.val * 256 + b.enc.1 * 64 + w.code * 16 + 13) / 64 % 4 = b.enc.1 := by omega
  have e2 : (m.val * 256 + b.enc.1 * 64 + w.code * 16 + 13) / 16 % 4 = w.code := by omega
  have e3 : (m.val * 256 + b.enc.1 * 64 + w.code * 16 + 13) % 16 = 13 := by omega
  simp only [decodeFields, dec20, e0, e1, e2, e3] <;> simp [IWidth.ofCode_code, bop3_enc, r3_val, r5_val, need, bit]

theorem Laws.RoundTrip.vsra (w : IWidth) (d : VIdx) (a : VIdx) (b : BOp3) (m : MIdx) : Laws.RoundTrip.Statement (.vsra w d a b m) := by
  have h0 := w.code_lt
  have h1 := d.isLt
  have h2 := a.isLt
  have h3 := b.enc_lt
  have h4 := m.isLt
  refine Laws.roundTrip_of_fields _ rfl (by refine ⟨?_, ?_, ?_, ?_, ?_⟩ <;> simp only [] <;> omega) ?_
  have e0 : (m.val * 256 + b.enc.1 * 64 + w.code * 16 + 14) / 256 = m.val := by omega
  have e1 : (m.val * 256 + b.enc.1 * 64 + w.code * 16 + 14) / 64 % 4 = b.enc.1 := by omega
  have e2 : (m.val * 256 + b.enc.1 * 64 + w.code * 16 + 14) / 16 % 4 = w.code := by omega
  have e3 : (m.val * 256 + b.enc.1 * 64 + w.code * 16 + 14) % 16 = 14 := by omega
  simp only [decodeFields, dec20, e0, e1, e2, e3] <;> simp [IWidth.ofCode_code, bop3_enc, r3_val, r5_val, need, bit]

theorem Laws.RoundTrip.vmadd (w : IWidth) (d : VIdx) (a : VIdx) (b : VIdx) (m : MIdx) : Laws.RoundTrip.Statement (.vmadd w d a b m) := by
  have h0 := w.code_lt
  have h1 := d.isLt
  have h2 := a.isLt
  have h3 := b.isLt
  have h4 := m.isLt
  refine Laws.roundTrip_of_fields _ rfl (by refine ⟨?_, ?_, ?_, ?_, ?_⟩ <;> simp only [] <;> omega) ?_
  have e0 : (m.val * 256 + 192 + w.code * 16 + 15) / 256 = m.val := by omega
  have e1 : (m.val * 256 + 192 + w.code * 16 + 15) / 64 % 4 = 3 := by omega
  have e2 : (m.val * 256 + 192 + w.code * 16 + 15) / 16 % 4 = w.code := by omega
  have e3 : (m.val * 256 + 192 + w.code * 16 + 15) % 16 = 15 := by omega
  simp only [decodeFields, dec20, e0, e1, e2, e3] <;> simp [IWidth.ofCode_code, r3_val, r5_val, need, bit]

theorem Laws.RoundTrip.vsadd (w : IWidth) (d : VIdx) (a : VIdx) (b : BOp3) (m : MIdx) : Laws.RoundTrip.Statement (.vsadd w d a b m) := by
  have h0 := w.code_lt
  have h1 := d.isLt
  have h2 := a.isLt
  have h3 := b.enc_lt
  have h4 := m.isLt
  refine Laws.roundTrip_of_fields _ rfl (by refine ⟨?_, ?_, ?_, ?_, ?_⟩ <;> simp only [] <;> omega) ?_
  have e0 : (m.val * 256 + b.enc.1 * 64 + w.code * 16 + 0) / 256 = m.val := by omega
  have e1 : (m.val * 256 + b.enc.1 * 64 + w.code * 16 + 0) / 64 % 4 = b.enc.1 := by omega
  have e2 : (m.val * 256 + b.enc.1 * 64 + w.code * 16 + 0) / 16 % 4 = w.code := by omega
  have e3 : (m.val * 256 + b.enc.1 * 64 + w.code * 16 + 0) % 16 = 0 := by omega
  simp only [decodeFields, dec21, e0, e1, e2, e3] <;> simp [IWidth.ofCode_code, bop3_enc, r3_val, r5_val, need, bit]

theorem Laws.RoundTrip.vsaddu (w : IWidth) (d : VIdx) (a : VIdx) (b : BOp3) (m : MIdx) : Laws.RoundTrip.Statement (.vsaddu w d a b m) := by
  have h0 := w.code_lt
  have h1 := d.isLt
  have h2 := a.isLt
  have h3 := b.enc_lt
  have h4 := m.isLt
  refine Laws.roundTrip_of_fields _ rfl (by refine ⟨?_, ?_, ?_, ?_, ?_⟩ <;> simp only [] <;> omega) ?_
  have e0 : (m.val * 256 + b.enc.1 * 64 + w.code * 16 + 1) / 256 = m.val := by omega
  have e1 : (m.val * 256 + b.enc.1 * 64 + w.code * 16 + 1) / 64 % 4 = b.enc.1 := by omega
  have e2 : (m.val * 256 + b.enc.1 * 64 + w.code * 16 + 1) / 16 % 4 = w.code := by omega
  have e3 : (m.val * 256 + b.enc.1 * 64 + w.code * 16 + 1) % 16 = 1 := by omega
  simp only [decodeFields, dec21, e0, e1, e2, e3] <;> simp [IWidth.ofCode_code, bop3_enc, r3_val, r5_val, need, bit]

theorem Laws.RoundTrip.vssub (w : IWidth) (d : VIdx) (a : VIdx) (b : BOp3) (m : MIdx) : Laws.RoundTrip.Statement (.vssub w d a b m) := by
  have h0 := w.code_lt
  have h1 := d.isLt
  have h2 := a.isLt
  have h3 := b.enc_lt
  have h4 := m.isLt
  refine Laws.roundTrip_of_fields _ rfl (by refine ⟨?_, ?_, ?_, ?_, ?_⟩ <;> simp only [] <;> omega) ?_
  have e0 : (m.val * 256 + b.enc.1 * 64 + w.code * 16 + 2) / 256 = m.val := by omega
  have e1 : (m.val * 256 + b.enc.1 * 64 + w.code * 16 + 2) / 64 % 4 = b.enc.1 := by omega
  have e2 : (m.val * 256 + b.enc.1 * 64 + w.code * 16 + 2) / 16 % 4 = w.code := by omega
  have e3 : (m.val * 256 + b.enc.1 * 64 + w.code * 16 + 2) % 16 = 2 := by omega
  simp only [decodeFields, dec21, e0, e1, e2, e3] <;> simp [IWidth.ofCode_code, bop3_enc, r3_val, r5_val, need, bit]

theorem Laws.RoundTrip.vssubu (w : IWidth) (d : VIdx) (a : VIdx) (b : BOp3) (m : MIdx) : Laws.RoundTrip.Statement (.vssubu w d a b m) := by
  have h0 := w.code_lt
  have h1 := d.isLt
  have h2 := a.isLt
  have h3 := b.enc_lt
  have h4 := m.isLt
  refine Laws.roundTrip_of_fields _ rfl (by refine ⟨?_, ?_, ?_, ?_, ?_⟩ <;> simp only [] <;> omega) ?_
  have e0 : (m.val * 256 + b.enc.1 * 64 + w.code * 16 + 3) / 256 = m.val := by omega
  have e1 : (m.val * 256 + b.enc.1 * 64 + w.code * 16 + 3) / 64 % 4 = b.enc.1 := by omega
  have e2 : (m.val * 256 + b.enc.1 * 64 + w.code * 16 + 3) / 16 % 4 = w.code := by omega
  have e3 : (m.val * 256 + b.enc.1 * 64 + w.code * 16 + 3) % 16 = 3 := by omega
  simp only [decodeFields, dec21, e0, e1, e2, e3] <;> simp [IWidth.ofCode_code, bop3_enc, r3_val, r5_val, need, bit]

theorem Laws.RoundTrip.vdivI (w : IWidth) (d : VIdx) (a : VIdx) (b : BOp3) (m : MIdx) : Laws.RoundTrip.Statement (.vdivI w d a b m) := by
  have h0 := w.code_lt
  have h1 := d.isLt
  have h2 := a.isLt
  have h3 := b.enc_lt
  have h4 := m.isLt
  refine Laws.roundTrip_of_fields _ rfl (by refine ⟨?_, ?_, ?_, ?_, ?_⟩ <;> simp only [] <;> omega) ?_
  have e0 : (m.val * 256 + b.enc.1 * 64 + w.code * 16 + 4) / 256 = m.val := by omega
  have e1 : (m.val * 256 + b.enc.1 * 64 + w.code * 16 + 4) / 64 % 4 = b.enc.1 := by omega
  have e2 : (m.val * 256 + b.enc.1 * 64 + w.code * 16 + 4) / 16 % 4 = w.code := by omega
  have e3 : (m.val * 256 + b.enc.1 * 64 + w.code * 16 + 4) % 16 = 4 := by omega
  simp only [decodeFields, dec21, e0, e1, e2, e3] <;> simp [IWidth.ofCode_code, bop3_enc, r3_val, r5_val, need, bit]

theorem Laws.RoundTrip.vdivu (w : IWidth) (d : VIdx) (a : VIdx) (b : BOp3) (m : MIdx) : Laws.RoundTrip.Statement (.vdivu w d a b m) := by
  have h0 := w.code_lt
  have h1 := d.isLt
  have h2 := a.isLt
  have h3 := b.enc_lt
  have h4 := m.isLt
  refine Laws.roundTrip_of_fields _ rfl (by refine ⟨?_, ?_, ?_, ?_, ?_⟩ <;> simp only [] <;> omega) ?_
  have e0 : (m.val * 256 + b.enc.1 * 64 + w.code * 16 + 5) / 256 = m.val := by omega
  have e1 : (m.val * 256 + b.enc.1 * 64 + w.code * 16 + 5) / 64 % 4 = b.enc.1 := by omega
  have e2 : (m.val * 256 + b.enc.1 * 64 + w.code * 16 + 5) / 16 % 4 = w.code := by omega
  have e3 : (m.val * 256 + b.enc.1 * 64 + w.code * 16 + 5) % 16 = 5 := by omega
  simp only [decodeFields, dec21, e0, e1, e2, e3] <;> simp [IWidth.ofCode_code, bop3_enc, r3_val, r5_val, need, bit]

theorem Laws.RoundTrip.vrem (w : IWidth) (d : VIdx) (a : VIdx) (b : BOp3) (m : MIdx) : Laws.RoundTrip.Statement (.vrem w d a b m) := by
  have h0 := w.code_lt
  have h1 := d.isLt
  have h2 := a.isLt
  have h3 := b.enc_lt
  have h4 := m.isLt
  refine Laws.roundTrip_of_fields _ rfl (by refine ⟨?_, ?_, ?_, ?_, ?_⟩ <;> simp only [] <;> omega) ?_
  have e0 : (m.val * 256 + b.enc.1 * 64 + w.code * 16 + 6) / 256 = m.val := by omega
  have e1 : (m.val * 256 + b.enc.1 * 64 + w.code * 16 + 6) / 64 % 4 = b.enc.1 := by omega
  have e2 : (m.val * 256 + b.enc.1 * 64 + w.code * 16 + 6) / 16 % 4 = w.code := by omega
  have e3 : (m.val * 256 + b.enc.1 * 64 + w.code * 16 + 6) % 16 = 6 := by omega
  simp only [decodeFields, dec21, e0, e1, e2, e3] <;> simp [IWidth.ofCode_code, bop3_enc, r3_val, r5_val, need, bit]

theorem Laws.RoundTrip.vremu (w : IWidth) (d : VIdx) (a : VIdx) (b : BOp3) (m : MIdx) : Laws.RoundTrip.Statement (.vremu w d a b m) := by
  have h0 := w.code_lt
  have h1 := d.isLt
  have h2 := a.isLt
  have h3 := b.enc_lt
  have h4 := m.isLt
  refine Laws.roundTrip_of_fields _ rfl (by refine ⟨?_, ?_, ?_, ?_, ?_⟩ <;> simp only [] <;> omega) ?_
  have e0 : (m.val * 256 + b.enc.1 * 64 + w.code * 16 + 7) / 256 = m.val := by omega
  have e1 : (m.val * 256 + b.enc.1 * 64 + w.code * 16 + 7) / 64 % 4 = b.enc.1 := by omega
  have e2 : (m.val * 256 + b.enc.1 * 64 + w.code * 16 + 7) / 16 % 4 = w.code := by omega
  have e3 : (m.val * 256 + b.enc.1 * 64 + w.code * 16 + 7) % 16 = 7 := by omega
  simp only [decodeFields, dec21, e0, e1, e2, e3] <;> simp [IWidth.ofCode_code, bop3_enc, r3_val, r5_val, need, bit]

theorem Laws.RoundTrip.vabsI (w : IWidth) (d : VIdx) (a : VIdx) (m : MIdx) : Laws.RoundTrip.Statement (.vabsI w d a m) := by
  have h0 := w.code_lt
  have h1 := d.isLt
  have h2 := a.isLt
  have h3 := m.isLt
  refine Laws.roundTrip_of_fields _ rfl (by refine ⟨?_, ?_, ?_, ?_, ?_⟩ <;> simp only [] <;> omega) ?_
  have e0 : (m.val * 256 + w.code * 16 + 8) / 256 = m.val := by omega
  have e1 : (m.val * 256 + w.code * 16 + 8) / 64 % 4 = 0 := by omega
  have e2 : (m.val * 256 + w.code * 16 + 8) / 16 % 4 = w.code := by omega
  have e3 : (m.val * 256 + w.code * 16 + 8) % 16 = 8 := by omega
  simp only [decodeFields, dec21, e0, e1, e2, e3] <;> simp [IWidth.ofCode_code, r3_val, r5_val, need, bit]

theorem Laws.RoundTrip.vceqI (w : IWidth) (d : MIdx) (a : VIdx) (b : BOp3) (m : MIdx) : Laws.RoundTrip.Statement (.vceqI w d a b m) := by
  have h0 := w.code_lt
  have h1 := d.isLt
  have h2 := a.isLt
  have h3 := b.enc_lt
  have h4 := m.isLt
  refine Laws.roundTrip_of_fields _ rfl (by refine ⟨?_, ?_, ?_, ?_, ?_⟩ <;> simp only [] <;> omega) ?_
  have e0 : (m.val * 256 + b.enc.1 * 64 + w.code * 16 + 10) / 256 = m.val := by omega
  have e1 : (m.val * 256 + b.enc.1 * 64 + w.code * 16 + 10) / 64 % 4 = b.enc.1 := by omega
  have e2 : (m.val * 256 + b.enc.1 * 64 + w.code * 16 + 10) / 16 % 4 = w.code := by omega
  have e3 : (m.val * 256 + b.enc.1 * 64 + w.code * 16 + 10) % 16 = 10 := by omega
  simp only [decodeFields, dec21, e0, e1, e2, e3] <;> simp [IWidth.ofCode_code, bop3_enc, r3_val, r5_val, need, bit]

theorem Laws.RoundTrip.vcneI (w : IWidth) (d : MIdx) (a : VIdx) (b : BOp3) (m : MIdx) : Laws.RoundTrip.Statement (.vcneI w d a b m) := by
  have h0 := w.code_lt
  have h1 := d.isLt
  have h2 := a.isLt
  have h3 := b.enc_lt
  have h4 := m.isLt
  refine Laws.roundTrip_of_fields _ rfl (by refine ⟨?_, ?_, ?_, ?_, ?_⟩ <;> simp only [] <;> omega) ?_
  have e0 : (m.val * 256 + b.enc.1 * 64 + w.code * 16 + 11) / 256 = m.val := by omega
  have e1 : (m.val * 256 + b.enc.1 * 64 + w.code * 16 + 11) / 64 % 4 = b.enc.1 := by omega
  have e2 : (m.val * 256 + b.enc.1 * 64 + w.code * 16 + 11) / 16 % 4 = w.code := by omega
  have e3 : (m.val * 256 + b.enc.1 * 64 + w.code * 16 + 11) % 16 = 11 := by omega
  simp only [decodeFields, dec21, e0, e1, e2, e3] <;> simp [IWidth.ofCode_code, bop3_enc, r3_val, r5_val, need, bit]

theorem Laws.RoundTrip.vcltI (w : IWidth) (d : MIdx) (a : VIdx) (b : BOp3) (m : MIdx) : Laws.RoundTrip.Statement (.vcltI w d a b m) := by
  have h0 := w.code_lt
  have h1 := d.isLt
  have h2 := a.isLt
  have h3 := b.enc_lt
  have h4 := m.isLt
  refine Laws.roundTrip_of_fields _ rfl (by refine ⟨?_, ?_, ?_, ?_, ?_⟩ <;> simp only [] <;> omega) ?_
  have e0 : (m.val * 256 + b.enc.1 * 64 + w.code * 16 + 12) / 256 = m.val := by omega
  have e1 : (m.val * 256 + b.enc.1 * 64 + w.code * 16 + 12) / 64 % 4 = b.enc.1 := by omega
  have e2 : (m.val * 256 + b.enc.1 * 64 + w.code * 16 + 12) / 16 % 4 = w.code := by omega
  have e3 : (m.val * 256 + b.enc.1 * 64 + w.code * 16 + 12) % 16 = 12 := by omega
  simp only [decodeFields, dec21, e0, e1, e2, e3] <;> simp [IWidth.ofCode_code, bop3_enc, r3_val, r5_val, need, bit]

theorem Laws.RoundTrip.vcltu (w : IWidth) (d : MIdx) (a : VIdx) (b : BOp3) (m : MIdx) : Laws.RoundTrip.Statement (.vcltu w d a b m) := by
  have h0 := w.code_lt
  have h1 := d.isLt
  have h2 := a.isLt
  have h3 := b.enc_lt
  have h4 := m.isLt
  refine Laws.roundTrip_of_fields _ rfl (by refine ⟨?_, ?_, ?_, ?_, ?_⟩ <;> simp only [] <;> omega) ?_
  have e0 : (m.val * 256 + b.enc.1 * 64 + w.code * 16 + 13) / 256 = m.val := by omega
  have e1 : (m.val * 256 + b.enc.1 * 64 + w.code * 16 + 13) / 64 % 4 = b.enc.1 := by omega
  have e2 : (m.val * 256 + b.enc.1 * 64 + w.code * 16 + 13) / 16 % 4 = w.code := by omega
  have e3 : (m.val * 256 + b.enc.1 * 64 + w.code * 16 + 13) % 16 = 13 := by omega
  simp only [decodeFields, dec21, e0, e1, e2, e3] <;> simp [IWidth.ofCode_code, bop3_enc, r3_val, r5_val, need, bit]

theorem Laws.RoundTrip.vcleI (w : IWidth) (d : MIdx) (a : VIdx) (b : BOp3) (m : MIdx) : Laws.RoundTrip.Statement (.vcleI w d a b m) := by
  have h0 := w.code_lt
  have h1 := d.isLt
  have h2 := a.isLt
  have h3 := b.enc_lt
  have h4 := m.isLt
  refine Laws.roundTrip_of_fields _ rfl (by refine ⟨?_, ?_, ?_, ?_, ?_⟩ <;> simp only [] <;> omega) ?_
  have e0 : (m.val * 256 + b.enc.1 * 64 + w.code * 16 + 14) / 256 = m.val := by omega
  have e1 : (m.val * 256 + b.enc.1 * 64 + w.code * 16 + 14) / 64 % 4 = b.enc.1 := by omega
  have e2 : (m.val * 256 + b.enc.1 * 64 + w.code * 16 + 14) / 16 % 4 = w.code := by omega
  have e3 : (m.val * 256 + b.enc.1 * 64 + w.code * 16 + 14) % 16 = 14 := by omega
  simp only [decodeFields, dec21, e0, e1, e2, e3] <;> simp [IWidth.ofCode_code, bop3_enc, r3_val, r5_val, need, bit]

theorem Laws.RoundTrip.vcleu (w : IWidth) (d : MIdx) (a : VIdx) (b : BOp3) (m : MIdx) : Laws.RoundTrip.Statement (.vcleu w d a b m) := by
  have h0 := w.code_lt
  have h1 := d.isLt
  have h2 := a.isLt
  have h3 := b.enc_lt
  have h4 := m.isLt
  refine Laws.roundTrip_of_fields _ rfl (by refine ⟨?_, ?_, ?_, ?_, ?_⟩ <;> simp only [] <;> omega) ?_
  have e0 : (m.val * 256 + b.enc.1 * 64 + w.code * 16 + 15) / 256 = m.val := by omega
  have e1 : (m.val * 256 + b.enc.1 * 64 + w.code * 16 + 15) / 64 % 4 = b.enc.1 := by omega
  have e2 : (m.val * 256 + b.enc.1 * 64 + w.code * 16 + 15) / 16 % 4 = w.code := by omega
  have e3 : (m.val * 256 + b.enc.1 * 64 + w.code * 16 + 15) % 16 = 15 := by omega
  simp only [decodeFields, dec21, e0, e1, e2, e3] <;> simp [IWidth.ofCode_code, bop3_enc, r3_val, r5_val, need, bit]

theorem Laws.RoundTrip.vaddF (k : FFmt) (d : VIdx) (a : VIdx) (b : BOp2) (m : MIdx) : Laws.RoundTrip.Statement (.vaddF k d a b m) := by
  have h0 := k.code_lt
  have h1 := d.isLt
  have h2 := a.isLt
  have h3 := b.enc_lt
  have h4 := m.isLt
  refine Laws.roundTrip_of_fields _ rfl (by refine ⟨?_, ?_, ?_, ?_, ?_⟩ <;> simp only [] <;> omega) ?_
  have e0 : (m.val * 256 + b.enc.1 * 64 + 0) / 256 = m.val := by omega
  have e1 : (m.val * 256 + b.enc.1 * 64 + 0) / 64 % 4 = b.enc.1 := by omega
  have e2 : (m.val * 256 + b.enc.1 * 64 + 0) % 64 = 0 := by omega
  cases k <;> simp only [decVfp, e0, e1, e2, decodeFields, FFmt.code, Nat.reduceAdd, if_true] <;> simp [FFmt.ofCode_code, bop2_enc, r3_val, r5_val, need, bit, FFmt.code]

theorem Laws.RoundTrip.vsubF (k : FFmt) (d : VIdx) (a : VIdx) (b : BOp2) (m : MIdx) : Laws.RoundTrip.Statement (.vsubF k d a b m) := by
  have h0 := k.code_lt
  have h1 := d.isLt
  have h2 := a.isLt
  have h3 := b.enc_lt
  have h4 := m.isLt
  refine Laws.roundTrip_of_fields _ rfl (by refine ⟨?_, ?_, ?_, ?_, ?_⟩ <;> simp only [] <;> omega) ?_
  have e0 : (m.val * 256 + b.enc.1 * 64 + 1) / 256 = m.val := by omega
  have e1 : (m.val * 256 + b.enc.1 * 64 + 1) / 64 % 4 = b.enc.1 := by omega
  have e2 : (m.val * 256 + b.enc.1 * 64 + 1) % 64 = 1 := by omega
  cases k <;> simp only [decVfp, e0, e1, e2, decodeFields, FFmt.code, Nat.reduceAdd, if_true] <;> simp [FFmt.ofCode_code, bop2_enc, r3_val, r5_val, need, bit, FFmt.code]

theorem Laws.RoundTrip.vmulF (k : FFmt) (d : VIdx) (a : VIdx) (b : BOp2) (m : MIdx) : Laws.RoundTrip.Statement (.vmulF k d a b m) := by
  have h0 := k.code_lt
  have h1 := d.isLt
  have h2 := a.isLt
  have h3 := b.enc_lt
  have h4 := m.isLt
  refine Laws.roundTrip_of_fields _ rfl (by refine ⟨?_, ?_, ?_, ?_, ?_⟩ <;> simp only [] <;> omega) ?_
  have e0 : (m.val * 256 + b.enc.1 * 64 + 2) / 256 = m.val := by omega
  have e1 : (m.val * 256 + b.enc.1 * 64 + 2) / 64 % 4 = b.enc.1 := by omega
  have e2 : (m.val * 256 + b.enc.1 * 64 + 2) % 64 = 2 := by omega
  cases k <;> simp only [decVfp, e0, e1, e2, decodeFields, FFmt.code, Nat.reduceAdd, if_true] <;> simp [FFmt.ofCode_code, bop2_enc, r3_val, r5_val, need, bit, FFmt.code]

theorem Laws.RoundTrip.vdivF (k : FFmt) (d : VIdx) (a : VIdx) (b : BOp2) (m : MIdx) : Laws.RoundTrip.Statement (.vdivF k d a b m) := by
  have h0 := k.code_lt
  have h1 := d.isLt
  have h2 := a.isLt
  have h3 := b.enc_lt
  have h4 := m.isLt
  refine Laws.roundTrip_of_fields _ rfl (by refine ⟨?_, ?_, ?_, ?_, ?_⟩ <;> simp only [] <;> omega) ?_
  have e0 : (m.val * 256 + b.enc.1 * 64 + 3) / 256 = m.val := by omega
  have e1 : (m.val * 256 + b.enc.1 * 64 + 3) / 64 % 4 = b.enc.1 := by omega
  have e2 : (m.val * 256 + b.enc.1 * 64 + 3) % 64 = 3 := by omega
  cases k <;> simp only [decVfp, e0, e1, e2, decodeFields, FFmt.code, Nat.reduceAdd, if_true] <;> simp [FFmt.ofCode_code, bop2_enc, r3_val, r5_val, need, bit, FFmt.code]

theorem Laws.RoundTrip.vfmaF (k : FFmt) (d : VIdx) (a : VIdx) (b : VIdx) (m : MIdx) : Laws.RoundTrip.Statement (.vfmaF k d a b m) := by
  have h0 := k.code_lt
  have h1 := d.isLt
  have h2 := a.isLt
  have h3 := b.isLt
  have h4 := m.isLt
  refine Laws.roundTrip_of_fields _ rfl (by refine ⟨?_, ?_, ?_, ?_, ?_⟩ <;> simp only [] <;> omega) ?_
  have e0 : (m.val * 256 + 192 + 4) / 256 = m.val := by omega
  have e1 : (m.val * 256 + 192 + 4) / 64 % 4 = 3 := by omega
  have e2 : (m.val * 256 + 192 + 4) % 64 = 4 := by omega
  cases k <;> simp only [decVfp, e0, e1, e2, decodeFields, FFmt.code, Nat.reduceAdd, if_true] <;> simp [FFmt.ofCode_code, r3_val, r5_val, need, bit, FFmt.code]

theorem Laws.RoundTrip.vfms (k : FFmt) (d : VIdx) (a : VIdx) (b : VIdx) (m : MIdx) : Laws.RoundTrip.Statement (.vfms k d a b m) := by
  have h0 := k.code_lt
  have h1 := d.isLt
  have h2 := a.isLt
  have h3 := b.isLt
  have h4 := m.isLt
  refine Laws.roundTrip_of_fields _ rfl (by refine ⟨?_, ?_, ?_, ?_, ?_⟩ <;> simp only [] <;> omega) ?_
  have e0 : (m.val * 256 + 192 + 5) / 256 = m.val := by omega
  have e1 : (m.val * 256 + 192 + 5) / 64 % 4 = 3 := by omega
  have e2 : (m.val * 256 + 192 + 5) % 64 = 5 := by omega
  cases k <;> simp only [decVfp, e0, e1, e2, decodeFields, FFmt.code, Nat.reduceAdd, if_true] <;> simp [FFmt.ofCode_code, r3_val, r5_val, need, bit, FFmt.code]

theorem Laws.RoundTrip.vfnma (k : FFmt) (d : VIdx) (a : VIdx) (b : VIdx) (m : MIdx) : Laws.RoundTrip.Statement (.vfnma k d a b m) := by
  have h0 := k.code_lt
  have h1 := d.isLt
  have h2 := a.isLt
  have h3 := b.isLt
  have h4 := m.isLt
  refine Laws.roundTrip_of_fields _ rfl (by refine ⟨?_, ?_, ?_, ?_, ?_⟩ <;> simp only [] <;> omega) ?_
  have e0 : (m.val * 256 + 192 + 6) / 256 = m.val := by omega
  have e1 : (m.val * 256 + 192 + 6) / 64 % 4 = 3 := by omega
  have e2 : (m.val * 256 + 192 + 6) % 64 = 6 := by omega
  cases k <;> simp only [decVfp, e0, e1, e2, decodeFields, FFmt.code, Nat.reduceAdd, if_true] <;> simp [FFmt.ofCode_code, r3_val, r5_val, need, bit, FFmt.code]

theorem Laws.RoundTrip.vminF (k : FFmt) (d : VIdx) (a : VIdx) (b : BOp2) (m : MIdx) : Laws.RoundTrip.Statement (.vminF k d a b m) := by
  have h0 := k.code_lt
  have h1 := d.isLt
  have h2 := a.isLt
  have h3 := b.enc_lt
  have h4 := m.isLt
  refine Laws.roundTrip_of_fields _ rfl (by refine ⟨?_, ?_, ?_, ?_, ?_⟩ <;> simp only [] <;> omega) ?_
  have e0 : (m.val * 256 + b.enc.1 * 64 + 7) / 256 = m.val := by omega
  have e1 : (m.val * 256 + b.enc.1 * 64 + 7) / 64 % 4 = b.enc.1 := by omega
  have e2 : (m.val * 256 + b.enc.1 * 64 + 7) % 64 = 7 := by omega
  cases k <;> simp only [decVfp, e0, e1, e2, decodeFields, FFmt.code, Nat.reduceAdd, if_true] <;> simp [FFmt.ofCode_code, bop2_enc, r3_val, r5_val, need, bit, FFmt.code]

theorem Laws.RoundTrip.vmaxF (k : FFmt) (d : VIdx) (a : VIdx) (b : BOp2) (m : MIdx) : Laws.RoundTrip.Statement (.vmaxF k d a b m) := by
  have h0 := k.code_lt
  have h1 := d.isLt
  have h2 := a.isLt
  have h3 := b.enc_lt
  have h4 := m.isLt
  refine Laws.roundTrip_of_fields _ rfl (by refine ⟨?_, ?_, ?_, ?_, ?_⟩ <;> simp only [] <;> omega) ?_
  have e0 : (m.val * 256 + b.enc.1 * 64 + 8) / 256 = m.val := by omega
  have e1 : (m.val * 256 + b.enc.1 * 64 + 8) / 64 % 4 = b.enc.1 := by omega
  have e2 : (m.val * 256 + b.enc.1 * 64 + 8) % 64 = 8 := by omega
  cases k <;> simp only [decVfp, e0, e1, e2, decodeFields, FFmt.code, Nat.reduceAdd, if_true] <;> simp [FFmt.ofCode_code, bop2_enc, r3_val, r5_val, need, bit, FFmt.code]

theorem Laws.RoundTrip.vsqrt (k : FFmt) (d : VIdx) (a : VIdx) (m : MIdx) : Laws.RoundTrip.Statement (.vsqrt k d a m) := by
  have h0 := k.code_lt
  have h1 := d.isLt
  have h2 := a.isLt
  have h3 := m.isLt
  refine Laws.roundTrip_of_fields _ rfl (by refine ⟨?_, ?_, ?_, ?_, ?_⟩ <;> simp only [] <;> omega) ?_
  have e0 : (m.val * 256 + 9) / 256 = m.val := by omega
  have e1 : (m.val * 256 + 9) / 64 % 4 = 0 := by omega
  have e2 : (m.val * 256 + 9) % 64 = 9 := by omega
  cases k <;> simp only [decVfp, e0, e1, e2, decodeFields, FFmt.code, Nat.reduceAdd, if_true] <;> simp [FFmt.ofCode_code, r3_val, r5_val, need, bit, FFmt.code]

theorem Laws.RoundTrip.vabsF (k : FFmt) (d : VIdx) (a : VIdx) (m : MIdx) : Laws.RoundTrip.Statement (.vabsF k d a m) := by
  have h0 := k.code_lt
  have h1 := d.isLt
  have h2 := a.isLt
  have h3 := m.isLt
  refine Laws.roundTrip_of_fields _ rfl (by refine ⟨?_, ?_, ?_, ?_, ?_⟩ <;> simp only [] <;> omega) ?_
  have e0 : (m.val * 256 + 10) / 256 = m.val := by omega
  have e1 : (m.val * 256 + 10) / 64 % 4 = 0 := by omega
  have e2 : (m.val * 256 + 10) % 64 = 10 := by omega
  cases k <;> simp only [decVfp, e0, e1, e2, decodeFields, FFmt.code, Nat.reduceAdd, if_true] <;> simp [FFmt.ofCode_code, r3_val, r5_val, need, bit, FFmt.code]

theorem Laws.RoundTrip.vneg (k : FFmt) (d : VIdx) (a : VIdx) (m : MIdx) : Laws.RoundTrip.Statement (.vneg k d a m) := by
  have h0 := k.code_lt
  have h1 := d.isLt
  have h2 := a.isLt
  have h3 := m.isLt
  refine Laws.roundTrip_of_fields _ rfl (by refine ⟨?_, ?_, ?_, ?_, ?_⟩ <;> simp only [] <;> omega) ?_
  have e0 : (m.val * 256 + 11) / 256 = m.val := by omega
  have e1 : (m.val * 256 + 11) / 64 % 4 = 0 := by omega
  have e2 : (m.val * 256 + 11) % 64 = 11 := by omega
  cases k <;> simp only [decVfp, e0, e1, e2, decodeFields, FFmt.code, Nat.reduceAdd, if_true] <;> simp [FFmt.ofCode_code, r3_val, r5_val, need, bit, FFmt.code]

theorem Laws.RoundTrip.vsgnj (k : FFmt) (d : VIdx) (a : VIdx) (b : BOp2) (m : MIdx) : Laws.RoundTrip.Statement (.vsgnj k d a b m) := by
  have h0 := k.code_lt
  have h1 := d.isLt
  have h2 := a.isLt
  have h3 := b.enc_lt
  have h4 := m.isLt
  refine Laws.roundTrip_of_fields _ rfl (by refine ⟨?_, ?_, ?_, ?_, ?_⟩ <;> simp only [] <;> omega) ?_
  have e0 : (m.val * 256 + b.enc.1 * 64 + 12) / 256 = m.val := by omega
  have e1 : (m.val * 256 + b.enc.1 * 64 + 12) / 64 % 4 = b.enc.1 := by omega
  have e2 : (m.val * 256 + b.enc.1 * 64 + 12) % 64 = 12 := by omega
  cases k <;> simp only [decVfp, e0, e1, e2, decodeFields, FFmt.code, Nat.reduceAdd, if_true] <;> simp [FFmt.ofCode_code, bop2_enc, r3_val, r5_val, need, bit, FFmt.code]

theorem Laws.RoundTrip.vceqF (k : FFmt) (d : MIdx) (a : VIdx) (b : BOp2) (m : MIdx) : Laws.RoundTrip.Statement (.vceqF k d a b m) := by
  have h0 := k.code_lt
  have h1 := d.isLt
  have h2 := a.isLt
  have h3 := b.enc_lt
  have h4 := m.isLt
  refine Laws.roundTrip_of_fields _ rfl (by refine ⟨?_, ?_, ?_, ?_, ?_⟩ <;> simp only [] <;> omega) ?_
  have e0 : (m.val * 256 + b.enc.1 * 64 + 13) / 256 = m.val := by omega
  have e1 : (m.val * 256 + b.enc.1 * 64 + 13) / 64 % 4 = b.enc.1 := by omega
  have e2 : (m.val * 256 + b.enc.1 * 64 + 13) % 64 = 13 := by omega
  cases k <;> simp only [decVfp, e0, e1, e2, decodeFields, FFmt.code, Nat.reduceAdd, if_true] <;> simp [FFmt.ofCode_code, bop2_enc, r3_val, r5_val, need, bit, FFmt.code]

theorem Laws.RoundTrip.vcneF (k : FFmt) (d : MIdx) (a : VIdx) (b : BOp2) (m : MIdx) : Laws.RoundTrip.Statement (.vcneF k d a b m) := by
  have h0 := k.code_lt
  have h1 := d.isLt
  have h2 := a.isLt
  have h3 := b.enc_lt
  have h4 := m.isLt
  refine Laws.roundTrip_of_fields _ rfl (by refine ⟨?_, ?_, ?_, ?_, ?_⟩ <;> simp only [] <;> omega) ?_
  have e0 : (m.val * 256 + b.enc.1 * 64 + 14) / 256 = m.val := by omega
  have e1 : (m.val * 256 + b.enc.1 * 64 + 14) / 64 % 4 = b.enc.1 := by omega
  have e2 : (m.val * 256 + b.enc.1 * 64 + 14) % 64 = 14 := by omega
  cases k <;> simp only [decVfp, e0, e1, e2, decodeFields, FFmt.code, Nat.reduceAdd, if_true] <;> simp [FFmt.ofCode_code, bop2_enc, r3_val, r5_val, need, bit, FFmt.code]

theorem Laws.RoundTrip.vcltF (k : FFmt) (d : MIdx) (a : VIdx) (b : BOp2) (m : MIdx) : Laws.RoundTrip.Statement (.vcltF k d a b m) := by
  have h0 := k.code_lt
  have h1 := d.isLt
  have h2 := a.isLt
  have h3 := b.enc_lt
  have h4 := m.isLt
  refine Laws.roundTrip_of_fields _ rfl (by refine ⟨?_, ?_, ?_, ?_, ?_⟩ <;> simp only [] <;> omega) ?_
  have e0 : (m.val * 256 + b.enc.1 * 64 + 15) / 256 = m.val := by omega
  have e1 : (m.val * 256 + b.enc.1 * 64 + 15) / 64 % 4 = b.enc.1 := by omega
  have e2 : (m.val * 256 + b.enc.1 * 64 + 15) % 64 = 15 := by omega
  cases k <;> simp only [decVfp, e0, e1, e2, decodeFields, FFmt.code, Nat.reduceAdd, if_true] <;> simp [FFmt.ofCode_code, bop2_enc, r3_val, r5_val, need, bit, FFmt.code]

theorem Laws.RoundTrip.vcleF (k : FFmt) (d : MIdx) (a : VIdx) (b : BOp2) (m : MIdx) : Laws.RoundTrip.Statement (.vcleF k d a b m) := by
  have h0 := k.code_lt
  have h1 := d.isLt
  have h2 := a.isLt
  have h3 := b.enc_lt
  have h4 := m.isLt
  refine Laws.roundTrip_of_fields _ rfl (by refine ⟨?_, ?_, ?_, ?_, ?_⟩ <;> simp only [] <;> omega) ?_
  have e0 : (m.val * 256 + b.enc.1 * 64 + 16) / 256 = m.val := by omega
  have e1 : (m.val * 256 + b.enc.1 * 64 + 16) / 64 % 4 = b.enc.1 := by omega
  have e2 : (m.val * 256 + b.enc.1 * 64 + 16) % 64 = 16 := by omega
  cases k <;> simp only [decVfp, e0, e1, e2, decodeFields, FFmt.code, Nat.reduceAdd, if_true] <;> simp [FFmt.ofCode_code, bop2_enc, r3_val, r5_val, need, bit, FFmt.code]

theorem Laws.RoundTrip.vcun (k : FFmt) (d : MIdx) (a : VIdx) (b : BOp2) (m : MIdx) : Laws.RoundTrip.Statement (.vcun k d a b m) := by
  have h0 := k.code_lt
  have h1 := d.isLt
  have h2 := a.isLt
  have h3 := b.enc_lt
  have h4 := m.isLt
  refine Laws.roundTrip_of_fields _ rfl (by refine ⟨?_, ?_, ?_, ?_, ?_⟩ <;> simp only [] <;> omega) ?_
  have e0 : (m.val * 256 + b.enc.1 * 64 + 17) / 256 = m.val := by omega
  have e1 : (m.val * 256 + b.enc.1 * 64 + 17) / 64 % 4 = b.enc.1 := by omega
  have e2 : (m.val * 256 + b.enc.1 * 64 + 17) % 64 = 17 := by omega
  cases k <;> simp only [decVfp, e0, e1, e2, decodeFields, FFmt.code, Nat.reduceAdd, if_true] <;> simp [FFmt.ofCode_code, bop2_enc, r3_val, r5_val, need, bit, FFmt.code]

theorem Laws.RoundTrip.vaddF8 (t : F8Fmt) (d : VIdx) (a : VIdx) (b : BOp2) (m : MIdx) : Laws.RoundTrip.Statement (.vaddF8 t d a b m) := by
  have h0 := t.code_lt
  have h1 := d.isLt
  have h2 := a.isLt
  have h3 := b.enc_lt
  have h4 := m.isLt
  refine Laws.roundTrip_of_fields _ rfl (by refine ⟨?_, ?_, ?_, ?_, ?_⟩ <;> simp only [] <;> omega) ?_
  have e0 : (m.val * 256 + b.enc.1 * 64 + t.code * 32 + 0) / 256 = m.val := by omega
  have e1 : (m.val * 256 + b.enc.1 * 64 + t.code * 32 + 0) / 64 % 4 = b.enc.1 := by omega
  have e2 : (m.val * 256 + b.enc.1 * 64 + t.code * 32 + 0) / 32 % 2 = t.code := by omega
  have e3 : (m.val * 256 + b.enc.1 * 64 + t.code * 32 + 0) % 32 = 0 := by omega
  simp only [decodeFields, dec26, e0, e1, e2, e3] <;> simp [F8Fmt.ofCode_code, bop2_enc, r3_val, r5_val, need, bit]

theorem Laws.RoundTrip.vsubF8 (t : F8Fmt) (d : VIdx) (a : VIdx) (b : BOp2) (m : MIdx) : Laws.RoundTrip.Statement (.vsubF8 t d a b m) := by
  have h0 := t.code_lt
  have h1 := d.isLt
  have h2 := a.isLt
  have h3 := b.enc_lt
  have h4 := m.isLt
  refine Laws.roundTrip_of_fields _ rfl (by refine ⟨?_, ?_, ?_, ?_, ?_⟩ <;> simp only [] <;> omega) ?_
  have e0 : (m.val * 256 + b.enc.1 * 64 + t.code * 32 + 1) / 256 = m.val := by omega
  have e1 : (m.val * 256 + b.enc.1 * 64 + t.code * 32 + 1) / 64 % 4 = b.enc.1 := by omega
  have e2 : (m.val * 256 + b.enc.1 * 64 + t.code * 32 + 1) / 32 % 2 = t.code := by omega
  have e3 : (m.val * 256 + b.enc.1 * 64 + t.code * 32 + 1) % 32 = 1 := by omega
  simp only [decodeFields, dec26, e0, e1, e2, e3] <;> simp [F8Fmt.ofCode_code, bop2_enc, r3_val, r5_val, need, bit]

theorem Laws.RoundTrip.vmulF8 (t : F8Fmt) (d : VIdx) (a : VIdx) (b : BOp2) (m : MIdx) : Laws.RoundTrip.Statement (.vmulF8 t d a b m) := by
  have h0 := t.code_lt
  have h1 := d.isLt
  have h2 := a.isLt
  have h3 := b.enc_lt
  have h4 := m.isLt
  refine Laws.roundTrip_of_fields _ rfl (by refine ⟨?_, ?_, ?_, ?_, ?_⟩ <;> simp only [] <;> omega) ?_
  have e0 : (m.val * 256 + b.enc.1 * 64 + t.code * 32 + 2) / 256 = m.val := by omega
  have e1 : (m.val * 256 + b.enc.1 * 64 + t.code * 32 + 2) / 64 % 4 = b.enc.1 := by omega
  have e2 : (m.val * 256 + b.enc.1 * 64 + t.code * 32 + 2) / 32 % 2 = t.code := by omega
  have e3 : (m.val * 256 + b.enc.1 * 64 + t.code * 32 + 2) % 32 = 2 := by omega
  simp only [decodeFields, dec26, e0, e1, e2, e3] <;> simp [F8Fmt.ofCode_code, bop2_enc, r3_val, r5_val, need, bit]

theorem Laws.RoundTrip.vfmaF8 (t : F8Fmt) (d : VIdx) (a : VIdx) (b : VIdx) (m : MIdx) : Laws.RoundTrip.Statement (.vfmaF8 t d a b m) := by
  have h0 := t.code_lt
  have h1 := d.isLt
  have h2 := a.isLt
  have h3 := b.isLt
  have h4 := m.isLt
  refine Laws.roundTrip_of_fields _ rfl (by refine ⟨?_, ?_, ?_, ?_, ?_⟩ <;> simp only [] <;> omega) ?_
  have e0 : (m.val * 256 + 192 + t.code * 32 + 4) / 256 = m.val := by omega
  have e1 : (m.val * 256 + 192 + t.code * 32 + 4) / 64 % 4 = 3 := by omega
  have e2 : (m.val * 256 + 192 + t.code * 32 + 4) / 32 % 2 = t.code := by omega
  have e3 : (m.val * 256 + 192 + t.code * 32 + 4) % 32 = 4 := by omega
  simp only [decodeFields, dec26, e0, e1, e2, e3] <;> simp [F8Fmt.ofCode_code, r3_val, r5_val, need, bit]

theorem Laws.RoundTrip.vminF8 (t : F8Fmt) (d : VIdx) (a : VIdx) (b : BOp2) (m : MIdx) : Laws.RoundTrip.Statement (.vminF8 t d a b m) := by
  have h0 := t.code_lt
  have h1 := d.isLt
  have h2 := a.isLt
  have h3 := b.enc_lt
  have h4 := m.isLt
  refine Laws.roundTrip_of_fields _ rfl (by refine ⟨?_, ?_, ?_, ?_, ?_⟩ <;> simp only [] <;> omega) ?_
  have e0 : (m.val * 256 + b.enc.1 * 64 + t.code * 32 + 7) / 256 = m.val := by omega
  have e1 : (m.val * 256 + b.enc.1 * 64 + t.code * 32 + 7) / 64 % 4 = b.enc.1 := by omega
  have e2 : (m.val * 256 + b.enc.1 * 64 + t.code * 32 + 7) / 32 % 2 = t.code := by omega
  have e3 : (m.val * 256 + b.enc.1 * 64 + t.code * 32 + 7) % 32 = 7 := by omega
  simp only [decodeFields, dec26, e0, e1, e2, e3] <;> simp [F8Fmt.ofCode_code, bop2_enc, r3_val, r5_val, need, bit]

theorem Laws.RoundTrip.vmaxF8 (t : F8Fmt) (d : VIdx) (a : VIdx) (b : BOp2) (m : MIdx) : Laws.RoundTrip.Statement (.vmaxF8 t d a b m) := by
  have h0 := t.code_lt
  have h1 := d.isLt
  have h2 := a.isLt
  have h3 := b.enc_lt
  have h4 := m.isLt
  refine Laws.roundTrip_of_fields _ rfl (by refine ⟨?_, ?_, ?_, ?_, ?_⟩ <;> simp only [] <;> omega) ?_
  have e0 : (m.val * 256 + b.enc.1 * 64 + t.code * 32 + 8) / 256 = m.val := by omega
  have e1 : (m.val * 256 + b.enc.1 * 64 + t.code * 32 + 8) / 64 % 4 = b.enc.1 := by omega
  have e2 : (m.val * 256 + b.enc.1 * 64 + t.code * 32 + 8) / 32 % 2 = t.code := by omega
  have e3 : (m.val * 256 + b.enc.1 * 64 + t.code * 32 + 8) % 32 = 8 := by omega
  simp only [decodeFields, dec26, e0, e1, e2, e3] <;> simp [F8Fmt.ofCode_code, bop2_enc, r3_val, r5_val, need, bit]

theorem Laws.RoundTrip.vaddC (t : CFmt) (d : VIdx) (a : VIdx) (b : BOp2) (m : MIdx) : Laws.RoundTrip.Statement (.vaddC t d a b m) := by
  have h0 := t.code_lt
  have h1 := d.isLt
  have h2 := a.isLt
  have h3 := b.enc_lt
  have h4 := m.isLt
  refine Laws.roundTrip_of_fields _ rfl (by refine ⟨?_, ?_, ?_, ?_, ?_⟩ <;> simp only [] <;> omega) ?_
  have e0 : (m.val * 256 + b.enc.1 * 64 + t.code * 32 + 0) / 256 = m.val := by omega
  have e1 : (m.val * 256 + b.enc.1 * 64 + t.code * 32 + 0) / 64 % 4 = b.enc.1 := by omega
  have e2 : (m.val * 256 + b.enc.1 * 64 + t.code * 32 + 0) / 32 % 2 = t.code := by omega
  have e3 : (m.val * 256 + b.enc.1 * 64 + t.code * 32 + 0) % 32 = 0 := by omega
  simp only [decodeFields, dec27, e0, e1, e2, e3] <;> simp [CFmt.ofCode_code, bop2_enc, r3_val, r5_val, need, bit]

theorem Laws.RoundTrip.vsubC (t : CFmt) (d : VIdx) (a : VIdx) (b : BOp2) (m : MIdx) : Laws.RoundTrip.Statement (.vsubC t d a b m) := by
  have h0 := t.code_lt
  have h1 := d.isLt
  have h2 := a.isLt
  have h3 := b.enc_lt
  have h4 := m.isLt
  refine Laws.roundTrip_of_fields _ rfl (by refine ⟨?_, ?_, ?_, ?_, ?_⟩ <;> simp only [] <;> omega) ?_
  have e0 : (m.val * 256 + b.enc.1 * 64 + t.code * 32 + 1) / 256 = m.val := by omega
  have e1 : (m.val * 256 + b.enc.1 * 64 + t.code * 32 + 1) / 64 % 4 = b.enc.1 := by omega
  have e2 : (m.val * 256 + b.enc.1 * 64 + t.code * 32 + 1) / 32 % 2 = t.code := by omega
  have e3 : (m.val * 256 + b.enc.1 * 64 + t.code * 32 + 1) % 32 = 1 := by omega
  simp only [decodeFields, dec27, e0, e1, e2, e3] <;> simp [CFmt.ofCode_code, bop2_enc, r3_val, r5_val, need, bit]

theorem Laws.RoundTrip.vmulC (t : CFmt) (d : VIdx) (a : VIdx) (b : BOp2) (m : MIdx) : Laws.RoundTrip.Statement (.vmulC t d a b m) := by
  have h0 := t.code_lt
  have h1 := d.isLt
  have h2 := a.isLt
  have h3 := b.enc_lt
  have h4 := m.isLt
  refine Laws.roundTrip_of_fields _ rfl (by refine ⟨?_, ?_, ?_, ?_, ?_⟩ <;> simp only [] <;> omega) ?_
  have e0 : (m.val * 256 + b.enc.1 * 64 + t.code * 32 + 2) / 256 = m.val := by omega
  have e1 : (m.val * 256 + b.enc.1 * 64 + t.code * 32 + 2) / 64 % 4 = b.enc.1 := by omega
  have e2 : (m.val * 256 + b.enc.1 * 64 + t.code * 32 + 2) / 32 % 2 = t.code := by omega
  have e3 : (m.val * 256 + b.enc.1 * 64 + t.code * 32 + 2) % 32 = 2 := by omega
  simp only [decodeFields, dec27, e0, e1, e2, e3] <;> simp [CFmt.ofCode_code, bop2_enc, r3_val, r5_val, need, bit]

theorem Laws.RoundTrip.vfmaC (t : CFmt) (d : VIdx) (a : VIdx) (b : VIdx) (m : MIdx) : Laws.RoundTrip.Statement (.vfmaC t d a b m) := by
  have h0 := t.code_lt
  have h1 := d.isLt
  have h2 := a.isLt
  have h3 := b.isLt
  have h4 := m.isLt
  refine Laws.roundTrip_of_fields _ rfl (by refine ⟨?_, ?_, ?_, ?_, ?_⟩ <;> simp only [] <;> omega) ?_
  have e0 : (m.val * 256 + 192 + t.code * 32 + 4) / 256 = m.val := by omega
  have e1 : (m.val * 256 + 192 + t.code * 32 + 4) / 64 % 4 = 3 := by omega
  have e2 : (m.val * 256 + 192 + t.code * 32 + 4) / 32 % 2 = t.code := by omega
  have e3 : (m.val * 256 + 192 + t.code * 32 + 4) % 32 = 4 := by omega
  simp only [decodeFields, dec27, e0, e1, e2, e3] <;> simp [CFmt.ofCode_code, r3_val, r5_val, need, bit]

theorem Laws.RoundTrip.vmulc (t : CFmt) (d : VIdx) (a : VIdx) (b : BOp2) (m : MIdx) : Laws.RoundTrip.Statement (.vmulc t d a b m) := by
  have h0 := t.code_lt
  have h1 := d.isLt
  have h2 := a.isLt
  have h3 := b.enc_lt
  have h4 := m.isLt
  refine Laws.roundTrip_of_fields _ rfl (by refine ⟨?_, ?_, ?_, ?_, ?_⟩ <;> simp only [] <;> omega) ?_
  have e0 : (m.val * 256 + b.enc.1 * 64 + t.code * 32 + 19) / 256 = m.val := by omega
  have e1 : (m.val * 256 + b.enc.1 * 64 + t.code * 32 + 19) / 64 % 4 = b.enc.1 := by omega
  have e2 : (m.val * 256 + b.enc.1 * 64 + t.code * 32 + 19) / 32 % 2 = t.code := by omega
  have e3 : (m.val * 256 + b.enc.1 * 64 + t.code * 32 + 19) % 32 = 19 := by omega
  simp only [decodeFields, dec27, e0, e1, e2, e3] <;> simp [CFmt.ofCode_code, bop2_enc, r3_val, r5_val, need, bit]

theorem Laws.RoundTrip.vconj (t : CFmt) (d : VIdx) (a : VIdx) (m : MIdx) : Laws.RoundTrip.Statement (.vconj t d a m) := by
  have h0 := t.code_lt
  have h1 := d.isLt
  have h2 := a.isLt
  have h3 := m.isLt
  refine Laws.roundTrip_of_fields _ rfl (by refine ⟨?_, ?_, ?_, ?_, ?_⟩ <;> simp only [] <;> omega) ?_
  have e0 : (m.val * 256 + t.code * 32 + 20) / 256 = m.val := by omega
  have e1 : (m.val * 256 + t.code * 32 + 20) / 64 % 4 = 0 := by omega
  have e2 : (m.val * 256 + t.code * 32 + 20) / 32 % 2 = t.code := by omega
  have e3 : (m.val * 256 + t.code * 32 + 20) % 32 = 20 := by omega
  simp only [decodeFields, dec27, e0, e1, e2, e3] <;> simp [CFmt.ofCode_code, r3_val, r5_val, need, bit]

theorem Laws.RoundTrip.vmuli (t : CFmt) (d : VIdx) (a : VIdx) (m : MIdx) : Laws.RoundTrip.Statement (.vmuli t d a m) := by
  have h0 := t.code_lt
  have h1 := d.isLt
  have h2 := a.isLt
  have h3 := m.isLt
  refine Laws.roundTrip_of_fields _ rfl (by refine ⟨?_, ?_, ?_, ?_, ?_⟩ <;> simp only [] <;> omega) ?_
  have e0 : (m.val * 256 + t.code * 32 + 21) / 256 = m.val := by omega
  have e1 : (m.val * 256 + t.code * 32 + 21) / 64 % 4 = 0 := by omega
  have e2 : (m.val * 256 + t.code * 32 + 21) / 32 % 2 = t.code := by omega
  have e3 : (m.val * 256 + t.code * 32 + 21) % 32 = 21 := by omega
  simp only [decodeFields, dec27, e0, e1, e2, e3] <;> simp [CFmt.ofCode_code, r3_val, r5_val, need, bit]

theorem Laws.RoundTrip.mand (d : MIdx) (a : MIdx) (b : MIdx) (m : MIdx) : Laws.RoundTrip.Statement (.mand d a b m) := by
  have h0 := d.isLt
  have h1 := a.isLt
  have h2 := b.isLt
  have h3 := m.isLt
  refine Laws.roundTrip_of_fields _ rfl (by refine ⟨?_, ?_, ?_, ?_, ?_⟩ <;> simp only [] <;> omega) ?_
  have e0 : (m.val * 256 + 0) / 256 = m.val := by omega
  have e1 : (m.val * 256 + 0) / 64 % 4 = 0 := by omega
  have e2 : (m.val * 256 + 0) % 64 = 0 := by omega
  simp only [decodeFields, dec28, e0, e1, e2] <;> simp [r3_val, need, bit]

theorem Laws.RoundTrip.mor (d : MIdx) (a : MIdx) (b : MIdx) (m : MIdx) : Laws.RoundTrip.Statement (.mor d a b m) := by
  have h0 := d.isLt
  have h1 := a.isLt
  have h2 := b.isLt
  have h3 := m.isLt
  refine Laws.roundTrip_of_fields _ rfl (by refine ⟨?_, ?_, ?_, ?_, ?_⟩ <;> simp only [] <;> omega) ?_
  have e0 : (m.val * 256 + 1) / 256 = m.val := by omega
  have e1 : (m.val * 256 + 1) / 64 % 4 = 0 := by omega
  have e2 : (m.val * 256 + 1) % 64 = 1 := by omega
  simp only [decodeFields, dec28, e0, e1, e2] <;> simp [r3_val, need, bit]

theorem Laws.RoundTrip.mxor (d : MIdx) (a : MIdx) (b : MIdx) (m : MIdx) : Laws.RoundTrip.Statement (.mxor d a b m) := by
  have h0 := d.isLt
  have h1 := a.isLt
  have h2 := b.isLt
  have h3 := m.isLt
  refine Laws.roundTrip_of_fields _ rfl (by refine ⟨?_, ?_, ?_, ?_, ?_⟩ <;> simp only [] <;> omega) ?_
  have e0 : (m.val * 256 + 2) / 256 = m.val := by omega
  have e1 : (m.val * 256 + 2) / 64 % 4 = 0 := by omega
  have e2 : (m.val * 256 + 2) % 64 = 2 := by omega
  simp only [decodeFields, dec28, e0, e1, e2] <;> simp [r3_val, need, bit]

theorem Laws.RoundTrip.mandn (d : MIdx) (a : MIdx) (b : MIdx) (m : MIdx) : Laws.RoundTrip.Statement (.mandn d a b m) := by
  have h0 := d.isLt
  have h1 := a.isLt
  have h2 := b.isLt
  have h3 := m.isLt
  refine Laws.roundTrip_of_fields _ rfl (by refine ⟨?_, ?_, ?_, ?_, ?_⟩ <;> simp only [] <;> omega) ?_
  have e0 : (m.val * 256 + 3) / 256 = m.val := by omega
  have e1 : (m.val * 256 + 3) / 64 % 4 = 0 := by omega
  have e2 : (m.val * 256 + 3) % 64 = 3 := by omega
  simp only [decodeFields, dec28, e0, e1, e2] <;> simp [r3_val, need, bit]

theorem Laws.RoundTrip.mnot (d : MIdx) (a : MIdx) (m : MIdx) : Laws.RoundTrip.Statement (.mnot d a m) := by
  have h0 := d.isLt
  have h1 := a.isLt
  have h2 := m.isLt
  refine Laws.roundTrip_of_fields _ rfl (by refine ⟨?_, ?_, ?_, ?_, ?_⟩ <;> simp only [] <;> omega) ?_
  have e0 : (m.val * 256 + 4) / 256 = m.val := by omega
  have e1 : (m.val * 256 + 4) / 64 % 4 = 0 := by omega
  have e2 : (m.val * 256 + 4) % 64 = 4 := by omega
  simp only [decodeFields, dec28, e0, e1, e2] <;> simp [r3_val, need, bit]

theorem Laws.RoundTrip.vmfirst (d : MIdx) (a : MIdx) (m : MIdx) : Laws.RoundTrip.Statement (.vmfirst d a m) := by
  have h0 := d.isLt
  have h1 := a.isLt
  have h2 := m.isLt
  refine Laws.roundTrip_of_fields _ rfl (by refine ⟨?_, ?_, ?_, ?_, ?_⟩ <;> simp only [] <;> omega) ?_
  have e0 : (m.val * 256 + 5) / 256 = m.val := by omega
  have e1 : (m.val * 256 + 5) / 64 % 4 = 0 := by omega
  have e2 : (m.val * 256 + 5) % 64 = 5 := by omega
  simp only [decodeFields, dec28, e0, e1, e2] <;> simp [r3_val, need, bit]

theorem Laws.RoundTrip.vpopc (d : SReg) (a : MIdx) (m : MIdx) : Laws.RoundTrip.Statement (.vpopc d a m) := by
  have h0 := d.isLt
  have h1 := a.isLt
  have h2 := m.isLt
  refine Laws.roundTrip_of_fields _ rfl (by refine ⟨?_, ?_, ?_, ?_, ?_⟩ <;> simp only [] <;> omega) ?_
  have e0 : (m.val * 256 + 6) / 256 = m.val := by omega
  have e1 : (m.val * 256 + 6) / 64 % 4 = 0 := by omega
  have e2 : (m.val * 256 + 6) % 64 = 6 := by omega
  simp only [decodeFields, dec28, e0, e1, e2] <;> simp [r3_val, r5_val, need, bit]

theorem Laws.RoundTrip.viota (d : VIdx) (a : MIdx) (m : MIdx) : Laws.RoundTrip.Statement (.viota d a m) := by
  have h0 := d.isLt
  have h1 := a.isLt
  have h2 := m.isLt
  refine Laws.roundTrip_of_fields _ rfl (by refine ⟨?_, ?_, ?_, ?_, ?_⟩ <;> simp only [] <;> omega) ?_
  have e0 : (m.val * 256 + 7) / 256 = m.val := by omega
  have e1 : (m.val * 256 + 7) / 64 % 4 = 0 := by omega
  have e2 : (m.val * 256 + 7) % 64 = 7 := by omega
  simp only [decodeFields, dec28, e0, e1, e2] <;> simp [r3_val, r5_val, need, bit]

theorem Laws.RoundTrip.mset (d : MIdx) (m : MIdx) : Laws.RoundTrip.Statement (.mset d m) := by
  have h0 := d.isLt
  have h1 := m.isLt
  refine Laws.roundTrip_of_fields _ rfl (by refine ⟨?_, ?_, ?_, ?_, ?_⟩ <;> simp only [] <;> omega) ?_
  have e0 : (m.val * 256 + 8) / 256 = m.val := by omega
  have e1 : (m.val * 256 + 8) / 64 % 4 = 0 := by omega
  have e2 : (m.val * 256 + 8) % 64 = 8 := by omega
  simp only [decodeFields, dec28, e0, e1, e2] <;> simp [r3_val, need, bit]

theorem Laws.RoundTrip.mclr (d : MIdx) (m : MIdx) : Laws.RoundTrip.Statement (.mclr d m) := by
  have h0 := d.isLt
  have h1 := m.isLt
  refine Laws.roundTrip_of_fields _ rfl (by refine ⟨?_, ?_, ?_, ?_, ?_⟩ <;> simp only [] <;> omega) ?_
  have e0 : (m.val * 256 + 9) / 256 = m.val := by omega
  have e1 : (m.val * 256 + 9) / 64 % 4 = 0 := by omega
  have e2 : (m.val * 256 + 9) % 64 = 9 := by omega
  simp only [decodeFields, dec28, e0, e1, e2] <;> simp [r3_val, need, bit]

theorem Laws.RoundTrip.vmerge (d : VIdx) (a : VIdx) (b : VIdx) (m : MIdx) : Laws.RoundTrip.Statement (.vmerge d a b m) := by
  have h0 := d.isLt
  have h1 := a.isLt
  have h2 := b.isLt
  have h3 := m.isLt
  refine Laws.roundTrip_of_fields _ rfl (by refine ⟨?_, ?_, ?_, ?_, ?_⟩ <;> simp only [] <;> omega) ?_
  have e0 : (m.val * 256 + 0) / 256 = m.val := by omega
  have e1 : (m.val * 256 + 0) / 64 % 4 = 0 := by omega
  have e2 : (m.val * 256 + 0) % 64 = 0 := by omega
  simp only [decodeFields, dec29, e0, e1, e2] <;> simp [r3_val, r5_val, need, bit]

theorem Laws.RoundTrip.vslideup (d : VIdx) (a : VIdx) (b : BOpS) (m : MIdx) : Laws.RoundTrip.Statement (.vslideup d a b m) := by
  have h0 := d.isLt
  have h1 := a.isLt
  have h2 := b.enc_lt
  have h3 := m.isLt
  refine Laws.roundTrip_of_fields _ rfl (by refine ⟨?_, ?_, ?_, ?_, ?_⟩ <;> simp only [] <;> omega) ?_
  have e0 : (m.val * 256 + b.enc.1 * 64 + 1) / 256 = m.val := by omega
  have e1 : (m.val * 256 + b.enc.1 * 64 + 1) / 64 % 4 = b.enc.1 := by omega
  have e2 : (m.val * 256 + b.enc.1 * 64 + 1) % 64 = 1 := by omega
  simp only [decodeFields, dec29, e0, e1, e2] <;> simp [bopS_enc, r3_val, r5_val, need, bit]

theorem Laws.RoundTrip.vslidedown (d : VIdx) (a : VIdx) (b : BOpS) (m : MIdx) : Laws.RoundTrip.Statement (.vslidedown d a b m) := by
  have h0 := d.isLt
  have h1 := a.isLt
  have h2 := b.enc_lt
  have h3 := m.isLt
  refine Laws.roundTrip_of_fields _ rfl (by refine ⟨?_, ?_, ?_, ?_, ?_⟩ <;> simp only [] <;> omega) ?_
  have e0 : (m.val * 256 + b.enc.1 * 64 + 2) / 256 = m.val := by omega
  have e1 : (m.val * 256 + b.enc.1 * 64 + 2) / 64 % 4 = b.enc.1 := by omega
  have e2 : (m.val * 256 + b.enc.1 * 64 + 2) % 64 = 2 := by omega
  simp only [decodeFields, dec29, e0, e1, e2] <;> simp [bopS_enc, r3_val, r5_val, need, bit]

theorem Laws.RoundTrip.vslideupk (d : VIdx) (a : VIdx) (b : BOpS) (m : MIdx) : Laws.RoundTrip.Statement (.vslideupk d a b m) := by
  have h0 := d.isLt
  have h1 := a.isLt
  have h2 := b.enc_lt
  have h3 := m.isLt
  refine Laws.roundTrip_of_fields _ rfl (by refine ⟨?_, ?_, ?_, ?_, ?_⟩ <;> simp only [] <;> omega) ?_
  have e0 : (m.val * 256 + b.enc.1 * 64 + 3) / 256 = m.val := by omega
  have e1 : (m.val * 256 + b.enc.1 * 64 + 3) / 64 % 4 = b.enc.1 := by omega
  have e2 : (m.val * 256 + b.enc.1 * 64 + 3) % 64 = 3 := by omega
  simp only [decodeFields, dec29, e0, e1, e2] <;> simp [bopS_enc, r3_val, r5_val, need, bit]

theorem Laws.RoundTrip.vslidedownk (d : VIdx) (a : VIdx) (b : BOpS) (m : MIdx) : Laws.RoundTrip.Statement (.vslidedownk d a b m) := by
  have h0 := d.isLt
  have h1 := a.isLt
  have h2 := b.enc_lt
  have h3 := m.isLt
  refine Laws.roundTrip_of_fields _ rfl (by refine ⟨?_, ?_, ?_, ?_, ?_⟩ <;> simp only [] <;> omega) ?_
  have e0 : (m.val * 256 + b.enc.1 * 64 + 4) / 256 = m.val := by omega
  have e1 : (m.val * 256 + b.enc.1 * 64 + 4) / 64 % 4 = b.enc.1 := by omega
  have e2 : (m.val * 256 + b.enc.1 * 64 + 4) % 64 = 4 := by omega
  simp only [decodeFields, dec29, e0, e1, e2] <;> simp [bopS_enc, r3_val, r5_val, need, bit]

theorem Laws.RoundTrip.vperm (d : VIdx) (a : VIdx) (b : VIdx) (m : MIdx) : Laws.RoundTrip.Statement (.vperm d a b m) := by
  have h0 := d.isLt
  have h1 := a.isLt
  have h2 := b.isLt
  have h3 := m.isLt
  refine Laws.roundTrip_of_fields _ rfl (by refine ⟨?_, ?_, ?_, ?_, ?_⟩ <;> simp only [] <;> omega) ?_
  have e0 : (m.val * 256 + 5) / 256 = m.val := by omega
  have e1 : (m.val * 256 + 5) / 64 % 4 = 0 := by omega
  have e2 : (m.val * 256 + 5) % 64 = 5 := by omega
  simp only [decodeFields, dec29, e0, e1, e2] <;> simp [r3_val, r5_val, need, bit]

theorem Laws.RoundTrip.vmv (d : VIdx) (a : VIdx) (m : MIdx) : Laws.RoundTrip.Statement (.vmv d a m) := by
  have h0 := d.isLt
  have h1 := a.isLt
  have h2 := m.isLt
  refine Laws.roundTrip_of_fields _ rfl (by refine ⟨?_, ?_, ?_, ?_, ?_⟩ <;> simp only [] <;> omega) ?_
  have e0 : (m.val * 256 + 6) / 256 = m.val := by omega
  have e1 : (m.val * 256 + 6) / 64 % 4 = 0 := by omega
  have e2 : (m.val * 256 + 6) % 64 = 6 := by omega
  simp only [decodeFields, dec29, e0, e1, e2] <;> simp [r3_val, r5_val, need, bit]

theorem Laws.RoundTrip.vmvXs (d : VIdx) (b : SReg) (m : MIdx) : Laws.RoundTrip.Statement (.vmvXs d b m) := by
  have h0 := d.isLt
  have h1 := b.isLt
  have h2 := m.isLt
  refine Laws.roundTrip_of_fields _ rfl (by refine ⟨?_, ?_, ?_, ?_, ?_⟩ <;> simp only [] <;> omega) ?_
  have e0 : (m.val * 256 + 64 + 7) / 256 = m.val := by omega
  have e1 : (m.val * 256 + 64 + 7) / 64 % 4 = 1 := by omega
  have e2 : (m.val * 256 + 64 + 7) % 64 = 7 := by omega
  simp only [decodeFields, dec29, e0, e1, e2] <;> simp [r3_val, r5_val, need, bit]

theorem Laws.RoundTrip.vmvSx (d : SReg) (a : VIdx) : Laws.RoundTrip.Statement (.vmvSx d a) := by
  have h0 := d.isLt
  have h1 := a.isLt
  refine Laws.roundTrip_of_fields _ rfl (by refine ⟨?_, ?_, ?_, ?_, ?_⟩ <;> simp only [] <;> omega) ?_
  simp [decodeFields, dec29, r5_val, need, bit]

theorem Laws.RoundTrip.vext (d : SReg) (a : VIdx) (b : SReg) : Laws.RoundTrip.Statement (.vext d a b) := by
  have h0 := d.isLt
  have h1 := a.isLt
  have h2 := b.isLt
  refine Laws.roundTrip_of_fields _ rfl (by refine ⟨?_, ?_, ?_, ?_, ?_⟩ <;> simp only [] <;> omega) ?_
  have e0 : (64 + 9) / 256 = 0 := by omega
  have e1 : (64 + 9) / 64 % 4 = 1 := by omega
  have e2 : (64 + 9) % 64 = 9 := by omega
  simp only [decodeFields, dec29, e0, e1, e2] <;> simp [r5_val, need, bit]

theorem Laws.RoundTrip.vredsum (g : RedGroup) (d : VIdx) (a : VIdx) (m : MIdx) : Laws.RoundTrip.Statement (.vredsum g d a m) := by
  have h0 := g.code_lt
  have h1 := d.isLt
  have h2 := a.isLt
  have h3 := m.isLt
  refine Laws.roundTrip_of_fields _ rfl (by refine ⟨?_, ?_, ?_, ?_, ?_⟩ <;> simp only [] <;> omega) ?_
  have e0 : (m.val * 256 + g.code * 8 + 0) / 256 = m.val := by omega
  have e1 : (m.val * 256 + g.code * 8 + 0) / 64 % 4 = 0 := by omega
  have e2 : (m.val * 256 + g.code * 8 + 0) / 8 % 8 = g.code := by omega
  have e3 : (m.val * 256 + g.code * 8 + 0) % 8 = 0 := by omega
  simp only [decodeFields, dec2A, e0, e1, e2, e3] <;> simp [RedGroup.ofCode_code, r3_val, r5_val, need, bit]

theorem Laws.RoundTrip.vredmin (g : RedGroup) (d : VIdx) (a : VIdx) (m : MIdx) : Laws.RoundTrip.Statement (.vredmin g d a m) := by
  have h0 := g.code_lt
  have h1 := d.isLt
  have h2 := a.isLt
  have h3 := m.isLt
  refine Laws.roundTrip_of_fields _ rfl (by refine ⟨?_, ?_, ?_, ?_, ?_⟩ <;> simp only [] <;> omega) ?_
  have e0 : (m.val * 256 + g.code * 8 + 1) / 256 = m.val := by omega
  have e1 : (m.val * 256 + g.code * 8 + 1) / 64 % 4 = 0 := by omega
  have e2 : (m.val * 256 + g.code * 8 + 1) / 8 % 8 = g.code := by omega
  have e3 : (m.val * 256 + g.code * 8 + 1) % 8 = 1 := by omega
  simp only [decodeFields, dec2A, e0, e1, e2, e3] <;> simp [RedGroup.ofCode_code, r3_val, r5_val, need, bit]

theorem Laws.RoundTrip.vredmax (g : RedGroup) (d : VIdx) (a : VIdx) (m : MIdx) : Laws.RoundTrip.Statement (.vredmax g d a m) := by
  have h0 := g.code_lt
  have h1 := d.isLt
  have h2 := a.isLt
  have h3 := m.isLt
  refine Laws.roundTrip_of_fields _ rfl (by refine ⟨?_, ?_, ?_, ?_, ?_⟩ <;> simp only [] <;> omega) ?_
  have e0 : (m.val * 256 + g.code * 8 + 2) / 256 = m.val := by omega
  have e1 : (m.val * 256 + g.code * 8 + 2) / 64 % 4 = 0 := by omega
  have e2 : (m.val * 256 + g.code * 8 + 2) / 8 % 8 = g.code := by omega
  have e3 : (m.val * 256 + g.code * 8 + 2) % 8 = 2 := by omega
  simp only [decodeFields, dec2A, e0, e1, e2, e3] <;> simp [RedGroup.ofCode_code, r3_val, r5_val, need, bit]

theorem Laws.RoundTrip.vredminu (w : IWidth) (d : VIdx) (a : VIdx) (m : MIdx) : Laws.RoundTrip.Statement (.vredminu w d a m) := by
  have h0 := w.code_lt
  have h1 := d.isLt
  have h2 := a.isLt
  have h3 := m.isLt
  refine Laws.roundTrip_of_fields _ rfl (by refine ⟨?_, ?_, ?_, ?_, ?_⟩ <;> simp only [] <;> omega) ?_
  have e0 : (m.val * 256 + w.code * 8 + 3) / 256 = m.val := by omega
  have e1 : (m.val * 256 + w.code * 8 + 3) / 64 % 4 = 0 := by omega
  have e2 : (m.val * 256 + w.code * 8 + 3) / 8 % 8 = w.code := by omega
  have e3 : (m.val * 256 + w.code * 8 + 3) % 8 = 3 := by omega
  simp only [decodeFields, dec2A, e0, e1, e2, e3] <;> simp [IWidth.ofCode_code, r3_val, r5_val, need, bit]

theorem Laws.RoundTrip.vredmaxu (w : IWidth) (d : VIdx) (a : VIdx) (m : MIdx) : Laws.RoundTrip.Statement (.vredmaxu w d a m) := by
  have h0 := w.code_lt
  have h1 := d.isLt
  have h2 := a.isLt
  have h3 := m.isLt
  refine Laws.roundTrip_of_fields _ rfl (by refine ⟨?_, ?_, ?_, ?_, ?_⟩ <;> simp only [] <;> omega) ?_
  have e0 : (m.val * 256 + w.code * 8 + 4) / 256 = m.val := by omega
  have e1 : (m.val * 256 + w.code * 8 + 4) / 64 % 4 = 0 := by omega
  have e2 : (m.val * 256 + w.code * 8 + 4) / 8 % 8 = w.code := by omega
  have e3 : (m.val * 256 + w.code * 8 + 4) % 8 = 4 := by omega
  simp only [decodeFields, dec2A, e0, e1, e2, e3] <;> simp [IWidth.ofCode_code, r3_val, r5_val, need, bit]

theorem Laws.RoundTrip.vredand (w : IWidth) (d : VIdx) (a : VIdx) (m : MIdx) : Laws.RoundTrip.Statement (.vredand w d a m) := by
  have h0 := w.code_lt
  have h1 := d.isLt
  have h2 := a.isLt
  have h3 := m.isLt
  refine Laws.roundTrip_of_fields _ rfl (by refine ⟨?_, ?_, ?_, ?_, ?_⟩ <;> simp only [] <;> omega) ?_
  have e0 : (m.val * 256 + w.code * 8 + 5) / 256 = m.val := by omega
  have e1 : (m.val * 256 + w.code * 8 + 5) / 64 % 4 = 0 := by omega
  have e2 : (m.val * 256 + w.code * 8 + 5) / 8 % 8 = w.code := by omega
  have e3 : (m.val * 256 + w.code * 8 + 5) % 8 = 5 := by omega
  simp only [decodeFields, dec2A, e0, e1, e2, e3] <;> simp [IWidth.ofCode_code, r3_val, r5_val, need, bit]

theorem Laws.RoundTrip.vredor (w : IWidth) (d : VIdx) (a : VIdx) (m : MIdx) : Laws.RoundTrip.Statement (.vredor w d a m) := by
  have h0 := w.code_lt
  have h1 := d.isLt
  have h2 := a.isLt
  have h3 := m.isLt
  refine Laws.roundTrip_of_fields _ rfl (by refine ⟨?_, ?_, ?_, ?_, ?_⟩ <;> simp only [] <;> omega) ?_
  have e0 : (m.val * 256 + w.code * 8 + 6) / 256 = m.val := by omega
  have e1 : (m.val * 256 + w.code * 8 + 6) / 64 % 4 = 0 := by omega
  have e2 : (m.val * 256 + w.code * 8 + 6) / 8 % 8 = w.code := by omega
  have e3 : (m.val * 256 + w.code * 8 + 6) % 8 = 6 := by omega
  simp only [decodeFields, dec2A, e0, e1, e2, e3] <;> simp [IWidth.ofCode_code, r3_val, r5_val, need, bit]

theorem Laws.RoundTrip.vredxor (w : IWidth) (d : VIdx) (a : VIdx) (m : MIdx) : Laws.RoundTrip.Statement (.vredxor w d a m) := by
  have h0 := w.code_lt
  have h1 := d.isLt
  have h2 := a.isLt
  have h3 := m.isLt
  refine Laws.roundTrip_of_fields _ rfl (by refine ⟨?_, ?_, ?_, ?_, ?_⟩ <;> simp only [] <;> omega) ?_
  have e0 : (m.val * 256 + w.code * 8 + 7) / 256 = m.val := by omega
  have e1 : (m.val * 256 + w.code * 8 + 7) / 64 % 4 = 0 := by omega
  have e2 : (m.val * 256 + w.code * 8 + 7) / 8 % 8 = w.code := by omega
  have e3 : (m.val * 256 + w.code * 8 + 7) % 8 = 7 := by omega
  simp only [decodeFields, dec2A, e0, e1, e2, e3] <;> simp [IWidth.ofCode_code, r3_val, r5_val, need, bit]

theorem Laws.RoundTrip.vcvt (dst : Format) (src : Format) (md : Bool) (d : VIdx) (a : VIdx) (m : MIdx) : Laws.RoundTrip.Statement (.vcvt dst src md d a m) := by
  have h0 := dst.code_lt
  have h1 := src.code_lt
  have h2 := bit_lt md
  have h3 := d.isLt
  have h4 := a.isLt
  have h5 := m.isLt
  refine Laws.roundTrip_of_fields _ rfl (by refine ⟨?_, ?_, ?_, ?_, ?_⟩ <;> simp only [] <;> omega) ?_
  have e0 : (m.val * 256 + bit md * 32 + dst.code) / 256 = m.val := by omega
  have e1 : (m.val * 256 + bit md * 32 + dst.code) / 64 % 4 = 0 := by omega
  have e2 : (m.val * 256 + bit md * 32 + dst.code) % 32 = dst.code := by omega
  have e3 : (m.val * 256 + bit md * 32 + dst.code) / 32 % 2 = bit md := by omega
  simp only [decodeFields, dec2C, e0, e1, e2, e3] <;> simp [Format.ofCode_code, bit_eq, r3_val, r5_val, need]

theorem Laws.RoundTrip.vmxq (mx : MxFmt) (src : MxSide) (sr : Bool) (d : VIdx) (a : VIdx) (m : MIdx) : Laws.RoundTrip.Statement (.vmxq mx src sr d a m) := by
  have h0 := mx.code_lt
  have h1 := src.code_lt
  have h2 := bit_lt sr
  have h3 := d.isLt
  have h4 := a.isLt
  have h5 := m.isLt
  refine Laws.roundTrip_of_fields _ rfl (by refine ⟨?_, ?_, ?_, ?_, ?_⟩ <;> simp only [] <;> omega) ?_
  have e0 : (m.val * 256 + bit sr * 32 + mx.code) / 256 = m.val := by omega
  have e1 : (m.val * 256 + bit sr * 32 + mx.code) / 64 % 4 = 0 := by omega
  have e2 : (m.val * 256 + bit sr * 32 + mx.code) % 32 = mx.code := by omega
  have e3 : (m.val * 256 + bit sr * 32 + mx.code) / 32 % 2 = bit sr := by omega
  simp only [decodeFields, dec2D, e0, e1, e2, e3] <;> simp [MxFmt.ofCode_code, MxSide.ofCode_code, bit_eq, r3_val, r5_val, need]

theorem Laws.RoundTrip.vmxd (dst : MxSide) (mx : MxFmt) (d : VIdx) (a : VIdx) (m : MIdx) : Laws.RoundTrip.Statement (.vmxd dst mx d a m) := by
  have h0 := dst.code_lt
  have h1 := mx.code_lt
  have h2 := d.isLt
  have h3 := a.isLt
  have h4 := m.isLt
  refine Laws.roundTrip_of_fields _ rfl (by refine ⟨?_, ?_, ?_, ?_, ?_⟩ <;> simp only [] <;> omega) ?_
  have e0 : (m.val * 256 + mx.code) / 256 = m.val := by omega
  have e1 : (m.val * 256 + mx.code) / 32 % 8 = 0 := by omega
  have e2 : (m.val * 256 + mx.code) % 32 = mx.code := by omega
  simp only [decodeFields, dec2E, e0, e1, e2] <;> simp [MxFmt.ofCode_code, MxSide.ofCode_code, r3_val, r5_val, need, bit]

theorem Laws.RoundTrip.bfly2 (t : BflyT) (d : VIdx) (a : VIdx) (b : BOpB) (m : MIdx) : Laws.RoundTrip.Statement (.bfly2 t d a b m) := by
  have h0 := t.code_lt
  have h1 := d.isLt
  have h2 := a.isLt
  have h3 := b.enc_lt
  have h4 := m.isLt
  refine Laws.roundTrip_of_fields _ rfl (by refine ⟨?_, ?_, ?_, ?_, ?_⟩ <;> simp only [] <;> omega) ?_
  have e0 : (m.val * 256 + b.enc.1 * 64 + t.code * 8 + 0) / 256 = m.val := by omega
  have e1 : (m.val * 256 + b.enc.1 * 64 + t.code * 8 + 0) / 64 % 4 = b.enc.1 := by omega
  have e2 : (m.val * 256 + b.enc.1 * 64 + t.code * 8 + 0) / 8 % 8 = t.code := by omega
  have e3 : (m.val * 256 + b.enc.1 * 64 + t.code * 8 + 0) % 8 = 0 := by omega
  simp only [decodeFields, dec30, e0, e1, e2, e3] <;> simp [BflyT.ofCode_code, bopB_enc, r3_val, r5_val, need, bit]

theorem Laws.RoundTrip.bfly4 (t : BflyT) (d : VIdx) (a : VIdx) (b : BOpB) (m : MIdx) : Laws.RoundTrip.Statement (.bfly4 t d a b m) := by
  have h0 := t.code_lt
  have h1 := d.isLt
  have h2 := a.isLt
  have h3 := b.enc_lt
  have h4 := m.isLt
  refine Laws.roundTrip_of_fields _ rfl (by refine ⟨?_, ?_, ?_, ?_, ?_⟩ <;> simp only [] <;> omega) ?_
  have e0 : (m.val * 256 + b.enc.1 * 64 + t.code * 8 + 1) / 256 = m.val := by omega
  have e1 : (m.val * 256 + b.enc.1 * 64 + t.code * 8 + 1) / 64 % 4 = b.enc.1 := by omega
  have e2 : (m.val * 256 + b.enc.1 * 64 + t.code * 8 + 1) / 8 % 8 = t.code := by omega
  have e3 : (m.val * 256 + b.enc.1 * 64 + t.code * 8 + 1) % 8 = 1 := by omega
  simp only [decodeFields, dec30, e0, e1, e2, e3] <;> simp [BflyT.ofCode_code, bopB_enc, r3_val, r5_val, need, bit]

theorem Laws.RoundTrip.bflyg (t : BflyT) (d : VIdx) (a : VIdx) (b : VIdx) (m : MIdx) : Laws.RoundTrip.Statement (.bflyg t d a b m) := by
  have h0 := t.code_lt
  have h1 := d.isLt
  have h2 := a.isLt
  have h3 := b.isLt
  have h4 := m.isLt
  refine Laws.roundTrip_of_fields _ rfl (by refine ⟨?_, ?_, ?_, ?_, ?_⟩ <;> simp only [] <;> omega) ?_
  have e0 : (m.val * 256 + t.code * 8 + 2) / 256 = m.val := by omega
  have e1 : (m.val * 256 + t.code * 8 + 2) / 64 % 4 = 0 := by omega
  have e2 : (m.val * 256 + t.code * 8 + 2) / 8 % 8 = t.code := by omega
  have e3 : (m.val * 256 + t.code * 8 + 2) % 8 = 2 := by omega
  simp only [decodeFields, dec30, e0, e1, e2, e3] <;> simp [BflyT.ofCode_code, r3_val, r5_val, need, bit]

theorem Laws.RoundTrip.mmul (w : MWidth) (p1 : Bool) (d : VIdx) (a : VIdx) (b : BOp2) (m : MIdx) : Laws.RoundTrip.Statement (.mmul w p1 d a b m) := by
  have h0 := w.code_lt
  have h1 := bit_lt p1
  have h2 := d.isLt
  have h3 := a.isLt
  have h4 := b.enc_lt
  have h5 := m.isLt
  refine Laws.roundTrip_of_fields _ rfl (by refine ⟨?_, ?_, ?_, ?_, ?_⟩ <;> simp only [] <;> omega) ?_
  have e0 : (m.val * 256 + b.enc.1 * 64 + w.code * 32 + bit p1 * 16 + 0) / 256 = m.val := by omega
  have e1 : (m.val * 256 + b.enc.1 * 64 + w.code * 32 + bit p1 * 16 + 0) / 64 % 4 = b.enc.1 := by omega
  have e2 : (m.val * 256 + b.enc.1 * 64 + w.code * 32 + bit p1 * 16 + 0) / 32 % 2 = w.code := by omega
  have e3 : (m.val * 256 + b.enc.1 * 64 + w.code * 32 + bit p1 * 16 + 0) / 16 % 2 = bit p1 := by omega
  have e4 : (m.val * 256 + b.enc.1 * 64 + w.code * 32 + bit p1 * 16 + 0) % 16 = 0 := by omega
  simp only [decodeFields, dec31, e0, e1, e2, e3, e4] <;> simp [MWidth.ofCode_code, bit_eq, bop2_enc, r3_val, r5_val, need]

theorem Laws.RoundTrip.madd (w : MWidth) (p1 : Bool) (d : VIdx) (a : VIdx) (b : BOp2) (m : MIdx) : Laws.RoundTrip.Statement (.madd w p1 d a b m) := by
  have h0 := w.code_lt
  have h1 := bit_lt p1
  have h2 := d.isLt
  have h3 := a.isLt
  have h4 := b.enc_lt
  have h5 := m.isLt
  refine Laws.roundTrip_of_fields _ rfl (by refine ⟨?_, ?_, ?_, ?_, ?_⟩ <;> simp only [] <;> omega) ?_
  have e0 : (m.val * 256 + b.enc.1 * 64 + w.code * 32 + bit p1 * 16 + 1) / 256 = m.val := by omega
  have e1 : (m.val * 256 + b.enc.1 * 64 + w.code * 32 + bit p1 * 16 + 1) / 64 % 4 = b.enc.1 := by omega
  have e2 : (m.val * 256 + b.enc.1 * 64 + w.code * 32 + bit p1 * 16 + 1) / 32 % 2 = w.code := by omega
  have e3 : (m.val * 256 + b.enc.1 * 64 + w.code * 32 + bit p1 * 16 + 1) / 16 % 2 = bit p1 := by omega
  have e4 : (m.val * 256 + b.enc.1 * 64 + w.code * 32 + bit p1 * 16 + 1) % 16 = 1 := by omega
  simp only [decodeFields, dec31, e0, e1, e2, e3, e4] <;> simp [MWidth.ofCode_code, bit_eq, bop2_enc, r3_val, r5_val, need]

theorem Laws.RoundTrip.msub (w : MWidth) (p1 : Bool) (d : VIdx) (a : VIdx) (b : BOp2) (m : MIdx) : Laws.RoundTrip.Statement (.msub w p1 d a b m) := by
  have h0 := w.code_lt
  have h1 := bit_lt p1
  have h2 := d.isLt
  have h3 := a.isLt
  have h4 := b.enc_lt
  have h5 := m.isLt
  refine Laws.roundTrip_of_fields _ rfl (by refine ⟨?_, ?_, ?_, ?_, ?_⟩ <;> simp only [] <;> omega) ?_
  have e0 : (m.val * 256 + b.enc.1 * 64 + w.code * 32 + bit p1 * 16 + 2) / 256 = m.val := by omega
  have e1 : (m.val * 256 + b.enc.1 * 64 + w.code * 32 + bit p1 * 16 + 2) / 64 % 4 = b.enc.1 := by omega
  have e2 : (m.val * 256 + b.enc.1 * 64 + w.code * 32 + bit p1 * 16 + 2) / 32 % 2 = w.code := by omega
  have e3 : (m.val * 256 + b.enc.1 * 64 + w.code * 32 + bit p1 * 16 + 2) / 16 % 2 = bit p1 := by omega
  have e4 : (m.val * 256 + b.enc.1 * 64 + w.code * 32 + bit p1 * 16 + 2) % 16 = 2 := by omega
  simp only [decodeFields, dec31, e0, e1, e2, e3, e4] <;> simp [MWidth.ofCode_code, bit_eq, bop2_enc, r3_val, r5_val, need]

theorem Laws.RoundTrip.mred (w : MWidth) (p1 : Bool) (d : VIdx) (a : VIdx) (m : MIdx) : Laws.RoundTrip.Statement (.mred w p1 d a m) := by
  have h0 := w.code_lt
  have h1 := bit_lt p1
  have h2 := d.isLt
  have h3 := a.isLt
  have h4 := m.isLt
  refine Laws.roundTrip_of_fields _ rfl (by refine ⟨?_, ?_, ?_, ?_, ?_⟩ <;> simp only [] <;> omega) ?_
  have e0 : (m.val * 256 + w.code * 32 + bit p1 * 16 + 3) / 256 = m.val := by omega
  have e1 : (m.val * 256 + w.code * 32 + bit p1 * 16 + 3) / 64 % 4 = 0 := by omega
  have e2 : (m.val * 256 + w.code * 32 + bit p1 * 16 + 3) / 32 % 2 = w.code := by omega
  have e3 : (m.val * 256 + w.code * 32 + bit p1 * 16 + 3) / 16 % 2 = bit p1 := by omega
  have e4 : (m.val * 256 + w.code * 32 + bit p1 * 16 + 3) % 16 = 3 := by omega
  simp only [decodeFields, dec31, e0, e1, e2, e3, e4] <;> simp [MWidth.ofCode_code, bit_eq, r3_val, r5_val, need]

theorem Laws.RoundTrip.mlift (w : MWidth) (p1 : Bool) (d : VIdx) (a : VIdx) (m : MIdx) : Laws.RoundTrip.Statement (.mlift w p1 d a m) := by
  have h0 := w.code_lt
  have h1 := bit_lt p1
  have h2 := d.isLt
  have h3 := a.isLt
  have h4 := m.isLt
  refine Laws.roundTrip_of_fields _ rfl (by refine ⟨?_, ?_, ?_, ?_, ?_⟩ <;> simp only [] <;> omega) ?_
  have e0 : (m.val * 256 + w.code * 32 + bit p1 * 16 + 4) / 256 = m.val := by omega
  have e1 : (m.val * 256 + w.code * 32 + bit p1 * 16 + 4) / 64 % 4 = 0 := by omega
  have e2 : (m.val * 256 + w.code * 32 + bit p1 * 16 + 4) / 32 % 2 = w.code := by omega
  have e3 : (m.val * 256 + w.code * 32 + bit p1 * 16 + 4) / 16 % 2 = bit p1 := by omega
  have e4 : (m.val * 256 + w.code * 32 + bit p1 * 16 + 4) % 16 = 4 := by omega
  simp only [decodeFields, dec31, e0, e1, e2, e3, e4] <;> simp [MWidth.ofCode_code, bit_eq, r3_val, r5_val, need]

theorem Laws.RoundTrip.bfly2M (w : MWidth) (p1 : Bool) (d : VIdx) (a : VIdx) (b : BOpB) (m : MIdx) : Laws.RoundTrip.Statement (.bfly2M w p1 d a b m) := by
  have h0 := w.code_lt
  have h1 := bit_lt p1
  have h2 := d.isLt
  have h3 := a.isLt
  have h4 := b.enc_lt
  have h5 := m.isLt
  refine Laws.roundTrip_of_fields _ rfl (by refine ⟨?_, ?_, ?_, ?_, ?_⟩ <;> simp only [] <;> omega) ?_
  have e0 : (m.val * 256 + b.enc.1 * 64 + w.code * 32 + bit p1 * 16 + 5) / 256 = m.val := by omega
  have e1 : (m.val * 256 + b.enc.1 * 64 + w.code * 32 + bit p1 * 16 + 5) / 64 % 4 = b.enc.1 := by omega
  have e2 : (m.val * 256 + b.enc.1 * 64 + w.code * 32 + bit p1 * 16 + 5) / 32 % 2 = w.code := by omega
  have e3 : (m.val * 256 + b.enc.1 * 64 + w.code * 32 + bit p1 * 16 + 5) / 16 % 2 = bit p1 := by omega
  have e4 : (m.val * 256 + b.enc.1 * 64 + w.code * 32 + bit p1 * 16 + 5) % 16 = 5 := by omega
  simp only [decodeFields, dec31, e0, e1, e2, e3, e4] <;> simp [MWidth.ofCode_code, bit_eq, bopB_enc, r3_val, r5_val, need]

theorem Laws.RoundTrip.bfly4M (w : MWidth) (p1 : Bool) (d : VIdx) (a : VIdx) (b : BOpB) (m : MIdx) : Laws.RoundTrip.Statement (.bfly4M w p1 d a b m) := by
  have h0 := w.code_lt
  have h1 := bit_lt p1
  have h2 := d.isLt
  have h3 := a.isLt
  have h4 := b.enc_lt
  have h5 := m.isLt
  refine Laws.roundTrip_of_fields _ rfl (by refine ⟨?_, ?_, ?_, ?_, ?_⟩ <;> simp only [] <;> omega) ?_
  have e0 : (m.val * 256 + b.enc.1 * 64 + w.code * 32 + bit p1 * 16 + 6) / 256 = m.val := by omega
  have e1 : (m.val * 256 + b.enc.1 * 64 + w.code * 32 + bit p1 * 16 + 6) / 64 % 4 = b.enc.1 := by omega
  have e2 : (m.val * 256 + b.enc.1 * 64 + w.code * 32 + bit p1 * 16 + 6) / 32 % 2 = w.code := by omega
  have e3 : (m.val * 256 + b.enc.1 * 64 + w.code * 32 + bit p1 * 16 + 6) / 16 % 2 = bit p1 := by omega
  have e4 : (m.val * 256 + b.enc.1 * 64 + w.code * 32 + bit p1 * 16 + 6) % 16 = 6 := by omega
  simp only [decodeFields, dec31, e0, e1, e2, e3, e4] <;> simp [MWidth.ofCode_code, bit_eq, bopB_enc, r3_val, r5_val, need]

theorem Laws.RoundTrip.mcrt (d : VIdx) (a : VIdx) (b : VIdx) (m : MIdx) : Laws.RoundTrip.Statement (.mcrt d a b m) := by
  have h0 := d.isLt
  have h1 := a.isLt
  have h2 := b.isLt
  have h3 := m.isLt
  refine Laws.roundTrip_of_fields _ rfl (by refine ⟨?_, ?_, ?_, ?_, ?_⟩ <;> simp only [] <;> omega) ?_
  have e0 : (m.val * 256) / 256 = m.val := by omega
  have e1 : (m.val * 256) / 64 % 4 = 0 := by omega
  have e2 : (m.val * 256) % 64 = 0 := by omega
  simp only [decodeFields, dec32, e0, e1, e2] <;> simp [r3_val, r5_val, need, bit]

theorem Laws.RoundTrip.mchk (c : MchkSel) (d : SReg) (a : SReg) (b : SReg) : Laws.RoundTrip.Statement (.mchk c d a b) := by
  have h0 := c.code_lt
  have h1 := d.isLt
  have h2 := a.isLt
  have h3 := b.isLt
  refine Laws.roundTrip_of_fields _ rfl (by refine ⟨?_, ?_, ?_, ?_, ?_⟩ <;> simp only [] <;> omega) ?_
  have e0 : (64 + c.code) / 256 = 0 := by omega
  have e1 : (64 + c.code) / 64 % 4 = 1 := by omega
  have e2 : (64 + c.code) % 64 = c.code := by omega
  simp only [decodeFields, dec32, e0, e1, e2]
  cases c <;> simp [MchkSel.code, MchkSel.ofCode, r5_val]

theorem Laws.RoundTrip.twset (b : SReg) : Laws.RoundTrip.Statement (.twset b) := by
  have h0 := b.isLt
  refine Laws.roundTrip_of_fields _ rfl (by refine ⟨?_, ?_, ?_, ?_, ?_⟩ <;> simp only [] <;> omega) ?_
  simp [decodeFields, dec33, r5_val, need, bit]

theorem Laws.RoundTrip.twget (t : TwFmt) (d : VIdx) (m : MIdx) : Laws.RoundTrip.Statement (.twget t d m) := by
  have h0 := t.code_lt
  have h1 := d.isLt
  have h2 := m.isLt
  refine Laws.roundTrip_of_fields _ rfl (by refine ⟨?_, ?_, ?_, ?_, ?_⟩ <;> simp only [] <;> omega) ?_
  have e0 : (m.val * 256 + t.code) / 256 = m.val := by omega
  have e1 : (m.val * 256 + t.code) / 64 % 4 = 0 := by omega
  have e2 : (m.val * 256 + t.code) % 64 = t.code := by omega
  simp only [decodeFields, dec33, e0, e1, e2]
  cases t <;> simp [TwFmt.code, TwFmt.ofCode, r5_val, r3_val]

theorem Laws.RoundTrip.vdrev (d : VIdx) (a : VIdx) (imm : BitVec 5) (m : MIdx) : Laws.RoundTrip.Statement (.vdrev d a imm m) := by
  have h0 := d.isLt
  have h1 := a.isLt
  have h2 := imm.isLt
  have h3 := m.isLt
  refine Laws.roundTrip_of_fields _ rfl (by refine ⟨?_, ?_, ?_, ?_, ?_⟩ <;> simp only [] <;> omega) ?_
  have e0 : (m.val * 256 + 128 + 0) / 256 = m.val := by omega
  have e1 : (m.val * 256 + 128 + 0) / 64 % 4 = 2 := by omega
  have e2 : (m.val * 256 + 128 + 0) % 64 = 0 := by omega
  simp only [decodeFields, dec34, e0, e1, e2] <;> simp [r3_val, r5_val, need, bit]

theorem Laws.RoundTrip.vtrn (d : VIdx) (a : VIdx) (imm : BitVec 5) (m : MIdx) : Laws.RoundTrip.Statement (.vtrn d a imm m) := by
  have h0 := d.isLt
  have h1 := a.isLt
  have h2 := imm.isLt
  have h3 := m.isLt
  refine Laws.roundTrip_of_fields _ rfl (by refine ⟨?_, ?_, ?_, ?_, ?_⟩ <;> simp only [] <;> omega) ?_
  have e0 : (m.val * 256 + 128 + 1) / 256 = m.val := by omega
  have e1 : (m.val * 256 + 128 + 1) / 64 % 4 = 2 := by omega
  have e2 : (m.val * 256 + 128 + 1) % 64 = 1 := by omega
  simp only [decodeFields, dec34, e0, e1, e2] <;> simp [r3_val, r5_val, need, bit]

theorem Laws.RoundTrip.xbfn (cplx : Bool) (d : VIdx) (a : VIdx) (m : MIdx) : Laws.RoundTrip.Statement (.xbfn cplx d a m) := by
  have h0 := bit_lt cplx
  have h1 := d.isLt
  have h2 := a.isLt
  have h3 := m.isLt
  refine Laws.roundTrip_of_fields _ rfl (by refine ⟨?_, ?_, ?_, ?_, ?_⟩ <;> simp only [] <;> omega) ?_
  have e0 : (m.val * 256 + 2 + bit cplx) / 256 = m.val := by omega
  have e1 : (m.val * 256 + 2 + bit cplx) / 64 % 4 = 0 := by omega
  have e2 : (m.val * 256 + 2 + bit cplx) % 64 = 2 + bit cplx := by omega
  simp only [decodeFields, dec34, e0, e1, e2, r3_val, r5_val]
  cases cplx <;> simp [bit, need]

theorem Laws.RoundTrip.opa (t : OpaT) (d : AIdx) (a : VIdx) (b : VIdx) (m : MIdx) : Laws.RoundTrip.Statement (.opa t d a b m) := by
  have h0 := t.code_lt
  have h1 := d.isLt
  have h2 := a.isLt
  have h3 := b.isLt
  have h4 := m.isLt
  refine Laws.roundTrip_of_fields _ rfl (by refine ⟨?_, ?_, ?_, ?_, ?_⟩ <;> simp only [] <;> omega) ?_
  have e0 : (m.val * 256 + 0 + t.code) / 256 = m.val := by omega
  have e1 : (m.val * 256 + 0 + t.code) / 64 % 4 = 0 := by omega
  have e2 : (m.val * 256 + 0 + t.code) / 32 % 2 = 0 := by omega
  have e3 : (m.val * 256 + 0 + t.code) % 32 = t.code := by omega
  simp only [decodeFields, dec36, e0, e1, e2, e3] <;> simp [OpaT.ofCode_code, r2_val, r3_val, r5_val, need, bit]

theorem Laws.RoundTrip.ops (t : OpaT) (d : AIdx) (a : VIdx) (b : VIdx) (m : MIdx) : Laws.RoundTrip.Statement (.ops t d a b m) := by
  have h0 := t.code_lt
  have h1 := d.isLt
  have h2 := a.isLt
  have h3 := b.isLt
  have h4 := m.isLt
  refine Laws.roundTrip_of_fields _ rfl (by refine ⟨?_, ?_, ?_, ?_, ?_⟩ <;> simp only [] <;> omega) ?_
  have e0 : (m.val * 256 + 32 + t.code) / 256 = m.val := by omega
  have e1 : (m.val * 256 + 32 + t.code) / 64 % 4 = 0 := by omega
  have e2 : (m.val * 256 + 32 + t.code) / 32 % 2 = 1 := by omega
  have e3 : (m.val * 256 + 32 + t.code) % 32 = t.code := by omega
  simp only [decodeFields, dec36, e0, e1, e2, e3] <;> simp [OpaT.ofCode_code, r2_val, r3_val, r5_val, need, bit]

theorem Laws.RoundTrip.azero (d : AIdx) : Laws.RoundTrip.Statement (.azero d) := by
  have h0 := d.isLt
  refine Laws.roundTrip_of_fields _ rfl (by refine ⟨?_, ?_, ?_, ?_, ?_⟩ <;> simp only [] <;> omega) ?_
  simp [decodeFields, dec37, r2_val, need, bit]

theorem Laws.RoundTrip.ald (d : AIdx) (a : SReg) : Laws.RoundTrip.Statement (.ald d a) := by
  have h0 := d.isLt
  have h1 := a.isLt
  refine Laws.roundTrip_of_fields _ rfl (by refine ⟨?_, ?_, ?_, ?_, ?_⟩ <;> simp only [] <;> omega) ?_
  simp [decodeFields, dec37, r2_val, r5_val, need, bit]

theorem Laws.RoundTrip.ast (d : AIdx) (a : SReg) : Laws.RoundTrip.Statement (.ast d a) := by
  have h0 := d.isLt
  have h1 := a.isLt
  refine Laws.roundTrip_of_fields _ rfl (by refine ⟨?_, ?_, ?_, ?_, ?_⟩ <;> simp only [] <;> omega) ?_
  simp [decodeFields, dec37, r2_val, r5_val, need, bit]

theorem Laws.RoundTrip.arow (d : VIdx) (a : AIdx) (b : SReg) (m : MIdx) : Laws.RoundTrip.Statement (.arow d a b m) := by
  have h0 := d.isLt
  have h1 := a.isLt
  have h2 := b.isLt
  have h3 := m.isLt
  refine Laws.roundTrip_of_fields _ rfl (by refine ⟨?_, ?_, ?_, ?_, ?_⟩ <;> simp only [] <;> omega) ?_
  have e0 : (m.val * 256 + 3) / 256 = m.val := by omega
  have e1 : (m.val * 256 + 3) / 64 % 4 = 0 := by omega
  have e2 : (m.val * 256 + 3) % 64 = 3 := by omega
  simp only [decodeFields, dec37, e0, e1, e2] <;> simp [r2_val, r3_val, r5_val, need, bit]

theorem Laws.RoundTrip.acol (d : VIdx) (a : AIdx) (b : SReg) (m : MIdx) : Laws.RoundTrip.Statement (.acol d a b m) := by
  have h0 := d.isLt
  have h1 := a.isLt
  have h2 := b.isLt
  have h3 := m.isLt
  refine Laws.roundTrip_of_fields _ rfl (by refine ⟨?_, ?_, ?_, ?_, ?_⟩ <;> simp only [] <;> omega) ?_
  have e0 : (m.val * 256 + 4) / 256 = m.val := by omega
  have e1 : (m.val * 256 + 4) / 64 % 4 = 0 := by omega
  have e2 : (m.val * 256 + 4) % 64 = 4 := by omega
  simp only [decodeFields, dec37, e0, e1, e2] <;> simp [r2_val, r3_val, r5_val, need, bit]

theorem Laws.RoundTrip.awrow (d : AIdx) (a : VIdx) (b : SReg) (m : MIdx) : Laws.RoundTrip.Statement (.awrow d a b m) := by
  have h0 := d.isLt
  have h1 := a.isLt
  have h2 := b.isLt
  have h3 := m.isLt
  refine Laws.roundTrip_of_fields _ rfl (by refine ⟨?_, ?_, ?_, ?_, ?_⟩ <;> simp only [] <;> omega) ?_
  have e0 : (m.val * 256 + 5) / 256 = m.val := by omega
  have e1 : (m.val * 256 + 5) / 64 % 4 = 0 := by omega
  have e2 : (m.val * 256 + 5) % 64 = 5 := by omega
  simp only [decodeFields, dec37, e0, e1, e2] <;> simp [r2_val, r3_val, r5_val, need, bit]

theorem Laws.RoundTrip.awcol (d : AIdx) (a : VIdx) (b : SReg) (m : MIdx) : Laws.RoundTrip.Statement (.awcol d a b m) := by
  have h0 := d.isLt
  have h1 := a.isLt
  have h2 := b.isLt
  have h3 := m.isLt
  refine Laws.roundTrip_of_fields _ rfl (by refine ⟨?_, ?_, ?_, ?_, ?_⟩ <;> simp only [] <;> omega) ?_
  have e0 : (m.val * 256 + 6) / 256 = m.val := by omega
  have e1 : (m.val * 256 + 6) / 64 % 4 = 0 := by omega
  have e2 : (m.val * 256 + 6) % 64 = 6 := by omega
  simp only [decodeFields, dec37, e0, e1, e2] <;> simp [r2_val, r3_val, r5_val, need, bit]

theorem Laws.RoundTrip.amov (d : AIdx) (a : AIdx) : Laws.RoundTrip.Statement (.amov d a) := by
  have h0 := d.isLt
  have h1 := a.isLt
  refine Laws.roundTrip_of_fields _ rfl (by refine ⟨?_, ?_, ?_, ?_, ?_⟩ <;> simp only [] <;> omega) ?_
  simp [decodeFields, dec37, r2_val, need, bit]

theorem Laws.RoundTrip.aepi (out : AepiOut) (i32 : Bool) (d : QIdx) (a : AIdx) (b : SReg) : Laws.RoundTrip.Statement (.aepi out i32 d a b) := by
  have h0 := out.code_lt
  have h1 := bit_lt i32
  have h2 := d.isLt
  have h3 := a.isLt
  have h4 := b.isLt
  refine Laws.roundTrip_of_fields _ rfl (by refine ⟨?_, ?_, ?_, ?_, ?_⟩ <;> simp only [] <;> omega) ?_
  have e0 : (64 + bit i32 * 32 + out.code) / 64 = 1 := by omega
  have e1 : (64 + bit i32 * 32 + out.code) % 32 = out.code := by omega
  have e2 : (64 + bit i32 * 32 + out.code) / 32 % 2 = bit i32 := by omega
  simp only [decodeFields, dec38, e0, e1, e2] <;> simp [AepiOut.ofCode_code, bit_eq, r2_val, r3_val, r5_val, need]

theorem Laws.RoundTrip.sbind (d : QIdx) (b : VIdx) : Laws.RoundTrip.Statement (.sbind d b) := by
  have h0 := d.isLt
  have h1 := b.isLt
  refine Laws.roundTrip_of_fields _ rfl (by refine ⟨?_, ?_, ?_, ?_, ?_⟩ <;> simp only [] <;> omega) ?_
  simp [decodeFields, dec3A, r3_val, r5_val, need, bit]

theorem Laws.RoundTrip.sunbind (d : QIdx) : Laws.RoundTrip.Statement (.sunbind d) := by
  have h0 := d.isLt
  refine Laws.roundTrip_of_fields _ rfl (by refine ⟨?_, ?_, ?_, ?_, ?_⟩ <;> simp only [] <;> omega) ?_
  simp [decodeFields, dec3A, r3_val, need, bit]

theorem Laws.RoundTrip.sisect (d : QIdx) (a : QIdx) (b : QIdx) : Laws.RoundTrip.Statement (.sisect d a b) := by
  have h0 := d.isLt
  have h1 := a.isLt
  have h2 := b.isLt
  refine Laws.roundTrip_of_fields _ rfl (by refine ⟨?_, ?_, ?_, ?_, ?_⟩ <;> simp only [] <;> omega) ?_
  simp [decodeFields, dec3A, r3_val, need, bit]

theorem Laws.RoundTrip.sunite (d : QIdx) (a : QIdx) (b : QIdx) : Laws.RoundTrip.Statement (.sunite d a b) := by
  have h0 := d.isLt
  have h1 := a.isLt
  have h2 := b.isLt
  refine Laws.roundTrip_of_fields _ rfl (by refine ⟨?_, ?_, ?_, ?_, ?_⟩ <;> simp only [] <;> omega) ?_
  simp [decodeFields, dec3A, r3_val, need, bit]

theorem Laws.RoundTrip.sskip (d : QIdx) (a : SReg) : Laws.RoundTrip.Statement (.sskip d a) := by
  have h0 := d.isLt
  have h1 := a.isLt
  refine Laws.roundTrip_of_fields _ rfl (by refine ⟨?_, ?_, ?_, ?_, ?_⟩ <;> simp only [] <;> omega) ?_
  simp [decodeFields, dec3A, r3_val, r5_val, need, bit]

theorem Laws.RoundTrip.ssave (d : QIdx) (a : SReg) : Laws.RoundTrip.Statement (.ssave d a) := by
  have h0 := d.isLt
  have h1 := a.isLt
  refine Laws.roundTrip_of_fields _ rfl (by refine ⟨?_, ?_, ?_, ?_, ?_⟩ <;> simp only [] <;> omega) ?_
  simp [decodeFields, dec3A, r3_val, r5_val, need, bit]

theorem Laws.RoundTrip.srest (d : QIdx) (a : SReg) : Laws.RoundTrip.Statement (.srest d a) := by
  have h0 := d.isLt
  have h1 := a.isLt
  refine Laws.roundTrip_of_fields _ rfl (by refine ⟨?_, ?_, ?_, ?_, ?_⟩ <;> simp only [] <;> omega) ?_
  simp [decodeFields, dec3A, r3_val, r5_val, need, bit]

theorem Laws.RoundTrip.saff (q : QIdx) (base : SReg) (stride : SReg) (lv : Fin 4) (go : Bool) (cnt : BitVec 32) (fmt : Format) (out : Bool) (sp : Space) :
    Laws.RoundTrip.Statement (.saff q base stride lv go cnt fmt out sp) := by
  have h1 := q.isLt
  have h2 := base.isLt
  have h3 := stride.isLt
  have h4 := lv.isLt
  have h5 := bit_lt go
  have h6 := fmt.code_lt
  have h7 := bit_lt out
  have h8 := sp.code_lt
  refine Laws.roundTrip_of_long _ rfl rfl (by refine ⟨?_, ?_, ?_, ?_, ?_⟩ <;> simp only [] <;> omega) fun _ => ?_
  have e0 : (lv.val * 8 + bit go * 4) % 4 = 0 := by omega
  have e1 : (lv.val * 8 + bit go * 4) / 8 = lv.val := by omega
  have e2 : (lv.val * 8 + bit go * 4) / 4 % 2 = bit go := by omega
  have e3 : (sp.code * 64 + bit out * 32 + fmt.code) / 256 = 0 := by omega
  have e4 : (sp.code * 64 + bit out * 32 + fmt.code) % 32 = fmt.code := by omega
  have e5 : (sp.code * 64 + bit out * 32 + fmt.code) / 64 % 4 = sp.code := by omega
  have e6 : (sp.code * 64 + bit out * 32 + fmt.code) / 32 % 2 = bit out := by omega
  simp only [decodeLongFields, h1, e0, e1, e2, e3, e4, e5, e6, Format.ofCode_code, Space.ofCode_code, bit_eq, r5_val, r3_val,
    r2_val, BitVec.ofNat_toNat, BitVec.setWidth_eq, and_self, if_true, Option.map, Option.bind]

theorem Laws.RoundTrip.sidx (q : QIdx) (a : SReg) (go : Bool) (iw : Bool) : Laws.RoundTrip.Statement (.sidx q a go iw) := by
  have h1 := q.isLt
  have h2 := a.isLt
  have h3 := bit_lt go
  have h4 := bit_lt iw
  refine Laws.roundTrip_of_long _ rfl rfl (by refine ⟨?_, ?_, ?_, ?_, ?_⟩ <;> simp only [] <;> omega) fun _ => ?_
  have e0 : (bit go * 2 + bit iw) / 4 = 0 := by omega
  have e1 : (bit go * 2 + bit iw) / 2 % 2 = bit go := by omega
  have e2 : (bit go * 2 + bit iw) % 2 = bit iw := by omega
  simp [decodeLongFields, need, e0, e1, e2, bit_eq, r5_val, r3_val]

theorem Laws.RoundTrip.sfib (q : QIdx) (a : SReg) (b : SReg) (lvk : Fin 4) (iw : Bool) (size : BitVec 32) (len : BitVec 32) (p : SReg) (sp : Space) :
    Laws.RoundTrip.Statement (.sfib q a b lvk iw size len p sp) := by
  have h1 := q.isLt
  have h2 := a.isLt
  have h3 := b.isLt
  have h4 := lvk.isLt
  have h5 := bit_lt iw
  have h6 := p.isLt
  have h8 := sp.code_lt
  refine Laws.roundTrip_of_long _ rfl rfl (by refine ⟨?_, ?_, ?_, ?_, ?_⟩ <;> simp only [] <;> omega) fun _ => ?_
  have e0 : (lvk.val * 8 + bit iw * 4) % 4 = 0 := by omega
  have e1 : (lvk.val * 8 + bit iw * 4) / 8 = lvk.val := by omega
  have e2 : (lvk.val * 8 + bit iw * 4) / 4 % 2 = bit iw := by omega
  have e3 : (sp.code * 32 + p.val) / 128 = 0 := by omega
  have e4 : (sp.code * 32 + p.val) / 32 % 4 = sp.code := by omega
  have e5 : r5 (sp.code * 32 + p.val) = p := by
    simp only [r5, Fin.ext_iff, Fin.ofNat]
    omega
  simp only [decodeLongFields, h1, e0, e1, e2, e3, e4, e5, Space.ofCode_code, bit_eq, r5_val, r3_val, r2_val,
    BitVec.ofNat_toNat, BitVec.setWidth_eq, and_self, if_true, Option.map]

theorem Laws.RoundTrip.copy (d : SReg) (a : SReg) (b : SReg) (form : CopyForm) (es : Fin 4) (w1 : CmdW1) (spitch : BitVec 32) (dpitch : BitVec 32) :
    Laws.RoundTrip.Statement (.copy d a b form es w1 spitch dpitch) := by
  have h1 := d.isLt
  have h2 := a.isLt
  have h3 := b.isLt
  have h4 := form.code_lt
  have h5 := es.isLt
  refine Laws.roundTrip_of_long _ rfl rfl (by refine ⟨?_, ?_, ?_, ?_, ?_⟩ <;> simp only [] <;> omega) fun _ => ?_
  have e0 : (form.code * 8 + es.val) % 8 < 4 := by omega
  have e1 : (form.code * 8 + es.val) / 8 = form.code := by omega
  have e2 : r2 (form.code * 8 + es.val) = es := by
    simp only [r2, Fin.ext_iff, Fin.ofNat]
    omega
  unfold decodeLongFields
  dsimp only
  rw [decW1_word]
  simp only [e0, e1, e2, CopyForm.ofCode_code, r5_val, BitVec.ofNat_toNat, BitVec.setWidth_eq,
    if_true, Option.map_some, Option.bind_some]

theorem Laws.RoundTrip.coll (d : SReg) (a : SReg) (b : SReg) (kind : CollKind) (w1 : CmdW1) (fmt : BitVec 5) (op : CollOp) (id : BitVec 8) (root : BitVec 16) :
    Laws.RoundTrip.Statement (.coll d a b kind w1 fmt op id root) := by
  have h1 := d.isLt
  have h2 := a.isLt
  have h3 := b.isLt
  have h4 := kind.code_lt
  have h5 := op.code_lt
  have h6 := fmt.isLt
  have h7 := id.isLt
  have h8 := root.isLt
  refine Laws.roundTrip_of_long _ rfl rfl (by refine ⟨?_, ?_, ?_, ?_, ?_⟩ <;> simp only [] <;> omega) fun _ => ?_
  have e0 : kind.code / 8 = 0 := by omega
  have e1 : kind.code % 8 = kind.code := by omega
  have e2 : (root.toNat * 65536 + id.toNat * 256 + op.code * 32 + fmt.toNat) / 32 % 8 = op.code := by omega
  have e3 : BitVec.ofNat 5 (root.toNat * 65536 + id.toNat * 256 + op.code * 32 + fmt.toNat) = fmt := by
    apply BitVec.eq_of_toNat_eq
    simp only [BitVec.toNat_ofNat]
    omega
  have e4 : BitVec.ofNat 8 ((root.toNat * 65536 + id.toNat * 256 + op.code * 32 + fmt.toNat) / 256) = id := by
    apply BitVec.eq_of_toNat_eq
    simp only [BitVec.toNat_ofNat]
    omega
  have e5 : BitVec.ofNat 16 ((root.toNat * 65536 + id.toNat * 256 + op.code * 32 + fmt.toNat) / 65536) = root := by
    apply BitVec.eq_of_toNat_eq
    simp only [BitVec.toNat_ofNat]
    omega
  unfold decodeLongFields
  dsimp only
  rw [decW1_word]
  simp only [e0, e1, e2, e3, e4, e5, CollKind.ofCode_code, CollOp.ofCode_code, r5_val, and_self,
    if_true, Option.map_some, Option.bind_some]

theorem Laws.RoundTrip.putE (d : SReg) (a : SReg) (b : SReg) (w1 : CmdW1) (tag : BitVec 32) (pkg : BitVec 16) :
    Laws.RoundTrip.Statement (.putE d a b w1 tag pkg) := by
  have h1 := d.isLt
  have h2 := a.isLt
  have h3 := b.isLt
  have h4 := pkg.isLt
  refine Laws.roundTrip_of_long _ rfl rfl (by refine ⟨?_, ?_, ?_, ?_, ?_⟩ <;> simp only [] <;> omega) fun _ => ?_
  have e0 : pkg.toNat / 65536 = 0 := by omega
  unfold decodeLongFields
  dsimp only
  rw [decW1_word]
  simp only [e0, r5_val, BitVec.ofNat_toNat, BitVec.setWidth_eq, and_self, if_true, Option.map_some]

theorem Laws.RoundTrip.taskPut (d : SReg) (w1 : CmdW1) (pkg : BitVec 16) : Laws.RoundTrip.Statement (.taskPut d w1 pkg) := by
  have h1 := d.isLt
  have h4 := pkg.isLt
  refine Laws.roundTrip_of_long _ rfl rfl (by refine ⟨?_, ?_, ?_, ?_, ?_⟩ <;> simp only [] <;> omega) fun _ => ?_
  have e0 : pkg.toNat / 65536 = 0 := by omega
  unfold decodeLongFields
  dsimp only
  rw [decW1_word]
  simp only [e0, r5_val, BitVec.ofNat_toNat, BitVec.setWidth_eq, and_self, if_true, Option.map_some]

theorem Laws.RoundTrip.teret : Laws.RoundTrip.Statement .teret := by
  refine Laws.roundTrip_of_fields _ rfl (by refine ⟨?_, ?_, ?_, ?_, ?_⟩ <;> simp only [] <;> omega) ?_
  simp [decodeFields, dec15, need, bit]

theorem Laws.RoundTrip.halt : Laws.RoundTrip.Statement .halt := by
  refine Laws.roundTrip_of_fields _ rfl (by refine ⟨?_, ?_, ?_, ?_, ?_⟩ <;> simp only [] <;> omega) ?_
  simp [decodeFields, dec15, need, bit]

theorem Laws.RoundTrip.hint : Laws.RoundTrip.Statement .hint := by
  refine Laws.roundTrip_of_fields _ rfl (by refine ⟨?_, ?_, ?_, ?_, ?_⟩ <;> simp only [] <;> omega) ?_
  simp [decodeFields, need, bit]

theorem Laws.RoundTrip.stripCommit : Laws.RoundTrip.Statement .stripCommit :=
  Laws.roundTrip_of_none rfl

theorem Laws.RoundTrip.commitEnd : Laws.RoundTrip.Statement .commitEnd :=
  Laws.roundTrip_of_none rfl

theorem Laws.RoundTrip.stripWatchdog : Laws.RoundTrip.Statement .stripWatchdog :=
  Laws.roundTrip_of_none rfl

theorem Laws.RoundTrip.fqbaseWrite : Laws.RoundTrip.Statement .fqbaseWrite :=
  Laws.roundTrip_of_none rfl

theorem Laws.RoundTrip.fqheadWrite : Laws.RoundTrip.Statement .fqheadWrite :=
  Laws.roundTrip_of_none rfl

theorem Laws.RoundTrip.scalarLoadReturn : Laws.RoundTrip.Statement .scalarLoadReturn :=
  Laws.roundTrip_of_none rfl

theorem Laws.RoundTrip.stripTerminalComplete : Laws.RoundTrip.Statement .stripTerminalComplete :=
  Laws.roundTrip_of_none rfl

theorem Laws.RoundTrip.presenceDeferralServe : Laws.RoundTrip.Statement .presenceDeferralServe :=
  Laws.roundTrip_of_none rfl

theorem Laws.RoundTrip.linkReservationExpiry : Laws.RoundTrip.Statement .linkReservationExpiry :=
  Laws.roundTrip_of_none rfl

theorem Laws.RoundTrip.awaitComplete : Laws.RoundTrip.Statement .awaitComplete :=
  Laws.roundTrip_of_none rfl

theorem Laws.RoundTrip.tkwaitSatisfied : Laws.RoundTrip.Statement .tkwaitSatisfied :=
  Laws.roundTrip_of_none rfl

theorem Laws.RoundTrip.lazyVectorMove : Laws.RoundTrip.Statement .lazyVectorMove :=
  Laws.roundTrip_of_none rfl

theorem Laws.RoundTrip.pageRestoreComplete : Laws.RoundTrip.Statement .pageRestoreComplete :=
  Laws.roundTrip_of_none rfl

theorem Laws.RoundTrip.spsave : Laws.RoundTrip.Statement .spsave :=
  Laws.roundTrip_of_none rfl

theorem Laws.RoundTrip.spsaveComplete : Laws.RoundTrip.Statement .spsaveComplete :=
  Laws.roundTrip_of_none rfl

theorem Laws.RoundTrip.patrolScrub : Laws.RoundTrip.Statement .patrolScrub :=
  Laws.roundTrip_of_none rfl

theorem Laws.RoundTrip.translationWalk : Laws.RoundTrip.Statement .translationWalk :=
  Laws.roundTrip_of_none rfl

theorem Laws.RoundTrip.invctlGo : Laws.RoundTrip.Statement .invctlGo :=
  Laws.roundTrip_of_none rfl

theorem Laws.RoundTrip.invalidationComplete : Laws.RoundTrip.Statement .invalidationComplete :=
  Laws.roundTrip_of_none rfl

theorem Laws.RoundTrip.copyExecute : Laws.RoundTrip.Statement .copyExecute :=
  Laws.roundTrip_of_none rfl

theorem Laws.RoundTrip.commandEnd : Laws.RoundTrip.Statement .commandEnd :=
  Laws.roundTrip_of_none rfl

theorem Laws.RoundTrip.pkrespRetry : Laws.RoundTrip.Statement .pkrespRetry :=
  Laws.roundTrip_of_none rfl

theorem Laws.RoundTrip.pkrespFail : Laws.RoundTrip.Statement .pkrespFail :=
  Laws.roundTrip_of_none rfl

theorem Laws.RoundTrip.collExecute : Laws.RoundTrip.Statement .collExecute :=
  Laws.roundTrip_of_none rfl

theorem Laws.RoundTrip.collChunkArrival : Laws.RoundTrip.Statement .collChunkArrival :=
  Laws.roundTrip_of_none rfl

theorem Laws.RoundTrip.putELanding : Laws.RoundTrip.Statement .putELanding :=
  Laws.roundTrip_of_none rfl

theorem Laws.RoundTrip.streamDelivery : Laws.RoundTrip.Statement .streamDelivery :=
  Laws.roundTrip_of_none rfl

theorem Laws.RoundTrip.streamFetchAhead : Laws.RoundTrip.Statement .streamFetchAhead :=
  Laws.roundTrip_of_none rfl

theorem Laws.RoundTrip.slotReservation : Laws.RoundTrip.Statement .slotReservation :=
  Laws.roundTrip_of_none rfl

theorem Laws.RoundTrip.slotLands : Laws.RoundTrip.Statement .slotLands :=
  Laws.roundTrip_of_none rfl

theorem Laws.RoundTrip.nodeFire : Laws.RoundTrip.Statement .nodeFire :=
  Laws.roundTrip_of_none rfl

theorem Laws.RoundTrip.controlTokenArrival : Laws.RoundTrip.Statement .controlTokenArrival :=
  Laws.roundTrip_of_none rfl

theorem Laws.RoundTrip.fcmdLoad : Laws.RoundTrip.Statement .fcmdLoad :=
  Laws.roundTrip_of_none rfl

theorem Laws.RoundTrip.fcmdAbort : Laws.RoundTrip.Statement .fcmdAbort :=
  Laws.roundTrip_of_none rfl

theorem Laws.RoundTrip.fabricLoadComplete : Laws.RoundTrip.Statement .fabricLoadComplete :=
  Laws.roundTrip_of_none rfl

theorem Laws.RoundTrip.fabricFlip : Laws.RoundTrip.Statement .fabricFlip :=
  Laws.roundTrip_of_none rfl

theorem Laws.RoundTrip.episodeComplete : Laws.RoundTrip.Statement .episodeComplete :=
  Laws.roundTrip_of_none rfl

theorem Laws.RoundTrip.farmNextServe : Laws.RoundTrip.Statement .farmNextServe :=
  Laws.roundTrip_of_none rfl

theorem Laws.RoundTrip.pktstatGo : Laws.RoundTrip.Statement .pktstatGo :=
  Laws.roundTrip_of_none rfl

theorem Laws.RoundTrip.taskPacketAccept : Laws.RoundTrip.Statement .taskPacketAccept :=
  Laws.roundTrip_of_none rfl

theorem Laws.RoundTrip.taskComplete : Laws.RoundTrip.Statement .taskComplete :=
  Laws.roundTrip_of_none rfl

theorem Laws.RoundTrip.taskPlacement : Laws.RoundTrip.Statement .taskPlacement :=
  Laws.roundTrip_of_none rfl

theorem Laws.RoundTrip.ageingStep : Laws.RoundTrip.Statement .ageingStep :=
  Laws.roundTrip_of_none rfl

theorem Laws.RoundTrip.quantumExpiry : Laws.RoundTrip.Statement .quantumExpiry :=
  Laws.roundTrip_of_none rfl

theorem Laws.RoundTrip.hartSwitchOut : Laws.RoundTrip.Statement .hartSwitchOut :=
  Laws.roundTrip_of_none rfl

theorem Laws.RoundTrip.dcancel : Laws.RoundTrip.Statement .dcancel :=
  Laws.roundTrip_of_none rfl

theorem Laws.RoundTrip.tmFreeze : Laws.RoundTrip.Statement .tmFreeze :=
  Laws.roundTrip_of_none rfl

theorem Laws.RoundTrip.freezeComplete : Laws.RoundTrip.Statement .freezeComplete :=
  Laws.roundTrip_of_none rfl

theorem Laws.RoundTrip.tmWriteImage : Laws.RoundTrip.Statement .tmWriteImage :=
  Laws.roundTrip_of_none rfl

theorem Laws.RoundTrip.tmResume : Laws.RoundTrip.Statement .tmResume :=
  Laws.roundTrip_of_none rfl

theorem Laws.RoundTrip.resumePlacement : Laws.RoundTrip.Statement .resumePlacement :=
  Laws.roundTrip_of_none rfl

theorem Laws.RoundTrip.tmEnd : Laws.RoundTrip.Statement .tmEnd :=
  Laws.roundTrip_of_none rfl

theorem Laws.RoundTrip.tmRestart : Laws.RoundTrip.Statement .tmRestart :=
  Laws.roundTrip_of_none rfl

theorem Laws.RoundTrip.tmReflect : Laws.RoundTrip.Statement .tmReflect :=
  Laws.roundTrip_of_none rfl

theorem Laws.RoundTrip.tmUnassignedOp : Laws.RoundTrip.Statement .tmUnassignedOp :=
  Laws.roundTrip_of_none rfl

theorem Laws.RoundTrip.speedChange : Laws.RoundTrip.Statement .speedChange :=
  Laws.roundTrip_of_none rfl

theorem Laws.RoundTrip.spdAgeWrite : Laws.RoundTrip.Statement .spdAgeWrite :=
  Laws.roundTrip_of_none rfl

theorem Laws.RoundTrip.droopDetect : Laws.RoundTrip.Statement .droopDetect :=
  Laws.roundTrip_of_none rfl

theorem Laws.RoundTrip.sagStepDown : Laws.RoundTrip.Statement .sagStepDown :=
  Laws.roundTrip_of_none rfl

theorem Laws.RoundTrip.powerMeasurement : Laws.RoundTrip.Statement .powerMeasurement :=
  Laws.roundTrip_of_none rfl

theorem Laws.RoundTrip.pwrlimWrite : Laws.RoundTrip.Statement .pwrlimWrite :=
  Laws.roundTrip_of_none rfl

theorem Laws.RoundTrip.hostCxlMemAccess : Laws.RoundTrip.Statement .hostCxlMemAccess :=
  Laws.roundTrip_of_none rfl

theorem Laws.RoundTrip.hostStoreCompletion : Laws.RoundTrip.Statement .hostStoreCompletion :=
  Laws.roundTrip_of_none rfl

theorem Laws.RoundTrip.tramontaneCrcFail : Laws.RoundTrip.Statement .tramontaneCrcFail :=
  Laws.roundTrip_of_none rfl

theorem Laws.RoundTrip.flitReceive : Laws.RoundTrip.Statement .flitReceive :=
  Laws.roundTrip_of_none rfl

theorem Laws.RoundTrip.etesianCrcFail : Laws.RoundTrip.Statement .etesianCrcFail :=
  Laws.roundTrip_of_none rfl

theorem Laws.RoundTrip.laneAutoRetire : Laws.RoundTrip.Statement .laneAutoRetire :=
  Laws.roundTrip_of_none rfl

theorem Laws.RoundTrip.spareSwitchComplete : Laws.RoundTrip.Statement .spareSwitchComplete :=
  Laws.roundTrip_of_none rfl

theorem Laws.RoundTrip.portDownTimeout : Laws.RoundTrip.Statement .portDownTimeout :=
  Laws.roundTrip_of_none rfl

theorem Laws.RoundTrip.e2eResendTimeout : Laws.RoundTrip.Statement .e2eResendTimeout :=
  Laws.roundTrip_of_none rfl

theorem Laws.RoundTrip.unreachableTimeout : Laws.RoundTrip.Statement .unreachableTimeout :=
  Laws.roundTrip_of_none rfl

theorem Laws.RoundTrip.retireSpire : Laws.RoundTrip.Statement .retireSpire :=
  Laws.roundTrip_of_none rfl

theorem Laws.RoundTrip.retireRouter : Laws.RoundTrip.Statement .retireRouter :=
  Laws.roundTrip_of_none rfl

theorem Laws.RoundTrip.retireEtesianLane : Laws.RoundTrip.Statement .retireEtesianLane :=
  Laws.roundTrip_of_none rfl

theorem Laws.RoundTrip.retireTramontaneLink : Laws.RoundTrip.Statement .retireTramontaneLink :=
  Laws.roundTrip_of_none rfl

theorem Laws.RoundTrip.retireHbmRow : Laws.RoundTrip.Statement .retireHbmRow :=
  Laws.roundTrip_of_none rfl

theorem Laws.RoundTrip.retireInvalidClass : Laws.RoundTrip.Statement .retireInvalidClass :=
  Laws.roundTrip_of_none rfl

theorem Laws.RoundTrip.wearPrediction : Laws.RoundTrip.Statement .wearPrediction :=
  Laws.roundTrip_of_none rfl

theorem Laws.RoundTrip.packageReset : Laws.RoundTrip.Statement .packageReset :=
  Laws.roundTrip_of_none rfl

theorem Laws.RoundTrip.dctlWrite : Laws.RoundTrip.Statement .dctlWrite :=
  Laws.roundTrip_of_none rfl

theorem Laws.RoundTrip.mailboxReport : Laws.RoundTrip.Statement .mailboxReport :=
  Laws.roundTrip_of_none rfl

theorem Laws.RoundTrip.mailboxFirmwareUpdate : Laws.RoundTrip.Statement .mailboxFirmwareUpdate :=
  Laws.roundTrip_of_none rfl

theorem Laws.RoundTrip.mailboxUnassignedOp : Laws.RoundTrip.Statement .mailboxUnassignedOp :=
  Laws.roundTrip_of_none rfl

theorem Laws.RoundTrip.securityAlarm : Laws.RoundTrip.Statement .securityAlarm :=
  Laws.roundTrip_of_none rfl

theorem Laws.RoundTrip.powerRemoval : Laws.RoundTrip.Statement .powerRemoval :=
  Laws.roundTrip_of_none rfl

theorem Laws.RoundTrip.registerWrite : Laws.RoundTrip.Statement .registerWrite :=
  Laws.roundTrip_of_none rfl

theorem Laws.RoundTrip.storeWrittenAtHome : Laws.RoundTrip.Statement .storeWrittenAtHome :=
  Laws.roundTrip_of_none rfl

theorem Laws.RoundTrip.tramontaneRetrainEnd : Laws.RoundTrip.Statement .tramontaneRetrainEnd :=
  Laws.roundTrip_of_none rfl

theorem Laws.RoundTrip.supplyRecovery : Laws.RoundTrip.Statement .supplyRecovery :=
  Laws.roundTrip_of_none rfl

theorem Laws.RoundTrip.hostSnoop : Laws.RoundTrip.Statement .hostSnoop :=
  Laws.roundTrip_of_none rfl

theorem Laws.RoundTrip.backInvalidateResponse : Laws.RoundTrip.Statement .backInvalidateResponse :=
  Laws.roundTrip_of_none rfl

end Sys2Proof
end

