-- ==== Sys2Proof/Laws/Steps.lean ====
section
/-! SUPPORT. What the shared ends of a meaning can answer: an instruction inside a strip, a control transfer, a closing and a
strip-terminal instruction, and an exception. -/
set_option Elab.async false
namespace Sys2Proof.Machine

/-! ### Exceptions -/

/-- A system fault keeps the canonical form. -/
theorem sysFault_memOk (s t : State) (x : FaultRec) (h : s.memOk) (e : s.sysFault x = .ok t) : t.memOk :=
  record_memOk { s with hart := { s.hart with fault := some x, hcr := { s.hart.hcr with sstate := 3 } } } t _ _ h e

theorem deliver_memOk (s t : State) (c n : Nat) (p i : Word) (h : s.memOk) (e : s.deliver c n p i = .ok t) : t.memOk := by
  unfold State.deliver at e
  dsimp only at e
  split at e
  · exact sysFault_memOk _ _ _ h e
  · cases e; exact h

theorem programTrap_memOk (s t : State) (c n : Nat) (i : Word) (h : s.memOk) (e : s.programTrap c n i = .ok t) : t.memOk := by
  refine deliver_memOk _ _ _ _ _ _ ?_ e
  exact h

theorem request_sameMem (s : State) (r : Req) : s.sameMem (s.request r) := by
  unfold State.request
  split
  · exact State.sameMem_refl s
  · dsimp only; split
    · exact State.sameMem_refl s
    · exact ⟨rfl, rfl, rfl, rfl⟩
  · exact snoop_sameMem _ _
  · exact ⟨rfl, rfl, rfl, rfl⟩
  · exact ⟨rfl, rfl, rfl, rfl⟩
  · exact addMiss_sameMem _ _ _ _ _
  all_goals exact ⟨rfl, rfl, rfl, rfl⟩

/-- Taking an exception keeps the canonical form. -/
theorem take_memOk (s t : State) (x : Exc) (h : s.memOk) (e : s.take x = .next t) : t.memOk := by
  unfold State.take at e
  split at e
  · split at e
    · cases e; rename_i hp; exact programTrap_memOk _ _ _ _ _ h hp
    · cases e
  · dsimp only at e
    split at e
    · cases e; rename_i hp; exact programTrap_memOk _ _ _ _ _ (by exact h) hp
    · cases e
  · split at e
    · cases e; rename_i hp; exact sysFault_memOk _ _ _ (by exact h) hp
    · cases e
  · cases e; exact (request_sameMem _ _).memOk h
  · cases e

/-- A program trap that is not turned to the runtime: the strip is discarded, the trap registers are written, and a strip
opens at TVEC (09 R225). -/
theorem programTrap_handler (s : State) (c n : Nat) (i : Word) (hv : s.hart.hcr.tvec ≠ 0) (hh : s.hart.inHandler = false) :
    ∃ t, s.programTrap c n i = .ok t ∧ t.hart.pc = s.hart.hcr.tvec ∧ t.hart.inHandler = true ∧ t.hart.hcr.tepc = s.hart.opened
      ∧ t.hart.hcr.tinfo = i ∧ t.hart.hcr.tcause = BitVec.ofNat 8 c ∧ t.hart.hcr.telem = BitVec.ofNat 13 n ∧ t.hart.fresh = true
      ∧ t.hart.buf = [] ∧ s.sameMem t := by
  unfold State.programTrap State.deliver
  dsimp only [State.discardHere, Hart.discard]
  rw [if_neg (by simp [hh]; exact hv)]
  exact ⟨_, rfl, rfl, rfl, rfl, rfl, rfl, rfl, rfl, rfl, rfl, rfl, rfl, rfl⟩

/-! ### Ends of a meaning -/

/-- What an instruction inside a strip answers. -/
theorem plainN_next (n : Nat) (s t : State) (f : State → M State) (e : plainN n s f = .next t) :
    (∃ u, f s = .ok u ∧ t = { u with hart := u.hart.advance n }) ∨ ∃ x, f s = .error x ∧ s.take x = .next t := by
  unfold plainN at e
  split at e
  · rename_i u hu; cases e; exact .inl ⟨u, hu, rfl⟩
  · rename_i x hx; exact .inr ⟨x, hx, e⟩

theorem plainN_memOk (n : Nat) (s t : State) (f : State → M State) (hf : ∀ u, f s = .ok u → u.memOk) (h : s.memOk) (e : plainN n s f = .next t) :
    t.memOk := by
  rcases plainN_next n s t f e with ⟨u, hu, rfl⟩ | ⟨x, -, hx⟩
  · exact hf u hu
  · exact take_memOk _ _ _ h hx

/-- What an instruction that changes its hart alone answers. -/
theorem plainH_next (s t : State) (f : Hart → M Hart) (e : plainH s f = .next t) :
    (∃ h, f s.hart = .ok h ∧ t = s.goesOn h 4) ∨ ∃ x, f s.hart = .error x ∧ s.take x = .next t := by
  unfold plainH plain at e
  rcases plainN_next 4 s t _ e with ⟨u, hu, ht⟩ | ⟨x, hx, he⟩
  · cases hf : f s.hart with
    | error x => simp [hf, Except.map] at hu
    | ok h => simp only [hf, Except.map, Except.ok.injEq] at hu; subst hu; exact .inl ⟨h, rfl, ht⟩
  · cases hf : f s.hart with
    | error y => simp only [hf, Except.map, Except.error.injEq] at hx; subst hx; exact .inr ⟨y, rfl, he⟩
    | ok h => simp [hf, Except.map] at hx

theorem plainH_memOk (s t : State) (f : Hart → M Hart) (h : s.memOk) (e : plainH s f = .next t) : t.memOk := by
  rcases plainH_next s t f e with ⟨u, -, rfl⟩ | ⟨x, -, hx⟩
  · exact h
  · exact take_memOk _ _ _ h hx

/-- What a control transfer answers. -/
theorem jumpH_next (s t : State) (f : Hart → M Hart) (e : jumpH s f = .next t) :
    (∃ h, f s.hart = .ok h ∧ t = { s with hart := { h with fresh := false, stall := none } }) ∨ ∃ x, f s.hart = .error x ∧ s.take x = .next t := by
  unfold jumpH at e
  split at e
  · rename_i h hh; cases e; exact .inl ⟨h, hh, rfl⟩
  · rename_i x hx; exact .inr ⟨x, hx, e⟩

theorem jumpH_memOk (s t : State) (f : Hart → M Hart) (h : s.memOk) (e : jumpH s f = .next t) : t.memOk := by
  rcases jumpH_next s t f e with ⟨u, -, rfl⟩ | ⟨x, -, hx⟩
  · exact h
  · exact take_memOk _ _ _ h hx

/-- How a closing of the open strip answers: its commit waits, or it stops where the request to leave is due, or f goes on. -/
theorem closeThen_next (s t : State) (f : State → Out) (e : closeThen s f = .next t) :
    (∃ x, s.close = .error x ∧ s.inCommit.take x = .next t)
    ∨ (∃ u, s.close = .ok (u, false) ∧ t = u)
    ∨ (∃ u, s.close = .ok (u, true) ∧ u.hart.asked = true ∧ t = u.inCommit)
    ∨ ∃ u, s.close = .ok (u, true) ∧ f u = .next t := by
  unfold closeThen at e
  split at e
  · rename_i x hx; exact .inl ⟨x, hx, e⟩
  · rename_i u d hu
    cases d
    · simp only [Bool.not_false, if_true, Host.Outcome.next.injEq] at e
      exact .inr (.inl ⟨u, hu, e.symm⟩)
    · simp only [Bool.not_true, Bool.false_eq_true, if_false] at e
      split at e
      · rename_i hb
        simp only [Bool.and_eq_true] at hb
        cases e; exact .inr (.inr (.inl ⟨u, hu, hb.2, rfl⟩))
      · exact .inr (.inr (.inr ⟨u, hu, e⟩))

theorem closeThen_memOk (s t : State) (f : State → Out) (hf : ∀ u, u.memOk → f u = .next t → t.memOk) (h : s.memOk)
    (e : closeThen s f = .next t) : t.memOk := by
  rcases closeThen_next s t f e with ⟨x, -, hx⟩ | ⟨u, hu, rfl⟩ | ⟨u, hu, -, rfl⟩ | ⟨u, hu, hv⟩
  · refine take_memOk _ _ _ ?_ hx; exact h
  · exact close_memOk _ _ h hu
  · exact close_memOk _ _ h hu
  · exact hf u (close_memOk _ _ h hu) hv

theorem closing_memOk (s t : State) (pre : Hart → M Unit) (f : State → M State) (hf : ∀ u v, u.memOk → f u = .ok v → v.memOk) (h : s.memOk)
    (e : closing s pre f = .next t) : t.memOk := by
  unfold closing at e
  split at e
  · exact take_memOk _ _ _ h e
  · refine closeThen_memOk _ _ _ (fun u hu e => ?_) h e
    split at e
    · refine take_memOk _ _ _ ?_ e; exact hu
    · rename_i v hv; cases e; exact hf u _ hu hv

theorem completeTerm_memOk (s t : State) (h : s.memOk) (e : s.completeTerm = .ok t) : t.memOk := by
  unfold State.completeTerm at e
  cases hc : State.commit { s with hart := { s.hart with pc := s.hart.pc + 4 } } with
  | error x => rw [hc] at e; cases e
  | ok u =>
    rw [hc] at e; cases e
    refine commit_memOk _ u ?_ hc
    exact h

theorem terminal_memOk (i : Instr) (s t : State) (f : State → M State) (hf : ∀ u v, u.memOk → f u = .ok v → v.memOk) (h : s.memOk) (e : terminal i s f = .next t) :
    t.memOk := by
  refine closeThen_memOk _ _ _ (fun u hu e => ?_) h e
  have hk : (u.inTerm i).memOk := hu
  split at e
  · exact take_memOk _ _ _ hk e
  · rename_i v hv
    cases e
    cases hw : f (u.inTerm i) with
    | error x => rw [hw] at hv; cases hv
    | ok w => rw [hw] at hv; exact completeTerm_memOk _ _ (hf _ _ hk hw) hv

end Sys2Proof.Machine
end

