-- ==== Sys2Proof/Laws/Vector.lean ====
section
/-! SUPPORT. Laws of vector elements and masks, and what a vector instruction does while no stream is attached. -/
set_option Elab.async false
namespace Sys2Proof.Machine

/-! ### Elements of a register -/

/-- Data bits after one element is written. -/
theorem VReg.setElt_data (r : VReg) (w i b : Nat) (x : Elt) :
    (r.setElt w i x).data.getLsbD b =
      if w * i ≤ b ∧ b < w * i + w ∧ b < 16384 then x.val.testBit (b - w * i) else r.data.getLsbD b := by
  simp only [VReg.setElt, BitVec.getLsbD_ofNat, setField_testBit]
  by_cases hb : b < 16384
  · by_cases h : w * i ≤ b ∧ b < w * i + w
    · simp [hb, h]
    · simp only [hb, h, decide_true, Bool.true_and, if_false]
      rw [if_neg (by tauto)]; rfl
  · simp [hb, BitVec.getLsbD_of_ge _ b (by omega : 16384 ≤ b)]

/-- Poison bits after one element of at least a byte is written. -/
theorem VReg.setElt_poison (r : VReg) (w i b : Nat) (x : Elt) (hw : 8 ∣ w) (h8 : 0 < w) :
    (r.setElt w i x).poison.getLsbD b =
      if w * i ≤ 8 * b ∧ 8 * b < w * i + w ∧ b < 2048 then x.bad else r.poison.getLsbD b := by
  obtain ⟨k, rfl⟩ := hw
  have hk : 0 < k := by omega
  have h1 : ¬ 8 * k < 8 := by omega
  have e1 : poisonLo (8 * k) i = k * i := by simp [poisonLo, Nat.mul_assoc]
  have e2 : poisonN (8 * k) = k := by simp [poisonN, h1]
  simp only [VReg.setElt, h1, if_false, BitVec.getLsbD_ofNat, setField_testBit, e1, e2]
  have hc : (8 * k * i ≤ 8 * b ∧ 8 * b < 8 * k * i + 8 * k) ↔ (k * i ≤ b ∧ b < k * i + k) := by
    rw [Nat.mul_assoc]; omega
  by_cases hb : b < 2048
  · by_cases h : k * i ≤ b ∧ b < k * i + k
    · have h' := hc.2 h
      simp only [hb, h, and_self, if_true, decide_true, Bool.true_and, h']
      cases x.bad
      · simp
      · simp [Nat.testBit_two_pow_sub_one]; omega
    · have h' : ¬ (8 * k * i ≤ 8 * b ∧ 8 * b < 8 * k * i + 8 * k) := fun t => h (hc.1 t)
      simp only [hb, h, decide_true, Bool.true_and, if_false]
      rw [if_neg (by tauto)]; rfl
  · simp [hb, BitVec.getLsbD_of_ge _ b (by omega : 2048 ≤ b)]

@[simp] theorem VReg.setElt_scale (r : VReg) (w i : Nat) (x : Elt) : (r.setElt w i x).scale = r.scale := rfl

/-- The bits of an element of at least a byte decide it. -/
theorem VReg.elt_val_testBit (r : VReg) (w i j : Nat) : (r.elt w i).val.testBit j = (decide (j < w) && r.data.getLsbD (w * i + j)) := by
  simp [VReg.elt, field_testBit, BitVec.getLsbD]

/-- An element is poisoned when one of its poison bits is set. -/
theorem VReg.elt_bad (r : VReg) (w i : Nat) (hw : 8 ∣ w) (h8 : 0 < w) :
    (r.elt w i).bad = true ↔ ∃ b, w * i ≤ 8 * b ∧ 8 * b < w * i + w ∧ r.poison.getLsbD b = true := by
  obtain ⟨k, rfl⟩ := hw
  have hk : 0 < k := by omega
  have e1 : poisonLo (8 * k) i = k * i := by simp [poisonLo, Nat.mul_assoc]
  have e2 : poisonN (8 * k) = k := by simp [poisonN, show ¬ 8 * k < 8 by omega]
  simp only [VReg.elt, e1, e2, bne_iff_ne, ne_eq]
  constructor
  · intro h
    obtain ⟨j, hj⟩ := Nat.exists_testBit_of_ne_zero h
    rw [field_testBit] at hj
    simp at hj
    refine ⟨k * i + j, ?_, ?_, hj.2⟩ <;> rw [Nat.mul_assoc] <;> omega
  · rintro ⟨b, h1, h2, h3⟩ h0
    rw [Nat.mul_assoc] at h1 h2
    have : (field r.poison.toNat (k * i) k).testBit (b - k * i) = true := by
      rw [field_testBit]
      simp [show b - k * i < k by omega, show k * i + (b - k * i) = b by omega]
      exact h3
    simp [h0] at this


/-- Byte b lies in element i of width w. -/
theorem mul_le_div_iff (w i b : Nat) (h0 : 0 < w) : (w * i ≤ b ∧ b < w * i + w) ↔ b / w = i := by
  constructor
  · rintro ⟨h1, h2⟩
    apply Nat.div_eq_of_lt_le <;> rw [Nat.mul_comm] <;> [skip; rw [Nat.mul_add]] <;> omega
  · rintro rfl
    have := Nat.div_add_mod b w
    have := Nat.mod_lt b h0
    omega

/-- The bits of a register after the elements of a list are written: each listed element from the function, the rest as
before. -/
theorem VReg.setElts_bits (r : VReg) (w : Nat) (xs : List Nat) (f : Nat → Elt) (hw : 8 ∣ w) (h0 : 0 < w) :
    (∀ b, (r.setElts w (xs.map fun i => (i, f i))).data.getLsbD b =
      if b < 16384 ∧ b / w ∈ xs then (f (b / w)).val.testBit (b % w) else r.data.getLsbD b)
    ∧ (∀ b, (r.setElts w (xs.map fun i => (i, f i))).poison.getLsbD b =
      if b < 2048 ∧ 8 * b / w ∈ xs then (f (8 * b / w)).bad else r.poison.getLsbD b)
    ∧ (r.setElts w (xs.map fun i => (i, f i))).scale = r.scale
    ∧ (r.setElts w (xs.map fun i => (i, f i))).scaleBad = r.scaleBad := by
  have h4 : ¬ w = 4 := by rintro rfl; omega
  simp only [VReg.setElts, h4, if_false]
  induction xs generalizing r with
  | nil => simp
  | cons i t ih =>
    simp only [List.map_cons, List.foldl_cons]
    obtain ⟨h1, h2, h3, h4⟩ := ih (r.setElt w i (f i))
    refine ⟨fun b => ?_, fun b => ?_, by rw [h3]; rfl, by rw [h4]; rfl⟩
    · simp only [h1, VReg.setElt_data, ← and_assoc, mul_le_div_iff w i b h0]
      by_cases hb : b < 16384
      · by_cases hi : b / w = i
        · have e : b - w * i = b % w := by have := Nat.div_add_mod b w; rw [hi] at this; omega
          by_cases ht : b / w ∈ t <;> simp [hb, hi, e]
        · simp [hb, hi]
      · simp [hb]
    · simp only [h2, VReg.setElt_poison _ _ _ _ _ hw h0, ← and_assoc, mul_le_div_iff w i (8 * b) h0]
      by_cases hb : b < 2048
      · by_cases hi : 8 * b / w = i
        · by_cases ht : 8 * b / w ∈ t <;> simp [hb, hi]
        · simp [hb, hi]
      · simp [hb]

/-- Writing a list of elements leaves the register as `writtenAs` says. -/
theorem VReg.setElts_writtenAs (r : VReg) (w : Nat) (xs : List Nat) (f : Nat → Elt) (act : Nat → Prop) (hw : 8 ∣ w) (h0 : 0 < w)
    (ha : ∀ i, act i ↔ i ∈ xs) : r.writtenAs (r.setElts w (xs.map fun i => (i, f i))) w act f := by
  obtain ⟨h1, h2, h3, h4⟩ := VReg.setElts_bits r w xs f hw h0
  refine ⟨h3, h4, fun i hi hact => ?_, fun b hb hn => ?_, fun b hb hn => ?_⟩
  · have hm := (ha i).1 hact
    set n := r.setElts w (xs.map fun i => (i, f i)) with hn
    have hv : (n.elt w i).val = (f i).val % 2 ^ w := by
      apply Nat.eq_of_testBit_eq
      intro j
      rw [VReg.elt_val_testBit, h1, Nat.testBit_mod_two_pow]
      by_cases hj : j < w
      · have e1 : (w * i + j) / w = i := by rw [Nat.mul_add_div h0, Nat.div_eq_of_lt hj, Nat.add_zero]
        have e2 : (w * i + j) % w = j := by rw [Nat.mul_add_mod, Nat.mod_eq_of_lt hj]
        simp [hj, e1, e2, hm, show w * i + j < 16384 by omega]
      · simp [hj]
    have hb : (n.elt w i).bad = (f i).bad := by
      rw [Bool.eq_iff_iff, VReg.elt_bad _ _ _ hw h0]
      constructor
      · rintro ⟨b, l1, l2, l3⟩
        rw [h2, (mul_le_div_iff w i (8 * b) h0).1 ⟨l1, l2⟩] at l3
        simpa [hm, show b < 2048 by omega] using l3
      · intro hf
        obtain ⟨k, rfl⟩ := hw
        rw [Nat.mul_assoc] at hi
        refine ⟨k * i, by rw [Nat.mul_assoc], by rw [Nat.mul_assoc]; omega, ?_⟩
        rw [h2]
        have : 8 * (k * i) / (8 * k) = i := by
          rw [← Nat.mul_assoc, Nat.mul_div_cancel_left _ h0]
        simp [this, hm, hf, show k * i < 2048 by omega]
    cases hx : n.elt w i
    simp_all
  · rw [h1, if_neg]; rintro ⟨-, h⟩; exact hn ((ha _).2 h)
  · rw [h2, if_neg]; rintro ⟨-, h⟩; exact hn ((ha _).2 h)

/-! ### Masks -/

theorem b2n_testBit (b : Bool) (i : Nat) : (b2n b).testBit i = (decide (i = 0) && b) := by
  cases b <;> cases i <;> simp [b2n, Nat.testBit_succ]

/-- Bits of a mask after one bit is set. -/
theorem MReg.setBit_bits (k : MReg) (j n : Nat) (b p : Bool) :
    (k.setBit j b p).bits.getLsbD n = (if n = j ∧ n < 2048 then b else k.bits.getLsbD n)
    ∧ (k.setBit j b p).poison.getLsbD n = (if n = j ∧ n < 2048 then p else k.poison.getLsbD n) := by
  have hc : (j ≤ n ∧ n < j + 1) ↔ n = j := by omega
  simp only [MReg.setBit, BitVec.getLsbD_ofNat, setField_testBit, b2n_testBit, hc]
  by_cases h1 : n = j
  · subst h1
    by_cases h2 : n < 2048
    · simp [h2]
    · simp [h2, BitVec.getLsbD_of_ge _ n (by omega : 2048 ≤ n)]
  · by_cases h2 : n < 2048
    · simp [h1, h2]; exact ⟨rfl, rfl⟩
    · simp [h1, h2, BitVec.getLsbD_of_ge _ n (by omega : 2048 ≤ n)]

/-- Setting the bits of a list leaves the mask as `writtenAs` says. -/
theorem MReg.setBits_writtenAs (k : MReg) (xs : List Nat) (f : Nat → Bool × Bool) (act : Nat → Prop)
    (ha : ∀ i, act i ↔ i ∈ xs) :
    k.writtenAs (xs.foldl (fun k i => k.setBit i (f i).1 (f i).2) k) act f := by
  have key : ∀ (xs : List Nat) (k : MReg) (n : Nat), n < 2048 →
      (xs.foldl (fun k i => k.setBit i (f i).1 (f i).2) k).bits.getLsbD n = (if n ∈ xs then (f n).1 else k.bits.getLsbD n)
      ∧ (xs.foldl (fun k i => k.setBit i (f i).1 (f i).2) k).poison.getLsbD n = (if n ∈ xs then (f n).2 else k.poison.getLsbD n) := by
    intro xs
    induction xs with
    | nil => simp
    | cons i t ih =>
      intro k n hn
      simp only [List.foldl_cons]
      obtain ⟨h1, h2⟩ := ih (k.setBit i (f i).1 (f i).2) n hn
      obtain ⟨g1, g2⟩ := MReg.setBit_bits k i n (f i).1 (f i).2
      rw [h1, h2, g1, g2]
      by_cases h : n = i
      · subst h; simp [hn]
      · simp [h]
  intro j hj
  obtain ⟨h1, h2⟩ := key xs k j hj
  refine ⟨fun h => ?_, fun h => ?_⟩
  · have := (ha j).1 h; simp [h1, h2, this]
  · have : j ∉ xs := fun t => h ((ha j).2 t)
    simp [h1, h2, this]

/-! ### Streams: nothing is attached -/

theorem foldl_ok {α β : Type} (f : M β → α → M β) (b : β) (l : List α) (h : ∀ a, f (.ok b) a = .ok b) :
    l.foldl f (.ok b) = .ok b := by
  induction l with
  | nil => rfl
  | cons a t ih => rw [List.foldl_cons, h]; exact ih

theorem deliverOne_detached (s : State) (v : VIdx) (i : QIdx) (h : s.hart.detached) : deliverOne s v i = .ok s := by
  have hc : (s.hart.regs.q[i]).covers v = false := by simp only [Stream.covers]; rw [h i]; rfl
  unfold deliverOne
  simp only [hc]
  rfl

theorem emitOne_detached (s : State) (v : VIdx) (vl : Nat) (i : QIdx) (h : s.hart.detached) : emitOne s v vl i = .ok s := by
  have hc : (s.hart.regs.q[i]).covers v = false := by simp only [Stream.covers]; rw [h i]; rfl
  unfold emitOne
  simp only [hc]
  rfl

/-- Without an attached stream nothing is delivered. -/
theorem deliver_detached (s : State) (rs : List VIdx) (h : s.hart.detached) : deliver s rs = .ok s := by
  apply foldl_ok
  intro v
  apply foldl_ok
  intro i
  exact deliverOne_detached s v i h

/-- Without an attached stream nothing is emitted. -/
theorem emit_detached (s : State) (ws : List VIdx) (h : s.hart.detached) : emit s ws = .ok s := by
  apply foldl_ok
  intro v
  apply foldl_ok
  intro i
  exact emitOne_detached s v _ i h

/-- Without an attached stream every vector instruction finds its streams ready. -/
theorem streamsReady_detached (h : Hart) (rs ws : List VIdx) (hd : h.detached) : streamsReady h rs ws = .ok () := by
  have key : ∀ (b : Bool) (v : VIdx) (i : QIdx), h.streamOk b v i = true := by
    intro b v i
    have hc : (h.regs.q[i]).covers v = false := by simp only [Stream.covers]; rw [hd i]; rfl
    unfold Hart.streamOk
    simp only [hc]
    rfl
  simp [streamsReady, failIf, key]

/-- A vector instruction of a hart without attached streams: its checks, then its effect. -/
theorem streamed_detached (rs ws : List VIdx) (legal : Hart → M Unit) (f : State → M State) (s : State)
    (h : s.hart.detached) (hl : legal s.hart = .ok ()) (u : State) (hu : f s = .ok u) (hd : u.hart.detached) :
    streamed rs ws legal f s = .ok u := by
  simp only [streamed, hl, streamsReady_detached s.hart rs ws h, deliver_detached s rs h, Except.bind, Except.mapError, hu,
    emit_detached u ws hd]

/-- The same for an effect on the hart alone. -/
theorem vecH_detached (rs ws : List VIdx) (legal : Hart → M Unit) (f : Hart → M Hart) (s : State) (h' : Hart)
    (h : s.hart.detached) (hl : legal s.hart = .ok ()) (hf : f s.hart = .ok h') (hd : h'.detached) :
    vecH rs ws legal f s = .next (s.goesOn h' 4) := by
  have : streamed rs ws legal (fun t => (f t.hart).map fun h => { t with hart := h }) s = .ok { s with hart := h' } :=
    streamed_detached _ _ _ _ _ h hl _ (by simp [hf, Except.map]) hd
  simp [vecH, plain, plainN, this, Hart.advance, State.goesOn]

/-- The width check passes. -/
theorem ewIn_ok (ws : List Nat) (h : Hart) (hw : h.ew ∈ ws) : ewIn ws h = .ok () := by
  simp [ewIn, failIf, hw]

/-- The mask check passes. -/
theorem maskClean_ok (h : Hart) (m : MIdx) (hm : h.maskSound m) : h.maskClean m = .ok () := by
  unfold Hart.maskClean
  simp only
  split
  · rfl
  · have : (List.range h.vl).find? (fun i => (h.regs.getM m).isBad h.ew i) = none := by
      simp only [List.find?_eq_none, List.mem_range]
      intro i hi
      simp [hm i hi]
    rw [this]

theorem mem_active (h : Hart) (m : MIdx) (i : Nat) : i ∈ h.active m ↔ h.writes m i := by
  simp [Hart.active, Hart.writes, List.mem_filter]


/-! ### Flags -/

theorem Hart.orFlags_zero (h : Hart) : h.orFlags 0 = h := by
  simp [Hart.orFlags]

theorem Hart.orFlags_orFlags (h : Hart) (f g : FlagSet) : (h.orFlags f).orFlags g = h.orFlags (f ||| g) := by
  simp only [Hart.orFlags]
  congr 3
  apply BitVec.eq_of_getLsbD_eq
  intro i hi
  simp only [BitVec.getLsbD_or, BitVec.getLsbD_and]
  cases (h.regs.h.fflags).getLsbD i <;> cases f.getLsbD i <;> cases g.getLsbD i <;> simp

theorem enabled_masked (h : Hart) (f : FlagSet) (hm : h.flagsMasked) : h.enabled f = 0 := by
  have : f &&& h.regs.h.fenable &&& 0x00FF#16 = f &&& (h.regs.h.fenable &&& 0x00FF#16) := by
    rw [BitVec.and_assoc]
  unfold Hart.enabled
  rw [this, hm]
  simp

/-- With no flag enabled, raising the flags of a list sets them all. -/
theorem raiseAll_masked (h : Hart) (l : List (Nat × FlagSet)) (hm : h.flagsMasked) :
    h.raiseAll l = .ok (h.orFlags ((l.map (·.2)).foldl (fun a x => a ||| x) 0)) := by
  have key : ∀ (l : List (Nat × FlagSet)) (h : Hart) (g : FlagSet), h.flagsMasked →
      (h.orFlags g).raiseAll l = .ok (h.orFlags ((l.map (·.2)).foldl (fun a x => a ||| x) g)) := by
    intro l
    induction l with
    | nil => intro h g _; rfl
    | cons x t ih =>
      intro h g hm
      have h1 : (h.orFlags g).enabled x.2 = 0 := enabled_masked _ _ hm
      simp only [Hart.raiseAll, Hart.raise, h1, if_true, Hart.orFlags_orFlags, List.map_cons, List.foldl_cons]
      exact ih h _ hm
  have := key l h 0 hm
  rwa [Hart.orFlags_zero] at this

/-! ### Maps over the active elements -/

/-- A map over the active elements writes the register as `writesV` says. -/
theorem writesV_of_vecMap (s : State) (i : Instr) (rs : List VIdx) (legal : Hart → M Unit) (w : Nat) (d : VIdx) (m : MIdx)
    (f : Hart → Nat → Elt) (hd : s.hart.detached) (hm : s.hart.maskSound m) (hl : legal s.hart = .ok ())
    (hw : 8 ∣ w) (h0 : 0 < w) (he : exec i s = vecH rs [d] legal (vecMap w d m f) s) :
    s.writesV i w d (s.hart.writes m) (f s.hart) 0 := by
  refine ⟨(s.hart.regs.v[d]).setElts w ((s.hart.active m).map fun i => (i, f s.hart i)), ?_, ?_⟩
  · rw [he, Hart.orFlags_zero]
    exact vecH_detached _ _ _ _ _ _ hd hl (by simp [vecMap, maskClean_ok _ _ hm, Except.map]) hd
  · exact VReg.setElts_writtenAs _ _ _ _ _ hw h0 fun i => (mem_active _ _ _).symm

/-- A map that raises flags, with none enabled. -/
theorem writesV_of_vecFlag (s : State) (i : Instr) (rs : List VIdx) (legal : Hart → M Unit) (w : Nat) (d : VIdx) (m : MIdx)
    (f : Hart → Nat → Elt × FlagSet) (hd : s.hart.detached) (hm : s.hart.maskSound m) (hf : s.hart.flagsMasked)
    (hl : legal s.hart = .ok ()) (hw : 8 ∣ w) (h0 : 0 < w) (he : exec i s = vecH rs [d] legal (vecFlag w d m f) s) :
    s.writesV i w d (s.hart.writes m) (fun j => (f s.hart j).1) (s.hart.flagsOf m (f s.hart)) := by
  refine ⟨(s.hart.regs.v[d]).setElts w ((s.hart.active m).map fun i => (i, (f s.hart i).1)), ?_, ?_⟩
  · rw [he]
    refine vecH_detached _ _ _ _ _ _ hd hl ?_ hd
    simp [vecFlag, maskClean_ok _ _ hm, Except.map, raiseAll_masked _ _ hf, Hart.flagsOf, List.map_map, Function.comp_def, Hart.orFlags]
  · exact VReg.setElts_writtenAs _ _ _ _ _ hw h0 fun i => (mem_active _ _ _).symm

/-- A compare over the active elements writes the mask as `writesM` says. -/
theorem writesM_of_maskMap (s : State) (i : Instr) (rs : List VIdx) (legal : Hart → M Unit) (d m : MIdx)
    (f : Hart → Nat → Bool × Bool) (hd : s.hart.detached) (hm : s.hart.maskSound m) (hl : legal s.hart = .ok ())
    (he : exec i s = vecH rs [] legal (maskMap d m f) s) :
    s.writesM i d (s.hart.writes m) (f s.hart) 0 := by
  refine ⟨(s.hart.active m).foldl (fun k i => k.setBit i (f s.hart i).1 (f s.hart i).2) (s.hart.regs.getM d), ?_, ?_⟩
  · rw [he, Hart.orFlags_zero]
    refine vecH_detached _ _ _ _ _ _ hd hl (by simp [maskMap, maskClean_ok _ _ hm, Except.map]) ?_
    unfold Regs.setM; split <;> exact hd
  · exact MReg.setBits_writtenAs _ _ _ _ fun i => (mem_active _ _ _).symm

/-! ### Signed values and element values -/

theorem sgn_eq_toInt (n x : Nat) (h : 0 < n) : sgn n x = (BitVec.ofNat n x).toInt := by
  rw [BitVec.toInt_eq_toNat_cond]
  simp only [sgn, BitVec.toNat_ofNat]
  have : (2:Nat) ^ n = 2 * 2 ^ (n - 1) := by rw [← Nat.pow_succ']; congr; omega
  have h2 : ((2:Int) ^ n) = ((2 ^ n : Nat) : Int) := by push_cast; rfl
  split <;> split <;> (try rw [h2]) <;> omega

theorem wrapI_eq_ofInt (n : Nat) (x : Int) : wrapI n x = (BitVec.ofInt n x).toNat := by
  simp [wrapI, BitVec.toNat_ofInt]

theorem State.writesV_congr {s : State} {i : Instr} {w : Nat} {d : VIdx} {act : Nat → Prop} {f g : Nat → Elt} {fl : FlagSet}
    (h : ∀ j, (f j).val % 2 ^ w = (g j).val % 2 ^ w ∧ (f j).bad = (g j).bad) (hf : s.writesV i w d act f fl) :
    s.writesV i w d act g fl := by
  obtain ⟨v, hv, h0, h1, h2, h3, h4⟩ := hf
  refine ⟨v, hv, h0, h1, fun i hi ha => ?_, h3, h4⟩
  rw [h2 i hi ha, (h i).1, (h i).2]

theorem bits_pos (k : IWidth) : 8 ∣ k.bits ∧ 0 < k.bits := by cases k <;> simp [IWidth.bits]

theorem ofNat_elt (r : VReg) (n i : Nat) : (BitVec.ofNat n (r.elt n i).val).toNat = (r.elt n i).val := by
  simp [VReg.elt, field]

theorem elt_lt (r : VReg) (n i : Nat) : (r.elt n i).val < 2 ^ n := by
  simp only [VReg.elt, field]; exact Nat.mod_lt _ (by positivity)

theorem opb_vi (k : IWidth) (x : BitVec 5) : wrapI k.bits (sgn 5 x.toNat) = (x.signExtend 64).toNat % 2 ^ k.bits := by
  revert x; cases k <;> decide

end Sys2Proof.Machine
end

