-- ==== Sys2Proof/Tests/Slice0.lean ====
section
/-! SUPPORT. Tests: the checks of WellFormed, words of the encoding tables, single steps, and a witness for the hypotheses
of each statement of Certificates/Slice0/Obligations.lean. -/
set_option Elab.async false
namespace Sys2Proof.Tests
open Sys2Proof Sys2Proof.Machine

/-! ### WellFormed refuses one ill-formed instruction for each of its checks -/

theorem test_wf_cas_d31 : (Instr.vatom .cas 31 1 2 0).wf = false := by decide
theorem test_wf_farm_next_d0 : (Instr.farmNext 0).wf = false := by decide
theorem test_wf_farm_next_d31 : (Instr.farmNext 31).wf = false := by decide
theorem test_wf_vcvt_no_pair : (Instr.vcvt .fp32 .m32 false 1 2 0).wf = false := by decide
theorem test_wf_vcvt_no_modifier : (Instr.vcvt .fp32 .bf16 true 1 2 0).wf = false := by decide
theorem test_wf_bfly2_d31 : (Instr.bfly2 .cbf16 31 1 (.vv 2) 0).wf = false := by decide
theorem test_wf_bfly4_rxbf : (Instr.bfly4 .rxbf 1 2 (.vi 3) 0).wf = false := by decide
theorem test_wf_bfly4_d29 : (Instr.bfly4 .xbf 29 2 (.vv 3) 0).wf = false := by decide
theorem test_wf_bflyg_b31 : (Instr.bflyg .cfp32 1 2 31 0).wf = false := by decide
theorem test_wf_bfly2M_d31 : (Instr.bfly2M .m32 false 31 1 (.vv 2) 0).wf = false := by decide
theorem test_wf_bfly4M_a31 : (Instr.bfly4M .m64 true 1 31 (.vv 2) 0).wf = false := by decide
theorem test_wf_vdrev_0 : (Instr.vdrev 1 2 0#5 0).wf = false := by decide
theorem test_wf_vdrev_9 : (Instr.vdrev 1 2 9#5 0).wf = false := by decide
theorem test_wf_saff_level1_base : (Instr.saff 1 4 5 1 false 3#32 .i8 false .loc).wf = false := by decide
theorem test_wf_sfib_dense_array : (Instr.sfib 1 2 0 0 false 7#32 0#32 3 .loc).wf = false := by decide
theorem test_wf_sfib_bitmap_coordinates : (Instr.sfib 1 2 3 2 false 7#32 0#32 3 .loc).wf = false := by decide
theorem test_wf_copy_linear_pitch : (Instr.copy 1 2 3 .linear 0 ⟨.loc, .loc, 0, false, false, 0⟩ 8#32 0#32).wf = false := by decide
theorem test_wf_put_e_not_glb : (Instr.putE 1 2 3 ⟨.loc, .loc, 0, false, false, 0⟩ 7#32 1#16).wf = false := by decide
theorem test_wf_task_put_not_loc : (Instr.taskPut 1 ⟨.glb, .loc, 0, false, false, 0⟩ 1#16).wf = false := by decide

/-! ### Words that the spec gives for instructions (the worked encodings of 03 to 09) -/

/-- 03 Table 3-14, 04 Table of the worked example after R111. -/
theorem test_words_scalar : decodeWords [0x0CA0FFFF] = some (.addi 5 0 0xFFFF#16) ∧ decodeWords [0x1C400001] = some (.lui 2 1#16)
    ∧ decodeWords [0x08810800] = some (.mul 4 1 1) ∧ decodeWords [0x24820003] = some (.std false 4 2 0#13)
    ∧ decodeWords [0x14A101FF] = some (.andi 5 1 511#16) := by decide
theorem test_words_control : decodeWords [0x44A00002] = some (.bne 5 0 2#16) ∧ decodeWords [0x4423FFF9] = some (.bne 1 3 0xFFF9#16)
    ∧ decodeWords [0x4022FFFE] = some (.beq 1 2 0xFFFE#16) ∧ decodeWords [0x54200007] = some (.trap 7#16)
    ∧ decodeWords [0x54800001] = some (.brk 1#16) ∧ decodeWords [0x54400000] = some .teret ∧ decodeWords [0x54600000] = some .halt := by
  decide
/-- 05 Table 5-1. -/
theorem test_words_strip : decodeWords [0x60410040] = some (.setvl 2 1 .e32) ∧ decodeWords [0x60640164] = some (.setvlAcq 3 4 .e64 .package)
    ∧ decodeWords [0x60000200] = some (.strip 0) ∧ decodeWords [0x60000304] = some (.stripRel 0 .package) := by decide
/-- 05 Table 5-2. The table's word for `vlds v3, s8, s9` has d = 3 at [25:21], as R71 places it. -/
theorem test_words_vector_memory : decodeWords [0x64684820] = some (.vlds 3 8 9 0) ∧ decodeWords [0x64210060] = some (.vldff 1 1 0)
    ∧ decodeWords [0x682A0000] = some (.vst 1 10 0) ∧ decodeWords [0x644A1880] = some (.vldsc 2 10 3 0)
    ∧ decodeWords [0x64863AA0] = some (.vgl 4 6 7 2) ∧ decodeWords [0x68863AC0] = some (.vsc 4 6 7 2)
    ∧ decodeWords [0x6CA63940] = some (.vatom .add 5 6 7 1) ∧ decodeWords [0x648638E0] = some (.vtake 4 6 7 0)
    ∧ decodeWords [0x688638E0] = some (.vput 4 6 7 0) ∧ decodeWords [0x64860000] = some (.vld 4 6 0) := by decide
/-- 03 Table 3-14, 06 worked examples. -/
theorem test_words_vector : decodeWords [0x8C611200] = some (.vaddF .fp32 3 1 (.vv 2) 2) ∧ decodeWords [0x94E848C4] = some (.vfmaF .bf16 7 8 9 0)
    ∧ decodeWords [0x9D095033] = some (.vmulc .cfp32 8 9 (.vv 10) 0) ∧ decodeWords [0xA0410005] = some (.vmfirst 2 1 0)
    ∧ decodeWords [0xA1220006] = some (.vpopc 9 2 0) ∧ decodeWords [0xA8A20028] = some (.vredsum .fp32 5 2 0) := by decide
theorem test_words_conversion : decodeWords [0xB041482B] = some (.vcvt .bf16 .fp32 true 2 1 0)
    ∧ decodeWords [0xB4614811] = some (.vmxq .e4m3 .fp32 false 3 1 0) ∧ decodeWords [0xB8834811] = some (.vmxd .fp32 .e4m3 4 3 0) := by decide
/-- 07 Table 7-1. -/
theorem test_words_transform : decodeWords [0xC0C85000] = some (.bfly2 .cbf16 6 8 (.vv 10) 0)
    ∧ decodeWords [0xC0821891] = some (.bfly4 .xbf 4 2 (.vi 3#5) 0) ∧ decodeWords [0xC065A00A] = some (.bflyg .cfp32 3 5 20 0)
    ∧ decodeWords [0xC4210085] = some (.bfly2M .m32 false 1 1 (.vi 0#5) 0) ∧ decodeWords [0xC4410086] = some (.bfly4M .m32 false 2 1 (.vi 0#5) 0)
    ∧ decodeWords [0xCC006040] = some (.twset 12) ∧ decodeWords [0xCC400003] = some (.twget .xbf 2 0)
    ∧ decodeWords [0xD0A41080] = some (.vdrev 5 4 2#5 0) ∧ decodeWords [0xD0C52081] = some (.vtrn 6 5 4#5 0)
    ∧ decodeWords [0xD0C60003] = some (.xbfn true 6 6 0) := by decide
theorem test_words_residue : decodeWords [0xC4E74850] = some (.mmul .m32 true 7 7 (.vs 9) 0) ∧ decodeWords [0xC4630024] = some (.mlift .m64 false 3 3 0)
    ∧ decodeWords [0xC9242800] = some (.mcrt 9 4 5 0) ∧ decodeWords [0xC8642843] = some (.mchk .pp 3 4 5) := by decide
/-- 08 Tables 8-1, 8-3 and R191. -/
theorem test_words_tile : decodeWords [0xD8011000] = some (.opa .bf16 0 1 2 0) ∧ decodeWords [0xD8242B02] = some (.opa .e4m3 1 4 5 3)
    ∧ decodeWords [0xD8463824] = some (.ops .i8 2 6 7 0) ∧ decodeWords [0xDC600000] = some (.azero 3) ∧ decodeWords [0xDC050001] = some (.ald 0 5)
    ∧ decodeWords [0xDC050002] = some (.ast 0 5) ∧ decodeWords [0xDD212003] = some (.arow 9 1 4 0) ∧ decodeWords [0xDD212004] = some (.acol 9 1 4 0)
    ∧ decodeWords [0xDC432005] = some (.awrow 2 3 4 0) ∧ decodeWords [0xDC432006] = some (.awcol 2 3 4 0) ∧ decodeWords [0xDC200007] = some (.amov 1 0)
    ∧ decodeWords [0xE040384B] = some (.aepi .bf16 false 2 0 7) ∧ decodeWords [0xE0223060] = some (.aepi .i8 true 1 2 6) := by decide
/-- 09 Tables 9-3 and 9-8, R200. -/
theorem test_words_stream : decodeWords [0xE8202000] = some (.sbind 1 4) ∧ decodeWords [0xE8200040] = some (.sunbind 1)
    ∧ decodeWords [0xE8611080] = some (.sisect 3 1 2) ∧ decodeWords [0xE86110C0] = some (.sunite 3 1 2) ∧ decodeWords [0xE8650100] = some (.sskip 3 5)
    ∧ decodeWords [0xE8460140] = some (.ssave 2 6) ∧ decodeWords [0xE8460180] = some (.srest 2 6)
    ∧ decodeWords [0xFC1090A4, 0x3FF, 0x9, 0] = some (.saff 1 4 5 0 true 1023#32 .fp32 false .loc) := by decide
theorem test_words_synchronisation : decodeWords [0x58000004] = some (.fence .package) ∧ decodeWords [0x58000045] = some (.barArrive 5#6)
    ∧ decodeWords [0x58000085] = some (.barWait 5#6) ∧ decodeWords [0x580700C0] = some (.await 7) ∧ decodeWords [0x58090102] = some (.tkwait 2 9)
    ∧ decodeWords [0x58042940] = some (.farmInit 4 5) := by decide
/-- The four engine commands of long opcodes 4 to 7 (09 R211 to R215), written out from Table 9-5 and their field lists. -/
theorem test_words_commands :
    decodeWords [0b111111_000100_00001_00010_00011_00000, 0b000000000_00_10_0000000000101_1_1_0011, 0, 0]
      = some (.copy 1 2 3 .linear 0 ⟨.loc, .glb, 5#13, true, true, 3⟩ 0#32 0#32)
    ∧ decodeWords [0b111111_000110_00001_00010_00011_00000, 0b000000000_10_00_0000000000000_0_0_0000, 77, 9]
      = some (.putE 1 2 3 ⟨.glb, .loc, 0#13, false, false, 0⟩ 77#32 9#16)
    ∧ decodeWords [0b111111_000111_00011_00000_00000_00000, 0b000000000_00_10_0000000000011_0_1_0100, 5, 0]
      = some (.taskPut 3 ⟨.loc, .glb, 3#13, false, true, 4⟩ 5#16) := by decide
/-- A prefix whose unused bit is set, and a reserved major, are refused (03 R76, R78). -/
theorem test_words_refused : decodeWords [0b111111_000010_00001_00010_00001_00010, 0, 0, 0] = none ∧ decodeWords [0] = none
    ∧ decodeWords [0x58000806] = none := by decide

/-! ### Single steps: the spec's worked examples and values computed by hand from its rules -/

/-- A hart that runs in mode P1 with VL vl and width code ew, its registers changed by f and the rest by g. -/
def hart (vl : BitVec 13) (ew : BitVec 3) (f : Regs → Regs) (g : Hart → Hart) : Hart :=
  let r := f { Regs.reset with h := { StripHcr.reset with vl := vl, ew := ew } }
  g { Hart.reset with id := ⟨1, 0, 0⟩, nhart := 1, nspire := 1, pc := 0x1000#64, opened := 0x1000#64, regs := r, ckpt := r,
                      hcr := { Hcr.reset with run := 1 } }
/-- The part with that hart alone. -/
def st (vl : BitVec 13) (ew : BitVec 3) (f : Regs → Regs) : State := { State.reset with hart := hart vl ew f id }
/-- A field of the next state. -/
def after {α : Type} (o : Out) (f : State → α) : Option α :=
  match o with
  | .next t => some (f t)
  | _ => none
/-- A vector register with elements of w bits. -/
def vec (w : Nat) (l : List Nat) : VReg := ⟨BitVec.ofNat _ (l.reverse.foldl (fun a x => a * 2 ^ w + x) 0), 0, 0, 0⟩
/-- The first n elements of register r. -/
def elts (w n : Nat) (r : VIdx) (t : State) : List Nat := (List.range n).map fun i => ((t.hart.regs.v[r]).elt w i).val
/-- Flags of the hart. -/
def fl (t : State) : Nat := t.hart.regs.h.fflags.toNat
/-- Scalar registers set. -/
def sc (l : List (SReg × Word)) (r : Regs) : Regs := l.foldl (fun r x => r.setS x.1 x.2 false) r
/-- HCRs of the checkpoint changed. -/
def hc (f : StripHcr → StripHcr) (r : Regs) : Regs := { r with h := f r.h }

/-- 01 R16: a write of s0 is discarded; 04 R99: poison of an operand poisons the result. -/
theorem test_add_s0 : after (exec (.add 0 1 1) (st 0 0 (sc [(1, 5)]))) (fun t => t.hart.s 0) = some 0 := by decide +kernel
theorem test_sub_poison : after (exec (.sub 3 1 2) (st 0 0 fun r => (r.setS 1 5 false).setS 2 7 true)) (fun t => t.hart.bad 3) = some true := by
  decide +kernel
/-- 04 Table 4-1: the shift count is the low six bits. -/
theorem test_sll_count : after (exec (.sll 3 1 2) (st 0 0 (sc [(1, 3), (2, 65)]))) (fun t => t.hart.s 3) = some 6 := by decide +kernel
theorem test_slt_signed : after (exec (.slt 3 1 2) (st 0 0 (sc [(1, 0xFFFFFFFFFFFFFFFF), (2, 1)]))) (fun t => t.hart.s 3) = some 1 := by decide +kernel
theorem test_sltu_unsigned : after (exec (.sltu 3 1 2) (st 0 0 (sc [(1, 0xFFFFFFFFFFFFFFFF), (2, 1)]))) (fun t => t.hart.s 3) = some 0 := by
  decide +kernel
/-- 02 R42: a divisor of zero gives all ones and the dividend; the most negative value divided by -1 wraps. -/
theorem test_div_zero : after (exec (.div 3 1 2) (st 0 0 (sc [(1, 7)]))) (fun t => t.hart.s 3) = some 0xFFFFFFFFFFFFFFFF := by decide +kernel
theorem test_div_wrap : after (exec (.div 3 1 2) (st 0 0 (sc [(1, 0x8000000000000000), (2, 0xFFFFFFFFFFFFFFFF)]))) (fun t => t.hart.s 3)
    = some 0x8000000000000000 := by decide +kernel
theorem test_rem_zero : after (exec (.rem 3 1 2) (st 0 0 (sc [(1, 7)]))) (fun t => t.hart.s 3) = some 7 := by decide +kernel
theorem test_mulh_negative : after (exec (.mulh 3 1 2) (st 0 0 (sc [(1, 0xFFFFFFFFFFFFFFFF), (2, 2)]))) (fun t => t.hart.s 3)
    = some 0xFFFFFFFFFFFFFFFF := by decide +kernel
theorem test_mulhsu_mixed : after (exec (.mulhsu 3 1 2) (st 0 0 (sc [(1, 0xFFFFFFFFFFFFFFFF), (2, 0xFFFFFFFFFFFFFFFF)]))) (fun t => t.hart.s 3)
    = some 0xFFFFFFFFFFFFFFFF := by decide +kernel
theorem test_clz_zero : after (exec (.clz 3 1) (st 0 0 id)) (fun t => t.hart.s 3) = some 64 := by decide +kernel
theorem test_ctz_bit : after (exec (.ctz 3 1) (st 0 0 (sc [(1, 0x50)]))) (fun t => t.hart.s 3) = some 4 := by decide +kernel
theorem test_popc_byte : after (exec (.popc 3 1) (st 0 0 (sc [(1, 0xF1)]))) (fun t => t.hart.s 3) = some 5 := by decide +kernel
/-- 04 R101: `addi` sign-extends, `andi` and `ori` do not, `lui` shifts by 16 and sign-extends. -/
theorem test_addi_negative : after (exec (.addi 5 0 0xFFFF) (st 0 0 id)) (fun t => t.hart.s 5) = some 0xFFFFFFFFFFFFFFFF := by decide +kernel
theorem test_andi_zero_extended : after (exec (.andi 3 1 0xFFFF) (st 0 0 (sc [(1, 0x123458765)]))) (fun t => t.hart.s 3) = some 0x8765 := by
  decide +kernel
theorem test_lui_negative : after (exec (.lui 3 0x8000) (st 0 0 id)) (fun t => t.hart.s 3) = some 0xFFFFFFFF80000000 := by decide +kernel
theorem test_srai_sign : after (exec (.srai 3 1 4) (st 0 0 (sc [(1, 0x8000000000000000)]))) (fun t => t.hart.s 3) = some 0xF800000000000000 := by
  decide +kernel
/-- 04 R108: `beq` at 0x1000 with offset -2 words. -/
theorem test_beq_back : after (exec (.beq 1 2 0xFFFE) (st 0 0 id)) (fun t => t.hart.pc) = some 0xFF8 := by decide +kernel
theorem test_jal_link : after (exec (.jal 3) (st 0 0 id)) (fun t => (t.hart.pc, t.hart.s 31)) = some (0x100C, 0x1004) := by decide +kernel
/-- 04 R109: a misaligned target traps; with TVEC = 0 the hart waits for the runtime with cause 0x02 (11 R271). -/
theorem test_jr_misaligned : after (exec (.jr 1 0) (st 0 0 (sc [(1, 0x2002)]))) (fun t => t.hart.fault.map (·.cause)) = some (some 2) := by
  decide +kernel
/-- 04 worked example after R107: `fcvt.i64.fp32` of -5.0, `fcvt.ui64.fp32` of -5.0 sets nv, of -0.25 sets nx only. -/
theorem test_fcvt_i64_negative : after (exec (.fcvtI64Fp32 3 1) (st 0 0 (sc [(1, 0xC0A00000)]))) (fun t => (t.hart.s 3, fl t))
    = some (0xFFFFFFFFFFFFFFFB, 0) := by decide +kernel
theorem test_fcvt_ui64_invalid : after (exec (.fcvtUi64Fp32 3 1) (st 0 0 (sc [(1, 0xC0A00000)]))) (fun t => (t.hart.s 3, fl t)) = some (0, 16) := by
  decide +kernel
theorem test_fcvt_ui64_inexact : after (exec (.fcvtUi64Fp32 3 1) (st 0 0 (sc [(1, 0xBE800000)]))) (fun t => (t.hart.s 3, fl t)) = some (0, 1) := by decide +kernel
/-- 02 R44, R47: 2^24 + 1 is a tie that RNE rounds to 2^24; 0/0 is the canonical NaN with nv. -/
theorem test_fadd_tie : after (exec (.fadd .fp32 3 1 2) (st 0 0 (sc [(1, 0x4B800000), (2, 0x3F800000)]))) (fun t => t.hart.s 3) = some 0x4B800000 := by
  decide +kernel
theorem test_fdiv_invalid : after (exec (.fdiv .fp32 3 1 2) (st 0 0 id)) (fun t => (t.hart.s 3, fl t)) = some (0x7FC00000, 16) := by decide +kernel
theorem test_fsqrt_four : after (exec (.fsqrt .fp64 3 1) (st 0 0 (sc [(1, 0x4010000000000000)]))) (fun t => (t.hart.s 3, fl t))
    = some (0x4000000000000000, 0) := by decide +kernel
/-- 02 worked example after R48: SEED 1 draws 0, so 0x3F80_8000 rounds up to 0x3F81. -/
theorem test_fcvt_stochastic : after (exec (.fcvtBf16Fp32 3 1) (st 0 0 fun r => hc (fun h => { h with rmode := 4, seed := 1 }) (sc [(1, 0x3F808000)] r)))
    (fun t => (t.hart.s 3, t.hart.regs.h.seed)) = some (0x3F81, 0x40822041) := by decide +kernel
/-- 01 Table 1-5, R25: a reserved bit of FFLAGS stays 0; RMODE 5 is discarded. -/
theorem test_hcrw_fflags : after (exec (.hcrw 1 4) (st 0 0 (sc [(1, 0xFFFF)]))) fl = some 0xFF := by decide +kernel
theorem test_hcrw_rmode : after (exec (.hcrw 1 3) (st 0 0 fun r => hc (fun h => { h with rmode := 2 }) (sc [(1, 5)] r)))
    (fun t => t.hart.regs.h.rmode) = some 2 := by decide +kernel
/-- 05 R117: VLMAX in P1 at e32 is 512. -/
theorem test_setvl_max : after (exec (.setvl 2 1 .e32) (st 0 0 (sc [(1, 1000)]))) (fun t => (t.hart.s 2, t.hart.vl, t.hart.ew)) = some (512, 512, 32) := by
  decide +kernel
/-- 09 R224: `trap` with a handler. -/
theorem test_trap_enters : after (exec (.trap 7) { State.reset with hart := hart 0 0 id fun h => { h with hcr := { h.hcr with tvec := 0x4000 } } })
    (fun t => (t.hart.pc, t.hart.hcr.tcause, t.hart.hcr.tepc, t.hart.hcr.tinfo, t.hart.inHandler)) = some (0x4000, 0x11, 0x1004, 0x1000, true) := by
  decide +kernel
/-- 09 R226: `teret` takes bits [1:0] of TEPC as 0. -/
theorem test_teret_pc : after (exec .teret { State.reset with hart := hart 0 0 id fun h =>
      { h with inHandler := true, hcr := { h.hcr with tepc := 0x2007 } } }) (fun t => (t.hart.pc, t.hart.inHandler)) = some (0x2004, false) := by
  decide +kernel
/-- 09 R227, 01 Table 1-6. -/
theorem test_halt_run : after (exec .halt (st 0 0 id)) (fun t => (t.hart.hcr.run, t.hart.hcr.sstate)) = some (3, 4) := by decide +kernel

/-- 06 R148: elements wrap; the tail stays. -/
theorem test_vadd_wraps : after (exec (.vaddI .w32 3 1 (.vv 2) 0) (st 4 2 fun r => (r.setV 1 (vec 32 [1, 2, 3, 4])).setV 2 (vec 32 [10, 20, 30, 0xFFFFFFFF])))
    (elts 32 5 3) = some [11, 22, 33, 3, 0] := by decide +kernel
theorem test_vsadd_clamps : after (exec (.vsadd .w8 3 1 (.vi 5) 0) (st 2 0 fun r => r.setV 1 (vec 8 [125, 0x80]))) (elts 8 2 3) = some [127, 0x85] := by
  decide +kernel
theorem test_vdiv_zero : after (exec (.vdivI .w16 3 1 (.vi 0) 0) (st 1 1 fun r => r.setV 1 (vec 16 [9]))) (elts 16 1 3) = some [0xFFFF] := by decide +kernel
theorem test_vsra_sign : after (exec (.vsra .w8 3 1 (.vi 9) 0) (st 1 0 fun r => r.setV 1 (vec 8 [0x80]))) (elts 8 1 3) = some [0xC0] := by decide +kernel
theorem test_vmadd_tied : after (exec (.vmadd .w32 3 1 2 0) (st 1 2 fun r => ((r.setV 1 (vec 32 [5])).setV 2 (vec 32 [6])).setV 3 (vec 32 [7])))
    (elts 32 1 3) = some [37] := by decide +kernel
/-- 03 R74: a governing width other than EW traps as illegal. -/
theorem test_vadd_wrong_width : after (exec (.vaddI .w32 3 1 (.vv 2) 0) (st 4 1 id)) (fun t => t.hart.fault.map (·.cause)) = some (some 1) := by
  decide +kernel
/-- 06 worked example after R153: vceq, vmfirst, vpopc, viota. -/
theorem test_vceq_zeros : after (exec (.vceqI .w8 1 1 (.vi 0) 0) (st 8 0 fun r => r.setV 1 (vec 8 [0x61, 0x62, 0, 0x63, 0x64, 0, 0x65, 0x66])))
    (fun t => (t.hart.regs.getM 1).bits.toNat) = some 0b00100100 := by decide +kernel
theorem test_vmfirst : after (exec (.vmfirst 2 1 0) (st 8 0 fun r => r.setM 1 ⟨0b00100100, 0⟩)) (fun t => (t.hart.regs.getM 2).bits.toNat)
    = some 0b00000111 := by decide +kernel
theorem test_vpopc : after (exec (.vpopc 9 2 0) (st 8 0 fun r => r.setM 2 ⟨0b00000111, 0⟩)) (fun t => t.hart.s 9) = some 3 := by decide +kernel
theorem test_viota : after (exec (.viota 3 1 0) (st 8 0 fun r => r.setM 1 ⟨0b00100100, 0⟩)) (elts 8 8 3) = some [0, 0, 0, 1, 1, 1, 2, 2] := by
  decide +kernel
/-- 06 Table 6-7. -/
theorem test_vslideup : after (exec (.vslideup 2 1 (.vi 1) 0) (st 8 2 fun r => r.setV 1 (vec 32 [3, 1, 4, 1, 5, 9, 2, 6]))) (elts 32 8 2)
    = some [0, 3, 1, 4, 1, 5, 9, 2] := by decide +kernel
theorem test_vslideupk_keeps : after (exec (.vslideupk 2 1 (.vi 2) 0) (st 4 2 fun r => (r.setV 1 (vec 32 [1, 2, 3, 4])).setV 2 (vec 32 [8, 9, 0, 0])))
    (elts 32 4 2) = some [8, 9, 1, 2] := by decide +kernel
theorem test_vperm_past_vl : after (exec (.vperm 3 1 2 0) (st 2 2 fun r => (r.setV 1 (vec 32 [7, 8, 9])).setV 2 (vec 32 [1, 2]))) (elts 32 2 3)
    = some [8, 0] := by decide +kernel
/-- 06 worked example after R151: 1.0078125^2 - 1 rounds once to 2^-6 with nx. -/
theorem test_vfma_bf16 : after (exec (.vfmaF .bf16 7 8 9 0) (st 1 1 fun r => ((r.setV 8 (vec 16 [0x3F81])).setV 9 (vec 16 [0x3F81])).setV 7 (vec 16 [0xBF80])))
    (elts 16 1 7) = some [0x3C80] := by decide +kernel
/-- 06 R150: an E4M3 overflow gives 448, and its NaN is 0x7F. -/
theorem test_vmul_e4m3_overflow : after (exec (.vmulF8 .e4m3 3 1 (.vv 1) 0) (st 1 0 fun r => r.setV 1 (vec 8 [0x7E]))) (elts 8 1 3) = some [0x7E] := by
  decide +kernel
/-- 06 R151: -0 equals +0; an unordered pair is not less. -/
theorem test_vceq_zeros_fp : after (exec (.vceqF .fp32 1 1 (.vv 2) 0) (st 1 2 fun r => r.setV 1 (vec 32 [0x80000000])))
    (fun t => (t.hart.regs.getM 1).bits.toNat) = some 1 := by decide +kernel
theorem test_vclt_nan : after (exec (.vcltF .fp32 1 1 (.vv 2) 0) (st 1 2 fun r => r.setV 1 (vec 32 [0x7FC00000])))
    (fun t => ((t.hart.regs.getM 1).bits.toNat, fl t)) = some (0, 16) := by decide +kernel
/-- 06 R152: i times 1 + 2i is -2 + i. -/
theorem test_vmuli : after (exec (.vmuli .cbf16 3 1 0) (st 1 2 fun r => r.setV 1 (vec 32 [0x40003F80]))) (elts 32 1 3) = some [0x3F80C000] := by
  decide +kernel
/-- 06 worked example after R156. -/
theorem test_vredsum_tree : after (exec (.vredsum .fp32 5 2 0) (st 3 2 fun r => r.setV 2 (vec 32 [0x4B800000, 0x3F800000, 0x3F800000])))
    (elts 32 1 5) = some [0x4B800000] := by decide +kernel
theorem test_vredand_none : after (exec (.vredand .w8 5 2 1) (st 3 0 id)) (elts 8 1 5) = some [0xFF] := by decide +kernel
/-- 02 Table 2-7, 06 worked example after R161. -/
theorem test_vmxq : after (exec (.vmxq .e4m3 .fp32 false 3 1 0) (st 32 2 fun r => r.setV 1 (vec 32 [0x3F800000, 0xC0600000, 0x42C80000, 0x3C23D70A])))
    (fun t => (elts 8 5 3 t, (t.hart.regs.v[(3 : VIdx)]).scale.toNat)) = some ([0x48, 0xD6, 0x7C, 0x12, 0], 0x7D) := by decide +kernel
theorem test_vmxd : after (exec (.vmxd .fp32 .e4m3 4 3 0) (st 32 2 fun r => r.setV 3 { vec 8 [0x48, 0xD6, 0x7C, 0x12] with scale := 0x7D }))
    (fun t => (elts 32 5 4 t, fl t)) = some ([0x3F800000, 0xC0600000, 0x42C00000, 0x3C200000, 0], 0) := by decide +kernel
/-- 06 worked example after R158. -/
theorem test_vcvt_stochastic : after (exec (.vcvt .bf16 .fp32 true 2 1 0) (st 1 2 fun r => hc (fun h => { h with seed := 1 }) (r.setV 1 (vec 32 [0x3F808000]))))
    (elts 16 1 2) = some [0x3F81] := by decide +kernel

/-- 07 Table 7-3 and the text after it. -/
theorem test_twget_xbf : after (exec (.twget .xbf 2 0) (st 4 2 (hc fun h => { h with twg := 0x2003 })))
    (fun t => (elts 32 4 2 t, t.hart.regs.h.twg)) = some ([0x00004000, 0xD2BF2D41, 0xC0000000, 0xD2BFD2BF], 0x400002003) := by decide +kernel
theorem test_twget_cbf16 : after (exec (.twget .cbf16 2 0) (st 4 2 (hc fun h => { h with twg := 0x2003 }))) (elts 32 4 2)
    = some [0x00003F80, 0xBF353F35, 0xBF800000, 0xBF35BF35] := by decide +kernel
/-- 07 worked example after R172. -/
theorem test_bfly2_xbf : after (exec (.bfly2 .xbf 6 8 (.vv 10) 0) (st 32 2 fun r => hc (fun h => { h with twg := 1 })
      ((r.setV 8 { vec 32 [0x03E9] with scale := 0x78 }).setV 10 { vec 32 [3] with scale := 0x7A })))
    (fun t => (elts 32 2 6 t, elts 32 2 7 t, (t.hart.regs.v[(6 : VIdx)]).scale.toNat, (t.hart.regs.v[(7 : VIdx)]).scale.toNat, fl t, t.hart.regs.h.twg))
    = some ([0x7EA0, 0], [0x7BA0, 0], 0x73, 0x73, 0, 0x2000000001) := by decide +kernel
/-- 07 worked example after R173: the 4-point transform of 1, 2, 3, 4 over 17 with J = 13: sums 10, 1 + 2J - 3 - 4J, -2, 1 - 2J - 3 + 4J. -/
theorem test_bfly4_m32 : after (exec (.bfly4M .m32 false 2 1 (.vi 0) 0) (st 4 2 fun r => hc (fun h => { h with twg := 0x2002, mod0 := 17, mroot := 3 })
      (r.setV 1 (vec 32 [1, 2, 3, 4])))) (elts 32 4 2) = some [10, 6, 15, 7] := by decide +kernel
/-- 07 worked example after R182. -/
theorem test_mchk_p0 : after (exec (.mchk .p0 3 4 5) (st 0 0 fun r => hc (fun h => { h with mod0 := 2013265921, mod1 := 469762049 })
      (sc [(3, 65536), (4, 32768), (5, 32768)] r))) fl = some 0x40 := by decide +kernel
theorem test_mchk_pp : after (exec (.mchk .pp 3 4 5) (st 0 0 fun r => hc (fun h => { h with mod0 := 2013265921, mod1 := 469762049 })
      (sc [(3, 65536), (4, 32768), (5, 32768)] r))) fl = some 0 := by decide +kernel
theorem test_mlift : after (exec (.mlift .m32 false 3 1 0) (st 1 2 fun r => hc (fun h => { h with mod0 := 2013265921, bnd := 2 ^ 46 })
      (r.setV 1 (vec 32 [2013265916])))) (fun t => (elts 32 1 3 t, fl t)) = some ([0xFFFFFFFB], 0) := by decide +kernel
theorem test_mcrt : after (exec (.mcrt 9 4 5 0) (st 1 3 fun r => hc (fun h => { h with mod0 := 2013265921, mod1 := 469762049, bnd := 2 ^ 46 })
      ((r.setV 4 (vec 64 [1039797763])).setV 5 (vec 64 [167382539])))) (fun t => (elts 64 1 9 t, fl t)) = some ([0xFFFFFFFED5FA0E00], 0) := by
  decide +kernel
theorem test_mmul : after (exec (.mmul .m32 false 3 1 (.vs 5) 0) (st 2 2 fun r => hc (fun h => { h with mod0 := 17 })
      (sc [(5, 13)] (r.setV 1 (vec 32 [10, 20]))))) (fun t => (elts 32 2 3 t, fl t)) = some ([11, 5], 0x80) := by decide +kernel
/-- 07 R178: digit reversal of 8 elements by one bit. -/
theorem test_vdrev : after (exec (.vdrev 5 4 1 0) (st 8 2 fun r => r.setV 4 (vec 32 [0, 1, 2, 3, 4, 5, 6, 7]))) (elts 32 8 5)
    = some [0, 4, 2, 6, 1, 5, 3, 7] := by decide +kernel

/-- 08 R189: a tile row read back; its c-th row is the one that s_b names. -/
theorem test_awrow : after (exec (.awrow 2 3 4 0) (st 2 2 fun r => sc [(4, 1)] (r.setV 3 (vec 32 [5, 6]))))
    (fun t => ((t.hart.regs.a[(2 : AIdx)]).data.toNat / 2 ^ (32 * 64)) % 2 ^ 64) = some 0x600000005 := by decide +kernel
/-- 01 R21. -/
theorem test_token_saturates : ((hart 0 0 id fun h => { h with tk := Vector.replicate 16 65535 }).token 3).tk[3] = 65535
    ∧ ((hart 0 0 id fun h => { h with tk := Vector.replicate 16 65535 }).token 3).hcr.tkovf = true := by decide +kernel
/-- 01 R28: a vector store of 128 elements of 32 bits is charged 512 bytes in P4 (the worked example of 01). -/
theorem test_store_charge : vecCharge 128 32 = 512 := by decide
/-- 00 worked example after R5: the bytes of 0x0123_4567_89AB_CDEF. -/
theorem test_little_endian : toBytes 8 0x0123456789ABCDEF = [0xEF, 0xCD, 0xAB, 0x89, 0x67, 0x45, 0x23, 0x01] := by decide
/-- 09 R200: W3 and W2 give `saff.in.fp32.go q1, s4, s5, 1024` in LOC. -/
theorem test_saff : after (exec (.saff 1 4 5 0 true 1023 .fp32 false .loc) (st 0 0 (sc [(4, 0x100), (5, 4)])))
    (fun t => let q := t.hart.regs.q[(1 : QIdx)]; (q.kind, q.complete, q.base, q.n, t.hart.pc)) = some (1, true, 0x100, 0, 0x1010) := by decide +kernel
/-- 09 R216: `tkwait` beyond the counter waits. -/
theorem test_tkwait_waits : after (exec (.tkwait 2 9) (st 0 0 (sc [(9, 1)]))) (fun t => (t.hart.stall, t.hart.pc)) = some (some .tok, 0x1000) := by
  decide +kernel

/-- 16 R382: SHA3-512 of the empty message begins with these bytes (FIPS 202's published digest). -/
theorem test_sha3_empty : ((sha3Bytes []).take 8).map (·.toNat) = [0xA6, 0x9F, 0x73, 0xCC, 0xA2, 0x3A, 0x9A, 0xC5] := by decide +kernel

/-! ### Witnesses: for each statement with hypotheses, states and operands that meet them -/

/-- A task of one logical Spire, and its team, placed on Spire 0. -/
def task0 : Task :=
  { ctx := 1, kind := 0, prio := 0, pmode := 0, cosched := true, nspire := 1, entry := 0x1000, image := 0, n := 0, handle := 5,
    succ := [], payload := [], count := 0, ready := true, since := 0, aged := 0, order := 0, enq := none, readyNo := 0 }
def team0 : Team :=
  { task := task0, st := .running, place := [some 0], held := [some 0], since := 0, expired := false, farm := ⟨false, 0, 1, 0, []⟩,
    bars := List.replicate 64 ⟨0, []⟩, latest := [], saveSlot := none, fabric := [], cmds := [], freezing := false,
    preempting := false, evict := [], frozenAt := 0, colls := [], arrs := [], ending := false, orig := none, words := [], source := none }
def context1 : Context :=
  { id := 1, ptroot := 0, hptroot := 0, desc := 0x100000, cblog := 0, cbloglen := 0, cblogseq := 0, ovfbase := 0, ovflen := 0,
    ovfhwm := 0, ovfused := 0, cxsave := 0, cxslots := 0, launched := none, slots := [] }
/-- The frame that holds page 0 of logical Spire 0 of the team on Spire 0. -/
def frame0 : Frame := ⟨0, 1, 0, true, false, false, false, false, none⟩
/-- A leaf of 1 GiB at 0 that the TLB of Spire 0 keeps for context 1. -/
def leaf0 : TlbEntry := ⟨.spire 0, 1, false, 0, 0x40000000, true, true, true, 0⟩
/-- The part with one context, one team and hart h, the first page of its scratchpad resident, and its code mapped. -/
def part (h : Hart) : State :=
  { State.reset with hart := h, contexts := [context1], frames := [frame0], tlb := [leaf0],
                         dist := { Distributor.reset with teams := [team0] } }
/-- An instruction block that the cache of Spire 0 keeps at 0x1000: `add s1, s2, s3` and then `halt`. -/
def block : List Byte := toBytes 16 (0x04221800 + 0x54600000 * 2 ^ 32)
/-- A canonical memory. -/
def mem1 : Mem := ⟨[(5, 1), (9, 2)], [1]⟩

/-- Elements below VL are all that `writes` selects. -/
theorem below_vl {h : Hart} {m : MIdx} {p : Nat → Prop} (n : Nat) (hv : h.vl = n) (hp : ∀ i, i < n → p i) : ∀ i, h.writes m i → p i :=
  fun i hi => hp i (hv ▸ hi.1)

theorem witness_StepRunsDecoded : let s := { part (hart 4 2 id id) with icache := [(0, 1, 0x1000, block)] }
    s.agenda = [] ∧ s.canRun = true ∧ s.hart.doing = none
    ∧ (s.fetchBlock s.hart (s.hart.pc.toNat / 16 * 16)).toOption = some (block.map fun x => (x, false))
    ∧ (∀ x ∈ block.map fun x => (x, false), x.2 = false)
    ∧ decodeBlock ((block.map fun x => (x, false)).map (·.1)) (s.hart.pc.toNat / 4 * 4 % 16) = some (.add 1 2 3, 4)
    ∧ s.arraysAway (.add 1 2 3) = false
    ∧ leaf0 ∈ s.tlb ∧ leaf0.place = .spire s.hart.phys ∧ leaf0.covers s.hart.id.ctx false (s.hart.pc.toNat / 16 * 16) = true := by decide +kernel
/-- The second clause, at a word that decodes to nothing: 0 at offset 8 of the same block. -/
theorem witness_StepOtherwise_illegal : let s := { part (hart 4 2 id fun h => { h with pc := 0x1008 }) with icache := [(0, 1, 0x1000, block)] }
    s.agenda = [] ∧ s.canRun = true ∧ s.hart.doing = none
    ∧ (s.fetchBlock s.hart (s.hart.pc.toNat / 16 * 16)).toOption = some (block.map fun x => (x, false))
    ∧ decodeBlock ((block.map fun x => (x, false)).map (·.1)) (s.hart.pc.toNat / 4 * 4 % 16) = none := by decide +kernel
/-- An event that the package takes, and one that a package in reset does not. -/
theorem witness_StepOtherwise_event : let s := { part (hart 4 2 id id) with agenda := [.event .hostSnoop .nothing] }
    s.agenda = .event .hostSnoop .nothing :: [] ∧ isEvent .hostSnoop = true ∧ s.admits (.event .hostSnoop .nothing) = true
    ∧ ({ s with belfry := { s.belfry with inReset := true } } : State).admits (.event .hostSnoop .nothing) = false := by decide +kernel
/-- The write of a register that has a step of its own; a fence in progress, which goes on without a fetch. -/
theorem witness_StepOtherwise_register : let a : Input := .mgrWrite 0 true 0x01030000 1
    let s := { part (hart 4 2 id fun h => { h with doing := some (.fence .die), hcr := { h.hcr with sstate := 2 } }) with
      belfry := { Belfry.reset with booted := true } }
    s.agenda = [] ∧ a.regStep = some (.registerWrite, .reg ⟨.dctl, .firmware, 1⟩) ∧ s.admits a = true ∧ s.canRun = true ∧ s.hart.doing = some (.fence .die)
    ∧ s.arraysAway (.fence .die) = false := by decide +kernel
/-- A long form at 0x4000 (`sidx q1, s2` with go) whose last two words are poisoned. -/
theorem witness_StepOtherwise_poison :
    let s := { part (hart 4 2 id fun h => { h with pc := 0x4000 }) with
      dev := { Mem.empty.setN 0x4000 4 0xFC220002 with bad := [0x801] } }
    s.agenda = [] ∧ s.canRun = true ∧ s.hart.doing = none ∧ (match s.fetchBlock s.hart (s.hart.pc.toNat / 16 * 16) with
      | .ok blk => decide ((leNat ((blk.map (·.1)).take 4)) / 2 ^ 26 = 0x3F) && ((blk.drop 0).take 16).any (·.2) && !((blk.drop 0).take 4).any (·.2)
      | .error _ => false) = true := by decide +kernel
/-- `vadd.i32 v1, v2, v3` of a hart whose arrays have not moved in. -/
theorem witness_StepOtherwise_away : let b := toBytes 16 0x82221820
    let s := { part (hart 4 2 id fun h => { h with away := true }) with icache := [(0, 1, 0x1000, b)] }
    s.agenda = [] ∧ s.canRun = true ∧ s.hart.doing = none
    ∧ (s.fetchBlock s.hart (s.hart.pc.toNat / 16 * 16)).toOption = some (b.map fun x => (x, false))
    ∧ (decodeBlock ((b.map fun x => (x, false)).map (·.1)) 0).map (fun y => s.arraysAway y.1) = some true
    ∧ after (exec (.vaddI .w32 1 2 (.vv 3) 0) s.fetched) (fun u => u.hart.stall) = some none := by decide +kernel
theorem witness_StepKeepsMemoryCanonical : let s := { part (hart 4 2 id id) with agenda := [.event .hostSnoop .nothing], dev := mem1 }
    (s.dev.wf && s.host.wf && s.spad.wf && s.sdm.wf) = true ∧ after (step s) (fun t => t.dev) = some mem1 := by decide +kernel
theorem witness_MemoryContents : mem1.wf = true ∧ Mem.empty.wf = true ∧ [(1 : Byte)] ≠ [] := by decide

theorem witness_BranchesComplete : let h := hart 4 2 (fun r => (r.setM 1 ⟨0b1000, 0⟩).setS 2 0x2000 false) id
    (h.bad 1 || h.bad 2) = false ∧ (∀ i, i < h.vl → (h.regs.getM 1).isBad h.ew i = false) ∧ (h.s 2 + (1#16).signExtend 64 * 4#64).toNat % 4 = 0 := by
  decide +kernel
/-- An active element of m1 exists (the last below VL); none of m2 does. -/
theorem witness_BranchesComplete_any : let h := hart 4 2 (fun r => r.setM 1 ⟨0b1000, 0⟩) id
    (∃ i, i < h.vl ∧ (h.regs.getM 1).on h.ew i = true) ∧ ¬ ∃ i, i < h.vl ∧ (h.regs.getM 2).on h.ew i = true := by decide +kernel
theorem witness_ScalarTraps_branch : let h := hart 4 2 (fun r => (r.setM 1 ⟨0, 0b1100⟩).setS 2 0x2002 false |>.setS 3 0 true) id
    (h.bad 2 || h.bad 3) = true ∧ h.bad 3 = true ∧ h.bad 2 = false ∧ (h.s 2 + (0#16).signExtend 64 * 4#64).toNat % 4 ≠ 0
    ∧ 2 < h.vl ∧ (h.regs.getM 1).isBad h.ew 2 = true ∧ ∀ j, j < 2 → (h.regs.getM 1).isBad h.ew j = false := by decide +kernel
/-- At the boundary: 8 bytes more than the capacity of 64 KiB less 7. -/
theorem witness_ScalarTraps_capacity : let h := hart 4 2 (fun r => r.setS 3 0 true) fun h => { h with charge := 65529 }
    h.bad 3 = true ∧ h.bad 2 = false ∧ h.capacity < h.charge + 8 := by decide +kernel
/-- 1 / 0 raises dz, which is enabled with nv; the modulus 2 is not allowed. -/
theorem witness_ScalarTraps_flags : let h := hart 4 2 (fun r => hc (fun x => { x with fenable := 0x98 }) (sc [(1, 0x3F800000), (3, 2)] r)) id
    (SFmt.fp32.fp.div h.rnd h.fz ((h.s 1).toNat % 2 ^ SFmt.fp32.width) ((h.s 2).toNat % 2 ^ SFmt.fp32.width)).2 &&& h.regs.h.fenable &&& 0x003F#16 ≠ 0#16
    ∧ h.bad 3 = false ∧ modValid (h.s 3) = false ∧ h.regs.h.fenable &&& 0x0080#16 ≠ 0#16 := by decide +kernel
theorem witness_ScalarTraps_sqrt : let h := hart 4 2 (fun r => hc (fun x => { x with fenable := 0x10 }) (sc [(1, 0xBF800000)] r)) id
    (SFmt.fp32.fp.sqrt h.rnd h.fz ((h.s 1).toNat % 2 ^ SFmt.fp32.width)).2 &&& h.regs.h.fenable &&& 0x003F#16 ≠ 0#16 := by decide +kernel
/-- The last doubleword of the scalar data memory; a byte of the buffer is read first. -/
theorem witness_ScalarLoadsComplete : let s := part (hart 4 2 (sc [(1, 0x20FFF8)]) id)
    s.hart.bad 1 = false ∧ (false && s.hart.lateGlb) = false
    ∧ (s.pieces s.hart.who .loc .load .load ⟨true, false, false⟩ (s.hart.s 1 + (0#13).signExtend 64).toNat 8).toOption = some [⟨.sdm 0 0xFFF8, 0x20FFF8, 8⟩]
    ∧ (readPieces (s.ownByte s.hart) [⟨.sdm 0 0xFFF8, 0x20FFF8, 8⟩]).any (·.2) = false := by decide +kernel
theorem witness_ScalarLoadsComplete_poison : let s := { part (hart 4 2 (sc [(1, 0x20FFF8)]) id) with sdm := ⟨[], [0x1FFF]⟩ }
    (readPieces (s.ownByte s.hart) [⟨.sdm 0 0xFFF8, 0x20FFF8, 8⟩]).any (·.2) = true := by decide +kernel
/-- A store into the last free bytes of the capacity, at a resident byte of the scratchpad; s3 is poisoned, s2 is not. -/
theorem witness_ScalarStoresComplete : let s := part (hart 4 2 (fun r => (sc [(1, 0x7FF8)] r).setS 3 0 true) fun h => { h with charge := 65528 })
    s.hart.bad 1 = false ∧ s.hart.charge + 8 ≤ s.hart.capacity
    ∧ (s.pieces s.hart.who .loc .store .store ⟨false, true, false⟩ (s.hart.s 1 + (0#13).signExtend 64).toNat 8).toOption = some [⟨.spad 0 0x7FF8, 0x7FF8, 8⟩]
    ∧ s.hart.bad 2 = false ∧ s.hart.bad 3 = true := by decide +kernel
theorem witness_flags_masked : (hart 4 2 id id).regs.h.fenable &&& 0x00FF#16 = 0#16 := by decide +kernel
theorem witness_ScalarFloatCompletes : (hart 4 2 id id).flagsMasked := witness_flags_masked
theorem witness_ScalarConversionsComplete : (hart 4 2 (hc fun h => { h with rmode := 4 }) id).flagsMasked
    ∧ (hart 4 2 (hc fun h => { h with rmode := 4 }) id).regs.h.rmode = 4#3 ∧ (hart 4 2 id id).regs.h.rmode ≠ 4#3 := by
  unfold Hart.flagsMasked; decide +kernel

theorem witness_StripCloses : (hart 4 2 id id).fresh = true ∧ (hart 4 2 id fun h => { h with fresh := false }).fresh = false
    ∧ (hart 4 2 id fun h => { h with fresh := false }).buf = [] := by decide +kernel
/-- A strip that holds one entry; a store of bytes at a location, poisoned or not. -/
def holding (e : BufEntry) : State := part (hart 4 2 id fun h => { h with fresh := false, charge := 64, buf := [e] })
def unitAt (l : Loc) (va : Nat) (bs : List Byte) (bad : Bool) : StoreUnit := ⟨l, va, bs, bad, false⟩
/-- The last bytes of the scalar data memory. -/
def stored : State := holding (.store [unitAt (.sdm 0 0xFFFE) 0x20FFFE [1, 2] false])
/-- The last bytes of a page of the scratchpad under the poison code, a saved stream register, and stores at the end of an aligned word. -/
theorem witness_StripCommits_stores : ∀ u ∈ [unitAt (.spad 0 0x7FFE) 0x7FFE [1, 2] true, unitAt (.sdm 0 0xFFFE) 0x20FFFE [1, 2] false,
      unitAt (.sdm 0 0xFFC0) 0x20FFC0 (List.replicate 64 7) false, unitAt (.dev 0x3006) 0x3006 [1, 2] false, unitAt (.host 0x3006) 0x3006 [1, 2] true],
    (holding (.store [u])).hart.fresh = false ∧ u.bytes ≠ [] ∧ (holding (.store [u])).hart.buf = [.store [u]]
    ∧ (holding (.store [u])).shut (holding (.store [u])).hart.phys u = false ∧ (holding (.store [u])).spad.wf = true
    ∧ (holding (.store [u])).sdm.wf = true ∧ 0x3006 % 8 + 2 ≤ 8 := by decide +kernel
/-- A command with room in its engine, and a farm entry whose first range has been taken. -/
def command0 : CmdWords := ⟨0xFC400000, 0, 0, 0, 0x20FFFE, 0x200000, 2⟩
theorem witness_StripCommits_command : let s := holding (.cmd command0)
    s.hart.buf = [.cmd command0]
    ∧ (match s.drain (fun f => f.onPath s.hart.phys) with
      | .ok r => decide ((r.cmds.filter fun x => x.waits (s.hart.phys / 64 * 8 + s.hart.phys % 64 / 8)).length < 64)
      | .error _ => false) = true
    ∧ (holding (.farm 8 4 (some 4))).hart.buf = [.farm 8 4 (some 4)]
    ∧ (holding (.farm 8 4 (some 4))).team 1 0 = some team0 := by decide +kernel
theorem witness_ProgramTraps_handler : let h := hart 4 2 id fun h => { h with hcr := { h.hcr with tvec := 0x4000 } }
    h.hcr.tvec ≠ 0#64 ∧ h.inHandler = false := by decide +kernel
theorem witness_ProgramTraps_runtime : let s := part (hart 4 2 id id)
    s.hart.hcr.tvec = 0#64 ∧ s.rings[s.hart.phys / 16]? = some FaultRing.reset ∧ FaultRing.reset.base.toNat / 8192 = 0 := by decide +kernel
/-- A strip that has run, with a handler: it closes, and nothing asks the hart to leave (closesTo). -/
def ran : State := part (hart 4 2 id fun h => { h with fresh := false, hcr := { h.hcr with tvec := 0x4000 } })
theorem witness_SoftwareTrapsComplete : (ran.close.toOption.map fun t => (t.2, t.1.hart.asked, decide (t.1.hart.hcr.tvec ≠ 0#64), t.1.hart.inHandler))
    = some (true, false, true, false) := by decide +kernel
/-- The same strip without a handler, in a Cupola without a fault ring. -/
theorem witness_SoftwareTrapsComplete_runtime : let s := part (hart 4 2 id fun h => { h with fresh := false })
    (s.close.toOption.map fun t => (t.2, t.1.hart.asked, decide (t.1.hart.hcr.tvec = 0#64), t.1.rings[t.1.hart.phys / 16]?))
      = some (true, false, true, some FaultRing.reset) ∧ FaultRing.reset.base.toNat / 8192 = 0 := by decide +kernel
theorem witness_closesTo : ∃ t, ran.closesTo t := by
  have h : (ran.close.toOption.map fun t => (t.2, t.1.hart.asked)) = some (true, false) := by decide +kernel
  unfold State.closesTo
  match e : ran.close with
  | .error _ => simp [e, Except.toOption] at h
  | .ok (t, d) =>
    simp [e, Except.toOption] at h
    exact ⟨t, h.1 ▸ rfl, .inr h.2⟩
theorem witness_TeretCompletes : ∃ t, ran.closesTo t := witness_closesTo
theorem witness_HaltCompletes : ∃ t, ran.closesTo t := witness_closesTo
theorem witness_StripOpeningCompletes : (ran.close.toOption.bind fun t => (t.1.performed .package).toOption.map fun u => (t.2, t.1.hart.asked, u.hart.fresh))
    = some (true, false, true) ∧ ran.hart.bad 1 = false ∧ (hart 4 2 (fun r => r.setS 1 0 true) id).bad 1 = true := by decide +kernel
/-- Numbers of every kind: a team HCR at each end of the list, unlisted ones beside them, and an unlisted one past the privileged ones. -/
theorem witness_HcrReadCompletes : teamHcr 0 ∧ teamHcr 0x02F ∧ ¬ teamHcr (0x00D#16).toNat ∧ (0x00D#16).toNat < 0x100 ∧ ¬ teamHcr (0x105#16).toNat
    ∧ 0x104 < (0x105#16).toNat := by unfold teamHcr; decide
theorem witness_HcrWriteCompletes : let h := hart 4 2 (sc [(1, 4), (2, 5), (3, 3), (4, 2)]) id
    h.bad 1 = false ∧ (h.s 1).toNat % 8 < 5 ∧ 5 ≤ (h.s 2).toNat % 8 ∧ modValid (h.s 3) = true ∧ modValid (h.s 4) = false
    ∧ h.regs.h.fenable &&& 0x00FF#16 = 0#16 ∧ (hart 4 2 (fun r => r.setS 1 0 true) id).bad 1 = true := by decide +kernel

/-- A hart with tokens in counters 0 and 15, and a barrier in which nobody has arrived. -/
def waiter : State := part (hart 4 2 (sc [(1, 0x8001), (2, 3)]) fun h => { h with tk := Vector.replicate 16 2 })
theorem witness_SynchronisationCompletes : waiter.hart.fresh = true ∧ waiter.hart.buf = [] ∧ (∀ n : TkIdx, waiter.hart.tkPend[n] = 0)
    ∧ waiter.hart.bad 1 = false ∧ (∀ n : TkIdx, (waiter.hart.s 1).getLsbD n.val = true → waiter.hart.tk[n] ≠ 0#16)
    ∧ waiter.team waiter.hart.id.ctx waiter.hart.id.team = some team0 ∧ team0.task.cosched = true ∧ waiter.flight = []
    ∧ team0.lastArrival waiter.hart.id.lhid 63 ≠ some (team0.bar 63).episode ∧ 63 < team0.bars.length := by decide +kernel
/-- A team launched without the co-scheduled flag, after its strip has closed. -/
theorem witness_SynchronisationCompletes_illegal :
    let s := { waiter with dist := { waiter.dist with teams := [{ team0 with task := { task0 with cosched := false } }] } }
    (s.close.toOption.map fun t => (t.2, s.hart.fresh, (t.1.team t.1.hart.id.ctx t.1.hart.id.team).map fun x => x.task.cosched))
      = some (true, true, some false) := by decide +kernel
/-- A fence while a store of the hart is at the Spire's interface and a HOST store at the port; and one whose line the host holds. -/
def fencing : State :=
  { waiter with flight := [⟨some ⟨1, 0, 0⟩, 0, 0, [unitAt (.dev 0x3006) 0x3006 [1, 2] false]⟩],
                hostOut := [⟨some ⟨1, 0, 0⟩, 0, 0, [unitAt (.host 0x3006) 0x3006 [1, 2] false]⟩] }
def fenceEnds (s : State) (sc : Scope) : Option Bool :=
  s.close.toOption.map fun t => t.2 && s.hart.fresh && t.1.hart.buf.isEmpty && ((t.1.inTerm (.fence sc)).performed sc).toOption.isSome
theorem witness_SynchronisationCompletes_fences : ([Scope.cupola, .die, .package, .system].map (fenceEnds fencing)) = List.replicate 4 (some true)
    ∧ fenceEnds { fencing with hostLines := [0x3006 / 64] } .die = some false := by decide +kernel
/-- A count that the counter just covers, and one more. -/
theorem witness_TkwaitCompletes : waiter.hart.bad 2 = false ∧ waiter.hart.tkPend[(0 : TkIdx)] + (2#64).toNat % 65536 ≤ (waiter.hart.tk[(0 : TkIdx)]).toNat
    ∧ (waiter.hart.tk[(0 : TkIdx)]).toNat < waiter.hart.tkPend[(0 : TkIdx)] + (waiter.hart.s 2).toNat % 65536 := by decide +kernel
/-- `await` of counter 15, which is 0, in an empty strip. -/
theorem witness_TkwaitCompletes_await : let s := part (hart 4 2 (sc [(1, 0x8000)]) id)
    (s.close.toOption.map fun t => (t.2, s.hart.fresh, t.1.hart.bad 1, (t.1.hart.s 1).getLsbD 15, t.1.hart.tk[(15 : TkIdx)]))
      = some (true, true, false, true, 0#16) := by decide +kernel
theorem witness_FarmCompletes : ran.hart.charge + 64 ≤ ran.hart.capacity ∧ 1 ≤ (30 : SReg).val ∧ (30 : SReg).val ≤ 30
    ∧ ran.team ran.hart.id.ctx ran.hart.id.team = some team0 ∧ ((0 : SReg) = 0 ∨ (0 : SReg) = 31) ∧ ran.hart.buf = []
    ∧ (holding (.farm 8 4 none)).hart.buf = [] ++ .farm 8 4 none :: [] := by decide +kernel
/-- Four farms, one for each clause: a pending claim, none started, nothing left, one range left. -/
theorem witness_FarmGivesRanges :
    (⟨true, 8, 4, 4, [⟨0, 0, 4, true⟩]⟩ : Farm).claims.find? (fun c => c.lhid == 0 && c.pending) = some ⟨0, 0, 4, true⟩
    ∧ (⟨false, 0, 1, 0, []⟩ : Farm).claims.find? (fun c => c.lhid == 0 && c.pending) = none
    ∧ (⟨true, 8, 4, 8, []⟩ : Farm).total ≤ (⟨true, 8, 4, 8, []⟩ : Farm).cursor ∧ (⟨true, 8, 4, 7, []⟩ : Farm).cursor < (⟨true, 8, 4, 7, []⟩ : Farm).total := by
  decide

/-- A hart at EW 32 and one at EW 64, VL 4, under a mask with its last bit below VL alone set; no stream, no flag enabled. -/
def vh : Hart := hart 4 2 (fun r => sc [(2, 1), (3, 65536), (4, 64)] (hc (fun h => { h with twg := 0x2003, mod0 := 17, mod1 := 19, mroot := 3 }) (r.setM 1 ⟨0b1000, 0⟩))) id
def vh64 : Hart := hart 4 3 (fun r => hc (fun h => { h with twg := 0x2003, mod0 := 17, mod1 := 19 }) (r.setM 1 ⟨0b1000, 0⟩)) id
def vh16 : Hart := hart 4 1 (fun r => r.setM 1 ⟨0b1000, 0⟩) id
def vh8 : Hart := hart 4 0 (fun r => r.setM 1 ⟨0b1000, 0⟩) id

theorem detached_of (h : Hart) (hd : ∀ q : QIdx, (h.regs.q[q]).att = false) : h.detached := hd
theorem sound_of (h : Hart) (m : MIdx) (hm : ∀ i, i < h.vl → (h.regs.getM m).isBad h.ew i = false) : h.maskSound m := hm
theorem masked_of (h : Hart) (hf : h.regs.h.fenable &&& 0x00FF#16 = 0#16) : h.flagsMasked := hf
theorem wide_of (h : Hart) (hw : h.ew = 8 ∨ h.ew = 16 ∨ h.ew = 32 ∨ h.ew = 64) : h.ewWide := hw

theorem witness_vh : vh.detached ∧ vh.maskSound 1 ∧ vh.flagsMasked ∧ vh.ewWide :=
  ⟨detached_of _ (by decide +kernel), sound_of _ _ (by decide +kernel), masked_of _ (by decide +kernel), wide_of _ (by decide +kernel)⟩
theorem witness_vh64 : vh64.detached ∧ vh64.maskSound 1 ∧ vh64.flagsMasked ∧ vh64.ewWide :=
  ⟨detached_of _ (by decide +kernel), sound_of _ _ (by decide +kernel), masked_of _ (by decide +kernel), wide_of _ (by decide +kernel)⟩
theorem witness_vh16 : vh16.detached ∧ vh16.maskSound 1 ∧ vh16.flagsMasked ∧ vh16.ewWide :=
  ⟨detached_of _ (by decide +kernel), sound_of _ _ (by decide +kernel), masked_of _ (by decide +kernel), wide_of _ (by decide +kernel)⟩
theorem witness_vh8 : vh8.detached ∧ vh8.maskSound 1 ∧ vh8.flagsMasked ∧ vh8.ewWide :=
  ⟨detached_of _ (by decide +kernel), sound_of _ _ (by decide +kernel), masked_of _ (by decide +kernel), wide_of _ (by decide +kernel)⟩
/-- The element at the edge of VL is active, one past it is not. -/
theorem witness_active : vh.writes 1 3 ∧ ¬ vh.writes 1 4 := ⟨by unfold Hart.writes; decide +kernel, fun h => absurd h.1 (by decide +kernel)⟩

theorem witness_VectorIntegerCompletes : (vh64.detached ∧ vh64.maskSound 1 ∧ vh64.ew = IWidth.w64.bits) ∧ vh8.detached ∧ vh8.maskSound 1
    ∧ vh8.ew = IWidth.w8.bits := ⟨⟨witness_vh64.1, witness_vh64.2.1, by decide +kernel⟩, witness_vh8.1, witness_vh8.2.1, by decide +kernel⟩
theorem witness_VectorComparesComplete : (vh.detached ∧ vh.maskSound 1 ∧ vh.ew = IWidth.w32.bits) ∧ vh16.detached ∧ vh16.maskSound 1 ∧ vh16.flagsMasked
    ∧ vh16.ew = FFmt.bf16.width :=
  ⟨⟨witness_vh.1, witness_vh.2.1, by decide +kernel⟩, witness_vh16.1, witness_vh16.2.1, witness_vh16.2.2.1, by decide +kernel⟩
/-- EW for a vector format, for FP8, and for a complex format. -/
theorem witness_VectorFloatCompletes : (vh64.detached ∧ vh64.maskSound 1 ∧ vh64.flagsMasked) ∧ vh64.ew = FFmt.fp64.width ∧ vh8.ew = 8
    ∧ vh64.ew = 2 * CFmt.cfp32.comp ∧ vh.ew = 2 * CFmt.cbf16.comp := ⟨⟨witness_vh64.1, witness_vh64.2.1, witness_vh64.2.2.1⟩, by decide +kernel⟩
/-- A pair without scale, one with a modifier, one to 4 bits, one to an XBF format, and the two sides of an MX conversion. -/
theorem witness_ConversionsComplete : (vh.detached ∧ vh.maskSound 1 ∧ vh.flagsMasked)
    ∧ (cvtPair .bf16 .fp32 = true ∧ vh.ew = max (fmtWidth .bf16) (fmtWidth .fp32) ∧ Format.bf16.group ≠ .x ∧ 8 ≤ fmtWidth .bf16 ∧ vh.regs.h.rmode ≠ 4#3)
    ∧ (cvtPair .i8 .i32 = true ∧ cvtMod .i8 .i32 = true ∧ Format.i32.group ≠ .f ∧ Format.i8.group ≠ .x) ∧ vh.ew = 32 ∧ vh16.ew = 16
    ∧ (cvtPair .e2m1 .fp32 = true ∧ vh.ew = max (fmtWidth .e2m1) (fmtWidth .fp32) ∧ Format.e2m1.group ≠ .x ∧ fmtWidth .e2m1 = 4)
    ∧ (cvtPair .rxbf .bf16 = true ∧ vh16.ew = max (fmtWidth .rxbf) (fmtWidth .bf16) ∧ Format.rxbf.group = .x) :=
  ⟨⟨witness_vh.1, witness_vh.2.1, witness_vh.2.2.1⟩, by decide +kernel⟩
theorem witness_MaskOperationsComplete : vh.detached ∧ vh.maskSound 1 ∧ vh.ewWide := ⟨witness_vh.1, witness_vh.2.1, witness_vh.2.2.2⟩
/-- A clean slide count, and an element number just below and just past VLMAX (512 at EW 32). -/
theorem witness_VectorMovesComplete : (vh.detached ∧ vh.ewWide ∧ vh.maskSound 1) ∧ (∀ r, BOpS.vs 2 = .vs r → vh.bad r = false) ∧ vh.bad 2 = false
    ∧ (vh.s 2).toNat < vh.lanes * 512 / vh.ew ∧ vh.lanes * 512 / vh.ew ≤ (vh.s 3).toNat :=
  ⟨⟨witness_vh.1, witness_vh.2.2.2, witness_vh.2.1⟩, fun r h => by cases h; decide +kernel, by decide +kernel⟩
/-- VL 0 and VL 4; a floating-point and an integer group at their width. -/
theorem witness_ReductionsComplete : (vh.detached ∧ vh.maskSound 1 ∧ vh.flagsMasked) ∧ vh.ew = redWidth .fp32 ∧ 0 < vh.vl ∧ redFp .fp32 = some fpFP32
    ∧ redFp .i32 = none ∧ vh.ew = redWidth .i32 ∧ vh.ew = IWidth.w32.bits ∧ (hart 0 2 id id).vl = 0 :=
  ⟨⟨witness_vh.1, witness_vh.2.1, witness_vh.2.2.1⟩, rfl, by decide +kernel, rfl, rfl, rfl, rfl, by decide +kernel⟩
/-- A modulus that serves the width and one that does not; the operands of `mchk` are clean. -/
theorem witness_ResidueCompletes : (vh.detached ∧ vh.flagsMasked ∧ vh.maskSound 1 ∧ vh.ewWide) ∧ vh.ew = MWidth.m32.bits ∧ vh.regs.h.mod0.toNat < 2 ^ 32
    ∧ vh64.ew = 64 ∧ vh.bad 2 = false ∧ vh.bad 3 = false ∧ vh.bad 4 = false ∧ ¬ (MWidth.m32 = .m64 ∨ (2 : Nat) ^ 40 < 2 ^ 32) :=
  ⟨⟨witness_vh.1, witness_vh.2.2.1, witness_vh.2.1, witness_vh.2.2.2⟩, by decide +kernel⟩
/-- logn 3 serves `bfly2` and `bfly4`; register numbers at their limits. -/
theorem witness_TransformCompletes : (vh.detached ∧ vh.maskSound 1 ∧ vh.flagsMasked ∧ vh.ewWide) ∧ vh.bad 2 = false
    ∧ (1 ≤ vh.regs.h.twg.toNat % 64 ∧ vh.regs.h.twg.toNat % 64 ≤ 32) ∧ (2 ≤ vh.regs.h.twg.toNat % 64 ∧ vh.regs.h.twg.toNat % 64 ≤ 32)
    ∧ vh.ew = twWidth .cbf16 ∧ TwFmt.cbf16 ≠ .xbf ∧ vh.ew = bflyWidth .cbf16 ∧ BflyT.cbf16 ≠ .rxbf ∧ bflyLimit false 30 31 (.vv 31) = true
    ∧ bflyLimit true 28 30 (.vv 30) = true ∧ (30 : VIdx).val ≤ 30 ∧ vh.ew = MWidth.m32.bits ∧ 1 ≤ (8#5).toNat ∧ (8#5).toNat ≤ 8
    ∧ vh.ew = (if true then 32 else 16) ∧ vh16.ew = bflyWidth .rxbf :=
  ⟨⟨witness_vh.1, witness_vh.2.1, witness_vh.2.2.1, witness_vh.2.2.2⟩, by decide +kernel⟩
/-- EW 8 for `opa.e4m3`, 32 for the tile moves; a line within the side and one past it (the side is 64 in P1). -/
theorem witness_TilesComplete : (vh8.detached ∧ vh8.maskSound 1 ∧ vh8.flagsMasked) ∧ vh8.ew = opaWidth .e4m3 ∧ (vh.detached ∧ vh.maskSound 1) ∧ vh.ew = 32
    ∧ vh.bad 2 = false ∧ (vh.s 2).toNat < 64 ∧ 64 ≤ (vh.s 4).toNat :=
  ⟨⟨witness_vh8.1, witness_vh8.2.1, witness_vh8.2.2.1⟩, by decide +kernel, ⟨witness_vh.1, witness_vh.2.1⟩, by decide +kernel⟩

/-- A hart with every flag enabled: in FP32 the quotients of element 0 are 1 / 1, that of element 1 is 0 / 0 and raises nv. -/
def vhx : Hart :=
  hart 2 2 (fun r => hc (fun h => { h with fenable := 0x80FF }) ((r.setV 1 (vec 32 [0x3F800000, 0])).setV 2 (vec 32 [0x3F800000, 0]))) id
theorem witness_flagTraps : let f := fun (j : Nat) =>
      let x := (vhx.regs.v[(1 : VIdx)]).elt 32 j
      let y := (vhx.regs.v[(2 : VIdx)]).elt 32 j
      let r := fpFP32.div vhx.rnd vhx.fz x.val y.val
      ((⟨r.1, x.bad || y.bad⟩ : Elt), r.2)
    vhx.writes 0 1 ∧ vhx.trapFlags (f 1) ≠ 0 ∧ (∀ k, k < 1 → vhx.writes 0 k → vhx.trapFlags (f k) = 0) :=
  ⟨by unfold Hart.writes; decide +kernel, by decide +kernel, fun k hk _ => by interval_cases k; decide +kernel⟩
/-- Of a list of elements with their flags the second raises an enabled one; the hart with no flag enabled has none. -/
theorem witness_doneOrTraps : ([(0, (0 : FlagSet)), (3, flNx)].find? fun y => vhx.enabledOf y.2 != 0) = some (3, flNx)
    ∧ ∀ x ∈ [(0, (0 : FlagSet)), (3, flNx)], vh.enabledOf x.2 = 0 := by decide +kernel
/-- A tree whose first combination raises nv, which is enabled; `mchk` and a modulus that serves no width, with mrange enabled. -/
theorem witness_ReductionsComplete_trap : (([flNv, 0].find? fun f => f &&& vhx.regs.h.fenable &&& 0x00FF#16 != 0#16) = some flNv)
    ∧ (flMrange ||| flMovf) &&& vhx.regs.h.fenable ≠ 0#16 ∧ 0 < vhx.vl := by decide +kernel

/-- A hart at a width code, with a TWG, mask m1 poisoned at element 3 of 4, an index register whose element 2 is poisoned, poisoned s1 and clean s2. -/
def trapper (ew : BitVec 3) (twg : Word) : Hart :=
  hart 4 ew (fun r => hc (fun h => { h with twg := twg })
    (((r.setM 1 ⟨0b0100, 0b1000⟩).setV 2 ⟨0, 0, 0xF00, 0⟩).setS 1 0 true)) id
theorem witness_VectorTraps_masks : ∀ e ∈ [(0#3, 8), (1#3, 16), (2#3, 32), (3#3, 64)], let h := trapper e.1 0x2003
    h.ew = e.2 ∧ 3 < h.vl ∧ (h.regs.getM 1).isBad h.ew 3 = true ∧ (∀ i, i < 3 → (h.regs.getM 1).isBad h.ew i = false) := by decide +kernel
theorem witness_VectorTraps : (∀ q : QIdx, ((trapper 2 0).regs.q[q]).att = false) ∧ (trapper 4 0).ew = 4 ∧ 4 ∉ [8, 16, 32, 64]
    ∧ (trapper 2 0).regs.h.twg.toNat % 64 = 0 ∧ 32 < (trapper 2 33).regs.h.twg.toNat % 64 ∧ (trapper 2 1).regs.h.twg.toNat % 64 = 1
    ∧ (trapper 2 0).bad 1 = true ∧ (trapper 2 0).bad 2 = false ∧ 1 ≤ (8#5).toNat ∧ (8#5).toNat ≤ 8
    ∧ (cvtPair .bf16 .fp32 = true ∧ cvtMod .bf16 .fp32 = true ∧ (trapper 2 0).ew = max (fmtWidth .bf16) (fmtWidth .fp32)) := by decide +kernel
/-- The index of element 2, which the mask does not leave out, is the lowest poisoned one. -/
theorem witness_VectorTraps_index : let h := trapper 2 0
    let ixBad := fun (i : Nat) => (h.regs.getM 1).isBad h.ew i || ((h.regs.getM 1).on h.ew i && ((h.regs.v[(2 : VIdx)]).elt h.ew i).bad)
    2 < h.vl ∧ ixBad 2 = true ∧ ∀ i, i < 2 → ixBad i = false := by decide +kernel
/-- A strip-terminal access as the first instruction of a strip, at a width that suits it and at one that does not. -/
theorem witness_VectorTraps_terminal : (∀ e ∈ [2#3, 3#3, 4#3], (({ part (trapper e 0) with agenda := [] } : State).close.toOption.map fun t =>
      (t.2, (trapper e 0).fresh, t.1.hart.begun, t.1.hart.bad 1)) = some (true, true, false, true))
    ∧ (trapper 2 0).ew ∈ [32, 64] ∧ (trapper 3 0).ew ∈ [64] ∧ (trapper 2 0).ew ∈ atomWidths .add ∧ (30 : VIdx).val < 31 := by decide +kernel

/-- A hart whose base s1 is 0x100 and whose stride s2 is -4, with indices 0 to 3 in v2; element 3 alone is active under m1. -/
def loader : State := part (hart 4 2 (fun r => (sc [(1, 0x100), (2, 0xFFFFFFFFFFFFFFFC)] (r.setM 1 ⟨0b1000, 0⟩)).setV 2 (vec 32 [0, 1, 2, 3])) id)
theorem loader_ok : loader.hart.detached ∧ loader.hart.maskSound 1 ∧ loader.hart.flagsMasked ∧ loader.hart.ewWide :=
  ⟨detached_of _ (by decide +kernel), sound_of _ _ (by decide +kernel), masked_of _ (by decide +kernel), wide_of _ (by decide +kernel)⟩
def loaderPieces (j : Nat) : List Piece := [⟨.spad 0 (0x100 + 4 * j), 0x100 + 4 * j, 4⟩]
theorem loader_piece : ∀ j, j < 4 → ((loader.warmTo 1 loaderPieces j).pieces loader.hart.who loader.hart.space .load .load ⟨true, false, false⟩
    ((0x100 + j * 4) % 2 ^ 64) 4).toOption = some (loaderPieces j) := by decide +kernel
theorem witness_VectorLoadsComplete : (loader.hart.detached ∧ loader.hart.ewWide ∧ loader.hart.maskSound 1 ∧ loader.hart.bad 1 = false)
    ∧ loader.hart.bad 2 = false ∧ (∀ j, loader.hart.writes 1 j → ((loader.hart.regs.v[(2 : VIdx)]).elt loader.hart.ew j).bad = false)
    ∧ (∀ j, loader.hart.writes 1 j → ((loader.warmTo 1 loaderPieces j).pieces loader.hart.who loader.hart.space .load .load ⟨true, false, false⟩
        ((0x100 + j * 4) % 2 ^ 64) 4).toOption = some (loaderPieces j)) :=
  ⟨⟨loader_ok.1, loader_ok.2.2.2, loader_ok.2.1, by decide +kernel⟩, by decide +kernel, below_vl 4 (by decide +kernel) (by decide +kernel),
    below_vl 4 (by decide +kernel) loader_piece⟩
/-- A store of those elements: their data is clean, one element's data is poisoned, and its charge of 64 bytes fits exactly; one byte more does not. -/
theorem witness_VectorStoresComplete : let s := { loader with hart := { loader.hart with charge := 65472 } }
    (∀ j, j < s.hart.vl → ((s.hart.regs.v[(3 : VIdx)]).elt s.hart.ew j).bad = false)
    ∧ ((s.hart.regs.setV 3 ⟨0, 0, 0xF000, 0⟩).v[(3 : VIdx)].elt s.hart.ew 3).bad = true
    ∧ s.hart.capacity < 65473 + (s.hart.vl * s.hart.ew + 511) / 512 * 64 ∧ s.hart.charge + (s.hart.vl * s.hart.ew + 511) / 512 * 64 ≤ s.hart.capacity
    ∧ ∀ j, j < 4 → ((s.warmTo 1 loaderPieces j).pieces s.hart.who s.hart.space .store .store ⟨false, true, false⟩ ((0x100 + j * 4) % 2 ^ 64) 4).toOption
        = some (loaderPieces j) := by decide +kernel
/-- GLB loads of bytes around the end of a mapped page: elements 0 to 2 lie in it, element 3 does not. -/
def faulty : State :=
  { part (hart 4 2 (fun r => hc (fun h => { h with mtr := 2 }) (sc [(1, 0x4000FFF4)] r)) fun h => { h with hcr := { h.hcr with ptroot := 0x1000 } }) with
    tlb := [⟨.spire 0, 1, false, 0x40000000, 0x10000, true, true, true, 0x100000⟩] }
def faultyPieces (j : Nat) : List Piece := [⟨.dev (0x10FFF4 + 4 * j), 0x4000FFF4 + 4 * j, 4⟩]
theorem witness_FirstFaultLoadShortens : (faulty.hart.detached ∧ faulty.hart.ewWide ∧ faulty.hart.maskSound 0) ∧ faulty.hart.bad 1 = false ∧ 0 < 3
    ∧ faulty.hart.writes 0 3
    ∧ (∀ j, j < 3 → ((faulty.warmTo 0 faultyPieces j).pieces faulty.hart.who faulty.hart.space .load .load ⟨true, false, false⟩
          ((0x4000FFF4 + j * 4) % 2 ^ 64) 4).toOption = some (faultyPieces j)
        ∧ (readPieces (faulty.ownByte faulty.hart) (faultyPieces j)).any (·.2) = false)
    ∧ (match (faulty.warmTo 0 faultyPieces 3).pieces faulty.hart.who faulty.hart.space .load .load ⟨true, false, false⟩ ((0x4000FFF4 + 3 * 4) % 2 ^ 64) 4 with
        | .error (.bad c y, x) => (c, y, x) == (5, 0, 0x40010000)
        | _ => false) = true :=
  ⟨⟨detached_of _ (by decide +kernel), wide_of _ (by decide +kernel), sound_of _ _ (by decide +kernel)⟩, by decide +kernel, by decide,
    by unfold Hart.writes; decide +kernel, by decide +kernel, by decide +kernel⟩
/-- A tile of 16 KiB at 0, its frame resident; the capacity takes a tile exactly when 49,152 bytes are charged. -/
theorem witness_TileStoresComplete_tile : let s := { loader with hart := { loader.hart with charge := 49152 } }
    s.hart.bad 3 = false ∧ (s.hart.s 3).toNat % 64 = 0 ∧ (s.hart.s 3).toNat + 4 * 64 * 64 ≤ 0x200000
    ∧ s.resident s.hart.phys (s.hart.s 3).toNat s.hart.id.ctx s.hart.lsid = true
    ∧ s.resident s.hart.phys ((s.hart.s 3).toNat + 16383) s.hart.id.ctx s.hart.lsid = true
    ∧ s.hart.charge + 4 * (64 * 64) ≤ s.hart.capacity := by decide +kernel
theorem witness_TileStoresComplete_resident : ∀ i, i < 4 * 64 * 64 → loader.resident 0 i 1 0 = true := by
  intro i hi
  have : i / 32768 = 0 := Nat.div_eq_of_lt (by omega)
  simp [loader, part, frame0, State.resident, this]
/-- `aepi.bf16.fp32` of a hart in P8 (a tile of 8 by 8) to an output stream of 65 BF16 elements at the start of the scalar data memory: the
64 elements of the tile stop one short of its end. -/
def epilogue : Hart :=
  hart 4 2 (fun r => r.setQ 1 { Stream.idle with kind := 1, dir := true, fmt := 11, space := 0, base := 0x200000, d3 := 64, d5 := 2, complete := true })
    fun h => { h with pmode := 3 }
theorem witness_TileStoresComplete_epilogue : epilogue.regs.h.fenable &&& 0x00FF#16 = 0#16 ∧ epilogue.regs.h.rmode ≠ 4#3 ∧ epilogue.bad 3 = false
    ∧ (let q := epilogue.regs.q[(1 : QIdx)]
      let side := 2 * (32 / 2 ^ epilogue.pmode.toNat)
      q.kind = 1#4 ∧ q.dir = true ∧ q.complete = true ∧ q.done = false
      ∧ q.fmt = BitVec.ofNat 5 (epiFormat .bf16).code ∧ q.space = 0#2 ∧ epilogue.charge + side * ((side * 16 + 511) / 512 * 64) ≤ epilogue.capacity
      ∧ q.n.toNat + side * side < min q.total (2 ^ 64)
      ∧ ∀ j, j < 64 → 0x200000 ≤ q.ea j (q.i3 j * q.str 3) ∧ q.ea j (q.i3 j * q.str 3) + 16 / 8 ≤ 0x210000
          ∧ q.ea j (q.i3 j * q.str 3) % 4096 + 16 / 8 ≤ 4096) := by decide +kernel

/-- A hart at EW 64 with base 0x7FF0 and indices 0 and 1: the last two doublewords of the resident page; both are full. -/
def homer : State :=
  { part (hart 2 3 (fun r => (sc [(1, 0x7FF0)] r).setV 2 (vec 64 [0, 1])) id) with full := [0xFFE, 0xFFF] }
theorem homer_ok : homer.hart.detached ∧ homer.hart.maskSound 0 ∧ homer.hart.flagsMasked ∧ homer.hart.ewWide :=
  ⟨detached_of _ (by decide +kernel), sound_of _ _ (by decide +kernel), masked_of _ (by decide +kernel), wide_of _ (by decide +kernel)⟩
theorem homer_elements : ∀ j, homer.hart.writes 0 j → ((homer.hart.regs.v[(2 : VIdx)]).elt homer.hart.ew j).bad = false
    ∧ ((homer.hart.s 1).toNat + ((homer.hart.regs.v[(2 : VIdx)]).elt homer.hart.ew j).val * 8) % 2 ^ 64 % 8 = 0
    ∧ ((homer.hart.s 1).toNat + ((homer.hart.regs.v[(2 : VIdx)]).elt homer.hart.ew j).val * 8) % 2 ^ 64 + 8 ≤ 0x200000
    ∧ homer.resident homer.hart.phys (((homer.hart.s 1).toNat + ((homer.hart.regs.v[(2 : VIdx)]).elt homer.hart.ew j).val * 8) % 2 ^ 64)
        homer.hart.id.ctx homer.hart.lsid = true
    ∧ homer.saving (.spad homer.hart.phys (((homer.hart.s 1).toNat + ((homer.hart.regs.v[(2 : VIdx)]).elt homer.hart.ew j).val * 8) % 2 ^ 64)) = false :=
  below_vl 2 (by decide +kernel) (by decide +kernel)
theorem witness_HomeAccessesComplete : (homer.hart.fresh = true ∧ homer.hart.buf = [] ∧ homer.hart.begun = false ∧ homer.hart.got = [] ∧ homer.hart.lost = []
      ∧ homer.hart.pace = 0 ∧ homer.hart.bad 1 = false ∧ homer.hart.regs.h.mtr = 0#2)
    ∧ (homer.hart.detached ∧ homer.hart.maskSound 0 ∧ homer.hart.flagsMasked ∧ homer.hart.ewWide)
    ∧ (homer.hart.ew ∈ atomWidths .add ∧ homer.hart.ew ∈ atomWidths .cas ∧ (30 : VIdx).val < 31 ∧ homer.hart.ew = 64 ∧ homer.deferred = [] ∧ homer.sc = homer.scDone
      ∧ (31 : VIdx).val = 31)
    ∧ (∀ j, homer.hart.writes 0 j → ((homer.hart.regs.v[(30 : VIdx)]).elt homer.hart.ew j).bad = false
        ∧ ((homer.hart.regs.v[(31 : VIdx)]).elt homer.hart.ew j).bad = false)
    ∧ ∀ j, homer.hart.writes 0 j → 0 * 2 ^ 18 + ((homer.hart.s 1).toNat + ((homer.hart.regs.v[(2 : VIdx)]).elt homer.hart.ew j).val * 8) % 2 ^ 64 / 8 ∈ homer.full :=
  ⟨by decide +kernel, homer_ok, by decide +kernel, below_vl 2 (by decide +kernel) (by decide +kernel), below_vl 2 (by decide +kernel) (by decide +kernel)⟩
/-- The words of distinct elements are distinct; for `vput` they are empty. -/
theorem witness_HomeAccessesComplete_distinct : ∀ i j, homer.hart.writes 0 i → homer.hart.writes 0 j → i ≠ j →
    ((homer.hart.s 1).toNat + ((homer.hart.regs.v[(2 : VIdx)]).elt homer.hart.ew i).val * 8) % 2 ^ 64 / 8
      ≠ ((homer.hart.s 1).toNat + ((homer.hart.regs.v[(2 : VIdx)]).elt homer.hart.ew j).val * 8) % 2 ^ 64 / 8 := by
  have h : ∀ i, i < 2 → ∀ j, j < 2 → i ≠ j → ((homer.hart.s 1).toNat + ((homer.hart.regs.v[(2 : VIdx)]).elt homer.hart.ew i).val * 8) % 2 ^ 64 / 8
      ≠ ((homer.hart.s 1).toNat + ((homer.hart.regs.v[(2 : VIdx)]).elt homer.hart.ew j).val * 8) % 2 ^ 64 / 8 := by decide +kernel
  have hv : homer.hart.vl = 2 := by decide +kernel
  exact fun i j hi hj => h i (hv ▸ hi.1) j (hv ▸ hj.1)
theorem witness_HomeAccessesComplete_put : let s := { homer with full := [] }
    ∀ j, j < 2 → 0 * 2 ^ 18 + ((s.hart.s 1).toNat + ((s.hart.regs.v[(2 : VIdx)]).elt s.hart.ew j).val * 8) % 2 ^ 64 / 8 ∉ s.full := by decide +kernel

/-- A hart with an affine input in q1 attached to v4, an unattached one in q2, two fibres in q3 and q4, a port in q5 attached to v6, an idle q0,
and s1 the address of the last 64 bytes of the scalar data memory. -/
def streamer : State :=
  part (hart 4 2 (fun r =>
    ((((((sc [(1, 0x20FFC0), (2, 0xFFFFFFFF80000000), (3, 0x100)] r).setQ 1 { Stream.idle with kind := 1, att := true, vreg := 4, fmt := 9, complete := true }).setQ 2
      { Stream.idle with kind := 1, fmt := 9, complete := true }).setQ 3 { Stream.idle with kind := 3, d6 := 8, fmt := 6, complete := true }).setQ 4
      { Stream.idle with kind := 3, d6 := 8, fmt := 6, complete := true }).setQ 5 { Stream.idle with kind := 6, att := true, vreg := 6, fmt := 9, complete := true }))
    fun h => { h with charge := 65472 })
theorem witness_StreamsComplete_bind : let h := streamer.hart
    (h.regs.q[(2 : QIdx)]).kind ≠ 0#4 ∧ (h.regs.q[(2 : QIdx)]).att = false ∧ (h.regs.q[(2 : QIdx)]).cons = false
    ∧ (31 : VIdx).val + (h.regs.q[(2 : QIdx)]).span ≤ 32 ∧ h.regs.taken 2 31 (h.regs.q[(2 : QIdx)]).span = false := by decide +kernel
theorem witness_StreamsComplete_unbind : let h := streamer.hart
    (h.regs.q[(0 : QIdx)]).kind = 0#4 ∧ ((h.regs.q[(5 : QIdx)]).att = true ∧ (h.regs.q[(5 : QIdx)]).kind = 6#4)
    ∧ (h.regs.q[(1 : QIdx)]).att = true ∧ (h.regs.q[(1 : QIdx)]).kind = 1#4 := by decide +kernel
theorem witness_StreamsComplete_derived : let h := streamer.hart
    (0 : QIdx) ≠ 3 ∧ (0 : QIdx) ≠ 4 ∧ (3 : QIdx) ≠ 4 ∧ (h.regs.q[(0 : QIdx)]).kind = 0#4 ∧ (h.regs.q[(3 : QIdx)]).kind = 3#4 ∧ (h.regs.q[(4 : QIdx)]).kind = 3#4
    ∧ (h.regs.q[(3 : QIdx)]).att = false ∧ (h.regs.q[(4 : QIdx)]).att = false ∧ (h.regs.q[(3 : QIdx)]).cons = false ∧ (h.regs.q[(4 : QIdx)]).cons = false
    ∧ (h.regs.q[(3 : QIdx)]).iw = (h.regs.q[(4 : QIdx)]).iw ∧ h.bad 1 = false ∧ (h.regs.q[(3 : QIdx)]).lvk = 0#2 ∧ (h.regs.q[(3 : QIdx)]).pend = false
    ∧ (h.regs.q[(3 : QIdx)]).badPos = false ∧ (h.regs.q[(3 : QIdx)]).d5.toNat < (h.regs.q[(3 : QIdx)]).d6.toNat := by decide +kernel
/-- Fibres over the scalar data memory that holds the coordinates 1, 3, 5, 9 as 32-bit words at its start and the bit word 0b101001 at 64: the
compressed row of positions 1 to 4, its bitmap row of 8, and the singleton of position 3. -/
def fibres (k : BitVec 2) : Stream :=
  { Stream.idle with kind := 3, fmt := 6, lvk := k, complete := true, d4 := BitVec.ofNat 64 (9 * 2 ^ 32 + 4)
                     base := if k = 2 then 0x200040 else 0, abase := 0x200000, d3 := if k = 3 then 3 else 0
                     d5 := if k = 1 then 1 else if k = 3 then 3 else 0, d6 := if k = 2 then 8 else 4 }
def fibreState (k : BitVec 2) : State :=
  { part (hart 4 2 (fun r => (sc [(1, 4)] r).setQ 3 (fibres k)) id) with
    sdm := ((((Mem.empty.set 0 1).set 4 3).set 8 5).set 12 9).set 64 0x29 }
theorem witness_StreamsComplete_skip : (∀ k : BitVec 2, (fibreState k).hart.bad 1 = false ∧ ((fibreState k).hart.regs.q[(3 : QIdx)]) = fibres k
      ∧ (fibres k).kind = 3#4 ∧ ((fibreState k).fibreStart (fibres k)).toOption = some (fibres k) ∧ (fibres k).badPos = false
      ∧ (fibres k).d5.toNat < (fibres k).d6.toNat)
    ∧ ((fibres 0).pend = false ∧ (fibres 0).row ≤ (fibres 0).d5.toNat)
    ∧ ((fibres 1).d6.toNat ≤ (fibres 1).len
      ∧ (∀ p, p < 4 → ((fibreState 1).crd (fibres 1) p).toOption = some ⟨[1, 3, 5, 9].getD p 0, false⟩ ∧ [1, 3, 5, 9].getD p 0 < (fibres 1).size))
    ∧ ((fibres 2).row ≤ (fibres 2).d5.toNat ∧ (fibres 2).d6.toNat ≤ (fibres 2).row + (fibres 2).size
      ∧ ((fibreState 2).bitWord (fibres 2) 0).toOption = some ⟨0x29, false⟩)
    ∧ ((fibres 3).d5 = (fibres 3).d3 ∧ (fibres 3).d6.toNat = (fibres 3).d3.toNat + 1 ∧ (fibres 3).d5.toNat < (fibres 3).len
      ∧ ((fibreState 3).crd (fibres 3) 3).toOption = some ⟨9, false⟩ ∧ 9 < (fibres 3).size) := by decide +kernel
/-- A fibre that is spent; a derived stream, attached, over two dense fibres. -/
theorem witness_StreamsComplete_spent : let q := { fibres 0 with d5 := 8, d6 := 8 }
    q.lvk ≠ 1#2 ∧ q.pend = false ∧ q.badPos = false ∧ q.fin ≤ q.pos := by decide +kernel
def deriver : Hart :=
  hart 4 2 (fun r => ((r.setQ 3 { fibres 0 with cons := true }).setQ 4 { fibres 0 with cons := true }).setQ 0
    { Stream.idle with kind := 4, qa := 3, qb := 4, fmt := 6, complete := true, att := true, vreg := 8 }) id
theorem witness_StreamsComplete_union : let q := deriver.regs.q[(0 : QIdx)]
    q.att = true ∧ (q.kind = 4#4 ∨ q.kind = 5#4) ∧ q.qa = 3 ∧ q.qb = 4 ∧ (0 : QIdx) ≠ 3 ∧ (0 : QIdx) ≠ 4 ∧ (3 : QIdx) ≠ 4 ∧ deriver.bad 1 = false
    ∧ ∀ i ∈ [(3 : QIdx), 4], let z := deriver.regs.q[i]; z.lvk = 0#2 ∧ z.pend = false ∧ z.badPos = false ∧ z.row ≤ z.d5.toNat ∧ z.d5.toNat < z.d6.toNat := by
  decide +kernel
/-- The saved form of that derived stream, attached to v8, is read back into q0; the number of each of its inputs is another. -/
theorem witness_StreamsComplete_derive : let r := Stream.unpack (deriver.regs.q[(0 : QIdx)]).pack
    ofBytes (deriver.regs.q[(0 : QIdx)]).pack % 2 ^ 33 = 0 ∧ r.kind = 4#4 ∧ r.kind.toNat < 6 ∧ r.qa ≠ 0 ∧ r.qb ≠ 0 ∧ r.att = true
    ∧ r.vreg.val + r.span ≤ 32 ∧ (hart 4 2 id id).regs.taken 0 r.vreg r.span = false := by decide +kernel

/-! A vector instruction with one attached stream (09 R198, R199) -/

/-- An affine FP32 stream over the scalar data memory, of which 6 elements are left, attached to v4: an input and an output. -/
def pattern (dir : Bool) : Stream :=
  { Stream.idle with kind := 1, dir := dir, fmt := 9, base := 0x200000, d3 := 7, d5 := 4, n := 2, att := true, vreg := 4, complete := true }
def attached (q : Stream) (f : Hart → Hart) : State :=
  { part (hart 8 2 (fun r => (sc [(1, 7)] (r.setM 1 ⟨0b1010, 0⟩)).setQ 1 q) f) with sdm := Mem.empty.set 8 9 }
def patternPieces (j : Nat) : List Piece := [⟨.sdm 0 (4 * (2 + j)), 0x200000 + 4 * (2 + j), 4⟩]
theorem witness_AttachedStreams_pattern : let s := attached (pattern false) id
    let h := s.hart
    let q := h.regs.q[(1 : QIdx)]
    h.ew = 32 ∧ (q.att = true ∧ ∀ r : QIdx, r ≠ 1 → (h.regs.q[r]).att = false) ∧ (∀ j, j < h.vl → (h.regs.getM 1).isBad h.ew j = false)
    ∧ q.vreg = 4 ∧ q.delivered = false
    ∧ (q.kind = 1#4 ∧ q.complete = true ∧ q.width = h.ew ∧ (Format.ofCode q.fmt.toNat).isSome = true ∧ q.ahead = [] ∧ q.space = 0#2)
    ∧ q.dir = false ∧ q.done = false ∧ min h.vl (q.total - q.n.toNat) = 6
    ∧ (∀ j, j < 6 → (s.pieces h.who .loc .load .stream ⟨true, false, false⟩ (q.ea (2 + j) (q.i3 (2 + j) * q.str 3)) 4).toOption = some (patternPieces j)
        ∧ (readPieces (s.seenByte h.phys) (patternPieces j)).any (·.2) = false) := by decide +kernel
/-- 64 bytes of charge for 8 elements fit exactly. -/
theorem witness_AttachedStreams_output : let s := attached (pattern true) fun h => { h with charge := 65472 }
    let h := s.hart
    let q := h.regs.q[(1 : QIdx)]
    q.dir = true ∧ q.vreg = 4 ∧ q.kind = 1#4 ∧ h.charge + (h.vl * h.ew + 511) / 512 * 64 ≤ h.capacity
    ∧ ∀ j, j < 6 → (s.pieces h.who .loc .store .store ⟨false, true, false⟩ (q.ea (2 + j) (q.i3 (2 + j) * q.str 3)) 4).toOption = some (patternPieces j) := by
  decide +kernel
/-- The last three positions of a dense row, attached to v4 and v5. -/
theorem witness_AttachedStreams_fibre : let q := { fibres 0 with d3 := 1, d5 := 17, d6 := 20, att := true, vreg := 4 }
    q.kind = 3#4 ∧ q.lvk = 0#2 ∧ q.pend = false ∧ q.badPos = false ∧ q.done = false ∧ q.ahead = [] ∧ q.width = 32 ∧ (4 : VIdx).val < 31
    ∧ q.d3.toNat * q.size ≤ q.d5.toNat ∧ q.d5.toNat ≤ q.d6.toNat ∧ q.d6.toNat ≤ 2 ^ 32 := by decide +kernel
/-- A width that is not EW, an incomplete pattern and a reserved format; the register read and the one written are v4. -/
theorem witness_AttachedStreams_illegal : ∀ q ∈ [{ pattern false with fmt := 10 }, { pattern true with complete := false }, { pattern false with fmt := 31 }],
    q.att = true ∧ (q.width ≠ 32 ∨ (q.kind = 1#4 ∨ q.kind = 2#4) ∧ (q.complete = false ∨ (Format.ofCode q.fmt.toNat).isSome = false))
    ∧ q.covers 4 = true ∧ (q.isInput = true ∨ q.isOutput = true) := by decide +kernel

/-- 64 bytes more than are charged fit exactly; the saved form of a finished affine stream is read back. -/
theorem witness_StreamsComplete_save : let s := { streamer with sdm := (Mem.empty.set 0xFFC0 1) }
    let h := s.hart
    h.bad 1 = false ∧ ¬ ((h.regs.q[(2 : QIdx)]).kind = 6#4 ∨ (h.regs.q[(2 : QIdx)]).kind = 7#4)
    ∧ ((h.s 1).toNat % 64 = 0 ∧ 0x200000 ≤ (h.s 1).toNat ∧ (h.s 1).toNat < 0x210000) ∧ h.charge + 64 ≤ h.capacity
    ∧ (h.regs.q[(2 : QIdx)]).badPos = false
    ∧ (let bs := (List.range 64).map fun i => s.ownByte h (.sdm h.phys ((h.s 1).toNat - 0x200000 + i))
      (∀ e ∈ bs, e.2 = false) ∧ (Stream.unpack (bs.map (·.1))).kind.toNat < 4 ∧ (Stream.unpack (bs.map (·.1))).att = false
      ∧ ofBytes (bs.map (·.1)) % 2 ^ 33 = 1) := by decide +kernel
theorem witness_StreamsComplete_restore : let h := streamer.hart
    let bs := (List.range 64).map fun i => streamer.ownByte h (.sdm h.phys ((h.s 1).toNat - 0x200000 + i))
    (∀ e ∈ bs, e.2 = false) ∧ (Stream.unpack (bs.map (·.1))).kind.toNat < 4 ∧ (Stream.unpack (bs.map (·.1))).att = false
      ∧ ofBytes (bs.map (·.1)) % 2 ^ 33 = 0 := by decide +kernel
/-- The most negative stride that a level takes; a format without scale; level 3 of an affine stream; each level kind of a fibre. -/
theorem witness_StreamsComplete_pattern : let h := streamer.hart
    ¬ ((h.regs.q[(2 : QIdx)]).kind = 6#4 ∨ (h.regs.q[(2 : QIdx)]).kind = 7#4) ∧ (h.regs.q[(2 : QIdx)]).att = false ∧ (h.regs.q[(2 : QIdx)]).cons = false
    ∧ h.bad 1 = false ∧ h.bad 2 = false ∧ h.bad 3 = false ∧ -2 ^ 31 ≤ (h.s 2).toInt ∧ (h.s 2).toInt < 2 ^ 31 ∧ fmtScaled .fp32 = false
    ∧ (3 : Fin 4) ≠ 0 ∧ (h.regs.q[(2 : QIdx)]).kind = 1#4 ∧ ((0 : Fin 4) = 0 → (0 : SReg) = 0 ∧ (0#32) = 0#32) := by decide +kernel
theorem witness_CommandsComplete : let h := { streamer.hart with charge := 65472 }
    h.bad 1 = false ∧ h.bad 2 = false ∧ h.bad 3 = false ∧ h.charge + 64 ≤ h.capacity := by decide +kernel

/-! ### Witnesses for the steps that are not instructions -/

/-- The part with that hart alone and a parameter of the step in progress. -/
def given (x : StepArg) : State := { part (hart 4 2 id id) with arg := x }

theorem witness_PowerStepsComplete_values : (given (.nums 511 0 0)).arg = .nums 511 0 0 ∧ (given (.value 511 0xFFF)).arg = .value 511 0xFFF
    ∧ (given (.wear (.spire 511 30))).arg = .wear (.spire 511 30) := by decide +kernel
/-- Three samples: one above the limit of 3,200 W, one at 95 % of it, one below; a sensor at 124 degrees. -/
theorem witness_PowerStepsComplete_samples : let b := (given (.power ⟨3201, [(31, 124)]⟩)).belfry
    (∀ t ∈ [((31 : Nat), (124 : Nat))], t.2 < 125) ∧ b.pwrlim.toNat < 3201 ∧ (3040 ≤ b.pwrlim.toNat ∧ 95 * b.pwrlim.toNat ≤ 100 * 3040)
    ∧ 100 * 3039 < 95 * b.pwrlim.toNat ∧ 0 < b.lowAt.getD 0 + 10000000
    ∧ ({ b with lowAt := some 0 } : Belfry).lowAt.getD 10000000 + 10000000 ≤ 10000000 := by decide +kernel

/-- A package without routes, one flit that is not acknowledged, and a first flit on the link of dies 0 and 7. -/
def linked : State := { given (.nums 9 3 0) with belfry := { Belfry.reset with unacked := [⟨9, 3, 0, none, 0⟩] } }
theorem witness_LinkStepsComplete : linked.arg = .nums 9 3 0 ∧ (∃ f ∈ linked.belfry.unacked, f.pkg = 9 ∧ f.seq = 3) ∧ linked.episodes = [] := by
  decide +kernel
theorem witness_LinkStepsComplete_unreachable : Config.ownPackage + 1 ≠ Config.ownPackage ∧ Belfry.reset.route (Config.ownPackage + 1) = none :=
  ⟨Nat.succ_ne_self _, rfl⟩
/-- Flit n from die 0 to die 7 at the head of the link to die y; of the flits from 0 to 7 the first is due. -/
def carried (y n : Nat) : Belfry := Belfry.reset.updTram 0 y fun t => t.updEnd 0 fun e => e.put ⟨0, 7, n⟩
/-- A flit in its turn, one ahead of it, a duplicate, one on the way at die 1, and one that no buffer heads. -/
theorem witness_LinkStepsComplete_flits : (carried 7 0).carrier ⟨0, 7, 0⟩ = some (0, 7) ∧ (carried 7 1).carrier ⟨0, 7, 1⟩ = some (0, 7)
    ∧ ({ carried 7 0 with tramSeq := [(0, 7, 1)] } : Belfry).carrier ⟨0, 7, 0⟩ = some (0, 7) ∧ (carried 1 0).carrier ⟨0, 7, 0⟩ = some (0, 1)
    ∧ Belfry.reset.carrier ⟨0, 7, 0⟩ = none := by decide +kernel
/-- An idle and an acknowledgement, in its turn and out of it, on a port that hears them, down or not; on one that switches its spare in. -/
theorem witness_LinkStepsComplete_ack : let b := Belfry.reset
    let hears := fun (b : Belfry) => b.ports.any fun x => x.n == 31 && !x.switching && x.lanes != 0
    hears b = true ∧ hears { b with ports := [{ Port.reset 31 with down := true }] } = true
    ∧ hears { b with ports := [{ Port.reset 31 with switching := true }] } = false ∧ ((b.etSeq.find? fun x => x.1 == 9).map (·.2)).getD 0 = 0
    ∧ (given (.flit (.idle 31))).arg = .flit (.idle 31) ∧ (given (.flit (.etesian 31 9 0 1 (.ack 3)))).arg = .flit (.etesian 31 9 0 1 (.ack 3)) := by
  decide +kernel

/-- A go of RETCMD for each class at the last index that exists and the first that does not; the fields of class, index and row. -/
def retcmd (cls idx row : Nat) : Word := BitVec.ofNat 64 (1 + cls * 16 + idx * 2 ^ 16 + row * 2 ^ 32)
theorem witness_ControlStepsComplete_retire : let s := given (.value 0 (retcmd 0 511 0))
    s.belfry.retWait = none ∧ (retcmd 0 511 0).getLsbD 0 = true ∧ (s.speedOf 511).ret = false ∧ (s.speedOf 510).ret = false
    ∧ 511 ∉ s.belfry.routers ∧ (given (.value 0 (retcmd 1 511 0))).belfry.retWait = none ∧ 512 ≤ 512
    ∧ (∀ t ∈ s.dist.teams, ∀ q, some q ∈ t.place → q / 16 ≠ 511 / 16) := by
  refine ⟨rfl, by decide +kernel, by decide +kernel, by decide +kernel, by decide +kernel, rfl, le_rfl, ?_⟩
  intro t ht q hq
  simp [given, part, team0] at ht
  subst ht
  simp at hq
  omega
/-- A Spire, a router, a lane, a link and a row retired before; the last working Spire; a stack without a spare row. -/
def spires (p : Nat → Bool) : List Speed := Belfry.reset.speed.map fun x => { x with ret := p x.p }
theorem witness_ControlStepsComplete_gone : let s := { given (.value 0 (retcmd 0 511 0)) with belfry := { Belfry.reset with speed := spires (· == 511) } }
    let last := { given (.value 0 (retcmd 0 511 0)) with belfry := { Belfry.reset with speed := spires (· != 511) } }
    (s.speedOf 511).ret = true ∧ s.belfry.retWait = none ∧ (last.speedOf 511).ret = false
    ∧ (∀ q, q < 512 → q ≠ 511 → (last.speedOf q).ret = true) ∧ 511 ∈ ({ s.belfry with routers := [511] } : Belfry).routers := by decide +kernel
theorem witness_ControlStepsComplete_retired :
    (∃ x ∈ [{ Port.reset 31 with bad := 0x10#5 }], x.n = 252 / 8 ∧ x.bad.getLsbD (252 % 8) = true)
    ∧ (Belfry.reset.trams.map fun x => { x with retired := true }).any (fun x => x.a == 6 && x.b == 7 && x.retired) = true
    ∧ 7 ∈ ({ Stack.reset 15 with repaired := [7] } : Stack).repaired ∧ 7 ∈ ({ Stack.reset 15 with remap := [7] } : Stack).remap
    ∧ ({ Stack.reset 15 with spare := 0, remap := List.range' 8 4096 } : Stack).spare = 0
    ∧ 4096 ≤ ({ Stack.reset 15 with spare := 0, remap := List.range' 8 4096 } : Stack).remap.length
    ∧ 7 ∉ ({ Stack.reset 15 with spare := 0, remap := List.range' 8 4096 } : Stack).remap := by
  refine ⟨by decide, by decide +kernel, by decide, by decide, rfl, ?_, ?_⟩
  · simp
  · simp only [List.mem_range'_1]; omega
/-- The Spire of a team that runs, in a context without a save slot and with one. -/
def retiring (slots : BitVec 16) : State :=
  { given (.value 0 (retcmd 0 0 0)) with contexts := [{ context1 with cxslots := slots }] }
theorem witness_ControlStepsComplete_team : (retiring 0).dist.teams = [team0] ∧ some 0 ∈ team0.place ∧ (retiring 0).dist.teams.count team0 = 1
    ∧ (retiring 0).team team0.task.ctx team0.task.order = some team0 ∧ team0.st = .running ∧ team0.freezing = false ∧ team0.preempting = false
    ∧ ((retiring 0).speedOf 0).ret = false ∧ ((retiring 0).speedOf 1).ret = false ∧ (retiring 0).slotFor team0 = false
    ∧ (retiring 1).slotFor team0 = true := by decide +kernel
theorem witness_ControlStepsComplete_lanes : let b := Belfry.reset
    (252 < 256 ∧ 252 % 8 < 5 ∧ ∀ x ∈ b.ports, x.n = 252 / 8 → x.bad.getLsbD (252 % 8) = false)
    ∧ (55 < 64 ∧ 55 / 8 ≠ 55 % 8 ∧ ∀ x ∈ b.trams, (x.a = 55 / 8 ∧ x.b = 55 % 8) ∨ (x.a = 55 % 8 ∧ x.b = 55 / 8) → x.retired = false)
    ∧ (∀ x ∈ b.hbm, x.s ≠ 16) ∧ 63 / 8 = 63 % 8 ∧ 5 ≤ 253 % 8 := by decide +kernel
/-- A stack with a spare row left. -/
theorem witness_ControlStepsComplete_row : let b := { Belfry.reset with hbm := [{ Stack.reset 15 with spare := 1 }] }
    b.hbm.find? (fun y => y.s == 15) = some { Stack.reset 15 with spare := 1 } ∧ 7 ∉ ({ Stack.reset 15 with spare := 1 } : Stack).repaired
    ∧ 7 ∉ ({ Stack.reset 15 with spare := 1 } : Stack).remap ∧ ({ Stack.reset 15 with spare := 1 } : Stack).spare ≠ 0
    ∧ ({ b with retWait := some ⟨4, 15, 7, []⟩ } : Belfry).retWait = some ⟨4, 15, 7, []⟩ ∧ (given .nothing).arg = .nothing := by decide +kernel
theorem witness_ControlStepsComplete_mail : let b := Belfry.reset
    b.mbMgr.busy = false ∧ b.mbHost.busy = false ∧ (257#64).toNat % 256 = 1 ∧ (2#64).toNat % 256 = 2 ∧ (3#64).toNat % 256 ≠ 1 ∧ (3#64).toNat % 256 ≠ 2 := by
  decide +kernel
/-- A report request at the head of the queue, before and after the keys are erased; an unknown op. -/
theorem witness_ControlStepsComplete_head : let b := { Belfry.reset with mbQueue := [true], mbMgr := { Mailbox.reset with busy := true, op := 1 } }
    b.mbQueue = true :: [] ∧ b.mbMgr.op = 1#8 ∧ b.key = none ∧ ({ b with key := some [] } : Belfry).key = some []
    ∧ ({ Mailbox.reset with op := 2 } : Mailbox).op = 2#8
    ∧ ({ Mailbox.reset with op := 9 } : Mailbox).op ≠ 1#8 ∧ ({ Mailbox.reset with op := 9 } : Mailbox).op ≠ 2#8 := by decide +kernel
/-- Alarm sources 0 to 3 under a policy register that gives them the policies 0 to 3; no request waits. -/
theorem witness_ControlStepsComplete_alarm : let b := { Belfry.reset with almpol := 0xE4 }
    b.mbQueue = [] ∧ (∀ n, n < 4 → b.almpol.toNat / 4 ^ n % 4 = n) ∧ 4 < 5 ∧ b.inReset = false ∧ ({ b with inReset := true } : Belfry).inReset = true := by
  decide +kernel
theorem witness_ControlStepsComplete_write : (given (.reg ⟨.quantum, .firmware, 5⟩)).arg = .reg ⟨.quantum, .firmware, 5⟩
    ∧ (given .nothing).tm.busy = false ∧ Level.runtime ≠ Level.firmware
    ∧ (given (.reg ⟨.hcr ⟨1, 0, 0⟩ 0x104, .runtime, 128⟩)).arg = .reg ⟨.hcr ⟨1, 0, 0⟩ 0x104, .runtime, 128⟩ := by decide +kernel

/-- A packet of 32 bytes for a team of one logical Spire that enters at 0x1000, in slot 3, which is bound to context 1. -/
def slot3 (st : BitVec 2) (en : Bool) : PktSlot := ⟨[(0, 32), (4, 1), (9, 0x10)], 0, st, true, 1, en, 1⟩
def posted (x : PktSlot) (a : StepArg) : State :=
  { given a with dist := { Distributor.reset with en := true, teams := [team0], slots := Distributor.reset.slots.set 3 x } }
theorem witness_DistributorStepsComplete_go : let s := posted (slot3 2 false) (.value 3 0x10000)
    s.dist.slots[3]? = some (slot3 2 false) ∧ (0x10000#64).getLsbD 16 = true ∧ (slot3 2 false).state ≠ 1#2 := by decide +kernel
theorem witness_DistributorStepsComplete_packet : let s := posted (slot3 1 true) (.packet (.slot 3))
    s.dist.slots[3]? = some (slot3 1 true) ∧ s.dist.en = true ∧ (slot3 1 true).state = 1#2 ∧ (slot3 1 false).lEn = false ∧ (slot3 1 true).lEn = true
    ∧ (s.context (slot3 1 true).lCtx.toNat).isSome = true ∧ s.validate (slot3 1 true).lCtx.toNat (slot3 1 true).all = 0
    ∧ s.packetAway (slot3 1 true).lCtx.toNat (slot3 1 true).all = false ∧ s.tablesFull (slot3 1 true).all = false ∧ pktKind (slot3 1 true).all = 0 ∧ pkt (slot3 1 true).all 7 1 = 0 ∧ s.dist.dying = [] ∧ s.dist.cBusy = false
    ∧ ∀ y ∈ s.dist.tasks, y.kind = 0 := by decide +kernel
/-- A cancel of handle h in progress, which a waiting task, a team that runs, one that does not, or nobody has. -/
def cancelling (h : BitVec 32) (ts : List Task) (tms : List Team) : State :=
  { given .nothing with dist := { Distributor.reset with cBusy := true, cCtx := 1, cHandle := h, tasks := ts, teams := tms } }
def isCancelled (d : Distributor) (t : Task) : Bool := d.cHandle.toNat != 0 && t.ctx == d.cCtx.toNat && t.handle == d.cHandle.toNat
def outTeam : Team := { team0 with st := .switchedOut, place := [none] }
theorem witness_DistributorStepsComplete_cancel :
    (let d := (cancelling 5 [{ task0 with order := 3 }] []).dist;
      d.cBusy = true ∧ d.tasks.find? (isCancelled d) = some { task0 with order := 3 })
    ∧ (let d := (cancelling 5 [] [team0]).dist;
      d.tasks = [] ∧ d.teams.find? (fun t => isCancelled d t.task) = some team0 ∧ team0.st = .running)
    ∧ (let s := cancelling 5 [] [outTeam];
      s.dist.tasks = [] ∧ s.dist.teams.find? (fun t => isCancelled s.dist t.task) = some outTeam ∧ outTeam.st ≠ .running ∧ outTeam.freezing = false
      ∧ s.cmds = [] ∧ s.episodes = [] ∧ outTeam.ending = false)
    ∧ (let d := (cancelling 6 [{ task0 with order := 3 }] [team0]).dist;
      (∀ t ∈ d.tasks, isCancelled d t = false) ∧ (∀ t ∈ d.teams, isCancelled d t.task = false) ∧ d.dying = [])
    ∧ (let d := { (cancelling 6 [] []).dist with dying := [(1, 6, [9])] };
      d.cBusy = true ∧ ∃ x ∈ d.dying, (d.cHandle.toNat != 0 && x.1 == d.cCtx.toNat && x.2.1 == d.cHandle.toNat) = true) := by decide +kernel
/-- The only hart of the team has halted; its task names successor 9, which waits for one more credit. -/
def halted : State :=
  let t := { team0 with task := { task0 with succ := [9] } }
  { given (.nums 1 0 0) with
    hart := hart 4 2 id fun h => { h with hcr := { h.hcr with run := 3, sstate := 4 } }
    dist := { Distributor.reset with teams := [t], tasks := [{ task0 with order := 4, handle := 9, ready := false, count := 1 }] } }
theorem witness_DistributorStepsComplete_complete : (halted.team 1 0).map (fun t => (halted.finished t, t.freezing, t.st, t.task.succ))
      = some (true, false, .running, [9])
    ∧ halted.flight ++ halted.hostOut = [] ∧ halted.dist.dying = [] ∧ halted.dist.cBusy = false
    ∧ halted.dist.tasks = [{ task0 with order := 4, handle := 9, ready := false, count := 1 }] := by decide +kernel
/-- Barrier 63 of the team, in which its one hart has arrived; a context with a completion log of 4 KiB. -/
def arrived : State :=
  let t := { team0 with bars := team0.bars.set 63 ⟨7, [(0, 0)]⟩ }
  { given (.nums 1 0 63) with dist := { Distributor.reset with teams := [t] }, contexts := [{ context1 with cbloglen := 4096, cblog := 0x200000 }] }
theorem witness_DistributorStepsComplete_episode : (arrived.team 1 0).map (fun t => (decide (63 < t.bars.length), t.st, (t.bar 63).arrivals, t.nhart))
      = some (true, .running, [(0, 0)], 1)
    ∧ (arrived.context 1).map (fun c => decide (c.cblog.toNat / 64 * 64 + 64 * c.cbloglen.toNat ≤ Config.devEnd)
        && (arrived.devFree 512 (c.cblog.toNat / 64 * 64 + 64 * (c.cblogseq.toNat % c.cbloglen.toNat)) 64).toOption.isSome) = some true ∧ (arrived.context 1).map (fun c => decide (c.cbloglen ≠ 0#32)) = some true := by decide +kernel
/-- A ready task and 512 free Spires, no team of its number and no hart launched. -/
def placing : State :=
  { State.reset with arg := .nothing, contexts := [context1], dist := { Distributor.reset with en := true, tasks := [{ task0 with order := 3, entry := 0x2000 }] } }
theorem witness_DistributorStepsComplete_place : (match placing.select.2 with
      | some (.place c l) => c.team.isNone && c.task.image == 0 && placing.context c.task.ctx == some context1 && c.task.order == 3 && l.length == 1
      | _ => false) = true ∧ context1.launched = none ∧ placing.flight = [] ∧ placing.frames = [] ∧ placing.dist.cBusy = false
    ∧ (∀ x ∈ placing.dist.teams, ¬ (x.task.ctx = 1 ∧ x.task.order = 3))
    ∧ ∀ h ∈ placing.harts, h.hcr.run ≠ 0#2 → ¬ (h.id.ctx = 1 ∧ h.id.team = 3) := by decide +kernel
/-- A hart at a `farm.next s10` that the instruction cache keeps (0x5940_0180). -/
def farmer : State :=
  let t := { team0 with farm := ⟨true, 8, 4, 0, []⟩ }
  { given (.hart ⟨1, 0, 0⟩) with icache := [(0, 1, 0x1000, toBytes 16 0x59400180)], dist := { Distributor.reset with teams := [t] } }
theorem witness_DistributorStepsComplete_farm : farmer.arg = .hart farmer.hart.id ∧ farmer.hart.buf = [] ∧ farmer.hart.hcr.run = 1#2 ∧ farmer.hart.hcr.sstate = 0#3
    ∧ farmer.hart.out = false ∧ farmer.hart.takeable = false ∧ farmer.hart.overdue = false ∧ (farmer.fetch farmer.hart).toOption = some (.farmNext 10, 4)
    ∧ (farmer.team farmer.hart.id.ctx farmer.hart.id.team).isSome = true := by decide +kernel

/-- A hart that waits for cause c at instruction i, which the cache of its Spire keeps at its pc; its registers as f makes them. -/
def waiting (c : Stall) (i : Instr) (vl : BitVec 13) (ew : BitVec 3) (f : Regs → Regs) (g : Hart → Hart) : State :=
  { part (hart vl ew f fun h => g { h with stall := some c, tk := Vector.replicate 16 2 }) with
    arg := .hart ⟨1, 0, 0⟩, icache := [(0, 1, 0x1000, toBytes 16 ((encode i).headD 0))] }
/-- The conditions that every waiting hart of HartStepsComplete meets. -/
def isWaiting (s : State) (c : Stall) (i : Instr) : Bool :=
  let here := { s with hart := { s.hart with stall := none } }
  s.hart.hcr.run == 1 && s.hart.hcr.sstate != 1 && !s.hart.out && !s.hart.takeable && s.hart.stall == some c
    && !s.hart.overdue && !s.hart.away && (here.fetch here.hart).toOption == some (i, 4)
def awaiter : State := waiting .tok (.await 1) 4 2 (sc [(1, 0x8001)]) id
theorem witness_HartStepsComplete_await : isWaiting awaiter .tok (.await 1) = true ∧ awaiter.arg = .hart awaiter.hart.id ∧ awaiter.hart.fresh = true
    ∧ awaiter.hart.buf = [] ∧ (∀ r : TkIdx, awaiter.hart.tkPend[r] = 0) ∧ awaiter.hart.bad 1 = false
    ∧ ∀ r : TkIdx, (awaiter.hart.s 1).getLsbD r.val = true → awaiter.hart.tk[r] ≠ 0#16 := by decide +kernel
def tkwaiter : State := waiting .tok (.tkwait 15 1) 4 2 (sc [(1, 2)]) id
theorem witness_HartStepsComplete_tkwait : isWaiting tkwaiter .tok (.tkwait 15 1) = true ∧ tkwaiter.hart.bad 1 = false
    ∧ tkwaiter.hart.tkPend[(15 : TkIdx)] + (tkwaiter.hart.s 1).toNat % 65536 ≤ (tkwaiter.hart.tk[(15 : TkIdx)]).toNat := by decide +kernel
def fencer : State := waiting .mem (.fence .hart) 4 2 id id
theorem witness_HartStepsComplete_fence : isWaiting fencer .mem (.fence .hart) = true ∧ fencer.hart.fresh = true ∧ fencer.hart.buf = [] := by decide +kernel
/-- A presence instruction of one element on the last doubleword of the resident page, full for a taker and empty for `vput`, with its element deferred. -/
def presenter (i : Instr) (put : Bool) (full : List Nat) : State :=
  { waiting .pres i 1 3 (fun r => (sc [(1, 0x7FF0)] r).setV 2 (vec 64 [1])) id with
    arg := .nums 0 0xFFF 0, full := full, deferred := [⟨⟨1, 0, 0⟩, 0, 0xFFF, put⟩] }
def taker : State := presenter (.vtake 3 1 2 0) false [0xFFF]
def reader : State := presenter (.vread 3 1 2 0) false [0xFFF]
def putter : State := presenter (.vput 3 1 2 0) true []
theorem witness_HartStepsComplete_presence : (isWaiting taker .pres (.vtake 3 1 2 0) && isWaiting reader .pres (.vread 3 1 2 0)
      && isWaiting putter .pres (.vput 3 1 2 0)) = true
    ∧ taker.served 0 0xFFF = some ⟨⟨1, 0, 0⟩, 0, 0xFFF, false⟩ ∧ reader.served 0 0xFFF = some ⟨⟨1, 0, 0⟩, 0, 0xFFF, false⟩
    ∧ putter.served 0 0xFFF = some ⟨⟨1, 0, 0⟩, 0, 0xFFF, true⟩ ∧ taker.hart.fresh = true ∧ taker.hart.buf = [] ∧ taker.hart.bad 1 = false
    ∧ taker.hart.regs.h.mtr = 0#2 ∧ taker.hart.ew = 64 ∧ taker.hart.begun = false ∧ taker.hart.got = [] ∧ taker.hart.pace = 0 ∧ ((taker.hart.regs.v[(2 : VIdx)]).elt 64 0).bad = false
    ∧ (let ea := ((taker.hart.s 1).toNat + ((taker.hart.regs.v[(2 : VIdx)]).elt 64 0).val * 8) % 2 ^ 64
      ea % 8 = 0 ∧ ea + 8 ≤ 0x200000 ∧ taker.resident 0 ea 1 taker.hart.lsid = true ∧ taker.saving (.spad 0 ea) = false ∧ ea / 8 = 0xFFF)
    ∧ taker.spad.isBad (0 * 2 ^ 21 + 0x7FF8) = false ∧ ((putter.hart.regs.v[(3 : VIdx)]).elt 64 0).bad = false := by decide +kernel
theorem witness_HartStepsComplete_one : (∀ i, taker.hart.writes 0 i ↔ i = 0) ∧ taker.hart.detached ∧ taker.hart.maskSound 0 := by
  have hv : taker.hart.vl = 1 := by decide +kernel
  refine ⟨fun i => ⟨fun h => ?_, fun h => ?_⟩, detached_of _ (by decide +kernel), sound_of _ _ (by decide +kernel)⟩
  · have := h.1; omega
  · subst h; unfold Hart.writes; decide +kernel
/-- A GLB load whose data returns later, through a cached translation. -/
def loading : State :=
  { waiting .mem (.ldd true 2 1 0) 4 2 (sc [(1, 0x4000FFF8)]) fun h => { h with lateGlb := true, hcr := { h.hcr with ptroot := 0x1000 } } with
    tlb := [leaf0, ⟨.spire 0, 1, false, 0x40000000, 0x10000, true, true, true, 0x100000⟩] }
theorem witness_HartStepsComplete_load : isWaiting loading .mem (.ldd true 2 1 0) = true ∧ loading.hart.lateGlb = true ∧ loading.hart.bad 1 = false
    ∧ (loading.pieces loading.hart.who .glb .load .load ⟨true, false, false⟩ (loading.hart.s 1 + (0#13).signExtend 64).toNat 8).toOption
        = some [⟨.dev 0x10FFF8, 0x4000FFF8, 8⟩]
    ∧ (readPieces (loading.ownByte loading.hart) [⟨.dev 0x10FFF8, 0x4000FFF8, 8⟩]).any (·.2) = false := by decide +kernel
/-- An image of one logical Spire with one FP32 data link of two slots from port 3 to port 2 (14 Tables 14-2 to 14-4). -/
def image1 : List (BitVec 64) :=
  [BitVec.ofNat 64 (0x47464358 + 2 ^ 32 + 2 ^ 40), 1, 0, 0, 0, 0, 0, 0,
   BitVec.ofNat 64 (2 ^ 60 + 9 * 2 ^ 54 + 9 * 2 ^ 49 + 2 * 2 ^ 43 + 3 * 2 ^ 19 + 2 * 2)]
/-- The fabric of Cupola 0 that runs it for the team, with the slots of its link. -/
def fabric1 (slots : List Slot) : Fabric :=
  { Fabric.reset 0 with state := .run, ctx := 1, team := 0, group := 0, groups := 1, addr := 0x40000000, image := image1, links := [⟨0, slots, 2⟩] }
def slot0 (st : SlotState) : Slot := ⟨0, st, none, { SlotData.zero with n := 4, data := 0x3F800000 }, 0⟩
def slot1 : Slot := ⟨1, .free, none, SlotData.zero, 1⟩
/-- A hart that waits on port 2 for a slot to read, or on port 3 for a slot to write. -/
def atPort (c : Stall) (q : QIdx) (slots : List Slot) : State :=
  { waiting c (.vaddF .fp32 8 4 (.vv 4) 0) 4 2
      (fun r => (r.setQ 2 { Stream.idle with kind := 6, att := true, vreg := 4, fmt := 9, complete := true }).setQ 3
        { Stream.idle with kind := 7, dir := true, att := true, vreg := 8, fmt := 9, complete := true }) (fun h => { h with waitQ := some q }) with
    arg := .stream ⟨1, 0, 0⟩ q 0, fabrics := [fabric1 slots] }
def inSlot : State := atPort .slotIn 2 [slot0 .landed, slot1]
def outSlot : State := atPort .slotOut 3 [slot0 .landed, slot1]
/-- The port delivers at the instruction's own step. -/
def portReader : State := { inSlot with hart := { inSlot.hart with stall := none, waitQ := none, regs := inSlot.hart.regs.setQ 3 Stream.idle } }
theorem witness_AttachedStreams_port : let h := portReader.hart
    let q := h.regs.q[(2 : QIdx)]
    (q.att = true ∧ ∀ r : QIdx, r ≠ 2 → (h.regs.q[r]).att = false) ∧ q.vreg = 4 ∧ q.delivered = false
    ∧ q.kind = 6#4 ∧ q.width = h.ew ∧ (Format.ofCode q.fmt.toNat).isSome = true ∧ fmtScaled q.format = false
    ∧ portReader.portLink h 2 false = some (fabric1 [slot0 .landed, slot1], 0) ∧ portReader.portBad = [] ∧ (slot0 .landed).x.n ≤ h.vl := by
  decide +kernel
theorem witness_HartStepsComplete_slots : isWaiting inSlot .slotIn (.vaddF .fp32 8 4 (.vv 4) 0) = true ∧ inSlot.hart.waitQ = some 2
    ∧ inSlot.portLink inSlot.hart 2 false = some (fabric1 [slot0 .landed, slot1], 0) ∧ (fabric1 [slot0 .landed, slot1]).state ≠ .stopped
    ∧ ((fabric1 [slot0 .landed, slot1]).linkState 0).firstSlot (fun y => y.st == .held) = none
    ∧ ((fabric1 [slot0 .landed, slot1]).linkState 0).firstSlot (fun y => y.st == .landed) = some (slot0 .landed)
    ∧ ((inSlot.hart.regs.q[(2 : QIdx)]).att = true ∧ (inSlot.hart.regs.q[(2 : QIdx)]).kind = 6#4)
    ∧ ((outSlot.hart.regs.q[(3 : QIdx)]).att = true ∧ (outSlot.hart.regs.q[(3 : QIdx)]).kind = 7#4 ∧ (fabric1 [slot0 .landed, slot1]).state = .run)
    ∧ isWaiting outSlot .slotOut (.vaddF .fp32 8 4 (.vv 4) 0) = true ∧ outSlot.hart.waitQ = some 3
    ∧ outSlot.portLink outSlot.hart 3 true = some (fabric1 [slot0 .landed, slot1], 0)
    ∧ (fabric1 [slot0 .landed, slot1]).canReserve 0 ((fabric1 [slot0 .landed, slot1]).destWaits 0) = true := by decide +kernel
/-- `aepi.bf16.fp32` to a port that is not attached waits for a slot as well. -/
def outTile : State :=
  let s := waiting .slotOut (.aepi .bf16 false 3 1 2) 4 2
      (fun r => r.setQ 3 { Stream.idle with kind := 7, dir := true, fmt := 11, complete := true }) (fun h => { h with waitQ := some 3 })
  { s with arg := .stream ⟨1, 0, 0⟩ 3 0, fabrics := [fabric1 [slot0 .landed, slot1]] }
theorem witness_HartStepsComplete_tile : isWaiting outTile .slotOut (.aepi .bf16 false 3 1 2) = true ∧ outTile.hart.waitQ = some 3
    ∧ (outTile.hart.regs.q[(3 : QIdx)]).kind = 7#4 ∧ (outTile.hart.regs.q[(3 : QIdx)]).att = false
    ∧ outTile.portLink outTile.hart 3 true = some (fabric1 [slot0 .landed, slot1], 0) ∧ (fabric1 [slot0 .landed, slot1]).state = .run
    ∧ (fabric1 [slot0 .landed, slot1]).canReserve 0 ((fabric1 [slot0 .landed, slot1]).destWaits 0) = true := by decide +kernel
/-- An affine FP32 input whose element 1023 is the last that 2 VLMAX allows, of which element 1022 has been fetched ahead: in the scalar
data memory, and one whose element 1023 lies past the end of its window. -/
def ahead (base : Word) (w : List (Nat × Byte × Bool)) : State :=
  { part (hart 4 2 (fun r => r.setQ 1 { Stream.idle with kind := 1, fmt := 9, base := base, d3 := 2047, d5 := 4, complete := true,
                                                         ahead := [⟨false, 1022, 7, false, none, w⟩] }) id) with arg := .stream ⟨1, 0, 0⟩ 1 1023 }
theorem witness_HartStepsComplete_ahead : let ahead0 := ahead 0x200000 []
    let x := ahead0.hart.regs.q[(1 : QIdx)]
    ahead0.hart.hcr.run = 1#2 ∧ ahead0.hart.out = false ∧ ahead0.hart.hcr.sstate = 0#3 ∧ x.kind = 1#4 ∧ x.dir = false ∧ x.complete = true ∧ x.done = false
    ∧ x.nextAhead x.n.toNat = 1023 ∧ 1023 < x.total ∧ 1023 < x.n.toNat + 2 * ahead0.hart.vlmax x.width ∧ 8 ≤ x.width
    ∧ (ahead0.pieces ahead0.hart.who x.sp .load .stream ⟨true, false, false⟩ (x.ea 1023 (x.i3 1023 * x.str 3)) (x.width / 8)).toOption
        = some [⟨.sdm 0 4092, 0x200FFC, 4⟩]
    ∧ (readPieces (ahead0.seenByte ahead0.hart.phys) [⟨.sdm 0 4092, 0x200FFC, 4⟩]).any (·.2) = false
    ∧ (match (ahead 0x300000 []).pieces ahead0.hart.who x.sp .load .stream ⟨true, false, false⟩ (0x300000 + 1023 * 4) 4 with
      | .error (.bad _ _, _) => true
      | _ => false) = true
    ∧ x.held (x.ea 1023 (x.i3 1023 * x.str 3)) 4 = none := by decide +kernel
/-- The word that element 1023 lies in has been read ahead with element 1022. -/
theorem witness_HartStepsComplete_held : let s := ahead 0x200000 ((List.range 8).map fun i => (0x200FF8 + i, BitVec.ofNat 8 i, false))
    let x := s.hart.regs.q[(1 : QIdx)]
    x.held (x.ea 1023 (x.i3 1023 * x.str 3)) 4 = some [(4, false), (5, false), (6, false), (7, false)] ∧ x.nextAhead x.n.toNat = 1023 := by decide +kernel
/-- A strip in COMMIT that holds a store, one that is empty, and a strip that has lasted its whole watchdog time. -/
def committing : State :=
  { given (.hart ⟨1, 0, 0⟩) with hart := { stored.hart with stall := some .mem, hcr := { stored.hart.hcr with sstate := 1 } } }
def committed : State := { committing with hart := { committing.hart with buf := [], fresh := true } }
def timed : State :=
  { given (.hart ⟨1, 0, 0⟩) with hart := hart 4 2 id fun h => { h with fresh := false, stripNs := 500, hcr := { h.hcr with wdog := 500, tvec := 0x4000 } } }
theorem witness_HartStepsComplete_strip : committing.hart.hcr.run = 1#2 ∧ committing.hart.hcr.sstate = 1#3 ∧ committing.hart.fresh = false
    ∧ committing.hart.buf = [.store [⟨.sdm 0 0xFFFE, 0x20FFFE, [1, 2], false, false⟩]]
    ∧ committing.shut 0 ⟨.sdm 0 0xFFFE, 0x20FFFE, [1, 2], false, false⟩ = false
    ∧ committed.hart.fresh = true ∧ committed.hart.hcr.sstate = 1#3 ∧ committed.releasing = false
    ∧ timed.hart.hcr.run = 1#2 ∧ timed.hart.out = false ∧ timed.hart.takeable = false ∧ timed.hart.timed = true ∧ timed.hart.hcr.wdog ≠ 0#32
    ∧ timed.hart.hcr.wdog.toNat ≤ timed.hart.stripNs ∧ timed.hart.hcr.tvec ≠ 0#64 ∧ timed.hart.inHandler = false := by decide +kernel

/-- Device memory with the descriptor of context 1 at 0x10_0000: its backing begins at 0x20_0000 and its presence bits at 0x40_0000; one byte
of the backing of page 63 is 9. -/
def backed : Mem := ((Mem.empty.setN 0x100008 8 0x200000).setN 0x100010 8 0x400000).set (0x200000 + 63 * 32768 + 5) 9
/-- The last page of Spire 2, to be restored for logical Spire 0 of context 1. -/
def restoring : State :=
  { given (.nums 2 63 0) with dev := backed, frames := [⟨2 * 64 + 63, 0, 0, false, false, false, false, false, some (1, 0)⟩] }
theorem witness_MemoryStepsComplete_restore :
    (restoring.dev.wf && restoring.host.wf && restoring.spad.wf && restoring.sdm.wf) = true ∧ 63 < 64
    ∧ restoring.frames.find? (fun y => y.key == 2 * 64 + 63) = some ⟨2 * 64 + 63, 0, 0, false, false, false, false, false, some (1, 0)⟩
    ∧ restoring.backing 1 0 63 2 = (0x200000 + 63 * 32768, 0x400000 + 63 * 512) ∧ (false && false) = false ∧ 0x200000 + 63 * 32768 + 32768 ≤ Config.devEnd
    ∧ 0x400000 + 63 * 512 + 512 ≤ Config.devEnd ∧ restoring.farFrom 2 (.dev (0x200000 + 63 * 32768)) 32768 = false
    ∧ restoring.farFrom 2 (.dev (0x400000 + 63 * 512)) 512 = false := by decide +kernel
/-- The only frame, dirty, whose page SPSAVE names; and a save that names no dirty page. -/
def dirtyFrame (asked : Bool) : Frame := ⟨2 * 64 + 63, 1, 0, true, true, true, false, asked, none⟩
def saving (v : Word) : State :=
  { given (.value 2 v) with dev := backed, frames := [dirtyFrame false], spad := Mem.empty.set (2 * 2 ^ 21 + 63 * 32768) 4 }
/-- A save that waits, whose backing can be written, is held by the host, or cannot be reached. -/
def askedSave : State := { saving 0 with arg := .nums 2 63 0, frames := [dirtyFrame true] }
def heldSave (s : State) : State := { s with hostLines := [(0x200000 + 63 * 32768) / 64] }
def farSave (s : State) : State := { s with belfry := { s.belfry with trams := s.belfry.trams.map fun x => { x with st := .down } }, dev :=
  (Mem.empty.setN 0x100008 8 (Config.dieBytes + 0x200000)).setN 0x100010 8 0x400000 }
def isSaver (x : State) : Bool :=
  x.backing 1 0 63 2 == (0x200000 + 63 * 32768, 0x400000 + 63 * 512)
  && (x.devFree 2 (0x200000 + 63 * 32768) 32768).toOption.isSome && (x.devFree 2 (0x400000 + 63 * 512) 512).toOption.isSome
  && (match (heldSave x).devFree 2 (0x200000 + 63 * 32768) 32768 with
    | .error (.hold line) => line == (0x200000 + 63 * 32768) / 64
    | _ => false)
  && (match (farSave x).devFree 2 ((farSave x).backing 1 0 63 2).1 32768 with
    | .error .wait => true
    | _ => false)
theorem witness_MemoryStepsComplete_save : let s := saving 0x8000000000000000
    (s.dev.wf && s.spad.wf) = true ∧ s.frames = [dirtyFrame false] ∧ (0x8000000000000000#64).getLsbD 63 = true
    ∧ (dirtyFrame true = { dirtyFrame false with asked := true } ∧ (dirtyFrame false).key = 2 * 64 + 63 ∧ (dirtyFrame false).dirty = true
      ∧ (dirtyFrame false).resident = true ∧ ((dirtyFrame false).ctx, (dirtyFrame false).lsid) = (1, 0))
    ∧ isSaver s = true ∧ isSaver askedSave = true
    ∧ 0x200000 + 63 * 32768 + 32768 ≤ 0x400000 + 63 * 512
    ∧ (∀ y ∈ (saving 1).frames, y.key / 64 = 2 → (1#64).getLsbD (y.key % 64) = true → y.resident = true → y.dirty = false)
    ∧ ∀ y ∈ (saving 1).frames, y.key = 2 * 64 + 63 → y.asked = true → y.dirty = true → y.resident = false := by decide +kernel
theorem witness_MemoryStepsComplete_registers : (given (.value 31 5)).rings[31]? = some FaultRing.reset ∧ FaultRing.reset.held = []
    ∧ (given (.value 7 5)).invs[7]? = some InvBlock.reset ∧ InvBlock.reset.busy = false ∧ (5#64).getLsbD 31 = false ∧ (0x80000000#64).getLsbD 31 = true
    ∧ ({ InvBlock.reset with busy := true } : InvBlock).busy = true := by decide +kernel
/-- An invalidation in progress with nothing behind it, and one with another behind it. -/
def invalidating (q : List (BitVec 64)) : State :=
  { given (.nums 7 0 0) with invs := State.reset.invs.set 7 { InvBlock.reset with busy := true, queued := q } }
/-- The same while a begun access holds a translated address. -/
def busyInvalidation : State :=
  { invalidating [] with hart := { (invalidating []).hart with begun := true, todo := [⟨0, 0, ⟨.dev 0x3000, 0x3000, 8⟩⟩] } }
/-- A walk that finds a leaf of 1 GiB, and one that finds no entry; a miss of Spire 1 on the page waits for it. -/
def walking (v : Word) : State :=
  { part (hart 4 2 id fun h => { h with hcr := { h.hcr with ptroot := 0x1000 } }) with
    tlb := [], misses := [⟨0, 1, false, 4, [1]⟩], arg := .walk 0 1 false v, dev := (Mem.empty.setBytes 0x1000 [0x01#8, 0x20#8]).setBytes 0x2000 [0x1F#8] }
theorem witness_MemoryStepsComplete_translation : (invalidating []).invs[7]? = some { InvBlock.reset with busy := true }
    ∧ (invalidating [0x80000001#64]).invs[7]? = some { InvBlock.reset with busy := true, queued := [0x80000001#64] }
    ∧ (0x80000001#64).getLsbD 31 = true ∧ (invalidating []).flight = [] ∧ (∀ h ∈ (invalidating []).harts, h.translated = false)
    ∧ busyInvalidation.hart ∈ busyInvalidation.harts ∧ busyInvalidation.hart.translated = true
    ∧ (0x4000#64).toNat < 2 ^ 48 ∧ (walking 0x4000).rootOf 0 1 false = some 0x1000 ∧ (walking 0x4000).tlb = []
    ∧ ((walking 0x4000).walk 0 1 false 0x1000 0x4000).toOption = some ⟨0, 0x40000000, 0, true, true, true⟩
    ∧ (0x40000000#64).toNat < 2 ^ 48 ∧ (match (walking 0x40000000).walk 0 1 false 0x1000 0x40000000 with
      | .error .away => false
      | .error _ => true
      | .ok _ => false) = true
    ∧ (match (farSave (walking 0)).walk 0 1 false (Config.dieBytes + 0x1000) 0 with
      | .error .away => true
      | _ => false) = true := by decide +kernel
/-- Two stores in flight to different bytes, a HOST store, and the host's access to the last line of device memory. -/
def unit1 (a : Nat) : StoreUnit := ⟨.dev a, a, [7, 8], false, false⟩
def flight1 (lvl a : Nat) : Flight := ⟨some ⟨1, 0, 0⟩, 0, lvl, [unit1 a]⟩
def flying (lvl lvl1 : Nat) : State := { given (.nums 1 lvl 0) with dev := backed, flight := [flight1 0 0x2000, flight1 lvl1 0x3006] }
def hosted : State :=
  { given (.nums 0 0 0) with hostOut := [⟨some ⟨1, 0, 0⟩, 0, 0, [⟨.host 0x3006, 0x3006, [7, 8], false, false⟩]⟩], backInv := [0], hostLines := [0] }
theorem witness_MemoryStepsComplete_stores : (flying 1 0).flight[1]? = some (flight1 0 0x3006) ∧ (flying 0 1).flight[1]? = some (flight1 1 0x3006)
    ∧ (∀ y ∈ (flying 1 0).flight.take 1, (y.level == 0 && y.phys == (flight1 0 0x3006).phys && y.clash (flight1 0 0x3006)) = false)
    ∧ (flying 0 1).blocked (flight1 1 0x3006) = false ∧ (flight1 1 0x3006).far (flying 0 1) = false
    ∧ (flying 0 1).hostHolds (flight1 1 0x3006).origin (unit1 0x3006) = none ∧ 0x3006 % 8 + 2 ≤ 8
    ∧ ((unit1 0x3006).log = false ∨ ((flying 0 1).ctxdesc = [] ∧ 0x3006 + 2 ≤ (flying 0 1).descOf 1
      ∧ (flying 0 1).descWord (flight1 1 0x3006).origin 0 / 2 ^ 16 % 2 = 0)) ∧ (flying 0 1).dev.wf = true
    ∧ hosted.hostOut[0]? = some ⟨some ⟨1, 0, 0⟩, 0, 0, [⟨.host 0x3006, 0x3006, [7, 8], false, false⟩]⟩ ∧ 0 ∈ hosted.backInv
    ∧ (∀ r ∈ hosted.rings, r.held = []) ∧ hosted.overflow = [] := by decide +kernel
/-- The host writes the last two bytes of device memory; a word of Spire 511 that the scrubber cannot correct, one that it corrects, and one of a stack. -/
def hostWrite : HostAccess := { write := true, addr := 0xBFFFFFFFFE, bytes := [1, 2], poison := false }
theorem witness_MemoryStepsComplete_host : hostWrite.addr % 64 + hostWrite.bytes.length ≤ 64 ∧ hostWrite.addr + hostWrite.bytes.length ≤ Config.devEnd
    ∧ hostWrite.addr < Config.devEnd ∧ (given (.hostAccess hostWrite)).arg = .hostAccess hostWrite
    ∧ (given (.hostAccess hostWrite)).copying hostWrite.addr 2 = false
    ∧ (given (.scrub (.spad 511 262143) true)).arg = .scrub (.spad 511 262143) true ∧ (given (.granule (.line 3))).arg = .granule (.line 3)
    ∧ (∀ w, ScrubSite.spad 511 262143 ≠ .dev w) ∧ (given (.scrub (.dev 5) false)).arg = .scrub (.dev 5) false
    ∧ (given (.scrub (.vreg ⟨1, 0, 0⟩ 31 255) true)).arg = .scrub (.vreg ⟨1, 0, 0⟩ 31 255) true :=
  ⟨by decide +kernel, by decide +kernel, by decide +kernel, rfl, by decide +kernel, rfl, rfl, fun _ => by simp, rfl, rfl⟩

/-- A command number 3 of the hart with long opcode lop, W1, W2 and operand values; the scalar data memory holds two bytes at its start. -/
def cmd (lop w1 w2 : Nat) (d a b : Word) (st : CmdState) : Cmd :=
  { k := 3, hart := ⟨1, 0, 0⟩, phys := 0, engine := 0, words := ⟨BitVec.ofNat 32 (0x3F * 2 ^ 26 + lop * 2 ^ 20), BitVec.ofNat 32 w1, BitVec.ofNat 32 w2, 0, d, a, b⟩,
    landed := 0, read := none, shadow := [], full := false, st := st, episode := 0 }
def commanded (c : Cmd) (a : StepArg) : State := { given a with cmds := [c], sdm := (Mem.empty.set 0 5).set 1 6 }
/-- A copy of 2^40 + 1 bytes; one of two bytes to the last two of the scalar data memory, waiting and parked under ticket 0. -/
def copyLong : State := commanded (cmd 4 0 0 0x20FFFE 0x200000 (2 ^ 40 + 1) .queued) (.nums 3 0 0)
def copyShort : State := commanded (cmd 4 0 0 0x20FFFE 0x200000 2 .queued) (.nums 3 0 0)
def ticket0 : Word := BitVec.ofNat 64 (Config.ticketBase 0 % 2 ^ 56 * 256)
def copyParked : State := commanded (cmd 4 0 0 0x20FFFE 0x200000 2 (.parked 0 false)) (.value 3 ticket0)
theorem witness_EngineStepsComplete_copy :
    copyLong.cmds.find? (fun y => y.k == 3 && y.words.lop == 4 && (y.st == .queued || y.st == .begun)) = some (cmd 4 0 0 0x20FFFE 0x200000 (2 ^ 40 + 1) .queued)
    ∧ (∀ y ∈ copyLong.cmds, y.hart = ⟨1, 0, 0⟩ → y.words.lop = 4 → 3 ≤ y.k) ∧ 2 ^ 40 < (2 ^ 40 + 1#64).toNat
    ∧ copyShort.cmds.find? (fun y => y.k == 3 && y.words.lop == 4 && (y.st == .queued || y.st == .begun)) = some (cmd 4 0 0 0x20FFFE 0x200000 2 .queued)
    ∧ copyShort.farFrom 0 (.sdm (team0.sdmSpire (0 / team0.perSpire)) 0) 1 = false
    ∧ copyShort.sdm.wf = true ∧ copyShort.hostOut = [] ∧ (0x200000 ≤ 0x20FFFE ∧ 0x20FFFE + 2 ≤ 0x210000) ∧ copyShort.team 1 0 = some team0 := by decide +kernel
/-- A two-dimensional and a transposing copy of 2 rows of 2 elements of 2 bytes within the scalar data memory, its source and destination
pitches 4 and 8; one whose source pitch is odd; and linear copies of two bytes to the end of a word of GLB and of HOST. -/
def planeCmd (form spitch : Nat) : Cmd :=
  let c := cmd 4 0 spitch 0x20FF00 0x200000 (2 ^ 33 + 2) .queued
  { c with words := { c.words with w0 := c.words.w0 + BitVec.ofNat 32 (8 * form + 1), w3 := 8 } }
def planeSrc (i : Nat) : Loc := .sdm 0 (i / 4 * 4 + i / 2 % 2 * 2 + i % 2)
def planeDst (form i : Nat) : Loc :=
  .sdm 0 (if form = 1 then 0xFF00 + i / 4 * 8 + i / 2 % 2 * 2 + i % 2 else 0xFF00 + i / 2 % 2 * 8 + i / 4 * 2 + i % 2)
theorem witness_EngineStepsComplete_planes : ∀ form ∈ [1, 2],
    let c := planeCmd form 4
    let s := commanded c (.nums 3 0 0)
    s.cmds.find? (fun y => y.k == 3 && y.words.lop == 4 && (y.st == .queued || y.st == .begun)) = some c
    ∧ c.words.w0.toNat % 32 / 8 = form ∧ 2 ^ (c.words.w0.toNat % 8) = 2 ∧ c.words.b.toNat % 2 ^ 32 * (c.words.b.toNat / 2 ^ 32) * 2 = 8
    ∧ (c.words.a.toNat % 2 = 0 ∧ c.words.d.toNat % 2 = 0 ∧ c.words.w2.toNat % 2 = 0 ∧ c.words.w3.toNat % 2 = 0)
    ∧ c.landed = 0 ∧ c.read = none ∧ c.shadow = [] ∧ s.hostOut = [] ∧ c.words.dspace = .loc
    ∧ (∀ i, i < 8 → (s.engHome c.hart c.phys c.words.sspace false (0x200000 + i / 4 * 4 + i / 2 % 2 * 2 + i % 2)).toOption = some (planeSrc i)
        ∧ (s.engHome c.hart c.phys c.words.dspace true
            (if form = 1 then 0x20FF00 + i / 4 * 8 + i / 2 % 2 * 2 + i % 2 else 0x20FF00 + i / 2 % 2 * 8 + i / 4 * 2 + i % 2)).toOption = some (planeDst form i)
        ∧ s.saving (planeDst form i) = false)
    ∧ (∀ i, i < 8 → ∀ j, j < 8 → planeDst form i = planeDst form j → i = j) ∧ (planeCmd form 3).words.w2.toNat % 2 ≠ 0 := by decide +kernel
def wordCmd (space : Nat) : Cmd := cmd 4 (space * 2 ^ 21) 0 0x3006 0x200000 2 .queued
def wordState (space : Nat) : State :=
  { commanded (wordCmd space) (.nums 3 0 0) with tlb := [leaf0, { leaf0 with host := true }] }
theorem witness_EngineStepsComplete_word : ∀ e ∈ [(2, Loc.dev 0x3006), (3, Loc.host 0x3006)],
    let s := wordState e.1
    let c := wordCmd e.1
    s.cmds.find? (fun y => y.k == 3 && y.words.lop == 4 && (y.st == .queued || y.st == .begun)) = some c ∧ c.words.w0.toNat % 32 / 8 = 0
    ∧ c.words.b.toNat = 2 ∧ c.words.d.toNat % 8 + 2 ≤ 8
    ∧ (∀ i, i < 2 → (s.engHome c.hart c.phys c.words.sspace false (0x200000 + i)).toOption = some (.sdm 0 i))
    ∧ (s.engHome c.hart c.phys c.words.dspace true 0x3006).toOption = some e.2 ∧ 0x3006 % 8 + 2 ≤ 8 ∧ s.hostLines = [] ∧ s.ctxdesc = []
    ∧ 0x3006 + 2 ≤ s.descOf 1 ∧ s.descWord c.origin 0 / 2 ^ 16 % 2 = 0 := by decide +kernel
theorem ticket_is (n : Nat) (h : n < 2 ^ 56) : (BitVec.ofNat 64 (n * 256)).toNat / 256 = n := by
  rw [BitVec.toNat_ofNat]; omega
theorem witness_EngineStepsComplete_ticket : ticketIs ticket0 0 = true ∧ copyParked.landings = [] ∧ copyParked.dist.cBusy = false :=
  ⟨by unfold ticketIs ticket0; rw [ticket_is _ (Nat.mod_lt _ (Nat.two_pow_pos 56))]; exact beq_self_eq_true _, rfl, rfl⟩
/-- A command that ended with code 9, whose W1 names token 15 and status word 8191 of the scalar data memory. -/
def ended : State := commanded (cmd 5 (15 + 2 ^ 4 + 2 ^ 5 + 8191 * 2 ^ 6) 0 0 0 0 (.ended 9)) (.nums 3 0 0)
theorem witness_EngineStepsComplete_end : ended.cmds.find? (fun y => y.k == 3) = some (cmd 5 (15 + 2 ^ 4 + 2 ^ 5 + 8191 * 2 ^ 6) 0 0 0 0 (.ended 9))
    ∧ (∀ y ∈ ended.cmds, y.hart = ⟨1, 0, 0⟩ → 3 ≤ y.k) ∧ (∀ y ∈ ended.dist.teams, y.ending = false) ∧ (⟨1, 0, 0⟩ : HartId) = ended.hart.id ∧ ended.hart.hcr.run ≠ 0#2 ∧ ended.team 1 0 = some team0
    ∧ team0.task.n = 0 := by decide +kernel
/-- One byte of a put that lands in a mapped page and is not the last of its tag. -/
def landing : State :=
  { given (.put ⟨1, 77, 0x4000FFFF, [7], [true], none, none⟩) with
    tlb := [⟨.spire 512, 1, false, 0x40000000, 0x10000, true, true, true, 0x200000⟩]
    dist := { Distributor.reset with teams := [team0], arrivals := [⟨1, 77, 3, 1, 9⟩] } }
theorem witness_EngineStepsComplete_put : landing.arrival 77 = some ⟨1, 77, 3, 1, 9⟩ ∧ 1 + 1 < 3
    ∧ (∀ y ∈ landing.heldPuts, y.1.tag ≠ 77) ∧ landing.farFrom 512 (.dev 0x20FFFF) 1 = false ∧ landing.hostLines = [] ∧ landing.ctxdesc = [] ∧ landing.dist.cBusy = false
    ∧ (landing.translate 512 1 false (((landing.context 1).map fun y => y.ptroot.toNat).getD 0) .store ⟨false, true, false⟩ 0x4000FFFF).toOption = some 0x20FFFF
    ∧ landing.descOf 1 + 8 ≤ 0x20FFFF ∧ landing.descWord ⟨1, 512⟩ 0 / 2 ^ 16 % 2 = 0 ∧ landing.dev.wf = true := by decide +kernel
/-- Collective 6 of an image, over npkg packages with one hart each (14 Table 14-2, R323). -/
def collWord (npkg : Nat) : BitVec 64 := BitVec.ofNat 64 (3 * 2 ^ 60 + 2 ^ 56 + 6 * 2 ^ 48 + npkg * 2 ^ 34)
def collFabric (npkg : Nat) : Fabric :=
  { Fabric.reset 0 with state := .run, ctx := 1, groups := 1,
                        image := [BitVec.ofNat 64 (0x47464358 + 2 ^ 32 + 2 ^ 40), BitVec.ofNat 64 (2 ^ 32), 0, 0, 0, 0, 0, 0, collWord npkg] }
def joining : State := { commanded (cmd 5 0 (2 + 6 * 2 ^ 8) 0x200000 0x200000 4 .queued) (.nums 3 0 0) with fabrics := [collFabric 2] }
theorem witness_EngineStepsComplete_join :
    joining.cmds.find? (fun y => y.k == 3 && y.words.lop == 5 && y.st == .queued) = some (cmd 5 0 (2 + 6 * 2 ^ 8) 0x200000 0x200000 4 .queued)
    ∧ joining.team 1 0 = some team0 ∧ joining.findHart ⟨1, 0, 0⟩ = some joining.hart ∧ joining.activeFabric 1 0 = some (collFabric 2) ∧ joining.overflow = []
    ∧ (collFabric 2).collEntry (cmd 5 0 (2 + 6 * 2 ^ 8) 0x200000 0x200000 4 .queued).words.collId = some (collWord 2)
    ∧ joining.rankOf team0 (collWord 2) 0 = (some 0, 2) ∧ 1 < 2 ∧ joining.episodes = [] := by decide +kernel
/-- The whole result of the only rank lands in the last two bytes of the scalar data memory. -/
def chunked : State :=
  { commanded (cmd 5 0 (2 + 6 * 2 ^ 8) 0x200000 0x20FFFE 2 .begun) (.chunk 1 0 6 0 0 0 0) with
    fabrics := [collFabric 1]
    episodes := [{ ctx := 1, team := 0, id := 6, number := 0, ranks := [⟨0, 3⟩], result := [[(7, false), (8, false)]], parked := [], early := [] }] }
theorem witness_EngineStepsComplete_chunk : let e : Episode := { ctx := 1, team := 0, id := 6, number := 0, ranks := [⟨0, 3⟩], result := [[(7, false), (8, false)]], parked := [], early := [] }
    chunked.episodes.find? (fun y => y.is 1 0 6 0) = some e ∧ chunked.episodeSize e = 1 ∧ 1 ≤ e.ranks.length ∧ e.parked = []
    ∧ e.result[0]? = some [(7, false), (8, false)]
    ∧ (chunked.rankCmds e (chunked.episodeSize e)).find? (fun y => y.1 == 0) = some (0, cmd 5 0 (2 + 6 * 2 ^ 8) 0x200000 0x20FFFE 2 .begun)
    ∧ chunked.farFrom 0 (.sdm (team0.sdmSpire (0 / team0.perSpire)) 0) 1 = false ∧ (∀ y ∈ chunked.cmds, y.hart = ⟨1, 0, 0⟩ → 3 ≤ y.k)
    ∧ (cmd 5 (0 : Nat) (2 + 6 * 2 ^ 8) 0x200000 0x20FFFE 2 .begun).words.lop = 5 ∧ chunked.team 1 0 = some team0 ∧ chunked.sdm.wf = true ∧ (0x200000 ≤ 0x20FFFE ∧ 0x20FFFE + 2 ≤ 0x210000) := by decide +kernel

/-- A link word of the image, data (FP32, two slots) or control (permit count k), between two endpoints (14 Tables 14-3 and 14-4). -/
def dataLink (src dst : Nat) : BitVec 64 := BitVec.ofNat 64 (2 ^ 60 + 9 * 2 ^ 54 + 9 * 2 ^ 49 + 2 * 2 ^ 43 + src * 2 ^ 19 + dst * 2)
def ctlLink (k src dst : Nat) : BitVec 64 := BitVec.ofNat 64 (2 ^ 60 + 2 ^ 59 + k * 2 ^ 37 + src * 2 ^ 19 + dst * 2)
/-- Port 3 to a delay node of two elements to port 2, with tokens of port 5 to a permit node and to token counter 15 of hart 0. -/
def image2 : List (BitVec 64) :=
  [BitVec.ofNat 64 (0x47464358 + 2 ^ 32 + 2 ^ 40), BitVec.ofNat 64 (4 + 2 * 2 ^ 16), 0, 0, 0, 0, 0, 0,
   dataLink 3 (2 ^ 15), dataLink (2 ^ 15 + 8) 2, ctlLink 4 5 (2 ^ 15 + 256 + 7), ctlLink 0 5 (2 ^ 16 + 15),
   BitVec.ofNat 64 (2 * 2 ^ 60 + 3 * 2 ^ 56 + 9 * 2 ^ 45 + 2 * 2 ^ 32 + 5), BitVec.ofNat 64 (2 * 2 ^ 60 + 7 * 2 ^ 56 + 9 * 2 ^ 45)]
def node0 (d : Option SlotData) : NodeState := ⟨0, [], 0, 0, d, [], [], 0, 0, false⟩
def node1 : NodeState := ⟨1, [], 65534, 0, none, [], [], 0, 0, false⟩
/-- The fabric of Cupola 0 that runs image2: a slot in flight to the delay node, whose output link has a free slot, and two tokens. -/
def fabric2 : Fabric :=
  { Fabric.reset 0 with
    state := .run, ctx := 1, team := 0, group := 0, groups := 1, addr := 0x40000000, image := image2
    links := [⟨0, [slot0 .flying, slot1], 2⟩, ⟨1, [{ slot1 with no := 0 }, slot1], 0⟩], nodes := [node0 (some ⟨1, 7, 0, 0, 0⟩), node1]
    tokens := [⟨3, false⟩, ⟨2, false⟩] }
def woven (f : Fabric) (j : Nat) (t : Team) : State :=
  { given (.nums 0 j 0) with fabrics := [f], dist := { Distributor.reset with teams := [t] } }
theorem witness_FabricStepsComplete_run : let s := woven fabric2 0 team0
    s.arg = .nums 0 0 0 ∧ s.fabric 0 = some fabric2 ∧ fabric2.state = .run ∧ s.leaving fabric2 = false
    ∧ (fabric2.linkState 0).firstSlot (fun x => x.st == .flying) = some (slot0 .flying) ∧ epPort (linkDst (imgLink image2 0)) = none
    ∧ 0 < imgNodes fabric2.image ∧ (fabric2.nodeState 0).delay = some ⟨1, 7, 0, 0, 0⟩ ∧ fabric2.termLink 0 8 true = some 1
    ∧ fabric2.canReserve 1 (fabric2.destWaits 1) = true := by decide +kernel
theorem witness_FabricStepsComplete_tokens : fabric2.tokens.find? (fun t => t.link == 2) = some ⟨2, false⟩
    ∧ epOf (linkDst (imgLink image2 2)) = .node 1 7 ∧ nodeKind (imgNode image2 1) = 7 ∧ (fabric2.nodeState 1).permits < 65535
    ∧ fabric2.tokens.find? (fun t => t.link == 3) = some ⟨3, false⟩ ∧ epOf (linkDst (imgLink image2 3)) = .counter 0 0 15
    ∧ (woven fabric2 3 team0).team fabric2.ctx fabric2.team = some team0 ∧ 0 < team0.perSpire ∧ (woven fabric2 3 team0).hart.hcr.run ≠ 0#2
    ∧ (woven fabric2 3 team0).hart.id = ⟨fabric2.ctx, fabric2.team, (fabric2.group * team0.task.n + 0) * team0.perSpire + 0⟩ := by decide +kernel
/-- A fabric that loads image1 from device address 0x200000 for FCMD, and one that waits for the quiescent point to flip. -/
def fabric3 (st : FabState) : Fabric :=
  { fabric1 [{ slot1 with no := 0 }, slot1] with state := st, load := some ⟨0x40000000, 1⟩, inact := image2, inactAddr := 0x40000800 }
def team1 : Team := { team0 with task := { task0 with n := 1, image := 0x40000000 } }
def fetching : State :=
  { woven (fabric3 .loading) 0 team1 with
    tlb := [⟨.spire 512, 1, false, 0x40000000, 0x10000, true, true, true, 0x200000⟩]
    dev := image1.zipIdx.foldl (fun m x => m.setN (0x200000 + 8 * x.2) 8 x.1.toNat) Mem.empty }
theorem witness_FabricStepsComplete_load : fetching.arg = .nums 0 0 0 ∧ fetching.fabric 0 = some (fabric3 .loading)
    ∧ (fabric3 .loading).load = some ⟨0x40000000, 1⟩ ∧ fetching.cupolaTeam 0 = some (team1, 0)
    ∧ fetching.loadWords (fabric3 .loading) ⟨0x40000000, 1⟩ (team1.savedFabric 0) = .words image1
    ∧ (checkImage (fetching.fabEnv 0 team1 0) image1).1 = 0 ∧ (fabric3 .drain).quiescent = true := by decide +kernel

/-- A part whose only team is t, with a write of TMCMD that goes with an operation on team 5 of context 1. -/
def ordered (op : Nat) (t : Team) : State :=
  { given (.value 0 (BitVec.ofNat 64 (2 ^ 48 + 5 * 2 ^ 16 + op * 16 + 1))) with
    dist := { Distributor.reset with teams := [t] }, contexts := [{ context1 with cxslots := 1 }] }
/-- The state when the operation begins. -/
def begun (s : State) : State := { s with tm := { s.tm with ctxid := 1, handle := 5 } }
def frozen : Team := { team0 with st := .frozen, place := [none] }
/-- A hart in OUT by a page fault. -/
def faulted (op : Nat) : State :=
  { ordered op team0 with
    hart := hart 4 2 id fun h => { h with hcr := { h.hcr with sstate := 3, tvec := 0x4000 }, fault := some ⟨0, 1, 0, 0, 0, 2, 0x4000, 7, 3⟩ } }
theorem witness_TeamStepsComplete_operations : (ordered 15 team0).tm.busy = false
    ∧ (BitVec.ofNat 64 (2 ^ 48 + 5 * 2 ^ 16 + 15 * 16 + 1)).getLsbD 0 = true ∧ (BitVec.ofNat 64 (2 ^ 48 + 5 * 2 ^ 16 + 15 * 16 + 1)).toNat / 16 % 16 = 15
    ∧ ({ ordered 4 team0 with tm := { TmRegs.reset with ctxid := 1, handle := 6, op := 4 } } : State).tmTeam = none
    ∧ (begun (ordered 4 team0)).tmTeam = some team0 ∧ team0.freezing = false ∧ (∀ x ∈ (ordered 4 team0).dist.teams, x.ending = false)
    ∧ (ordered 4 team0).cmds = [] ∧ (ordered 4 team0).landings = [] ∧ (ordered 4 team0).episodes = []
    ∧ (begun (ordered 1 team0)).liveTeam = some team0 ∧ team0.source = none ∧ (ordered 1 team0).slotFor team0 = true
    ∧ (begun (ordered 1 frozen)).liveTeam = some frozen ∧ ((List.range 512).filter (ordered 3 frozen).unretired).length = 512
    ∧ frozen.groups = [] ∧ (ordered 3 frozen).badDesc 1 = false := by decide +kernel
/-- A device range of the first die within device memory that the host holds nothing of can be written while no row is copied. -/
theorem devFree_of (s : State) (a n : Nat) (hn : a + n ≤ Config.devEnd) (ha : a / Config.dieBytes = 0) (hl : s.hostLines = []) (hr : s.belfry.retWait = none)
    (hj : s.belfry.joined (dieOf 512) 0 = true) : s.devFree 512 a n = .ok () := by
  have h1 : devOk a n = .ok () := if_pos hn
  have h2 : s.heldLine a n = none := by unfold State.heldLine; rw [hl]; split <;> rfl
  have h3 : s.farFrom 512 (.dev a) n = false := by unfold State.farFrom State.copying; simp [ha, hj, hr]
  unfold State.devFree
  simp [h1, h2, h3]
theorem witness_TeamStepsComplete_image : let s := { ordered 2 frozen with tm := { TmRegs.reset with len := 1000000 } }
    (begun s).liveTeam = some frozen ∧ frozen.st = .frozen ∧ frozen.freezing = false ∧ s.context 1 = some { context1 with cxslots := 1 }
    ∧ (ordered 2 frozen).tm.len.toNat < ((ordered 2 frozen).buildImage frozen { context1 with cxslots := 1 }).length
    ∧ (s.buildImage frozen { context1 with cxslots := 1 }).length ≤ s.tm.len.toNat
    ∧ s.devFree 512 (s.tm.img.toNat / 4096 * 4096) (s.buildImage frozen { context1 with cxslots := 1 }).length = .ok () := by
  have a := length_image (ordered 2 frozen) frozen { context1 with cxslots := 1 } (by decide) (by decide) (by decide) (by decide) (by decide) (by decide)
    (by decide) (by decide)
  have b := length_image { ordered 2 frozen with tm := { TmRegs.reset with len := 1000000 } } frozen { context1 with cxslots := 1 } (by decide) (by decide)
    (by decide) (by decide) (by decide) (by decide) (by decide) (by decide)
  refine ⟨by decide +kernel, rfl, rfl, by decide +kernel, Nat.lt_of_le_of_lt (show _ ≤ 0 by decide +kernel) a.2,
    Nat.le_trans b.1 (by decide +kernel), ?_⟩
  have e1 : ({ ordered 2 frozen with tm := { TmRegs.reset with len := 1000000 } } : State).tm.img.toNat / 4096 * 4096 = 0 := by decide +kernel
  have e2 : 1000000 ≤ Config.devEnd := by decide +kernel
  rw [e1]
  exact devFree_of _ _ _ (by omega) (by decide) rfl (by decide +kernel) (by decide +kernel)
theorem witness_TeamStepsComplete_fault : let s := faulted 6
    (begun s).liveTeam = some team0 ∧ s.hart.id = ⟨1, 0, s.tm.arg.toNat⟩ ∧ s.hart.hcr.run ≠ 0#2 ∧ s.hart.hcr.sstate = 3#3 ∧ s.hart.out = false
    ∧ s.hart.fault = some ⟨0, 1, 0, 0, 0, 2, 0x4000, 7, 3⟩ ∧ s.hart.hcr.tvec ≠ 0#64 := by decide +kernel
/-- A team whose only hart has left for a freeze, and one that waits to be placed again. -/
def freezing : State :=
  { given (.nums 1 0 0) with
    hart := hart 4 2 id fun h => { h with out := true, hcr := { h.hcr with run := 2, sstate := 3 } }
    dist := { Distributor.reset with teams := [{ team0 with freezing := true }] } }
theorem witness_TeamStepsComplete_freeze : freezing.team 1 0 = some { team0 with freezing := true } ∧ freezing.cmds = [] ∧ freezing.fabrics.length = 32 ∧ freezing.episodes = [] ∧ team0.ending = false ∧ team0.saveSlot = none
    ∧ (∀ ls, ls < 1 → freezing.spireOut { team0 with freezing := true } ls = true) ∧ freezing.flight ++ freezing.hostOut = []
    ∧ (∀ f ∈ freezing.frames, (Team.owns { team0 with freezing := true } f && f.dirty) = false)
    ∧ ∀ f ∈ freezing.fabrics, ¬ (f.ctx = 1 ∧ f.team = 0) := by decide +kernel
def waitingTeam : Team := { team0 with st := .switchedOut, place := [none], task := { task0 with ready := true } }
def returning : State :=
  { freezing with arg := .nothing, frames := [], contexts := [{ context1 with launched := some 0 }], dist := { Distributor.reset with en := true, teams := [waitingTeam] } }
theorem witness_TeamStepsComplete_resume : (match returning.select.2 with
      | some (.place c l) => (c.team == some waitingTeam) && l.all (fun y => returning.hasHarts waitingTeam y.1)
          && (returning.team c.task.ctx c.task.order).isSome && c.task.order == 0
      | _ => false) = true ∧ waitingTeam.fabric = [] ∧ waitingTeam.source = none ∧ waitingTeam.st = .switchedOut ∧ returning.frames = []
    ∧ returning.flight = [] ∧ returning.dist.cBusy = false ∧ (returning.context 1).map (·.launched) = some (some 0) := by decide +kernel
/-- A hart that is asked to leave in an empty strip. -/
def asked : State := { given (.hart ⟨1, 0, 0⟩) with hart := hart 4 2 id fun h => { h with preemptReq := true } }
theorem witness_TeamStepsComplete_leave : asked.arg = .hart asked.hart.id ∧ asked.hart.hcr.run = 1#2 ∧ asked.hart.out = false
    ∧ asked.hart.preemptReq = true ∧ asked.hart.fabricReq = false ∧ asked.hart.takeable = true ∧ asked.flight ++ asked.hostOut = []
    ∧ asked.team asked.hart.id.ctx asked.hart.id.team = some team0 ∧ team0.preempting = false ∧ team0.evict = [] ∧ team0.task.cosched = true := by
  decide +kernel

end Sys2Proof.Tests
end

section
/-! Package reset (00 R8, 01 R16): what the reset values read as, register by register and entry by entry. -/
namespace Sys2Proof.Machine

@[simp] theorem Mem.get_empty (a : Nat) : Mem.empty.get a = 0 := rfl

/-- 01 R16: `s0` reads 0 by its accessor, every other scalar register by its reset value. -/
@[simp] theorem Hart.reset_s (r : SReg) : Hart.reset.s r = 0 := by
  unfold Hart.s Regs.getS
  split
  · rfl
  · exact Vector.getElem_replicate r.isLt

@[simp] theorem Regs.reset_v (r : VIdx) : Regs.reset.v[r] = VReg.zero := Vector.getElem_replicate r.isLt

@[simp] theorem Regs.reset_a (r : AIdx) : Regs.reset.a[r] = Tile.zero := Vector.getElem_replicate r.isLt

@[simp] theorem Regs.reset_q (r : QIdx) : Regs.reset.q[r] = Stream.idle := Vector.getElem_replicate r.isLt

@[simp] theorem Hart.reset_tk (n : TkIdx) : Hart.reset.tk[n] = 0 := Vector.getElem_replicate n.isLt

theorem Belfry.mem_reset_speed (x : Speed) : x ∈ Belfry.reset.speed ↔ ∃ p < 512, Speed.reset p = x := by
  simp only [Belfry.reset, List.mem_map, List.mem_range]

/-- The retire table is empty: no Spire's entry says retired (log 12). -/
theorem Belfry.reset_not_retired (x : Speed) (hx : x ∈ Belfry.reset.speed) : x.ret = false := by
  obtain ⟨p, -, rfl⟩ := (Belfry.mem_reset_speed x).1 hx
  rfl

/-- Settles O6: the register files, the retire table and memory by the lemmas above, each single field by its reset value. -/
theorem resetValues : Obligations.ResetValues := by
  unfold Obligations.ResetValues
  exact ⟨rfl, rfl, Hart.reset_s, rfl, Regs.reset_v, Regs.reset_a, Regs.reset_q, Hart.reset_tk,
    rfl, rfl, rfl, rfl, rfl, rfl, rfl, rfl, Belfry.reset_not_retired, Mem.get_empty⟩

end Sys2Proof.Machine
end

section
/-! Registers, token counters and HCRs (01 R16, R21, R23, R24): what a write leaves to be read, and what the two HCR accesses do with each
number. -/
namespace Sys2Proof.Machine

/-! ### Scalar and mask registers -/

theorem Hart.setS_zero (h : Hart) (v : Word) (p : Bool) : h.setS 0 v p = h := rfl

theorem Regs.setM_zero (x : Regs) (k : MReg) : x.setM 0 k = x := rfl

/-- A write of a scalar register leaves everything but the scalar file and its poison. -/
theorem Regs.setS_frame (x : Regs) (d : SReg) (v : Word) (p : Bool) : ∃ y z, x.setS d v p = { x with s := y, sPoison := z } := by
  unfold Regs.setS
  split
  · exact ⟨_, _, rfl⟩
  · exact ⟨_, _, rfl⟩

theorem Regs.setM_frame (x : Regs) (d : MIdx) (k : MReg) : ∃ y, x.setM d k = { x with m := y } := by
  unfold Regs.setM
  split
  · exact ⟨_, rfl⟩
  · exact ⟨_, rfl⟩

/-- A scalar register after a write of one, `s0` apart. -/
theorem Hart.s_setS (h : Hart) (d r : SReg) (v : Word) (p : Bool) :
    (h.setS d v p).s r = if r = 0 then 0#64 else if r = d then v else h.s r := by
  refine (Regs.getS_setS h.regs d r v p).trans ?_
  by_cases hr : r = 0
  · subst hr
    rw [if_pos rfl, if_neg (fun e => e.2 e.1.symm)]
    rfl
  · by_cases hd : r = d
    · subst hd; simp [hr]
    · simp [hr, hd]; rfl

theorem Hart.bad_setS (h : Hart) (d r : SReg) (v : Word) (p : Bool) :
    (h.setS d v p).bad r = if r = 0 then false else if r = d then p else h.bad r := by
  refine (Regs.badS_setS h.regs d r v p).trans ?_
  by_cases hr : r = 0
  · subst hr
    rw [if_pos rfl, if_neg (fun e => e.2 e.1.symm)]
    rfl
  · by_cases hd : r = d
    · subst hd; simp [hr]
    · simp [hr, hd]; rfl

theorem Regs.getM_zero (x : Regs) : x.getM 0 = ⟨BitVec.allOnes 2048, 0#2048⟩ := rfl

/-- Settles O10: what each register reads after a write, by the laws of the two register files. -/
theorem hardwiredRegisters : Obligations.HardwiredRegisters := by
  unfold Obligations.HardwiredRegisters
  refine ⟨fun h d r v p => ⟨h.s_setS d r v p, h.bad_setS d r v p, h.setS_zero v p, ?_⟩,
    fun x d r k => ⟨?_, x.setM_zero k, x.setM_frame d k⟩⟩
  · obtain ⟨y, z, e⟩ := h.regs.setS_frame d v p
    exact ⟨y, z, congrArg (fun g => { h with regs := g }) e⟩
  · rw [Regs.getM_setM]
    by_cases hr : r = 0
    · subst hr
      rw [if_pos rfl, if_neg fun e => e.2 e.1.symm, Regs.getM_zero]
    · by_cases hd : r = d
      · subst hd; simp [hr]
      · simp [hr, hd]

/-! ### Token counters (01 R21) -/

theorem Hart.token_full (h : Hart) (n : TkIdx) (e : h.tk[n] = 0xFFFF#16) : h.token n = { h with hcr := { h.hcr with tkovf := true } } := if_pos e

theorem Hart.token_below (h : Hart) (n : TkIdx) (e : h.tk[n] ≠ 0xFFFF#16) : h.token n = { h with tk := h.tk.set n (h.tk[n] + 1#16) } := if_neg e

/-- Settles O30: by whether the counter stands at its greatest value; a discard names neither field. -/
theorem tokenCounterSaturates : Obligations.TokenCounterSaturates := by
  unfold Obligations.TokenCounterSaturates
  intro h n m
  by_cases e : h.tk[n] = 0xFFFF#16
  · rw [h.token_full n e]
    exact ⟨(if_neg fun c => c.2 e).symm, by rw [e]; simp, rfl, rfl, rfl⟩
  · rw [h.token_below n e]
    refine ⟨?_, by rw [beq_false_of_ne e]; simp, rfl, rfl, rfl⟩
    by_cases hm : m = n
    · subst hm
      exact (Vector.getElem_set_self m.isLt).trans (if_pos ⟨rfl, e⟩).symm
    · rw [if_neg fun c => hm c.1]
      exact Vector.getElem_set_ne n.isLt m.isLt fun c => hm (Fin.ext c.symm)

/-! ### HCR accesses (01 R23, R24, Tables 1-3 and 1-4) -/

theorem hcrPrivileged_iff (n : Nat) : hcrPrivileged n = true ↔ 0x100 ≤ n ∧ n ≤ 0x104 := by simp [hcrPrivileged]

theorem not_hcrPrivileged (n : Nat) (h : n < 0x100 ∨ 0x104 < n) : hcrPrivileged n = false := by
  rw [Bool.eq_false_iff, ne_eq, hcrPrivileged_iff]; omega

theorem hcrPrivileged_of_team (n : Nat) (h : teamHcr n) : hcrPrivileged n = false :=
  not_hcrPrivileged n (by unfold teamHcr at h; omega)

/-- `hcrr` and `hcrw` know the numbers of Table 1-3 and no others. -/
theorem hcrValue_of_team (s : State) (n : Nat) (h : teamHcr n) : ∃ v, hcrValue s n = some v := by
  rcases h with h | h | h | h | h | rfl
  · interval_cases n <;> exact ⟨_, rfl⟩
  · obtain ⟨h1, h2⟩ := h; interval_cases n <;> exact ⟨_, rfl⟩
  · obtain ⟨h1, h2⟩ := h; interval_cases n <;> exact ⟨_, rfl⟩
  · obtain ⟨h1, h2⟩ := h; interval_cases n <;> exact ⟨_, rfl⟩
  · obtain ⟨h1, h2⟩ := h; interval_cases n <;> exact ⟨_, rfl⟩
  · exact ⟨_, rfl⟩

theorem hcrValue_unlisted (s : State) (n : Nat) (h : ¬ teamHcr n) : hcrValue s n = none := by
  unfold hcrValue
  dsimp only
  split
  rotate_right
  · rfl
  all_goals exact absurd (by unfold teamHcr; decide) h

section
variable (s : State) (n : BitVec 16)

theorem hcrr_listed (d : SReg) (v : Word) (hp : hcrPrivileged n.toNat = false) (hv : hcrValue s n.toNat = some v) :
    exec (.hcrr d n) s = .next (s.goesOn (s.hart.setS d v false) 4) := by
  rw [exec_hcrr]
  simp only [execHcrr, plain, plainN, hp, hv]
  rfl

theorem hcrr_privileged (d : SReg) (hp : hcrPrivileged n.toNat = true) : exec (.hcrr d n) s = s.take (.trap 0x03 0 none) := by
  rw [exec_hcrr]
  simp only [execHcrr, plain, plainN, hp]
  rfl

theorem hcrr_unlisted (d : SReg) (ht : ¬ teamHcr n.toNat) (hn : n.toNat < 0x100 ∨ 0x104 < n.toNat) :
    exec (.hcrr d n) s = s.take (.trap 0x01 0 none) := by
  rw [exec_hcrr]
  simp only [execHcrr, plain, plainN, not_hcrPrivileged _ hn, hcrValue_unlisted s _ ht]
  rfl

theorem hcrw_privileged (a : SReg) (hp : hcrPrivileged n.toNat = true) : exec (.hcrw a n) s = s.take (.trap 0x03 0 none) := by
  rw [exec_hcrw]
  simp only [execHcrw, plain, plainN, hp]
  rfl

theorem hcrw_unlisted (a : SReg) (ht : ¬ teamHcr n.toNat) (hn : n.toNat < 0x100 ∨ 0x104 < n.toNat) :
    exec (.hcrw a n) s = s.take (.trap 0x01 0 none) := by
  rw [exec_hcrw]
  simp only [execHcrw, plain, plainN, not_hcrPrivileged _ hn, hcrValue_unlisted s _ ht]
  rfl

theorem hcrw_poisoned (a : SReg) (ht : teamHcr n.toNat) (hb : s.hart.bad a = true) :
    exec (.hcrw a n) s = s.take (.trap 0x0E 0 none) := by
  obtain ⟨v, hv⟩ := hcrValue_of_team s _ ht
  rw [exec_hcrw]
  simp only [execHcrw, plain, plainN, hcrPrivileged_of_team _ ht, hv, Hart.clean, failIf, hb]
  rfl

/-- A write of a listed HCR whose flags do not trap: each of the two groups of registers takes its part of it, and the flags stand. -/
theorem hcrw_listed (a : SReg) (y : StripHcr) (f : FlagSet) (ht : teamHcr n.toNat) (hb : s.hart.bad a = false)
    (hw : s.hart.regs.h.write n.toNat (s.hart.s a) = (y, f)) (hf : f &&& y.fenable &&& 0x00FF#16 = 0#16) :
    exec (.hcrw a n) s = .next (s.goesOn
      { s.hart with hcr := s.hart.hcr.write n.toNat (s.hart.s a)
                    regs := { s.hart.regs with h := { y with fflags := y.fflags ||| (f &&& 0x00FF#16) } } } 4) := by
  obtain ⟨v, hv⟩ := hcrValue_of_team s _ ht
  rw [exec_hcrw]
  have hq : f &&& y.fenable &&& 0x00FF#16 = (0 : FlagSet) := hf
  simp only [execHcrw, plain, plainN, hcrPrivileged_of_team _ ht, hv, Hart.clean, failIf, hb, hw, Hart.raise, Hart.enabled, hq]
  rfl

/-- A write of a HCR of the checkpoint that raises no flag. -/
theorem hcrw_strip (a : SReg) (y : StripHcr) (ht : teamHcr n.toNat) (hb : s.hart.bad a = false)
    (hw : s.hart.regs.h.write n.toNat (s.hart.s a) = (y, 0)) (hx : s.hart.hcr.write n.toNat (s.hart.s a) = s.hart.hcr) :
    exec (.hcrw a n) s = .next (s.goesOn { s.hart with regs := { s.hart.regs with h := y } } 4) := by
  rw [hcrw_listed s n a y 0 ht hb hw (by simp), hx]
  simp

/-- A write of a HCR outside the checkpoint. -/
theorem hcrw_hcr (a : SReg) (x : Hcr) (ht : teamHcr n.toNat) (hb : s.hart.bad a = false)
    (hx : s.hart.hcr.write n.toNat (s.hart.s a) = x) (hw : s.hart.regs.h.write n.toNat (s.hart.s a) = (s.hart.regs.h, 0)) :
    exec (.hcrw a n) s = .next (s.goesOn { s.hart with hcr := x } 4) := by
  rw [hcrw_listed s n a _ 0 ht hb hw (by simp), hx]
  simp
end

/-- The privileged numbers of 01 Table 1-3. -/
theorem hcrPrivileged_of_mem : ∀ n ∈ [0x100#16, 0x101#16, 0x102#16, 0x103#16, 0x104#16], hcrPrivileged n.toNat = true := by
  simp only [List.forall_mem_cons]
  exact ⟨rfl, rfl, rfl, rfl, rfl, List.forall_mem_nil _⟩

/-- Settles O26: each number by its row of Table 1-3, the rest by the two traps. -/
theorem hcrReadCompletes : Obligations.HcrReadCompletes := by
  unfold Obligations.HcrReadCompletes
  intro d s h reads
  have row (n : BitVec 16) (v : Word) (hp : hcrPrivileged n.toNat = false) (hv : hcrValue s n.toNat = some v) : reads n v :=
    hcrr_listed s n d v hp hv
  clear_value reads
  refine ⟨row _ _ rfl rfl, row _ _ rfl rfl, row _ _ rfl rfl, row _ _ rfl rfl, row _ _ rfl rfl, row _ _ rfl rfl,
    row _ _ rfl rfl, row _ _ rfl rfl, row _ _ rfl rfl, row _ _ rfl rfl, row _ _ rfl rfl, row _ _ rfl rfl,
    row _ _ rfl rfl, row _ _ rfl rfl, row _ _ rfl rfl, row _ _ rfl rfl, row _ _ rfl rfl, row _ _ rfl rfl,
    row _ _ rfl rfl, row _ _ rfl rfl, row _ _ rfl rfl, row _ _ rfl rfl, row _ _ rfl rfl, row _ _ rfl rfl,
    row _ _ rfl rfl, row _ _ rfl rfl, row _ _ rfl rfl, row _ _ rfl rfl, row _ _ rfl rfl, row _ _ rfl rfl,
    row _ _ rfl rfl, row _ _ rfl rfl, row _ _ rfl rfl, row _ _ rfl rfl, row _ _ rfl rfl, row _ _ rfl rfl,
    fun n hn => hcrr_privileged s n d (hcrPrivileged_of_mem n hn), fun n => hcrr_unlisted s n d⟩

/-- The numbers of Table 1-3 that `hcrw` may name and that no write changes. -/
theorem hcrw_readOnly_of_mem (x : Hcr) (y : StripHcr) (v : Word) : ∀ n ∈ [0x000#16, 0x001#16, 0x010#16, 0x011#16, 0x012#16, 0x013#16,
    0x014#16, 0x015#16, 0x016#16, 0x020#16, 0x021#16, 0x022#16, 0x028#16, 0x029#16, 0x02A#16, 0x02B#16, 0x02C#16, 0x02D#16],
    teamHcr n.toNat ∧ x.write n.toNat v = x ∧ y.write n.toNat v = (y, 0) := by
  have row (n : BitVec 16) (ht : teamHcr n.toNat) (hx : x.write n.toNat v = x) (hy : y.write n.toNat v = (y, 0)) :
      teamHcr n.toNat ∧ x.write n.toNat v = x ∧ y.write n.toNat v = (y, 0) := ⟨ht, hx, hy⟩
  simp only [List.forall_mem_cons]
  have low {n : Nat} (h : n ≤ 0x00C) : teamHcr n := .inl h
  have ids {n : Nat} (h : 0x010 ≤ n ∧ n ≤ 0x016) : teamHcr n := .inr (.inl h)
  have time {n : Nat} (h : 0x020 ≤ n ∧ n ≤ 0x022) : teamHcr n := .inr (.inr (.inr (.inl h)))
  have stalls {n : Nat} (h : 0x028 ≤ n ∧ n ≤ 0x02D) : teamHcr n := .inr (.inr (.inr (.inr (.inl h))))
  exact ⟨row _ (low (by decide)) rfl rfl, row _ (low (by decide)) rfl rfl, row _ (ids (by decide)) rfl rfl, row _ (ids (by decide)) rfl rfl,
    row _ (ids (by decide)) rfl rfl, row _ (ids (by decide)) rfl rfl, row _ (ids (by decide)) rfl rfl, row _ (ids (by decide)) rfl rfl,
    row _ (ids (by decide)) rfl rfl, row _ (time (by decide)) rfl rfl, row _ (time (by decide)) rfl rfl, row _ (time (by decide)) rfl rfl,
    row _ (stalls (by decide)) rfl rfl, row _ (stalls (by decide)) rfl rfl, row _ (stalls (by decide)) rfl rfl,
    row _ (stalls (by decide)) rfl rfl, row _ (stalls (by decide)) rfl rfl, row _ (stalls (by decide)) rfl rfl, List.forall_mem_nil _⟩

/-- A modulus that is not allowed changes no register and raises mrange (01 R24). -/
theorem hcrw_rejected (a : SReg) (s : State) (n : BitVec 16) (hn : n = 0x006#16 ∨ n = 0x007#16) (hb : s.hart.bad a = false)
    (hv : modValid (s.hart.s a) = false) (hm : s.hart.flagsMasked) :
    exec (.hcrw a n) s = .next (s.goesOn { s.hart with regs := { s.hart.regs with
      h := { s.hart.regs.h with fflags := s.hart.regs.h.fflags ||| 0x0080#16 } } } 4) := by
  have ht : teamHcr n.toNat := by rcases hn with rfl | rfl <;> exact .inl (by decide)
  have hw : s.hart.regs.h.write n.toNat (s.hart.s a) = (s.hart.regs.h, flMrange) := by
    rcases hn with rfl | rfl <;> exact if_neg (by simp [hv])
  have hx : s.hart.hcr.write n.toNat (s.hart.s a) = s.hart.hcr := by rcases hn with rfl | rfl <;> rfl
  rw [hcrw_listed s n a _ _ ht hb hw (enabled_masked s.hart flMrange hm), hx]
  rfl

/-- Settles O27: each number by its row of Table 1-3; a rejected modulus raises mrange, which masked flags leave to stand. -/
theorem hcrWriteCompletes : Obligations.HcrWriteCompletes := by
  unfold Obligations.HcrWriteCompletes
  refine ⟨fun a n s hb ht => hcrw_poisoned s n a ht hb, fun a s hb => ?_⟩
  intro h v team out
  have strip (n : BitVec 16) (y : StripHcr) (hn : n.toNat ≤ 0x00C) (hw : h.regs.h.write n.toNat v = (y, 0)) (hx : h.hcr.write n.toNat v = h.hcr) :
    team n y := hcrw_strip s n a y (.inl hn) hb hw hx
  have trapReg (n : BitVec 16) (x : Hcr) (hn : 0x018 ≤ n.toNat ∧ n.toNat ≤ 0x01D) (hx : h.hcr.write n.toNat v = x)
    (hw : h.regs.h.write n.toNat v = (h.regs.h, 0)) : out n x := hcrw_hcr s n a x (.inr (.inr (.inl hn))) hb hx hw
  refine ⟨strip _ _ (by decide) rfl rfl, fun hv => strip _ _ (by decide) ?_ rfl, fun hv => strip _ _ (by decide) ?_ rfl,
    strip _ _ (by decide) rfl rfl, strip _ _ (by decide) rfl rfl,
    fun hv => ⟨strip _ _ (by decide) (if_pos hv) rfl, strip _ _ (by decide) (if_pos hv) rfl⟩,
    fun hv hm => ⟨hcrw_rejected a s _ (.inl rfl) hb hv hm, hcrw_rejected a s _ (.inr rfl) hb hv hm⟩,
    strip _ _ (by decide) rfl rfl, strip _ _ (by decide) rfl rfl, strip _ _ (by decide) rfl rfl, strip _ _ (by decide) rfl rfl,
    strip _ _ (by decide) rfl rfl, trapReg _ _ (by decide) rfl rfl, trapReg _ _ (by decide) rfl rfl, trapReg _ _ (by decide) rfl rfl,
    trapReg _ _ (by decide) rfl rfl, trapReg _ _ (by decide) rfl rfl, trapReg _ _ (by decide) rfl rfl,
    hcrw_hcr s _ a _ (.inr (.inr (.inr (.inr (.inr rfl))))) hb rfl rfl, fun n hn => ?_,
    fun n hn => hcrw_privileged s n a (hcrPrivileged_of_mem n hn), fun n => hcrw_unlisted s n a⟩
  · exact congrArg (fun y => (y, (0 : FlagSet))) (if_pos hv)
  · exact congrArg (fun y => (y, (0 : FlagSet))) (if_neg (Nat.not_lt.2 hv))
  · obtain ⟨ht, hx, hw⟩ := hcrw_readOnly_of_mem h.hcr h.regs.h v n hn
    exact hcrw_hcr s n a _ ht hb hx hw

end Sys2Proof.Machine
end

section
/-! The commit of a strip (01 R28, R29): what its end changes, and the commit of a buffer that waits for nothing. -/
namespace Sys2Proof.Machine

/-! ### The end of a commit -/

/-- The slots that a committed strip of hart h received are free again (14 Table 14-1). -/
def State.freePorts (s : State) (h : Hart) : State :=
  (List.finRange 8).foldl (fun s q => if h.regs.q[q].delivered && h.regs.q[q].kind == 6 then s.freePort h q else s) s

/-- The farm claim of a committed strip of hart h is consumed (09 R222). -/
def State.consumeClaim (s : State) (h : Hart) : State :=
  if h.claimed then s.updTeam h.id.ctx h.id.team fun t => { t with farm := t.farm.consume h.id.lhid } else s

/-- The end of the commit of hart h, once its entries have performed: its ports, its farm claim, its registers (01 R29). -/
def State.endStrip (s : State) (h : Hart) : State :=
  let t := (s.freePorts h).consumeClaim h
  { t with hart := { h with links := t.hart.links }.committed }

theorem State.freePort_frame (s : State) (h : Hart) (q : QIdx) : ∃ fs, s.freePort h q = { s with fabrics := fs } := by
  unfold State.freePort
  split
  · exact ⟨_, rfl⟩
  · exact ⟨_, rfl⟩

/-- Freeing ports changes the fabrics alone. -/
theorem State.freePorts_frame (s : State) (h : Hart) : ∃ fs, s.freePorts h = { s with fabrics := fs } := by
  unfold State.freePorts
  generalize List.finRange 8 = l
  induction l generalizing s with
  | nil => exact ⟨_, rfl⟩
  | cons q l ih =>
    rw [List.foldl_cons]
    split
    · obtain ⟨fs, e⟩ := s.freePort_frame h q
      rw [e]
      exact ih { s with fabrics := fs }
    · exact ih s

/-- The end of a commit changes the fabrics, the farm claim and its hart. -/
theorem State.endStrip_frame (s : State) (h : Hart) :
    ∃ fs, s.endStrip h = { s.consumeClaim h with fabrics := fs, hart := { h with links := s.hart.links }.committed } := by
  obtain ⟨fs, e⟩ := s.freePorts_frame h
  unfold State.endStrip State.consumeClaim
  rw [e]
  split
  · exact ⟨fs, rfl⟩
  · exact ⟨fs, rfl⟩

theorem State.consumeClaim_frame (s : State) (h : Hart) : ∃ d, s.consumeClaim h = { s with dist := d } := by
  unfold State.consumeClaim
  split
  · exact ⟨_, rfl⟩
  · exact ⟨_, rfl⟩

/-- What the end of a commit leaves: all but the fabrics, the distributor and its hart. -/
theorem State.endStrip_keeps (s : State) (h : Hart) :
    ∃ fs d, s.endStrip h = { s with fabrics := fs, dist := d, hart := { h with links := s.hart.links }.committed } := by
  obtain ⟨fs, e⟩ := s.endStrip_frame h
  obtain ⟨d, e'⟩ := s.consumeClaim_frame h
  exact ⟨fs, d, by rw [e, e']⟩

/-! ### Commits that wait for nothing -/

/-- No store of a strip buffer has to wait (11 R261, 16 R374). -/
def State.storesFree (s : State) (p : Nat) (b : List BufEntry) : Prop :=
  ∀ us, BufEntry.store us ∈ b → ∀ u ∈ us, s.shut p u = false

theorem State.storesFree_iff (s : State) (p : Nat) (b : List BufEntry) : s.storesFree p b ↔
    (b.any fun e => match e with
      | .store us => us.any fun u => s.shut p u
      | _ => false) = false := by
  rw [List.any_eq_false]
  constructor
  · intro h e he
    cases e with
    | store us => simpa using fun u hu => h us he u hu
    | _ => simp
  · intro h us he u hu
    have := h _ he
    simp only [List.any_eq_true, not_exists, not_and, Bool.not_eq_true] at this
    exact this u hu

/-- The commit of a strip whose stores are free, whose commands find room and whose releases need not wait (01 R29). -/
theorem State.commit_done (s r v : State) (hs : s.storesFree s.hart.phys s.hart.buf)
    (hd : (if (bufCmds s.hart.buf).isEmpty then .ok s else s.drain fun f => f.onPath s.hart.phys) = .ok r)
    (hp : placeable (Config.copyQueue - (r.cmds.filter fun c => c.waits (engineOf s.hart.phys)).length) (bufCmds s.hart.buf) = bufCmds s.hart.buf)
    (hr : (s.hart.buf.foldl (performEntry s.hart) ((bufCmds s.hart.buf).foldl (fun x c => x.place s.hart c) r)).releaseStores s.hart = .ok v) :
    s.commit = .ok ((s.hart.buf.foldl (releaseEntry s.hart) v).endStrip s.hart, true) := by
  have hs' := (s.storesFree_iff _ _).1 hs
  unfold State.commit
  dsimp only
  refine (if_neg (Bool.eq_false_iff.1 hs')).trans ?_
  simp only [hd, hp, Nat.lt_irrefl, if_false, hr]
  rfl

/-- The commit of a strip that holds stores alone: they perform in order. -/
theorem State.commit_stores (s : State) (hb : ∀ e ∈ s.hart.buf, ∃ us, e = .store us ∧ ∀ u ∈ us, s.shut s.hart.phys u = false) :
    s.commit = .ok ((s.hart.buf.foldl (performEntry s.hart) s).endStrip s.hart, true) := by
  have hc : bufCmds s.hart.buf = [] := by
    refine List.filterMap_eq_nil_iff.2 fun e he => ?_
    obtain ⟨us, rfl, -⟩ := hb e he
    rfl
  have hq : (s.hart.buf.filterMap fun e => match e with
      | .port q _ => some q
      | _ => none) = [] := by
    refine List.filterMap_eq_nil_iff.2 fun e he => ?_
    obtain ⟨us, rfl, -⟩ := hb e he
    rfl
  have hrel (t : State) : s.hart.buf.foldl (releaseEntry s.hart) t = t := by
    generalize s.hart.buf = b at hb
    induction b generalizing t with
    | nil => rfl
    | cons e b ih =>
      obtain ⟨us, rfl, -⟩ := hb e List.mem_cons_self
      exact ih t fun e he => hb e (List.mem_cons_of_mem _ he)
  have hfree : s.storesFree s.hart.phys s.hart.buf := fun us he u hu => by
    obtain ⟨vs, e, hv⟩ := hb _ he
    cases e
    exact hv u hu
  have hrs (t : State) : t.releaseStores s.hart = .ok t := by
    unfold State.releaseStores
    exact if_pos (List.isEmpty_iff.2 hq)
  have h := s.commit_done s (s.hart.buf.foldl (performEntry s.hart) s) hfree (by rw [hc]; rfl) (by rw [hc]; rfl) (by rw [hc]; exact hrs _)
  rwa [hrel] at h

theorem State.commit_empty (s : State) (hb : s.hart.buf = []) : s.commit = .ok (s.endStrip s.hart, true) := by
  have h := s.commit_stores (by rw [hb]; exact fun e he => absurd he List.not_mem_nil)
  rwa [hb] at h

theorem State.close_fresh (s : State) (hf : s.hart.fresh = true) : s.close =
    .ok ({ s with hart := { s.hart with stall := none, stripNs := if s.hart.hcr.sstate = 2#3 then s.hart.stripNs else 0 } }, true) := by
  unfold State.close
  rw [if_pos hf]
  rfl

theorem State.close_commit (s : State) (hf : s.hart.fresh = false) : s.close = s.commit := by
  unfold State.close
  rw [if_neg (by rw [hf]; decide)]

/-- The token counters after a commit: what `tkwait` has promised is taken (09 R217). -/
theorem Hart.committed_tk (h : Hart) (n : TkIdx) :
    h.committed.tk[n] = h.tk[n] - BitVec.ofNat 16 h.tkPend[n] ∧ h.committed.tkPend[n] = 0 :=
  ⟨Vector.getElem_zipWith n.isLt, Vector.getElem_replicate n.isLt⟩

/-- Settles O19: closing an empty strip is its own equation; with an empty buffer the commit is its end alone. -/
theorem stripCloses : Obligations.StripCloses := by
  unfold Obligations.StripCloses
  refine fun s => ⟨s.close_fresh, fun hf hb => ?_⟩
  obtain ⟨fs, d, e⟩ := s.endStrip_keeps s.hart
  refine ⟨s.endStrip s.hart, (s.close_commit hf).trans (s.commit_empty hb), ?_⟩
  rw [e]
  exact ⟨rfl, rfl, rfl, rfl, rfl, rfl, rfl, rfl, rfl, rfl, rfl, rfl, rfl, rfl, rfl, rfl, rfl, rfl, rfl, rfl, rfl, rfl, rfl,
    s.hart.committed_tk⟩

end Sys2Proof.Machine
end

section
/-! What a committed store performs (10 R230, R249, 11 R258): a unit written word by word is one store of its bytes, and a store to GLB or
HOST waits at the Spire or at the CXL port. -/
namespace Sys2Proof.Machine

/-! ### Poison after a store -/

theorem Mem.isBad_store_poisoned (m : Mem) (a b : Nat) (bs : List Byte) (h : bs ≠ []) :
    (m.store a bs true).isBad b = (decide (a / 8 ≤ b / 8 ∧ b / 8 ≤ (a + bs.length - 1) / 8) || m.isBad b) := by
  have hn : 0 < bs.length := List.length_pos_iff.2 h
  unfold Mem.store Mem.isBad
  dsimp only
  rw [if_pos rfl, if_neg (by omega), Bool.eq_iff_iff]
  simp only [List.contains_iff_mem, badRange_mem, Mem.setBytes_bad, Bool.or_eq_true, decide_eq_true_eq]
  exact or_congr_left (by omega)

theorem Mem.isBad_store_clean (m : Mem) (a b : Nat) (bs : List Byte) :
    (m.store a bs false).isBad b = (!decide (a ≤ b / 8 * 8 ∧ b / 8 * 8 + 8 ≤ a + bs.length) && m.isBad b) := by
  unfold Mem.store Mem.isBad
  dsimp only
  rw [if_neg (by decide), Bool.eq_iff_iff]
  simp only [List.contains_iff_mem, List.mem_filter, Mem.setBytes_bad, Bool.and_eq_true, Bool.not_eq_true', Bool.and_eq_false_iff,
    decide_eq_false_iff_not, Nat.mul_comm 8]
  tauto

/-! ### A store in pieces -/

/-- Memory n is memory m after a store of bytes at lo, poisoned or clean (10 R249). -/
def Mem.storedAs (m n : Mem) (lo : Nat) (bs : List Byte) (bad : Bool) : Prop :=
  n.wf = true
  ∧ (∀ a, n.get a = if lo ≤ a ∧ a < lo + bs.length then (bs[a - lo]?).getD 0 else m.get a)
  ∧ ∀ a, n.isBad a = if bad then decide (lo / 8 ≤ a / 8 ∧ a / 8 ≤ (lo + bs.length - 1) / 8) || m.isBad a
      else !decide (lo ≤ a / 8 * 8 ∧ a / 8 * 8 + 8 ≤ lo + bs.length) && m.isBad a

theorem Mem.store_storedAs (m : Mem) (lo : Nat) (bs : List Byte) (bad : Bool) (hw : m.wf = true) (h : bs ≠ []) :
    m.storedAs (m.store lo bs bad) lo bs bad := by
  refine ⟨m.store_wf lo bs bad hw, fun a => m.get_store lo a bs bad hw, fun a => ?_⟩
  cases bad with
  | true => exact m.isBad_store_poisoned lo a bs h
  | false => exact m.isBad_store_clean lo a bs

/-- Two stores that meet at a word boundary are one store. -/
theorem Mem.storedAs_append {m n k : Mem} {lo : Nat} {xs ys : List Byte} {bad : Bool} (hx : xs ≠ []) (hy : ys ≠ [])
    (h8 : (lo + xs.length) % 8 = 0) (h1 : m.storedAs n lo xs bad) (h2 : n.storedAs k (lo + xs.length) ys bad) :
    m.storedAs k lo (xs ++ ys) bad := by
  obtain ⟨-, g1, b1⟩ := h1
  obtain ⟨w2, g2, b2⟩ := h2
  have hx := List.length_pos_iff.2 hx
  have hy := List.length_pos_iff.2 hy
  refine ⟨w2, fun a => ?_, fun a => ?_⟩
  · rw [g2, g1, List.length_append]
    by_cases ha : lo + xs.length ≤ a
    · have : ¬ (lo ≤ a ∧ a < lo + xs.length) := by omega
      rw [if_neg this, List.getElem?_append_right (by omega), Nat.sub_sub]
      exact if_congr (by omega) rfl rfl
    · rw [if_neg (by omega)]
      by_cases hl : lo ≤ a
      · rw [if_pos (by omega), if_pos (by omega), List.getElem?_append_left (by omega)]
      · rw [if_neg (by omega), if_neg (by omega)]
  · rw [b2, b1, List.length_append]
    cases bad with
    | true =>
      simp only [if_true, ← Bool.or_assoc, ← Bool.decide_or]
      congr 2
      rw [eq_iff_iff]
      omega
    | false =>
      simp only [Bool.false_eq_true, if_false, ← Bool.and_assoc, ← decide_not, ← Bool.decide_and]
      congr 2
      rw [eq_iff_iff]
      omega

/-- A unit is written in pieces that each lie within one word: what holds of such a piece, and of a unit whose first piece and whose rest
have it, holds of the whole (05 R136). -/
theorem State.writeAll_induct (o : Origin) (k : Option HartId) (R : StoreUnit → State → State → Prop)
    (word : ∀ (s : State) (u : StoreUnit), u.loc.off % 8 + u.bytes.length ≤ 8 → R u s (s.write o k u))
    (append : ∀ (s t v : State) (u : StoreUnit) (n : Nat), n = 8 - u.loc.off % 8 → n < u.bytes.length →
      R { u with bytes := u.bytes.take n } s t → R { u with loc := u.loc.plus n, va := u.va + n, bytes := u.bytes.drop n } t v → R u s v)
    (s : State) (u : StoreUnit) : R u s (s.writeAll o k u) := by
  have key : ∀ (fuel : Nat) (s : State) (u : StoreUnit), u.bytes.length ≤ fuel → R u s ((u.cut 8 fuel).foldl (fun s x => s.write o k x) s) := by
    intro fuel
    induction fuel with
    | zero => exact fun s u h => word s u (by omega)
    | succ fuel ih =>
      intro s u h
      unfold StoreUnit.cut
      dsimp only
      split
      · exact word s u (by omega)
      · refine append s _ _ u _ rfl (by omega) (word s _ ?_) (ih _ _ ?_)
        · show u.loc.off % 8 + (u.bytes.take _).length ≤ 8
          rw [List.length_take]; omega
        · show (u.bytes.drop _).length ≤ fuel
          rw [List.length_drop]; omega
  exact key _ s u (Nat.le_refl _)

/-! ### Homes at hand: scratchpads and scalar data memories -/

/-- A home whose stores perform at the commit itself (10 R230). -/
def Loc.near : Loc → Bool
  | .spad _ _ | .sdm _ _ => true
  | _ => false

/-- The memory that holds such a home. -/
def Loc.memOf (l : Loc) (s : State) : Mem :=
  match l with
  | .spad _ _ => s.spad
  | .sdm _ _ => s.sdm
  | _ => Mem.empty

/-- The address of such a home in its memory. -/
def Loc.addr : Loc → Nat
  | .spad p o => p * 2 ^ 21 + o
  | .sdm p o => p * 2 ^ 16 + o
  | l => l.off

theorem Loc.addr_plus (l : Loc) (n : Nat) : (l.plus n).addr = l.addr + n := by
  cases l <;> simp only [Loc.plus, Loc.addr, Loc.off] <;> omega

theorem Loc.addr_mod (l : Loc) : l.addr % 8 = l.off % 8 := by
  cases l <;> simp only [Loc.addr, Loc.off] <;> omega

theorem Loc.memOf_plus (l : Loc) (n : Nat) (s : State) : (l.plus n).memOf s = l.memOf s := by cases l <;> rfl

theorem Loc.near_plus (l : Loc) (n : Nat) : (l.plus n).near = l.near := by cases l <;> rfl

theorem State.write_memOf (s : State) (o : Origin) (k : Option HartId) (u : StoreUnit) (hn : u.loc.near = true) :
    u.loc.memOf (s.write o k u) = (u.loc.memOf s).store u.loc.addr u.bytes u.bad := by
  obtain ⟨l, va, bs, bad, lg⟩ := u
  cases l with
  | spad p a => rfl
  | sdm p a => rfl
  | _ => cases hn

/-- A unit with a home at hand is one store of its bytes there. -/
theorem State.writeAll_storedAs (s : State) (o : Origin) (k : Option HartId) (u : StoreUnit) (hn : u.loc.near = true) (hb : u.bytes ≠ [])
    (hw : (u.loc.memOf s).wf = true) : (u.loc.memOf s).storedAs (u.loc.memOf (s.writeAll o k u)) u.loc.addr u.bytes u.bad := by
  refine State.writeAll_induct o k (fun u s t => u.loc.near = true → u.bytes ≠ [] → (u.loc.memOf s).wf = true →
    (u.loc.memOf s).storedAs (u.loc.memOf t) u.loc.addr u.bytes u.bad) ?_ ?_ s u hn hb hw
  · intro s u _ hn hb hw
    rw [s.write_memOf o k u hn]
    exact Mem.store_storedAs _ _ _ _ hw hb
  · intro s t v u n e hlt h1 h2 hn hb hw
    have hlen : (u.bytes.take n).length = n := by rw [List.length_take]; omega
    have hx : u.bytes.take n ≠ [] := List.length_pos_iff.1 (by omega)
    have hy : u.bytes.drop n ≠ [] := List.length_pos_iff.1 (by rw [List.length_drop]; omega)
    have ha := u.loc.addr_mod
    have h8 : (u.loc.addr + (u.bytes.take n).length) % 8 = 0 := by rw [hlen]; omega
    have g1 : (u.loc.memOf s).storedAs (u.loc.memOf t) u.loc.addr (u.bytes.take n) u.bad := h1 hn hx hw
    have g2 := h2 ((u.loc.near_plus n).trans hn) hy (by rw [Loc.memOf_plus]; exact g1.1)
    rw [Loc.memOf_plus, Loc.memOf_plus, Loc.addr_plus] at g2
    have h := Mem.storedAs_append hx hy h8 g1 (by rw [hlen]; exact g2)
    rwa [List.take_append_drop] at h

/-- A frame of a run of scratchpad bytes that has been written is dirty and logged (11 R258, R275). -/
def Frame.written (p off n : Nat) (f : Frame) : Frame :=
  if p * 64 + off / 32768 ≤ f.key ∧ f.key ≤ p * 64 + (off + n - 1) / 32768 then { f with dirty := true, log := true } else f

theorem Frame.written_written (p off n m : Nat) (f : Frame) (hn : 0 < n) (hm : 0 < m) :
    Frame.written p (off + n) m (Frame.written p off n f) = Frame.written p off (n + m) f := by
  by_cases h1 : p * 64 + off / 32768 ≤ f.key ∧ f.key ≤ p * 64 + (off + n - 1) / 32768
  · have e1 : Frame.written p off n f = { f with dirty := true, log := true } := if_pos h1
    have e2 : Frame.written p off (n + m) f = { f with dirty := true, log := true } := if_pos (by omega)
    rw [e1, e2]
    exact ite_self _
  · have e1 : Frame.written p off n f = f := if_neg h1
    rw [e1]
    exact if_congr (by omega) rfl rfl

theorem State.markFrame_word (s : State) (p off n : Nat) (hn : 0 < n) (h8 : off % 8 + n ≤ 8) :
    (s.markFrame p off).frames = s.frames.map (Frame.written p off n) := by
  unfold State.markFrame Frame.written
  refine List.map_congr_left fun f _ => if_congr ?_ rfl rfl
  omega

theorem State.writeAll_frames (s : State) (o : Origin) (k : Option HartId) (u : StoreUnit) (p off : Nat) (hl : u.loc = .spad p off)
    (hb : u.bytes ≠ []) : (s.writeAll o k u).frames = s.frames.map (Frame.written p off u.bytes.length) := by
  refine State.writeAll_induct o k (fun u s t => ∀ off, u.loc = .spad p off → u.bytes ≠ [] →
    t.frames = s.frames.map (Frame.written p off u.bytes.length)) ?_ ?_ s u off hl hb
  · rintro s ⟨l, va, bs, bad, lg⟩ h8 off rfl hb
    exact (s.breakLinks (.spad p (off / 8)) k).markFrame_word p off bs.length (List.length_pos_iff.2 hb) h8
  · intro s t v u n e hlt h1 h2 off hl hb
    have hlen : (u.bytes.take n).length = n := by rw [List.length_take]; omega
    have hx : u.bytes.take n ≠ [] := List.length_pos_iff.1 (by omega)
    have hy : u.bytes.drop n ≠ [] := List.length_pos_iff.1 (by rw [List.length_drop]; omega)
    have g1 := h1 off hl hx
    have g2 := h2 (off + n) (by rw [hl]; rfl) hy
    rw [g2, g1, List.map_map]
    refine List.map_congr_left fun f _ => ?_
    rw [Function.comp_apply, hlen, List.length_drop, Frame.written_written _ _ _ _ _ (by omega) (by omega)]
    congr 1
    omega

/-- A write of a scratchpad changes its bytes and its frames, and breaks links. -/
theorem State.writeAll_spad_frame (s : State) (o : Origin) (k : Option HartId) (u : StoreUnit) (p off : Nat) (hl : u.loc = .spad p off) :
    ∃ x fs ls os, s.writeAll o k u = { s with spad := x, frames := fs, hart := { s.hart with links := ls }, others := os } := by
  refine State.writeAll_induct o k (fun u s t => ∀ off, u.loc = .spad p off →
    ∃ x fs ls os, t = { s with spad := x, frames := fs, hart := { s.hart with links := ls }, others := os }) ?_ ?_ s u off hl
  · rintro s ⟨l, va, bs, bad, lg⟩ - off rfl
    have hl : ∃ ls, (s.breakLinks (.spad p (off / 8)) k).hart = { s.hart with links := ls } := by
      show ∃ ls, (if some s.hart.id = k then s.hart else _) = _
      split
      · exact ⟨s.hart.links, rfl⟩
      · exact ⟨_, rfl⟩
    obtain ⟨ls, e⟩ := hl
    exact ⟨_, _, ls, _, by rw [← e]; rfl⟩
  · intro s t v u n e hlt h1 h2 off hl
    obtain ⟨x, fs, ls, os, rfl⟩ := h1 off hl
    obtain ⟨x', fs', ls', os', rfl⟩ := h2 (off + n) (by rw [hl]; rfl)
    exact ⟨x', fs', ls', os', rfl⟩

/-- A write of a scalar data memory changes its bytes alone. -/
theorem State.writeAll_sdm_frame (s : State) (o : Origin) (k : Option HartId) (u : StoreUnit) (p off : Nat) (hl : u.loc = .sdm p off) :
    ∃ x, s.writeAll o k u = { s with sdm := x } := by
  refine State.writeAll_induct o k (fun u s t => ∀ off, u.loc = .sdm p off → ∃ x, t = { s with sdm := x }) ?_ ?_ s u off hl
  · rintro s ⟨l, va, bs, bad, lg⟩ - off rfl
    exact ⟨_, rfl⟩
  · intro s t v u n e hlt h1 h2 off hl
    obtain ⟨x, rfl⟩ := h1 off hl
    obtain ⟨x', rfl⟩ := h2 (off + n) (by rw [hl]; rfl)
    exact ⟨x', rfl⟩

/-! ### One store of a strip buffer -/

/-- The links of the hart that stores, or of another, with those on the granules of a list broken. -/
theorem Hart.ownLinks (x : Hart) (c : Prop) [Decidable c] (f : List Link → List Link) :
    ∃ ls, (if c then { x with links := f x.links } else x) = { x with links := ls } := by
  split
  · exact ⟨_, rfl⟩
  · exact ⟨_, rfl⟩

/-- A home in device memory: an accepted store to it waits at the interface of its Spire (10 R230). -/
def Loc.isDev : Loc → Bool
  | .dev _ => true
  | _ => false

/-- A home in host memory: an accepted store to it waits at the CXL port (10 R230). -/
def Loc.isHost : Loc → Bool
  | .host _ => true
  | _ => false

/-- A home at hand: the commit writes a store to it. -/
def Loc.atOnce : Loc → Bool
  | .dev _ | .host _ => false
  | _ => true

/-- A committed store: what commands still have to read is kept, what is at hand is written, the rest is accepted, and links break
(10 R230, R244, 05 R136). -/
theorem State.perform_eq (s : State) (h : Hart) (us : List StoreUnit) (t : State)
    (ht : (us.filter fun u => u.loc.atOnce).foldl (fun s u => s.writeAll ⟨h.id.ctx, h.phys⟩ none u)
      (us.foldl (fun s u => s.shadow h.id u) s) = t) :
    ∃ ls, s.perform h us =
      { t with hart := { t.hart with links := ls }
               flight := t.flight ++ (blocks (us.filter fun u => u.loc.isDev)).map fun b => ⟨some h.id, h.phys, 0, b⟩
               hostOut := t.hostOut ++ (blocks (us.filter fun u => u.loc.isHost)).map fun b => ⟨some h.id, h.phys, 0, b⟩ } := by
  obtain ⟨ls, e⟩ := Hart.ownLinks t.hart (t.hart.id = h.id) fun ls => ls.map fun l =>
    if ((us.filter fun u => u.loc.isDev).filterMap fun u => u.loc.granule).contains l.g then { l with intact := false } else l
  subst ht
  exact ⟨ls, by rw [← e]; rfl⟩

theorem blocks_one (u : StoreUnit) (hb : u.bytes ≠ []) (h8 : u.loc.off % 8 + u.bytes.length ≤ 8) : blocks [u] = [[u]] := by
  have hc : u.cut 16 u.bytes.length = [u] := by
    obtain ⟨n, hn⟩ : ∃ n, u.bytes.length = n + 1 := ⟨u.bytes.length - 1, by have := List.length_pos_iff.2 hb; omega⟩
    rw [hn]
    unfold StoreUnit.cut
    exact if_pos (by omega)
  unfold blocks
  rw [List.flatMap_cons, List.flatMap_nil, List.append_nil, hc]
  rfl

/-- A store with its home at hand is written there. -/
theorem State.perform_near (s : State) (h : Hart) (u : StoreUnit) (hn : u.loc.near = true) (t : State)
    (ht : (s.shadow h.id u).writeAll ⟨h.id.ctx, h.phys⟩ none u = t) :
    ∃ ls, s.perform h [u] = { t with hart := { t.hart with links := ls } } := by
  obtain ⟨l, va, bs, bad, lg⟩ := u
  have split : ([⟨l, va, bs, bad, lg⟩] : List StoreUnit).filter (fun u => u.loc.atOnce) = [⟨l, va, bs, bad, lg⟩]
      ∧ ([⟨l, va, bs, bad, lg⟩] : List StoreUnit).filter (fun u => u.loc.isDev) = []
      ∧ ([⟨l, va, bs, bad, lg⟩] : List StoreUnit).filter (fun u => u.loc.isHost) = [] := by
    cases l with
    | spad p off => exact ⟨rfl, rfl, rfl⟩
    | sdm p off => exact ⟨rfl, rfl, rfl⟩
    | _ => cases hn
  obtain ⟨h1, h2, h3⟩ := split
  obtain ⟨ls, e⟩ := s.perform_eq h [⟨l, va, bs, bad, lg⟩] t (by rw [h1]; exact ht)
  rw [h2, h3] at e
  exact ⟨ls, e.trans (by rw [show blocks [] = [] from rfl, List.map_nil, List.append_nil, List.append_nil])⟩

/-- A GLB store within a word enters the interface of its Spire (10 R230). -/
theorem State.perform_dev (s : State) (h : Hart) (a va : Nat) (bs : List Byte) (bad lg : Bool) (hb : bs ≠ []) (h8 : a % 8 + bs.length ≤ 8) :
    ∃ ls, s.perform h [⟨.dev a, va, bs, bad, lg⟩] = { s.shadow h.id ⟨.dev a, va, bs, bad, lg⟩ with
      hart := { s.hart with links := ls }, flight := s.flight ++ [⟨some h.id, h.phys, 0, [⟨.dev a, va, bs, bad, lg⟩]⟩] } := by
  obtain ⟨ls, e⟩ := s.perform_eq h [⟨.dev a, va, bs, bad, lg⟩] _ rfl
  refine ⟨ls, e.trans ?_⟩
  rw [show List.filter (fun u : StoreUnit => u.loc.isDev) [⟨.dev a, va, bs, bad, lg⟩] = [⟨.dev a, va, bs, bad, lg⟩] from rfl,
    blocks_one ⟨.dev a, va, bs, bad, lg⟩ hb h8,
    show blocks (List.filter (fun u : StoreUnit => u.loc.isHost) [⟨.dev a, va, bs, bad, lg⟩]) = [] from rfl, List.map_nil, List.append_nil]
  rfl

/-- A HOST store within a word enters the CXL port (10 R230). -/
theorem State.perform_host (s : State) (h : Hart) (a va : Nat) (bs : List Byte) (bad lg : Bool) (hb : bs ≠ []) (h8 : a % 8 + bs.length ≤ 8) :
    ∃ ls, s.perform h [⟨.host a, va, bs, bad, lg⟩] = { s.shadow h.id ⟨.host a, va, bs, bad, lg⟩ with
      hart := { s.hart with links := ls }, hostOut := s.hostOut ++ [⟨some h.id, h.phys, 0, [⟨.host a, va, bs, bad, lg⟩]⟩] } := by
  obtain ⟨ls, e⟩ := s.perform_eq h [⟨.host a, va, bs, bad, lg⟩] _ rfl
  refine ⟨ls, e.trans ?_⟩
  rw [show List.filter (fun u : StoreUnit => u.loc.isHost) [⟨.host a, va, bs, bad, lg⟩] = [⟨.host a, va, bs, bad, lg⟩] from rfl,
    blocks_one ⟨.host a, va, bs, bad, lg⟩ hb h8,
    show blocks (List.filter (fun u : StoreUnit => u.loc.isDev) [⟨.host a, va, bs, bad, lg⟩]) = [] from rfl, List.map_nil, List.append_nil]
  rfl

/-! ### Commands and farms -/

theorem State.updTeam_team (s : State) (c o : Nat) (f : Team → Team) (hf : ∀ t, (f t).task = t.task) :
    (s.updTeam c o f).team c o = (s.team c o).map f := by
  unfold State.team State.updTeam
  dsimp only
  rw [List.find?_map]
  have hp : ((fun t : Team => t.task.ctx == c && t.task.order == o) ∘ fun t => if t.task.ctx == c && t.task.order == o then f t else t)
      = fun t : Team => t.task.ctx == c && t.task.order == o := by
    funext t
    rw [Function.comp_apply]
    split
    · rw [hf]
    · rfl
  rw [hp]
  cases hm : s.dist.teams.find? fun t => t.task.ctx == c && t.task.order == o with
  | none => rfl
  | some t => exact congrArg some (if_pos (List.find?_some hm))

/-- The commit of a lone command that finds a free place, once the stores held on its path have performed (09 R211, 10 R244). -/
theorem State.commit_command (s r : State) (c : CmdWords) (hb : s.hart.buf = [.cmd c]) (hd : s.drain (fun f => f.onPath s.hart.phys) = .ok r)
    (hq : (r.cmds.filter fun x => x.waits (engineOf s.hart.phys)).length < 64) : s.commit = .ok ((r.place s.hart c).endStrip s.hart, true) := by
  have hp : placeable (64 - (r.cmds.filter fun x => x.waits (engineOf s.hart.phys)).length) [c] = [c] := by
    obtain ⟨n, hn⟩ : ∃ n, 64 - (r.cmds.filter fun x => x.waits (engineOf s.hart.phys)).length = n + 1 :=
      Nat.exists_eq_succ_of_ne_zero (Nat.sub_ne_zero_of_lt hq)
    rw [hn]
    unfold placeable
    exact ite_self _
  have h := s.commit_done r (r.place s.hart c) (by rw [hb]; rintro us h; cases h with | tail _ h => cases h) (by rw [hb]; exact hd)
    (by rw [hb]; exact hp) (by unfold State.releaseStores; rw [hb]; rfl)
  rwa [hb] at h

/-- The commit of a lone farm entry: the epoch starts (09 R221). -/
theorem State.commit_farm (s : State) (total base : Word) (taken : Option Nat) (hb : s.hart.buf = [.farm total base taken]) :
    s.commit = .ok ((performEntry s.hart s (.farm total base taken)).endStrip s.hart, true) := by
  have h := s.commit_done s (performEntry s.hart s (.farm total base taken))
    (by rw [hb]; rintro us h; cases h with | tail _ h => cases h) (by rw [hb]; rfl)
    (by rw [hb]; rfl) (by unfold State.releaseStores; rw [hb]; rfl)
  rwa [hb] at h

/-- The team of a hart at the end of a commit: its farm loses the pending claim of the hart, if the strip has one (09 R222). -/
theorem State.endStrip_team (s : State) (h : Hart) :
    (s.endStrip h).team h.id.ctx h.id.team
      = (s.team h.id.ctx h.id.team).map fun t => if h.claimed then { t with farm := t.farm.consume h.id.lhid } else t := by
  obtain ⟨fs, e⟩ := s.endStrip_frame h
  rw [e]
  show (s.consumeClaim h).team _ _ = _
  unfold State.consumeClaim
  split
  · exact s.updTeam_team _ _ _ fun _ => rfl
  · exact Option.map_id'.symm

/-- A strip that holds one store, which need not wait, performs it and ends. -/
theorem State.close_store (s : State) (u : StoreUnit) (hf : s.hart.fresh = false) (hb : s.hart.buf = [.store [u]])
    (hs : s.shut s.hart.phys u = false) : s.close = .ok ((s.perform s.hart [u]).endStrip s.hart, true) := by
  have h := s.commit_stores fun e he => by
    rw [hb, List.mem_singleton] at he
    exact ⟨[u], he, fun v hv => by rw [List.mem_singleton.1 hv]; exact hs⟩
  rw [hb] at h
  exact (s.close_commit hf).trans h

/-- The commit of one scratchpad store of any length (11 R258). -/
theorem State.endStrip_spad (s : State) (p off va : Nat) (bs : List Byte) (bad lg : Bool) (hb : bs ≠ []) (hw : s.spad.wf = true) :
    ∃ x ls os cs fb d, s.spad.storedAs x (p * 2 ^ 21 + off) bs bad
      ∧ (s.perform s.hart [⟨.spad p off, va, bs, bad, lg⟩]).endStrip s.hart =
        { s with spad := x, frames := s.frames.map (Frame.written p off bs.length), others := os, cmds := cs, fabrics := fb, dist := d
                 hart := ({ s.hart with links := ls } : Hart).committed } := by
  obtain ⟨x, fs, ls', os, ew⟩ := (s.shadow s.hart.id ⟨.spad p off, va, bs, bad, lg⟩).writeAll_spad_frame ⟨s.hart.id.ctx, s.hart.phys⟩ none
    ⟨.spad p off, va, bs, bad, lg⟩ p off rfl
  obtain ⟨ls, e⟩ := s.perform_near s.hart ⟨.spad p off, va, bs, bad, lg⟩ rfl _ ew
  obtain ⟨fb, d, e'⟩ := (s.perform s.hart [⟨.spad p off, va, bs, bad, lg⟩]).endStrip_keeps s.hart
  have hst := (s.shadow s.hart.id ⟨.spad p off, va, bs, bad, lg⟩).writeAll_storedAs ⟨s.hart.id.ctx, s.hart.phys⟩ none
    ⟨.spad p off, va, bs, bad, lg⟩ rfl hb hw
  have hfr := (s.shadow s.hart.id ⟨.spad p off, va, bs, bad, lg⟩).writeAll_frames ⟨s.hart.id.ctx, s.hart.phys⟩ none
    ⟨.spad p off, va, bs, bad, lg⟩ p off rfl hb
  rw [ew] at hst hfr
  obtain rfl : fs = s.frames.map (Frame.written p off bs.length) := hfr
  exact ⟨x, ls, os, _, fb, d, hst, by rw [e', e]; rfl⟩

/-- The commit of one store of any length to a scalar data memory. -/
theorem State.endStrip_sdm (s : State) (p off va : Nat) (bs : List Byte) (bad lg : Bool) (hb : bs ≠ []) (hw : s.sdm.wf = true) :
    ∃ x ls cs fb d, s.sdm.storedAs x (p * 2 ^ 16 + off) bs bad
      ∧ (s.perform s.hart [⟨.sdm p off, va, bs, bad, lg⟩]).endStrip s.hart =
        { s with sdm := x, cmds := cs, fabrics := fb, dist := d, hart := ({ s.hart with links := ls } : Hart).committed } := by
  obtain ⟨x, ew⟩ := (s.shadow s.hart.id ⟨.sdm p off, va, bs, bad, lg⟩).writeAll_sdm_frame ⟨s.hart.id.ctx, s.hart.phys⟩ none
    ⟨.sdm p off, va, bs, bad, lg⟩ p off rfl
  obtain ⟨ls, e⟩ := s.perform_near s.hart ⟨.sdm p off, va, bs, bad, lg⟩ rfl _ ew
  obtain ⟨fb, d, e'⟩ := (s.perform s.hart [⟨.sdm p off, va, bs, bad, lg⟩]).endStrip_keeps s.hart
  have hst := (s.shadow s.hart.id ⟨.sdm p off, va, bs, bad, lg⟩).writeAll_storedAs ⟨s.hart.id.ctx, s.hart.phys⟩ none
    ⟨.sdm p off, va, bs, bad, lg⟩ rfl hb hw
  rw [ew] at hst
  exact ⟨x, ls, _, fb, d, hst, by rw [e', e]; rfl⟩

/-- The farm that an entry starts: the first range, if the strip has taken it, is the claim of the hart, consumed (09 R221, R222). -/
def begunFarm (lhid : Nat) (total base : Word) (taken : Option Nat) : Farm :=
  { started := true, total := total.toNat, base := if base = 0#64 then 1 else min base.toNat (2 ^ 32)
    cursor := taken.getD 0, claims := (taken.map fun n => ⟨lhid, 0, n, false⟩).toList }

/-- A farm entry sets the farm of its hart's team. -/
theorem performEntry_farm (s : State) (h : Hart) (total base : Word) (taken : Option Nat) : performEntry h s (.farm total base taken)
    = s.updTeam h.id.ctx h.id.team fun t => { t with farm := begunFarm h.id.lhid total base taken } := by
  cases taken <;> rfl

theorem performEntry_farm_team (s : State) (h : Hart) (total base : Word) (taken : Option Nat) :
    (performEntry h s (.farm total base taken)).team h.id.ctx h.id.team
      = (s.team h.id.ctx h.id.team).map fun t => { t with farm := begunFarm h.id.lhid total base taken } := by
  rw [performEntry_farm]
  exact s.updTeam_team _ _ (fun t => { t with farm := begunFarm h.id.lhid total base taken }) fun _ => rfl

/-- No claim of a farm that an entry starts is pending. -/
theorem begunFarm_consume (i j : Nat) (total base : Word) (taken : Option Nat) :
    (begunFarm i total base taken).consume j = begunFarm i total base taken := by
  cases taken with
  | none => rfl
  | some n =>
    unfold Farm.consume begunFarm
    simp

/-- Settles O20: one entry performs by the lemma of its kind, and the end of the commit leaves what it performed. -/
theorem stripCommits : Obligations.StripCommits := by
  unfold Obligations.StripCommits
  intro s l p off va bs bad lg c total base taken tm hf h u other put
  refine ⟨fun hbs hb hsh => ⟨?_, ?_, fun h8 => ⟨?_, ?_⟩⟩, fun r hb hd hq => ?_, fun hb ht => ?_⟩
  · rintro rfl hw
    obtain ⟨x, ls, os, cs, fb, d, hst, e⟩ := s.endStrip_spad p off va bs bad lg hbs hw
    refine ⟨_, s.close_store u hf hb hsh, ?_⟩
    rw [e]
    exact ⟨⟨rfl, rfl, rfl⟩, hst, rfl, rfl, rfl, rfl, rfl, rfl⟩
  · rintro rfl hw
    obtain ⟨x, ls, cs, fb, d, hst, e⟩ := s.endStrip_sdm p off va bs bad lg hbs hw
    refine ⟨_, s.close_store u hf hb hsh, ?_⟩
    rw [e]
    exact ⟨⟨rfl, rfl, rfl⟩, hst, rfl, rfl, rfl, rfl, rfl⟩
  · rintro rfl
    obtain ⟨ls, e⟩ := s.perform_dev s.hart off va bs bad lg hbs h8
    obtain ⟨fb, d, e'⟩ := (s.perform s.hart [u]).endStrip_keeps s.hart
    refine ⟨_, s.close_store u hf hb hsh, ?_⟩
    rw [e', e]
    exact ⟨⟨rfl, rfl, rfl⟩, rfl, rfl, rfl, rfl, rfl, rfl⟩
  · rintro rfl
    obtain ⟨ls, e⟩ := s.perform_host s.hart off va bs bad lg hbs h8
    obtain ⟨fb, d, e'⟩ := (s.perform s.hart [u]).endStrip_keeps s.hart
    refine ⟨_, s.close_store u hf hb hsh, ?_⟩
    rw [e', e]
    exact ⟨⟨rfl, rfl, rfl⟩, rfl, rfl, rfl, rfl, rfl, rfl⟩
  · obtain ⟨fb, d, e⟩ := (r.place s.hart c).endStrip_keeps s.hart
    refine ⟨_, (s.close_commit hf).trans (s.commit_command r c hb hd hq), ?_⟩
    rw [e]
    exact ⟨⟨rfl, rfl, rfl⟩, rfl, rfl, rfl, rfl, rfl, rfl, rfl⟩
  · obtain ⟨fb, d, e⟩ := (performEntry s.hart s (.farm total base taken)).endStrip_keeps s.hart
    have hteam := (performEntry s.hart s (.farm total base taken)).endStrip_team s.hart
    rw [performEntry_farm_team, show s.team s.hart.id.ctx s.hart.id.team = some tm from ht] at hteam
    simp only [Option.map_some, begunFarm_consume, ite_self] at hteam
    rw [performEntry_farm] at e
    refine ⟨_, (s.close_commit hf).trans (s.commit_farm total base taken hb), ?_⟩
    rw [performEntry_farm] at hteam ⊢
    refine ⟨?_, ?_, ?_, ?_, ?_, ?_, hteam⟩
    · rw [e]; exact ⟨rfl, rfl, rfl⟩
    all_goals rw [e]; rfl

end Sys2Proof.Machine
end

section
/-! A presence element served for a hart that has two elements deferred (05 R140). -/
namespace Sys2Proof.Machine

/-- A hart in TERM at a `vtake` of the first doubleword of its own scratchpad, which is full and whose page is resident. The hart has that
element deferred at its bank, and another at a bank of Spire 1: no run from reset leads here, as a hart presents one element at a time, but
nothing in the state excludes it. -/
def twiceDeferred : State :=
  { State.reset with
    hart := { Hart.reset with
      regs := { Regs.reset with h := { StripHcr.reset with vl := 1, ew := 3 } }
      hcr := { Hcr.reset with run := 1, sstate := 2 }
      stall := some .pres, doing := some (.vtake 1 0 2 0) }
    frames := [⟨0, 0, 0, true, false, false, false, false, none⟩]
    full := [0]
    deferred := [⟨⟨0, 0, 0⟩, 0, 0, false⟩, ⟨⟨0, 0, 0⟩, 1, 0, false⟩]
    arg := .nums 0 0 0 }

/-- The elements deferred in the next state. -/
def deferredAfter : Out → Option (List Deferred)
  | .next t => some t.deferred
  | _ => none

theorem twiceDeferred_serve : deferredAfter (exec .presenceDeferralServe twiceDeferred) = some [] := by decide +kernel

theorem twiceDeferred_writes (i : Nat) : twiceDeferred.hart.writes 0 i ↔ i = 0 := by
  constructor
  · rintro ⟨h, -⟩
    exact Nat.lt_one_iff.1 h
  · rintro rfl
    exact ⟨Nat.one_pos, by decide +kernel⟩

/-- Refutes O56: the step that serves a deferred element drops whatever else its hart has deferred (`State.dropDeferred`), so that after it
`State.deferred` is not the list with that one element erased, when the hart has two. The statement does not ask that the hart has one
element deferred at most. -/
theorem not_hartStepsComplete : ¬ Obligations.HartStepsComplete := by
  unfold Obligations.HartStepsComplete
  intro h
  obtain ⟨-, -, -, presence, -⟩ := h 4 0 0 1 2 0 0 0 0 0 0 twiceDeferred
  have detached : twiceDeferred.hart.detached := fun q => by rw [show twiceDeferred.hart.regs.q[q] = Stream.idle from Regs.reset_q q]; rfl
  have sound : twiceDeferred.hart.maskSound 0 := fun i _ => BitVec.getLsbD_zero
  obtain ⟨take, -⟩ := presence ⟨⟨0, 0, 0⟩, 0, 0, false⟩ rfl (by decide +kernel) rfl rfl rfl detached sound rfl rfl
    (by decide +kernel) rfl rfl rfl rfl (by decide) twiceDeferred_writes (by decide +kernel) (by decide +kernel) (by decide +kernel) (by decide +kernel) (by decide +kernel) rfl (by decide +kernel)
  obtain ⟨t, ⟨e, -, -, hd⟩, -⟩ := take rfl ⟨rfl, by decide, rfl, by decide +kernel, by decide +kernel, rfl, rfl⟩
  have ht : some t.deferred = some [] := (congrArg deferredAfter e).symm.trans twiceDeferred_serve
  rw [Option.some.inj ht] at hd
  exact absurd hd (by decide)

end Sys2Proof.Machine
end

section
/-! The encoding (03 R70-R88): every word that the encoder makes decodes to its instruction, and what majors without one mean. -/
namespace Sys2Proof.Laws.RoundTrip

/-- The round trip of an instruction is that of its constructor. -/
theorem of_constructor (i : Instr) : Statement i :=
  Instr.casesOn (motive := Statement) i
    add sub and or xor sll srl sra slt sltu seq min max minu maxu clz ctz popc mul mulh mulhu mulhsu div divu rem remu addi slli srli
    srai andi ori lui ldb ldh ldw ldd ldbu ldhu ldwu stb sth stw std fadd fsub fmul fdiv fmadd fmin fmax fsqrt fneg fabs fsgnj feq flt
    fle fcvtFp64Fp32 fcvtFp32Fp64 fcvtFp32I64 fcvtFp64I64 fcvtFp32Ui64 fcvtFp64Ui64 fcvtI64Fp32 fcvtI64Fp64 fcvtUi64Fp32 fcvtUi64Fp64
    fcvtFp16Fp32 fcvtFp32Fp16 fcvtBf16Fp32 fcvtFp32Bf16 beq bne bmany bmnone jalr jr jal hcrr hcrw trap brk fence barArrive barWait await
    tkwait farmInit farmNext setvl setvlAcq strip stripRel vld vlds vldx vldff vldsc vgl vtake vread vst vsts vstx vstsc vsc vput vatom
    vaddI vsubI vmulI vmulh vmulhu vminI vmaxI vminu vmaxu vand vor vxor vsll vsrl vsra vmadd vsadd vsaddu vssub vssubu vdivI vdivu vrem
    vremu vabsI vceqI vcneI vcltI vcltu vcleI vcleu vaddF vsubF vmulF vdivF vfmaF vfms vfnma vminF vmaxF vsqrt vabsF vneg vsgnj vceqF
    vcneF vcltF vcleF vcun vaddF8 vsubF8 vmulF8 vfmaF8 vminF8 vmaxF8 vaddC vsubC vmulC vfmaC vmulc vconj vmuli mand mor mxor mandn mnot
    vmfirst vpopc viota mset mclr vmerge vslideup vslidedown vslideupk vslidedownk vperm vmv vmvXs vmvSx vext vredsum vredmin vredmax
    vredminu vredmaxu vredand vredor vredxor vcvt vmxq vmxd bfly2 bfly4 bflyg mmul madd msub mred mlift bfly2M bfly4M mcrt mchk twset
    twget vdrev vtrn xbfn opa ops azero ald ast arow acol awrow awcol amov aepi sbind sunbind sisect sunite sskip ssave srest saff sidx
    sfib copy coll putE taskPut teret halt hint stripCommit commitEnd stripWatchdog fqbaseWrite fqheadWrite scalarLoadReturn
    stripTerminalComplete presenceDeferralServe linkReservationExpiry awaitComplete tkwaitSatisfied lazyVectorMove pageRestoreComplete
    spsave spsaveComplete patrolScrub translationWalk invctlGo invalidationComplete copyExecute commandEnd pkrespRetry pkrespFail
    collExecute collChunkArrival putELanding streamDelivery streamFetchAhead slotReservation slotLands nodeFire controlTokenArrival
    fcmdLoad fcmdAbort fabricLoadComplete fabricFlip episodeComplete farmNextServe pktstatGo taskPacketAccept taskComplete taskPlacement
    ageingStep quantumExpiry hartSwitchOut dcancel tmFreeze freezeComplete tmWriteImage tmResume resumePlacement tmEnd tmRestart
    tmReflect tmUnassignedOp speedChange spdAgeWrite droopDetect sagStepDown powerMeasurement pwrlimWrite hostCxlMemAccess
    hostStoreCompletion tramontaneCrcFail flitReceive etesianCrcFail laneAutoRetire spareSwitchComplete portDownTimeout e2eResendTimeout
    unreachableTimeout retireSpire retireRouter retireEtesianLane retireTramontaneLink retireHbmRow retireInvalidClass wearPrediction
    packageReset dctlWrite mailboxReport mailboxFirmwareUpdate mailboxUnassignedOp securityAlarm powerRemoval registerWrite
    storeWrittenAtHome tramontaneRetrainEnd supplyRecovery hostSnoop backInvalidateResponse
end Sys2Proof.Laws.RoundTrip

namespace Sys2Proof.Machine

/-- Only the steps of 95 have no words. -/
theorem encode_ne_nil (i : Instr) (h : isEvent i = false) : encode i ≠ [] := by
  unfold encode
  split
  · exact List.cons_ne_nil _ _
  next hs =>
    split
    · exact List.cons_ne_nil _ _
    next hl => simp [isEvent, hs, hl] at h

/-- Settles O2: the round trip of each constructor, by the laws of the decoder. -/
theorem roundTrip : Obligations.RoundTrip := by
  unfold Obligations.RoundTrip
  exact fun i hwf hev => Laws.RoundTrip.of_constructor i hwf (encode_ne_nil i hev)

/-- Settles O1: the decoder reads each of the words. -/
theorem wordsDecode : Obligations.WordsDecode := by
  unfold Obligations.WordsDecode
  exact ⟨rfl, rfl, rfl, rfl, rfl, rfl, rfl, rfl, rfl, rfl, rfl, rfl, rfl, rfl⟩

theorem decodeFields_unassigned (d a b f : Nat) :
    ∀ n ∈ [0x00, 0x0F, 0x17, 0x1C, 0x1D, 0x1E, 0x1F, 0x2B, 0x2F, 0x35, 0x39, 0x3B, 0x3C, 0x3D], decodeFields ⟨n, d, a, b, f⟩ = none := by
  simp only [List.forall_mem_cons]
  exact ⟨rfl, rfl, rfl, rfl, rfl, rfl, rfl, rfl, rfl, rfl, rfl, rfl, rfl, rfl, List.forall_mem_nil _⟩

theorem decodeWord_unassigned (w : Nat)
    (h : w / 2 ^ 26 % 64 ∈ [0x00, 0x0F, 0x17, 0x1C, 0x1D, 0x1E, 0x1F, 0x2B, 0x2F, 0x35, 0x39, 0x3B, 0x3C, 0x3D]) : decodeWord w = none :=
  congrArg onlyWf (decodeFields_unassigned _ _ _ _ _ h)

theorem decodeFields_hint (d a b f : Nat) : decodeFields ⟨0x3E, d, a, b, f⟩ = some .hint := rfl

theorem decodeWord_hint (w : Nat) (h : w / 2 ^ 26 % 64 = 0x3E) : decodeWord w = some .hint := by
  unfold decodeWord Fields.ofWord
  rw [h, decodeFields_hint]
  rfl

theorem exec_hint_goesOn (s : State) : exec .hint s = .next (s.goesOn s.hart 4) := rfl

/-- A sum written to `s0` is lost (01 R16). -/
theorem exec_addi_zero_goesOn (a : SReg) (imm : BitVec 16) (s : State) : exec (.addi 0 a imm) s = .next (s.goesOn s.hart 4) := rfl

/-- Settles O3: a major selects its row of Table 3-5 before any other field is read. -/
theorem hintsAndUnassignedMajors : Obligations.HintsAndUnassignedMajors := by
  unfold Obligations.HintsAndUnassignedMajors
  exact ⟨decodeWord_unassigned, fun w s h => ⟨decodeWord_hint w h, exec_hint_goesOn s⟩, rfl, rfl, fun s => exec_addi_zero_goesOn 0 0 s⟩

end Sys2Proof.Machine
end

section
/-! One step: its inputs, and the fetch of the hart in focus (03 R70, R76, R78, 11 R268, 15 R350; log 1). -/
namespace Sys2Proof.Machine

/-! ### Inputs of the agenda -/

theorem step_agenda (s : State) (a : Input) (rest : List Input) (h : s.agenda = a :: rest) :
    step s = stepInput a { s with agenda := rest } := by
  unfold step
  rw [h]

/-- What the package takes does not rest on the inputs to come. -/
theorem State.admits_agenda (s : State) (l : List Input) (a : Input) : ({ s with agenda := l } : State).admits a = s.admits a := rfl

theorem stepInput_lost (a : Input) (s : State) (h : s.admits a = false) : stepInput a s = .next s := by
  unfold stepInput
  simp [h]

theorem stepInput_event (i : Instr) (x : StepArg) (s : State) (hi : isEvent i = true) (h : s.admits (.event i x) = true) :
    stepInput (.event i x) s = exec i { s with arg := x } := by
  unfold stepInput
  simp [h, hi]

theorem stepInput_regStep (a : Input) (i : Instr) (x : StepArg) (s : State) (ha : a.regStep = some (i, x)) (h : s.admits a = true) :
    stepInput a s = exec i { s with arg := x } := by
  unfold stepInput
  cases a with
  | event => cases ha
  | _ => simp [h, ha]

/-! ### The fetch -/

theorem step_hart (s : State) (ha : s.agenda = []) (hr : s.canRun = true) : step s = stepHart s := by
  unfold step
  rw [ha]
  exact if_pos hr

section
variable (s : State)

theorem stepHart_error (x : Exc) (h : s.fetch s.hart = .error x) : stepHart s = s.take x := by
  unfold stepHart
  rw [h]

/-- A translation that enters a cache changes the caches alone (11 R268). -/
theorem State.fillTlb_frame (e : TlbEntry) : ∃ tlb, s.fillTlb e = { s with tlb := tlb } := ⟨_, rfl⟩

theorem State.fillWalk_frame (p ctx : Nat) (host : Bool) (va : Nat) (l : Leaf) (nl : List NonLeaf) :
    ∃ tlb nonLeaf misses, s.fillWalk p ctx host va l nl = { s with tlb := tlb, nonLeaf := nonLeaf, misses := misses } := by
  have fill (qs : List Nat) (entry : Nat → TlbEntry) (s : State) :
      ∃ tlb, qs.foldl (fun s q => s.fillTlb (entry q)) s = { s with tlb := tlb } := by
    induction qs generalizing s with
    | nil => exact ⟨s.tlb, rfl⟩
    | cons q qs ih =>
      obtain ⟨tlb, e⟩ := ih (s.fillTlb (entry q))
      exact ⟨tlb, e⟩
  unfold State.fillWalk
  dsimp only
  obtain ⟨tlb, e⟩ := fill _ _ _
  rw [e]
  exact ⟨_, _, _, rfl⟩

theorem State.look_frame (p ctx : Nat) (host : Bool) (root va : Nat) :
    ∃ tlb nonLeaf misses, s.look p ctx host root va = { s with tlb := tlb, nonLeaf := nonLeaf, misses := misses } := by
  unfold State.look
  split
  · exact ⟨_, _, _, rfl⟩
  · split
    · exact ⟨_, _, _, rfl⟩
    · split
      · exact s.fillWalk_frame p ctx host va _ _
      · exact ⟨_, _, _, rfl⟩

theorem State.look_covered (p ctx : Nat) (host : Bool) (root va : Nat) (h : ∃ e ∈ s.tlb, e.place = .spire p ∧ e.covers ctx host va = true) :
    s.look p ctx host root va = s := by
  unfold State.look
  refine if_pos (List.any_eq_true.2 ?_)
  obtain ⟨e, he, hp, hc⟩ := h
  exact ⟨e, he, by simp [hp, hc]⟩

theorem State.fetched_doing (i : Instr) (h : s.hart.doing = some i) : s.fetched = s := by
  unfold State.fetched
  rw [h]

theorem State.fetched_look (h : s.hart.doing = none) :
    s.fetched = s.look s.hart.phys s.hart.id.ctx false s.hart.hcr.ptroot.toNat (s.hart.pc.toNat / 16 * 16) := by
  unfold State.fetched
  rw [h]

theorem State.fetched_frame :
    ∃ tlb nonLeaf misses, s.fetched = { s with tlb := tlb, nonLeaf := nonLeaf, misses := misses } := by
  cases h : s.hart.doing with
  | some i => exact ⟨_, _, _, s.fetched_doing i h⟩
  | none => rw [s.fetched_look h]; exact s.look_frame _ _ _ _ _

/-- The mark that arrays are away stands with the hart, which a fetch leaves. -/
theorem State.fetched_arraysAway (i : Instr) : s.fetched.arraysAway i = s.arraysAway i := by
  obtain ⟨_, _, _, e⟩ := s.fetched_frame
  rw [e]
  rfl

theorem stepHart_ok (i : Instr) (n : Nat) (h : s.fetch s.hart = .ok (i, n)) :
    stepHart s = if s.arraysAway i then s.fetched.awayWait (exec i s.fetched) else exec i s.fetched := by
  unfold stepHart
  rw [h]
  dsimp only
  rw [s.fetched_arraysAway]

theorem State.fetch_doing (i : Instr) (h : s.hart.doing = some i) : s.fetch s.hart = .ok (i, 4) := by
  unfold State.fetch
  rw [h]

theorem State.awayWait_slot (u : State) (h : u.hart.stall = some .slotIn ∨ u.hart.stall = some .slotOut) : s.awayWait (.next u) = .next u :=
  if_pos h

theorem State.awayWait_mem (o : Out) (h : ∀ u, o = .next u → ¬ (u.hart.stall = some .slotIn ∨ u.hart.stall = some .slotOut)) :
    s.awayWait o = .next { s with hart := { s.hart with stall := some .mem, parked := false } } := by
  cases o with
  | next u => exact if_neg (h u rfl)
  | fault => rfl
  | refused => rfl

end

/-! ### A block that has been fetched -/

/-- Four bytes make a number below 2^32. -/
theorem leNat_take_lt (l : List Byte) (n : Nat) : leNat (l.take n) < 256 ^ n := by
  induction n generalizing l with
  | zero => simp [leNat]
  | succ n ih =>
    cases l with
    | nil => simp [leNat]
    | cons b l =>
      have := ih l
      have := b.isLt
      rw [List.take_succ_cons, leNat, pow_succ]
      omega

theorem fetchLen_eq (l : List Byte) (off : Nat) : fetchLen l off = if off = 0 ∧ leNat (l.take 4) / 2 ^ 26 = 0x3F then 16 else 4 := by
  have := leNat_take_lt l 4
  unfold fetchLen isPrefix
  refine if_congr (and_congr_right fun _ => ?_) rfl rfl
  rw [beq_iff_eq, Nat.mod_eq_of_lt (by omega)]

/-- The block of 16 bytes is that of the word as well. -/
theorem block_of_word (n : Nat) : n / 4 * 4 / 16 * 16 = n / 16 * 16 := by omega

theorem any_poison_of_clean (blk : List (Byte × Bool)) (hc : ∀ x ∈ blk, x.2 = false) (i n : Nat) :
    ((blk.drop i).take n).any (·.2) = false := by
  refine List.any_eq_false.2 fun x hx => ?_
  rw [hc x (List.mem_of_mem_drop (List.mem_of_mem_take hx))]
  decide

section
variable (s : State) (blk : List (Byte × Bool)) (hd : s.hart.doing = none)
  (hb : s.fetchBlock s.hart (s.hart.pc.toNat / 16 * 16) = .ok blk)
include hd hb

theorem State.fetch_poisoned
    (h : ((blk.drop (s.hart.pc.toNat / 4 * 4 % 16)).take (fetchLen (blk.map (·.1)) (s.hart.pc.toNat / 4 * 4 % 16))).any (·.2) = true) :
    s.fetch s.hart = .error poisonTrap := by
  unfold State.fetch
  simp only [hd, block_of_word, hb, h, if_true]

section
variable (hc : ∀ x ∈ blk, x.2 = false)
include hc

theorem State.fetch_undecodable (h : decodeBlock (blk.map (·.1)) (s.hart.pc.toNat / 4 * 4 % 16) = none) : s.fetch s.hart = .error illegal := by
  unfold State.fetch
  simp only [hd, block_of_word, hb, any_poison_of_clean blk hc, h, Bool.false_eq_true, if_false]

theorem State.fetch_decoded (x : Instr × Nat) (h : decodeBlock (blk.map (·.1)) (s.hart.pc.toNat / 4 * 4 % 16) = some x) :
    s.fetch s.hart = .ok x := by
  unfold State.fetch
  simp only [hd, block_of_word, hb, any_poison_of_clean blk hc, h, Bool.false_eq_true, if_false]
end
end

/-- Settles O4: the fetch finds the decoded instruction, and leaves all but the translation caches. -/
theorem stepRunsDecoded : Obligations.StepRunsDecoded := by
  unfold Obligations.StepRunsDecoded
  intro s blk i n ha hr hd hb hc hi hw
  have hf : s.fetch s.hart = .ok (i, n) := s.fetch_decoded blk hd hb hc _ hi
  refine ⟨?_, s.fetched_frame, fun h => ?_⟩
  · rw [step_hart s ha hr, stepHart_ok s i n hf, hw]
    rfl
  · rw [s.fetched_look hd]
    exact s.look_covered _ _ _ _ _ h

/-- Settles O5: an input by what the package does with it, and the hart by what its fetch finds. -/
theorem stepOtherwise : Obligations.StepOtherwise := by
  unfold Obligations.StepOtherwise
  refine ⟨fun s i x rest ha hi hs => ?_, fun s a rest ha hs => ?_, fun s a i x rest ha hs hx => ?_, fun s i ha hr hd hw => ?_,
    fun s blk ha hr hd hb => ?_⟩
  · exact (step_agenda s _ rest ha).trans (stepInput_event i x _ hi ((s.admits_agenda rest _).trans hs))
  · exact (step_agenda s a rest ha).trans (stepInput_lost a _ ((s.admits_agenda rest a).trans hs))
  · exact (step_agenda s a rest ha).trans (stepInput_regStep a i x _ hx ((s.admits_agenda rest a).trans hs))
  · rw [step_hart s ha hr, stepHart_ok s i 4 (s.fetch_doing i hd), hw, s.fetched_doing i hd]
    rfl
  · intro off len
    have hl : len = fetchLen (blk.map (·.1)) off := (fetchLen_eq _ _).symm
    rw [step_hart s ha hr]
    refine ⟨fun hp => ?_, fun i n hc hi hw => ?_, fun hc hi => stepHart_error s illegal (s.fetch_undecodable blk hd hb hc hi)⟩
    · rw [hl] at hp
      exact stepHart_error s poisonTrap (s.fetch_poisoned blk hd hb hp)
    · intro t slot
      rw [stepHart_ok s i n (s.fetch_decoded blk hd hb hc _ hi), if_pos hw]
      refine ⟨fun u hu hs => ?_, fun h => s.fetched.awayWait_mem _ h⟩
      rw [hu]
      exact s.fetched.awayWait_slot u hs

end Sys2Proof.Machine
end

section
/-! The traps of vector instructions (03 R74, 05 R123, 06 R146, 07 R165, 08 R189): each is one of the checks that an instruction makes
before any effect. -/
namespace Sys2Proof.Machine

/-! ### Checks before any effect -/

/-- The outcome o of a vector instruction in state s: its static check, its streams, and then, before any effect, its look at the
governing mask or at its indices. -/
def Checks {α : Type} (s : State) (o : Out) (legal : Hart → M Unit) (look : Hart → M α) : Prop :=
  ∃ rs ds f, o = plain s (streamed rs ds legal f) ∧ ∀ x, look s.hart = .error x → f s = .error x

section
variable {α : Type} {s : State} {o : Out} {legal : Hart → M Unit} {look : Hart → M α}

theorem plain_error (f : State → M State) (x : Exc) (h : f s = .error x) : plain s f = s.take x := by
  unfold plain plainN
  rw [h]

theorem streamed_illegal (rs ds : List VIdx) (f : State → M State) (x : Exc) (h : legal s.hart = .error x) :
    streamed rs ds legal f s = .error x := by
  unfold streamed
  rw [h]

/-- A trap of the effect is the instruction's own, where its streams are ready. -/
theorem streamed_trap (rs ds : List VIdx) (f : State → M State) (c n : Nat) (i : Option Word) (hd : s.hart.detached)
    (hl : legal s.hart = .ok ()) (h : f s = .error (.trap c n i)) : streamed rs ds legal f s = .error (.trap c n i) := by
  unfold streamed
  rw [hl, streamsReady_detached s.hart rs ds hd, deliver_detached s rs hd]
  simp only [Except.bind, h]
  rfl

/-- An instruction that is not legal traps, attached streams or not. -/
theorem Checks.refused (h : Checks s o legal look) (x : Exc) (hl : legal s.hart = .error x) : o = s.take x := by
  obtain ⟨rs, ds, f, rfl, -⟩ := h
  exact plain_error _ x (streamed_illegal rs ds f x hl)

theorem Checks.trapped (h : Checks s o legal look) (c n : Nat) (hd : s.hart.detached) (hl : legal s.hart = .ok ())
    (hx : look s.hart = .error (.trap c n none)) : o = s.take (.trap c n none) := by
  obtain ⟨rs, ds, f, rfl, hf⟩ := h
  exact plain_error _ _ (streamed_trap rs ds f c n none hd hl (hf _ hx))

/-- The checks of an instruction whose effect is on its hart alone. -/
theorem Checks.of_vecH {rs ds : List VIdx} {f : Hart → M Hart} (e : o = vecH rs ds legal f s)
    (hf : ∀ x, look s.hart = .error x → f s.hart = .error x) : Checks s o legal look :=
  ⟨rs, ds, _, e, fun x hx => by rw [hf x hx]; rfl⟩
end

/-! ### Widths, masks and indices -/

theorem ewIn_bad (ws : List Nat) (h : Hart) (hw : h.ew ∉ ws) : ewIn ws h = .error illegal := by
  simp [ewIn, failIf, hw]

theorem Hart.clean_ok (h : Hart) (r : SReg) (hr : h.bad r = false) : h.clean r = .ok () := by
  simp [Hart.clean, failIf, hr]

theorem Hart.clean_bad (h : Hart) (r : SReg) (hr : h.bad r = true) : h.clean r = .error poisonTrap := by
  simp [Hart.clean, failIf, hr]

theorem range_find?_first (p : Nat → Bool) (n j : Nat) (hj : j < n) (hp : p j = true) (hmin : ∀ i, i < j → p i = false) :
    (List.range n).find? p = some j := by
  exact List.find?_range_eq_some.2 ⟨hp, List.mem_range.2 hj, fun i hi => by simp [hmin i hi]⟩

/-- The lowest element whose governing bit is poisoned traps (06 R146). -/
theorem Hart.maskClean_bad (h : Hart) (m : MIdx) (j : Nat) (hj : j < h.vl) (hb : (h.regs.getM m).isBad h.ew j = true)
    (hmin : ∀ i, i < j → (h.regs.getM m).isBad h.ew i = false) : h.maskClean m = .error (poisonTrap j) := by
  have hp : (h.regs.getM m).poison ≠ 0 := by
    intro e
    rw [MReg.isBad, e] at hb
    simp at hb
  unfold Hart.maskClean
  simp only [hp, if_false, range_find?_first _ _ j hj hb hmin]

theorem eltsClean_bad (xs : List (Nat × Elt)) (x : Nat × Elt) (h : xs.find? (fun y => y.2.bad) = some x) :
    eltsClean xs = .error (poisonTrap x.1) := by
  unfold eltsClean
  rw [h]

/-- The mask bit of element i is poisoned, or the element is active and its index is. -/
def Hart.ixBad (h : Hart) (m : MIdx) (ix : VIdx) (i : Nat) : Bool :=
  (h.regs.getM m).isBad h.ew i || ((h.regs.getM m).on h.ew i && ((h.regs.v[ix]).elt h.ew i).bad)

/-- What an indexed access looks at for element i: a poisoned mask bit, or the index of an active element. -/
def Hart.looksAt (h : Hart) (m : MIdx) (ix : VIdx) (i : Nat) : Option (Nat × Elt) :=
  if (h.regs.getM m).isBad h.ew i then some (i, ⟨0, true⟩)
  else if (h.regs.getM m).on h.ew i then some (i, (h.regs.v[ix]).elt h.ew i) else none

theorem Hart.vmemActive_index (h : Hart) (m : MIdx) (ix : VIdx) :
    h.vmemActive (.index ix) m = (eltsClean ((List.range h.vl).filterMap (h.looksAt m ix))).map fun _ => h.active m := rfl

theorem Hart.looksAt_bad (h : Hart) (m : MIdx) (ix : VIdx) (i : Nat) : (h.looksAt m ix i).any (fun y => y.2.bad) = h.ixBad m ix i := by
  unfold Hart.looksAt Hart.ixBad
  cases (h.regs.getM m).isBad h.ew i with
  | true => rfl
  | false =>
    cases (h.regs.getM m).on h.ew i with
    | true => rfl
    | false => rfl

theorem Hart.looksAt_fst (h : Hart) (m : MIdx) (ix : VIdx) (i : Nat) (x : Nat × Elt) (hx : h.looksAt m ix i = some x) : x.1 = i := by
  unfold Hart.looksAt at hx
  split at hx
  · cases hx; rfl
  · split at hx
    · cases hx; rfl
    · cases hx

/-- The lowest element that an indexed access finds poisoned traps (05 R123, log 35). -/
theorem Hart.vmemActive_bad (h : Hart) (m : MIdx) (ix : VIdx) (j : Nat) (hj : j < h.vl) (hb : h.ixBad m ix j = true)
    (hmin : ∀ i, i < j → h.ixBad m ix i = false) : h.vmemActive (.index ix) m = .error (poisonTrap j) := by
  have hsome : (h.looksAt m ix j).any (fun y => y.2.bad) = true := (h.looksAt_bad m ix j).trans hb
  obtain ⟨x, hx, -⟩ := Option.any_eq_true _ _ |>.1 hsome
  have hfind : ((List.range h.vl).filterMap (h.looksAt m ix)).find? (fun y => y.2.bad) = some x := by
    rw [List.find?_filterMap]
    simp only [h.looksAt_bad, range_find?_first _ h.vl j hj hb hmin, Option.bind_some, hx]
  rw [h.vmemActive_index, eltsClean_bad _ x hfind, h.looksAt_fst m ix j x hx]
  rfl

/-! ### Instructions that a mask governs -/

/-- The outcome o of an instruction of widths ws whose effect begins with its look at mask m. -/
def Masks (m : MIdx) (ws : List Nat) (s : State) (o : Out) : Prop := Checks s o (ewIn ws) fun h => h.maskClean m

section
variable {m : MIdx} {s : State} {o : Out} {rs ds : List VIdx} {ws : List Nat}

theorem maskMap_bad (d : MIdx) (f : Hart → Nat → Bool × Bool) (h : Hart) (x : Exc) (hx : h.maskClean m = .error x) :
    maskMap d m f h = .error x := by
  unfold maskMap
  rw [hx]
  rfl

theorem vecMap_bad (w : Nat) (d : VIdx) (f : Hart → Nat → Elt) (h : Hart) (x : Exc) (hx : h.maskClean m = .error x) :
    vecMap w d m f h = .error x := by
  unfold vecMap
  rw [hx]
  rfl

theorem vecFlag_bad (w : Nat) (d : VIdx) (f : Hart → Nat → Elt × FlagSet) (h : Hart) (x : Exc) (hx : h.maskClean m = .error x) :
    vecFlag w d m f h = .error x := by
  unfold vecFlag
  rw [hx]

theorem masks_vecMap {w : Nat} {d : VIdx} {f : Hart → Nat → Elt} (e : o = vecH rs ds (ewIn ws) (vecMap w d m f) s) : Masks m ws s o :=
  .of_vecH e (vecMap_bad w d f s.hart)

theorem masks_vecFlag {w : Nat} {d : VIdx} {f : Hart → Nat → Elt × FlagSet} (e : o = vecH rs ds (ewIn ws) (vecFlag w d m f) s) : Masks m ws s o :=
  .of_vecH e (vecFlag_bad w d f s.hart)

theorem masks_maskMap {d : MIdx} {f : Hart → Nat → Bool × Bool} (e : o = vecH rs ds (ewIn ws) (maskMap d m f) s) : Masks m ws s o :=
  .of_vecH e (maskMap_bad d f s.hart)

theorem masks_vecInt3 {k : IWidth} {d a : VIdx} {b : BOp3} {f : Nat → Nat → Nat → Nat} (e : o = vecInt3 k d a b m f s) : Masks m [k.bits] s o :=
  masks_vecMap e

theorem masks_vecShift {k : IWidth} {d a : VIdx} {b : BOp3} {f : Nat → Nat → Nat → Nat} (e : o = vecShift k d a b m f s) : Masks m [k.bits] s o :=
  masks_vecMap e

theorem masks_vecIntCmp {k : IWidth} {d : MIdx} {a : VIdx} {b : BOp3} {f : Nat → Nat → Nat → Bool} (e : o = vecIntCmp k d a b m f s) :
    Masks m [k.bits] s o := masks_maskMap e

theorem masks_vecFp2 {w : Nat} {d a : VIdx} {b : BOp2} {f : Rnd → Bool → Nat → Nat → Nat × FlagSet} (e : o = vecFp2 w d a b m f s) :
    Masks m [w] s o := masks_vecFlag e

theorem masks_vecC2 {c : CFmt} {op : COp} {d a : VIdx} {b : BOp2} (e : o = vecC2 c op d a b m s) : Masks m [2 * c.comp] s o := by
  unfold vecC2 at e
  exact masks_vecFp2 e

theorem masks_vecFp1 {w : Nat} {d a : VIdx} {f : Rnd → Bool → Nat → Nat × FlagSet} (e : o = vecFp1 w d a m f s) : Masks m [w] s o :=
  masks_vecFlag e

theorem masks_vecFma {F : Fp} {w : Nat} {np nc : Bool} {d a b : VIdx} (e : o = vecFma F w np nc d a b m s) : Masks m [w] s o :=
  masks_vecFlag e

theorem masks_vecFCmp {k : FFmt} {c : FCmp} {d : MIdx} {a : VIdx} {b : BOp2} (e : o = vecFCmp k c d a b m s) : Masks m [k.width] s o :=
  .of_vecH e fun x hx => by simp only [hx]

theorem masks_maskOp2 {d a b : MIdx} {f : Bool → Bool → Bool} (e : o = maskOp2 d a b m f s) : Masks m [8, 16, 32, 64] s o := masks_maskMap e

theorem masks_reduce {w id : Nat} {d a : VIdx} {f : Hart → Nat → Nat → Nat × FlagSet} (e : o = reduce w d a m id f s) : Masks m [w] s o :=
  .of_vecH e fun x hx => by simp only [hx]

theorem masks_modOp2 {k : MWidth} {p : Bool} {d a : VIdx} {b : BOp2} {f : Nat → Nat → Nat → Nat} (e : o = modOp2 k p d a b m f s) :
    Masks m [k.bits] s o := masks_vecFlag e

theorem checks_permute {d a : VIdx} {c : Bool} {src : Nat → Nat → Nat} (e : o = permute d a m c src s) :
    Checks s o (fun h => if c then ewIn [8, 16, 32, 64] h else .error illegal) fun h => h.maskClean m := by
  unfold permute at e
  exact .of_vecH e fun x hx => vecMap_bad _ d _ s.hart x hx

theorem masks_outer {sub : Bool} {t : OpaT} {d : AIdx} {a b : VIdx} (e : o = outer sub t d a b m s) : Masks m [opaWidth t] s o :=
  .of_vecH e fun x hx => by simp only [hx]
end

section
variable (m : MIdx) (s : State)

theorem masks_integer (k : IWidth) (d a : VIdx) (b : BOp3) :
    ∀ i ∈ [Instr.vaddI, .vsubI, .vmulI, .vmulh, .vmulhu, .vminI, .vmaxI, .vminu, .vmaxu, .vand, .vor, .vxor, .vsll, .vsrl, .vsra, .vsadd,
      .vsaddu, .vssub, .vssubu, .vdivI, .vdivu, .vrem, .vremu], Masks m [k.bits] s (exec (i k d a b m) s) := by
  simp only [List.forall_mem_cons]
  exact ⟨masks_vecInt3 (exec_vaddI ..), masks_vecInt3 (exec_vsubI ..), masks_vecInt3 (exec_vmulI ..), masks_vecInt3 (exec_vmulh ..),
    masks_vecInt3 (exec_vmulhu ..), masks_vecInt3 (exec_vminI ..), masks_vecInt3 (exec_vmaxI ..), masks_vecInt3 (exec_vminu ..),
    masks_vecInt3 (exec_vmaxu ..), masks_vecInt3 (exec_vand ..), masks_vecInt3 (exec_vor ..), masks_vecInt3 (exec_vxor ..),
    masks_vecShift (exec_vsll ..), masks_vecShift (exec_vsrl ..), masks_vecShift (exec_vsra ..), masks_vecInt3 (exec_vsadd ..),
    masks_vecInt3 (exec_vsaddu ..), masks_vecInt3 (exec_vssub ..), masks_vecInt3 (exec_vssubu ..), masks_vecInt3 (exec_vdivI ..),
    masks_vecInt3 (exec_vdivu ..), masks_vecInt3 (exec_vrem ..), masks_vecInt3 (exec_vremu ..), List.forall_mem_nil _⟩

theorem masks_intCompare (k : IWidth) (d : MIdx) (a : VIdx) (b : BOp3) :
    ∀ i ∈ [Instr.vceqI, .vcneI, .vcltI, .vcltu, .vcleI, .vcleu], Masks m [k.bits] s (exec (i k d a b m) s) := by
  simp only [List.forall_mem_cons]
  exact ⟨masks_vecIntCmp (exec_vceqI ..), masks_vecIntCmp (exec_vcneI ..), masks_vecIntCmp (exec_vcltI ..),
    masks_vecIntCmp (exec_vcltu ..), masks_vecIntCmp (exec_vcleI ..), masks_vecIntCmp (exec_vcleu ..), List.forall_mem_nil _⟩

theorem masks_intReduction (k : IWidth) (d a : VIdx) :
    ∀ i ∈ [Instr.vredminu, .vredmaxu, .vredand, .vredor, .vredxor], Masks m [k.bits] s (exec (i k d a m) s) := by
  simp only [List.forall_mem_cons]
  exact ⟨masks_reduce (exec_vredminu ..), masks_reduce (exec_vredmaxu ..), masks_reduce (exec_vredand ..), masks_reduce (exec_vredor ..),
    masks_reduce (exec_vredxor ..), List.forall_mem_nil _⟩

theorem masks_float (f : FFmt) (d a : VIdx) (b : BOp2) :
    ∀ i ∈ [Instr.vaddF, .vsubF, .vmulF, .vdivF, .vminF, .vmaxF, .vsgnj], Masks m [f.width] s (exec (i f d a b m) s) := by
  simp only [List.forall_mem_cons]
  exact ⟨masks_vecFp2 (exec_vaddF ..), masks_vecFp2 (exec_vsubF ..), masks_vecFp2 (exec_vmulF ..), masks_vecFp2 (exec_vdivF ..),
    masks_vecFp2 (exec_vminF ..), masks_vecFp2 (exec_vmaxF ..), masks_vecFp2 (exec_vsgnj ..), List.forall_mem_nil _⟩

theorem masks_floatCompare (f : FFmt) (d : MIdx) (a : VIdx) (b : BOp2) :
    ∀ i ∈ [Instr.vceqF, .vcneF, .vcltF, .vcleF, .vcun], Masks m [f.width] s (exec (i f d a b m) s) := by
  simp only [List.forall_mem_cons]
  exact ⟨masks_vecFCmp (exec_vceqF ..), masks_vecFCmp (exec_vcneF ..), masks_vecFCmp (exec_vcltF ..), masks_vecFCmp (exec_vcleF ..),
    masks_vecFCmp (exec_vcun ..), List.forall_mem_nil _⟩

theorem masks_floatFused (f : FFmt) (d a b : VIdx) :
    ∀ i ∈ [Instr.vfmaF, .vfms, .vfnma], Masks m [f.width] s (exec (i f d a b m) s) := by
  simp only [List.forall_mem_cons]
  exact ⟨masks_vecFma (exec_vfmaF ..), masks_vecFma (exec_vfms ..), masks_vecFma (exec_vfnma ..), List.forall_mem_nil _⟩

theorem masks_floatUnary (f : FFmt) (d a : VIdx) : ∀ i ∈ [Instr.vsqrt, .vabsF, .vneg], Masks m [f.width] s (exec (i f d a m) s) := by
  simp only [List.forall_mem_cons]
  exact ⟨masks_vecFp1 (exec_vsqrt ..), masks_vecFp1 (exec_vabsF ..), masks_vecFp1 (exec_vneg ..), List.forall_mem_nil _⟩

theorem masks_float8 (f : F8Fmt) (d a : VIdx) (b : BOp2) :
    ∀ i ∈ [Instr.vaddF8, .vsubF8, .vmulF8, .vminF8, .vmaxF8], Masks m [8] s (exec (i f d a b m) s) := by
  simp only [List.forall_mem_cons]
  exact ⟨masks_vecFp2 (exec_vaddF8 ..), masks_vecFp2 (exec_vsubF8 ..), masks_vecFp2 (exec_vmulF8 ..), masks_vecFp2 (exec_vminF8 ..),
    masks_vecFp2 (exec_vmaxF8 ..), List.forall_mem_nil _⟩

theorem masks_complex (c : CFmt) (d a : VIdx) (b : BOp2) :
    ∀ i ∈ [Instr.vaddC, .vsubC, .vmulC, .vmulc], Masks m [2 * c.comp] s (exec (i c d a b m) s) := by
  simp only [List.forall_mem_cons]
  exact ⟨masks_vecC2 (exec_vaddC ..), masks_vecC2 (exec_vsubC ..), masks_vecC2 (exec_vmulC ..), masks_vecC2 (exec_vmulc ..),
    List.forall_mem_nil _⟩

theorem masks_maskBinary (d a b : MIdx) :
    ∀ i ∈ [Instr.mand, .mor, .mxor, .mandn], Masks m [8, 16, 32, 64] s (exec (i d a b m) s) := by
  simp only [List.forall_mem_cons]
  exact ⟨masks_maskOp2 (exec_mand ..), masks_maskOp2 (exec_mor ..), masks_maskOp2 (exec_mxor ..), masks_maskOp2 (exec_mandn ..),
    List.forall_mem_nil _⟩

theorem masks_reduction (g : RedGroup) (d a : VIdx) :
    ∀ i ∈ [Instr.vredsum, .vredmin, .vredmax], Masks m [redWidth g] s (exec (i g d a m) s) := by
  simp only [List.forall_mem_cons]
  exact ⟨masks_reduce (exec_vredsum ..), masks_reduce (exec_vredmin ..), masks_reduce (exec_vredmax ..), List.forall_mem_nil _⟩

theorem masks_residue (k : MWidth) (p : Bool) (d a : VIdx) (b : BOp2) :
    ∀ i ∈ [Instr.mmul, .madd, .msub], Masks m [k.bits] s (exec (i k p d a b m) s) := by
  simp only [List.forall_mem_cons]
  exact ⟨masks_modOp2 (exec_mmul ..), masks_modOp2 (exec_madd ..), masks_modOp2 (exec_msub ..), List.forall_mem_nil _⟩

theorem masks_vmfirst (d a : MIdx) : Masks m [8, 16, 32, 64] s (exec (.vmfirst d a m) s) :=
  .of_vecH (exec_vmfirst ..) fun x hx => maskMap_bad d _ s.hart x hx

theorem masks_vpopc (d : SReg) (a : MIdx) : Masks m [8, 16, 32, 64] s (exec (.vpopc d a m) s) :=
  .of_vecH (exec_vpopc ..) fun x hx => by rw [hx]; rfl

theorem masks_viota (d : VIdx) (a : MIdx) : Masks m [8, 16, 32, 64] s (exec (.viota d a m) s) :=
  .of_vecH (exec_viota ..) fun x hx => by rw [hx]; rfl

theorem masks_vmerge (d a b : VIdx) : Masks m [8, 16, 32, 64] s (exec (.vmerge d a b m) s) :=
  .of_vecH (exec_vmerge ..) fun x hx => by rw [hx]; rfl

theorem masks_vperm (d a b : VIdx) : Masks m [8, 16, 32, 64] s (exec (.vperm d a b m) s) :=
  .of_vecH (exec_vperm ..) fun x hx => vecMap_bad _ d _ s.hart x hx

theorem masks_vmv (d a : VIdx) : Masks m [8, 16, 32, 64] s (exec (.vmv d a m) s) :=
  .of_vecH (exec_vmv ..) fun x hx => vecMap_bad _ d _ s.hart x hx

theorem masks_vmvXs (d : VIdx) (r : SReg) : Masks m [8, 16, 32, 64] s (exec (.vmvXs d r m) s) :=
  .of_vecH (exec_vmvXs ..) fun x hx => vecMap_bad _ d _ s.hart x hx

theorem masks_vtrn (d a : VIdx) (im : BitVec 5) : Masks m [8, 16, 32, 64] s (exec (.vtrn d a im m) s) :=
  checks_permute (c := true) (exec_vtrn ..)

theorem masks_vmxq (mx : MxFmt) (x : MxSide) (sr : Bool) (d a : VIdx) : Masks m [mxWidth x] s (exec (.vmxq mx x sr d a m) s) :=
  .of_vecH (exec_vmxq ..) fun x hx => by simp only [hx]

theorem masks_xbfn (cplx : Bool) (d a : VIdx) : Masks m [if cplx then 32 else 16] s (exec (.xbfn cplx d a m) s) :=
  .of_vecH (exec_xbfn ..) fun x hx => by simp only [hx]

/-! The rows of the table of these instructions that are not of one shape. -/

theorem masks_integerRest (k : IWidth) (d a b : VIdx) :
    ∀ p ∈ [(Instr.vmadd k d a b m, [k.bits]), (.vabsI k d a m, [k.bits])], Masks m p.2 s (exec p.1 s) := by
  simp only [List.forall_mem_cons]
  exact ⟨masks_vecMap (exec_vmadd ..), masks_vecMap (exec_vabsI ..), List.forall_mem_nil _⟩

theorem masks_float8Fused (f : F8Fmt) (d a b : VIdx) : ∀ p ∈ [(Instr.vfmaF8 f d a b m, [8])], Masks m p.2 s (exec p.1 s) := by
  simp only [List.forall_mem_cons]
  exact ⟨masks_vecFma (exec_vfmaF8 ..), List.forall_mem_nil _⟩

theorem masks_complexRest (c : CFmt) (d a b : VIdx) :
    ∀ p ∈ [(Instr.vfmaC c d a b m, [2 * c.comp]), (.vconj c d a m, [2 * c.comp]), (.vmuli c d a m, [2 * c.comp])],
      Masks m p.2 s (exec p.1 s) := by
  simp only [List.forall_mem_cons]
  exact ⟨masks_vecFlag (exec_vfmaC ..), masks_vecFp1 (exec_vconj ..), masks_vecFp1 (exec_vmuli ..), List.forall_mem_nil _⟩

theorem masks_move (dm am : MIdx) (d a b : VIdx) (u : SReg) (im : BitVec 5) :
    ∀ p ∈ [(Instr.mnot dm am m, [8, 16, 32, 64]), (.vmfirst dm am m, [8, 16, 32, 64]), (.vpopc u am m, [8, 16, 32, 64]),
        (.viota d am m, [8, 16, 32, 64]), (.mset dm m, [8, 16, 32, 64]), (.mclr dm m, [8, 16, 32, 64]), (.vmerge d a b m, [8, 16, 32, 64]),
        (.vperm d a b m, [8, 16, 32, 64]), (.vmv d a m, [8, 16, 32, 64]), (.vmvXs d u m, [8, 16, 32, 64]), (.vtrn d a im m, [8, 16, 32, 64])],
      Masks m p.2 s (exec p.1 s) := by
  simp only [List.forall_mem_cons]
  exact ⟨masks_maskOp2 (exec_mnot ..), masks_vmfirst m s dm am, masks_vpopc m s u am, masks_viota m s d am, masks_maskMap (exec_mset ..),
    masks_maskMap (exec_mclr ..), masks_vmerge m s d a b, masks_vperm m s d a b, masks_vmv m s d a, masks_vmvXs m s d u, masks_vtrn m s d a im,
    List.forall_mem_nil _⟩

theorem masks_residueRest (k : MWidth) (p1 : Bool) (d a b : VIdx) :
    ∀ p ∈ [(Instr.mred k p1 d a m, [k.bits]), (.mlift k p1 d a m, [k.bits]), (.mcrt d a b m, [64])], Masks m p.2 s (exec p.1 s) := by
  simp only [List.forall_mem_cons]
  exact ⟨masks_vecFlag (exec_mred ..), masks_vecFlag (exec_mlift ..), masks_vecFlag (exec_mcrt ..), List.forall_mem_nil _⟩

theorem masks_transform (mx : MxFmt) (x : MxSide) (sr cplx : Bool) (o : OpaT) (ad : AIdx) (d a b : VIdx) :
    ∀ p ∈ [(Instr.vmxq mx x sr d a m, [mxWidth x]), (.vmxd x mx d a m, [mxWidth x]), (.xbfn cplx d a m, [if cplx then 32 else 16]),
        (.opa o ad a b m, [opaWidth o]), (.ops o ad a b m, [opaWidth o])], Masks m p.2 s (exec p.1 s) := by
  simp only [List.forall_mem_cons]
  exact ⟨masks_vmxq m s mx x sr d a, masks_vecFlag (exec_vmxd ..), masks_xbfn m s cplx d a, masks_outer (exec_opa ..), masks_outer (exec_ops ..),
    List.forall_mem_nil _⟩
end

/-! ### Static checks -/

/-- An instruction without an effect under a mask: its static check alone. -/
def Static (s : State) (o : Out) (legal : Hart → M Unit) : Prop := Checks s o legal fun _ => (.ok () : M Unit)

section
variable {s : State} {o : Out} {legal : Hart → M Unit} {ws : List Nat}

theorem static_vecH {rs ds : List VIdx} {f : Hart → M Hart} (e : o = vecH rs ds legal f s) : Static s o legal :=
  .of_vecH e fun _ hx => nomatch hx

theorem ewIn_bind_bad (h : Hart) (g : Unit → M Unit) (hw : h.ew ∉ ws) : (ewIn ws h).bind g = .error illegal := by
  rw [ewIn_bad ws h hw]
  rfl

theorem ewIn_bind_ok (h : Hart) (g : Unit → M Unit) (hw : h.ew ∈ ws) : (ewIn ws h).bind g = g () := by
  rw [ewIn_ok ws h hw]
  rfl

/-- A second reason to be illegal does not change the trap. -/
theorem ewIn_bind_illegal (h : Hart) (g : Unit → M Unit) (hg : g () = .error illegal) : (ewIn ws h).bind g = .error illegal := by
  by_cases hw : h.ew ∈ ws
  · rw [ewIn_bind_ok h g hw, hg]
  · exact ewIn_bind_bad h g hw

theorem illegal_or {c : Prop} [Decidable c] {x : M Unit} (h : ¬ c → x = .error illegal) : (if c then .error illegal else x) = .error illegal := by
  by_cases hc : c
  · rw [if_pos hc]
  · rw [if_neg hc, h hc]

theorem or_illegal {c : Prop} [Decidable c] {x : M Unit} (h : c → x = .error illegal) : (if c then x else .error illegal) = .error illegal := by
  by_cases hc : c
  · rw [if_pos hc, h hc]
  · rw [if_neg hc]

theorem vmemLegal_bad (h : Hart) (a : SReg) (md : EaMode) (hw : h.ew ∉ ws) : vmemLegal ws a md h = .error illegal := by
  unfold vmemLegal
  rw [ewIn_bad ws h hw]

theorem vmemLegal_base (h : Hart) (a : SReg) (md : EaMode) (hw : h.ew ∈ ws) (ha : h.bad a = true) : vmemLegal ws a md h = .error poisonTrap := by
  unfold vmemLegal
  rw [ewIn_ok ws h hw, h.clean_bad a ha]

theorem vmemLegal_ok (h : Hart) (a : SReg) (md : EaMode) (hw : h.ew ∈ ws) (ha : h.bad a = false) (hs : ∀ r, md = .stride r → h.bad r = false) :
    vmemLegal ws a md h = .ok () := by
  unfold vmemLegal
  rw [ewIn_ok ws h hw, h.clean_ok a ha]
  cases md with
  | unit => rfl
  | stride r => exact h.clean_ok r (hs r rfl)
  | index ix => rfl

theorem vmemLegal_stride (h : Hart) (a r : SReg) (hw : h.ew ∈ ws) (ha : h.bad a = false) (hr : h.bad r = true) :
    vmemLegal ws a (.stride r) h = .error poisonTrap := by
  unfold vmemLegal
  rw [ewIn_ok ws h hw, h.clean_ok a ha]
  exact h.clean_bad r hr

/-- The length of the transform is the low field of TWG (07 Table 7-2). -/
theorem Hart.twg_logn (h : Hart) : h.twg.logn = h.regs.h.twg.toNat % 64 := by
  show field h.regs.h.twg.toNat 0 6 = _
  unfold field
  exact congrArg (· % 64) (Nat.div_one h.regs.h.twg.toNat)

theorem Hart.twgLegal_bad (h : Hart) (r4 : Bool)
    (hg : h.regs.h.twg.toNat % 64 = 0 ∨ 32 < h.regs.h.twg.toNat % 64 ∨ r4 = true ∧ h.regs.h.twg.toNat % 64 = 1) :
    h.twgLegal r4 = .error illegal := by
  unfold Hart.twgLegal failIf
  rw [h.twg_logn]
  refine if_pos ?_
  simpa [or_assoc] using hg

theorem Hart.twgLegal_ok (h : Hart) (h1 : 1 ≤ h.regs.h.twg.toNat % 64) (h2 : h.regs.h.twg.toNat % 64 ≤ 32) : h.twgLegal false = .ok () := by
  unfold Hart.twgLegal failIf
  rw [h.twg_logn]
  refine if_neg ?_
  simp only [Bool.false_and, Bool.or_false, Bool.or_eq_true, beq_iff_eq, decide_eq_true_eq]
  omega
end

/-! ### Slides, tile lines, memory and transforms -/

/-- The static check of a slide. -/
def slideLegal (b : BOpS) (h : Hart) : M Unit := (ewAny h).bind fun _ => (h.slideBy b).map fun _ => ()

section
variable (m : MIdx) (s : State)

theorem checks_slide {up keep : Bool} {d a : VIdx} {b : BOpS} {o : Out} (e : o = slide up keep d a b m s) :
    Checks s o (slideLegal b) fun h => (h.slideBy b).bind fun _ => h.maskClean m := by
  refine .of_vecH e fun x hx => ?_
  cases hk : s.hart.slideBy b with
  | error y =>
    rw [hk] at hx
    obtain rfl : y = x := Except.error.inj hx
    rfl
  | ok k =>
    rw [hk] at hx
    have hm : s.hart.maskClean m = .error x := hx
    simp only [hm]
    rfl

theorem checks_slides (d a : VIdx) (b : BOpS) :
    ∀ i ∈ [Instr.vslideup d a b m, .vslidedown d a b m, .vslideupk d a b m, .vslidedownk d a b m],
      Checks s (exec i s) (slideLegal b) fun h => (h.slideBy b).bind fun _ => h.maskClean m := by
  simp only [List.forall_mem_cons]
  exact ⟨checks_slide m s (exec_vslideup ..), checks_slide m s (exec_vslidedown ..), checks_slide m s (exec_vslideupk ..),
    checks_slide m s (exec_vslidedownk ..), List.forall_mem_nil _⟩

theorem checks_lines (d : VIdx) (ad : AIdx) (u : SReg) :
    ∀ i ∈ [Instr.arow d ad u m, .acol d ad u m, .awrow ad d u m, .awcol ad d u m],
      Checks s (exec i s) (tileIx u) fun h => h.maskClean m := by
  have read {row : Bool} {o : Out} (e : o = tileRead row d ad u m s) : Checks s o (tileIx u) fun h => h.maskClean m :=
    .of_vecH e fun x hx => by rw [hx]; rfl
  have write {row : Bool} {o : Out} (e : o = tileWrite row ad d u m s) : Checks s o (tileIx u) fun h => h.maskClean m :=
    .of_vecH e fun x hx => by rw [hx]; rfl
  simp only [List.forall_mem_cons]
  exact ⟨read (exec_arow ..), read (exec_acol ..), write (exec_awrow ..), write (exec_awcol ..), List.forall_mem_nil _⟩

theorem checks_vecLoad {d : VIdx} {a : SReg} {md : EaMode} {ff : Bool} {o : Out} (e : o = plain s (vecLoad d a md m ff)) :
    Checks s o (vmemLegal [8, 16, 32, 64] a md) fun h => h.vmemActive md m :=
  ⟨_, _, _, e, fun x hx => by simp only [hx]⟩

theorem checks_vecStore {d : VIdx} {a : SReg} {md : EaMode} {o : Out} (e : o = plain s (vecStore d a md m)) :
    Checks s o (vmemLegal [8, 16, 32, 64] a md) fun h => h.vmemActive md m :=
  ⟨_, _, _, e, fun x hx => by simp only [hx]⟩

theorem checks_plain (d : VIdx) (u : SReg) : ∀ i ∈ [Instr.vld d u m, .vldff d u m, .vst d u m],
    Checks s (exec i s) (vmemLegal [8, 16, 32, 64] u .unit) fun h => h.vmemActive .unit m := by
  simp only [List.forall_mem_cons]
  exact ⟨checks_vecLoad m s (exec_vld ..), checks_vecLoad m s (exec_vldff ..), checks_vecStore m s (exec_vst ..), List.forall_mem_nil _⟩

theorem checks_strided (d : VIdx) (u v : SReg) : ∀ i ∈ [Instr.vlds d u v m, .vsts d u v m],
    Checks s (exec i s) (vmemLegal [8, 16, 32, 64] u (.stride v)) fun h => h.vmemActive (.stride v) m := by
  simp only [List.forall_mem_cons]
  exact ⟨checks_vecLoad m s (exec_vlds ..), checks_vecStore m s (exec_vsts ..), List.forall_mem_nil _⟩

theorem checks_indexed (d ix : VIdx) (u : SReg) : ∀ i ∈ [Instr.vldx d u ix m, .vstx d u ix m],
    Checks s (exec i s) (vmemLegal [8, 16, 32, 64] u (.index ix)) fun h => h.vmemActive (.index ix) m := by
  simp only [List.forall_mem_cons]
  exact ⟨checks_vecLoad m s (exec_vldx ..), checks_vecStore m s (exec_vstx ..), List.forall_mem_nil _⟩

/-- Without an index an access looks at its mask alone. -/
theorem Hart.vmemActive_maskBad (h : Hart) (md : EaMode) (hmd : ∀ ix, md ≠ .index ix) (x : Exc) (hx : h.maskClean m = .error x) :
    h.vmemActive md m = .error x := by
  cases md with
  | index ix => exact absurd rfl (hmd ix)
  | _ =>
    unfold Hart.vmemActive
    rw [hx]
    rfl

theorem checks_vcvt (dst src : Format) (md : Bool) (d a : VIdx) : Checks s (exec (.vcvt dst src md d a m) s)
    (fun h => if !(cvtPair dst src && (!md || cvtMod dst src)) then .error illegal else ewIn [max (fmtWidth dst) (fmtWidth src)] h)
    fun h => h.maskClean m :=
  .of_vecH (exec_vcvt ..) fun x hx => by simp only [hx]

theorem checks_twget (t : TwFmt) (d : VIdx) : Checks s (exec (.twget t d m) s)
    (fun h => (ewIn [twWidth t] h).bind fun _ => h.twgLegal false) fun h => h.maskClean m :=
  .of_vecH (exec_twget ..) fun x hx => by simp only [hx]

theorem checks_vdrev (d a : VIdx) (im : BitVec 5) : Checks s (exec (.vdrev d a im m) s)
    (fun h => if decide (1 ≤ im.toNat) && decide (im.toNat ≤ 8) then ewIn [8, 16, 32, 64] h else .error illegal) fun h => h.maskClean m :=
  checks_permute (exec_vdrev ..)

theorem static_vmvSx (d : SReg) (a : VIdx) : Static s (exec (.vmvSx d a) s) (ewIn [8, 16, 32, 64]) := static_vecH (exec_vmvSx ..)

theorem static_vext (d : SReg) (a : VIdx) (b : SReg) :
    Static s (exec (.vext d a b) s) fun h => (ewIn [8, 16, 32, 64] h).bind fun _ => h.clean b := static_vecH (exec_vext ..)

theorem static_twset (b : SReg) : Static s (exec (.twset b) s) fun h => (ewIn [8, 16, 32, 64] h).bind fun _ => h.clean b :=
  static_vecH (exec_twset ..)

theorem static_mchk (c : MchkSel) (d a b : SReg) : Static s (exec (.mchk c d a b) s)
    fun h => (ewIn [8, 16, 32, 64] h).bind fun _ => failIf (h.bad d || h.bad a || h.bad b) poisonTrap := static_vecH (exec_mchk ..)

theorem static_bfly2 (t : BflyT) (d a : VIdx) (b : BOpB) : Static s (exec (.bfly2 t d a b m) s) fun h =>
    if !bflyLimit false d a b then .error illegal
    else (ewIn [bflyWidth t] h).bind fun _ => if t != .rxbf then h.twgLegal false else .ok () := by
  have e := exec_bfly2 t d a b m s
  unfold execBfly2 at e
  exact static_vecH e

theorem static_bfly4 (t : BflyT) (d a : VIdx) (b : BOpB) : Static s (exec (.bfly4 t d a b m) s) fun h =>
    if !bflyLimit true d a b || t == .rxbf then .error illegal else (ewIn [bflyWidth t] h).bind fun _ => h.twgLegal true :=
  static_vecH (exec_bfly4 ..)

theorem static_bflyg (t : BflyT) (d a b : VIdx) : Static s (exec (.bflyg t d a b m) s) fun h =>
    if 30 < b.val then .error illegal else ewIn [bflyWidth t] h := static_vecH (exec_bflyg ..)

theorem static_bfly2M (k : MWidth) (p : Bool) (d a : VIdx) (b : BOpB) : Static s (exec (.bfly2M k p d a b m) s) fun h =>
    if !bflyLimit false d a b then .error illegal else (ewIn [k.bits] h).bind fun _ => h.twgLegal false := static_vecH (exec_bfly2M ..)

theorem static_bfly4M (k : MWidth) (p : Bool) (d a : VIdx) (b : BOpB) : Static s (exec (.bfly4M k p d a b m) s) fun h =>
    if !bflyLimit true d a b then .error illegal else (ewIn [k.bits] h).bind fun _ => h.twgLegal true := static_vecH (exec_bfly4M ..)
end

/-! ### An EW that is none of an instruction's widths, and a TWG that is no length -/

section
variable (m : MIdx) (s : State) (d a b : VIdx) (bb : BOpB)

theorem illegal_registers (im : BitVec 5) (u v w : SReg) (sel : MchkSel) :
    ∀ i ∈ [Instr.vmvSx u a, .vext u a v, .mchk sel u v w, .twset u, .vdrev d a im m],
      s.hart.ew ∉ [8, 16, 32, 64] → exec i s = s.take illegal := by
  simp only [List.forall_mem_cons]
  exact ⟨fun hw => (static_vmvSx s u a).refused _ (ewIn_bad _ _ hw), fun hw => (static_vext s u a v).refused _ (ewIn_bind_bad _ _ hw),
    fun hw => (static_mchk s sel u v w).refused _ (ewIn_bind_bad _ _ hw), fun hw => (static_twset s u).refused _ (ewIn_bind_bad _ _ hw),
    fun hw => (checks_vdrev m s d a im).refused _ (or_illegal fun _ => ewIn_bad _ _ hw), List.forall_mem_nil _⟩

theorem illegal_transforms (dst src : Format) (md : Bool) (tf : TwFmt) (y : BflyT) (mw : MWidth) (p1 : Bool) :
    ∀ p ∈ [(Instr.vcvt dst src md d a m, [max (fmtWidth dst) (fmtWidth src)]), (.twget tf d m, [twWidth tf]),
        (.bfly2 y d a bb m, [bflyWidth y]), (.bfly4 y d a bb m, [bflyWidth y]), (.bflyg y d a b m, [bflyWidth y]),
        (.bfly2M mw p1 d a bb m, [mw.bits]), (.bfly4M mw p1 d a bb m, [mw.bits])],
      s.hart.ew ∉ p.2 → exec p.1 s = s.take illegal := by
  simp only [List.forall_mem_cons]
  exact ⟨fun hw => (checks_vcvt m s dst src md d a).refused _ (illegal_or fun _ => ewIn_bad _ _ hw),
    fun hw => (checks_twget m s tf d).refused _ (ewIn_bind_bad _ _ hw),
    fun hw => (static_bfly2 m s y d a bb).refused _ (illegal_or fun _ => ewIn_bind_bad _ _ hw),
    fun hw => (static_bfly4 m s y d a bb).refused _ (illegal_or fun _ => ewIn_bind_bad _ _ hw),
    fun hw => (static_bflyg m s y d a b).refused _ (illegal_or fun _ => ewIn_bad _ _ hw),
    fun hw => (static_bfly2M m s mw p1 d a bb).refused _ (illegal_or fun _ => ewIn_bind_bad _ _ hw),
    fun hw => (static_bfly4M m s mw p1 d a bb).refused _ (illegal_or fun _ => ewIn_bind_bad _ _ hw), List.forall_mem_nil _⟩

theorem twiddled_refused (tf : TwFmt) (y : BflyT) (mw : MWidth) (p1 : Bool)
    (hg : s.hart.regs.h.twg.toNat % 64 = 0 ∨ 32 < s.hart.regs.h.twg.toNat % 64) :
    ∀ i ∈ [Instr.twget tf d m, .bfly2M mw p1 d a bb m, .bfly4M mw p1 d a bb m, .bfly4 y d a bb m], exec i s = s.take illegal := by
  have hbad (r4 : Bool) : s.hart.twgLegal r4 = .error illegal := Hart.twgLegal_bad _ r4 (hg.imp_right .inl)
  simp only [List.forall_mem_cons]
  exact ⟨(checks_twget m s tf d).refused _ (ewIn_bind_illegal _ _ (hbad false)),
    (static_bfly2M m s mw p1 d a bb).refused _ (illegal_or fun _ => ewIn_bind_illegal _ _ (hbad false)),
    (static_bfly4M m s mw p1 d a bb).refused _ (illegal_or fun _ => ewIn_bind_illegal _ _ (hbad true)),
    (static_bfly4 m s y d a bb).refused _ (illegal_or fun _ => ewIn_bind_illegal _ _ (hbad true)), List.forall_mem_nil _⟩
end

/-! ### Strip-terminal accesses -/

/-- Instruction i is a strip-terminal access of widths ws with base a, indices ix and mask m (05 R128). -/
def Terminal (s : State) (ws : List Nat) (a : SReg) (ix : VIdx) (m : MIdx) (i : Instr) : Prop :=
  ∃ cls kind perm rs ds data start f fin,
    exec i s = access i s (accessRun cls kind perm (accessCheck ws cls kind perm rs ds data a ix m) start f) fin

theorem closeThen_closesTo (s t : State) (f : State → Out) (h : s.closesTo t) : closeThen s f = f t := by
  obtain ⟨e, hq⟩ := h
  unfold closeThen
  rw [e]
  rcases hq with hq | hq <;> simp [hq]

section
variable {s t : State} {ws : List Nat} {a : SReg} {ix : VIdx} {m : MIdx} {i : Instr}

theorem accessCheck_illegal (cls : AccClass) (kind : AccKind) (perm : Perm) (rs ds data : List VIdx) (x : Exc)
    (hl : vmemLegal ws a (.index ix) s.hart = .error x) : accessCheck ws cls kind perm rs ds data a ix m s = .error x := by
  unfold accessCheck
  rw [hl]

theorem accessCheck_trap (cls : AccClass) (kind : AccKind) (perm : Perm) (rs ds data : List VIdx) (x : Exc) (hd : s.hart.detached)
    (hl : vmemLegal ws a (.index ix) s.hart = .ok ()) (hx : s.hart.vmemActive (.index ix) m = .error x) :
    accessCheck ws cls kind perm rs ds data a ix m s = .error x := by
  unfold accessCheck State.vmemTargets
  simp only [hl, streamsReady_detached s.hart rs ds hd, deliver_detached s rs hd, hx]

/-- A check that fails before an access has begun is taken in TERM, after the open strip has closed (05 R128). -/
theorem access_check (cls : AccClass) (kind : AccKind) (perm : Perm) (check : State → M (State × List Target)) (start : List Target → State → M State)
    (f : Target → State → M (State × Option Elt)) (fin : State → M (State × List (Nat × FlagSet))) (x : Exc) (hc : s.closesTo t)
    (hb : t.hart.begun = false) (hx : check (t.inTerm i) = .error x) :
    access i s (accessRun cls kind perm check start f) fin = (t.inTerm i).take x := by
  have hr : accessRun cls kind perm check start f (t.inTerm i) = .error x := by
    unfold accessRun
    rw [show (t.inTerm i).hart.begun = false from hb, hx]
    rfl
  unfold access
  rw [closeThen_closesTo s t _ hc, hr]

theorem Terminal.refused (h : Terminal s ws a ix m i) (x : Exc) (hc : s.closesTo t) (hb : t.hart.begun = false)
    (hl : vmemLegal ws a (.index ix) t.hart = .error x) : exec i s = (t.inTerm i).take x := by
  obtain ⟨cls, kind, perm, rs, ds, data, start, f, fin, e⟩ := h
  exact e.trans (access_check cls kind perm _ start f fin x hc hb (accessCheck_illegal cls kind perm rs ds data x hl))

theorem Terminal.trapped (h : Terminal s ws a ix m i) (x : Exc) (hc : s.closesTo t) (hb : t.hart.begun = false) (hd : t.hart.detached)
    (hl : vmemLegal ws a (.index ix) t.hart = .ok ()) (hx : t.hart.vmemActive (.index ix) m = .error x) :
    exec i s = (t.inTerm i).take x := by
  obtain ⟨cls, kind, perm, rs, ds, data, start, f, fin, e⟩ := h
  exact e.trans (access_check cls kind perm _ start f fin x hc hb (accessCheck_trap cls kind perm rs ds data x hd hl hx))
end

section
variable (s : State) (d ix : VIdx) (a : SReg) (m : MIdx)

theorem terminal_vatom (op : AtomOp) (hop : op = .cas → d.val < 31) : Terminal s (atomWidths op) a ix m (.vatom op d a ix m) := by
  have hn : ¬ (op = .cas ∧ d.val = 31) := fun h => Nat.lt_irrefl 31 (h.2 ▸ hop h.1)
  have e := exec_vatom op d a ix m s
  unfold execVatom at e
  simp only [hn, if_false] at e
  exact ⟨_, _, _, _, _, _, _, _, _, e⟩

theorem terminal_vldsc : Terminal s [8, 16, 32, 64] a ix m (.vldsc d a ix m) := ⟨_, _, _, _, _, _, _, _, _, exec_vldsc ..⟩

theorem terminal_vstsc : Terminal s [8, 16, 32, 64] a ix m (.vstsc d a ix m) := ⟨_, _, _, _, _, _, _, _, _, exec_vstsc ..⟩

theorem terminal_vgl : Terminal s [32, 64] a ix m (.vgl d a ix m) := ⟨_, _, _, _, _, _, _, _, _, exec_vgl ..⟩

theorem terminal_vsc : Terminal s [32, 64] a ix m (.vsc d a ix m) := ⟨_, _, _, _, _, _, _, _, _, exec_vsc ..⟩

theorem terminal_vtake : Terminal s [64] a ix m (.vtake d a ix m) := ⟨_, _, _, _, _, _, _, _, _, exec_vtake ..⟩

theorem terminal_vread : Terminal s [64] a ix m (.vread d a ix m) := ⟨_, _, _, _, _, _, _, _, _, exec_vread ..⟩

theorem terminal_vput : Terminal s [64] a ix m (.vput d a ix m) := by
  have e := exec_vput d a ix m s
  unfold execVput presence at e
  exact ⟨_, _, _, _, _, _, _, _, _, e⟩
end

theorem Hart.slideBy_ok (h : Hart) (b : BOpS) (hb : ∀ r, b = .vs r → h.bad r = false) : ∃ n, h.slideBy b = .ok n := by
  cases b with
  | vs r => exact ⟨_, by rw [Hart.slideBy, h.clean_ok r (hb r rfl)]; rfl⟩
  | vi n => exact ⟨_, rfl⟩

theorem slideLegal_bad (h : Hart) (r : SReg) (hw : h.ew ∈ [8, 16, 32, 64]) (hr : h.bad r = true) : slideLegal (.vs r) h = .error poisonTrap := by
  have hk : h.slideBy (.vs r) = .error poisonTrap := by
    unfold Hart.slideBy
    simp only [h.clean_bad r hr]
    rfl
  rw [slideLegal, show ewAny h = .ok () from ewIn_ok _ h hw, hk]
  rfl

/-- A slide by a clean offset looks at its mask next. -/
theorem slide_clean (h : Hart) (b : BOpS) (hw : h.ew ∈ [8, 16, 32, 64])
    (hb : ∀ r, b = .vs r → h.bad r = false) (m : MIdx) :
    slideLegal b h = .ok () ∧ ((h.slideBy b).bind fun _ => h.maskClean m) = h.maskClean m := by
  obtain ⟨n, hn⟩ := h.slideBy_ok b hb
  unfold slideLegal
  rw [show ewAny h = .ok () from ewIn_ok _ h hw, hn]
  exact ⟨rfl, rfl⟩

theorem Hart.ewWide_mem {h : Hart} (hw : h.ewWide) : h.ew ∈ [8, 16, 32, 64] := by
  simpa [Hart.ewWide] using hw

/-- Settles O42: each trap is the check that comes first, by the checks that the instructions of a group share. -/
theorem vectorTraps : Obligations.VectorTraps := by
  unfold Obligations.VectorTraps
  intro k f f8 c mw g tf y o mx x dst src md sr cplx p1 sel op d a e b3 b2 bs bb im dm am bm m ad u v w j s h
    any lt masked slides lines plain strided indexed twiddled narrow maskBad firstBad ixBad illegal poison
  have hmasked : ∀ p ∈ masked, Masks m p.2 s (exec p.1 s) := by
    simp only [masked, List.forall_mem_append, List.forall_mem_map, and_assoc]
    exact ⟨masks_integer m s k d a b3, masks_intCompare m s k dm a b3, masks_integerRest m s k d a e, masks_intReduction m s k d a,
      masks_float m s f d a b2, masks_floatCompare m s f dm a b2, masks_floatFused m s f d a e, masks_floatUnary m s f d a,
      masks_float8 m s f8 d a b2, masks_float8Fused m s f8 d a e, masks_complex m s c d a b2, masks_complexRest m s c d a e,
      masks_maskBinary m s dm am bm, masks_move m s dm am d a e u im, masks_reduction m s g d a, masks_residue m s mw p1 d a b2,
      masks_residueRest m s mw p1 d a e, masks_transform m s mx x sr cplx o ad d a e⟩
  have hnarrow : ∀ p ∈ narrow, h.ew ∉ p.2 → illegal p.1 := by
    simp only [narrow, List.forall_mem_append, List.forall_mem_map, and_assoc]
    exact ⟨illegal_registers m s d a im u v w sel, fun i hi hw => (checks_slides m s d a bs i hi).refused _ (ewIn_bind_bad _ _ hw),
      fun i hi hw => (checks_plain m s d u i hi).refused _ (vmemLegal_bad _ u _ hw),
      fun i hi hw => (checks_strided m s d u v i hi).refused _ (vmemLegal_bad _ u _ hw),
      fun i hi hw => (checks_indexed m s d a u i hi).refused _ (vmemLegal_bad _ u _ hw),
      fun i hi hw => (checks_lines m s d ad u i hi).refused _ (ewIn_bind_bad _ _ hw), illegal_transforms m s d a e bb dst src md tf y mw p1⟩
  refine ⟨?_, ?_, ?_, ?_, ?_, ?_, ?_, ?_⟩
  · intro p hp
    rcases List.mem_append.1 hp with hp | hp
    · exact fun hw => (hmasked p hp).refused _ (ewIn_bad _ _ hw)
    · exact hnarrow p hp
  · intro hlt
    refine ⟨twiddled_refused m s d a bb tf y mw p1 hlt, fun hy => (static_bfly2 m s y d a bb).refused _ ?_⟩
    refine illegal_or fun _ => ewIn_bind_illegal _ _ ?_
    simp only [bne_iff_ne, ne_eq, hy, not_false_eq_true, if_true]
    exact Hart.twgLegal_bad _ false (hlt.imp_right .inl)
  · intro hlt
    have hg : s.hart.twgLegal true = .error Sys2Proof.Machine.illegal := Hart.twgLegal_bad _ true (.inr (.inr ⟨rfl, hlt⟩))
    exact ⟨(static_bfly4M m s mw p1 d a bb).refused _ (illegal_or fun _ => ewIn_bind_illegal _ _ hg),
      (static_bfly4 m s y d a bb).refused _ (illegal_or fun _ => ewIn_bind_illegal _ _ hg)⟩
  · rintro hd ⟨hj, hb, hmin⟩
    have hm : s.hart.maskClean m = .error (poisonTrap j) := Hart.maskClean_bad _ m j hj hb hmin
    refine ⟨?_, ?_, ?_, ?_, ?_, ?_, ?_⟩
    · exact fun i hi hw => (hmasked i hi).trapped _ _ hd (ewIn_ok _ _ hw) hm
    · intro hw h1 h8
      exact (checks_vdrev m s d a im).trapped _ _ hd (by rw [if_pos (by simp [h1, h8])]; exact ewIn_ok _ _ (Hart.ewWide_mem hw)) hm
    · intro hw hr i hi
      obtain ⟨hl, hlook⟩ := slide_clean s.hart bs (Hart.ewWide_mem hw) hr m
      exact (checks_slides m s d a bs i hi).trapped _ _ hd hl (hlook.trans hm)
    · intro hw hu i hi
      refine (checks_lines m s d ad u i hi).trapped _ _ hd ?_ hm
      rw [tileIx, ewIn_bind_ok _ _ (by simpa using hw)]
      exact Hart.clean_ok _ u hu
    · intro hc hmd hw
      refine (checks_vcvt m s dst src md d a).trapped _ _ hd ?_ hm
      rw [if_neg (by simpa [hc] using hmd)]
      exact ewIn_ok _ _ (by simpa using hw)
    · intro hw h1 h2
      refine (checks_twget m s tf d).trapped _ _ hd ?_ hm
      rw [ewIn_bind_ok _ _ (by simpa using hw)]
      exact Hart.twgLegal_ok _ h1 h2
    · intro hw hu
      have hmv (md : EaMode) (hmd : ∀ ix, md ≠ .index ix) : s.hart.vmemActive md m = .error (poisonTrap j) :=
        Hart.vmemActive_maskBad m _ md hmd _ hm
      exact ⟨fun i hi => (checks_plain m s d u i hi).trapped _ _ hd (vmemLegal_ok _ u _ (Hart.ewWide_mem hw) hu (by simp)) (hmv _ (by simp)),
        fun hv i hi => (checks_strided m s d u v i hi).trapped _ _ hd
          (vmemLegal_ok _ u _ (Hart.ewWide_mem hw) hu (by rintro r ⟨⟩; exact hv)) (hmv _ (by simp))⟩
  · intro hd hw hu hj hb hmin i hi
    exact (checks_indexed m s d a u i hi).trapped _ _ hd (vmemLegal_ok _ u _ (Hart.ewWide_mem hw) hu (by simp)) (Hart.vmemActive_bad _ m a j hj hb hmin)
  · intro hw
    have hany := Hart.ewWide_mem hw
    refine ⟨?_, ?_, ?_, ?_, ?_⟩
    · intro r hr hbad i hi
      refine (checks_slides m s d a bs i hi).refused _ ?_
      subst hr
      exact slideLegal_bad _ r hany hbad
    · intro hv
      refine (static_vext s u a v).refused _ ?_
      rw [ewIn_bind_ok _ _ hany]
      exact Hart.clean_bad _ v hv
    · intro hu
      refine ⟨(static_twset s u).refused _ ?_, ?_⟩
      · rw [ewIn_bind_ok _ _ hany]
        exact Hart.clean_bad _ u hu
      · simp only [List.forall_mem_append]
        exact ⟨⟨fun i hi => (checks_plain m s d u i hi).refused _ (vmemLegal_base _ u _ hany hu),
          fun i hi => (checks_strided m s d u v i hi).refused _ (vmemLegal_base _ u _ hany hu)⟩,
          fun i hi => (checks_indexed m s d a u i hi).refused _ (vmemLegal_base _ u _ hany hu)⟩
    · intro hb
      refine (static_mchk s sel u v w).refused _ ?_
      rw [ewIn_bind_ok _ _ hany]
      exact if_pos hb
    · exact fun hu hv i hi => (checks_strided m s d u v i hi).refused _ (vmemLegal_stride _ u v hany hu hv)
  · intro hw hu i hi
    refine (checks_lines m s d ad u i hi).refused _ ?_
    rw [tileIx, ewIn_bind_ok _ _ (by simpa using hw)]
    exact Hart.clean_bad _ u hu
  · intro t hc hb hop terminal
    have hterminal : ∀ p ∈ terminal, Terminal s p.2 u a m p.1 := by
      simp only [terminal, List.forall_mem_cons]
      exact ⟨terminal_vldsc .., terminal_vstsc .., terminal_vgl .., terminal_vsc .., terminal_vtake .., terminal_vread .., terminal_vput ..,
        terminal_vatom s d a u m op hop, List.forall_mem_nil _⟩
    intro p hp
    exact ⟨fun hw => (hterminal p hp).refused _ hc hb (vmemLegal_bad _ u _ hw),
      fun hw hu => (hterminal p hp).refused _ hc hb (vmemLegal_base _ u _ hw hu),
      fun hw hu hd hj hbad hmin => (hterminal p hp).trapped _ hc hb hd (vmemLegal_ok _ u _ hw hu (by simp)) (Hart.vmemActive_bad _ m a j hj hbad hmin)⟩

end Sys2Proof.Machine
end

section
/-! Integer instructions (04 R99-R101, Tables 4-1 and 4-2): the results of the tables as bit-vector operations. -/
namespace Sys2Proof.Machine

theorem plain_ok (s t : State) (f : State → M State) (h : f s = .ok t) : plain s f = .next (t.goesOn t.hart 4) := by
  unfold plain plainN
  rw [h]
  rfl

theorem plainH_ok (s : State) (f : Hart → M Hart) (h : Hart) (hf : f s.hart = .ok h) : plainH s f = .next (s.goesOn h 4) :=
  plain_ok s { s with hart := h } _ (congrArg (Except.map fun h => { s with hart := h }) hf)

/-! ### Table 4-1 -/

section
variable (x y : Word)

/-- A shift amount is the low six bits of its register. -/
theorem shiftAmount_toNat : (y &&& 63#64).toNat = y.toNat % 64 := by
  rw [BitVec.toNat_and]
  exact Nat.and_two_pow_sub_one_eq_mod y.toNat 6

theorem aluSll_eq : aluSll x y = x <<< (y &&& 63#64) := by
  rw [BitVec.shiftLeft_eq', shiftAmount_toNat]
  rfl

theorem aluSrl_eq : aluSrl x y = x >>> (y &&& 63#64) := by
  rw [BitVec.ushiftRight_eq', shiftAmount_toNat]
  rfl

theorem aluSra_eq : aluSra x y = x.sshiftRight' (y &&& 63#64) := by
  rw [BitVec.sshiftRight_eq', shiftAmount_toNat]
  rfl

theorem aluSeq_eq : aluSeq x y = if x = y then 1#64 else 0#64 := by
  simp [aluSeq, ofBool]

theorem aluMin_eq : aluMin x y = if x.slt y then x else y := by
  simp [aluMin, BitVec.slt]

theorem aluMax_eq : aluMax x y = if x.slt y then y else x := by
  simp [aluMax, BitVec.slt]

theorem aluMinu_eq : aluMinu x y = if x.ult y then x else y := by
  simp [aluMinu, BitVec.ult]

theorem aluMaxu_eq : aluMaxu x y = if x.ult y then y else x := by
  simp [aluMaxu, BitVec.ult]

/-- The quotient of the least integer by -1 wraps (02 R42). -/
theorem aluDiv_eq : aluDiv x y = if y = 0#64 then BitVec.allOnes 64 else x.sdiv y := by
  have h : ofInt64 (truncDiv x.toInt y.toInt) = x.sdiv y := by
    apply BitVec.eq_of_toInt_eq
    rw [BitVec.toInt_sdiv, ofInt64, truncDiv, BitVec.toInt_ofInt]
  unfold aluDiv
  rw [h]
  rfl

theorem aluRem_eq : aluRem x y = if y = 0#64 then x else x.srem y := by
  have h : ofInt64 (truncMod x.toInt y.toInt) = x.srem y := by
    unfold ofInt64 truncMod
    rw [← BitVec.toInt_srem, BitVec.ofInt_toInt]
  unfold aluRem
  rw [h]
  rfl

theorem aluDivu_eq : aluDivu x y = if y = 0#64 then BitVec.allOnes 64 else x / y := by
  have h : BitVec.ofNat 64 (x.toNat / y.toNat) = x / y := by
    rw [← BitVec.toNat_udiv, BitVec.ofNat_toNat, BitVec.setWidth_eq]
  unfold aluDivu
  rw [h]
  rfl

theorem aluRemu_eq : aluRemu x y = if y = 0#64 then x else x % y := by
  have h : BitVec.ofNat 64 (x.toNat % y.toNat) = x % y := by
    rw [← BitVec.toNat_umod, BitVec.ofNat_toNat, BitVec.setWidth_eq]
  unfold aluRemu
  rw [h]
  rfl
end

/-! ### Counts of bits -/

theorem lt_two_pow_bitlen (n : Nat) : n < 2 ^ bitlen n := by
  unfold bitlen
  split
  · next h => simp [h]
  · exact Nat.lt_log2_self

theorem bitlen_le_of_lt (n w : Nat) (h : n < 2 ^ w) : bitlen n ≤ w := by
  unfold bitlen
  split
  · exact Nat.zero_le w
  · next hn => exact (Nat.log2_lt hn).2 h

theorem testBit_bitlen_pred (n : Nat) (h : 0 < bitlen n) : n.testBit (bitlen n - 1) = true := by
  unfold bitlen at h ⊢
  split
  · next hn => simp [hn] at h
  · next hn => exact Nat.testBit_log2 hn

/-- The count of leading zeros stands above the highest bit that is 1 (04 Table 4-1). -/
theorem leadingZeros (x : Word) :
    ∃ n, aluClz x = BitVec.ofNat 64 n ∧ n ≤ 64 ∧ (∀ i, 64 - n ≤ i → x.getLsbD i = false)
      ∧ (n < 64 → x.getLsbD (63 - n) = true) := by
  have hle : bitlen x.toNat ≤ 64 := bitlen_le_of_lt _ _ x.isLt
  refine ⟨64 - bitlen x.toNat, rfl, Nat.sub_le _ _, fun i hi => ?_, fun hn => ?_⟩
  · exact Nat.testBit_lt_two_pow ((lt_two_pow_bitlen _).trans_le (Nat.pow_le_pow_right (by decide) (by omega)))
  · rw [show 63 - (64 - bitlen x.toNat) = bitlen x.toNat - 1 by omega]
    exact testBit_bitlen_pred _ (by omega)

theorem ctzN_le (w x : Nat) : ctzN w x ≤ w := by
  induction w generalizing x with
  | zero => exact le_refl 0
  | succ w ih =>
    have := ih (x / 2)
    unfold ctzN
    split <;> omega

theorem testBit_of_lt_ctzN (w x i : Nat) (h : i < ctzN w x) : x.testBit i = false := by
  induction w generalizing x i with
  | zero => exact absurd h (Nat.not_lt_zero i)
  | succ w ih =>
    unfold ctzN at h
    split at h
    · exact absurd h (Nat.not_lt_zero i)
    · next hx =>
      cases i with
      | zero => simpa [Nat.testBit_zero] using hx
      | succ i =>
        rw [Nat.testBit_succ]
        exact ih (x / 2) i (by omega)

theorem testBit_ctzN (w x : Nat) (h : ctzN w x < w) : x.testBit (ctzN w x) = true := by
  induction w generalizing x with
  | zero => exact absurd h (Nat.not_lt_zero _)
  | succ w ih =>
    unfold ctzN at h ⊢
    split
    · next hx => simpa [Nat.testBit_zero] using hx
    · next hx =>
      rw [if_neg hx] at h
      rw [Nat.add_comm, Nat.testBit_succ]
      exact ih (x / 2) (by omega)

/-- The count of trailing zeros stands at the lowest bit that is 1 (04 Table 4-1). -/
theorem trailingZeros (x : Word) :
    ∃ n, aluCtz x = BitVec.ofNat 64 n ∧ n ≤ 64 ∧ (∀ i, i < n → x.getLsbD i = false) ∧ (n < 64 → x.getLsbD n = true) :=
  ⟨ctzN 64 x.toNat, rfl, ctzN_le _ _, fun i hi => testBit_of_lt_ctzN _ _ i hi, fun hn => testBit_ctzN _ _ hn⟩

theorem popcount_eq_countP (w x : Nat) : popcount w x = (List.range w).countP fun i => x.testBit i := by
  induction w generalizing x with
  | zero => rfl
  | succ w ih =>
    have hlow : x % 2 = if x.testBit 0 = true then 1 else 0 := by
      rw [Nat.testBit_zero]
      have : x % 2 = 0 ∨ x % 2 = 1 := Nat.mod_two_eq_zero_or_one x
      rcases this with h | h <;> simp [h]
    have hhigh : ((fun i => x.testBit i) ∘ Nat.succ) = fun i => (x / 2).testBit i := funext fun i => Nat.testBit_succ x i
    rw [popcount, ih, hlow, List.range_succ_eq_map, List.countP_cons, List.countP_map, hhigh, Nat.add_comm]

theorem aluPopc_eq (x : Word) : aluPopc x = BitVec.ofNat 64 ((List.range 64).countP fun i => x.getLsbD i) :=
  congrArg (BitVec.ofNat 64) (popcount_eq_countP 64 x.toNat)

/-- Settles O11: each row of Table 4-1 by the result it names. -/
theorem scalarAluCompletes : Obligations.ScalarAluCompletes := by
  unfold Obligations.ScalarAluCompletes
  intro d a b s x y one two
  have counts (p : Nat → Prop) (i : Instr) (w : Word) (hi : exec i s = one w) (hw : ∃ n, w = BitVec.ofNat 64 n ∧ p n) :
      ∃ n, exec i s = one (BitVec.ofNat 64 n) ∧ p n := by
    obtain ⟨n, rfl, hp⟩ := hw
    exact ⟨n, hi, hp⟩
  exact ⟨exec_add .., exec_sub .., exec_and .., exec_or .., exec_xor ..,
    (exec_sll ..).trans (congrArg two (aluSll_eq x y)), (exec_srl ..).trans (congrArg two (aluSrl_eq x y)),
    (exec_sra ..).trans (congrArg two (aluSra_eq x y)), exec_slt .., exec_sltu .., (exec_seq ..).trans (congrArg two (aluSeq_eq x y)),
    (exec_min ..).trans (congrArg two (aluMin_eq x y)), (exec_max ..).trans (congrArg two (aluMax_eq x y)),
    (exec_minu ..).trans (congrArg two (aluMinu_eq x y)), (exec_maxu ..).trans (congrArg two (aluMaxu_eq x y)),
    exec_mul .., exec_mulh .., exec_mulhu .., exec_mulhsu ..,
    (exec_div ..).trans (congrArg two (aluDiv_eq x y)), (exec_divu ..).trans (congrArg two (aluDivu_eq x y)),
    (exec_rem ..).trans (congrArg two (aluRem_eq x y)), (exec_remu ..).trans (congrArg two (aluRemu_eq x y)),
    counts _ _ _ (exec_clz ..) (leadingZeros x), counts _ _ _ (exec_ctz ..) (trailingZeros x),
    (exec_popc ..).trans (congrArg one (aluPopc_eq x))⟩

/-! ### Table 4-2 -/

/-- A shift by n places multiplies by 2^n: the immediate of `lui`, the word offset of a branch. -/
theorem shiftLeft_eq_mul (v : Word) (n : Nat) : v <<< n = v * BitVec.ofNat 64 (2 ^ n) := by
  apply BitVec.eq_of_toNat_eq
  simp [Nat.shiftLeft_eq]

/-- Settles O12: each row of Table 4-2 by its result. -/
theorem scalarImmediateCompletes : Obligations.ScalarImmediateCompletes := by
  unfold Obligations.ScalarImmediateCompletes
  intro d a imm sh s x one
  refine ⟨exec_addi .., exec_andi .., exec_ori .., exec_slli .., exec_srli .., exec_srai .., (exec_lui ..).trans ?_⟩
  exact congrArg (fun v => Host.Outcome.next (s.goesOn (s.hart.setS d v false) 4)) (shiftLeft_eq_mul (imm.signExtend 64) 16)

end Sys2Proof.Machine
end

section
/-! Branches and jumps (04 R108-R111, 03 R79). -/
namespace Sys2Proof.Machine

theorem plainH_error (s : State) (f : Hart → M Hart) (x : Exc) (hf : f s.hart = .error x) : plainH s f = s.take x :=
  plain_error _ x (congrArg (Except.map fun h => { s with hart := h }) hf)

theorem jumpH_ok (s : State) (f : Hart → M Hart) (h : Hart) (hf : f s.hart = .ok h) : jumpH s f = .next (s.jumps h h.pc) := by
  unfold jumpH
  rw [hf]
  rfl

/-- A control transfer to pc that leaves h else. -/
theorem jumpH_to (s : State) (f : Hart → M Hart) (h : Hart) (pc : Word) (hf : f s.hart = .ok { h with pc := pc }) :
    jumpH s f = .next (s.jumps h pc) := jumpH_ok s f _ hf

theorem jumpH_error (s : State) (f : Hart → M Hart) (x : Exc) (hf : f s.hart = .error x) : jumpH s f = s.take x := by
  unfold jumpH
  rw [hf]

section
variable (h : Hart) (off : BitVec 16)

/-- Branch targets count words (04 R108). -/
theorem Hart.target_eq : h.target off = h.pc + off.signExtend 64 * 4#64 := congrArg (h.pc + ·) (shiftLeft_eq_mul _ 2)

theorem Hart.branch_pc (c : Bool) : (h.branch c off).pc = if c then h.pc + off.signExtend 64 * 4#64 else h.pc + 4#64 := by
  rw [← h.target_eq off]
  rfl

theorem Hart.branch2_clean (a b : SReg) (e : Bool) (hb : (h.bad a || h.bad b) = false) :
    h.branch2 a b e off = .ok (h.branch ((h.s a == h.s b) == e) off) := by
  unfold Hart.branch2
  rw [hb]
  rfl

theorem Hart.branch2_bad (a b : SReg) (e : Bool) (hb : (h.bad a || h.bad b) = true) : h.branch2 a b e off = .error poisonTrap := by
  unfold Hart.branch2
  rw [hb]
  rfl

/-- The bits that a mask branch reads are those that govern an element below VL, at 4 bits one for two elements (01 R19, 04 R110). -/
theorem Hart.any_maskLen (k : MReg) : ((List.range h.maskLen).any fun j => k.bits.getLsbD j) = true ↔ ∃ i, i < h.vl ∧ k.on h.ew i = true := by
  simp only [List.any_eq_true, List.mem_range, Hart.maskLen, MReg.on, maskIx]
  by_cases hw : h.ew = 4
  · simp only [hw, if_true, ceilDiv]
    constructor
    · rintro ⟨j, hj, hk⟩
      exact ⟨2 * j, by omega, by rwa [Nat.mul_div_cancel_left j (by decide)]⟩
    · rintro ⟨i, hi, hk⟩
      exact ⟨i / 2, by omega, hk⟩
  · simp only [hw, if_false]

theorem Hart.branchMask_sound (m : MIdx) (e : Bool) (hm : h.maskSound m) :
    h.branchMask m e off = .ok (h.branch (((List.range h.maskLen).any fun j => (h.regs.getM m).bits.getLsbD j) == e) off) := by
  have hnone : ((List.range h.vl).find? fun i => (h.regs.getM m).isBad h.ew i) = none :=
    List.find?_eq_none.2 fun i hi => by simp [hm i (List.mem_range.1 hi)]
  unfold Hart.branchMask
  simp only [hnone]

theorem Hart.branchMask_bad (m : MIdx) (e : Bool) (i : Nat) (hi : i < h.vl) (hb : (h.regs.getM m).isBad h.ew i = true)
    (hmin : ∀ j, j < i → (h.regs.getM m).isBad h.ew j = false) : h.branchMask m e off = .error (poisonTrap i) := by
  unfold Hart.branchMask
  simp only [range_find?_first _ _ i hi hb hmin]

section
variable (b : SReg) (link : Bool)

theorem Hart.jumpReg_bad (hb : h.bad b = true) : h.jumpReg b off link = .error poisonTrap := by
  unfold Hart.jumpReg
  rw [h.clean_bad b hb]

theorem Hart.jumpReg_misaligned (hb : h.bad b = false) (ht : (h.s b + off.signExtend 64 * 4#64).toNat % 4 ≠ 0) :
    h.jumpReg b off link = .error (.trap causeMisaligned 0 none) := by
  unfold Hart.jumpReg
  rw [h.clean_ok b hb, shiftLeft_eq_mul]
  exact if_pos ht

theorem Hart.jumpReg_ok (hb : h.bad b = false) (ht : (h.s b + off.signExtend 64 * 4#64).toNat % 4 = 0) :
    h.jumpReg b off link
      = .ok { (if link then h.setS 31 (h.pc + 4) false else h) with pc := h.s b + off.signExtend 64 * 4#64 } := by
  unfold Hart.jumpReg
  rw [h.clean_ok b hb, shiftLeft_eq_mul]
  exact if_neg (not_not.2 ht)
end
end

/-- A branch whose condition is c (04 R108). -/
theorem jumpH_branch (s : State) (f : Hart → M Hart) (off : BitVec 16) (c : Bool) (hf : f s.hart = .ok (s.hart.branch c off)) :
    jumpH s f = .next (s.jumps s.hart (if c then s.hart.pc + off.signExtend 64 * 4#64 else s.hart.pc + 4#64)) := by
  rw [jumpH_ok s f _ hf, Hart.branch_pc]
  rfl

theorem exec_jal_jumps (far : BitVec 26) (s : State) :
    exec (.jal far) s = .next (s.jumps (s.hart.setS 31 (s.hart.pc + 4#64) false) (s.hart.pc + far.signExtend 64 * 4#64)) := by
  rw [exec_jal, show far.signExtend 64 * 4#64 = far.signExtend 64 <<< 2 from (shiftLeft_eq_mul _ 2).symm]
  exact jumpH_to s _ (s.hart.setS 31 (s.hart.pc + 4#64) false) _ rfl

/-- Settles O13: a branch by its condition, a jump by its target. -/
theorem branchesComplete : Obligations.BranchesComplete := by
  unfold Obligations.BranchesComplete
  intro a b m off far s h target next reg any
  refine ⟨fun hb => ?_, fun hm => ?_, ?_, fun hb ht => ?_, exec_hint_goesOn s⟩
  · have branch (e : Bool) := jumpH_branch s (fun h => h.branch2 a b e off) off _ (h.branch2_clean off a b e hb)
    refine ⟨(exec_beq a b off s).trans ((branch true).trans ?_), (exec_bne a b off s).trans ((branch false).trans ?_)⟩
    all_goals by_cases he : h.s a = h.s b
    all_goals simp [he, h, target, next]
  · have branch (e : Bool) := jumpH_branch s (fun h => h.branchMask m e off) off _ (h.branchMask_sound off m e hm)
    constructor
    · intro ha
      rw [(h.any_maskLen _).2 ha] at branch
      exact ⟨(exec_bmany m off s).trans (branch true), (exec_bmnone m off s).trans (branch false)⟩
    · intro ha
      rw [Bool.eq_false_iff.2 (mt (h.any_maskLen _).1 ha)] at branch
      exact ⟨(exec_bmany m off s).trans (branch true), (exec_bmnone m off s).trans (branch false)⟩
  · exact exec_jal_jumps far s
  · have jump (link : Bool) := jumpH_to s (fun h => h.jumpReg b off link) _ reg (h.jumpReg_ok off b link hb ht)
    exact ⟨(exec_jalr b off s).trans (jump true), (exec_jr b off s).trans (jump false)⟩

end Sys2Proof.Machine
end

section
/-! Scalar floating point and its flags (04 R106, R107, 01 R25): every operation ends in one write of a result with its flags. -/
namespace Sys2Proof.Machine

theorem Hart.raise_masked (h : Hart) (f : FlagSet) (n : Nat) (hm : h.flagsMasked) : h.raise f n = .ok (h.orFlags f) :=
  if_pos (enabled_masked h f hm)

theorem Hart.raise_enabled (h : Hart) (f : FlagSet) (n : Nat) (hf : h.enabled f ≠ 0#16) :
    h.raise f n = .error (.trap (flagCause (h.enabled f)) n none) := if_neg hf

/-- An enabled flag among bits [5:0] traps with the floating-point cause (01 R25). -/
theorem Hart.raise_fp (h : Hart) (f : FlagSet) (n : Nat) (hf : f &&& h.regs.h.fenable &&& 0x003F#16 ≠ 0#16) :
    h.raise f n = .error (.trap causeFp n none) := by
  have hlow : h.enabled f &&& 0x003F#16 ≠ 0#16 := by
    unfold Hart.enabled
    rwa [BitVec.and_assoc, show 0x00FF#16 &&& 0x003F#16 = 0x003F#16 from rfl]
  have hany : h.enabled f ≠ 0#16 := fun e => hlow (by rw [e]; rfl)
  rw [h.raise_enabled f n hany, show flagCause (h.enabled f) = causeFp from if_neg hlow]

/-- A modulus that is not allowed traps where its flag is enabled (01 R24, R25). -/
theorem Hart.raise_mrange (h : Hart) (n : Nat) (hf : h.regs.h.fenable &&& 0x0080#16 ≠ 0#16) :
    h.raise flMrange n = .error (.trap causeMod n none) := by
  have he : h.enabled flMrange = h.regs.h.fenable &&& 0x0080#16 := by
    unfold Hart.enabled
    rw [BitVec.and_comm flMrange, BitVec.and_assoc]
    rfl
  have hlow : h.regs.h.fenable &&& 0x0080#16 &&& 0x003F#16 = 0#16 := by
    rw [BitVec.and_assoc]
    exact BitVec.and_zero
  rw [h.raise_enabled flMrange n (he ▸ hf), he, show flagCause (h.regs.h.fenable &&& 0x0080#16) = causeMod from if_pos hlow]

section
variable {s : State} {o : Out} {f : Hart → M Hart} {h : Hart} {d : SReg} {r : Nat × FlagSet} {p : Bool}

/-- With no flag enabled, an operation that ends in fpOut writes its result and its flags. -/
theorem fpOut_completes (e : o = plainH s f) (hf : f s.hart = h.fpOut d r p) (hm : h.flagsMasked) :
    o = .next (s.goesOn ((h.orFlags r.2).setS d (BitVec.ofNat 64 r.1) p) 4) := by
  rw [e]
  refine plainH_ok s f _ (hf.trans ?_)
  unfold Hart.fpOut
  rw [h.raise_masked r.2 0 hm]
  rfl

/-- An operation that ends in fpOut traps on an enabled floating-point flag. -/
theorem fpOut_traps (e : o = plainH s f) (hf : f s.hart = h.fpOut d r p) (ht : r.2 &&& h.regs.h.fenable &&& 0x003F#16 ≠ 0#16) :
    o = s.take (.trap 0x0B 0 none) := by
  rw [e]
  refine plainH_error s f _ (hf.trans ?_)
  unfold Hart.fpOut
  rw [h.raise_fp r.2 0 ht]
  rfl
end

/-! ### Signs -/

theorem sfmtWidth_eq (k : SFmt) : k.width = k.fp.sb + 1 := by cases k <;> rfl

/-- Adding the sign bit modulo the width flips it. -/
theorem add_signBit_mod (x n : Nat) (hx : x < 2 ^ (n + 1)) : (x + 2 ^ n) % 2 ^ (n + 1) = x ^^^ 2 ^ n := by
  apply Nat.eq_of_testBit_eq
  intro i
  rw [Nat.testBit_mod_two_pow, Nat.testBit_xor, Nat.testBit_two_pow]
  rcases lt_trichotomy i n with hi | rfl | hi
  · rw [Nat.add_comm x, Nat.testBit_two_pow_add_gt hi]
    simp [Nat.lt_succ_of_lt hi, hi.ne']
  · rw [Nat.add_comm x, Nat.testBit_two_pow_add_eq]
    simp
  · have : x.testBit i = false := Nat.testBit_lt_two_pow (hx.trans_le (Nat.pow_le_pow_right (by decide) hi))
    simp [this, hi.ne, Nat.not_lt.2 hi]

theorem div_signBit_mod (y n : Nat) (hy : y < 2 ^ (n + 1)) : y / 2 ^ n % 2 = y / 2 ^ n := by
  apply Nat.mod_eq_of_lt
  rw [Nat.div_lt_iff_lt_mul (by positivity)]
  rwa [Nat.pow_succ, Nat.mul_comm] at hy

/-- Settles O17: each operation by the result it writes; the three that act on the sign alone raise no flag. -/
theorem scalarFloatCompletes : Obligations.ScalarFloatCompletes := by
  unfold Obligations.ScalarFloatCompletes
  intro k d a b s hm h w x y out p1 p2 cmp
  have row {i : Instr} {f : Hart → M Hart} {r : Nat × FlagSet} {p : Bool} (e : exec i s = plainH s f)
      (hf : f s.hart = h.fpOut d r p) : exec i s = out r p := fpOut_completes e hf hm
  have hw : w - 1 = k.fp.sb := by simp only [w, sfmtWidth_eq, Nat.add_sub_cancel]
  have hx (r : SReg) : (h.s r).toNat % 2 ^ w < 2 ^ (k.fp.sb + 1) := by
    rw [← sfmtWidth_eq]
    exact Nat.mod_lt _ (by positivity)
  have hneg : (x + 2 ^ k.fp.sb) % 2 ^ (k.fp.sb + 1) = x ^^^ 2 ^ (w - 1) := by
    rw [hw]
    exact add_signBit_mod x _ (hx a)
  have habs : x % 2 ^ k.fp.sb = x % 2 ^ (w - 1) := by rw [hw]
  have hsgnj : x % 2 ^ k.fp.sb + y / 2 ^ k.fp.sb % 2 * 2 ^ k.fp.sb = x % 2 ^ (w - 1) + y / 2 ^ (w - 1) * 2 ^ (w - 1) := by
    rw [hw, div_signBit_mod y _ (hx b)]
  exact ⟨row (exec_fadd ..) rfl, row (exec_fsub ..) rfl, row (exec_fmul ..) rfl, row (exec_fdiv ..) rfl, row (exec_fmadd ..) rfl,
    row (exec_fmin ..) rfl, row (exec_fmax ..) rfl, row (exec_fsqrt ..) rfl,
    row (exec_fneg ..) (congrArg (fun v => h.fpOut d (v, 0) p1) hneg), row (exec_fabs ..) (congrArg (fun v => h.fpOut d (v, 0) p1) habs),
    row (exec_fsgnj ..) (congrArg (fun v => h.fpOut d (v, 0) p2) hsgnj),
    row (exec_feq ..) rfl, row (exec_flt ..) rfl, row (exec_fle ..) rfl⟩

/-! ### Conversions -/

/-- RMODE 4 rounds stochastically (01 Table 1-5). -/
theorem Hart.stochastic_iff (h : Hart) : h.stochastic = true ↔ h.regs.h.rmode = 4#3 := beq_iff_eq

/-- Settles O18: each conversion by the result it writes; the draw leaves FENABLE and the scalars as they are. -/
theorem scalarConversionsComplete : Obligations.ScalarConversionsComplete := by
  unfold Obligations.ScalarConversionsComplete
  intro d a s hm h x r z out
  have row {i : Instr} {f : Hart → M Hart} {r : Nat × FlagSet} (e : exec i s = plainH s f)
      (hf : f s.hart = h.fpOut d r (h.bad a)) : exec i s = out r := fpOut_completes e hf hm
  refine ⟨row (exec_fcvtFp64Fp32 ..) rfl, row (exec_fcvtFp32Fp64 ..) rfl, row (exec_fcvtFp32I64 ..) rfl, row (exec_fcvtFp64I64 ..) rfl,
    row (exec_fcvtFp32Ui64 ..) rfl, row (exec_fcvtFp64Ui64 ..) rfl, row (exec_fcvtI64Fp32 ..) rfl, row (exec_fcvtI64Fp64 ..) rfl,
    row (exec_fcvtUi64Fp32 ..) rfl, row (exec_fcvtUi64Fp64 ..) rfl, row (exec_fcvtFp16Fp32 ..) rfl, row (exec_fcvtFp32Fp16 ..) rfl,
    row (exec_fcvtFp32Bf16 ..) rfl, fun hr => ?_, fun hr => ?_⟩
  · exact row (exec_fcvtBf16Fp32 ..) (if_neg (mt h.stochastic_iff.1 hr))
  · exact fpOut_completes (exec_fcvtBf16Fp32 ..) (if_pos (h.stochastic_iff.2 hr)) hm

end Sys2Proof.Machine
end

section
/-! Scalar loads and stores (04 R102-R105). -/
namespace Sys2Proof.Machine

/-! ### Bytes of an access -/

theorem ofBytes_lt (bs : List Byte) : ofBytes bs < 256 ^ bs.length := by
  induction bs with
  | nil => exact Nat.one_pos
  | cons b bs ih =>
    have := b.isLt
    rw [ofBytes, List.length_cons, pow_succ]
    omega

/-- The first n bytes of a number rest on its low 8 n bits. -/
theorem toBytes_mod (n x : Nat) : toBytes n (x % 2 ^ (8 * n)) = toBytes n x := by
  induction n generalizing x with
  | zero => rfl
  | succ n ih =>
    have hp : 2 ^ (8 * (n + 1)) = 256 * 2 ^ (8 * n) := by
      rw [show 8 * (n + 1) = 8 + 8 * n by omega, pow_add]
      rfl
    have hlow : BitVec.ofNat 8 (x % (256 * 2 ^ (8 * n))) = BitVec.ofNat 8 x := by
      apply BitVec.eq_of_toNat_eq
      exact Nat.mod_mul_right_mod x 256 _
    rw [hp, toBytes, hlow, Nat.mod_mul_right_div_self, ih, toBytes]

theorem length_readPieces (rd : Loc → Byte × Bool) (ps : List Piece) : (readPieces rd ps).length = (ps.map (·.n)).sum := by
  simp [readPieces, List.length_flatMap]

/-- The pieces of an access hold as many bytes as it has. -/
theorem State.pieces_total (s : State) (w : Who) (space : Space) (cls : AccClass) (kind : AccKind) (perm : Perm) (a n : Nat) (ps : List Piece)
    (h : s.pieces w space cls kind perm a n = .ok ps) : (ps.map (·.n)).sum = n := by
  have one {x m : Nat} {p : Piece} (e : (match s.home w space cls kind perm x with
      | .ok l => if cls != AccClass.store && s.farFrom w.phys l m then Except.error (AccErr.far, x) else .ok (Piece.mk l x m)
      | .error e => .error (e, x)) = .ok p) : p.n = m := by
    split at e
    · split at e
      · cases e
      · cases e; rfl
    · cases e
  unfold State.pieces at h
  split at h
  · next hn => cases h; exact hn.symm
  · split at h
    · cases h
    · dsimp only at h
      split at h
      · cases h
      · next p hp =>
        split at h
        · next hn =>
          cases h
          simpa [one hp] using hn
        · split at h
          · cases h
          · next q hq =>
            cases h
            have := one hp
            have := one hq
            simp only [List.map_cons, List.map_nil, List.sum_cons, List.sum_nil]
            omega

/-- The value of a load of n bytes is below 2^(8 n). -/
theorem State.pieces_value_lt (s : State) (w : Who) (space : Space) (cls : AccClass) (kind : AccKind) (perm : Perm) (a n : Nat) (ps : List Piece)
    (h : s.pieces w space cls kind perm a n = .ok ps) (rd : Loc → Byte × Bool) : ofBytes ((readPieces rd ps).map (·.1)) < 2 ^ (8 * n) := by
  have hlt := ofBytes_lt ((readPieces rd ps).map (·.1))
  rwa [List.length_map, length_readPieces, s.pieces_total w space cls kind perm a n ps h, show 256 = 2 ^ 8 from rfl, ← pow_mul] at hlt

/-- Sign extension of a number's low w bits, as a bit vector. -/
theorem ofNat_sext64 (w x : Nat) (hw : 0 < w) : BitVec.ofNat 64 (sext64 w x) = (BitVec.ofNat w x).signExtend 64 := by
  have hs : sgn w x = (BitVec.ofNat w x).toInt := by
    have hp : 2 ^ w = 2 * 2 ^ (w - 1) := by rw [← pow_succ', Nat.sub_add_cancel hw]
    rw [BitVec.toInt_eq_toNat_cond, BitVec.toNat_ofNat]
    unfold sgn
    have hc : x % 2 ^ w < 2 ^ (w - 1) ↔ 2 * (x % 2 ^ w) < 2 ^ w := by omega
    simp [hc]
  unfold sext64
  rw [hs]
  apply BitVec.eq_of_toNat_eq
  rw [BitVec.signExtend, BitVec.toNat_ofInt, BitVec.toNat_ofNat, wrapI]
  have h0 := Int.emod_nonneg (BitVec.ofNat w x).toInt (show (2 ^ 64 : Int) ≠ 0 by decide)
  have h1 := Int.emod_lt_of_pos (BitVec.ofNat w x).toInt (show (0 : Int) < 2 ^ 64 by decide)
  exact Nat.mod_eq_of_lt (by omega)

/-! ### The translation caches -/

/-- An access that warms the caches changes them alone (11 R268, R269). -/
theorem State.warm_frame (s : State) (w : Who) (space : Space) (ps : List Piece) :
    ∃ tlb nonLeaf misses, s.warm w space ps = { s with tlb := tlb, nonLeaf := nonLeaf, misses := misses } := by
  have looks (host : Bool) (root : Nat) (s : State) :
      ∃ tlb nonLeaf misses, ps.foldl (fun s p => s.look w.phys w.ctx host root p.va) s
        = { s with tlb := tlb, nonLeaf := nonLeaf, misses := misses } := by
    induction ps generalizing s with
    | nil => exact ⟨_, _, _, rfl⟩
    | cons p ps ih =>
      obtain ⟨_, _, _, e⟩ := s.look_frame w.phys w.ctx host root p.va
      obtain ⟨_, _, _, e'⟩ := ih (s.look w.phys w.ctx host root p.va)
      rw [List.foldl_cons, e', e]
      exact ⟨_, _, _, rfl⟩
  cases space with
  | loc => exact ⟨_, _, _, rfl⟩
  | peer => exact ⟨_, _, _, rfl⟩
  | glb => exact looks false w.root s
  | host => exact looks true w.hroot s

@[simp] theorem State.warm_hart (s : State) (w : Who) (space : Space) (ps : List Piece) : (s.warm w space ps).hart = s.hart := by
  obtain ⟨_, _, _, e⟩ := s.warm_frame w space ps
  rw [e]

@[simp] theorem State.warm_draw (s : State) (w : Who) (space : Space) (ps : List Piece) : (s.warm w space ps).draw = s.draw := by
  obtain ⟨_, _, _, e⟩ := s.warm_frame w space ps
  rw [e]

/-! ### Loads -/

section
variable (s : State) (space : Space) (a n elem : Nat) (kind : AccKind) (ps : List Piece)

section
variable (hp : s.pieces s.hart.who space .load kind permR a n = .ok ps)
include hp

theorem State.loadVal_clean (hb : (readPieces (s.ownByte s.hart) ps).any (·.2) = false) :
    s.loadVal space a n elem kind
      = .ok (s.warm s.hart.who space ps, ⟨ofBytes ((readPieces (s.ownByte s.hart) ps).map (·.1)), false⟩) := by
  unfold State.loadVal
  simp only [hp, hb, Bool.false_eq_true, if_false]
  rfl

theorem State.loadVal_poisoned (hb : (readPieces (s.ownByte s.hart) ps).any (·.2) = true) :
    ∃ v, s.loadVal space a n elem kind = .ok ({ s.warm s.hart.who space ps with draw := s.draw + 1 }, ⟨v, true⟩) := by
  unfold State.loadVal
  simp only [hp, hb, if_true, State.warm_draw]
  exact ⟨_, rfl⟩
end

section
variable (hp : s.pieces s.hart.who space .store kind permW a n = .ok ps) (v : Nat)
include hp

theorem State.storeUnits_clean :
    s.storeUnits space a n elem kind ⟨v, false⟩ = .ok (s.warm s.hart.who space ps, cutUnits false (space == .glb) ps (toBytes n v)) := by
  unfold State.storeUnits
  simp only [hp]
  rfl

theorem State.storeUnits_poisoned :
    ∃ bs : List Byte, bs.length = n ∧ s.storeUnits space a n elem kind ⟨v, true⟩
      = .ok ({ s.warm s.hart.who space ps with draw := s.draw + 1 }, cutUnits true (space == .glb) ps bs) := by
  refine ⟨(List.range n).map (Config.poisonByte s.draw), by simp, ?_⟩
  unfold State.storeUnits State.storeBytes
  simp only [hp, if_true, State.warm_draw]
end
end

section
variable (g : Bool) (n : Nat) (d a : SReg) (off : BitVec 13) (s : State)

theorem scalarSpace_glb : (scalarSpace g == .glb) = g := by cases g <;> rfl

section
variable (signed : Bool)

theorem scalarLoad_bad (hb : s.hart.bad a = true) : scalarLoad g n signed d a off s = .error poisonTrap := by
  unfold scalarLoad
  rw [s.hart.clean_bad a hb]

/-- A load whose data does not return later writes its register from what it has read. -/
theorem scalarLoad_goesOn (t : State) (x : Elt) (hb : s.hart.bad a = false) (hl : (g && s.hart.lateGlb) = false)
    (hx : s.loadVal (scalarSpace g) (s.hart.scalarEa a off) n 0 .load = .ok (t, x)) (ht : t.hart = s.hart) :
    plain s (scalarLoad g n signed d a off)
      = .next (t.goesOn (s.hart.setS d (BitVec.ofNat 64 (if signed then sext64 (8 * n) x.val else x.val)) x.bad) 4) := by
  refine plain_ok s { t with hart := s.hart.setS d _ x.bad } _ ?_
  unfold scalarLoad
  simp only [s.hart.clean_ok a hb, hl, hx, ht, Bool.false_eq_true, if_false]
end

theorem scalarStore_bad (hb : s.hart.bad a = true) : scalarStore g n d a off s = .error poisonTrap := by
  unfold scalarStore
  rw [s.hart.clean_bad a hb]

/-- The capacity comes before the address (01 R28, log 69). -/
theorem scalarStore_capacity (hb : s.hart.bad a = false) (hc : s.hart.capacity < s.hart.charge + 8) :
    scalarStore g n d a off s = .error (.trap causeCapacity 0 none) := by
  unfold scalarStore
  simp only [s.hart.clean_ok a hb, hc, if_true]

/-- A store within the capacity enters the buffer with the units that it has formed. -/
theorem scalarStore_goesOn (t : State) (us : List StoreUnit) (p : Bool) (hd : s.hart.bad d = p) (hb : s.hart.bad a = false)
    (hc : s.hart.charge + 8 ≤ s.hart.capacity)
    (hx : s.storeUnits (scalarSpace g) (s.hart.scalarEa a off) n 0 .store ⟨(s.hart.s d).toNat % 2 ^ (8 * n), p⟩ = .ok (t, us))
    (ht : t.hart = s.hart) :
    plain s (scalarStore g n d a off)
      = .next (t.goesOn { s.hart with charge := s.hart.charge + 8, buf := s.hart.buf ++ [.store us] } 4) := by
  refine plain_ok s { t with hart := { s.hart with charge := s.hart.charge + 8, buf := s.hart.buf ++ [.store us] } } _ ?_
  have hc' : ¬ s.hart.capacity < s.hart.charge + 8 := Nat.not_lt.2 hc
  unfold scalarStore Hart.push
  simp only [s.hart.clean_ok a hb, hc', hd, hx, ht, if_false]
  rfl
end

/-- Settles O15: a load by what its bytes give; a value is below 2^(8 n), so that zero extension leaves it. -/
theorem scalarLoadsComplete : Obligations.ScalarLoadsComplete := by
  unfold Obligations.ScalarLoadsComplete
  intro g d a off s h ea loads sx zx
  have row {i : Instr} {n : Nat} {signed : Bool} {ext : Nat → Word} (e : exec i s = plain s (scalarLoad g n signed d a off))
      (hext : ∀ x, x < 2 ^ (8 * n) → BitVec.ofNat 64 (if signed then sext64 (8 * n) x else x) = ext x) : loads i n ext := by
    intro ps hb hl hp bs t
    refine ⟨fun hc => ?_, fun hc => ?_⟩
    · have hx := s.loadVal_clean (scalarSpace g) ea n 0 .load ps hp hc
      rw [e, scalarLoad_goesOn g n d a off s signed _ _ hb hl hx (State.warm_hart ..), hext _ (s.pieces_value_lt _ _ _ _ _ _ _ ps hp _)]
      rfl
    · obtain ⟨v, hx⟩ := s.loadVal_poisoned (scalarSpace g) ea n 0 .load ps hp hc
      exact ⟨_, e.trans (scalarLoad_goesOn g n d a off s signed _ _ hb hl hx (State.warm_hart ..))⟩
  have signed (n : Nat) (hn : 0 < n) (x : Nat) (_ : x < 2 ^ (8 * n)) : BitVec.ofNat 64 (sext64 (8 * n) x) = sx (8 * n) x :=
    ofNat_sext64 _ x (by omega)
  have unsigned (n : Nat) (x : Nat) (hx : x < 2 ^ (8 * n)) : BitVec.ofNat 64 x = zx (8 * n) x := by
    apply BitVec.eq_of_toNat_eq
    simp [zx, Nat.mod_eq_of_lt hx]
  exact ⟨row (exec_ldb ..) (signed 1 (by decide)), row (exec_ldh ..) (signed 2 (by decide)), row (exec_ldw ..) (signed 4 (by decide)),
    row (exec_ldd ..) (unsigned 8), row (exec_ldbu ..) (unsigned 1), row (exec_ldhu ..) (unsigned 2), row (exec_ldwu ..) (unsigned 4)⟩

/-- Settles O16: a store by the poison of its data; its units stand in the buffer, and the caches are all that the state shows of it. -/
theorem scalarStoresComplete : Obligations.ScalarStoresComplete := by
  unfold Obligations.ScalarStoresComplete
  intro g d a off s h ea stores
  have row {i : Instr} {n : Nat} (e : exec i s = plain s (scalarStore g n d a off)) : stores i n := by
    intro ps hb hc hp t
    refine ⟨fun hd => ?_, fun hd => ?_⟩
    · have hx := s.storeUnits_clean (scalarSpace g) ea n 0 .store ps hp ((h.s d).toNat % 2 ^ (8 * n))
      rw [toBytes_mod, scalarSpace_glb] at hx
      exact e.trans (scalarStore_goesOn g n d a off s _ _ _ hd hb hc hx (State.warm_hart ..))
    · obtain ⟨bs, hn, hx⟩ := s.storeUnits_poisoned (scalarSpace g) ea n 0 .store ps hp ((h.s d).toNat % 2 ^ (8 * n))
      rw [scalarSpace_glb] at hx
      exact ⟨bs, hn, e.trans (scalarStore_goesOn g n d a off s _ _ _ hd hb hc hx (State.warm_hart ..))⟩
  exact ⟨row (exec_stb ..), row (exec_sth ..), row (exec_stw ..), row (exec_std ..)⟩

end Sys2Proof.Machine
end

section
/-! The traps of scalar instructions (04 R99, R109, R111, 01 R25, R28). -/
namespace Sys2Proof.Machine

theorem exec_load_bad {i : Instr} {s : State} {g signed : Bool} {n : Nat} {d a : SReg} {off : BitVec 13}
    (e : exec i s = plain s (scalarLoad g n signed d a off)) (hb : s.hart.bad a = true) : exec i s = s.take (.trap 0x0E 0 none) :=
  e.trans (plain_error _ _ (scalarLoad_bad g n d a off s signed hb))

section
variable {i : Instr} {s : State} {g : Bool} {n : Nat} {d a : SReg} {off : BitVec 13} (e : exec i s = plain s (scalarStore g n d a off))
include e

theorem exec_store_bad (hb : s.hart.bad a = true) : exec i s = s.take (.trap 0x0E 0 none) :=
  e.trans (plain_error _ _ (scalarStore_bad g n d a off s hb))

theorem exec_store_capacity (hb : s.hart.bad a = false) (hc : s.hart.capacity < s.hart.charge + 8) :
    exec i s = s.take (.trap 0x09 0 none) :=
  e.trans (plain_error _ _ (scalarStore_capacity g n d a off s hb hc))
end

/-- A modulus that is not allowed traps where mrange is enabled (01 R24, R25). -/
theorem hcrw_mrange (a : SReg) (s : State) (n : BitVec 16) (hn : n = 0x006#16 ∨ n = 0x007#16) (hb : s.hart.bad a = false)
    (hv : modValid (s.hart.s a) = false) (hf : s.hart.regs.h.fenable &&& 0x0080#16 ≠ 0#16) :
    exec (.hcrw a n) s = s.take (.trap 0x0C 0 none) := by
  have ht : teamHcr n.toNat := by rcases hn with rfl | rfl <;> exact .inl (by decide)
  have hw : s.hart.regs.h.write n.toNat (s.hart.s a) = (s.hart.regs.h, flMrange) := by
    rcases hn with rfl | rfl <;> exact if_neg (by simp [hv])
  obtain ⟨v, hl⟩ := hcrValue_of_team s _ ht
  rw [exec_hcrw]
  refine plain_error _ _ ?_
  simp only [hcrPrivileged_of_team _ ht, hl, s.hart.clean_ok a hb, hw, Bool.false_eq_true, if_false]
  exact congrArg (Except.map _) (Hart.raise_mrange { s.hart with hcr := s.hart.hcr.write n.toNat (s.hart.s a) } 0 hf)

/-- Settles O14: each trap is the check that its instruction makes before any effect. -/
theorem scalarTraps : Obligations.ScalarTraps := by
  unfold Obligations.ScalarTraps
  refine ⟨?_, ?_, ?_⟩
  · intro a b m off i s h
    refine ⟨fun hb => ?_, fun hb => ?_, fun hb ht => ?_, fun hi hb hmin => ?_⟩
    · have trap (e : Bool) := jumpH_error s (fun h => h.branch2 a b e off) _ (h.branch2_bad off a b e hb)
      exact ⟨(exec_beq ..).trans (trap true), (exec_bne ..).trans (trap false)⟩
    · have trap (link : Bool) := jumpH_error s (fun h => h.jumpReg b off link) _ (h.jumpReg_bad off b link hb)
      exact ⟨(exec_jalr ..).trans (trap true), (exec_jr ..).trans (trap false)⟩
    · have trap (link : Bool) := jumpH_error s (fun h => h.jumpReg b off link) _ (h.jumpReg_misaligned off b link hb ht)
      exact ⟨(exec_jalr ..).trans (trap true), (exec_jr ..).trans (trap false)⟩
    · have trap (e : Bool) := jumpH_error s (fun h => h.branchMask m e off) _ (h.branchMask_bad off m e i hi hb hmin)
      exact ⟨(exec_bmany ..).trans (trap true), (exec_bmnone ..).trans (trap false)⟩
  · intro g d a off s
    refine ⟨fun hb => ?_, fun hb hc => ?_⟩
    · simp only [List.forall_mem_cons]
      exact ⟨exec_load_bad (exec_ldb ..) hb, exec_load_bad (exec_ldh ..) hb, exec_load_bad (exec_ldw ..) hb,
        exec_load_bad (exec_ldd ..) hb, exec_load_bad (exec_ldbu ..) hb, exec_load_bad (exec_ldhu ..) hb,
        exec_load_bad (exec_ldwu ..) hb, exec_store_bad (exec_stb ..) hb, exec_store_bad (exec_sth ..) hb,
        exec_store_bad (exec_stw ..) hb, exec_store_bad (exec_std ..) hb, List.forall_mem_nil _⟩
    · exact ⟨exec_store_capacity (exec_std ..) hb hc, exec_store_capacity (exec_stb ..) hb hc,
        exec_store_capacity (exec_sth ..) hb hc, exec_store_capacity (exec_stw ..) hb hc⟩
  · intro k d a b s h x y u r z traps
    have row {i : Instr} {f : Hart → M Hart} {r : Nat × FlagSet} {p : Bool} (e : exec i s = plainH s f)
        (hf : f s.hart = h.fpOut d r p) : traps i r.2 := fun ht => fpOut_traps e hf ht
    have bf16 : traps (.fcvtBf16Fp32 d a)
        (cvtFF fpFP32 fpBF16 (if h.regs.h.rmode = 4#3 then .sto (srand h.regs.h.seed).2 else r) z z (u 32)).2 := by
      by_cases hr : h.regs.h.rmode = 4#3
      · rw [if_pos hr]
        exact fun ht => fpOut_traps (h := h.draw.1) (exec_fcvtBf16Fp32 ..) (if_pos (h.stochastic_iff.2 hr)) ht
      · rw [if_neg hr]
        exact row (exec_fcvtBf16Fp32 ..) (if_neg (mt h.stochastic_iff.1 hr))
    clear_value traps
    exact ⟨row (exec_fadd ..) rfl, row (exec_fsub ..) rfl, row (exec_fmul ..) rfl, row (exec_fdiv ..) rfl, row (exec_fmadd ..) rfl,
      row (exec_fmin ..) rfl, row (exec_fmax ..) rfl, row (exec_fsqrt ..) rfl,
      row (exec_feq ..) rfl, row (exec_flt ..) rfl, row (exec_fle ..) rfl,
      row (exec_fcvtFp64Fp32 ..) rfl, row (exec_fcvtFp32Fp64 ..) rfl, row (exec_fcvtFp32I64 ..) rfl, row (exec_fcvtFp64I64 ..) rfl,
      row (exec_fcvtFp32Ui64 ..) rfl, row (exec_fcvtFp64Ui64 ..) rfl, row (exec_fcvtI64Fp32 ..) rfl, row (exec_fcvtI64Fp64 ..) rfl,
      row (exec_fcvtUi64Fp32 ..) rfl, row (exec_fcvtUi64Fp64 ..) rfl, row (exec_fcvtFp16Fp32 ..) rfl, row (exec_fcvtFp32Fp16 ..) rfl,
      row (exec_fcvtFp32Bf16 ..) rfl, bf16,
      fun hb hv hf => ⟨hcrw_mrange a s _ (.inl rfl) hb hv hf, hcrw_mrange a s _ (.inr rfl) hb hv hf⟩⟩

end Sys2Proof.Machine
end

section
/-! Opening a strip: `setvl`, `strip` and their ordered forms (05 R116-R118). -/
namespace Sys2Proof.Machine

section
variable {s t : State} {pre : Hart → M Unit} {f : State → M State}

/-- A closing instruction whose check passes acts on the state that the commit leaves (01 R29). -/
theorem closing_ok (hc : s.closesTo t) (hp : pre s.hart = .ok ()) (u : State) (hf : f t = .ok u) : closing s pre f = .next u := by
  unfold closing
  simp only [hp, closeThen_closesTo s t _ hc, hf]

/-- A closing instruction whose check fails takes its exception before the commit. -/
theorem closing_error (x : Exc) (hp : pre s.hart = .error x) : closing s pre f = s.take x := by
  unfold closing
  rw [hp]
end

/-- 05 R117: what a strip-opening instruction writes to its register is VL. -/
theorem Hart.stripVl_eq (h : Hart) (d : SReg) :
    h.stripVl d = (h.setS d (h.regs.h.vl.zeroExtend 64) false).advance 4 := by
  have e : BitVec.ofNat 64 h.vl = h.regs.h.vl.zeroExtend 64 := BitVec.eq_of_toNat_eq (by simp [Hart.vl])
  unfold Hart.stripVl
  rw [e]

/-- Settles O25: each form closes the strip and writes its hart; a poisoned s_a fails the check that comes before the commit. -/
theorem stripOpeningCompletes : Obligations.StripOpeningCompletes := by
  unfold Obligations.StripOpeningCompletes
  intro d a w sc s
  have strip (f : State → M State) {t : State} (hc : s.closesTo t) (u : State) (hf : f t = .ok { u with hart := u.hart.stripVl d }) :
      closing s (fun _ => .ok ()) f = .next (u.goesOn (u.hart.setS d (u.hart.regs.h.vl.zeroExtend 64) false) 4) := by
    rw [closing_ok hc rfl _ hf, Hart.stripVl_eq]
    rfl
  refine ⟨fun t hc => ⟨fun ha => ?_, (exec_strip ..).trans (strip _ hc t rfl), fun u hu => ?_⟩, fun ha => ?_⟩
  · intro code bits vl h
    have hv : t.hart.setVl d a w = h.setS d (BitVec.ofNat 64 vl) false := by cases w <;> rfl
    have e : closing s (fun h => h.clean a) (fun t => .ok { t with hart := (t.hart.setVl d a w).advance 4 })
        = .next { t with hart := (t.hart.setVl d a w).advance 4 } := closing_ok hc (s.hart.clean_ok a ha) _ rfl
    rw [hv] at e
    exact ⟨(exec_setvl ..).trans e, (exec_setvlAcq ..).trans e⟩
  · exact (exec_stripRel ..).trans (strip _ hc u (by rw [hu]; rfl))
  · have e (f : State → M State) : closing s (fun h => h.clean a) f = s.take poisonTrap := closing_error _ (s.hart.clean_bad a ha)
    exact ⟨(exec_setvl ..).trans (e _), (exec_setvlAcq ..).trans (e _)⟩

end Sys2Proof.Machine
end

section
/-! Plain vector loads and stores (05 R119-R127): the elements of a hart that reaches all of them, in rising order. -/
namespace Sys2Proof.Machine

/-! ### The draw counter and the translation caches -/

/-- The state with another count of draws (log 10). -/
def State.withDraw (s : State) (k : Nat) : State := { s with draw := k }

section
variable (s : State) (k : Nat)

theorem State.withDraw_self : s.withDraw s.draw = s := rfl
@[simp] theorem State.withDraw_hart : (s.withDraw k).hart = s.hart := rfl
@[simp] theorem State.withDraw_tlb : (s.withDraw k).tlb = s.tlb := rfl
@[simp] theorem State.withDraw_misses : (s.withDraw k).misses = s.misses := rfl

theorem State.withDraw_fillTlb (e : TlbEntry) : (s.withDraw k).fillTlb e = (s.fillTlb e).withDraw k := rfl

theorem State.withDraw_foldl {α : Type} (f : State → α → State) (hf : ∀ s a, f (s.withDraw k) a = (f s a).withDraw k) (l : List α) :
    l.foldl f (s.withDraw k) = (l.foldl f s).withDraw k := by
  induction l generalizing s with
  | nil => rfl
  | cons a l ih => rw [List.foldl_cons, hf, ih, List.foldl_cons]

theorem State.withDraw_fillWalk (p ctx : Nat) (host : Bool) (va : Nat) (l : Leaf) (nl : List NonLeaf) :
    (s.withDraw k).fillWalk p ctx host va l nl = (s.fillWalk p ctx host va l nl).withDraw k := by
  have fills (e : Nat → TlbEntry) (qs : List Nat) (s : State) :
      qs.foldl (fun s q => s.fillTlb (e q)) (s.withDraw k) = (qs.foldl (fun s q => s.fillTlb (e q)) s).withDraw k :=
    s.withDraw_foldl k _ (fun s q => s.withDraw_fillTlb k (e q)) qs
  simp only [State.fillWalk, State.withDraw_fillTlb, fills, State.withDraw_misses]
  rfl

/-- What an access leaves in the caches does not rest on the draws made before it. -/
theorem State.withDraw_look (p ctx : Nat) (host : Bool) (root va : Nat) :
    (s.withDraw k).look p ctx host root va = (s.look p ctx host root va).withDraw k := by
  have hw : (s.withDraw k).walk p ctx host root va = s.walk p ctx host root va := rfl
  have hc : (s.withDraw k).cached p ctx host va = s.cached p ctx host va := rfl
  unfold State.look
  rw [hw, hc, State.withDraw_tlb]
  by_cases ht : (s.tlb.any fun e => e.place == .spire p && e.covers ctx host va) = true
  · rw [if_pos ht, if_pos ht]
  · rw [if_neg ht, if_neg ht]
    split
    · rfl
    · split
      · exact s.withDraw_fillWalk k ..
      · rfl

theorem State.withDraw_warm (w : Who) (space : Space) (ps : List Piece) :
    (s.withDraw k).warm w space ps = (s.warm w space ps).withDraw k := by
  cases space with
  | loc => rfl
  | peer => rfl
  | glb => exact s.withDraw_foldl k _ (fun s p => s.withDraw_look k ..) ps
  | host => exact s.withDraw_foldl k _ (fun s p => s.withDraw_look k ..) ps

theorem State.withDraw_pieces (w : Who) (space : Space) (cls : AccClass) (kind : AccKind) (perm : Perm) (a n : Nat) :
    (s.withDraw k).pieces w space cls kind perm a n = s.pieces w space cls kind perm a n := rfl
end

/-! ### Elements in rising order -/

/-- The state once the hart has looked up the pieces of a list of elements (11 R268, log 8). -/
def State.warmed (s : State) (ps : Nat → List Piece) (l : List Nat) : State :=
  l.foldl (fun t i => t.warm s.hart.who s.hart.space (ps i)) s

theorem State.warmTo_eq (s : State) (m : MIdx) (ps : Nat → List Piece) (j : Nat) :
    s.warmTo m ps j = s.warmed ps ((s.hart.active m).filter fun i => decide (i < j)) := rfl

section
variable (s : State) (ps : Nat → List Piece) (l : List Nat)

theorem State.warmed_append (i : Nat) : s.warmed ps (l ++ [i]) = (s.warmed ps l).warm s.hart.who s.hart.space (ps i) := by
  unfold State.warmed
  rw [List.foldl_append]
  rfl

/-- Looking elements up changes the translation caches alone. -/
theorem State.warmed_frame : ∃ tlb nonLeaf misses, s.warmed ps l = { s with tlb := tlb, nonLeaf := nonLeaf, misses := misses } := by
  induction l using List.reverseRecOn with
  | nil => exact ⟨_, _, _, rfl⟩
  | append_singleton l i ih =>
    obtain ⟨_, _, _, e⟩ := ih
    obtain ⟨_, _, _, e'⟩ := (s.warmed ps l).warm_frame s.hart.who s.hart.space (ps i)
    rw [s.warmed_append, e', e]
    exact ⟨_, _, _, rfl⟩

@[simp] theorem State.warmed_hart : (s.warmed ps l).hart = s.hart := by
  obtain ⟨_, _, _, e⟩ := s.warmed_frame ps l
  rw [e]

@[simp] theorem State.warmed_draw : (s.warmed ps l).draw = s.draw := by
  obtain ⟨_, _, _, e⟩ := s.warmed_frame ps l
  rw [e]

/-- A byte that the hart sees does not rest on the translation caches or on the draws. -/
theorem State.ownByte_warmed (k : Nat) (h : Hart) : ((s.warmed ps l).withDraw k).ownByte h = s.ownByte h := by
  obtain ⟨_, _, _, e⟩ := s.warmed_frame ps l
  rw [e]
  rfl
end

theorem update_of_mem {α : Type} (f : Nat → α) (i : Nat) (x : α) (r : List Nat) (hi : i ∉ r) : ∀ j ∈ r, Function.update f i x j = f j :=
  fun j hj => Function.update_of_ne (by rintro rfl; exact hi hj) x f

section
variable (h : Hart) (m : MIdx)

theorem Hart.active_rising : (h.active m).Pairwise (· < ·) := List.pairwise_lt_range.filter _

/-- The active elements before one of them are those below it. -/
theorem Hart.active_below (l r : List Nat) (i : Nat) (e : h.active m = l ++ i :: r) : (h.active m).filter (fun j => decide (j < i)) = l := by
  have hp := h.active_rising m
  rw [e, List.pairwise_append, List.pairwise_cons] at hp
  obtain ⟨-, ⟨hr, -⟩, hl⟩ := hp
  rw [e, List.filter_append, List.filter_eq_self.2 (fun j hj => decide_eq_true (hl j hj i List.mem_cons_self)),
    List.filter_eq_nil_iff.2 (by
      rintro j hj
      rcases List.mem_cons.1 hj with rfl | hj
      · simp
      · have := hr j hj
        simp only [decide_eq_true_eq]
        omega), List.append_nil]

/-- Every active element lies below VL. -/
theorem Hart.active_all : (h.active m).filter (fun j => decide (j < h.vl)) = h.active m :=
  List.filter_eq_self.2 fun j hj => decide_eq_true ((mem_active h m j).1 hj).1

theorem Hart.active_nodup : (h.active m).Nodup := (h.active_rising m).imp fun h => Nat.ne_of_lt h

theorem eltsClean_ok (xs : List (Nat × Elt)) (hx : ∀ x ∈ xs, x.2.bad = false) : eltsClean xs = .ok () := by
  unfold eltsClean
  rw [List.find?_eq_none.2 fun x hm => by simp [hx x hm]]

/-- A sound mask and clean indices leave the active elements. -/
theorem Hart.vmemActive_ok (md : EaMode) (hm : h.maskSound m)
    (hix : ∀ ix, md = .index ix → ∀ j, h.writes m j → ((h.regs.v[ix]).elt h.ew j).bad = false) : h.vmemActive md m = .ok (h.active m) := by
  have plain : ((h.maskClean m).map fun _ => h.active m) = .ok (h.active m) := by
    rw [maskClean_ok h m hm]
    rfl
  cases md with
  | unit => exact plain
  | stride st => exact plain
  | index ix =>
    have clean : ∀ x ∈ (List.range h.vl).filterMap (h.looksAt m ix), x.2.bad = false := by
      intro x hx
      obtain ⟨j, hj, e⟩ := List.mem_filterMap.1 hx
      have hb := h.looksAt_bad m ix j
      rw [e] at hb
      have hj := List.mem_range.1 hj
      unfold Hart.ixBad at hb
      rw [hm j hj, Bool.false_or] at hb
      refine hb.trans (Bool.eq_false_iff.2 fun hc => ?_)
      rw [Bool.and_eq_true] at hc
      exact Bool.false_ne_true ((hix ix rfl j ⟨hj, hc.1⟩).symm.trans hc.2)
    rw [h.vmemActive_index, eltsClean_ok _ clean]
    rfl
end

/-! ### Loads -/

/-- VL after a load that ends at element i, or at none (05 R127). -/
def Hart.endsAt (h : Hart) : Option Nat → Hart
  | none => h
  | some i => h.withVl i

theorem Hart.ewWide_pos {h : Hart} (hw : h.ewWide) : 8 ∣ h.ew ∧ 0 < h.ew := by
  rcases hw with e | e | e | e <;> rw [e] <;> decide

section
variable (s : State) (m : MIdx) (ps : Nat → List Piece)

/-- The caches as element j finds them. -/
theorem State.warmTo_of_split (l r : List Nat) (j : Nat) (e : s.hart.active m = l ++ j :: r) : s.warmTo m ps j = s.warmed ps l := by
  rw [s.warmTo_eq, s.hart.active_below m l r j e]

theorem State.warmTo_vl : s.warmTo m ps s.hart.vl = s.warmed ps (s.hart.active m) := by
  rw [s.warmTo_eq, s.hart.active_all]

/-- The bytes that the hart reads for element j (05 R125). -/
def State.bytesOf (j : Nat) : List (Byte × Bool) := readPieces (s.ownByte s.hart) (ps j)

/-- What a load gives for an element: poisoned when a byte is, else the number of its bytes (05 R125, 10 R249). -/
def State.readsAs (j : Nat) (x : Elt) : Prop :=
  x.bad = (s.bytesOf ps j).any (·.2) ∧ (x.bad = false → x.val = ofBytes ((s.bytesOf ps j).map (·.1)))

/-- One element of a load, in the caches that the elements before it leave. -/
theorem State.loadVal_warmed (l : List Nat) (k a n j : Nat)
    (hp : (s.warmed ps l).pieces s.hart.who s.hart.space .load .load permR a n = .ok (ps j)) :
    ∃ x k', ((s.warmed ps l).withDraw k).loadVal s.hart.space a n j .load = .ok ((s.warmed ps (l ++ [j])).withDraw k', x)
      ∧ s.readsAs ps j x ∧ ((s.bytesOf ps j).any (·.2) = false → k' = k) := by
  have hh : ((s.warmed ps l).withDraw k).hart = s.hart := s.warmed_hart ps l
  have hb : readPieces (((s.warmed ps l).withDraw k).ownByte s.hart) (ps j) = s.bytesOf ps j :=
    congrArg (fun f => readPieces f (ps j)) (s.ownByte_warmed ps l k s.hart)
  have hw : ((s.warmed ps l).withDraw k).warm s.hart.who s.hart.space (ps j) = (s.warmed ps (l ++ [j])).withDraw k := by
    rw [State.withDraw_warm, s.warmed_append]
  cases hc : (s.bytesOf ps j).any (·.2) with
  | false =>
    have e := ((s.warmed ps l).withDraw k).loadVal_clean s.hart.space a n j .load (ps j) (by rw [hh]; exact hp) (by rw [hh, hb]; exact hc)
    rw [hh, hb, hw] at e
    exact ⟨_, k, e, ⟨hc.symm, fun _ => rfl⟩, fun _ => rfl⟩
  | true =>
    obtain ⟨v, e⟩ := ((s.warmed ps l).withDraw k).loadVal_poisoned s.hart.space a n j .load (ps j) (by rw [hh]; exact hp)
      (by rw [hh, hb]; exact hc)
    rw [hh, hw] at e
    exact ⟨_, _, e, ⟨hc.symm, fun h => Bool.noConfusion h⟩, fun h => Bool.noConfusion h⟩

/-- A run of elements that are all reached, before others: their values, then what the others give. -/
theorem loadElts_append (a : SReg) (md : EaMode) (ff : Bool) (r : List Nat) : ∀ (l : List Nat) (k : Nat), (l ++ r).Nodup →
    (∀ l' j r', r = l' ++ j :: r' →
      (s.warmed ps (l ++ l')).pieces s.hart.who s.hart.space .load .load permR (s.hart.ea a md j) (s.hart.ew / 8) = .ok (ps j)) →
    ∃ (f : Nat → Elt) (k' : Nat), (∀ j ∈ r, s.readsAs ps j (f j)) ∧ ((∀ j ∈ r, (s.bytesOf ps j).any (·.2) = false) → k' = k)
      ∧ ∀ q, loadElts s.hart a md ff (r ++ q) ((s.warmed ps l).withDraw k)
        = (loadElts s.hart a md ff q ((s.warmed ps (l ++ r)).withDraw k')).map fun y => (y.1, r.map (fun j => (j, f j)) ++ y.2.1, y.2.2) := by
  induction r with
  | nil =>
    intro l k _ _
    refine ⟨fun _ => ⟨0, false⟩, k, fun j hj => absurd hj List.not_mem_nil, fun _ => rfl, fun q => ?_⟩
    rw [List.append_nil, List.nil_append]
    cases loadElts s.hart a md ff q ((s.warmed ps l).withDraw k) <;> rfl
  | cons i r ih =>
    intro l k hn hp
    obtain ⟨x, k1, e1, hx, hk1⟩ := s.loadVal_warmed ps l k _ _ i (by rw [← l.append_nil]; exact hp [] i r rfl)
    have ha : l ++ i :: r = (l ++ [i]) ++ r := by simp
    obtain ⟨f, k2, hf, hk2, e2⟩ := ih (l ++ [i]) k1 (ha ▸ hn) fun l' j r' e => by
      rw [List.append_assoc]
      exact hp (i :: l') j r' (by rw [e]; rfl)
    have hi : i ∉ r := (List.nodup_cons.1 (List.nodup_append.1 hn).2.1).1
    have upd := update_of_mem f i x r hi
    have hmap : r.map (fun j => (j, Function.update f i x j)) = r.map fun j => (j, f j) := List.map_congr_left fun j hj => by rw [upd j hj]
    refine ⟨Function.update f i x, k2, fun j hj => ?_, fun hc => ?_, fun q => ?_⟩
    · rcases List.mem_cons.1 hj with rfl | hj
      · rwa [Function.update_self]
      · rw [upd j hj]
        exact hf j hj
    · rw [hk2 fun j hj => hc j (List.mem_cons_of_mem _ hj), hk1 (hc i List.mem_cons_self)]
    · rw [List.cons_append, loadElts, e1, ha]
      simp only
      rw [e2 q, List.map_cons, Function.update_self, hmap]
      cases loadElts s.hart a md ff q ((s.warmed ps (l ++ [i] ++ r)).withDraw k2) <;> rfl
section
variable (d : VIdx) (a : SReg) (md : EaMode) (hd : s.hart.detached) (hw : s.hart.ewWide) (hm : s.hart.maskSound m) (ha : s.hart.bad a = false)
  (hst : ∀ r, md = .stride r → s.hart.bad r = false)
  (hix : ∀ ix, md = .index ix → ∀ j, s.hart.writes m j → ((s.hart.regs.v[ix]).elt s.hart.ew j).bad = false)
include hd hw hm ha hst hix

/-- A load whose elements have been read, all of them or those before the first fault, writes them (05 R119, R127). -/
theorem vecLoad_goesOn (ff : Bool) (t : State) (xs : List (Nat × Elt)) (n : Option Nat) (ht : t.hart = s.hart)
    (hl : loadElts s.hart a md ff (s.hart.active m) s = .ok (t, xs, n)) :
    plain s (vecLoad d a md m ff)
      = .next (t.goesOn (({ s.hart with regs := s.hart.regs.setV d ((s.hart.regs.v[d]).setElts s.hart.ew xs) } : Hart).endsAt n) 4) := by
  refine plain_ok s { t with hart := Hart.endsAt _ n } _
    (streamed_detached _ _ _ _ s hd (vmemLegal_ok s.hart a md (Hart.ewWide_mem hw) ha hst) _ ?_ ?_)
  · simp only [s.hart.vmemActive_ok m md hm hix, hl, ht]
    cases n <;> rfl
  · cases n <;> exact hd

/-- A load of elements that are all reached. -/
theorem vecLoad_completes (ff : Bool)
    (hp : ∀ j, s.hart.writes m j →
      (s.warmTo m ps j).pieces s.hart.who s.hart.space .load .load permR (s.hart.ea a md j) (s.hart.ew / 8) = .ok (ps j)) :
    ∃ (v : VReg) (f : Nat → Elt) (k : Nat),
      plain s (vecLoad d a md m ff) = .next (State.goesOn { s.warmTo m ps s.hart.vl with draw := k } { s.hart with regs := s.hart.regs.setV d v } 4)
        ∧ (s.hart.regs.v[d]).writtenAs v s.hart.ew (s.hart.writes m) f
        ∧ ((∀ j, s.hart.writes m j → (s.bytesOf ps j).any (·.2) = false) → k = s.draw)
        ∧ ∀ j, s.hart.writes m j → s.readsAs ps j (f j) := by
  obtain ⟨f, k, hf, hk, e⟩ := loadElts_append s ps a md ff (s.hart.active m) [] s.draw (s.hart.active_nodup m) fun l j r e => by
    rw [List.nil_append, ← s.warmTo_of_split m ps l r j e]
    exact hp j ((mem_active _ _ _).1 (e ▸ by simp))
  have e := e []
  rw [List.append_nil, List.nil_append, ← s.warmTo_vl m] at e
  refine ⟨_, f, k, vecLoad_goesOn s m d a md hd hw hm ha hst hix ff _ _ none ?_ e, ?_, fun h => hk fun j hj => h j ((mem_active _ _ _).1 hj),
    fun j hj => hf j ((mem_active _ _ _).2 hj)⟩
  · exact s.warmed_hart ps _
  · rw [List.append_nil]
    exact VReg.setElts_writtenAs _ _ _ _ _ (Hart.ewWide_pos hw).1 (Hart.ewWide_pos hw).2 fun i => (mem_active _ _ _).symm
end
end

/-- 05 R119: the address of an element under a stride, which is signed. -/
theorem Hart.ea_stride (h : Hart) (a st : SReg) (j : Nat) : h.ea a (.stride st) j = (h.s a + BitVec.ofNat 64 j * h.s st).toNat := by
  show wrapI 64 _ = _
  rw [sgn_eq_toInt 64 _ (by decide), wrapI_eq_ofInt, BitVec.ofInt_add, BitVec.ofInt_mul, BitVec.ofInt_natCast, BitVec.ofInt_natCast,
    BitVec.ofNat_toNat, BitVec.ofNat_toNat, BitVec.ofInt_toInt, BitVec.setWidth_eq, BitVec.setWidth_eq]

/-- Settles O45: the elements are read in rising order, each in the caches that those before it leave. -/
theorem vectorLoadsComplete : Obligations.VectorLoadsComplete := by
  unfold Obligations.VectorLoadsComplete
  intro d ix a st m ps s hd hw hm ha h n base bytes loads
  have row {i : Instr} {md : EaMode} {ff : Bool} {ea : Nat → Nat} (e : exec i s = plain s (vecLoad d a md m ff)) (hea : ∀ j, ea j = h.ea a md j)
      (hst : ∀ r, md = .stride r → h.bad r = false)
      (hix : ∀ ix, md = .index ix → ∀ j, h.writes m j → ((h.regs.v[ix]).elt h.ew j).bad = false) : loads i ea := by
    intro hp
    obtain ⟨v, f, k, e', hv, hk, hf⟩ := vecLoad_completes s m ps d a md hd hw hm ha hst hix ff fun j hj => by
      rw [← hea j]
      exact hp j hj
    exact ⟨v, f, k, e.trans e', hv, hk, hf⟩
  refine ⟨row (exec_vld ..) (fun _ => rfl) ?_ ?_, row (exec_vldff ..) (fun _ => rfl) ?_ ?_,
    fun hb => row (exec_vlds ..) (fun j => (h.ea_stride a st j).symm) ?_ ?_,
    fun hb => row (exec_vldx ..) (fun _ => rfl) ?_ ?_⟩
  · rintro r ⟨⟩
  · rintro r ⟨⟩
  · rintro r ⟨⟩
  · rintro r ⟨⟩
  · rintro r ⟨⟩
    exact hb
  · rintro r ⟨⟩
  · rintro r ⟨⟩
  · rintro r ⟨⟩
    exact hb

/-- Settles O46: the elements below the fault are read, and the fault ends the list (05 R127). -/
theorem firstFaultLoadShortens : Obligations.FirstFaultLoadShortens := by
  unfold Obligations.FirstFaultLoadShortens
  intro d a m ps i c y x s hd hw hm ha hi hact h n ea piece hbelow hfault
  obtain ⟨l, r, split⟩ := List.append_of_mem ((mem_active h m i).2 hact)
  have mem : ∀ j, j ∈ l ↔ j < i ∧ h.writes m j := fun j => by
    rw [← h.active_below m l r i split, List.mem_filter, mem_active, decide_eq_true_eq, and_comm]
  have hn : l.Nodup := (List.nodup_append.1 (split ▸ h.active_nodup m)).1
  obtain ⟨f, k, hf, hk, e⟩ := loadElts_append s ps a .unit true l [] s.draw hn fun l' j r' e => by
    rw [List.nil_append, ← s.warmTo_of_split m ps l' (r' ++ i :: r) j (split.trans (by rw [e, List.append_assoc]; rfl))]
    have hj := (mem j).1 (e ▸ by simp)
    exact (hbelow j hj.1 hj.2).1
  have clean : ∀ j ∈ l, (s.bytesOf ps j).any (·.2) = false := fun j hj => (hbelow j ((mem j).1 hj).1 ((mem j).1 hj).2).2
  obtain rfl := hk clean
  have stop : loadElts h a .unit true (i :: r) (s.warmed ps l) = .ok (s.warmed ps l, [], some i) := by
    have hv : (s.warmed ps l).loadVal h.space (h.ea a .unit i) (h.ew / 8) i .load = .error (accExc h.space .load i (.bad c y, x)) := by
      have hp : (s.warmed ps l).pieces h.who h.space .load .load permR (h.ea a .unit i) (h.ew / 8) = .error (.bad c y, x) := by
        rw [← s.warmTo_of_split m ps l r i split]
        exact hfault
      unfold State.loadVal
      rw [s.warmed_hart, hp]
    rw [loadElts, hv]
    have h0 : (i != 0) = true := bne_iff_ne.2 (by omega)
    simp only [accExc, h0, Bool.and_self, if_true]
  have hl : loadElts h a .unit true (h.active m) s = .ok (s.warmed ps l, l.map fun j => (j, f j), some i) := by
    have e := e (i :: r)
    rw [← split] at e
    refine e.trans ?_
    rw [List.nil_append, ← s.warmed_draw ps l, State.withDraw_self, stop]
    simp only [Except.map, List.append_nil]
  refine ⟨(h.regs.v[d]).setElts h.ew (l.map fun j => (j, f j)), ?_, ?_⟩
  · rw [s.warmTo_of_split m ps l r i split]
    exact (exec_vldff ..).trans (vecLoad_goesOn s m d a .unit hd hw hm ha (by rintro r ⟨⟩) (by rintro r ⟨⟩) true _ _ _
      (s.warmed_hart ps l) hl)
  · have value : ∀ j ∈ l, f j = ⟨ofBytes ((readPieces (s.ownByte h) (ps j)).map (·.1)), false⟩ := fun j hj => by
      obtain ⟨hb, hv⟩ := hf j hj
      have hb := hb.trans (clean j hj)
      exact congr (congrArg Elt.mk (hv hb)) hb
    rw [List.map_congr_left fun j hj => by rw [value j hj]]
    exact VReg.setElts_writtenAs _ _ _ _ _ (Hart.ewWide_pos hw).1 (Hart.ewWide_pos hw).2 fun j => (mem j).symm

/-! ### Stores -/

section
variable (s : State) (m : MIdx) (ps : Nat → List Piece)

/-- The bytes that a store forms for an element of n bytes: those of its value, or free ones under the poison code (05 R122, log 10). -/
def Elt.stores (x : Elt) (n : Nat) (bs : List Byte) : Prop := bs.length = n ∧ (x.bad = false → bs = toBytes n x.val)

/-- One element of a store, in the caches that the elements before it leave. -/
theorem State.storeUnits_warmed (l : List Nat) (k a n j : Nat) (x : Elt)
    (hp : (s.warmed ps l).pieces s.hart.who s.hart.space .store .store permW a n = .ok (ps j)) :
    ∃ (bs : List Byte) (k' : Nat), ((s.warmed ps l).withDraw k).storeUnits s.hart.space a n j .store x
        = .ok ((s.warmed ps (l ++ [j])).withDraw k', cutUnits x.bad (s.hart.space == .glb) (ps j) bs)
      ∧ x.stores n bs ∧ (x.bad = false → k' = k) := by
  have hh : ((s.warmed ps l).withDraw k).hart = s.hart := s.warmed_hart ps l
  have hw : ((s.warmed ps l).withDraw k).warm s.hart.who s.hart.space (ps j) = (s.warmed ps (l ++ [j])).withDraw k := by
    rw [State.withDraw_warm, s.warmed_append]
  obtain ⟨v, bad⟩ := x
  cases bad with
  | false =>
    have e := ((s.warmed ps l).withDraw k).storeUnits_clean s.hart.space a n j .store (ps j) (by rw [hh]; exact hp) v
    rw [hh, hw] at e
    exact ⟨_, k, e, ⟨length_toBytes n v, fun _ => rfl⟩, fun _ => rfl⟩
  | true =>
    obtain ⟨bs, hn, e⟩ := ((s.warmed ps l).withDraw k).storeUnits_poisoned s.hart.space a n j .store (ps j) (by rw [hh]; exact hp) v
    rw [hh, hw] at e
    exact ⟨bs, _, e, ⟨hn, fun h => Bool.noConfusion h⟩, fun h => Bool.noConfusion h⟩

/-- The elements of a store, all of them reached: their units in order. -/
theorem storeElts_ok (a : SReg) (md : EaMode) (d : VIdx) (r : List Nat) : ∀ (l : List Nat) (k : Nat), (l ++ r).Nodup →
    (∀ l' j r', r = l' ++ j :: r' →
      (s.warmed ps (l ++ l')).pieces s.hart.who s.hart.space .store .store permW (s.hart.ea a md j) (s.hart.ew / 8) = .ok (ps j)) →
    ∃ (bs : Nat → List Byte) (k' : Nat),
      storeElts s.hart a md d r ((s.warmed ps l).withDraw k) = .ok ((s.warmed ps (l ++ r)).withDraw k',
        r.flatMap fun j => cutUnits ((s.hart.regs.v[d]).elt s.hart.ew j).bad (s.hart.space == .glb) (ps j) (bs j))
      ∧ (∀ j ∈ r, ((s.hart.regs.v[d]).elt s.hart.ew j).stores (s.hart.ew / 8) (bs j))
      ∧ ((∀ j ∈ r, ((s.hart.regs.v[d]).elt s.hart.ew j).bad = false) → k' = k) := by
  induction r with
  | nil =>
    intro l k _ _
    exact ⟨fun _ => [], k, by rw [List.append_nil]; rfl, fun j hj => absurd hj List.not_mem_nil, fun _ => rfl⟩
  | cons i r ih =>
    intro l k hn hp
    obtain ⟨b, k1, e1, hb, hk1⟩ := s.storeUnits_warmed ps l k _ _ i ((s.hart.regs.v[d]).elt s.hart.ew i)
      (by rw [← l.append_nil]; exact hp [] i r rfl)
    have ha : l ++ i :: r = (l ++ [i]) ++ r := by simp
    obtain ⟨bs, k2, e2, hbs, hk2⟩ := ih (l ++ [i]) k1 (ha ▸ hn) fun l' j r' e => by
      rw [List.append_assoc]
      exact hp (i :: l') j r' (by rw [e]; rfl)
    have hi : i ∉ r := (List.nodup_cons.1 (List.nodup_append.1 hn).2.1).1
    have upd := update_of_mem bs i b r hi
    have hmap : (r.flatMap fun j => cutUnits ((s.hart.regs.v[d]).elt s.hart.ew j).bad (s.hart.space == .glb) (ps j) (Function.update bs i b j))
        = r.flatMap fun j => cutUnits ((s.hart.regs.v[d]).elt s.hart.ew j).bad (s.hart.space == .glb) (ps j) (bs j) :=
      List.flatMap_congr fun j hj => by rw [upd j hj]
    refine ⟨Function.update bs i b, k2, ?_, fun j hj => ?_, fun hc => ?_⟩
    · rw [storeElts, e1, ha]
      simp only
      rw [e2, List.flatMap_cons, Function.update_self, hmap]
    · rcases List.mem_cons.1 hj with rfl | hj
      · rwa [Function.update_self]
      · rw [upd j hj]
        exact hbs j hj
    · rw [hk2 fun j hj => hc j (List.mem_cons_of_mem _ hj), hk1 (hc i List.mem_cons_self)]

section
variable (d : VIdx) (a : SReg) (md : EaMode) (hd : s.hart.detached) (hw : s.hart.ewWide) (hm : s.hart.maskSound m) (ha : s.hart.bad a = false)
  (hst : ∀ r, md = .stride r → s.hart.bad r = false)
  (hix : ∀ ix, md = .index ix → ∀ j, s.hart.writes m j → ((s.hart.regs.v[ix]).elt s.hart.ew j).bad = false)
include hd hw hm ha hst hix

/-- A store past the capacity traps before its elements are looked at (01 R28, log 69). -/
theorem vecStore_capacity (hc : s.hart.capacity < s.hart.charge + vecCharge s.hart.vl s.hart.ew) :
    plain s (vecStore d a md m) = s.take (.trap 0x09 0 none) := by
  refine plain_error _ _ (streamed_trap _ _ _ _ _ _ hd (vmemLegal_ok s.hart a md (Hart.ewWide_mem hw) ha hst) ?_)
  simp only [s.hart.vmemActive_ok m md hm hix, hc, if_true]
  rfl

/-- A store of elements that are all reached, within the capacity, enters the buffer. -/
theorem vecStore_completes (hc : s.hart.charge + vecCharge s.hart.vl s.hart.ew ≤ s.hart.capacity)
    (hp : ∀ j, s.hart.writes m j →
      (s.warmTo m ps j).pieces s.hart.who s.hart.space .store .store permW (s.hart.ea a md j) (s.hart.ew / 8) = .ok (ps j)) :
    ∃ (k : Nat) (bs : Nat → List Byte),
      plain s (vecStore d a md m) = .next (State.goesOn { s.warmTo m ps s.hart.vl with draw := k } { s.hart with
          charge := s.hart.charge + vecCharge s.hart.vl s.hart.ew
          buf := s.hart.buf ++ [.store ((s.hart.active m).flatMap fun j =>
            cutUnits ((s.hart.regs.v[d]).elt s.hart.ew j).bad (s.hart.space == .glb) (ps j) (bs j))] } 4)
        ∧ (∀ j, s.hart.writes m j → ((s.hart.regs.v[d]).elt s.hart.ew j).stores (s.hart.ew / 8) (bs j))
        ∧ ((∀ j, s.hart.writes m j → ((s.hart.regs.v[d]).elt s.hart.ew j).bad = false) → k = s.draw) := by
  obtain ⟨bs, k, e, hbs, hk⟩ := storeElts_ok s ps a md d (s.hart.active m) [] s.draw (s.hart.active_nodup m) fun l j r e => by
    rw [List.nil_append, ← s.warmTo_of_split m ps l r j e]
    exact hp j ((mem_active _ _ _).1 (e ▸ by simp))
  rw [List.nil_append, ← s.warmTo_vl m] at e
  have hh : ((s.warmTo m ps s.hart.vl).withDraw k).hart = s.hart := s.warmed_hart ps _
  refine ⟨k, bs, ?_, fun j hj => hbs j ((mem_active _ _ _).2 hj), fun h => hk fun j hj => h j ((mem_active _ _ _).1 hj)⟩
  have hc' : ¬ s.hart.capacity < s.hart.charge + vecCharge s.hart.vl s.hart.ew := Nat.not_lt.2 hc
  refine plain_ok s { (s.warmTo m ps s.hart.vl).withDraw k with hart := _ } _
    (streamed_detached _ _ _ _ s hd (vmemLegal_ok s.hart a md (Hart.ewWide_mem hw) ha hst) _ ?_ hd)
  have e' : storeElts s.hart a md d (s.hart.active m) s = _ := e
  simp only [s.hart.vmemActive_ok m md hm hix, hc', if_false, e', hh, Hart.push]
  rfl
end
end

/-- The space of a hart is GLB when MTR says so (01 Table 1-5). -/
theorem Hart.space_glb (h : Hart) : (h.space == .glb) = (h.regs.h.mtr == 2#2) := by
  have key : ∀ c : BitVec 2, ((Space.ofCode c.toNat).getD .loc == .glb) = (c == 2#2) := by decide
  exact key _

/-- Settles O47: the units are formed in rising order, each in the caches that those before it leave; the capacity comes first. -/
theorem vectorStoresComplete : Obligations.VectorStoresComplete := by
  unfold Obligations.VectorStoresComplete
  intro d ix a st m ps s hd hw hm ha h data n base charge stores
  have row {i : Instr} {md : EaMode} {ea : Nat → Nat} (e : exec i s = plain s (vecStore d a md m)) (hea : ∀ j, ea j = h.ea a md j)
      (hst : ∀ r, md = .stride r → h.bad r = false)
      (hix : ∀ ix, md = .index ix → ∀ j, h.writes m j → ((h.regs.v[ix]).elt h.ew j).bad = false) : stores i ea := by
    refine ⟨fun hc hp => ?_, fun hc => e.trans (vecStore_capacity s m d a md hd hw hm ha hst hix hc)⟩
    obtain ⟨k, bs, e', hbs, hk⟩ := vecStore_completes s m ps d a md hd hw hm ha hst hix hc fun j hj => by
      rw [← hea j]
      exact hp j hj
    rw [Hart.space_glb] at e'
    exact ⟨k, bs, e.trans e', hbs, hk⟩
  refine ⟨row (exec_vst ..) (fun _ => rfl) ?_ ?_, fun hb => row (exec_vsts ..) (fun j => (h.ea_stride a st j).symm) ?_ ?_,
    fun hb => row (exec_vstx ..) (fun _ => rfl) ?_ ?_⟩
  · rintro r ⟨⟩
  · rintro r ⟨⟩
  · rintro r ⟨⟩
    exact hb
  · rintro r ⟨⟩
  · rintro r ⟨⟩
  · rintro r ⟨⟩
    exact hb

end Sys2Proof.Machine
end

section
/-! A store at its home in a scratchpad that is not in canonical form (05 R128). -/
namespace Sys2Proof.Machine

/-- A hart at the start of a strip, whose scratchpad lists byte 0 twice: the next byte under the key is behind the first one. No run from
reset leads here, as every step keeps the memories in canonical form, but nothing in the statement excludes it. -/
def twiceListed : State :=
  { State.reset with
    hart := { Hart.reset with
      regs := { Regs.reset with h := { StripHcr.reset with vl := 1, ew := 3 } }
      hcr := { Hcr.reset with run := 1 } }
    frames := [⟨0, 0, 0, true, false, false, false, false, none⟩]
    spad := ⟨[(0, 1), (0, 2)], []⟩ }

/-- The doubleword at address 0 of the scratchpads in the next state. -/
def spadWordAfter : Out → Option Nat
  | .next t => some (t.spad.getN 0 8)
  | _ => none

/-- The store of a zero takes the first of the two bytes away, and the second is read. -/
theorem twiceListed_store : spadWordAfter (exec (.vstsc 1 0 2 0) twiceListed) = some 2 := by decide +kernel

theorem twiceListed_elt (r : VIdx) (i : Nat) : (twiceListed.hart.regs.v[r]).elt 64 i = ⟨0, false⟩ := by
  rw [show twiceListed.hart.regs.v[r] = VReg.zero from Regs.reset_v r]
  simp only [VReg.elt, VReg.zero, field, BitVec.toNat_ofNat, Nat.zero_mod, Nat.zero_div, bne_self_eq_false]

theorem twiceListed_writes (i : Nat) : twiceListed.hart.writes 0 i ↔ i = 0 := by
  constructor
  · rintro ⟨h, -⟩
    exact Nat.lt_one_iff.1 h
  · rintro rfl
    exact ⟨Nat.one_pos, by decide +kernel⟩

/-- Refutes O49: `vstsc` of a zero to a doubleword of the own scratchpad leaves 2 there when the memory lists the byte 1 and then the byte
2 under that address. The statement does not ask that the memories are in canonical form (`State.memOk`). -/
theorem not_homeAccessesComplete : ¬ Obligations.HomeAccessesComplete := by
  unfold Obligations.HomeAccessesComplete
  intro h
  have detached : twiceListed.hart.detached := fun q => by rw [show twiceListed.hart.regs.q[q] = Stream.idle from Regs.reset_q q]; rfl
  have sound : twiceListed.hart.maskSound 0 := fun i _ => BitVec.getLsbD_zero
  obtain ⟨ordered, -⟩ := h .add 1 2 0 0 twiceListed rfl rfl rfl rfl rfl rfl detached sound rfl rfl (by
    intro j hj
    obtain rfl := (twiceListed_writes j).1 hj
    decide +kernel)
  obtain ⟨-, t, e, -, -, -, -, -, -, -, -, -, -, -, stored, -⟩ := ordered (.inr (.inr (.inr rfl))) rfl
  obtain ⟨value, -⟩ := stored
  have hv := value 0 ((twiceListed_writes 0).2 rfl) trivial (fun k hk hw => by
    have := (twiceListed_writes k).1 hw
    omega) (congrArg Elt.bad (twiceListed_elt 1 0))
  have ew : twiceListed.hart.ew = 64 := rfl
  have base : twiceListed.hart.s 0 = 0#64 := rfl
  have spire : twiceListed.hart.phys = 0 := rfl
  simp only [ew, base, spire, twiceListed_elt] at hv
  have ht : some (t.spad.getN 0 8) = some 2 := (congrArg spadWordAfter e).symm.trans twiceListed_store
  rw [show t.spad.getN 0 8 = 0 from hv] at ht
  cases ht

end Sys2Proof.Machine
end

section
/-! Pages and their backing (11 R258-R261): a restore and a save copy a page. -/
namespace Sys2Proof.Machine

/-! ### A range copied between memories -/

section
variable {α : Type} (k : Nat)

theorem lookupKey_append (l m : List (Nat × α)) : lookupKey k (l ++ m) = (lookupKey k l).or (lookupKey k m) := by
  induction l with
  | nil => rfl
  | cons x l ih =>
    obtain ⟨a, v⟩ := x
    rw [List.cons_append, lookupKey, lookupKey, ih]
    split
    · rfl
    · rfl

theorem lookupKey_filter (p : Nat → Bool) (l : List (Nat × α)) :
    lookupKey k (l.filter fun c => p c.1) = if p k = true then lookupKey k l else none := by
  induction l with
  | nil => exact (ite_self _).symm
  | cons x l ih =>
    obtain ⟨a, v⟩ := x
    by_cases ha : a = k
    · subst ha
      cases hp : p a <;> simp [lookupKey, hp, ih]
    · cases hp : p a <;> simp [lookupKey, hp, ih, ha]

/-- A lookup among keys that have moved from lo to at0. -/
theorem lookupKey_moved (lo at0 : Nat) (l : List (Nat × α)) (hl : ∀ c ∈ l, lo ≤ c.1) :
    lookupKey k (l.map fun c => (c.1 - lo + at0, c.2)) = if at0 ≤ k then lookupKey (k - at0 + lo) l else none := by
  induction l with
  | nil => exact (ite_self _).symm
  | cons x l ih =>
    obtain ⟨a, v⟩ := x
    have ha : lo ≤ a := hl _ List.mem_cons_self
    rw [List.map_cons, lookupKey, ih fun c hc => hl c (List.mem_cons_of_mem _ hc), lookupKey]
    by_cases hk : at0 ≤ k
    · rw [if_pos hk, if_pos hk]
      exact if_congr (by omega) rfl rfl
    · rw [if_neg hk, if_neg hk, if_neg (by omega)]
end

/-- A copied range holds the bytes of its source, and every other byte is as before. -/
theorem Mem.get_copyRange (src dst : Mem) (lo n at0 a : Nat) :
    (src.copyRange dst lo n at0).get a = if at0 ≤ a ∧ a < at0 + n then src.get (lo + (a - at0)) else dst.get a := by
  have below := lookupKey_filter a (fun x => decide (x < at0)) dst.cells
  have above := lookupKey_filter a (fun x => decide (at0 + n ≤ x)) dst.cells
  have moved := lookupKey_moved a lo at0 (src.cells.filter fun c => decide (lo ≤ c.1) && decide (c.1 < lo + n)) fun c hc => by
    have := (List.mem_filter.1 hc).2
    simp only [Bool.and_eq_true, decide_eq_true_eq] at this
    exact this.1
  rw [lookupKey_filter (a - at0 + lo) (fun x => decide (lo ≤ x) && decide (x < lo + n))] at moved
  simp only [Bool.and_eq_true, decide_eq_true_eq] at below above moved
  unfold Mem.get Mem.copyRange Mem.paste Mem.slice
  dsimp only
  rw [lookupKey_append, lookupKey_append, below, moved, above]
  by_cases h1 : at0 ≤ a
  · by_cases h2 : a < at0 + n
    · rw [if_neg (by omega), if_pos h1, if_pos (by omega), if_neg (by omega), if_pos ⟨h1, h2⟩, Option.none_or, Option.or_none,
        Nat.add_comm lo]
    · rw [if_neg (by omega), if_pos h1, if_neg (by omega), if_pos (by omega), if_neg (by omega)]
      rfl
  · rw [if_pos (by omega), if_neg h1, if_neg (by omega), if_neg (by omega), Option.or_none, Option.or_none]

/-! ### Restore -/

theorem devOk_of_le (a n : Nat) (h : a + n ≤ Config.devEnd) : devOk a n = .ok () := if_pos h

section
variable (s : State) (p page : Nat)

/-- The bytes of a frame in the scratchpads. -/
def frameAt (p page : Nat) : Nat := p * 2 ^ 21 + page * 32768

/-- A page whose backing is in memory and can be reached is read from there (11 R259). -/
theorem State.loadPage_ok (ctx lsid : Nat) (b : Nat × Nat) (hb : s.backing ctx lsid page p = b)
    (h1 : b.1 + 32768 ≤ Config.devEnd) (h2 : b.2 + 512 ≤ Config.devEnd) (n1 : s.farFrom p (.dev b.1) 32768 = false)
    (n2 : s.farFrom p (.dev b.2) 512 = false) :
    s.loadPage p page ctx lsid = .ok (State.setTags
      { s.breakPage p page with spad := s.dev.copyRange s.spad b.1 32768 (frameAt p page) } p page (s.dev.getN b.2 512)) := by
  unfold State.loadPage
  simp only [hb, devOk_of_le _ _ h1, devOk_of_le _ _ h2, n1, n2, Bool.or_self, Bool.false_eq_true, if_false]
  rfl

/-- The frame that a restore ends holds the page of its owner. -/
theorem State.restorePage_ok (f : Frame) (own : Nat × Nat) (b : Nat × Nat) (hf : f ∈ s.frames) (hk : f.key = p * 64 + page) (hp : page < 64)
    (hd : (f.dirty && f.resident) = false) (hb : s.backing own.1 own.2 page p = b)
    (h1 : b.1 + 32768 ≤ Config.devEnd) (h2 : b.2 + 512 ≤ Config.devEnd) (n1 : s.farFrom p (.dev b.1) 32768 = false)
    (n2 : s.farFrom p (.dev b.2) 512 = false) :
    ∃ t, s.restorePage f own = .ok t ∧ t.resident p (page * 32768) own.1 own.2 = true ∧ t.dev = s.dev ∧ t.sdm = s.sdm
      ∧ t.spad = s.dev.copyRange s.spad b.1 32768 (frameAt p page) := by
  have hq : f.key / 64 = p := by omega
  have hr : f.key % 64 = page := by omega
  have e : s.restorePage f own = .ok (State.updFrame (State.setTags
      { s.breakPage p page with spad := s.dev.copyRange s.spad b.1 32768 (frameAt p page) } p page (s.dev.getN b.2 512)) f.key
      fun x => { x with ctx := own.1, lsid := own.2, resident := true, dirty := false, asked := false, restore := none }) := by
    unfold State.restorePage
    simp only [hd, hq, hr, Bool.false_eq_true, if_false, s.loadPage_ok p page own.1 own.2 b hb h1 h2 n1 n2]
    rfl
  refine ⟨_, e, ?_, rfl, rfl, rfl⟩
  refine List.any_eq_true.2 ⟨_, List.mem_map.2 ⟨f, hf, if_pos rfl⟩, ?_⟩
  have hm : page * 32768 / 32768 = page := Nat.mul_div_cancel _ (by decide)
  simp [hk, hm]
end

/-! ### Save -/

section
variable (s : State) (p page : Nat)

/-- The state after a page and its presence bits are copied to b. -/
def State.pageSaved (b : Nat × Nat) : State :=
  (State.breakLines { s with dev := s.spad.copyRange s.dev (frameAt p page) 32768 b.1 } b.1 32768).devStore b.2 (s.tagBytes p page)

/-- A page whose backing can be written is copied there, with its presence bits (11 R260). -/
theorem State.savePage_ok (f : Frame) (b : Nat × Nat) (hq : f.key / 64 = p) (hr : f.key % 64 = page) (hb : s.backing f.ctx f.lsid page p = b)
    (h1 : s.devFree p b.1 32768 = .ok ()) (h2 : s.devFree p b.2 512 = .ok ()) : s.savePage f = .ok (s.pageSaved p page b) := by
  unfold State.savePage
  simp only [hq, hr, hb, h1, h2]
  rfl

/-- A page whose backing cannot be written now is not saved. -/
theorem State.savePage_error (f : Frame) (b : Nat × Nat) (x : Halt) (hq : f.key / 64 = p) (hr : f.key % 64 = page)
    (hb : s.backing f.ctx f.lsid page p = b) (h1 : s.devFree p b.1 32768 = .error x) : s.savePage f = .error x := by
  unfold State.savePage
  simp only [hq, hr, hb, h1]

theorem length_tagBytes : (s.tagBytes p page).length = 512 := length_toBytes 512 _

theorem State.updFrame_only (f : Frame) (g : Frame → Frame) (h : s.frames = [f]) : s.updFrame f.key g = { s with frames := [g f] } := by
  unfold State.updFrame
  rw [h, List.map_singleton, if_pos rfl]

/-- The start of a save of the only frame (11 R261, log 43): a snapshot, or a request that stands. -/
theorem State.startSave_only (f : Frame) (b : Nat × Nat) (hs : s.memOk) (hf : s.frames = [f]) (hk : f.key = p * 64 + page) (hp : page < 64)
    (hb : s.backing f.ctx f.lsid page p = b) :
    (s.devFree p b.1 32768 = .ok () → s.devFree p b.2 512 = .ok () → (b.1 + 32768 ≤ b.2 ∨ b.2 + 512 ≤ b.1) →
      ∃ t, s.startSave f = .ok t ∧ t.frames = [{ f with dirty := false, save := true, asked := false }] ∧ t.spad = s.spad
        ∧ (∀ j, j < 32768 → t.dev.get (b.1 + j) = s.spad.get (frameAt p page + j))
        ∧ ∀ a, (a < b.1 ∨ b.1 + 32768 ≤ a) → (a < b.2 ∨ b.2 + 512 ≤ a) → t.dev.get a = s.dev.get a)
    ∧ (s.devFree p b.1 32768 = .error .wait → s.startSave f = .ok { s with frames := [{ f with asked := true }] })
    ∧ (∀ line, s.devFree p b.1 32768 = .error (.hold line) →
        s.startSave f = .ok { s.snoop line with frames := [{ f with asked := true }] }) := by
  have hq : f.key / 64 = p := by omega
  have hr : f.key % 64 = page := by omega
  refine ⟨fun h1 h2 hdis => ?_, fun h1 => ?_, fun line h1 => ?_⟩
  · have e := s.savePage_ok p page f b hq hr hb h1 h2
    have hw : (s.spad.copyRange s.dev (frameAt p page) 32768 b.1).wf = true :=
      Mem.copyRange_wf _ _ _ _ _ hs.2.2.1 hs.1 (by unfold frameAt; omega) (hb ▸ backing_aligned s f.ctx f.lsid page p)
    have get (a : Nat) : (((s.spad.copyRange s.dev (frameAt p page) 32768 b.1).store b.2 (s.tagBytes p page) false)).get a
        = if b.2 ≤ a ∧ a < b.2 + 512 then ((s.tagBytes p page)[a - b.2]?).getD 0
          else if b.1 ≤ a ∧ a < b.1 + 32768 then s.spad.get (frameAt p page + (a - b.1)) else s.dev.get a := by
      rw [Mem.get_store _ _ _ _ _ hw, Mem.get_copyRange, length_tagBytes]
    have e' : s.startSave f = .ok { s.pageSaved p page b with frames := [{ f with dirty := false, save := true, asked := false }] } := by
      unfold State.startSave
      rw [e]
      exact congrArg Except.ok (State.updFrame_only (s.pageSaved p page b) f _ hf)
    refine ⟨_, e', rfl, rfl, fun j hj => ?_, fun a h1 h2 => ?_⟩
    · refine (get (b.1 + j)).trans ?_
      rw [if_neg (by omega), if_pos (by omega), Nat.add_sub_cancel_left]
    · refine (get a).trans ?_
      rw [if_neg (by omega), if_neg (by omega)]
  · unfold State.startSave
    rw [s.savePage_error p page f b _ hq hr hb h1]
    exact congrArg Except.ok (s.updFrame_only f _ hf)
  · unfold State.startSave
    rw [s.savePage_error p page f b _ hq hr hb h1]
    exact congrArg Except.ok (State.updFrame_only (s.snoop line) f _ hf)

/-- SPSAVE starts the save of the only frame when it is dirty and its bit is written (11 R261). -/
theorem State.startSaves_only (f : Frame) (v : Word) (hk : f.key = p * 64 + page) (hp : page < 64) (hv : v.getLsbD page = true)
    (hd : f.dirty = true) (hr : f.resident = true) : s.startSaves p v [f] = s.startSave f := by
  have hc : f.key / 64 = p ∧ v.getLsbD (f.key % 64) = true ∧ f.dirty = true ∧ f.resident = true :=
    ⟨by omega, (show f.key % 64 = page by omega) ▸ hv, hd, hr⟩
  rw [State.startSaves.eq_2, if_pos hc]
  cases s.startSave f with
  | error x => rfl
  | ok t => exact State.startSaves.eq_1 t p v

/-- A write of SPSAVE that names no dirty page changes nothing (11 R261). -/
theorem State.startSaves_none (v : Word) (l : List Frame)
    (h : ∀ y ∈ l, y.key / 64 = p → v.getLsbD (y.key % 64) = true → y.resident = true → y.dirty = false) : s.startSaves p v l = .ok s := by
  induction l with
  | nil => rfl
  | cons f l ih =>
    unfold State.startSaves
    rw [if_neg, ih fun y hy => h y (List.mem_cons_of_mem _ hy)]
    rintro ⟨h1, h2, h3, h4⟩
    exact Bool.false_ne_true ((h f List.mem_cons_self h1 h2 h4).symm.trans h3)
end

end Sys2Proof.Machine
end

section
/-! The queue of an invalidation, translations that enter the caches, and writes at homes outside the Spires (10 R232, 11 R268-R272). -/
namespace Sys2Proof.Machine

/-! ### Fault rings (11 R271) -/

section
variable (s : State)

/-- Nothing is written to a ring that holds no record back. -/
theorem State.drainRing_idle (c n : Nat) (r : FaultRing) (hr : s.rings[c]? = some r) (hh : r.held = []) : s.drainRing c n = .ok s := by
  cases n with
  | zero => rfl
  | succ n =>
    unfold State.drainRing
    simp only [hr, hh]

/-- A change of a fault block that holds no record back changes the block alone. -/
theorem State.withRing_idle (c : Nat) (r : FaultRing) (f : FaultRing → FaultRing) (hr : s.rings[c]? = some r) (hh : (f r).held = []) :
    s.withRing c f = .ok { s with rings := s.rings.set c (f r) } := by
  unfold State.withRing
  rw [hr]
  exact State.drainRing_idle _ c _ (f r) (List.getElem?_set_self (List.getElem?_eq_some_iff.1 hr).1) hh

theorem State.updRing_idle (c : Nat) (r : FaultRing) (f : FaultRing → FaultRing) (hr : s.rings[c]? = some r) (hh : (f r).held = []) :
    s.updRing c f = .next { s with rings := s.rings.set c (f r) } := by
  unfold State.updRing
  rw [s.withRing_idle c r f hr hh]

/-- Rings that hold no record back are left as they are. -/
theorem State.drainRings_idle (h : ∀ r ∈ s.rings, r.held = []) : s.drainRings = .ok s := by
  have one (c : Nat) : s.withRing c id = .ok s := by
    cases hr : s.rings[c]? with
    | none =>
      unfold State.withRing
      rw [hr]
    | some r =>
      obtain ⟨hc, e⟩ := List.getElem?_eq_some_iff.1 hr
      rw [s.withRing_idle c r id hr (h r (List.mem_of_getElem? hr)), ← e]
      exact congrArg Except.ok (congrArg (fun x => { s with rings := x }) (List.set_getElem_self hc))
  unfold State.drainRings
  induction List.range Config.cupolas with
  | nil => rfl
  | cons c cs ih => exact (congrArg (cs.foldl _) (one c)).trans ih

/-- No link of an overflow list is written while no chunk is listed (13 R310). -/
theorem State.relink_idle (ctx : Nat) (h : s.overflow = []) : s.relink ctx = s := by
  unfold State.relink
  rw [h]
  cases s.context ctx with
  | none => rfl
  | some c => rfl

/-! ### Invalidation (11 R272) -/

/-- A change of the translation block of one die. -/
theorem State.updInv_eq (d : Nat) (y : InvBlock) (f : InvBlock → InvBlock) (h : s.invs[d]? = some y) :
    s.updInv d f = { s with invs := s.invs.set d (f y) } := by
  unfold State.updInv
  congr 1
  refine List.ext_getElem? fun i => ?_
  rw [List.getElem?_mapIdx, List.getElem?_set]
  by_cases hi : d = i
  · subst hi
    rw [h, if_pos rfl, if_pos (List.getElem?_eq_some_iff.1 h).1, Option.map_some, if_pos rfl]
  · simp [hi, Ne.symm hi]

/-- A write of INVCTL without go keeps its fields. -/
theorem State.writeInv_kept (d : Nat) (y : InvBlock) (v : Word) (h : s.invs[d]? = some y) (hb : y.busy = false) (hv : v.getLsbD 31 = false) :
    s.writeInv d y v = { s with invs := s.invs.set d { y with ctl := v &&& invMask } } := by
  obtain ⟨ctl, va, busy, queued, goVa⟩ := y
  obtain rfl : busy = false := hb
  unfold State.writeInv
  simp only [hv, Bool.false_eq_true, if_false]
  exact s.updInv_eq d _ _ h

/-- A write of INVCTL with go starts the invalidation, by INVVA as it stands. -/
theorem State.writeInv_go (d : Nat) (y : InvBlock) (v : Word) (h : s.invs[d]? = some y) (hv : v.getLsbD 31 = true) :
    s.writeInv d y v = { s.invalidate v y.va with invs := s.invs.set d { y with ctl := v &&& invMask, busy := true, goVa := y.va } } := by
  unfold State.writeInv
  simp only [hv, if_true]
  exact State.updInv_eq (s.invalidate v y.va) d y _ h

/-- With no store in flight nothing drains. -/
theorem State.drain_idle (p : Flight → Bool) (h : s.flight = []) : s.drain p = .ok s := by
  unfold State.drain
  rw [h]
  rfl

/-- An invalidation ends once no translated access is left and no store is in flight. -/
theorem execInvalidationComplete_ends (d page k : Nat) (y : InvBlock) (ha : s.arg = .nums d page k) (h : s.invs[d]? = some y)
    (hb : y.busy = true) (ht : ∀ h ∈ s.harts, h.translated = false) (hf : s.flight = []) :
    execInvalidationComplete s = .next ((s.invalidate y.ctl y.goVa).nextInv d y y.queued) := by
  have hn : s.harts.any Hart.translated = false := List.any_eq_false.2 fun x hx => by rw [ht x hx]; decide
  unfold execInvalidationComplete
  simp only [ha, h, hb, hn, State.drain_idle (s.invalidate y.ctl y.goVa) _ hf, Bool.not_true, Bool.or_self, Bool.false_eq_true, if_false]

theorem execInvalidationComplete_waits (d page k : Nat) (y : InvBlock) (ha : s.arg = .nums d page k) (h : s.invs[d]? = some y)
    (ht : ∃ h ∈ s.harts, h.translated = true) : execInvalidationComplete s = .next s := by
  have hn : s.harts.any Hart.translated = true := List.any_eq_true.2 ht
  unfold execInvalidationComplete
  simp only [ha, h, hn, Bool.or_true, if_true]

/-- With nothing queued the block goes idle. -/
theorem State.nextInv_idle (d : Nat) (y : InvBlock) (h : s.invs[d]? = some y) (hq : y.queued = []) :
    s.nextInv d y [] = { s with invs := s.invs.set d { y with busy := false } } := by
  unfold State.nextInv
  rw [s.updInv_eq d y _ h, ← hq]

/-- A queued write with go starts the next invalidation. -/
theorem State.nextInv_go (d : Nat) (y : InvBlock) (v : Word) (q : List Word) (h : s.invs[d]? = some y) (hb : y.busy = true)
    (hv : v.getLsbD 31 = true) : s.nextInv d y (v :: q) =
      { s.invalidate v y.va with invs := s.invs.set d { y with ctl := v &&& invMask, queued := q, goVa := y.va } } := by
  unfold State.nextInv
  simp only [hv, if_true, s.writeInv_go d y v h hv]
  rw [State.updInv_eq _ d _ _ (List.getElem?_set_self (List.getElem?_eq_some_iff.1 h).1)]
  simp only [List.set_set, hb]
end

/-! ### Translations that enter the caches (11 R268, R269) -/

section
variable {α : Type} (p : α → Bool) (n : Nat)

theorem mem_keepNewest_of_not (x : α) (l : List α) (hx : p x = false) (h : x ∈ l) : x ∈ keepNewest p n l := by
  induction l generalizing n with
  | nil => cases h
  | cons y l ih =>
    unfold keepNewest
    rcases List.mem_cons.1 h with rfl | h
    · rw [if_neg (by rw [hx]; decide)]
      exact List.mem_cons_self
    · split
      · split
        · exact ih _ h
        · exact List.mem_cons_of_mem _ (ih _ h)
      · exact List.mem_cons_of_mem _ (ih _ h)

theorem mem_keepNewest_head (x : α) (l : List α) (hn : 0 < n) : x ∈ keepNewest p n (x :: l) := by
  obtain ⟨m, rfl⟩ := Nat.exists_eq_succ_of_ne_zero (Nat.ne_of_gt hn)
  unfold keepNewest
  split
  · exact List.mem_cons_self
  · exact List.mem_cons_self
end

/-- An entry that enters a cache stands there, and one of another cache stays. -/
theorem State.mem_fillTlb (s : State) (e x : TlbEntry) (h : x = e ∨ x ∈ s.tlb ∧ x.place ≠ e.place) : x ∈ (s.fillTlb e).tlb := by
  rcases h with rfl | ⟨hx, hp⟩
  · unfold State.fillTlb
    dsimp only
    split
    · exact mem_keepNewest_head _ _ _ _ (by decide)
    · split
      · exact List.mem_cons_self
      · exact mem_keepNewest_head _ _ _ _ (by decide)
  · have other : (x.place == e.place) = false := beq_eq_false_iff_ne.2 hp
    have hm : x ∈ e :: s.tlb.filter fun y => y != e :=
      List.mem_cons_of_mem _ (List.mem_filter.2 ⟨hx, bne_iff_ne.2 fun c => hp (congrArg TlbEntry.place c)⟩)
    unfold State.fillTlb
    dsimp only
    split
    · exact mem_keepNewest_of_not _ _ _ _ other hm
    · split
      · exact hm
      · exact mem_keepNewest_of_not _ _ _ _ (by rw [other, Bool.false_and]) hm

/-- The entry of a leaf in one of the caches. -/
def Leaf.entry (l : Leaf) (ctx : Nat) (host : Bool) (pl : TlbPlace) : TlbEntry := ⟨pl, ctx, host, l.va, l.size, l.r, l.w, l.x, l.pa⟩

theorem State.mem_fillTlbs (l : Leaf) (ctx : Nat) (host : Bool) (pl : TlbPlace) (qs : List Nat) (s : State)
    (h : l.entry ctx host pl ∈ s.tlb ∨ ∃ q ∈ qs, pl = .spire q) :
    l.entry ctx host pl ∈ (qs.foldl (fun s q => s.fillTlb (l.entry ctx host (.spire q))) s).tlb := by
  induction qs generalizing s with
  | nil => simpa using h
  | cons q qs ih =>
    refine ih _ ?_
    by_cases hq : pl = .spire q
    · exact .inl (State.mem_fillTlb _ _ _ (.inl (by rw [hq])))
    · rcases h with h | ⟨r, hr, rfl⟩
      · exact .inl (State.mem_fillTlb _ _ _ (.inr ⟨h, hq⟩))
      · rcases List.mem_cons.1 hr with rfl | hr
        · exact absurd rfl hq
        · exact .inr ⟨r, hr, rfl⟩

section
variable (s : State) (p ctx : Nat) (host : Bool) (va : Nat) (l : Leaf) (nl : List NonLeaf)

/-- A miss that a leaf ends: it waits on a page of the leaf. -/
def Leaf.ends (m : Miss) : Prop := m.die = p / 64 ∧ m.ctx = ctx ∧ m.host = host ∧ l.va ≤ m.page * 4096 ∧ m.page * 4096 < l.va + l.size

/-- A walk that finds a leaf leaves its entry in the die's cache, the Spire's and those of the Spires whose misses it ends. -/
theorem State.mem_fillWalk (pl : TlbPlace)
    (h : pl = .spire p ∨ pl = .die (p / 64) ∨ ∃ m ∈ s.misses, ∃ q ∈ m.spires, pl = .spire q ∧ l.ends p ctx host m) :
    l.entry ctx host pl ∈ (s.fillWalk p ctx host va l nl).tlb := by
  unfold State.fillWalk
  refine State.mem_fillTlbs l ctx host pl _ _ ?_
  rcases h with rfl | rfl | ⟨m, hm, q, hq, rfl, h1, h2, h3, h4, h5⟩
  · exact .inr ⟨p, List.mem_eraseDups.2 (List.mem_append_right _ List.mem_cons_self), rfl⟩
  · exact .inl (State.mem_fillTlb _ _ _ (.inl rfl))
  · refine .inr ⟨q, List.mem_eraseDups.2 (List.mem_append_left _ (List.mem_flatMap.2 ⟨m, List.mem_filter.2 ⟨hm, ?_⟩, hq⟩)), rfl⟩
    simp [h1, h2, h3, h4, h5]

/-- A walk that finds a leaf ends the miss of its page. -/
theorem State.not_mem_fillWalk_misses (m : Miss) (hm : m ∈ (s.fillWalk p ctx host va l nl).misses) :
    ¬ (m.die = p / 64 ∧ m.ctx = ctx ∧ m.host = host ∧ m.page = va / 4096) := by
  rintro ⟨h1, h2, h3, h4⟩
  have := (List.mem_filter.1 hm).2
  simp [h1, h2, h3, h4] at this
end

/-! ### Writes at homes outside the Spires -/

section
variable (s : State) (o : Origin) (k : Option HartId) (u : StoreUnit)

/-- A unit within one word is written at once. -/
theorem State.writeAll_word (h : u.loc.off % 8 + u.bytes.length ≤ 8) : s.writeAll o k u = s.write o k u := by
  have one : u.cut 8 u.bytes.length = [u] := by
    cases hn : u.bytes.length with
    | zero => rfl
    | succ n =>
      unfold StoreUnit.cut
      dsimp only
      rw [if_pos (by omega)]
  unfold State.writeAll
  rw [one]
  rfl

/-- A write of device memory changes its bytes and breaks links. -/
theorem State.writeAll_dev_frame (a : Nat) (hl : u.loc = .dev a) :
    ∃ x ls os, s.writeAll o k u = { s with dev := x, hart := { s.hart with links := ls }, others := os } := by
  refine State.writeAll_induct o k (fun u s t => ∀ a, u.loc = .dev a →
    ∃ x ls os, t = { s with dev := x, hart := { s.hart with links := ls }, others := os }) ?_ ?_ s u a hl
  · rintro s ⟨l, va, bs, bad, lg⟩ - a rfl
    have hl : ∃ ls, (s.breakLinks (.line (a / 64)) k).hart = { s.hart with links := ls } := by
      show ∃ ls, (if some s.hart.id = k then s.hart else _) = _
      split
      · exact ⟨s.hart.links, rfl⟩
      · exact ⟨_, rfl⟩
    have hlog (t : State) : ∃ x, t.logStore o va = { t with dev := x } := by
      unfold State.logStore
      split
      · exact ⟨t.dev, rfl⟩
      · exact ⟨_, rfl⟩
    obtain ⟨ls, e⟩ := hl
    cases lg with
    | false => exact ⟨_, ls, _, by rw [← e]; rfl⟩
    | true =>
      obtain ⟨x, ex⟩ := hlog { s.breakLinks (.line (a / 64)) k with dev := s.dev.store a bs bad }
      exact ⟨x, ls, _, by rw [← e]; exact ex⟩
  · intro s t v u n e hlt h1 h2 a hl
    obtain ⟨x, ls, os, rfl⟩ := h1 a hl
    obtain ⟨x', ls', os', rfl⟩ := h2 (a + n) (by rw [hl]; rfl)
    exact ⟨x', ls', os', rfl⟩

/-- A write of device memory whose store sets no dirty-log bit is one store. -/
theorem State.write_dev (a : Nat) (hl : u.loc = .dev a)
    (hn : u.log = false ∨ State.logBit { s with dev := s.dev.store a u.bytes u.bad } o u.va = none) :
    (s.write o k u).dev = s.dev.store a u.bytes u.bad := by
  obtain ⟨l, va, bs, bad, lg⟩ := u
  obtain rfl : l = .dev a := hl
  cases lg with
  | false => rfl
  | true =>
    have hn : State.logBit { s.breakLinks (.line (a / 64)) k with dev := s.dev.store a bs bad } o va = none :=
      hn.resolve_left Bool.noConfusion
    show (State.logStore { s.breakLinks (.line (a / 64)) k with dev := s.dev.store a bs bad } o va).dev = _
    unfold State.logStore
    rw [hn]
end

/-- A store beside n bytes leaves the number that they hold. -/
theorem Mem.getN_store (m : Mem) (a n b : Nat) (bs : List Byte) (bad : Bool) (hw : m.wf = true) (h : b + bs.length ≤ a ∨ a + n ≤ b) :
    (m.store b bs bad).getN a n = m.getN a n := by
  have bytes : (m.store b bs bad).getBytes a n = m.getBytes a n := by
    induction n generalizing a with
    | zero => rfl
    | succ n ih =>
      unfold Mem.getBytes
      rw [ih (a + 1) (by omega), Mem.get_store _ _ _ _ _ hw, if_neg (by omega)]
  exact congrArg ofBytes bytes

/-- With no CTXDESC in force, the descriptor is that of the context itself (11 R273). -/
theorem State.descWord_of_context (s : State) (o : Origin) (n : Nat) (h : s.ctxdesc = []) :
    s.descWord o n = s.dev.getN (s.descOf o.ctx + 8 * n) 8 := by
  unfold State.descWord State.descAt
  rw [h]
  rfl

/-- A store beside the flags of a context's descriptor leaves the dirty log off (11 R274). -/
theorem State.logBit_off (s : State) (o : Origin) (va a : Nat) (bs : List Byte) (bad : Bool) (hw : s.dev.wf = true) (hc : s.ctxdesc = [])
    (hd : a + bs.length ≤ s.descOf o.ctx ∨ s.descOf o.ctx + 8 ≤ a) (h0 : s.descWord o 0 / 2 ^ 16 % 2 = 0) :
    State.logBit { s with dev := s.dev.store a bs bad } o va = none := by
  have same : State.descWord { s with dev := s.dev.store a bs bad } o 0 = s.descWord o 0 := by
    have keep := Mem.getN_store s.dev (s.descOf o.ctx + 8 * 0) 8 a bs bad hw (by omega)
    exact (State.descWord_of_context { s with dev := s.dev.store a bs bad } o 0 hc).trans (keep.trans (s.descWord_of_context o 0 hc).symm)
  unfold State.logBit
  dsimp only
  rw [same, if_neg]
  rintro ⟨hb, -⟩
  have off : bitAt (s.descWord o 0) 16 = false := by
    unfold bitAt
    rw [h0]
    rfl
  rw [off] at hb
  cases hb

end Sys2Proof.Machine
end

section
/-! The steps of pages, translation, stores in flight and the host's accesses (05 R137, 10 R230-R233, R249, 11 R256-R272, 16 R372). -/
namespace Sys2Proof.Machine

/-! ### Pages -/

section
variable (s : State) (p page k : Nat) (f : Frame)

theorem execPageRestoreComplete_found (own : Nat × Nat) (ha : s.arg = .nums p page k)
    (hf : s.frames.find? (fun y => y.key == p * 64 + page) = some f) (hr : f.restore = some own) :
    exec .pageRestoreComplete s = s.outcome (s.restorePage f own) := by
  rw [exec_pageRestoreComplete]
  unfold execPageRestoreComplete
  simp only [ha, hf, hr]

theorem execSpsaveComplete_asked (ha : s.arg = .nums p page k) (hf : s.frames = [f]) (hk : f.key = p * 64 + page)
    (hq : f.asked = true) (hd : f.dirty = true) (hr : f.resident = true) : exec .spsaveComplete s = s.outcome (s.startSave f) := by
  have found : s.frames.find? (fun y => y.key == p * 64 + page && y.asked && y.dirty && y.resident) = some f := by
    rw [hf, List.find?_cons_of_pos]
    simp [hk, hq, hd, hr]
  rw [exec_spsaveComplete]
  unfold execSpsaveComplete
  simp only [ha, found]

theorem execSpsaveComplete_ends (ha : s.arg = .nums p page k)
    (h : ∀ y ∈ s.frames, y.key = p * 64 + page → y.asked = true → y.dirty = true → y.resident = false) :
    exec .spsaveComplete s = .next (s.updFrame (p * 64 + page) fun y => { y with save := false, asked := false }) := by
  have none' : s.frames.find? (fun y => y.key == p * 64 + page && y.asked && y.dirty && y.resident) = none := by
    refine List.find?_eq_none.2 fun y hy c => ?_
    simp only [Bool.and_eq_true, beq_iff_eq] at c
    obtain ⟨⟨⟨hk, hq⟩, hd⟩, hr⟩ := c
    exact Bool.false_ne_true ((h y hy hk hq hd).symm.trans hr)
  rw [exec_spsaveComplete]
  unfold execSpsaveComplete
  simp only [ha, none']

theorem execSpsave_value (v : Word) (ha : s.arg = .value p v) : exec .spsave s = s.outcome (s.startSaves p v s.frames) := by
  rw [exec_spsave]
  unfold execSpsave
  simp only [ha]

/-- A step that starts the save of the only frame takes the page to its backing, or leaves the request (11 R261, log 43). -/
theorem State.saves_only (i : Instr) (b : Nat × Nat) (e : exec i s = s.outcome (s.startSave f)) (hs : s.memOk) (hf : s.frames = [f])
    (hk : f.key = p * 64 + page) (hp : page < 64) (hb : s.backing f.ctx f.lsid page p = b) :
    (s.devFree p b.1 32768 = .ok () → s.devFree p b.2 512 = .ok () → (b.1 + 32768 ≤ b.2 ∨ b.2 + 512 ≤ b.1) →
      ∃ t, exec i s = .next t ∧ t.frames = [{ f with dirty := false, save := true, asked := false }] ∧ t.spad = s.spad
        ∧ (∀ j, j < 32768 → t.dev.get (b.1 + j) = s.spad.get (frameAt p page + j))
        ∧ ∀ a, (a < b.1 ∨ b.1 + 32768 ≤ a) → (a < b.2 ∨ b.2 + 512 ≤ a) → t.dev.get a = s.dev.get a)
    ∧ (s.devFree p b.1 32768 = .error .wait → exec i s = .next { s with frames := [{ f with asked := true }] })
    ∧ (∀ line, s.devFree p b.1 32768 = .error (.hold line) →
        exec i s = .next { s.snoop line with frames := [{ f with asked := true }] }) := by
  obtain ⟨taken, waits, held⟩ := s.startSave_only p page f b hs hf hk hp hb
  refine ⟨fun h1 h2 hdis => ?_, fun h1 => ?_, fun line h1 => ?_⟩
  · obtain ⟨t, et, rest⟩ := taken h1 h2 hdis
    exact ⟨t, e.trans (congrArg s.outcome et), rest⟩
  · exact e.trans (congrArg s.outcome (waits h1))
  · exact e.trans (congrArg s.outcome (held line h1))

/-- PAGE_RESTORE_COMPLETE brings the page of the new owner from its backing (11 R259). -/
theorem State.restores (own b : Nat × Nat) (ha : s.arg = .nums p page k) (hp : page < 64)
    (hf : s.frames.find? (fun y => y.key == p * 64 + page) = some f) (hr : f.restore = some own) (hd : (f.dirty && f.resident) = false)
    (hb : s.backing own.1 own.2 page p = b) (h1 : b.1 + 32768 ≤ Config.devEnd) (h2 : b.2 + 512 ≤ Config.devEnd)
    (n1 : s.farFrom p (.dev b.1) 32768 = false) (n2 : s.farFrom p (.dev b.2) 512 = false) :
    ∃ t, exec .pageRestoreComplete s = .next t ∧ t.resident p (page * 32768) own.1 own.2 = true ∧ t.dev = s.dev ∧ t.sdm = s.sdm
      ∧ (∀ i, i < 32768 → t.spad.get (frameAt p page + i) = s.dev.get (b.1 + i))
      ∧ ∀ a, (a < frameAt p page ∨ frameAt p page + 32768 ≤ a) → t.spad.get a = s.spad.get a := by
  have hk : f.key = p * 64 + page := eq_of_beq (List.find?_some (p := fun y : Frame => y.key == p * 64 + page) hf)
  obtain ⟨t, et, res, dev, sdm, spad⟩ := s.restorePage_ok p page f own b (List.mem_of_find?_eq_some hf) hk hp hd hb h1 h2 n1 n2
  refine ⟨t, (execPageRestoreComplete_found s p page k f own ha hf hr).trans (congrArg s.outcome et), res, dev, sdm, fun i hi => ?_,
    fun a h => ?_⟩
  · rw [spad, Mem.get_copyRange, if_pos (by omega), Nat.add_sub_cancel_left]
  · rw [spad, Mem.get_copyRange, if_neg (by omega)]
end

/-! ### Registers of fault rings, and invalidation -/

section
variable (s : State) (d : Nat) (y : InvBlock)

theorem execFqbaseWrite_value (c : Nat) (v : Word) (ha : s.arg = .value c v) :
    exec .fqbaseWrite s = s.updRing c fun r => { r with base := v &&& ~~~0x1FFF#64 } := by
  rw [exec_fqbaseWrite]
  unfold execFqbaseWrite
  simp only [ha]

theorem execFqheadWrite_value (c : Nat) (v : Word) (ha : s.arg = .value c v) :
    exec .fqheadWrite s = s.updRing c fun r => { r with head := v.setWidth 8 } := by
  rw [exec_fqheadWrite]
  unfold execFqheadWrite
  simp only [ha]

/-- A write of INVCTL: queued while the block is busy, else taken. -/
theorem execInvctlGo_value (v : Word) (ha : s.arg = .value d v) (h : s.invs[d]? = some y) :
    exec .invctlGo s = .next (if y.busy then { s with invs := s.invs.set d { y with queued := y.queued ++ [v] } } else s.writeInv d y v) := by
  rw [exec_invctlGo]
  unfold execInvctlGo
  simp only [ha, h, s.updInv_eq d y _ h]

/-- The writes of INVCTL (11 R272). -/
theorem State.invctl_writes (v : Word) (ha : s.arg = .value d v) (h : s.invs[d]? = some y) :
    (y.busy = true → exec .invctlGo s = .next { s with invs := s.invs.set d { y with queued := y.queued ++ [v] } })
    ∧ (y.busy = false → v.getLsbD 31 = false → exec .invctlGo s = .next { s with invs := s.invs.set d { y with ctl := v &&& invMask } })
    ∧ (y.busy = false → v.getLsbD 31 = true → exec .invctlGo s =
        .next { s.invalidate v y.va with invs := s.invs.set d { y with ctl := v &&& invMask, busy := true, goVa := y.va } }) := by
  have e := execInvctlGo_value s d y v ha h
  refine ⟨fun hb => ?_, fun hb hv => ?_, fun hb hv => ?_⟩
  · exact e.trans (congrArg Host.Outcome.next (if_pos hb))
  · exact e.trans (congrArg Host.Outcome.next ((if_neg (by rw [hb]; decide)).trans (s.writeInv_kept d y v h hb hv)))
  · exact e.trans (congrArg Host.Outcome.next ((if_neg (by rw [hb]; decide)).trans (s.writeInv_go d y v h hv)))

/-- The end of an invalidation: it waits for translated accesses, and takes what is queued (11 R272). -/
theorem State.invalidation_ends (page k : Nat) (ha : s.arg = .nums d page k) (h : s.invs[d]? = some y) (hb : y.busy = true) :
    ((∃ h ∈ s.harts, h.translated = true) → exec .invalidationComplete s = .next s)
    ∧ ((∀ h ∈ s.harts, h.translated = false) → s.flight = [] →
      (y.queued = [] → exec .invalidationComplete s =
        .next { s.invalidate y.ctl y.goVa with invs := s.invs.set d { y with busy := false } })
      ∧ (∀ z zs, y.queued = z :: zs → z.getLsbD 31 = true → ∃ t, exec .invalidationComplete s = .next t
          ∧ t.invs = s.invs.set d { y with ctl := z &&& invMask, queued := zs, goVa := y.va } ∧ t.dev = s.dev)) := by
  refine ⟨fun ht => execInvalidationComplete_waits s d page k y ha h ht, fun ht hf => ?_⟩
  have e : exec .invalidationComplete s = _ := execInvalidationComplete_ends s d page k y ha h hb ht hf
  refine ⟨fun hq => ?_, fun z zs hq hz => ?_⟩
  · exact e.trans (congrArg Host.Outcome.next
      ((congrArg (State.nextInv _ d y) hq).trans (State.nextInv_idle (s.invalidate y.ctl y.goVa) d y h hq)))
  · rw [hq, State.nextInv_go (s.invalidate y.ctl y.goVa) d y z zs h hb hz] at e
    exact ⟨_, e, rfl, rfl⟩
end

/-! ### A walk -/

/-- TRANSLATION_WALK without a cached translation: the answer of the walk (11 R268). -/
theorem State.walks (s : State) (p ctx : Nat) (host : Bool) (v : Word) (root : Nat) (ha : s.arg = .walk p ctx host v) (hp : p < 512)
    (hv : v.toNat < 2 ^ 48) (hr : s.rootOf p ctx host = some root)
    (hc : ∀ e ∈ s.tlb, e.place = .die (p / 64) → e.covers ctx host v.toNat = false) :
    (∀ l, s.walk p ctx host root v.toNat = .ok l → exec .translationWalk s =
      .next (s.fillWalk p ctx host v.toNat l (walkTables s.dev root v.toNat l.size (p / 64) ctx host)))
    ∧ (s.walk p ctx host root v.toNat = .error .away → exec .translationWalk s = .next s)
    ∧ (∀ e, e ≠ .away → s.walk p ctx host root v.toNat = .error e → exec .translationWalk s = .next (s.endMiss p ctx host v.toNat)) := by
  have cached : s.tlb.find? (fun e => e.place == .die (p / 64) && e.covers ctx host v.toNat) = none := by
    refine List.find?_eq_none.2 fun e he c => ?_
    simp only [Bool.and_eq_true, beq_iff_eq] at c
    exact Bool.false_ne_true ((hc e he c.1).symm.trans c.2)
  have range : ¬ (2 ^ 48 ≤ v.toNat ∨ Config.spires ≤ p) := by
    rintro (h | h)
    · omega
    · exact absurd hp (Nat.not_lt.2 h)
  rw [exec_translationWalk]
  unfold execTranslationWalk
  simp only [ha, if_neg range, cached, hr]
  refine ⟨fun l e => ?_, fun e => ?_, fun x hx e => ?_⟩
  · rw [e]
  · rw [e]
  · rw [e]
    cases x with
    | away => exact absurd rfl hx
    | _ => rfl

/-! ### Stores in flight -/

section
variable (s : State) (k page p : Nat) (x : Flight)

/-- An accepted store reaches the order point of its Cupola (10 R230). -/
theorem State.lifts (ha : s.arg = .nums k 1 p) (hx : s.flight[k]? = some x) (hl : x.level = 0)
    (h : ∀ y ∈ s.flight.take k, (y.level == 0 && y.phys == x.phys && y.clash x) = false) :
    exec .storeWrittenAtHome s = .next { s with flight := s.flight.eraseIdx k ++ [{ x with level := 1 }] } := by
  have free : ¬ (x.level = 1 ∨ ((s.flight.take k).any fun y => y.level == 0 && y.phys == x.phys && y.clash x) = true) := by
    rintro (c | c)
    · omega
    · obtain ⟨y, hy, c⟩ := List.any_eq_true.1 c
      exact Bool.false_ne_true ((h y hy).symm.trans c)
  rw [exec_storeWrittenAtHome]
  unfold execStoreWrittenAtHome
  simp only [ha, hx, if_neg free, if_true]

/-- An accepted store that nothing holds up is written at its home (10 R232). -/
theorem State.lands (u : StoreUnit) (ha : s.arg = .nums k 0 p) (hx : s.flight[k]? = some x) (hu : x.units = [u])
    (hb : s.blocked x = false) (hf : x.far s = false) (hh : s.hostHolds x.origin u = none) :
    exec .storeWrittenAtHome s = .next (State.writeAll { s with flight := s.flight.erase x } x.origin none u) := by
  have held : [u].findSome? (fun u => s.hostHolds x.origin u) = none := by
    rw [List.findSome?_cons, hh]
    rfl
  rw [exec_storeWrittenAtHome]
  unfold execStoreWrittenAtHome State.land
  simp only [ha, hx, hb, hf, held, Bool.or_self, Bool.false_eq_true, if_false, hu, List.foldl_cons, List.foldl_nil,
    show ¬ (0 = 1) by decide]

/-- The completion of a HOST store that no earlier one holds up writes it (16 R372). -/
theorem State.hostStoreCompletes (a : Nat) (u : StoreUnit) (ha : s.arg = .nums k page p) (hx : s.hostOut[k]? = some x)
    (h : ∀ y ∈ s.hostOut.take k, y.clash x = false) (hu : x.units = [u]) (hl : u.loc = .host a) (h8 : a % 8 + u.bytes.length ≤ 8) :
    exec .hostStoreCompletion s = .next { s with hostOut := s.hostOut.eraseIdx k, host := s.host.store a u.bytes u.bad } := by
  have free : ((s.hostOut.take k).any fun y => y.clash x) = false :=
    List.any_eq_false.2 fun y hy => by rw [h y hy]; decide
  rw [exec_hostStoreCompletion]
  unfold execHostStoreCompletion State.land
  simp only [ha, hx, free, Bool.false_eq_true, if_false, hu, List.foldl_cons, List.foldl_nil]
  rw [State.writeAll_word _ _ _ _ (by rw [hl]; exact h8)]
  unfold State.write
  simp only [hl, Loc.granule]
end

/-! ### The host -/

section
variable (s : State)

/-- The host's access of a device line: it may hold the line from then on (16 R372). -/
theorem State.hostAccesses (y : HostAccess) (ha : s.arg = .hostAccess y) (h64 : y.addr % 64 + y.bytes.length ≤ 64)
    (hn : y.addr + y.bytes.length ≤ Config.devEnd) (hd : y.addr < Config.devEnd) (hc : s.copying y.addr y.bytes.length = false) :
    ∃ t, exec .hostCxlMemAccess s = .next t ∧ y.addr / 64 ∈ t.hostLines ∧ t.spad = s.spad ∧ t.host = s.host ∧ t.sdm = s.sdm
      ∧ t.dev = if y.write then s.dev.store y.addr y.bytes y.poison else s.dev := by
  have range : ¬ (Config.devEnd < y.addr + y.bytes.length ∨ 64 < y.addr % 64 + y.bytes.length ∨ Config.devEnd ≤ y.addr
      ∨ s.copying y.addr y.bytes.length = true) := by
    rintro (c | c | c | c)
    · exact Nat.not_lt.2 hn c
    · exact Nat.not_lt.2 h64 c
    · exact Nat.not_lt.2 c hd
    · rw [hc] at c
      cases c
  have line : y.addr / 64 ∈ if s.hostLines.contains (y.addr / 64) then s.hostLines else insertNat (y.addr / 64) s.hostLines := by
    split
    · rename_i h
      exact List.contains_iff_mem.1 h
    · exact (insertNat_mem _ _ _).2 (.inl rfl)
  rw [exec_hostCxlMemAccess]
  unfold execHostCxlMemAccess
  simp only [ha, if_neg range]
  cases y.write with
  | false => exact ⟨_, rfl, line, rfl, rfl, rfl, rfl⟩
  | true => exact ⟨_, rfl, line, rfl, rfl, rfl, rfl⟩

/-- The host gives up a line that no record and no link waits for (16 R372). -/
theorem State.hostReleases (line a b : Nat) (ha : s.arg = .nums line a b) (hl : line ∈ s.backInv) (hr : ∀ r ∈ s.rings, r.held = [])
    (ho : s.overflow = []) : exec .backInvalidateResponse s =
      .next { s with backInv := s.backInv.filter fun y => y != line, hostLines := s.hostLines.filter fun y => y != line } := by
  have links (t : State) (cs : List Context) (h : t.overflow = []) : cs.foldl (fun t c => t.relink c.id) t = t := by
    induction cs with
    | nil => rfl
    | cons c cs ih => rw [List.foldl_cons, t.relink_idle c.id h, ih]
  have rings := State.drainRings_idle { s with
    backInv := s.backInv.filter fun y => y != line, hostLines := s.hostLines.filter fun y => y != line } hr
  rw [exec_backInvalidateResponse]
  unfold execBackInvalidateResponse
  rw [ha] at rings ⊢
  simp only [List.contains_iff_mem.2 hl, if_true, rings]
  exact congrArg Host.Outcome.next (links _ _ ho)

theorem execLinkReservationExpiry_granule (g : Granule) (ha : s.arg = .granule g) : exec .linkReservationExpiry s =
    .next { s with reservations := s.reservations.filter fun r => !(r.g == g && r.left == 0) } := by
  rw [exec_linkReservationExpiry]
  unfold execLinkReservationExpiry
  simp only [ha]

theorem execPatrolScrub_scrub (g : ScrubSite) (bad : Bool) (ha : s.arg = .scrub g bad) :
    exec .patrolScrub s = .next (if bad then s.spoil g else s.corrected g) := by
  rw [exec_patrolScrub]
  unfold execPatrolScrub
  simp only [ha]

/-- A word of a scratchpad that cannot be corrected is poisoned, and its links break (10 R249). -/
theorem State.spoil_spad (p w : Nat) : (s.spoil (.spad p w)).spad.cells = s.spad.cells ∧ (s.spoil (.spad p w)).dev = s.dev
    ∧ (s.spoil (.spad p w)).spad.isBad (p * 2 ^ 21 + 8 * w) = true
    ∧ ∀ l ∈ (s.spoil (.spad p w)).hart.links, l.g = .spad p w → l.intact = false := by
  refine ⟨rfl, rfl, ?_, ?_⟩
  · show (insertNat (p * 2 ^ 18 + w) s.spad.bad).contains ((p * 2 ^ 21 + 8 * w) / 8) = true
    rw [show (p * 2 ^ 21 + 8 * w) / 8 = p * 2 ^ 18 + w by omega]
    exact List.contains_iff_mem.2 ((insertNat_mem _ _ _).2 (.inl rfl))
  · show ∀ l ∈ s.hart.links.map fun l => if l.g = .spad p w then { l with intact := false } else l, _
    intro l hl hg
    obtain ⟨x, -, rfl⟩ := List.mem_map.1 hl
    by_cases hx : x.g = .spad p w
    · rw [if_pos hx]
    · rw [if_neg hx] at hg
      exact absurd hg hx
end

end Sys2Proof.Machine
end

section
/-! The steps of memory and translation together (O57). -/
namespace Sys2Proof.Machine

/-- An accepted store that nothing holds up changes the device memory at its home: when it lies in a word and sets no dirty-log bit, its
own bytes alone (10 R232, 11 R274). -/
theorem State.lands_dev (s : State) (k p : Nat) (x : Flight) (u : StoreUnit) (a : Nat) (hs : s.memOk) (ha : s.arg = .nums k 0 p)
    (hx : s.flight[k]? = some x) (hu : x.units = [u]) (hl : u.loc = .dev a) (hb : s.blocked x = false) (hf : x.far s = false)
    (hh : s.hostHolds x.origin u = none) :
    ∃ t, exec .storeWrittenAtHome s = .next t ∧ t.flight = s.flight.erase x ∧ t.spad = s.spad ∧ t.sdm = s.sdm ∧ t.host = s.host
      ∧ (a % 8 + u.bytes.length ≤ 8 →
          u.log = false ∨ (s.ctxdesc = [] ∧ (a + u.bytes.length ≤ s.descOf x.origin.ctx ∨ s.descOf x.origin.ctx + 8 ≤ a)
            ∧ s.descWord x.origin 0 / 2 ^ 16 % 2 = 0) →
          t.dev = s.dev.store a u.bytes u.bad) := by
  have e := s.lands k p x u ha hx hu hb hf hh
  obtain ⟨m, ls, os, ew⟩ := State.writeAll_dev_frame { s with flight := s.flight.erase x } x.origin none u a hl
  rw [ew] at e
  refine ⟨_, e, rfl, rfl, rfl, rfl, fun h8 hlog => ?_⟩
  rw [State.writeAll_word _ _ _ _ (by rw [hl]; exact h8)] at ew
  refine (congrArg State.dev ew).symm.trans (State.write_dev { s with flight := s.flight.erase x } x.origin none u a hl ?_)
  refine hlog.imp_right fun ⟨hc, hd, h0⟩ => ?_
  exact State.logBit_off { s with flight := s.flight.erase x } x.origin u.va a u.bytes u.bad hs.1 hc hd h0

/-- A walk that finds a leaf leaves its entries and ends its misses, and no memory changes (11 R268, R269). -/
theorem State.walks_leaf (s : State) (p ctx : Nat) (host : Bool) (va : Nat) (l : Leaf) (nl : List NonLeaf) (i : Instr)
    (e : exec i s = .next (s.fillWalk p ctx host va l nl)) : ∃ t, exec i s = .next t ∧ t.dev = s.dev
      ∧ (∀ pl, pl = .spire p ∨ pl = .die (p / 64) ∨ (∃ m ∈ s.misses, ∃ q ∈ m.spires, pl = .spire q ∧ l.ends p ctx host m) →
          l.entry ctx host pl ∈ t.tlb)
      ∧ ∀ m ∈ t.misses, ¬ (m.die = p / 64 ∧ m.ctx = ctx ∧ m.host = host ∧ m.page = va / 4096) :=
  ⟨_, e, (fillWalk_sameMem s p ctx host va l nl).1, fun pl h => s.mem_fillWalk p ctx host va l nl pl h,
    fun m hm => s.not_mem_fillWalk_misses p ctx host va l nl m hm⟩

/-- Settles O57: a clause per step, each the statement about that step. -/
theorem memoryStepsComplete : Obligations.MemoryStepsComplete := by
  unfold Obligations.MemoryStepsComplete
  intro p page k v g f own x s hs
  have saves (i : Instr) (e : s.frames = [f] → f.key = p * 64 + page → f.dirty = true → f.resident = true →
      exec i s = s.outcome (s.startSave f)) (hf : s.frames = [f]) (hk : f.key = p * 64 + page) (hp : page < 64)
      (ho : own = (f.ctx, f.lsid)) (hd : f.dirty = true) (hr : f.resident = true) :=
    s.saves_only p page f i (s.backing own.1 own.2 page p) (e hf hk hd hr) hs hf hk hp (by rw [ho])
  refine ⟨?pages, ?registers, ?invalidation, ?walk, ?store, ?hostStore, ?access, ?release, ?reservation, ?snoop, ?scrub, ?register, ?word⟩
  case pages =>
    intro ha hp
    refine ⟨fun hf hr hd hin n1 n2 => s.restores p page k f own _ ha hp hf hr hd rfl hin.1 hin.2 n1 n2, fun hq => ?_, fun h => ?_⟩
    · exact saves .spsaveComplete fun hf hk hd hr => execSpsaveComplete_asked s p page k f ha hf hk hq hd hr
    · exact execSpsaveComplete_ends s p page k ha h
  case registers =>
    intro ha
    have e := execSpsave_value s p v ha
    refine ⟨fun h => e.trans (congrArg s.outcome (s.startSaves_none p v s.frames h)), fun hv => ?_, fun r hr hh => ⟨?_, ?_⟩,
      fun y hy => s.invctl_writes p y v ha hy⟩
    · exact fun hf hk hp => saves .spsave (fun hf hk hd hr => e.trans (congrArg s.outcome
        ((congrArg (s.startSaves p v) hf).trans (s.startSaves_only p page f v hk hp hv hd hr)))) hf hk hp
    · exact (execFqbaseWrite_value s p v ha).trans (s.updRing_idle p r _ hr hh)
    · exact (execFqheadWrite_value s p v ha).trans (s.updRing_idle p r _ hr hh)
  case invalidation => exact fun y ha hy hb => s.invalidation_ends p y page k ha hy hb
  case walk =>
    intro host root ha hp hv hr hc
    obtain ⟨leaf, away, fault⟩ := s.walks p k host v root ha hp hv hr hc
    exact ⟨fun l hl => s.walks_leaf p k host v.toNat l _ _ (leaf l hl), away, fault⟩
  case store =>
    intro u ha hx hu
    refine ⟨fun hp hl h => ?_, fun a hp hl hb hf hh => ?_⟩
    · subst hp
      exact s.lifts k p x ha hx hl h
    · subst hp
      exact s.lands_dev k p x u a hs ha hx hu hl hb hf hh
  case hostStore => exact fun a u ha hx h hu hl h8 => s.hostStoreCompletes k page p x a u ha hx h hu hl h8
  case access => exact fun y ha h64 hn hd hc => s.hostAccesses y ha h64 hn hd hc
  case release => exact fun ha hl hr ho => s.hostReleases k page p ha hl hr ho
  case reservation => exact fun ha => execLinkReservationExpiry_granule s g ha
  case snoop => exact exec_hostSnoop s
  case scrub =>
    intro site ha
    have e := execPatrolScrub_scrub s site false ha
    refine ⟨fun h => e.trans ?_, fun w hw => ?_⟩
    · cases site with
      | dev w => exact absurd rfl (h w)
      | _ => rfl
    · subst hw
      exact e
  case register => exact fun i r ha => execPatrolScrub_scrub s _ true ha
  case word => exact fun ha => ⟨_, execPatrolScrub_scrub s _ true ha, s.spoil_spad p k⟩

end Sys2Proof.Machine
end

section
/-! Flags in element order, and the ends of a vector instruction without attached streams (01 R25, 06 R143, R145): its effect on the hart,
or the trap of the first element that raises an enabled flag. -/
namespace Sys2Proof.Machine

/-! ### Flags in element order -/

/-- Flags of which none is enabled are all set (01 R25). -/
theorem Hart.raiseAll_quiet (h : Hart) (l : List (Nat × FlagSet)) (hq : ∀ x ∈ l, h.enabledOf x.2 = 0) :
    h.raiseAll l = .ok (h.orFlags (anyFlag (l.map (·.2)))) := by
  have key : ∀ (l : List (Nat × FlagSet)) (g : FlagSet), (∀ x ∈ l, h.enabledOf x.2 = 0) →
      (h.orFlags g).raiseAll l = .ok (h.orFlags ((l.map (·.2)).foldl (fun a f => a ||| f) g)) := by
    intro l
    induction l with
    | nil => exact fun _ _ => rfl
    | cons x t ih =>
      intro g hq
      have hx : (h.orFlags g).raise x.2 x.1 = .ok (h.orFlags (g ||| x.2)) := by
        rw [← h.orFlags_orFlags]
        exact if_pos (hq x List.mem_cons_self)
      rw [List.map_cons, List.foldl_cons, ← ih (g ||| x.2) fun y hy => hq y (List.mem_cons_of_mem x hy), Hart.raiseAll, hx]
  have := key l 0 hq
  rwa [h.orFlags_zero] at this

/-- The first element that raises an enabled flag traps (01 R25, 06 R145). -/
theorem Hart.raiseAll_first (l : List (Nat × FlagSet)) : ∀ (h : Hart) (x : Nat × FlagSet),
    l.find? (fun y => h.enabledOf y.2 != 0) = some x →
    h.raiseAll l = .error (.trap (if h.enabledOf x.2 &&& 0x003F#16 = 0 then 0x0C else 0x0B) x.1 none) := by
  induction l with
  | nil =>
    intro h x hx
    cases hx
  | cons y t ih =>
    intro h x hx
    by_cases hy : h.enabledOf y.2 = 0
    · have ok : h.raise y.2 y.1 = .ok (h.orFlags y.2) := if_pos hy
      rw [List.find?_cons_of_neg (by simp [hy])] at hx
      rw [Hart.raiseAll, ok]
      exact ih (h.orFlags y.2) x hx
    · have trap : h.raise y.2 y.1 = .error (.trap (flagCause (h.enabled y.2)) y.1 none) := if_neg hy
      rw [List.find?_cons_of_pos (by exact bne_iff_ne.2 hy)] at hx
      cases hx
      rw [Hart.raiseAll, trap]
      rfl

/-- The flags of the active elements in order: none of one whose result is poisoned (02 R52, 06 R145). -/
def Hart.elementFlags (h : Hart) (m : MIdx) (f : Nat → Elt × FlagSet) : List (Nat × FlagSet) :=
  (h.active m).map fun i => (i, if (f i).1.bad then 0 else (f i).2)

theorem Hart.elementFlags_quiet (h : Hart) (m : MIdx) (f : Nat → Elt × FlagSet) :
    (∀ x ∈ h.elementFlags m f, h.enabledOf x.2 = 0) ↔ h.quiet m f := by
  unfold Hart.elementFlags Hart.quiet
  rw [List.forall_mem_map]
  exact forall_congr' fun j => imp_congr (mem_active h m j) Iff.rfl

theorem Hart.anyFlag_elementFlags (h : Hart) (m : MIdx) (f : Nat → Elt × FlagSet) :
    anyFlag ((h.elementFlags m f).map (·.2)) = h.flagsOf m f := by
  unfold Hart.elementFlags
  rw [List.map_map]
  rfl

/-- The lowest active element that raises an enabled flag is the first of the list that does. -/
theorem Hart.elementFlags_first (h : Hart) (m : MIdx) (f : Nat → Elt × FlagSet) (j : Nat) (hj : h.writes m j) (he : h.trapFlags (f j) ≠ 0)
    (hmin : ∀ k, k < j → h.writes m k → h.trapFlags (f k) = 0) :
    (h.elementFlags m f).find? (fun y => h.enabledOf y.2 != 0) = some (j, if (f j).1.bad then 0 else (f j).2) := by
  unfold Hart.elementFlags Hart.active
  rw [List.find?_map, List.find?_filter]
  refine congrArg (Option.map _) (range_find?_first _ _ j hj.1 (decide_eq_true ⟨hj.2, bne_iff_ne.2 he⟩) fun i hi => ?_)
  exact decide_eq_false fun ⟨ha, hi'⟩ => bne_iff_ne.1 hi' (hmin i hi ⟨hi.trans hj.1, ha⟩)

/-! ### Effects and traps -/

section
variable {s : State} {i : Instr} {rs ds : List VIdx} {legal : Hart → M Unit} {f : Hart → M Hart} {m : MIdx}

theorem ewIn_self {w : Nat} {h : Hart} (hw : h.ew = w) : ewIn [w] h = .ok () := ewIn_ok _ _ (by rw [hw]; exact List.mem_singleton_self _)

/-- A trap of the effect is the instruction's outcome. -/
theorem vecH_trap (c n : Nat) (hd : s.hart.detached) (hl : legal s.hart = .ok ()) (hf : f s.hart = .error (.trap c n none)) :
    vecH rs ds legal f s = s.take (.trap c n none) :=
  plain_error _ _ (streamed_trap rs ds _ c n none hd hl (by rw [hf]; rfl))

/-- An effect that raises the flags of a list, starting from hart h, and then acts by g. -/
theorem doneOrTraps_of_raiseAll {done : Prop} {g : Hart → Hart} (h : Hart) (fl : List (Nat × FlagSet))
    (e : exec i s = vecH rs ds legal f s) (hd : s.hart.detached) (hl : legal s.hart = .ok ()) (hf : f s.hart = (h.raiseAll fl).map g)
    (hen : h.regs.h.fenable = s.hart.regs.h.fenable) (hq : ∀ x, (g (h.orFlags x)).detached)
    (hdone : exec i s = .next (s.goesOn (g (h.orFlags (anyFlag (fl.map (·.2))))) 4) → done) : s.doneOrTraps i fl done := by
  have same (x : FlagSet) : s.hart.enabledOf x = h.enabledOf x := by
    unfold Hart.enabledOf
    rw [hen]
  simp only [State.doneOrTraps, same]
  constructor
  · intro quiet
    refine hdone (e.trans (vecH_detached rs ds legal f s _ hd hl ?_ (hq _)))
    rw [hf, h.raiseAll_quiet fl quiet]
    rfl
  · intro x hx
    refine e.trans (vecH_trap _ _ hd hl ?_)
    rw [hf, Hart.raiseAll_first fl h x hx]
    rfl

/-- An instruction that raises the flags of its active elements has its effect when they are quiet, or traps on the lowest that is not. -/
theorem quietOrTraps_of_doneOrTraps {done : Prop} {f : Nat → Elt × FlagSet} (h : s.doneOrTraps i (s.hart.elementFlags m f) done) :
    (s.hart.quiet m f → done) ∧ s.flagTraps i m f := by
  refine ⟨fun q => h.1 ((s.hart.elementFlags_quiet m f).2 q), fun j hj he hmin => ?_⟩
  have trap := h.2 (j, if (f j).1.bad then 0 else (f j).2) (s.hart.elementFlags_first m f j hj he hmin)
  exact trap

/-- An effect that writes the elements of a list. -/
theorem writesV_of_setElts {w : Nat} {d : VIdx} {act : Nat → Prop} (xs : List Nat) (g : Nat → Elt)
    (e : exec i s = vecH rs ds legal f s) (hd : s.hart.detached) (hl : legal s.hart = .ok ()) (hw : 8 ∣ w) (h0 : 0 < w)
    (hf : f s.hart = .ok { s.hart with regs := s.hart.regs.setV d ((s.hart.regs.v[d]).setElts w (xs.map fun i => (i, g i))) })
    (ha : ∀ i, act i ↔ i ∈ xs) : s.writesV i w d act g 0 := by
  refine ⟨_, ?_, VReg.setElts_writtenAs (s.hart.regs.v[d]) w xs g act hw h0 ha⟩
  rw [s.hart.orFlags_zero]
  exact e.trans (vecH_detached rs ds legal f s _ hd hl hf hd)

theorem State.writesV_ext {w : Nat} {d : VIdx} {act : Nat → Prop} {f g : Nat → Elt} {fl : FlagSet} (h : ∀ j, f j = g j)
    (hf : s.writesV i w d act f fl) : s.writesV i w d act g fl := by
  rwa [funext h] at hf

/-- A map that raises flags writes its active elements, or traps (06 R145). -/
theorem writesOrTraps_of_vecFlag {w : Nat} {d : VIdx} {f : Hart → Nat → Elt × FlagSet} (e : exec i s = vecH rs ds legal (vecFlag w d m f) s)
    (hd : s.hart.detached) (hm : s.hart.maskSound m) (hl : legal s.hart = .ok ()) (hw : 8 ∣ w) (h0 : 0 < w) :
    s.writesOrTraps i w d m (f s.hart) := by
  have sound : vecFlag w d m f s.hart = (s.hart.raiseAll (s.hart.elementFlags m (f s.hart))).map fun t =>
      { t with regs := t.regs.setV d ((t.regs.v[d]).setElts w ((s.hart.active m).map fun i => (i, (f s.hart i).1))) } := by
    simp only [vecFlag, maskClean_ok _ _ hm, List.map_map]
    rfl
  refine quietOrTraps_of_doneOrTraps (doneOrTraps_of_raiseAll s.hart _ e hd hl sound rfl (fun _ => hd) fun done => ?_)
  rw [s.hart.anyFlag_elementFlags] at done
  exact ⟨_, done, VReg.setElts_writtenAs _ w _ _ _ hw h0 fun j => (mem_active s.hart m j).symm⟩
end

end Sys2Proof.Machine
end

section
/-! Vector integer arithmetic and compares (06 R143, R144, R148, R149): the results of Table 6-1 as bit-vector operations. -/
namespace Sys2Proof.Machine

/-! ### Table 6-1 -/

section
variable {n : Nat} (x y : BitVec n)

theorem ofNat_wrapI (z : Int) : BitVec.ofNat n (wrapI n z) = BitVec.ofInt n z := by
  rw [wrapI_eq_ofInt, BitVec.ofNat_toNat, BitVec.setWidth_eq]

theorem ofNat_toNat_self : BitVec.ofNat n x.toNat = x := by
  rw [BitVec.ofNat_toNat, BitVec.setWidth_eq]

theorem ofNat_ite (c : Prop) [Decidable c] : BitVec.ofNat n (if c then x.toNat else y.toNat) = if c then x else y := by
  rw [apply_ite (BitVec.ofNat n), ofNat_toNat_self, ofNat_toNat_self]

theorem sgn_toNat (h0 : 0 < n) : sgn n x.toNat = x.toInt := by
  rw [sgn_eq_toInt n _ h0, ofNat_toNat_self]

theorem sgn_lt_iff (h0 : 0 < n) : sgn n x.toNat < sgn n y.toNat ↔ x.slt y = true := by
  rw [sgn_toNat x h0, sgn_toNat y h0, BitVec.slt_iff_toInt_lt]

theorem sgn_le_iff (h0 : 0 < n) : sgn n x.toNat ≤ sgn n y.toNat ↔ x.sle y = true := by
  rw [sgn_toNat x h0, sgn_toNat y h0, BitVec.sle_iff_toInt_le]

theorem toNat_eq_zero_iff : x.toNat = 0 ↔ x = 0#n := by
  rw [BitVec.toNat_eq, BitVec.toNat_ofNat, Nat.zero_mod]

theorem wrappedSum_eq : BitVec.ofNat n ((x.toNat + y.toNat) % 2 ^ n) = x + y := by
  rw [← BitVec.toNat_add, ofNat_toNat_self]

theorem wrappedDifference_eq : BitVec.ofNat n (wrapI n ((x.toNat : Int) - y.toNat)) = x - y := by
  rw [ofNat_wrapI]
  apply BitVec.eq_of_toInt_eq
  rw [BitVec.toInt_ofInt, BitVec.toInt_sub, BitVec.toInt_eq_toNat_bmod, BitVec.toInt_eq_toNat_bmod, Int.sub_bmod_bmod, Int.bmod_sub_bmod]

theorem lowProduct_eq : BitVec.ofNat n (x.toNat * y.toNat % 2 ^ n) = x * y := by
  rw [← BitVec.toNat_mul, ofNat_toNat_self]

theorem highProduct_eq (h0 : 0 < n) :
    BitVec.ofNat n (wrapI n (sgn n x.toNat * sgn n y.toNat / 2 ^ n)) = BitVec.ofInt n (x.toInt * y.toInt / 2 ^ n) := by
  rw [ofNat_wrapI, sgn_toNat x h0, sgn_toNat y h0]

theorem signedMin_eq (h0 : 0 < n) :
    BitVec.ofNat n (if sgn n y.toNat < sgn n x.toNat then y.toNat else x.toNat) = if y.slt x then y else x := by
  rw [ofNat_ite, if_congr (sgn_lt_iff y x h0) rfl rfl]

theorem signedMax_eq (h0 : 0 < n) :
    BitVec.ofNat n (if sgn n x.toNat < sgn n y.toNat then y.toNat else x.toNat) = if x.slt y then y else x := by
  rw [ofNat_ite, if_congr (sgn_lt_iff x y h0) rfl rfl]

theorem unsignedMin_eq : BitVec.ofNat n (Nat.min x.toNat y.toNat) = if y.ult x then y else x := by
  have e : Nat.min x.toNat y.toNat = if y.toNat < x.toNat then y.toNat else x.toNat := by
    show min x.toNat y.toNat = _
    split <;> omega
  rw [e, ofNat_ite, if_congr BitVec.ult_iff_toNat_lt.symm rfl rfl]

theorem unsignedMax_eq : BitVec.ofNat n (Nat.max x.toNat y.toNat) = if x.ult y then y else x := by
  have e : Nat.max x.toNat y.toNat = if x.toNat < y.toNat then y.toNat else x.toNat := by
    show max x.toNat y.toNat = _
    split <;> omega
  rw [e, ofNat_ite, if_congr BitVec.ult_iff_toNat_lt.symm rfl rfl]

theorem bitwiseAnd_eq : BitVec.ofNat n (x.toNat &&& y.toNat) = x &&& y := by
  rw [← BitVec.toNat_and, ofNat_toNat_self]

theorem bitwiseOr_eq : BitVec.ofNat n (x.toNat ||| y.toNat) = x ||| y := by
  rw [← BitVec.toNat_or, ofNat_toNat_self]

theorem bitwiseXor_eq : BitVec.ofNat n (x.toNat ^^^ y.toNat) = x ^^^ y := by
  rw [← BitVec.toNat_xor, ofNat_toNat_self]

theorem shiftedLeft_eq (c : Nat) : BitVec.ofNat n (x.toNat * 2 ^ c % 2 ^ n) = x <<< c := by
  rw [← Nat.shiftLeft_eq, ← BitVec.toNat_shiftLeft, ofNat_toNat_self]

theorem shiftedRight_eq (c : Nat) : BitVec.ofNat n (x.toNat / 2 ^ c) = x >>> c := by
  rw [← Nat.shiftRight_eq_div_pow, ← BitVec.toNat_ushiftRight, ofNat_toNat_self]

theorem shiftedArithmetic_eq (h0 : 0 < n) (c : Nat) : BitVec.ofNat n (wrapI n (sgn n x.toNat / 2 ^ c)) = x.sshiftRight c := by
  rw [ofNat_wrapI, sgn_toNat x h0, BitVec.sshiftRight, Int.shiftRight_eq_div_pow]
  norm_cast

/-- Saturation to the signed range (02 R69). -/
theorem saturated_eq (z : Int) :
    BitVec.ofNat n (wrapI n (satI z (intLo true n) (intHi true n))) = BitVec.ofInt n (max (-2 ^ (n - 1)) (min (2 ^ (n - 1) - 1) z)) := by
  have pos : (0 : Int) < 2 ^ (n - 1) := by positivity
  rw [ofNat_wrapI]
  congr 1
  simp only [satI, intLo, intHi, if_true]
  split <;> omega

theorem saturatedSum_eq (h0 : 0 < n) :
    BitVec.ofNat n (wrapI n (satI (sgn n x.toNat + sgn n y.toNat) (intLo true n) (intHi true n)))
      = BitVec.ofInt n (max (-2 ^ (n - 1)) (min (2 ^ (n - 1) - 1) (x.toInt + y.toInt))) := by
  rw [saturated_eq, sgn_toNat x h0, sgn_toNat y h0]

theorem saturatedDifference_eq (h0 : 0 < n) :
    BitVec.ofNat n (wrapI n (satI (sgn n x.toNat - sgn n y.toNat) (intLo true n) (intHi true n)))
      = BitVec.ofInt n (max (-2 ^ (n - 1)) (min (2 ^ (n - 1) - 1) (x.toInt - y.toInt))) := by
  rw [saturated_eq, sgn_toNat x h0, sgn_toNat y h0]

theorem ofNat_ones : BitVec.ofNat n (2 ^ n - 1) = BitVec.allOnes n := BitVec.eq_of_toNat_eq (by simp)

/-- The quotient of the least integer by -1 wraps (02 R42). -/
theorem signedQuotient_eq (h0 : 0 < n) : BitVec.ofNat n (divS n x.toNat y.toNat) = if y = 0#n then BitVec.allOnes n else x.sdiv y := by
  unfold divS
  rw [apply_ite (BitVec.ofNat n), if_congr (toNat_eq_zero_iff y) ofNat_ones rfl, ofNat_wrapI, sgn_toNat x h0, sgn_toNat y h0, truncDiv]
  congr 1
  exact BitVec.eq_of_toInt_eq (by rw [BitVec.toInt_sdiv, BitVec.toInt_ofInt])

theorem signedRemainder_eq (h0 : 0 < n) : BitVec.ofNat n (remS n x.toNat y.toNat) = if y = 0#n then x else x.srem y := by
  unfold remS
  rw [apply_ite (BitVec.ofNat n), if_congr (toNat_eq_zero_iff y) (ofNat_toNat_self x) rfl, ofNat_wrapI, sgn_toNat x h0, sgn_toNat y h0, truncMod,
    ← BitVec.toInt_srem, BitVec.ofInt_toInt]

theorem unsignedQuotient_eq :
    BitVec.ofNat n (if y.toNat = 0 then 2 ^ n - 1 else x.toNat / y.toNat) = if y = 0#n then BitVec.allOnes n else x / y := by
  rw [apply_ite (BitVec.ofNat n), if_congr (toNat_eq_zero_iff y) ofNat_ones rfl, ← BitVec.toNat_udiv, ofNat_toNat_self]

theorem unsignedRemainder_eq :
    BitVec.ofNat n (if y.toNat = 0 then x.toNat else x.toNat % y.toNat) = if y = 0#n then x else x % y := by
  rw [apply_ite (BitVec.ofNat n), if_congr (toNat_eq_zero_iff y) (ofNat_toNat_self x) rfl, ← BitVec.toNat_umod, ofNat_toNat_self]

theorem multiplyAdd_eq (z : BitVec n) : BitVec.ofNat n ((x.toNat * y.toNat + z.toNat) % 2 ^ n) = x * y + z :=
  BitVec.eq_of_toNat_eq (by simp)

/-- The absolute value; the least integer stays (06 Table 6-1). -/
theorem absolute_eq (h0 : 0 < n) : BitVec.ofNat n (wrapI n (sgn n x.toNat).natAbs) = if x.slt 0#n then -x else x := by
  have hslt : (x.slt 0#n = true) ↔ x.toInt < 0 := by rw [BitVec.slt_iff_toInt_lt, BitVec.toInt_zero]
  rw [ofNat_wrapI, sgn_toNat x h0, if_congr hslt rfl rfl]
  split
  · next h => rw [Int.ofNat_natAbs_of_nonpos h.le, BitVec.ofInt_neg, BitVec.ofInt_toInt]
  · next h => rw [Int.natAbs_of_nonneg (Int.not_lt.1 h), BitVec.ofInt_toInt]
end

/-! ### Operands -/

theorem Hart.b3_lt (h : Hart) (w : Nat) (o : BOp3) (i : Nat) : (h.b3 w o i).val < 2 ^ w := by
  cases o with
  | vv v => exact elt_lt _ w i
  | vs r => exact Nat.mod_lt _ (Nat.two_pow_pos w)
  | vi x =>
    show wrapI w (sgn 5 x.toNat) < 2 ^ w
    rw [wrapI_eq_ofInt]
    exact BitVec.isLt _

/-- An immediate is sign-extended (03 R73). -/
theorem b3_immediate (h : Hart) (k : IWidth) (x : BitVec 5) : h.b3 k.bits (.vi x) = fun _ => ⟨(x.signExtend 64).toNat % 2 ^ k.bits, false⟩ :=
  funext fun _ => congrArg (fun v => (⟨v, false⟩ : Elt)) (opb_vi k x)

theorem Hart.ofNat_b3 (h : Hart) (w : Nat) (o : BOp3) (i : Nat) : (BitVec.ofNat w (h.b3 w o i).val).toNat = (h.b3 w o i).val := by
  rw [BitVec.toNat_ofNat, Nat.mod_eq_of_lt (h.b3_lt w o i)]

/-- The count of a shift: the low bits of its operand, an immediate being unsigned (06 R148). -/
def Hart.shiftCount (h : Hart) (w : Nat) (b : BOp3) (i : Nat) : Nat :=
  match b with
  | .vi k => k.toNat % w
  | o => (h.b3 w o i).val % w

theorem vecShift_eq (k : IWidth) (d a : VIdx) (b : BOp3) (m : MIdx) (f : Nat → Nat → Nat → Nat) (s : State) :
    vecShift k d a b m f s = vecH (a :: b3Regs b) [d] (ewIn [k.bits]) (vecMap k.bits d m fun h i =>
      ⟨f k.bits ((h.regs.v[a]).elt k.bits i).val (h.shiftCount k.bits b i), ((h.regs.v[a]).elt k.bits i).bad || (h.b3 k.bits b i).bad⟩) s := by
  cases b with
  | vv v => rfl
  | vs r => rfl
  | vi x => rfl

/-! ### Rows of the table -/

section
variable {s : State} {i : Instr} {k : IWidth} {d a : VIdx} {b : BOp3} {m : MIdx} {f : Nat → Nat → Nat → Nat} (hd : s.hart.detached)
  (hm : s.hart.maskSound m) (hw : s.hart.ew = k.bits)
include hd hm hw

/-- A map of integers writes the values that its elements have as bit vectors. -/
theorem writesV_of_intMap {rs : List VIdx} {f : Hart → Nat → Elt} (g : Nat → BitVec k.bits) (p : Nat → Bool)
    (e : exec i s = vecH rs [d] (ewIn [k.bits]) (vecMap k.bits d m f) s)
    (hg : ∀ j, BitVec.ofNat k.bits (f s.hart j).val = g j) (hp : ∀ j, (f s.hart j).bad = p j) :
    s.writesV i k.bits d (s.hart.writes m) (fun j => ⟨(g j).toNat, p j⟩) 0 := by
  refine State.writesV_congr (fun j => ⟨?_, hp j⟩)
    (writesV_of_vecMap s i rs _ k.bits d m f hd hm (ewIn_self hw) (bits_pos k).1 (bits_pos k).2 e)
  rw [← hg j, BitVec.toNat_ofNat, Nat.mod_mod]

theorem writesV_of_vecInt3 (g : BitVec k.bits → BitVec k.bits → BitVec k.bits) (e : exec i s = vecInt3 k d a b m f s)
    (hg : ∀ x y : BitVec k.bits, BitVec.ofNat k.bits (f k.bits x.toNat y.toNat) = g x y) :
    s.writesV i k.bits d (s.hart.writes m) (fun j =>
      ⟨(g (BitVec.ofNat k.bits ((s.hart.regs.v[a]).elt k.bits j).val) (BitVec.ofNat k.bits (s.hart.b3 k.bits b j).val)).toNat,
        ((s.hart.regs.v[a]).elt k.bits j).bad || (s.hart.b3 k.bits b j).bad⟩) 0 := by
  refine writesV_of_intMap hd hm hw _ _ e (fun j => ?_) fun j => rfl
  rw [← hg, ofNat_elt, Hart.ofNat_b3]

theorem writesV_of_vecShift (g : BitVec k.bits → Nat → BitVec k.bits) (e : exec i s = vecShift k d a b m f s)
    (hg : ∀ (x : BitVec k.bits) (c : Nat), BitVec.ofNat k.bits (f k.bits x.toNat c) = g x c) :
    s.writesV i k.bits d (s.hart.writes m) (fun j =>
      ⟨(g (BitVec.ofNat k.bits ((s.hart.regs.v[a]).elt k.bits j).val) (s.hart.shiftCount k.bits b j)).toNat,
        ((s.hart.regs.v[a]).elt k.bits j).bad || (s.hart.b3 k.bits b j).bad⟩) 0 := by
  refine writesV_of_intMap hd hm hw _ _ (e.trans (vecShift_eq k d a b m f s)) (fun j => ?_) fun j => rfl
  rw [← hg, ofNat_elt]

theorem writesM_of_vecIntCmp {d : MIdx} {f : Nat → Nat → Nat → Bool} (g : BitVec k.bits → BitVec k.bits → Bool)
    (e : exec i s = vecIntCmp k d a b m f s) (hg : ∀ x y : BitVec k.bits, f k.bits x.toNat y.toNat = g x y) :
    s.writesM i d (s.hart.writes m) (fun j =>
      (g (BitVec.ofNat k.bits ((s.hart.regs.v[a]).elt k.bits j).val) (BitVec.ofNat k.bits (s.hart.b3 k.bits b j).val),
        ((s.hart.regs.v[a]).elt k.bits j).bad || (s.hart.b3 k.bits b j).bad)) 0 := by
  have written := writesM_of_maskMap s i _ _ d m _ hd hm (ewIn_self hw) e
  simp only [← hg, ofNat_elt, Hart.ofNat_b3]
  exact written
end

/-- Settles O33: each row of Table 6-1 by the bit vector it names. -/
theorem vectorIntegerCompletes : Obligations.VectorIntegerCompletes := by
  unfold Obligations.VectorIntegerCompletes
  intro k d a c b m s hd hm hw h n va opb count out op sh clip
  have pos : 0 < n := (bits_pos k).2
  have operand : opb = h.b3 n b := by
    cases b with
    | vv v => rfl
    | vs r => rfl
    | vi x => exact (b3_immediate h k x).symm
  have shifts : count = h.shiftCount n b := by
    simp only [count, operand]
    cases b with
    | vv v => rfl
    | vs r => rfl
    | vi x => rfl
  have row {i : Instr} {f : Nat → Nat → Nat → Nat} {g : BitVec n → BitVec n → BitVec n} (e : exec i s = vecInt3 k d a b m f s)
      (hg : ∀ x y : BitVec n, BitVec.ofNat n (f n x.toNat y.toNat) = g x y) : op i g := by
    simp only [op, out, operand]
    exact writesV_of_vecInt3 hd hm hw g e hg
  have shift {i : Instr} {f : Nat → Nat → Nat → Nat} {g : BitVec n → Nat → BitVec n} (e : exec i s = vecShift k d a b m f s)
      (hg : ∀ (x : BitVec n) (c : Nat), BitVec.ofNat n (f n x.toNat c) = g x c) : sh i g := by
    simp only [sh, out, operand, shifts]
    exact writesV_of_vecShift hd hm hw g e hg
  refine ⟨row (exec_vaddI ..) wrappedSum_eq, row (exec_vsubI ..) wrappedDifference_eq, row (exec_vmulI ..) lowProduct_eq,
    row (exec_vmulh ..) fun x y => highProduct_eq x y pos, row (exec_vmulhu ..) fun _ _ => rfl,
    row (exec_vminI ..) fun x y => signedMin_eq x y pos, row (exec_vmaxI ..) fun x y => signedMax_eq x y pos,
    row (exec_vminu ..) unsignedMin_eq, row (exec_vmaxu ..) unsignedMax_eq,
    row (exec_vand ..) bitwiseAnd_eq, row (exec_vor ..) bitwiseOr_eq, row (exec_vxor ..) bitwiseXor_eq,
    shift (exec_vsll ..) shiftedLeft_eq, shift (exec_vsrl ..) shiftedRight_eq, shift (exec_vsra ..) fun x c => shiftedArithmetic_eq x pos c,
    row (exec_vsadd ..) fun x y => saturatedSum_eq x y pos, row (exec_vssub ..) fun x y => saturatedDifference_eq x y pos,
    row (exec_vsaddu ..) fun _ _ => rfl, row (exec_vssubu ..) fun _ _ => rfl,
    row (exec_vdivI ..) fun x y => signedQuotient_eq x y pos, row (exec_vdivu ..) unsignedQuotient_eq,
    row (exec_vrem ..) fun x y => signedRemainder_eq x y pos, row (exec_vremu ..) unsignedRemainder_eq, ?multiplyAdd, ?absolute⟩
  case multiplyAdd =>
    refine writesV_of_intMap hd hm hw _ _ (exec_vmadd ..) (fun j => ?_) fun _ => rfl
    rw [← multiplyAdd_eq, ofNat_elt, ofNat_elt, ofNat_elt]
  case absolute =>
    refine writesV_of_intMap hd hm hw _ _ (exec_vabsI ..) (fun j => ?_) fun _ => rfl
    rw [← absolute_eq _ pos, ofNat_elt]

end Sys2Proof.Machine
end

section
/-! Vector compares (06 R149, R151): each writes the bits of its active elements. -/
namespace Sys2Proof.Machine

/-- The registers with the bits that f gives for the elements of a list written to mask d. -/
def Regs.setBits (x : Regs) (d : MIdx) (l : List Nat) (f : Nat → Bool × Bool) : Regs :=
  x.setM d (l.foldl (fun v j => v.setBit j (f j).1 (f j).2) (x.getM d))

theorem detached_setBits {h : Hart} (hd : h.detached) (d : MIdx) (l : List Nat) (f : Nat → Bool × Bool) :
    Hart.detached { h with regs := h.regs.setBits d l f } := by
  unfold Hart.detached Regs.setBits
  rw [Regs.setM_q]
  exact hd

theorem writesM_of_setBits {s : State} {i : Instr} {d m : MIdx} {f : Nat → Bool × Bool} {fl : FlagSet} (e : exec i s = .next
    (s.goesOn { s.hart.orFlags fl with regs := (s.hart.orFlags fl).regs.setBits d (s.hart.active m) f } 4)) :
    s.writesM i d (s.hart.writes m) f fl :=
  ⟨_, e, MReg.setBits_writtenAs _ _ _ _ fun j => (mem_active s.hart m j).symm⟩

/-- What a floating-point compare gives for element j: its bit, its poison and its flags. -/
def Hart.compared (h : Hart) (k : FFmt) (c : FCmp) (a : VIdx) (b : BOp2) (j : Nat) : Bool × Bool × FlagSet :=
  let x := (h.regs.v[a]).elt k.width j
  let y := h.b2 k.width b j
  let r := k.fp.cmp c h.fz x.val y.val
  (r.1, x.bad || y.bad, r.2)

/-- The poison and the flags of a compare's elements, as those of a result. -/
def Hart.comparedFlags (h : Hart) (k : FFmt) (c : FCmp) (a : VIdx) (b : BOp2) (j : Nat) : Elt × FlagSet :=
  (⟨0, (h.compared k c a b j).2.1⟩, (h.compared k c a b j).2.2)

/-- A floating-point compare raises the flags of its active elements, then writes their bits (06 R151). -/
theorem quietOrTraps_of_vecFCmp {s : State} {i : Instr} {k : FFmt} {d m : MIdx} {a : VIdx} {b : BOp2} {c : FCmp}
    (e : exec i s = vecFCmp k c d a b m s) (hd : s.hart.detached) (hm : s.hart.maskSound m) (hw : s.hart.ew = k.width) :
    (s.hart.quiet m (s.hart.comparedFlags k c a b) → s.writesM i d (s.hart.writes m)
      (fun j => ((s.hart.compared k c a b j).1, (s.hart.compared k c a b j).2.1)) (s.hart.flagsOf m (s.hart.comparedFlags k c a b)))
    ∧ s.flagTraps i m (s.hart.comparedFlags k c a b) := by
  refine quietOrTraps_of_doneOrTraps (doneOrTraps_of_raiseAll (g := fun t => { t with regs := t.regs.setBits d (s.hart.active m) fun j =>
    ((s.hart.compared k c a b j).1, (s.hart.compared k c a b j).2.1) }) s.hart _ e hd (ewIn_self hw) ?_ rfl
    (fun x => detached_setBits (h := s.hart.orFlags x) hd _ _ _) fun done => ?_)
  · simp only [maskClean_ok _ _ hm, List.map_map, List.foldl_map]
    rfl
  · rw [s.hart.anyFlag_elementFlags] at done
    exact writesM_of_setBits done

/-- Settles O34: integer compares by the order of the values, floating-point ones by the comparison that each names. -/
theorem vectorComparesComplete : Obligations.VectorComparesComplete := by
  unfold Obligations.VectorComparesComplete
  constructor
  · intro k d m a b s hd hm hw h n va opb op
    have pos : 0 < n := (bits_pos k).2
    have operand : opb = h.b3 n b := by
      cases b with
      | vv v => rfl
      | vs r => rfl
      | vi x => exact (b3_immediate h k x).symm
    have row {i : Instr} {f : Nat → Nat → Nat → Bool} {g : BitVec n → BitVec n → Bool} (e : exec i s = vecIntCmp k d a b m f s)
        (hg : ∀ x y : BitVec n, f n x.toNat y.toNat = g x y) : op i g := by
      simp only [op, operand]
      exact writesM_of_vecIntCmp hd hm hw g e hg
    refine ⟨row (exec_vceqI ..) fun x y => ?eq, row (exec_vcneI ..) fun x y => ?ne,
      row (exec_vcltI ..) fun x y => ?lt, row (exec_vcltu ..) fun _ _ => rfl,
      row (exec_vcleI ..) fun x y => ?le, row (exec_vcleu ..) fun _ _ => rfl⟩
    case eq => exact Bool.eq_iff_iff.2 (by simp [BitVec.toNat_eq])
    case ne => exact Bool.eq_iff_iff.2 (by simp [BitVec.toNat_eq])
    case lt => rw [decide_eq_decide.2 (sgn_lt_iff x y pos), Bool.decide_coe]
    case le => rw [decide_eq_decide.2 (sgn_le_iff x y pos), Bool.decide_coe]
  · intro k d m a b s hd hm hw h w opb cmp
    have operand : opb = h.b2 w b := by
      cases b with
      | vv v => rfl
      | vs x => rfl
    have row {i : Instr} {c : FCmp} (e : exec i s = vecFCmp k c d a b m s) : cmp i c := by
      simp only [cmp, operand]
      exact quietOrTraps_of_vecFCmp e hd hm hw
    exact ⟨row (exec_vceqF ..), row (exec_vcneF ..), row (exec_vcltF ..), row (exec_vcleF ..), row (exec_vcun ..)⟩

end Sys2Proof.Machine
end

section
/-! Vector floating-point, FP8 and complex arithmetic (06 R150, R152): each is a map over the active elements that raises flags. -/
namespace Sys2Proof.Machine

theorem ffmtWidth_pos (k : FFmt) : 8 ∣ k.width ∧ 0 < k.width := by cases k <;> decide

theorem cfmtWidth_pos (c : CFmt) : 8 ∣ 2 * c.comp ∧ 0 < 2 * c.comp := by cases c <;> decide

/-- The components of an element of a complex format, exchanged with the sign of the imaginary one changed. -/
theorem muli_eq (c : CFmt) (x : Nat) (hx : x < 2 ^ (2 * c.comp)) :
    cjoin c ((cparts c x).2 ^^^ 2 ^ (c.comp - 1)) (cparts c x).1
      = (x / 2 ^ c.comp ^^^ 2 ^ (c.comp - 1)) + x % 2 ^ c.comp * 2 ^ c.comp := by
  have im : x / 2 ^ c.comp < 2 ^ c.comp := by
    rw [Nat.two_mul, Nat.pow_add] at hx
    exact Nat.div_lt_of_lt_mul hx
  simp only [cjoin, cparts, field, Nat.pow_zero, Nat.div_one, Nat.mod_eq_of_lt im]

section
variable {s : State} {i : Instr} {w : Nat} {d a : VIdx} {m : MIdx} (hd : s.hart.detached) (hm : s.hart.maskSound m) (hw : s.hart.ew = w)
  (hn : 8 ∣ w ∧ 0 < w)
include hd hm hw hn

theorem writesOrTraps_of_vecFp1 {f : Rnd → Bool → Nat → Nat × FlagSet} (e : exec i s = vecFp1 w d a m f s) :
    s.writesOrTraps i w d m fun j =>
      let x := (s.hart.regs.v[a]).elt w j
      (⟨(f s.hart.rnd s.hart.fz x.val).1, x.bad⟩, (f s.hart.rnd s.hart.fz x.val).2) := by
  have written := writesOrTraps_of_vecFlag e hd hm (ewIn_self hw) hn.1 hn.2
  exact written

theorem writesOrTraps_of_vecFp2 {b : BOp2} {f : Rnd → Bool → Nat → Nat → Nat × FlagSet} (e : exec i s = vecFp2 w d a b m f s) :
    s.writesOrTraps i w d m fun j =>
      let x := (s.hart.regs.v[a]).elt w j
      let y := s.hart.b2 w b j
      (⟨(f s.hart.rnd s.hart.fz x.val y.val).1, x.bad || y.bad⟩, (f s.hart.rnd s.hart.fz x.val y.val).2) := by
  have written := writesOrTraps_of_vecFlag e hd hm (ewIn_self hw) hn.1 hn.2
  exact written

/-- An operation on three elements, of which the last is that of vd. -/
theorem writesOrTraps_of_three {b : VIdx} (f : Hart → Nat → Nat → Nat → Nat × FlagSet)
    (e : exec i s = vecH [a, b, d] [d] (ewIn [w]) (vecFlag w d m fun h j =>
      let x := (h.regs.v[a]).elt w j
      let y := (h.regs.v[b]).elt w j
      let z := (h.regs.v[d]).elt w j
      (⟨(f h x.val y.val z.val).1, x.bad || y.bad || z.bad⟩, (f h x.val y.val z.val).2)) s) :
    s.writesOrTraps i w d m fun j =>
      let x := (s.hart.regs.v[a]).elt w j
      let y := (s.hart.regs.v[b]).elt w j
      let z := (s.hart.regs.v[d]).elt w j
      (⟨(f s.hart x.val y.val z.val).1, x.bad || y.bad || z.bad⟩, (f s.hart x.val y.val z.val).2) := by
  have written := writesOrTraps_of_vecFlag e hd hm (ewIn_self hw) hn.1 hn.2
  exact written
end

/-- Settles O35: each instruction by the operation that it maps over its active elements. -/
theorem vectorFloatCompletes : Obligations.VectorFloatCompletes := by
  unfold Obligations.VectorFloatCompletes
  intro k t c d a e b m s hd hm h r z opb out one two three w cw
  have operand : opb = fun n => h.b2 n b := by
    cases b with
    | vv v => rfl
    | vs x => rfl
  have row1 {i : Instr} {n : Nat} {f : Rnd → Bool → Nat → Nat × FlagSet} (hw : h.ew = n) (hn : 8 ∣ n ∧ 0 < n)
      (e : exec i s = vecFp1 n d a m f s) : one i n (f r z) := writesOrTraps_of_vecFp1 hd hm hw hn e
  have row2 {i : Instr} {n : Nat} {f : Rnd → Bool → Nat → Nat → Nat × FlagSet} (hw : h.ew = n) (hn : 8 ∣ n ∧ 0 < n)
      (e : exec i s = vecFp2 n d a b m f s) : two i n (f r z) := by
    simp only [two, out, operand]
    exact writesOrTraps_of_vecFp2 hd hm hw hn e
  have row3 {i : Instr} {n : Nat} {F : Fp} {np nc : Bool} (hw : h.ew = n) (hn : 8 ∣ n ∧ 0 < n)
      (q : exec i s = vecFma F n np nc d a e m s) : three i n (F.fma r z np nc) :=
    writesOrTraps_of_three hd hm hw hn (fun h => F.fma h.rnd h.fz np nc) q
  have fused (hw : h.ew = cw) : three (.vfmaC c d a e m) cw (complexOp c .fma r z) :=
    writesOrTraps_of_three hd hm hw (cfmtWidth_pos c) (fun h => complexOp c .fma h.rnd h.fz) (exec_vfmaC ..)
  have complex {i : Instr} {op : COp} (hw : h.ew = cw) (e : exec i s = vecC2 c op d a b m s) :
      two i cw fun x y => complexOp c op r z x y 0 := row2 (f := fun r z x y => complexOp c op r z x y 0) hw (cfmtWidth_pos c) e
  have muli (hw : h.ew = cw) :
      one (.vmuli c d a m) cw fun x => ((x / 2 ^ c.comp ^^^ 2 ^ (c.comp - 1)) + x % 2 ^ c.comp * 2 ^ c.comp, 0) := by
    have written := writesOrTraps_of_vecFp1 (w := 2 * c.comp) hd hm hw (cfmtWidth_pos c) (exec_vmuli c d a m s)
    simp only [muli_eq c _ (elt_lt _ _ _)] at written
    exact written
  clear_value one two three r z
  refine ⟨fun hw => ?float, fun hw => ?float8, fun hw => ?complex⟩
  case float =>
    have hn := ffmtWidth_pos k
    exact ⟨row2 hw hn (exec_vaddF ..), row2 hw hn (exec_vsubF ..), row2 hw hn (exec_vmulF ..), row2 hw hn (exec_vdivF ..),
      row3 hw hn (exec_vfmaF ..), row3 hw hn (exec_vfms ..), row3 hw hn (exec_vfnma ..), row2 hw hn (exec_vminF ..), row2 hw hn (exec_vmaxF ..),
      row1 hw hn (exec_vsqrt ..), row1 hw hn (exec_vabsF ..), row1 hw hn (exec_vneg ..), row2 hw hn (exec_vsgnj ..)⟩
  case float8 =>
    have hn : 8 ∣ 8 ∧ 0 < 8 := by decide
    exact ⟨row2 hw hn (exec_vaddF8 ..), row2 hw hn (exec_vsubF8 ..), row2 hw hn (exec_vmulF8 ..), row3 hw hn (exec_vfmaF8 ..),
      row2 hw hn (exec_vminF8 ..), row2 hw hn (exec_vmaxF8 ..)⟩
  case complex =>
    exact ⟨complex hw (exec_vaddC ..), complex hw (exec_vsubC ..), complex hw (exec_vmulC ..), complex hw (exec_vmulc ..),
      fused hw, row1 hw (cfmtWidth_pos c) (exec_vconj ..), muli hw⟩

end Sys2Proof.Machine
end

section
/-! Mask operations, `viota` and `vpopc` (06 R153): the lowest and the earlier ones among the active elements. -/
namespace Sys2Proof.Machine

/-! ### Rising lists of element numbers -/

theorem pairwise_active (h : Hart) (m : MIdx) : (h.active m).Pairwise (· < ·) := List.pairwise_lt_range.filter _

/-- A number is no greater than the lowest of a rising list that meets p exactly when none below it meets p. -/
theorem le_find?_getD_iff (p : Nat → Bool) (n i : Nat) (hi : i ≤ n) (l : List Nat) (hl : l.Pairwise (· < ·)) :
    i ≤ (l.find? p).getD n ↔ ∀ k ∈ l, k < i → p k = false := by
  induction l with
  | nil => simpa using hi
  | cons j t ih =>
    obtain ⟨hj, ht⟩ := List.pairwise_cons.1 hl
    cases hp : p j with
    | true =>
      rw [List.find?_cons_of_pos hp, Option.getD_some]
      constructor
      · intro hij k hk hki
        rcases List.mem_cons.1 hk with rfl | hk
        · omega
        · have := hj k hk
          omega
      · intro h
        by_contra hij
        have := h j List.mem_cons_self (by omega)
        rw [hp] at this
        cases this
    | false =>
      rw [List.find?_cons_of_neg (by simp [hp]), ih ht, List.forall_mem_cons]
      exact ⟨fun h => ⟨fun _ => hp, h⟩, fun h => h.2⟩

/-- The lowest of a rising list that meets q is at most i exactly when one up to i meets it. -/
theorem find?_any_le_iff (q : Nat → Bool) (i : Nat) (l : List Nat) (hl : l.Pairwise (· < ·)) :
    (l.find? q).any (fun j => decide (j ≤ i)) = true ↔ ∃ k ∈ l, k ≤ i ∧ q k = true := by
  induction l with
  | nil => simp
  | cons j t ih =>
    obtain ⟨hj, ht⟩ := List.pairwise_cons.1 hl
    cases hq : q j with
    | true =>
      rw [List.find?_cons_of_pos hq]
      simp only [Option.any_some, decide_eq_true_iff]
      constructor
      · exact fun hji => ⟨j, List.mem_cons_self, hji, hq⟩
      · rintro ⟨k, hk, hki, -⟩
        rcases List.mem_cons.1 hk with rfl | hk
        · exact hki
        · have := hj k hk
          omega
    | false =>
      rw [List.find?_cons_of_neg (by simp [hq]), ih ht]
      simp [hq]

theorem range_filter_lt (n i : Nat) : (List.range n).filter (fun k => decide (k < i)) = List.range (min n i) := by
  induction n with
  | zero => simp
  | succ n ih =>
    rw [List.range_succ, List.filter_append, ih]
    by_cases h : n < i
    · rw [min_eq_left h.le, min_eq_left (show n + 1 ≤ i by omega), List.range_succ]
      simp [h]
    · rw [min_eq_right (Nat.not_lt.1 h), min_eq_right (show i ≤ n + 1 by omega)]
      simp [h]

/-- Element k is below VL and active under mask m. -/
def Hart.isActive (h : Hart) (m : MIdx) (k : Nat) : Bool := decide (k < h.vl) && (h.regs.getM m).on h.ew k

theorem Hart.isActive_iff (h : Hart) (m : MIdx) (k : Nat) : h.isActive m k = true ↔ k ∈ h.active m := by
  rw [mem_active]
  simp [Hart.isActive, Hart.writes]

/-- The active elements below j. -/
theorem active_filter_lt (h : Hart) (m : MIdx) (j : Nat) : (h.active m).filter (fun k => decide (k < j)) = (List.range j).filter (h.isActive m) := by
  have e : (List.range j).filter (h.isActive m)
      = ((List.range j).filter fun k => decide (k < h.vl)).filter fun k => (h.regs.getM m).on h.ew k := by
    rw [List.filter_filter]
    exact List.filter_congr fun k _ => Bool.and_comm _ _
  rw [e, range_filter_lt, min_comm, ← range_filter_lt, List.filter_filter]
  unfold Hart.active
  rw [List.filter_filter]
  exact List.filter_congr fun k _ => Bool.and_comm _ _

/-! ### The first one -/

/-- What `vmfirst` writes for element i: whether no earlier active element is 1, and whether a poisoned bit that no clean one precedes
stands at or before it (06 R153). -/
def Hart.firstBit (h : Hart) (a m : MIdx) (i : Nat) : Bool × Bool :=
  let x := h.regs.getM a
  let clean := ((h.active m).find? fun i => x.bits.getLsbD i && !x.poison.getLsbD i).getD h.vl
  (decide (i ≤ ((h.active m).find? fun i => x.bits.getLsbD i).getD h.vl),
    match (h.active m).find? fun j => x.poison.getLsbD j && decide (j ≤ clean) with
    | none => false
    | some j => decide (j ≤ i))

theorem execVmfirst_eq (d a m : MIdx) (s : State) :
    execVmfirst d a m s = vecH [] [] ewAny (maskMap d m fun h i => h.firstBit a m i) s := rfl

/-- No active element below j meets p. -/
def Hart.noneBefore (h : Hart) (m : MIdx) (p : Nat → Bool) (j : Nat) : Bool := (List.range j).all fun k => !(h.isActive m k && p k)

theorem le_first_iff (h : Hart) (m : MIdx) (p : Nat → Bool) (j : Nat) (hj : j ≤ h.vl) :
    decide (j ≤ ((h.active m).find? p).getD h.vl) = h.noneBefore m p j := by
  rw [Bool.eq_iff_iff, decide_eq_true_iff, le_find?_getD_iff p h.vl j hj _ (pairwise_active h m)]
  simp only [Hart.noneBefore, List.all_eq_true, List.mem_range, Bool.not_eq_true', Bool.and_eq_false_imp, h.isActive_iff]
  exact ⟨fun H k hk ha => H k ha hk, fun H k ha hk => H k hk ha⟩

/-- The two bits that `vmfirst` writes for an active element (06 R153). -/
theorem firstBit_eq (h : Hart) (a m : MIdx) (j : Nat) (hj : j < h.vl) :
    h.firstBit a m j = (h.noneBefore m (fun k => (h.regs.getM a).bits.getLsbD k) j,
      (List.range (j + 1)).any fun k => h.isActive m k && (h.regs.getM a).poison.getLsbD k
        && h.noneBefore m (fun l => (h.regs.getM a).bits.getLsbD l && !(h.regs.getM a).poison.getLsbD l) k) := by
  refine Prod.ext (le_first_iff h m _ j hj.le) ?_
  have any (o : Option Nat) : (match o with
      | none => false
      | some k => decide (k ≤ j)) = o.any fun k => decide (k ≤ j) := by cases o <;> rfl
  refine (any _).trans (Bool.eq_iff_iff.2 ((find?_any_le_iff _ j _ (pairwise_active h m)).trans ?_))
  simp only [List.any_eq_true, List.mem_range, Bool.and_eq_true, h.isActive_iff]
  refine exists_congr fun k => ?_
  constructor
  · rintro ⟨hk, hkj, hp, hc⟩
    rw [le_first_iff h m _ k (hkj.trans hj.le)] at hc
    exact ⟨Nat.lt_succ_of_le hkj, ⟨hk, hp⟩, hc⟩
  · rintro ⟨hkj, ⟨hk, hp⟩, hc⟩
    rw [← le_first_iff h m _ k ((Nat.le_of_lt_succ hkj).trans hj.le)] at hc
    exact ⟨hk, Nat.le_of_lt_succ hkj, hp, hc⟩

/-! ### The earlier ones -/

/-- `viota` gives each element of a rising list the number of ones below it (06 R153). -/
theorem iotaElts_eq (x : MReg) (w : Nat) (l : List Nat) (n : Nat) (bad : Bool) (hl : l.Pairwise (· < ·)) :
    iotaElts x w l n bad = l.map fun i => (i, ⟨(n + (l.filter fun k => decide (k < i)).countP fun k => x.bits.getLsbD k) % 2 ^ w,
      bad || (l.filter fun k => decide (k < i)).any fun k => x.poison.getLsbD k⟩) := by
  induction l generalizing n bad with
  | nil => rfl
  | cons j t ih =>
    obtain ⟨hj, ht⟩ := List.pairwise_cons.1 hl
    have head : (j :: t).filter (fun k => decide (k < j)) = [] := by
      rw [List.filter_eq_nil_iff]
      intro k hk
      rcases List.mem_cons.1 hk with rfl | hk
      · simp
      · have := hj k hk
        simp only [decide_eq_true_iff]
        omega
    rw [iotaElts, ih _ _ ht, List.map_cons, head]
    refine congrArg₂ List.cons (by simp) (List.map_congr_left fun i hi => ?_)
    rw [List.filter_cons_of_pos (by exact decide_eq_true (hj i hi)), List.countP_cons, List.any_cons, Bool.or_assoc]
    have one : (if x.bits.getLsbD j = true then 1 else 0) = b2n (x.bits.getLsbD j) := rfl
    rw [one, Nat.add_assoc, Nat.add_comm (b2n _)]

theorem active_eq (h : Hart) (m : MIdx) : h.active m = (List.range h.vl).filter (h.isActive m) := by
  refine List.filter_congr fun k hk => ?_
  rw [Hart.isActive, decide_eq_true (List.mem_range.1 hk), Bool.true_and]

theorem countP_active (h : Hart) (m : MIdx) (p : Nat → Bool) (l : List Nat) :
    (l.filter (h.isActive m)).countP p = l.countP fun k => h.isActive m k && p k := by
  rw [List.countP_filter]
  exact List.countP_congr fun k _ => by rw [Bool.and_comm]

/-- The number of true active elements before element j, poisoned with the bits that it reads (06 R153). -/
def Hart.onesBefore (h : Hart) (a m : MIdx) (j : Nat) : Elt :=
  ⟨(List.range j).countP fun k => h.isActive m k && (h.regs.getM a).bits.getLsbD k,
    (List.range j).any fun k => h.isActive m k && (h.regs.getM a).poison.getLsbD k⟩

theorem iotaElts_active (h : Hart) (a m : MIdx) (w : Nat) : iotaElts (h.regs.getM a) w (h.active m) 0 false =
    (h.active m).map fun j => (j, ⟨(h.onesBefore a m j).val % 2 ^ w, (h.onesBefore a m j).bad⟩) := by
  rw [iotaElts_eq _ _ _ _ _ (pairwise_active h m)]
  simp only [active_filter_lt, countP_active, List.any_filter, Nat.zero_add, Bool.false_or]
  rfl

/-- The count over all active elements, as `vpopc` takes it. -/
theorem onesBefore_vl (h : Hart) (a m : MIdx) : h.onesBefore a m h.vl =
    ⟨((h.active m).filter fun k => (h.regs.getM a).bits.getLsbD k).length, (h.active m).any fun k => (h.regs.getM a).poison.getLsbD k⟩ := by
  rw [← List.countP_eq_length_filter, active_eq, countP_active, List.any_filter]
  rfl

/-! ### The instructions -/

theorem ewAny_ok {h : Hart} (hw : h.ewWide) : ewAny h = .ok () := by
  refine ewIn_ok _ _ ?_
  rcases hw with hw | hw | hw | hw <;> simp [hw]

theorem ewWide_pos {h : Hart} (hw : h.ewWide) : 8 ∣ h.ew ∧ 0 < h.ew := by
  rcases hw with hw | hw | hw | hw <;> simp [hw]

theorem State.writesM_congr {s : State} {i : Instr} {d : MIdx} {act : Nat → Prop} {f g : Nat → Bool × Bool} {fl : FlagSet}
    (h : ∀ j, act j → f j = g j) (hf : s.writesM i d act f fl) : s.writesM i d act g fl := by
  obtain ⟨k, e, written⟩ := hf
  refine ⟨k, e, fun j hj => ⟨fun ha => ?_, (written j hj).2⟩⟩
  rw [← h j ha]
  exact (written j hj).1 ha

theorem detached_setS {h : Hart} (hd : h.detached) (x : SReg) (v : Word) (p : Bool) : (h.setS x v p).detached := by
  unfold Hart.detached Hart.setS
  rw [Regs.setS_q]
  exact hd

/-- An instruction that writes a scalar register from elements or bits. -/
theorem scalarResult {s : State} {i : Instr} {rs : List VIdx} {legal : Hart → M Unit} {f : Hart → M Hart} (hd : s.hart.detached) (x : SReg)
    (r : Elt) (e : exec i s = vecH rs [] legal f s) (hl : legal s.hart = .ok ())
    (hf : f s.hart = .ok (s.hart.setS x (BitVec.ofNat 64 r.val) r.bad)) :
    exec i s = .next (s.goesOn (s.hart.setS x (BitVec.ofNat 64 r.val) r.bad) 4) :=
  e.trans (vecH_detached _ _ _ _ _ _ hd hl hf (detached_setS hd _ _ _))

section
variable {s : State} {a m : MIdx} (hd : s.hart.detached) (hm : s.hart.maskSound m) (hw : s.hart.ewWide)
include hd hm hw

theorem writesV_viota (v : VIdx) : s.writesV (.viota v a m) s.hart.ew v (s.hart.writes m) (s.hart.onesBefore a m) 0 := by
  have written := writesV_of_setElts (d := v) (s.hart.active m)
    (fun j => ⟨(s.hart.onesBefore a m j).val % 2 ^ s.hart.ew, (s.hart.onesBefore a m j).bad⟩) (exec_viota v a m s) hd (ewAny_ok hw)
    (ewWide_pos hw).1 (ewWide_pos hw).2 (by rw [maskClean_ok _ _ hm, iotaElts_active]; rfl) fun j => (mem_active s.hart m j).symm
  refine State.writesV_congr (fun j => ?_) written
  exact ⟨Nat.mod_mod _ _, rfl⟩

theorem vpopc_completes (x : SReg) : exec (.vpopc x a m) s = .next (s.goesOn (s.hart.setS x
    (BitVec.ofNat 64 (s.hart.onesBefore a m s.hart.vl).val) (s.hart.onesBefore a m s.hart.vl).bad) 4) := by
  refine scalarResult hd x _ (exec_vpopc x a m s) (ewAny_ok hw) ?_
  rw [maskClean_ok _ _ hm, onesBefore_vl]
  rfl
end

/-- Settles O37: most write a bit of their own element, the rest by the lowest and the earlier ones among the active elements. -/
theorem maskOperationsComplete : Obligations.MaskOperationsComplete := by
  unfold Obligations.MaskOperationsComplete
  intro d a b m v x s hd hm hw h act bit bad two noneBefore
  have row {i : Instr} {f : Hart → Nat → Bool × Bool} (e : exec i s = vecH [] [] ewAny (maskMap d m f) s) :
      s.writesM i d (h.writes m) (f h) 0 := writesM_of_maskMap s i [] ewAny d m f hd hm (ewAny_ok hw) e
  refine ⟨row (exec_mand ..), row (exec_mor ..), row (exec_mxor ..), row (exec_mandn ..), ?not, row (exec_mset ..), row (exec_mclr ..),
    ?first, writesV_viota hd hm hw v, vpopc_completes hd hm hw x⟩
  case not =>
    refine State.writesM_congr (fun j _ => ?_) (row (exec_mnot ..))
    exact congrArg (Prod.mk _) (Bool.or_self _)
  case first =>
    exact State.writesM_congr (fun j hj => firstBit_eq h a m j hj.1) (row ((exec_vmfirst ..).trans (execVmfirst_eq ..)))

end Sys2Proof.Machine
end

section
/-! Merge, slides, permutation and moves (06 R154, R155). -/
namespace Sys2Proof.Machine

/-- What a slide by k moves to element i: the element k below or above it, and where none comes from there 0, or in the k forms vd's own
element (06 R155). -/
def Hart.slid (h : Hart) (up keep : Bool) (d a : VIdx) (k i : Nat) : Elt :=
  let j := if up then i - k else i + k
  if (if up then decide (k ≤ i) else decide (j < h.vl)) then (h.regs.v[a]).elt h.ew j
  else if keep then (h.regs.v[d]).elt h.ew i else ⟨0, false⟩

theorem slid_up (h : Hart) (keep : Bool) (d a : VIdx) (k i : Nat) : h.slid true keep d a k i =
    if k ≤ i then (h.regs.v[a]).elt h.ew (i - k) else if keep then (h.regs.v[d]).elt h.ew i else ⟨0, false⟩ := by
  simp only [Hart.slid, if_true, decide_eq_true_iff]

theorem slid_down (h : Hart) (keep : Bool) (d a : VIdx) (k i : Nat) : h.slid false keep d a k i =
    if i + k < h.vl then (h.regs.v[a]).elt h.ew (i + k) else if keep then (h.regs.v[d]).elt h.ew i else ⟨0, false⟩ := by
  simp only [Hart.slid, Bool.false_eq_true, if_false, decide_eq_true_iff]

/-- The offset of a slide as a number. -/
def Hart.slideCount (h : Hart) : BOpS → Nat
  | .vs r => (h.s r).toNat
  | .vi k => k.toNat

/-- A slide whose scalar is clean has its offset (06 R146). -/
theorem slideBy_ok (h : Hart) (b : BOpS) (hb : ∀ r, b = .vs r → h.bad r = false) : h.slideBy b = .ok (h.slideCount b) := by
  cases b with
  | vi k => rfl
  | vs r =>
    exact congrArg (Except.map fun _ => (h.s r).toNat) (h.clean_ok r (hb r rfl))

/-- An element that an index selects, or 0, is poisoned with the index. -/
theorem gathered_eq (c : Prop) [Decidable c] (u j : Elt) : (let x : Elt := if c then u else ⟨0, false⟩; (⟨x.val, x.bad || j.bad⟩ : Elt)) =
    if c then ⟨u.val, u.bad || j.bad⟩ else ⟨0, j.bad⟩ := by
  split <;> rfl

section
variable {s : State} {i : Instr} {rs : List VIdx} {d a : VIdx} {m : MIdx} (hd : s.hart.detached) (hw : s.hart.ewWide)
  (hm : s.hart.maskSound m)
include hd hw hm

/-- A map over the active elements at the width in force. -/
theorem writesV_of_ewMap {f : Hart → Nat → Elt} (e : exec i s = vecH rs [d] ewAny (fun h => vecMap h.ew d m f h) s) :
    s.writesV i s.hart.ew d (s.hart.writes m) (f s.hart) 0 :=
  writesV_of_setElts (s.hart.active m) (f s.hart) e hd (ewAny_ok hw) (ewWide_pos hw).1 (ewWide_pos hw).2
    (by rw [vecMap, maskClean_ok _ _ hm]; rfl) fun j => (mem_active s.hart m j).symm

theorem writesV_of_slide {up keep : Bool} {b : BOpS} (e : exec i s = slide up keep d a b m s) (hb : ∀ r, b = .vs r → s.hart.bad r = false) :
    s.writesV i s.hart.ew d (s.hart.writes m) (s.hart.slid up keep d a (s.hart.slideCount b)) 0 := by
  refine writesV_of_setElts (s.hart.active m) _ e hd ?_ (ewWide_pos hw).1 (ewWide_pos hw).2 ?_ fun j => (mem_active s.hart m j).symm
  · rw [ewAny_ok hw, slideBy_ok _ _ hb]
    rfl
  · simp only [slideBy_ok _ _ hb, maskClean_ok _ _ hm]
    rfl

/-- `vmerge` writes every element below VL (06 R154). -/
theorem writesV_vmerge (b : VIdx) : s.writesV (.vmerge d a b m) s.hart.ew d (fun i => i < s.hart.vl)
    (fun i => (s.hart.regs.v[if (s.hart.regs.getM m).on s.hart.ew i then a else b]).elt s.hart.ew i) 0 :=
  writesV_of_setElts (List.range s.hart.vl) _ (exec_vmerge d a b m s) hd (ewAny_ok hw) (ewWide_pos hw).1 (ewWide_pos hw).2
    (by rw [maskClean_ok _ _ hm]; rfl) fun _ => List.mem_range.symm
end

/-- Settles O38: each move by the element that it brings to an element or to a scalar. -/
theorem vectorMovesComplete : Obligations.VectorMovesComplete := by
  unfold Obligations.VectorMovesComplete
  intro d a b k m x y s hd hw h va zero n toS
  have count : n = h.slideCount k := by
    cases k with
    | vs r => rfl
    | vi i => rfl
  refine ⟨fun hm => ⟨?merge, ?permute, writesV_of_ewMap hd hw hm (exec_vmv ..), writesV_of_ewMap hd hw hm (exec_vmvXs ..), fun hk => ?slides⟩,
    scalarResult hd x _ (exec_vmvSx ..) (ewAny_ok hw) rfl, fun hy => ?extract⟩
  case merge =>
    refine State.writesV_ext (fun i => ?_) (writesV_vmerge hd hw hm b)
    split <;> rfl
  case permute =>
    exact State.writesV_ext (fun i => gathered_eq _ _ _) (writesV_of_ewMap hd hw hm (exec_vperm ..))
  case slides =>
    rw [count]
    exact ⟨State.writesV_ext (slid_up h false d a _) (writesV_of_slide hd hw hm (exec_vslideup ..) hk),
      State.writesV_ext (slid_down h false d a _) (writesV_of_slide hd hw hm (exec_vslidedown ..) hk),
      State.writesV_ext (slid_up h true d a _) (writesV_of_slide hd hw hm (exec_vslideupk ..) hk),
      State.writesV_ext (slid_down h true d a _) (writesV_of_slide hd hw hm (exec_vslidedownk ..) hk)⟩
  case extract =>
    refine scalarResult hd x _ (exec_vext ..) ?_ ?_
    · rw [ewAny_ok hw]
      exact h.clean_ok y hy
    · refine congrArg (fun r : Elt => Except.ok (h.setS x (BitVec.ofNat 64 r.val) r.bad)) ?_
      rw [← ite_not]
      exact if_congr Nat.not_le rfl rfl

end Sys2Proof.Machine
end

section
/-! Reductions (06 R156, 02 R57): the tree over the active elements, its flags, and the write of element 0. -/
namespace Sys2Proof.Machine

/-- The tree of an operator over the active elements of va (02 R57). -/
def Hart.reduced (h : Hart) (w : Nat) (a : VIdx) (m : MIdx) (f : Nat → Nat → Nat × FlagSet) : Option Elt × List FlagSet :=
  treeOf f ((List.range h.vl).map fun j => if (h.regs.getM m).on w j then some ((h.regs.v[a]).elt w j) else none)

/-- Writing one element leaves the register as `writtenAs` says. -/
theorem VReg.setElt_writtenAs (r : VReg) (w j : Nat) (x : Elt) (hw : 8 ∣ w) (h0 : 0 < w) :
    r.writtenAs (r.setElt w j x) w (fun i => i = j) fun _ => x := by
  have one : r.setElts w ([j].map fun i => (i, x)) = r.setElt w j x := by
    have h4 : w ≠ 4 := by rintro rfl; omega
    simp only [VReg.setElts, if_neg h4, List.map_cons, List.map_nil, List.foldl_cons, List.foldl_nil]
  rw [← one]
  exact VReg.setElts_writtenAs r w [j] (fun _ => x) _ hw h0 fun i => List.mem_singleton.symm

section
variable {s : State} {i : Instr} {w neutral : Nat} {d a : VIdx} {m : MIdx} {f : Hart → Nat → Nat → Nat × FlagSet}
  (e : exec i s = reduce w d a m neutral f s) (hd : s.hart.detached) (hm : s.hart.maskSound m) (hw : s.hart.ew = w)
include e hd hm hw

theorem reduce_empty (hv : s.hart.vl = 0) : exec i s = .next (s.goesOn s.hart 4) := by
  refine e.trans (vecH_detached _ _ _ _ _ _ hd (ewIn_self hw) ?_ hd)
  simp only [maskClean_ok _ _ hm, hv, if_true]

/-- A reduction raises the flags of its combinations, all at element 0, then writes its result there (06 R156). -/
theorem reduce_doneOrTraps (hn : 8 ∣ w ∧ 0 < w) (hv : 0 < s.hart.vl) :
    s.doneOrTraps i ((s.hart.reduced w a m (f s.hart)).2.map fun fl => (0, fl)) (s.writesV i w d (fun j => j = 0)
      (fun _ => (s.hart.reduced w a m (f s.hart)).1.getD ⟨neutral, false⟩) (anyFlag (s.hart.reduced w a m (f s.hart)).2)) := by
  refine doneOrTraps_of_raiseAll
    (g := fun t => { t with regs := t.regs.setV d ((t.regs.v[d]).setElt w 0 ((s.hart.reduced w a m (f s.hart)).1.getD ⟨neutral, false⟩)) })
    s.hart _ e hd (ewIn_self hw) ?_ rfl (fun _ => hd) fun done => ?_
  · simp only [maskClean_ok _ _ hm, hv.ne', if_false]
    rfl
  · rw [List.map_map, show ((fun x : Nat × FlagSet => x.2) ∘ fun fl => (0, fl)) = id from rfl, List.map_id] at done
    exact ⟨_, done, VReg.setElt_writtenAs _ w 0 _ hn.1 hn.2⟩

theorem reduce_completes (hn : 8 ∣ w ∧ 0 < w) (g : Nat → Nat → Nat × FlagSet) (hg : f s.hart = g) :
    (s.hart.vl = 0 → exec i s = .next (s.goesOn s.hart 4))
    ∧ (0 < s.hart.vl →
      ((∀ x ∈ (s.hart.reduced w a m g).2, s.hart.enabledOf x = 0#16) → s.writesV i w d (fun j => j = 0)
        (fun _ => (s.hart.reduced w a m g).1.getD ⟨neutral, false⟩) (anyFlag (s.hart.reduced w a m g).2))
      ∧ ∀ x, (s.hart.reduced w a m g).2.find? (fun x => s.hart.enabledOf x != 0#16) = some x →
        exec i s = s.take (.trap (if s.hart.enabledOf x &&& 0x003F#16 = 0#16 then 0x0C else 0x0B) 0 none)) := by
  subst hg
  refine ⟨reduce_empty e hd hm hw, fun hv => ?_⟩
  obtain ⟨done, trap⟩ := reduce_doneOrTraps e hd hm hw hn hv
  refine ⟨fun quiet => done (List.forall_mem_map.2 quiet), fun x hx => trap (0, x) ?_⟩
  rw [List.find?_map]
  exact congrArg (Option.map fun fl => (0, fl)) hx
end

theorem redWidth_pos (g : RedGroup) : 8 ∣ redWidth g ∧ 0 < redWidth g := by cases g <;> decide

/-- The signed order of numbers is that of their bit vectors. -/
theorem ite_sgn_lt {α : Type} (n x y : Nat) (h0 : 0 < n) (p q : α) :
    (if sgn n x < sgn n y then p else q) = if (BitVec.ofNat n x).slt (BitVec.ofNat n y) then p else q := by
  refine if_congr ?_ rfl rfl
  rw [sgn_eq_toInt n x h0, sgn_eq_toInt n y h0, BitVec.slt_iff_toInt_lt]

/-- Settles O39: each reduction by its operator and its identity. -/
theorem reductionsComplete : Obligations.ReductionsComplete := by
  unfold Obligations.ReductionsComplete
  intro g k d a m s hd hm h red int w
  have row {i : Instr} {w neutral : Nat} {f : Hart → Nat → Nat → Nat × FlagSet} (g : Nat → Nat → Nat × FlagSet) (hn : 8 ∣ w ∧ 0 < w)
      (e : exec i s = reduce w d a m neutral f s) (hg : f s.hart = g) : red i w neutral g :=
    fun hw => reduce_completes e hd hm hw hn g hg
  have hk := bits_pos k
  have hr := redWidth_pos g
  refine ⟨row _ hk (exec_vredminu ..) rfl, row _ hk (exec_vredmaxu ..) rfl, row _ hk (exec_vredand ..) rfl,
    row _ hk (exec_vredor ..) rfl, row _ hk (exec_vredxor ..) rfl, fun F hF => ?float, fun hF => ?integer⟩
  case float =>
    have sum := row (i := .vredsum g d a m) _ hr (exec_vredsum ..) rfl
    have least := row (i := .vredmin g d a m) _ hr (exec_vredmin ..) rfl
    have greatest := row (i := .vredmax g d a m) _ hr (exec_vredmax ..) rfl
    simp only [hF] at sum least greatest
    exact ⟨sum, least, greatest⟩
  case integer =>
    have sum := row (i := .vredsum g d a m) _ hr (exec_vredsum ..) rfl
    have least := row (i := .vredmin g d a m) _ hr (exec_vredmin ..) rfl
    have greatest := row (i := .vredmax g d a m) _ hr (exec_vredmax ..) rfl
    simp only [hF, ite_sgn_lt _ _ _ hr.2] at sum least greatest
    exact ⟨sum, least, greatest⟩

end Sys2Proof.Machine
end

section
/-! Elements of any width (01 R18): what a list of written elements leaves, also at 4 bits, where two elements share a poison
bit. -/
namespace Sys2Proof.Machine

/-! ### Lists of updates -/

/-- What is read after a list of updates, of which at most one hits the place that is read. -/
theorem foldl_update {σ α β : Type} (step : σ → α → σ) (read : σ → β) (hit : α → Bool) (v : α → β) (xs : List α)
    (h : ∀ r, ∀ x ∈ xs, read (step r x) = if hit x then v x else read r)
    (hx : xs.Pairwise fun x y => ¬ (hit x = true ∧ hit y = true)) (r : σ) :
    read (xs.foldl step r) = ((xs.find? hit).map v).getD (read r) := by
  induction xs generalizing r with
  | nil => rfl
  | cons x t ih =>
    obtain ⟨hd, ht⟩ := List.pairwise_cons.1 hx
    rw [List.foldl_cons, ih (fun r y hy => h r y (List.mem_cons_of_mem x hy)) ht, h r x List.mem_cons_self]
    cases hh : hit x with
    | true =>
      have none' : t.find? hit = none := List.find?_eq_none.2 fun y hy hy' => hd y hy ⟨hh, hy'⟩
      rw [List.find?_cons_of_pos hh, none']
      rfl
    | false => rw [List.find?_cons_of_neg (by simp [hh]), if_neg Bool.false_ne_true]

/-- Updates by number, none twice: one number is hit at most once. -/
theorem pairwise_hit {α : Type} (key : α → Nat) (n : Nat) (xs : List α) (hx : xs.Pairwise fun x y => key x ≠ key y) :
    xs.Pairwise fun x y => ¬ ((key x == n) = true ∧ (key y == n) = true) :=
  hx.imp fun hne ⟨h1, h2⟩ => hne ((eq_of_beq h1).trans (eq_of_beq h2).symm)

theorem find?_key {α : Type} (key : α → Nat) (xs : List α) (hx : xs.Pairwise fun x y => key x ≠ key y) (x : α) (hm : x ∈ xs) :
    xs.find? (fun y => key y == key x) = some x := by
  induction xs with
  | nil => cases hm
  | cons y t ih =>
    obtain ⟨hd, ht⟩ := List.pairwise_cons.1 hx
    rcases List.mem_cons.1 hm with rfl | hm
    · exact List.find?_cons_of_pos (by simp)
    · rw [List.find?_cons_of_neg (by simpa using hd x hm)]
      exact ih ht hm

/-! ### The bits of an element -/

/-- A width of whole bytes, or of half a byte. -/
def EltWidth (w : Nat) : Prop := w = 4 ∨ (8 ∣ w ∧ 0 < w)

theorem EltWidth.pos {w : Nat} (hw : EltWidth w) : 0 < w := by
  rcases hw with rfl | ⟨-, h⟩
  · decide
  · exact h

theorem EltWidth.poisonN_pos {w : Nat} (hw : EltWidth w) : 0 < poisonN w := by
  unfold poisonN
  rcases hw with rfl | ⟨⟨k, rfl⟩, h⟩
  · decide
  · split <;> omega

/-- The poison bits of an element lie in its own bytes, or in the one that it shares. -/
theorem EltWidth.div_eq {w : Nat} (hw : EltWidth w) (i p : Nat) (h1 : poisonLo w i ≤ p) (h2 : p < poisonLo w i + poisonN w) :
    8 * p / w / 2 = i / 2 := by
  unfold poisonLo at h1 h2
  unfold poisonN at h2
  rcases hw with rfl | ⟨⟨k, rfl⟩, h⟩
  · simp only [show 4 < 8 by decide, if_true] at h2
    omega
  · have hk : ¬ 8 * k < 8 := by omega
    rw [if_neg hk, Nat.mul_assoc, Nat.mul_div_cancel_left _ (by decide), Nat.mul_div_cancel_left _ (by decide)] at h2
    rw [Nat.mul_assoc, Nat.mul_div_cancel_left _ (by decide)] at h1
    have e : 8 * p / (8 * k) = i := by
      rw [Nat.mul_div_mul_left _ _ (by decide)]
      exact (mul_le_div_iff k i p (by omega)).1 ⟨h1, h2⟩
    rw [e]

theorem EltWidth.poison_lt {w : Nat} (hw : EltWidth w) (i p : Nat) (hi : w * i + w ≤ 16384) (h2 : p < poisonLo w i + poisonN w) : p < 2048 := by
  unfold poisonLo poisonN at h2
  rcases hw with rfl | ⟨⟨k, rfl⟩, h⟩
  · simp only [show 4 < 8 by decide, if_true] at h2
    omega
  · rw [if_neg (show ¬ 8 * k < 8 by omega), Nat.mul_assoc, Nat.mul_div_cancel_left _ (by decide), Nat.mul_div_cancel_left _ (by decide)] at h2
    rw [Nat.mul_assoc] at hi
    omega

theorem VReg.elt_bad_iff (r : VReg) (w i : Nat) : (r.elt w i).bad = true ↔
    ∃ p, poisonLo w i ≤ p ∧ p < poisonLo w i + poisonN w ∧ r.poison.getLsbD p = true := by
  simp only [VReg.elt, bne_iff_ne, ne_eq]
  constructor
  · intro h
    obtain ⟨j, hj⟩ := Nat.exists_testBit_of_ne_zero h
    rw [field_testBit, Bool.and_eq_true, decide_eq_true_iff] at hj
    exact ⟨poisonLo w i + j, by omega, by omega, hj.2⟩
  · rintro ⟨p, h1, h2, h3⟩ h0
    have bit : (field r.poison.toNat (poisonLo w i) (poisonN w)).testBit (p - poisonLo w i) = true := by
      rw [field_testBit, Bool.and_eq_true, decide_eq_true_iff, Nat.add_sub_cancel' h1]
      exact ⟨by omega, h3⟩
    rw [h0, Nat.zero_testBit] at bit
    cases bit

theorem VReg.elt_val_eq (r : VReg) (w i v : Nat) (h : ∀ t, t < w → r.data.getLsbD (w * i + t) = v.testBit t) :
    (r.elt w i).val = v % 2 ^ w := by
  apply Nat.eq_of_testBit_eq
  intro t
  rw [VReg.elt_val_testBit, Nat.testBit_mod_two_pow]
  by_cases ht : t < w
  · rw [h t ht]
  · simp [ht]

theorem VReg.elt_bad_eq (r : VReg) (w i : Nat) (bad : Bool) (hw : EltWidth w)
    (h : ∀ p, poisonLo w i ≤ p → p < poisonLo w i + poisonN w → r.poison.getLsbD p = bad) : (r.elt w i).bad = bad := by
  rw [Bool.eq_iff_iff, VReg.elt_bad_iff]
  constructor
  · rintro ⟨p, h1, h2, h3⟩
    exact (h p h1 h2).symm.trans h3
  · intro hb
    have pos := hw.poisonN_pos
    exact ⟨poisonLo w i, le_refl _, by omega, (h _ (le_refl _) (by omega)).trans hb⟩

/-- An element whose bits are the same in two registers. -/
theorem VReg.elt_congr (r r' : VReg) (w i : Nat) (hd : ∀ t, t < w → r.data.getLsbD (w * i + t) = r'.data.getLsbD (w * i + t))
    (hp : ∀ p, poisonLo w i ≤ p → p < poisonLo w i + poisonN w → r.poison.getLsbD p = r'.poison.getLsbD p) : r.elt w i = r'.elt w i := by
  have hv : (r.elt w i).val = (r'.elt w i).val := by
    apply Nat.eq_of_testBit_eq
    intro t
    rw [VReg.elt_val_testBit, VReg.elt_val_testBit]
    by_cases ht : t < w
    · rw [hd t ht]
    · simp [ht]
  have hb : (r.elt w i).bad = (r'.elt w i).bad := by
    rw [Bool.eq_iff_iff, VReg.elt_bad_iff, VReg.elt_bad_iff]
    exact exists_congr fun p => and_congr_right fun h1 => and_congr_right fun h2 => by rw [hp p h1 h2]
  exact congrArg₂ Elt.mk hv hb

/-! ### Lists of elements -/

/-- Bit b lies in element number b / w. -/
theorem in_element_iff (w i b : Nat) (n : Prop) (h0 : 0 < w) (hn : n) : (w * i ≤ b ∧ b < w * i + w ∧ n) ↔ (i == b / w) = true := by
  rw [beq_iff_eq, eq_comm, ← mul_le_div_iff w i b h0, ← and_assoc]
  exact and_iff_left hn

theorem setElt_data_hit (r : VReg) (w b : Nat) (x : Nat × Elt) (h0 : 0 < w) (hb : b < 16384) :
    (r.setElt w x.1 x.2).data.getLsbD b = if (x.1 == b / w) = true then x.2.val.testBit (b % w) else r.data.getLsbD b := by
  refine (VReg.setElt_data r w x.1 b x.2).trans ((if_congr (in_element_iff w x.1 b _ h0 hb) rfl rfl).trans ?_)
  split
  · next h =>
    have := Nat.div_add_mod b w
    rw [← eq_of_beq h] at this
    rw [show b - w * x.1 = b % w by omega]
  · rfl

theorem setElt_poison_hit (r : VReg) (w b : Nat) (x : Nat × Elt) (hw : 8 ∣ w) (h0 : 0 < w) (hb : b < 2048) :
    (r.setElt w x.1 x.2).poison.getLsbD b = if (x.1 == 8 * b / w) = true then x.2.bad else r.poison.getLsbD b :=
  (VReg.setElt_poison r w x.1 b x.2 hw h0).trans (if_congr (in_element_iff w x.1 (8 * b) _ h0 hb) rfl rfl)

/-- A 4-bit element only sets the poison bit of its byte (01 R18). -/
theorem setElt_poison_four (r : VReg) (b : Nat) (x : Nat × Elt) (hb : b < 2048) :
    (r.setElt 4 x.1 x.2).poison.getLsbD b = (x.1 / 2 == b && x.2.bad || r.poison.getLsbD b) := by
  have lo : poisonLo 4 x.1 = x.1 / 2 := by
    unfold poisonLo
    omega
  simp only [VReg.setElt, show 4 < 8 by decide, if_true, lo]
  cases x.2.bad with
  | false => simp
  | true =>
    simp only [if_true, BitVec.getLsbD_or, BitVec.getLsbD_shiftLeft, BitVec.getLsbD_one, hb, Bool.and_true, decide_true, Bool.true_and]
    rw [Bool.or_comm]
    refine congrArg (· || r.poison.getLsbD b) (Bool.eq_iff_iff.2 ?_)
    simp only [Bool.and_eq_true, Bool.not_eq_true', decide_eq_false_iff_not, decide_eq_true_iff, beq_iff_eq]
    omega

/-- The bytes of which a rising list holds both elements. -/
theorem mem_pairBytes (xs : List (Nat × Elt)) (hx : xs.Pairwise fun x y => x.1 < y.1) (b : Nat) :
    b ∈ pairBytes xs ↔ (∃ x ∈ xs, x.1 = 2 * b) ∧ ∃ x ∈ xs, x.1 = 2 * b + 1 := by
  induction xs with
  | nil => simp [pairBytes]
  | cons x t ih =>
    obtain ⟨hd, ht⟩ := List.pairwise_cons.1 hx
    cases t with
    | nil =>
      simp only [pairBytes, List.not_mem_nil, List.mem_singleton, exists_eq_left, false_iff]
      omega
    | cons y t =>
      have tail := ih ht
      have hxy := hd y List.mem_cons_self
      have above (z) (hz : z ∈ y :: t) : y.1 ≤ z.1 := by
        rcases List.mem_cons.1 hz with rfl | hz
        · exact le_refl _
        · exact ((List.pairwise_cons.1 ht).1 z hz).le
      rw [List.exists_mem_cons_iff (fun z => z.1 = 2 * b) x (y :: t), List.exists_mem_cons_iff (fun z => z.1 = 2 * b + 1) x (y :: t)]
      unfold pairBytes
      split
      · next hc =>
        rw [List.mem_cons, tail]
        constructor
        · rintro (rfl | ⟨h1, h2⟩)
          · exact ⟨.inl (by omega), .inr ⟨y, List.mem_cons_self, by omega⟩⟩
          · exact ⟨.inr h1, .inr h2⟩
        · rintro ⟨h1 | h1, h2 | h2⟩
          · omega
          · exact .inl (by omega)
          · obtain ⟨z, hz, e⟩ := h1
            have := above z hz
            omega
          · exact .inr ⟨h1, h2⟩
      · next hc =>
        rw [tail]
        constructor
        · exact fun ⟨h1, h2⟩ => ⟨.inr h1, .inr h2⟩
        · rintro ⟨h1 | h1, h2 | h2⟩
          · omega
          · obtain ⟨z, hz, e⟩ := h2
            have := above z hz
            exact absurd ⟨by omega, by omega⟩ hc
          · obtain ⟨z, hz, e⟩ := h1
            have := above z hz
            omega
          · exact ⟨h1, h2⟩

/-- The poison bits of some bytes cleared. -/
def VReg.cleared (r : VReg) (bs : List Nat) : VReg :=
  bs.foldl (fun (r : VReg) b => { r with poison := r.poison &&& ~~~(1#2048 <<< b) }) r

theorem cleared_frame (r : VReg) (bs : List Nat) :
    (r.cleared bs).data = r.data ∧ (r.cleared bs).scale = r.scale ∧ (r.cleared bs).scaleBad = r.scaleBad := by
  unfold VReg.cleared
  induction bs generalizing r with
  | nil => exact ⟨rfl, rfl, rfl⟩
  | cons b t ih => exact ih { r with poison := r.poison &&& ~~~(1#2048 <<< b) }

theorem cleared_poison (r : VReg) (bs : List Nat) (p : Nat) (hp : p < 2048) :
    (r.cleared bs).poison.getLsbD p = (r.poison.getLsbD p && !decide (p ∈ bs)) := by
  unfold VReg.cleared
  induction bs generalizing r with
  | nil => simp
  | cons b t ih =>
    have one : (1#2048 <<< b).getLsbD p = decide (p = b) := by
      rw [BitVec.getLsbD_shiftLeft, BitVec.getLsbD_one, Bool.eq_iff_iff]
      simp only [Bool.and_eq_true, Bool.not_eq_true', decide_eq_false_iff_not, decide_eq_true_iff]
      omega
    rw [List.foldl_cons, ih, BitVec.getLsbD_and, BitVec.getLsbD_not, one]
    simp only [hp, decide_true, Bool.true_and, List.mem_cons, Bool.decide_or, Bool.not_or, Bool.and_assoc]

theorem setElts_four (r : VReg) (xs : List (Nat × Elt)) :
    r.setElts 4 xs = xs.foldl (fun r x => r.setElt 4 x.1 x.2) (r.cleared (pairBytes xs)) := by
  simp only [VReg.setElts, if_true]
  rfl

theorem setElts_wide (r : VReg) (w : Nat) (xs : List (Nat × Elt)) (hw : w ≠ 4) :
    r.setElts w xs = xs.foldl (fun r x => r.setElt w x.1 x.2) r := by
  simp only [VReg.setElts, if_neg hw]

theorem foldl_setElt_scale (w : Nat) (xs : List (Nat × Elt)) (r : VReg) :
    (xs.foldl (fun r x => r.setElt w x.1 x.2) r).scale = r.scale
    ∧ (xs.foldl (fun r x => r.setElt w x.1 x.2) r).scaleBad = r.scaleBad := by
  induction xs generalizing r with
  | nil => exact ⟨rfl, rfl⟩
  | cons x t ih => exact ih (r.setElt w x.1 x.2)

section
variable (r : VReg) {w : Nat} {xs : List (Nat × Elt)} (hw : EltWidth w) (hx : xs.Pairwise fun x y => x.1 < y.1)
include hw

/-- Writing elements leaves the scale slice. -/
theorem setElts_scale : (r.setElts w xs).scale = r.scale ∧ (r.setElts w xs).scaleBad = r.scaleBad := by
  rcases hw with rfl | ⟨h8, h0⟩
  · obtain ⟨hs, hb⟩ := foldl_setElt_scale 4 xs (r.cleared (pairBytes xs))
    obtain ⟨-, cs, cb⟩ := cleared_frame r (pairBytes xs)
    rw [setElts_four]
    exact ⟨hs.trans cs, hb.trans cb⟩
  · rw [setElts_wide r w xs (by rintro rfl; omega)]
    exact foldl_setElt_scale w xs r

include hx

/-- A data bit after elements are written. -/
theorem setElts_data (b : Nat) (hb : b < 16384) : (r.setElts w xs).data.getLsbD b =
    ((xs.find? fun x => x.1 == b / w).map fun x => x.2.val.testBit (b % w)).getD (r.data.getLsbD b) := by
  have fold (r : VReg) : (xs.foldl (fun r x => r.setElt w x.1 x.2) r).data.getLsbD b =
      ((xs.find? fun x => x.1 == b / w).map fun x => x.2.val.testBit (b % w)).getD (r.data.getLsbD b) := by
    have once := foldl_update (fun (r : VReg) (x : Nat × Elt) => r.setElt w x.1 x.2) (fun r => r.data.getLsbD b) (fun x => x.1 == b / w)
      (fun x => x.2.val.testBit (b % w)) xs (fun r x _ => setElt_data_hit r w b x hw.pos hb) (pairwise_hit Prod.fst _ xs (hx.imp Nat.ne_of_lt))
    exact once r
  by_cases h4 : w = 4
  · subst h4
    rw [setElts_four, fold, (cleared_frame r _).1]
  · rw [setElts_wide r w xs h4, fold]

/-- A poison bit after elements of whole bytes are written. -/
theorem setElts_poison (h4 : w ≠ 4) (p : Nat) (hp : p < 2048) : (r.setElts w xs).poison.getLsbD p =
    ((xs.find? fun x => x.1 == 8 * p / w).map fun x => x.2.bad).getD (r.poison.getLsbD p) := by
  obtain ⟨h8, h0⟩ := hw.resolve_left h4
  rw [setElts_wide r w xs h4]
  have once := foldl_update (fun (r : VReg) (x : Nat × Elt) => r.setElt w x.1 x.2) (fun r => r.poison.getLsbD p) (fun x => x.1 == 8 * p / w)
    (fun x => x.2.bad) xs (fun r x _ => setElt_poison_hit r w p x h8 h0 hp) (pairwise_hit Prod.fst _ xs (hx.imp Nat.ne_of_lt))
  exact once r

omit hw in
/-- A poison bit after 4-bit elements are written: that of a byte of which both are written is cleared first (01 R18). -/
theorem setElts_poison_four (p : Nat) (hp : p < 2048) : (r.setElts 4 xs).poison.getLsbD p =
    (xs.any (fun x => x.1 / 2 == p && x.2.bad)
      || (r.poison.getLsbD p && !(xs.any (fun x => x.1 == 2 * p) && xs.any fun x => x.1 == 2 * p + 1))) := by
  have fold (ys : List (Nat × Elt)) (r : VReg) : (ys.foldl (fun r x => r.setElt 4 x.1 x.2) r).poison.getLsbD p =
      (ys.any (fun x => x.1 / 2 == p && x.2.bad) || r.poison.getLsbD p) := by
    induction ys generalizing r with
    | nil => simp
    | cons y t ih => rw [List.foldl_cons, ih, setElt_poison_four r p y hp, List.any_cons, Bool.or_left_comm, Bool.or_assoc]
  have both : decide (p ∈ pairBytes xs) = (xs.any (fun x => x.1 == 2 * p) && xs.any fun x => x.1 == 2 * p + 1) := by
    rw [Bool.eq_iff_iff, decide_eq_true_iff, mem_pairBytes xs hx, Bool.and_eq_true]
    simp only [List.any_eq_true, beq_iff_eq]
  rw [setElts_four, fold, cleared_poison r _ p hp, both]

/-- Writing a list of elements in rising order leaves what `writtenBy` says. -/
theorem setElts_writtenBy : r.writtenBy (r.setElts w xs) w xs := by
  have distinct : xs.Pairwise fun x y => x.1 ≠ y.1 := hx.imp Nat.ne_of_lt
  obtain ⟨hs, hsb⟩ := setElts_scale r (xs := xs) hw
  refine ⟨hs, hsb, fun x hm hi => VReg.elt_val_eq _ _ _ _ fun t ht => ?_, fun b hb hn => ?_, fun b hb => ?_⟩
  · have number : (w * x.1 + t) / w = x.1 := by rw [Nat.mul_add_div hw.pos, Nat.div_eq_of_lt ht, Nat.add_zero]
    rw [setElts_data r hw hx _ (by omega), number, find?_key Prod.fst xs distinct x hm, Nat.mul_add_mod, Nat.mod_eq_of_lt ht]
    rfl
  · have none' : (xs.find? fun x => x.1 == b / w) = none := List.find?_eq_none.2 fun x hm hh => hn x hm (eq_of_beq hh)
    rw [setElts_data r hw hx b hb, none']
    rfl
  · split
    · next h4 =>
      subst h4
      exact setElts_poison_four r hx b hb
    · next h4 =>
      rw [setElts_poison r hw hx h4 b hb]
      cases xs.find? fun x => x.1 == 8 * b / w with
      | none => rfl
      | some x => rfl
end

end Sys2Proof.Machine
end

section
/-! Blocks of 32 elements with their scale entries (02 R52-R54, R61): what writing blocks leaves, and that a conversion forms whole blocks,
each once. -/
namespace Sys2Proof.Machine

/-! ### Scale entries -/

/-- An entry of the scale slice after one is written. -/
theorem scaleAt_setScale (r : VReg) (b e k : Nat) (bad : Bool) (hk : k < 128) :
    (r.setScale b e bad).scaleAt k = if (b == k) = true then e % 256 else r.scaleAt k := by
  have low (x : Nat) : field (x % 2 ^ 1024) (8 * k) 8 = field x (8 * k) 8 := by
    apply Nat.eq_of_testBit_eq
    intro i
    rw [field_testBit, field_testBit, Nat.testBit_mod_two_pow]
    by_cases hi : i < 8
    · simp [show 8 * k + i < 1024 by omega]
    · simp [hi]
  simp only [VReg.scaleAt, VReg.setScale, BitVec.toNat_ofNat, low]
  split
  · next h =>
    rw [eq_of_beq h]
    exact field_setField_same _ _ 8 e
  · next h =>
    have : b ≠ k := by simpa using h
    exact field_setField_other _ _ _ _ _ _ (by omega)

theorem scaleIsBad_setScale (r : VReg) (b e k : Nat) (bad : Bool) (hk : k < 128) :
    (r.setScale b e bad).scaleIsBad k = if (b == k) = true then bad else r.scaleIsBad k := by
  simp only [VReg.scaleIsBad, VReg.setScale, BitVec.getLsbD_ofNat, hk, decide_true, Bool.true_and, setField_testBit, b2n_testBit]
  by_cases h : b = k
  · simp [h]
  · rw [if_neg (show ¬ (b ≤ k ∧ k < b + 1) by omega), if_neg (by simpa using h)]
    rfl

/-! ### One block -/

/-- The elements of a block, by number. -/
def Block.elts (b : Block) : List (Nat × Elt) := b.codes.zipIdx.map fun x => (32 * b.b + x.2, (⟨x.1, b.bad⟩ : Elt))

theorem putBlock_eq (r : VReg) (w : Nat) (b : Block) : r.putBlock w b = (r.setElts w b.elts).setScale b.b b.e b.bad := rfl

section
variable {b : Block} (hc : b.codes.length = 32)

theorem pairwise_elts : b.elts.Pairwise fun x y => x.1 < y.1 := by
  unfold Block.elts
  rw [List.pairwise_map]
  have rising : (b.codes.zipIdx.map Prod.snd).Pairwise (· < ·) := by
    rw [List.zipIdx_map_snd]
    exact List.pairwise_lt_range'
  exact (List.pairwise_map.1 rising).imp fun h => Nat.add_lt_add_left h _

theorem mem_elts (x : Nat × Elt) : x ∈ b.elts ↔ ∃ j, b.codes[j]? = some x.2.val ∧ x.1 = 32 * b.b + j ∧ x.2.bad = b.bad := by
  unfold Block.elts
  simp only [List.mem_map, Prod.exists, List.mem_zipIdx_iff_getElem?]
  constructor
  · rintro ⟨v, j, h, rfl⟩
    exact ⟨j, h, rfl, rfl⟩
  · rintro ⟨j, h, h1, h2⟩
    obtain ⟨i, v, p⟩ := x
    subst h1 h2
    exact ⟨v, j, h, rfl⟩

include hc

/-- The element of a block that has a given number. -/
theorem find?_elts (n : Nat) : b.elts.find? (fun x => x.1 == n) =
    if n / 32 = b.b then some (n, ⟨(b.codes[n % 32]?).getD 0, b.bad⟩) else none := by
  split
  · next h =>
    have hn : n % 32 < b.codes.length := by omega
    have code : b.codes[n % 32]? = some ((b.codes[n % 32]?).getD 0) := by
      rw [List.getElem?_eq_getElem hn]
      rfl
    have mem : (n, (⟨(b.codes[n % 32]?).getD 0, b.bad⟩ : Elt)) ∈ b.elts :=
      (mem_elts _).2 ⟨n % 32, code, by show n = 32 * b.b + n % 32; omega, rfl⟩
    exact find?_key Prod.fst b.elts (pairwise_elts.imp Nat.ne_of_lt) _ mem
  · next h =>
    refine List.find?_eq_none.2 fun x hx hn => h ?_
    obtain ⟨j, hj, hx, -⟩ := (mem_elts x).1 hx
    have : j < b.codes.length := (List.getElem?_eq_some_iff.1 hj).1
    rw [← eq_of_beq hn]
    omega

variable (r : VReg) {w : Nat} (hw : EltWidth w)
include hw

/-- A data bit after a block is written. -/
theorem putBlock_data (q : Nat) (hq : q < 16384) : (r.putBlock w b).data.getLsbD q =
    if (b.b == q / w / 32) = true then ((b.codes[q / w % 32]?).getD 0).testBit (q % w) else r.data.getLsbD q := by
  refine (setElts_data r hw pairwise_elts q hq).trans ?_
  rw [find?_elts hc, if_congr (show q / w / 32 = b.b ↔ (b.b == q / w / 32) = true by rw [beq_iff_eq, eq_comm]) rfl rfl]
  split
  · rfl
  · rfl

/-- A poison bit after a block is written. -/
theorem putBlock_poison (p : Nat) (hp : p < 2048) : (r.putBlock w b).poison.getLsbD p =
    if (b.b == 8 * p / w / 32) = true then b.bad else r.poison.getLsbD p := by
  show (r.setElts w b.elts).poison.getLsbD p = _
  by_cases h4 : w = 4
  · subst h4
    have found (n : Nat) : b.elts.any (fun x => x.1 == n) = decide (n / 32 = b.b) := by
      rw [← List.isSome_find?, find?_elts hc]
      split
      · next h => simp [h]
      · next h => simp [h]
    have bad : b.elts.any (fun x => x.1 / 2 == p && x.2.bad) = (decide (2 * p / 32 = b.b) && b.bad) := by
      rw [Bool.eq_iff_iff]
      simp only [List.any_eq_true, Bool.and_eq_true, beq_iff_eq, decide_eq_true_iff]
      constructor
      · rintro ⟨x, hx, h2, hb⟩
        obtain ⟨j, hj, h1, h3⟩ := (mem_elts x).1 hx
        have : j < b.codes.length := (List.getElem?_eq_some_iff.1 hj).1
        exact ⟨by omega, h3 ▸ hb⟩
      · rintro ⟨h, hb⟩
        have := find?_elts hc (2 * p)
        rw [if_pos h] at this
        exact ⟨_, List.mem_of_find?_eq_some this, by show 2 * p / 2 = p; omega, hb⟩
    rw [setElts_poison_four r pairwise_elts p hp, found, found, bad]
    have e : 8 * p / 4 / 32 = 2 * p / 32 := by omega
    have e' : (2 * p + 1) / 32 = 2 * p / 32 := by omega
    rw [e, e']
    by_cases h : 2 * p / 32 = b.b
    · simp [h]
    · simp [h, Ne.symm h]
  · rw [setElts_poison r hw pairwise_elts h4 p hp, find?_elts hc,
      if_congr (show 8 * p / w / 32 = b.b ↔ (b.b == 8 * p / w / 32) = true by rw [beq_iff_eq, eq_comm]) rfl rfl]
    split
    · rfl
    · rfl

omit hc in
theorem putBlock_scaleAt (k : Nat) (hk : k < 128) :
    (r.putBlock w b).scaleAt k = if (b.b == k) = true then b.e % 256 else r.scaleAt k := by
  rw [putBlock_eq, scaleAt_setScale _ _ _ _ _ hk]
  unfold VReg.scaleAt
  rw [(setElts_scale r hw).1]

omit hc in
theorem putBlock_scaleIsBad (k : Nat) (hk : k < 128) :
    (r.putBlock w b).scaleIsBad k = if (b.b == k) = true then b.bad else r.scaleIsBad k := by
  rw [putBlock_eq, scaleIsBad_setScale _ _ _ _ _ hk]
  unfold VReg.scaleIsBad
  rw [(setElts_scale r hw).2]
end

/-! ### Several blocks -/

/-- The register with blocks written. -/
def VReg.putBlocks (r : VReg) (w : Nat) (bs : List Block) : VReg := bs.foldl (fun r b => r.putBlock w b) r

section
variable (r : VReg) {w : Nat} {bs : List Block} (hw : EltWidth w) (hb : bs.Pairwise fun x y => x.b ≠ y.b)
  (hc : ∀ b ∈ bs, b.codes.length = 32)
include hw hb

theorem putBlocks_scaleAt (k : Nat) (hk : k < 128) :
    (r.putBlocks w bs).scaleAt k = ((bs.find? fun b => b.b == k).map fun b => b.e % 256).getD (r.scaleAt k) := by
  have once := foldl_update (fun (r : VReg) b => r.putBlock w b) (fun r => r.scaleAt k) (fun b => b.b == k) (fun b => b.e % 256) bs
    (fun r b _ => putBlock_scaleAt r hw k hk) (pairwise_hit Block.b k bs hb)
  exact once r

theorem putBlocks_scaleIsBad (k : Nat) (hk : k < 128) :
    (r.putBlocks w bs).scaleIsBad k = ((bs.find? fun b => b.b == k).map fun b => b.bad).getD (r.scaleIsBad k) := by
  have once := foldl_update (fun (r : VReg) b => r.putBlock w b) (fun r => r.scaleIsBad k) (fun b => b.b == k) (fun b => b.bad) bs
    (fun r b _ => putBlock_scaleIsBad r hw k hk) (pairwise_hit Block.b k bs hb)
  exact once r

include hc

theorem putBlocks_data (q : Nat) (hq : q < 16384) : (r.putBlocks w bs).data.getLsbD q =
    ((bs.find? fun b => b.b == q / w / 32).map fun b => ((b.codes[q / w % 32]?).getD 0).testBit (q % w)).getD (r.data.getLsbD q) := by
  have once := foldl_update (fun (r : VReg) b => r.putBlock w b) (fun r => r.data.getLsbD q) (fun b => b.b == q / w / 32)
    (fun b => ((b.codes[q / w % 32]?).getD 0).testBit (q % w)) bs (fun r b h => putBlock_data (hc b h) r hw q hq)
    (pairwise_hit Block.b _ bs hb)
  exact once r

theorem putBlocks_poison (p : Nat) (hp : p < 2048) : (r.putBlocks w bs).poison.getLsbD p =
    ((bs.find? fun b => b.b == 8 * p / w / 32).map fun b => b.bad).getD (r.poison.getLsbD p) := by
  have once := foldl_update (fun (r : VReg) b => r.putBlock w b) (fun r => r.poison.getLsbD p) (fun b => b.b == 8 * p / w / 32)
    (fun b => b.bad) bs (fun r b h => putBlock_poison (hc b h) r hw p hp) (pairwise_hit Block.b _ bs hb)
  exact once r

omit hb hc in
/-- The poison bits of an element lie in its block. -/
theorem poison_in_block (i p : Nat) (h1 : poisonLo w i ≤ p) (h2 : p < poisonLo w i + poisonN w) : 8 * p / w / 32 = i / 32 := by
  have := hw.div_eq i p h1 h2
  omega

omit hb hc in
theorem data_in_element (i t : Nat) (ht : t < w) : (w * i + t) / w = i ∧ (w * i + t) % w = t :=
  ⟨by rw [Nat.mul_add_div hw.pos, Nat.div_eq_of_lt ht, Nat.add_zero], by rw [Nat.mul_add_mod, Nat.mod_eq_of_lt ht]⟩

/-- An element of a block that is written. -/
theorem putBlocks_elt (b : Block) (hm : b ∈ bs) (j : Nat) (hj : j < 32) (hi : w * (32 * b.b + j) + w ≤ 16384) :
    (r.putBlocks w bs).elt w (32 * b.b + j) = ⟨(b.codes[j]?).getD 0 % 2 ^ w, b.bad⟩ := by
  have block : (32 * b.b + j) / 32 = b.b := by omega
  have found := find?_key Block.b bs hb b hm
  refine congrArg₂ Elt.mk (VReg.elt_val_eq _ w _ _ fun t ht => ?_) (VReg.elt_bad_eq _ w _ _ hw fun p h1 h2 => ?_)
  · obtain ⟨number, bit⟩ := data_in_element hw (32 * b.b + j) t ht
    rw [putBlocks_data r hw hb hc _ (by omega), number, bit, block, found, Nat.mul_add_mod, Nat.mod_eq_of_lt hj]
    rfl
  · rw [putBlocks_poison r hw hb hc p (hw.poison_lt _ p hi h2), poison_in_block hw _ p h1 h2, block, found]
    rfl

/-- An element of a block that is not written. -/
theorem putBlocks_elt_other (k : Nat) (hn : ∀ b ∈ bs, b.b ≠ k) (j : Nat) (hj : j < 32) (hi : w * (32 * k + j) + w ≤ 16384) :
    (r.putBlocks w bs).elt w (32 * k + j) = r.elt w (32 * k + j) := by
  have block : (32 * k + j) / 32 = k := by omega
  have none' : (bs.find? fun b => b.b == k) = none := List.find?_eq_none.2 fun b hm hh => hn b hm (eq_of_beq hh)
  refine VReg.elt_congr _ _ w _ (fun t ht => ?_) fun p h1 h2 => ?_
  · obtain ⟨number, -⟩ := data_in_element hw (32 * k + j) t ht
    rw [putBlocks_data r hw hb hc _ (by omega), number, block, none']
    rfl
  · rw [putBlocks_poison r hw hb hc p (hw.poison_lt _ p hi h2), poison_in_block hw _ p h1 h2, block, none']
    rfl

omit hb hc hw in
theorem element_in_block (w k j : Nat) (hj : j < 32) (h : w * (32 * k + 32) ≤ 16384) : w * (32 * k + j) + w ≤ 16384 := by
  have le : w * (32 * k + j + 1) ≤ w * (32 * k + 32) := Nat.mul_le_mul_left w (by omega)
  rw [Nat.mul_add_one] at le
  exact le.trans h

/-- Writing whole blocks leaves what `writtenInBlocks` says. -/
theorem putBlocks_writtenInBlocks : r.writtenInBlocks (r.putBlocks w bs) w bs := by
  constructor
  · intro b hm hk hlen
    have found := find?_key Block.b bs hb b hm
    rw [putBlocks_scaleAt r hw hb _ hk, putBlocks_scaleIsBad r hw hb _ hk, found]
    exact ⟨rfl, rfl, fun j hj => putBlocks_elt r hw hb hc b hm j hj (element_in_block w b.b j hj hlen)⟩
  · intro k hk hn
    have none' : (bs.find? fun b => b.b == k) = none := List.find?_eq_none.2 fun b hm hh => hn b hm (eq_of_beq hh)
    rw [putBlocks_scaleAt r hw hb _ hk, putBlocks_scaleIsBad r hw hb _ hk, none']
    exact ⟨rfl, rfl, fun hlen j hj => putBlocks_elt_other r hw hb hc k hn j hj (element_in_block w k j hj hlen)⟩
end

end Sys2Proof.Machine
end

section
/-! Conversions (06 R157-R161, 02 R48): the draws of a stochastic form, the blocks that a conversion forms, and their flags. -/
namespace Sys2Proof.Machine

/-! ### Draws -/

/-- Hart h after draws of its stochastic-rounding generator. -/
def Hart.drawn (h h' : Hart) : Prop := ∃ x, h' = { h with regs := { h.regs with h := { h.regs.h with seed := x } } }

theorem Hart.drawn_refl (h : Hart) : h.drawn h := ⟨h.regs.h.seed, rfl⟩

theorem Hart.drawn_trans {h h' h'' : Hart} (h1 : h.drawn h') (h2 : h'.drawn h'') : h.drawn h'' := by
  obtain ⟨x, rfl⟩ := h1
  obtain ⟨y, rfl⟩ := h2
  exact ⟨y, rfl⟩

theorem withDraws_drawn (sto : Bool) (r : Rnd) (l : List Nat) (h : Hart) : h.drawn (withDraws sto r l h).1 := by
  induction l generalizing h with
  | nil => exact h.drawn_refl
  | cons i t ih =>
    unfold withDraws
    cases sto with
    | true => exact Hart.drawn_trans ⟨_, rfl⟩ (ih h.draw.1)
    | false => exact ih h

/-- Each element has its draw, in order. -/
theorem withDraws_numbers (sto : Bool) (r : Rnd) (l : List Nat) (h : Hart) : (withDraws sto r l h).2.map Prod.fst = l := by
  induction l generalizing h with
  | nil => rfl
  | cons i t ih =>
    unfold withDraws
    cases sto with
    | true => exact congrArg (List.cons i) (ih h.draw.1)
    | false => exact congrArg (List.cons i) (ih h)

theorem withDraws_off (r : Rnd) (l : List Nat) (h : Hart) : withDraws false r l h = (h, l.map fun i => (i, r)) := by
  induction l with
  | nil => rfl
  | cons i t ih =>
    rw [withDraws, if_neg Bool.false_ne_true, ih]
    rfl

/-! ### Flags -/

/-- Elements that raise no flag add none. -/
theorem anyFlag_ite (xs : List (Nat × Elt × FlagSet)) :
    anyFlag ((flagsOf xs).map Prod.snd) = anyFlag ((xs.filter fun x => !x.2.1.bad).map fun x => x.2.2) := by
  have fold (g : FlagSet) : ((flagsOf xs).map Prod.snd).foldl (fun a f => a ||| f) g
      = ((xs.filter fun x => !x.2.1.bad).map fun x => x.2.2).foldl (fun a f => a ||| f) g := by
    unfold flagsOf
    induction xs generalizing g with
    | nil => rfl
    | cons x t ih =>
      cases hb : x.2.1.bad with
      | true =>
        rw [List.filter_cons_of_neg (by simp [hb])]
        simp only [List.map_cons, List.foldl_cons, hb, if_true, BitVec.ofNat_eq_ofNat, BitVec.or_zero]
        exact ih g
      | false =>
        rw [List.filter_cons_of_pos (by simp [hb])]
        simp only [List.map_cons, List.foldl_cons, hb, Bool.false_eq_true, if_false]
        exact ih (g ||| x.2.2)
  exact fold 0

theorem anyFlag_blocks (bs : List Block) : anyFlag ((flagsOfBlocks bs).map Prod.snd) = blocksFlag bs := by
  refine congrArg anyFlag ?_
  unfold flagsOfBlocks
  induction bs with
  | nil => rfl
  | cons b t ih =>
    rw [List.flatMap_cons, List.map_append, ih]
    cases hb : b.bad with
    | true => rw [List.filter_cons_of_neg (by simp [hb]), if_pos rfl, List.map_nil, List.nil_append]
    | false => rw [List.filter_cons_of_pos (by simp [hb]), if_neg Bool.false_ne_true, List.flatMap_cons]

/-! ### Blocks -/

theorem nodup_eraseDups (l : List Nat) : l.eraseDups.Nodup := by
  induction hn : l.length using Nat.strong_induction_on generalizing l with
  | _ n ih =>
    cases l with
    | nil => exact List.nodup_nil
    | cons a t =>
      rw [List.eraseDups_cons, List.nodup_cons]
      have shorter : (t.filter fun b => !b == a).length < n := by
        rw [← hn]
        exact Nat.lt_succ_of_le (List.length_filter_le _ _)
      refine ⟨fun h => ?_, ih _ shorter _ rfl⟩
      rw [List.mem_eraseDups, List.mem_filter] at h
      simp at h

/-- The blocks of a list of elements, each once. -/
theorem blocksOf_distinct (l : List Nat) : (blocksOf l).Pairwise fun x y => x.1 ≠ y.1 := by
  unfold blocksOf
  rw [List.pairwise_map]
  exact nodup_eraseDups _

/-- The blocks of a quantisation are those that it is given, whole. -/
theorem mxBlocks_blocks (mx : MxFmt) (src : MxSide) (sto : Bool) (a : VIdx) (l : List (Nat × List Nat)) (h : Hart) :
    (mxBlocks mx src sto a l h).2.map Block.b = l.map Prod.fst ∧ (∀ b ∈ (mxBlocks mx src sto a l h).2, b.codes.length = 32)
    ∧ h.drawn (mxBlocks mx src sto a l h).1 := by
  induction l generalizing h with
  | nil => exact ⟨rfl, fun _ hb => absurd hb List.not_mem_nil, h.drawn_refl⟩
  | cons x t ih =>
    obtain ⟨b, act⟩ := x
    unfold mxBlocks
    obtain ⟨hb, hc, hd⟩ := ih (withDraws sto h.rnd act h).1
    refine ⟨congrArg (List.cons b) hb, ?_, Hart.drawn_trans (withDraws_drawn sto h.rnd act h) hd⟩
    rw [List.forall_mem_cons]
    exact ⟨by rw [List.length_map, List.length_range], hc⟩

theorem xbfLoop_length (ys : List Int) (sh e : Int) (ad : Bool) (n : Nat) (e2 : Int) : (xbfLoop ys sh e ad n e2).1.length = ys.length := by
  have try' (e3 : Int) : (xbfTry ys sh e e3).length = ys.length := List.length_map ..
  induction n generalizing e2 with
  | zero => exact try' 254
  | succ n ih =>
    unfold xbfLoop
    extract_lets clip e3 q
    split
    · exact ih _
    · exact try' _

theorem xbfRenorm_length (ys : List Int) (sh e : Int) (k : Nat) (fixed : Bool) : (xbfRenorm ys sh e k fixed).1.length = ys.length := by
  unfold xbfRenorm
  simp only
  rw [List.length_map, xbfLoop_length]

theorem packMant_length_real (l : List Int) : (packMant false l).length = l.length := by
  induction l with
  | nil => rfl
  | cons x t ih =>
    cases t with
    | nil => rfl
    | cons y t => exact congrArg Nat.succ ih

theorem packMant_length_complex (n : Nat) (l : List Int) (hl : l.length = n * 2) : (packMant true l).length = n := by
  induction n generalizing l with
  | zero =>
    rw [Nat.zero_mul, List.length_eq_zero_iff] at hl
    subst hl
    rfl
  | succ n ih =>
    obtain ⟨x, l, rfl⟩ := List.exists_cons_of_length_pos (show 0 < l.length by omega)
    rw [List.length_cons] at hl
    obtain ⟨y, t, rfl⟩ := List.exists_cons_of_length_pos (show 0 < l.length by omega)
    rw [List.length_cons] at hl
    exact congrArg Nat.succ (ih t (by omega))

theorem length_flatten_const {α : Type} (c : Nat) (ls : List (List α)) (h : ∀ l ∈ ls, l.length = c) : ls.flatten.length = ls.length * c := by
  induction ls with
  | nil => simp
  | cons l t ih =>
    obtain ⟨hl, ht⟩ := List.forall_mem_cons.1 h
    rw [List.flatten_cons, List.length_append, ih ht, hl, List.length_cons, Nat.succ_mul, Nat.add_comm]

/-- A source that converts to an XBF format has one component, or two (02 R54). -/
theorem cvtPair_xbf (dst src : Format) (hp : cvtPair dst src = true) (hx : dst.group = .x) : src.group = .f ∨ src.group = .c := by
  unfold cvtPair at hp
  rw [hx] at hp
  cases hs : src.group with
  | f => exact .inl rfl
  | c => exact .inr rfl
  | i | n | m | x | r => simp [hs] at hp

theorem srcVals_length (src : Format) (raw : Nat) (hs : src.group = .f ∨ src.group = .c) :
    (srcVals src raw).length = if src.group == .c then 2 else 1 := by
  cases src with
  | fp64 | fp32 | fp16 | bf16 | cbf16 | cfp32 => rfl
  | _ => exact absurd hs (by decide)

/-- A block of a conversion into an XBF format is whole. -/
theorem xbfBlock_whole (h : Hart) (src : Format) (a : VIdx) (b : Nat) (act : List Nat) (hs : src.group = .f ∨ src.group = .c) :
    (xbfBlock h src a b act).b = b ∧ (xbfBlock h src a b act).codes.length = 32 := by
  unfold xbfBlock
  extract_lets cplx r vals bad
  have components : ∀ l ∈ vals, l.length = if cplx then 2 else 1 := by
    simp only [vals, List.forall_mem_map]
    intro j _
    split
    · exact srcVals_length src _ hs
    · exact List.length_replicate ..
  have total : vals.flatten.length = 32 * if cplx then 2 else 1 := by
    rw [length_flatten_const _ vals components, List.length_map, List.length_range]
  split
  · exact ⟨rfl, List.length_replicate ..⟩
  · refine ⟨rfl, ?_⟩
    generalize hm : (xbfRenorm (gridOf vals.flatten).1 (gridOf vals.flatten).2 142 0 false).1.map Prod.fst = mants
    have length : mants.length = 32 * if cplx then 2 else 1 := by
      rw [← hm, List.length_map, xbfRenorm_length, ← total]
      exact List.length_map ..
    show (packMant cplx mants).length = 32
    cases hc : cplx with
    | true => exact packMant_length_complex 32 mants (by rw [length, hc]; rfl)
    | false => rw [packMant_length_real, length, hc]; rfl

end Sys2Proof.Machine
end

section
/-! The conversions themselves (06 R157-R161): elements to a format without scale, blocks to an XBF or MX format, and back from MX. -/
namespace Sys2Proof.Machine

theorem Hart.drawn_fields {h h' : Hart} (hs : h.drawn h') :
    h'.regs.v = h.regs.v ∧ h'.regs.h.fenable = h.regs.h.fenable ∧ h'.regs.h.twg = h.regs.h.twg := by
  obtain ⟨x, rfl⟩ := hs
  exact ⟨rfl, rfl, rfl⟩

theorem Hart.drawn_detached {h h' : Hart} (hs : h.drawn h') (hd : h.detached) : h'.detached := by
  obtain ⟨x, rfl⟩ := hs
  exact hd

theorem orFlags_setV_eq (h : Hart) (fl : FlagSet) (d : VIdx) (v : VReg) :
    ({ h.orFlags fl with regs := (h.orFlags fl).regs.setV d v } : Hart) = h.withV (h.regs.v.set d v) fl h.regs.h.twg := rfl

/-! ### Blocks -/

/-- An instruction that forms blocks raises their flags, then writes them (06 R159, R160). -/
theorem doneOrTraps_of_putBlocks {s : State} {i : Instr} {rs ds : List VIdx} {legal : Hart → M Unit} {f : Hart → M Hart} {d : VIdx} {w : Nat}
    {bs : List Block} (h : Hart) (e : exec i s = vecH rs ds legal f s) (hd : s.hart.detached) (hl : legal s.hart = .ok ())
    (hs : s.hart.drawn h) (hf : f s.hart = h.putBlocks d w bs) (hw : EltWidth w) (hb : bs.Pairwise fun x y => x.b ≠ y.b)
    (hc : ∀ b ∈ bs, b.codes.length = 32) : s.doneOrTraps i (flagsOfBlocks bs) (s.writesBlocks i h w d bs h.regs.h.twg) := by
  obtain ⟨hv, hen, -⟩ := Hart.drawn_fields hs
  have hd' : h.detached := Hart.drawn_detached hs hd
  refine doneOrTraps_of_raiseAll (g := fun t => { t with regs := t.regs.setV d ((t.regs.v[d]).putBlocks w bs) }) h _ e hd hl hf hen
    (fun _ => hd') fun done => ?_
  rw [anyFlag_blocks, orFlags_setV_eq] at done
  refine ⟨_, done, ?_⟩
  rw [← hv]
  exact putBlocks_writtenInBlocks (h.regs.v[d]) hw hb hc

theorem mxWidth_cases (q : MxFmt) : EltWidth q.width := by
  cases q with
  | e2m1 => exact .inl rfl
  | _ => exact .inr (by decide)

theorem fmtWidth_cases (f : Format) : EltWidth (fmtWidth f) := by
  cases f with
  | e2m1 | mxe2m1 => exact .inl rfl
  | _ => exact .inr (by decide)

/-! ### Elements -/

/-- What a conversion to a format without scale gives for element j, rounded by rm (06 R157, R158). -/
def Hart.cvtAt (h : Hart) (dst src : Format) (md : Bool) (a : VIdx) (j : Nat) (rm : Rnd) : Elt × FlagSet :=
  let u := (h.regs.v[a]).elt (fmtWidth src) j
  let y := cvtElt dst src md rm h.fz ((h.regs.v[a]).scaleAt (j / 32)) u.val
  (⟨y.1, u.bad || (fmtScaled src && (h.regs.v[a]).scaleIsBad (j / 32))⟩, y.2)

/-- The form of a conversion takes draws (02 R48). -/
def Hart.cvtDraws (h : Hart) (dst src : Format) (md : Bool) : Bool :=
  (md && src.group == .f) || ((dst == .bf16 || dst == .e4m3 || dst == .e5m2) && src.group != .x && h.regs.h.rmode == 4#3)

/-- The source element of a conversion, with the poison of its scale entry (02 R52). -/
theorem source_eq (r : VReg) (src : Format) (j : Nat) : (if fmtScaled src then r.scaled (fmtWidth src) j else r.elt (fmtWidth src) j) =
    ⟨(r.elt (fmtWidth src) j).val, (r.elt (fmtWidth src) j).bad || (fmtScaled src && r.scaleIsBad (j / 32))⟩ := by
  cases fmtScaled src with
  | true => rfl
  | false => rw [Bool.false_and, Bool.or_false]; rfl

section
variable {s : State} {dst src : Format} {md : Bool} {d a : VIdx} {m : MIdx} (hd : s.hart.detached) (hm : s.hart.maskSound m)
  (hp : cvtPair dst src = true) (hmd : md = true → cvtMod dst src = true) (hw : s.hart.ew = max (fmtWidth dst) (fmtWidth src))
include hm hp hmd hw

omit hm in
theorem vcvt_legal : (if !(cvtPair dst src && (!md || cvtMod dst src)) then .error illegal
    else ewIn [max (fmtWidth dst) (fmtWidth src)] s.hart : M Unit) = .ok () := by
  have ok : (cvtPair dst src && (!md || cvtMod dst src)) = true := by
    rw [hp, Bool.true_and]
    cases md with
    | true => exact hmd rfl
    | false => rfl
  rw [ok]
  exact ewIn_self hw

/-- A conversion to a format without scale draws, raises the flags of its elements, and writes them. -/
theorem vcvt_effect (hg : dst.group ≠ .x) : ∃ legal f, exec (.vcvt dst src md d a m) s = vecH [a] [d] legal f s
    ∧ legal s.hart = .ok () ∧ f s.hart =
      let y := withDraws (s.hart.cvtDraws dst src md) s.hart.rnd (s.hart.active m) s.hart
      let xs := y.2.map fun x => (x.1, s.hart.cvtAt dst src md a x.1 x.2)
      (y.1.raiseAll (flagsOf xs)).map fun t =>
        { t with regs := t.regs.setV d ((t.regs.v[d]).setElts (fmtWidth dst) (xs.map fun x => (x.1, x.2.1))) } := by
  refine ⟨_, _, exec_vcvt dst src md d a m s, vcvt_legal hp hmd hw, ?_⟩
  simp only [maskClean_ok _ _ hm, if_neg hg, source_eq]
  rfl

include hd

theorem vcvt_doneOrTraps (hg : dst.group ≠ .x) :
    let y := withDraws (s.hart.cvtDraws dst src md) s.hart.rnd (s.hart.active m) s.hart
    let xs := y.2.map fun x => (x.1, s.hart.cvtAt dst src md a x.1 x.2)
    s.doneOrTraps (.vcvt dst src md d a m) (flagsOf xs) (∃ v, exec (.vcvt dst src md d a m) s = .next (s.goesOn
        (y.1.withV (s.hart.regs.v.set d v) (anyFlag ((xs.filter fun x => !x.2.1.bad).map fun x => x.2.2)) s.hart.regs.h.twg) 4)
      ∧ (s.hart.regs.v[d]).writtenBy v (fmtWidth dst) (xs.map fun x => (x.1, x.2.1))) := by
  intro y xs
  obtain ⟨legal, f, e, hl, hf⟩ := vcvt_effect (d := d) (a := a) hm hp hmd hw hg
  have hs : s.hart.drawn y.1 := withDraws_drawn _ _ _ _
  have hd' : y.1.detached := Hart.drawn_detached hs hd
  obtain ⟨hv, hen, htwg⟩ := Hart.drawn_fields hs
  have rising : (xs.map fun x => (x.1, x.2.1)).Pairwise fun x y => x.1 < y.1 := by
    have numbers : y.2.map Prod.fst = s.hart.active m := withDraws_numbers _ _ _ _
    have active := pairwise_active s.hart m
    rw [← numbers, List.pairwise_map] at active
    rw [List.pairwise_map, List.pairwise_map]
    exact active
  refine doneOrTraps_of_raiseAll y.1 _ e hd hl hf hen (fun _ => hd') fun done => ?_
  rw [anyFlag_ite, orFlags_setV_eq, htwg, hv] at done
  exact ⟨_, done, by rw [← hv]; exact setElts_writtenBy (y.1.regs.v[d]) (fmtWidth_cases dst) rising⟩

/-- Without draws, and at whole bytes, it is a map over the active elements. -/
theorem vcvt_writesOrTraps (hg : dst.group ≠ .x) (hsto : s.hart.cvtDraws dst src md = false) (h8 : 8 ≤ fmtWidth dst) :
    s.writesOrTraps (.vcvt dst src md d a m) (fmtWidth dst) d m fun j => s.hart.cvtAt dst src md a j s.hart.rnd := by
  obtain ⟨legal, f, e, hl, hf⟩ := vcvt_effect (d := d) (a := a) hm hp hmd hw hg
  obtain ⟨hn, h0⟩ := (fmtWidth_cases dst).resolve_left (by omega)
  rw [hsto, withDraws_off] at hf
  simp only [flagsOf, List.map_map] at hf
  refine quietOrTraps_of_doneOrTraps (doneOrTraps_of_raiseAll s.hart (s.hart.elementFlags m fun j => s.hart.cvtAt dst src md a j s.hart.rnd)
    e hd hl hf rfl (fun _ => hd) fun done => ?_)
  rw [s.hart.anyFlag_elementFlags] at done
  exact ⟨_, done, VReg.setElts_writtenAs _ _ (s.hart.active m) _ _ hn h0 fun j => (mem_active s.hart m j).symm⟩

/-- A conversion to an XBF format forms the blocks that hold an active element (06 R159). -/
theorem vcvt_blocks (hg : dst.group = .x) : let bs := (blocksOf (s.hart.active m)).map fun b => xbfBlock s.hart src a b.1 b.2
    s.doneOrTraps (.vcvt dst src md d a m) (flagsOfBlocks bs)
      (s.writesBlocks (.vcvt dst src md d a m) s.hart (fmtWidth dst) d bs s.hart.regs.h.twg) := by
  intro bs
  have whole (b : Nat) (act : List Nat) := xbfBlock_whole s.hart src a b act (cvtPair_xbf dst src hp hg)
  refine doneOrTraps_of_putBlocks s.hart (exec_vcvt dst src md d a m s) hd (vcvt_legal hp hmd hw) s.hart.drawn_refl ?_ (fmtWidth_cases dst) ?_ ?_
  · simp only [maskClean_ok _ _ hm, if_pos hg]
    rfl
  · simp only [bs, List.pairwise_map, (whole _ _).1]
    exact blocksOf_distinct _
  · simp only [bs, List.forall_mem_map]
    exact fun b _ => (whole b.1 b.2).2
end

section
variable {s : State} {q : MxFmt} {x : MxSide} {d a : VIdx} {m : MIdx} (hd : s.hart.detached) (hm : s.hart.maskSound m)
  (hw : s.hart.ew = mxWidth x)
include hd hm hw

/-- `vmxq` forms the blocks that hold an active element, with a draw for each of these where it rounds stochastically (06 R160). -/
theorem vmxq_blocks (sr : Bool) : let y := mxBlocks q x (sr || s.hart.regs.h.rmode == 4#3) a (blocksOf (s.hart.active m)) s.hart
    s.doneOrTraps (.vmxq q x sr d a m) (flagsOfBlocks y.2) (s.writesBlocks (.vmxq q x sr d a m) y.1 q.width d y.2 y.1.regs.h.twg) := by
  intro y
  obtain ⟨numbers, whole, hs⟩ := mxBlocks_blocks q x (sr || s.hart.regs.h.rmode == 4#3) a (blocksOf (s.hart.active m)) s.hart
  refine doneOrTraps_of_putBlocks y.1 (exec_vmxq q x sr d a m s) hd (ewIn_self hw) hs ?_ (mxWidth_cases q) ?_ whole
  · simp only [maskClean_ok _ _ hm]
    rfl
  · have distinct := blocksOf_distinct (s.hart.active m)
    rw [← List.pairwise_map, ← numbers, List.pairwise_map] at distinct
    exact distinct

/-- `vmxd` dequantises each active element with the scale entry of its block (06 R161). -/
theorem vmxd_writesOrTraps : s.writesOrTraps (.vmxd x q d a m) s.hart.ew d m fun j =>
    let u := (s.hart.regs.v[a]).elt q.width j
    let e := (s.hart.regs.v[a]).scaleAt (j / 32)
    let y := mxVal u.val e q (mxFp x) s.hart.rnd s.hart.fz
    (⟨y.1, u.bad || (s.hart.regs.v[a]).scaleIsBad (j / 32)⟩, if e = 255 then y.2 ||| flNv else y.2) := by
  have hn : 8 ∣ mxWidth x ∧ 0 < mxWidth x := by cases x <;> decide
  have written := writesOrTraps_of_vecFlag (exec_vmxd x q d a m s) hd hm (ewIn_self hw) hn.1 hn.2
  have flag (e : Nat) (f : FlagSet) : f ||| flagIf (e == 0xFF) flNv = if e = 255 then f ||| flNv else f := by
    unfold flagIf
    by_cases he : e = 255
    · simp [he]
    · simp [he]
  simp only [flag] at written
  rw [hw]
  exact written
end

/-- Settles O36: elements by the map that draws for them, blocks by the list that the conversion forms. -/
theorem conversionsComplete : Obligations.ConversionsComplete := by
  unfold Obligations.ConversionsComplete
  intro dst src md sr q x d a m s hd hm h r blocks
  refine ⟨fun hp hmd hw => ⟨⟨fun hg => vcvt_doneOrTraps hd hm hp hmd hw hg, fun hg hsto h8 => vcvt_writesOrTraps hd hm hp hmd hw hg hsto h8⟩,
    fun hg => vcvt_blocks hd hm hp hmd hw hg⟩, fun hw => ?_⟩
  have hw' : s.hart.ew = mxWidth x := by
    cases x with
    | fp32 | fp16 | bf16 => exact hw
  exact ⟨vmxq_blocks hd hm hw' sr, vmxd_writesOrTraps hd hm hw'⟩

end Sys2Proof.Machine
end

section
/-! Residue instructions (07 R179-R182, 02 R64-R68): maps over the active elements on operands reduced modulo p, and the bound check. -/
namespace Sys2Proof.Machine

theorem mwidth_pos (k : MWidth) : 8 ∣ k.bits ∧ 0 < k.bits := by cases k <;> decide

theorem modOk_eq (k : MWidth) (p : Nat) : modOk k p = decide (k = .m64 ∨ p < 2 ^ 32) := by
  unfold modOk
  cases k <;> simp

theorem canon_flag (u p : Nat) : (canon u p).2 = if p ≤ u then flMrange else 0 :=
  if_congr decide_eq_true_iff rfl rfl

/-- Two operands raise mrange together when one of them is not reduced (02 R65). -/
theorem canon_flags (u v p : Nat) : (canon u p).2 ||| (canon v p).2 = if p ≤ u ∨ p ≤ v then flMrange else 0 := by
  rw [canon_flag, canon_flag]
  by_cases hu : p ≤ u
  · by_cases hv : p ≤ v <;> simp [hu, hv]
  · simp [hu]

theorem Hart.movf_eq (h : Hart) (v : Int) : h.movf v = if h.regs.h.bnd.toNat < v.natAbs then flMovf else 0 :=
  if_congr decide_eq_true_iff rfl rfl

/-- The case of a modulus that does not serve the width comes last. -/
theorem ite_modOk {α : Type} (k : MWidth) (p : Nat) (x y : α) :
    (if !modOk k p then x else y) = if k = .m64 ∨ p < 2 ^ 32 then y else x := by
  rw [modOk_eq]
  by_cases hs : k = .m64 ∨ p < 2 ^ 32
  · rw [if_pos hs, decide_eq_true hs]; rfl
  · rw [if_neg hs, decide_eq_false hs]; rfl

theorem State.writesOrTraps_ext {s : State} {i : Instr} {w : Nat} {d : VIdx} {m : MIdx} {f g : Nat → Elt × FlagSet} (h : ∀ j, f j = g j)
    (hf : s.writesOrTraps i w d m f) : s.writesOrTraps i w d m g := by
  rwa [funext h] at hf

section
variable {s : State} {i : Instr} {k : MWidth} {p1 : Bool} {d a : VIdx} {m : MIdx} (hd : s.hart.detached) (hm : s.hart.maskSound m)
  (hw : s.hart.ew = k.bits)
include hd hm hw

/-- A binary operation on operands reduced modulo p (07 R179). -/
theorem writesOrTraps_of_modOp2 {b : BOp2} (f : Nat → Nat → Nat → Nat) (e : exec i s = modOp2 k p1 d a b m f s) :
    s.writesOrTraps i k.bits d m fun j =>
      let p := s.hart.modulus p1
      let x := (s.hart.regs.v[a]).elt k.bits j
      let y := s.hart.b2 k.bits b j
      if k = .m64 ∨ p < 2 ^ 32 then (⟨f p (x.val % p) (y.val % p), x.bad || y.bad⟩, if p ≤ x.val ∨ p ≤ y.val then flMrange else 0)
      else (⟨0, x.bad || y.bad⟩, flMrange) := by
  have hn := mwidth_pos k
  refine State.writesOrTraps_ext (fun j => ?_) (writesOrTraps_of_vecFlag e hd hm (ewIn_self hw) hn.1 hn.2)
  refine (ite_modOk ..).trans ?_
  simp only [canon_flags]
  rfl

/-- The entry into the modular domain (07 R180). -/
theorem mred_writesOrTraps : s.writesOrTraps (.mred k p1 d a m) k.bits d m fun j =>
    let p := s.hart.modulus p1
    let x := (s.hart.regs.v[a]).elt k.bits j
    if k = .m64 ∨ p < 2 ^ 32 then (⟨((BitVec.ofNat k.bits x.val).toInt % p).toNat, x.bad⟩, 0) else (⟨0, x.bad⟩, flMrange) := by
  have hn := mwidth_pos k
  refine State.writesOrTraps_ext (fun j => ?_) (writesOrTraps_of_vecFlag (exec_mred k p1 d a m s) hd hm (ewIn_self hw) hn.1 hn.2)
  refine (ite_modOk ..).trans ?_
  rw [sgn_eq_toInt _ _ hn.2]

/-- The lift to the centred value (07 R180). -/
theorem mlift_writesOrTraps : s.writesOrTraps (.mlift k p1 d a m) k.bits d m fun j =>
    let p := s.hart.modulus p1
    let x := (s.hart.regs.v[a]).elt k.bits j
    let v := liftRes (x.val % p) p
    if k = .m64 ∨ p < 2 ^ 32 then
      (⟨(BitVec.ofInt k.bits v).toNat, x.bad⟩,
        (if p ≤ x.val then flMrange else 0) ||| if s.hart.regs.h.bnd.toNat < v.natAbs then flMovf else 0)
    else (⟨0, x.bad⟩, flMrange) := by
  have hn := mwidth_pos k
  refine State.writesOrTraps_ext (fun j => ?_) (writesOrTraps_of_vecFlag (exec_mlift k p1 d a m s) hd hm (ewIn_self hw) hn.1 hn.2)
  refine (ite_modOk ..).trans ?_
  simp only [canon_flag, Hart.movf_eq, wrapI_eq_ofInt]
  rfl
end

/-- The join of two residues (07 R181). -/
theorem mcrt_writesOrTraps {s : State} {d a b : VIdx} {m : MIdx} (hd : s.hart.detached) (hm : s.hart.maskSound m) (hw : s.hart.ew = 64) :
    s.writesOrTraps (.mcrt d a b m) 64 d m fun j =>
      let x := (s.hart.regs.v[a]).elt 64 j
      let y := (s.hart.regs.v[b]).elt 64 j
      let r := crt2 x.val y.val s.hart.regs.h.mod0.toNat s.hart.regs.h.mod1.toNat
      (⟨r.1, x.bad || y.bad⟩, r.2 ||| if s.hart.regs.h.bnd.toNat < (BitVec.ofNat 64 r.1).toInt.natAbs then flMovf else 0) := by
  refine State.writesOrTraps_ext (fun j => ?_)
    (writesOrTraps_of_vecFlag (exec_mcrt d a b m s) hd hm (ewIn_self hw) (by decide) (by decide))
  simp only [Hart.movf_eq, sgn_eq_toInt 64 _ (show 0 < 64 by decide)]
  rfl

/-! ### The bound check -/

/-- The modular flags are masked by FENABLE alone, and an enabled one traps with cause 0x0C (01 R25, Table 1-4). -/
theorem Hart.enabled_modular (h : Hart) {fl : FlagSet} (hf : fl &&& 0x00C0#16 = fl) :
    h.enabled fl = fl &&& h.regs.h.fenable ∧ flagCause (h.enabled fl) = 0x0C := by
  have he : h.enabled fl = fl &&& h.regs.h.fenable := by
    show fl &&& h.regs.h.fenable &&& 0x00FF#16 = _
    rw [← hf, BitVec.and_assoc, BitVec.and_assoc, BitVec.and_assoc, BitVec.and_comm h.regs.h.fenable, ← BitVec.and_assoc 0x00C0#16]
    rfl
  refine ⟨he, if_pos ?_⟩
  rw [he, ← hf, BitVec.and_comm, BitVec.and_comm fl, ← BitVec.and_assoc, ← BitVec.and_assoc]
  exact (congrArg (· &&& h.regs.h.fenable) BitVec.zero_and).trans BitVec.zero_and

/-- The flags of `mchk` (07 R182). -/
def Hart.mchkFlags (h : Hart) (c : MchkSel) (x y z : SReg) : FlagSet :=
  let m0 := h.regs.h.mod0.toNat
  let m1 := h.regs.h.mod1.toNat
  let q := match c with
    | .p0 => m0
    | .p1 => m1
    | .pp => m0 * m1
  if c = .pp ∧ (m0 = m1 ∨ Nat.gcd m0 m1 ≠ 1 ∨ 2 ^ 62 ≤ q) then flMrange ||| flMovf
  else if q / 2 < (h.s x).toNat * (h.s y).toNat * (h.s z).toNat then flMovf else 0

theorem Hart.mchkFlags_modular (h : Hart) (c : MchkSel) (x y z : SReg) : h.mchkFlags c x y z &&& 0x00C0#16 = h.mchkFlags c x y z := by
  unfold Hart.mchkFlags
  extract_lets m0 m1 q
  split_ifs <;> rfl

section
variable {s : State} (c : MchkSel) {x y z : SReg} (hw : s.hart.ewWide) (hx : s.hart.bad x = false) (hy : s.hart.bad y = false)
  (hz : s.hart.bad z = false)
include hw hx hy hz

/-- With clean operands `mchk` raises its flags at element 0, and does no more. -/
theorem exec_mchk_raises : ∃ legal f, exec (.mchk c x y z) s = vecH [] [] legal f s ∧ legal s.hart = .ok ()
    ∧ f s.hart = s.hart.raise (s.hart.mchkFlags c x y z) 0 := by
  refine ⟨_, _, exec_mchk c x y z s, ?_, ?_⟩
  · rw [ewIn_bind_ok _ _ (Hart.ewWide_mem hw), hx, hy, hz]
    rfl
  · refine congrArg (s.hart.raise · 0) ?_
    unfold Hart.mchkFlags
    cases c <;> simp [Hart.modulus, flagIf, or_assoc]

theorem mchk_completes (hd : s.hart.detached) (hq : s.hart.mchkFlags c x y z &&& s.hart.regs.h.fenable = 0#16) :
    exec (.mchk c x y z) s = .next (s.goesOn (s.hart.orFlags (s.hart.mchkFlags c x y z)) 4) := by
  obtain ⟨legal, f, e, hl, hf⟩ := exec_mchk_raises c hw hx hy hz
  obtain ⟨he, -⟩ := s.hart.enabled_modular (s.hart.mchkFlags_modular c x y z)
  exact e.trans (vecH_detached _ _ _ _ _ _ hd hl (hf.trans (if_pos (he.trans hq))) hd)

theorem mchk_traps (hd : s.hart.detached) (hq : s.hart.mchkFlags c x y z &&& s.hart.regs.h.fenable ≠ 0#16) :
    exec (.mchk c x y z) s = s.take (.trap 0x0C 0 none) := by
  obtain ⟨legal, f, e, hl, hf⟩ := exec_mchk_raises c hw hx hy hz
  obtain ⟨he, hc⟩ := s.hart.enabled_modular (s.hart.mchkFlags_modular c x y z)
  refine e.trans (vecH_trap _ _ hd hl (hf.trans ((if_neg fun h => hq (he.symm.trans h)).trans ?_)))
  rw [hc]
end

/-- Settles O40: each map by its result on the reduced operands, `mchk` by the flags that it raises. -/
theorem residueCompletes : Obligations.ResidueCompletes := by
  unfold Obligations.ResidueCompletes
  intro k p1 c d a e b m x y z s hd h w p serves va opb out two movf
  have operand : opb = h.b2 w b := by
    cases b with
    | vv v => rfl
    | vs r => rfl
  have row {i : Instr} (f : Nat → Nat → Nat → Nat) (hm : h.maskSound m) (hw : h.ew = w) (q : exec i s = modOp2 k p1 d a b m f s) :
      two i (f p) := by
    simp only [two, operand]
    exact writesOrTraps_of_modOp2 hd hm hw f q
  refine ⟨fun hm hw => ⟨row (fun p u v => u * v % p) hm hw (exec_mmul ..), row (fun p u v => (u + v) % p) hm hw (exec_madd ..),
    row (fun p u v => (u + (p - v)) % p) hm hw (exec_msub ..), mred_writesOrTraps hd hm hw, mlift_writesOrTraps hd hm hw⟩,
    fun hm hw => mcrt_writesOrTraps hd hm hw, fun hw hx hy hz => ?_⟩
  exact ⟨mchk_completes c hw hx hy hz hd, mchk_traps c hw hx hy hz hd⟩

end Sys2Proof.Machine
end

section
/-! Unions of flags, and vector registers written one after another: what the instructions of 07 R164-R174 leave. -/
namespace Sys2Proof.Machine

/-! ### Unions of flags -/

theorem anyFlag_getLsbD (fs : List FlagSet) (i : Nat) : (anyFlag fs).getLsbD i = fs.any fun f => f.getLsbD i := by
  have fold (g : FlagSet) : (fs.foldl (fun a f => a ||| f) g).getLsbD i = (g.getLsbD i || fs.any fun f => f.getLsbD i) := by
    induction fs generalizing g with
    | nil => simp
    | cons f t ih => rw [List.foldl_cons, ih, BitVec.getLsbD_or, List.any_cons, Bool.or_assoc]
  exact (fold 0).trans (by simp)

/-- Two unions are equal when each flag is in both or in neither. -/
theorem anyFlag_ext {fs gs : List FlagSet} (h : ∀ i, (∃ f ∈ fs, f.getLsbD i = true) ↔ ∃ f ∈ gs, f.getLsbD i = true) :
    anyFlag fs = anyFlag gs := by
  refine BitVec.eq_of_getLsbD_eq fun i _ => ?_
  rw [anyFlag_getLsbD, anyFlag_getLsbD, Bool.eq_iff_iff, List.any_eq_true, List.any_eq_true]
  exact h i

theorem anyFlag_flatMap {α : Type} (xs : List α) (f : α → List FlagSet) : anyFlag (xs.flatMap f) = anyFlag (xs.map fun x => anyFlag (f x)) := by
  refine anyFlag_ext fun i => ?_
  simp only [List.mem_flatMap, List.mem_map, exists_exists_and_eq_and, anyFlag_getLsbD, List.any_eq_true]
  exact ⟨fun ⟨g, ⟨x, hx, hg⟩, hi⟩ => ⟨x, hx, g, hg, hi⟩, fun ⟨x, hx, g, hg, hi⟩ => ⟨g, ⟨x, hx, hg⟩, hi⟩⟩

/-- What is set to no flag adds none. -/
theorem anyFlag_ite_zero {α : Type} (xs : List α) (bad : α → Bool) (fl : α → FlagSet) :
    anyFlag (xs.map fun x => if bad x then 0 else fl x) = anyFlag ((xs.filter fun x => !bad x).map fl) := by
  refine anyFlag_ext fun i => ?_
  simp only [List.mem_map, exists_exists_and_eq_and, List.mem_filter]
  refine exists_congr fun x => ?_
  cases bad x <;> simp

/-! ### Registers written one after another -/

/-- Vector registers v after each x of a list has changed register `key x` by f. -/
def updated {α : Type} (key : α → VIdx) (f : VReg → α → VReg) (xs : List α) (v : Vector VReg 32) : Vector VReg 32 :=
  xs.foldl (fun v x => v.set (key x) (f v[key x] x)) v

section
variable {α : Type} (key : α → VIdx) (f : VReg → α → VReg) (xs : List α)

theorem foldl_setV (x : Regs) : xs.foldl (fun r e => r.setV (key e) (f (r.v[key e]) e)) x = { x with v := updated key f xs x.v } := by
  induction xs generalizing x with
  | nil => rfl
  | cons e t ih => exact ih (x.setV (key e) (f (x.v[key e]) e))

/-- A register is changed by the elements of the list that name it. -/
theorem updated_get (v : Vector VReg 32) (r : VIdx) : (updated key f xs v)[r] = (xs.filter fun x => key x == r).foldl f v[r] := by
  induction xs generalizing v with
  | nil => rfl
  | cons e t ih =>
    refine (ih (v.set (key e) (f v[key e] e))).trans ?_
    by_cases h : key e = r
    · subst h
      rw [List.filter_cons_of_pos (by simp), List.foldl_cons]
      exact congrArg (List.foldl f · _) (Vector.getElem_set_self (key e).isLt)
    · rw [List.filter_cons_of_neg (by simpa using h)]
      exact congrArg (List.foldl f · _) (Vector.getElem_set_ne (key e).isLt r.isLt fun h' => h (Fin.ext h'))
end

theorem putAt_eq (x : Regs) (w : Nat) (es : List ((VIdx × Nat) × Elt)) :
    x.putAt w es = { x with v := updated (fun e => e.1.1) (fun r e => r.setElt w e.1.2 e.2) es x.v } :=
  foldl_setV (fun e : (VIdx × Nat) × Elt => e.1.1) (fun r e => r.setElt w e.1.2 e.2) es x

/-- Registers of which each is written as the elements of a list say. -/
theorem writtenAt_of_writtenAs {old new : Vector VReg 32} {w : Nat} {es : List ((VIdx × Nat) × Elt)} (g : VIdx × Nat → Elt)
    (h : ∀ r : VIdx, (old[r]).writtenAs new[r] w (fun i => ∃ e ∈ es, e.1 = (r, i)) fun i => g (r, i)) (hg : ∀ e ∈ es, g e.1 = e.2) :
    writtenAt old new w es := by
  intro r
  obtain ⟨scale, scaleBad, elts, data, poison⟩ := h r
  refine ⟨scale, scaleBad, fun e he hr hi => ?_, fun b hb hn => data b hb fun ⟨e, he, hr⟩ => hn e he hr,
    fun b hb hn => poison b hb fun ⟨e, he, hr⟩ => hn e he hr⟩
  subst hr
  rw [elts e.1.2 hi ⟨e, he, rfl⟩, ← hg e he]

/-- The element that a list gives for a place. -/
def elementFor (es : List ((VIdx × Nat) × Elt)) (x : VIdx × Nat) : Elt := ((es.find? fun e => e.1 == x).map (·.2)).getD ⟨0, false⟩

theorem elementFor_mem {es : List ((VIdx × Nat) × Elt)} (hn : (es.map (·.1)).Nodup) (e : (VIdx × Nat) × Elt) (he : e ∈ es) :
    elementFor es e.1 = e.2 := by
  obtain ⟨y, hy⟩ := Option.isSome_iff_exists.1 (List.find?_isSome (p := fun y => y.1 == e.1) |>.2 ⟨e, he, beq_self_eq_true e.1⟩)
  have hit := List.find?_some hy
  have same : y = e := List.inj_on_of_nodup_map hn (List.mem_of_find?_eq_some hy) he (eq_of_beq hit)
  unfold elementFor
  rw [hy, same]
  rfl

/-- Elements of several registers, each place once, are written as `writtenAt` says. -/
theorem updated_writtenAt (v : Vector VReg 32) {w : Nat} {es : List ((VIdx × Nat) × Elt)} (hw : 8 ∣ w ∧ 0 < w) (hn : (es.map (·.1)).Nodup) :
    writtenAt v (updated (fun e => e.1.1) (fun r e => r.setElt w e.1.2 e.2) es v) w es := by
  refine writtenAt_of_writtenAs (elementFor es) (fun r => ?_) (elementFor_mem hn)
  have fold : (updated (fun e => e.1.1) (fun r e => r.setElt w e.1.2 e.2) es v)[r]
      = (v[r]).setElts w (((es.filter fun e => e.1.1 == r).map (·.1.2)).map fun i => (i, elementFor es (r, i))) := by
    rw [updated_get, setElts_wide _ _ _ (by rintro rfl; omega), List.foldl_map, List.foldl_map]
    refine List.foldl_ext _ _ _ fun u e he => ?_
    obtain ⟨he, hr⟩ := List.mem_filter.1 he
    rw [← eq_of_beq hr, elementFor_mem hn e he]
  rw [fold]
  refine VReg.setElts_writtenAs _ w _ _ _ hw.1 hw.2 fun i => ?_
  simp only [List.mem_map, List.mem_filter, beq_iff_eq]
  constructor
  · rintro ⟨e, he, h⟩
    exact ⟨e, ⟨he, by rw [h]⟩, by rw [h]⟩
  · rintro ⟨e, ⟨he, h1⟩, h2⟩
    exact ⟨e, he, Prod.ext h1 h2⟩

theorem VReg.writtenAs_refl (r : VReg) (w : Nat) (act : Nat → Prop) (f : Nat → Elt) (h : ∀ i, ¬ act i) : r.writtenAs r w act f :=
  ⟨rfl, rfl, fun i _ ha => absurd ha (h i), fun _ _ _ => rfl, fun _ _ _ => rfl⟩

/-- The elements of one register, written as `writtenAt` says. -/
theorem setElts_writtenAt (v : Vector VReg 32) {w : Nat} (hw : 8 ∣ w ∧ 0 < w) (d : VIdx) (xs : List Nat) (f : Nat → Elt) :
    writtenAt v (v.set d ((v[d]).setElts w (xs.map fun i => (i, f i)))) w (xs.map fun i => ((d, i), f i)) := by
  refine writtenAt_of_writtenAs (fun x => f x.2) (fun r => ?_) (by simp)
  by_cases hr : d = r
  · subst hr
    have same : (v.set d ((v[d]).setElts w (xs.map fun i => (i, f i))))[d] = (v[d]).setElts w (xs.map fun i => (i, f i)) :=
      Vector.getElem_set_self d.isLt
    rw [same]
    exact VReg.setElts_writtenAs _ w xs f _ hw.1 hw.2 fun i => by simp
  · have other : (v.set d ((v[d]).setElts w (xs.map fun i => (i, f i))))[r] = v[r] :=
      Vector.getElem_set_ne d.isLt r.isLt fun h => hr (Fin.ext h)
    rw [other]
    exact VReg.writtenAs_refl _ _ _ _ fun i => by simp [hr]

end Sys2Proof.Machine
end

section
/-! The twiddle generator after an instruction, and the groups of a butterfly (07 R164-R170, R174). -/
namespace Sys2Proof.Machine

/-! ### The twiddle generator -/

/-- TWG with its base moved on by VL (07 R168, R169). -/
def Hart.movedTwg (h : Hart) : Word :=
  let g := h.regs.h.twg
  BitVec.ofNat 64 (g.toNat % 2 ^ 32 + (g.toNat / 2 ^ 32 + h.vl) % 2 ^ 32 * 2 ^ 32)

theorem Hart.advanceTwg_eq (h : Hart) : h.advanceTwg = h.setTwg h.movedTwg := by
  have lt := h.regs.h.twg.isLt
  have base : h.twg.base = h.regs.h.twg.toNat / 2 ^ 32 := Nat.mod_eq_of_lt (by omega)
  refine congrArg (fun n => h.setTwg (BitVec.ofNat 64 n)) ?_
  rw [base]
  simp only [setField]
  omega

/-- TWG after a butterfly with a twiddle: the vv form moves its base on (07 R169). -/
def Hart.twgAfter (h : Hart) : BOpB → Word
  | .vv _ => h.movedTwg
  | .vi _ => h.regs.h.twg

theorem Hart.advanceTwg_withV (h : Hart) (v : Vector VReg 32) (fl : FlagSet) :
    (h.withV v fl h.regs.h.twg).advanceTwg = h.withV v fl h.movedTwg := by
  rw [Hart.advanceTwg_eq]
  rfl

theorem Hart.advanceIf_withV (h : Hart) (b : BOpB) (uses : Bool) (v : Vector VReg 32) (fl : FlagSet) :
    advanceIf b uses (h.withV v fl h.regs.h.twg) = h.withV v fl (if uses then h.twgAfter b else h.regs.h.twg) := by
  cases b with
  | vi k => cases uses <;> rfl
  | vv r =>
    cases uses with
    | true => exact h.advanceTwg_withV v fl
    | false => rfl

theorem Hart.twgLegal_radix4 (h : Hart) (h2 : 2 ≤ h.regs.h.twg.toNat % 64) (h32 : h.regs.h.twg.toNat % 64 ≤ 32) : h.twgLegal true = .ok () := by
  unfold Hart.twgLegal failIf
  rw [h.twg_logn]
  refine if_neg ?_
  simp only [Bool.true_and, Bool.or_eq_true, beq_iff_eq, decide_eq_true_eq]
  omega

/-! ### Groups -/

/-- The active groups of a list: those whose lowest element's mask bit is set (07 R169). -/
def Hart.groupsOn (h : Hart) (m : MIdx) (gs : List Group) : List Group := gs.filter fun u => (h.regs.getM m).on h.ew u.low

/-- The lowest elements of groups lie below VL. -/
def Hart.groupsBelow (h : Hart) (gs : List Group) : Prop := ∀ u ∈ gs, u.low < h.vl

/-- No element is an output of two groups, nor twice of one. -/
def outputsDistinct (gs : List Group) : Prop := (gs.flatMap Group.outs).Nodup

theorem activeGroups_ok {h : Hart} {m : MIdx} {gs : List Group} (hm : h.maskSound m) (hlow : h.groupsBelow gs) :
    activeGroups h m gs = .ok (h.groupsOn m gs) := by
  have sound : gs.find? (fun u => (h.regs.getM m).isBad h.ew u.low) = none :=
    List.find?_eq_none.2 fun u hu => by simp [hm u.low (hlow u hu)]
  simp only [activeGroups, sound]
  rfl

theorem viGroups_below (h : Hart) (r : Nat) (d a : VIdx) (imm : Nat) (rows : Nat → List (List Coef)) :
    h.groupsBelow (viGroups h r d a imm rows) := by
  unfold Hart.groupsBelow viGroups
  simp only [List.forall_mem_map]
  exact fun g hg => List.mem_range.1 (List.mem_filter.1 hg).1

theorem vvGroups_below (h : Hart) (ins outs : List VIdx) (rows : Nat → List (List Coef)) :
    h.groupsBelow (vvGroups h ins outs rows) := by
  unfold Hart.groupsBelow vvGroups
  simp only [List.forall_mem_map]
  exact fun g hg => List.mem_range.1 hg

theorem bflyGroups_below (h : Hart) (r4 plain : Bool) (d a : VIdx) (b : BOpB) : h.groupsBelow (bflyGroups h r4 plain d a b) := by
  cases b with
  | vi k => exact viGroups_below _ _ _ _ _ _
  | vv r => exact vvGroups_below _ _ _ _

theorem pairGroups_below (h : Hart) (d a b : VIdx) : h.groupsBelow (pairGroups h d a b) := by
  unfold Hart.groupsBelow pairGroups
  simp only [List.forall_mem_map]
  exact fun g hg => List.mem_range.1 (List.mem_filter.1 hg).1

/-- A member of a group at distance `dist` fixes the lowest element and its own place in the group (07 R169). -/
theorem groupMember_injective {r dist g g' k k' : Nat} (hg : g % (r * dist) < dist) (hg' : g' % (r * dist) < dist) (hk : k < r) (hk' : k' < r)
    (h : g + k * dist = g' + k' * dist) : g = g' ∧ k = k' := by
  have parts (g k : Nat) (hg : g % (r * dist) < dist) (hk : k < r) :
      (g + k * dist) / (r * dist) = g / (r * dist) ∧ (g + k * dist) % (r * dist) = g % (r * dist) + k * dist := by
    have fits : g % (r * dist) + k * dist < r * dist := by
      have : (k + 1) * dist ≤ r * dist := Nat.mul_le_mul_right dist hk
      rw [Nat.succ_mul] at this
      omega
    have split := Nat.div_add_mod g (r * dist)
    refine (Nat.div_mod_unique (by omega)).2 ⟨?_, fits⟩
    omega
  obtain ⟨q1, r1⟩ := parts g k hg hk
  obtain ⟨q2, r2⟩ := parts g' k' hg' hk'
  have quot : g / (r * dist) = g' / (r * dist) := by rw [← q1, ← q2, h]
  have rest : g % (r * dist) + k * dist = g' % (r * dist) + k' * dist := by rw [← r1, ← r2, h]
  have place (t k : Nat) (ht : t < dist) : (t + k * dist) / dist = k ∧ (t + k * dist) % dist = t :=
    (Nat.div_mod_unique (by omega)).2 ⟨by rw [Nat.mul_comm], ht⟩
  obtain ⟨k1, t1⟩ := place _ k hg
  obtain ⟨k2, t2⟩ := place _ k' hg'
  have low : g % (r * dist) = g' % (r * dist) := by rw [← t1, ← t2, rest]
  exact ⟨by rw [← Nat.div_add_mod g (r * dist), ← Nat.div_add_mod g' (r * dist), quot, low], by rw [← k1, ← k2, rest]⟩

theorem viGroups_distinct (h : Hart) (r : Nat) (d a : VIdx) (imm : Nat) (rows : Nat → List (List Coef)) :
    outputsDistinct (viGroups h r d a imm rows) := by
  unfold outputsDistinct viGroups
  simp only [List.flatMap_map, List.map_map]
  rw [List.nodup_flatMap]
  constructor
  · intro g hg
    refine (List.nodup_map_iff_inj_on List.nodup_range).2 fun k hk k' hk' e => ?_
    have pos : 0 < 2 ^ imm := by positivity
    have e : g + k * 2 ^ imm = g + k' * 2 ^ imm := congrArg Prod.snd e
    exact Nat.eq_of_mul_eq_mul_right pos (by omega)
  · refine (List.nodup_range.filter _).imp_of_mem fun {g g'} hg hg' hne => ?_
    simp only [List.mem_filter, Bool.and_eq_true, decide_eq_true_eq] at hg hg'
    obtain ⟨-, low, -⟩ := hg
    obtain ⟨-, low', -⟩ := hg'
    rw [Function.onFun, List.disjoint_left]
    simp only [List.mem_map, List.mem_range, Function.comp_apply]
    rintro x ⟨k, hk, rfl⟩ ⟨k', hk', e⟩
    exact hne (groupMember_injective low low' hk hk' (congrArg Prod.snd e.symm)).1

theorem vvGroups_distinct (h : Hart) (ins outs : List VIdx) (rows : Nat → List (List Coef)) (ho : outs.Nodup) :
    outputsDistinct (vvGroups h ins outs rows) := by
  unfold outputsDistinct vvGroups
  rw [List.flatMap_map, List.nodup_flatMap]
  constructor
  · exact fun i _ => ho.map fun r r' e => congrArg Prod.fst e
  · refine List.nodup_range.imp fun {i i'} hne => ?_
    rw [Function.onFun, List.disjoint_left]
    simp only [List.mem_map]
    rintro x ⟨r, _, rfl⟩ ⟨r', _, e⟩
    exact hne (congrArg Prod.snd e.symm)

theorem bflyOut_nodup (r4 : Bool) (d : VIdx) (b : BOpB) : (bflyOut r4 d b).Nodup := by
  have four : ∀ d : VIdx, [d, d + 1, d + 2, d + 3].Nodup := by decide
  have two : ∀ d : VIdx, [d, d + 1].Nodup := by decide
  cases b with
  | vi k => exact List.nodup_singleton d
  | vv r =>
    cases r4 with
    | true => exact four d
    | false => exact two d

theorem bflyGroups_distinct (h : Hart) (r4 plain : Bool) (d a : VIdx) (b : BOpB) : outputsDistinct (bflyGroups h r4 plain d a b) := by
  cases b with
  | vi k => exact viGroups_distinct ..
  | vv r => exact vvGroups_distinct _ _ _ _ (bflyOut_nodup r4 d (.vv r))

theorem pairGroups_distinct (h : Hart) (d a b : VIdx) : outputsDistinct (pairGroups h d a b) := by
  unfold outputsDistinct pairGroups
  rw [List.flatMap_map, List.nodup_flatMap]
  constructor
  · exact fun i _ => by simp
  · refine (List.nodup_range.filter _).imp_of_mem fun {i i'} hi hi' hne => ?_
    simp only [List.mem_filter, Bool.and_eq_true, beq_iff_eq] at hi hi'
    obtain ⟨-, even, -⟩ := hi
    obtain ⟨-, even', -⟩ := hi'
    rw [Function.onFun, List.disjoint_left]
    simp only [List.mem_cons, List.not_mem_nil, or_false]
    rintro x (rfl | rfl) <;> simp only [Prod.mk.injEq, true_and] <;> omega

theorem fst_zip_sublist {α β : Type} (l : List α) (l' : List β) : ((l.zip l').map Prod.fst).Sublist l := by
  induction l generalizing l' with
  | nil => exact List.Sublist.refl _
  | cons x t ih =>
    cases l' with
    | nil => exact List.nil_sublist _
    | cons y t' => exact (ih t').cons_cons x

/-- Places that each group takes from its own outputs are distinct too, and also those of the active groups alone. -/
theorem nodup_outputs {α : Type} {h : Hart} {m : MIdx} {gs : List Group} (hd : outputsDistinct gs) (f : Group → List ((VIdx × Nat) × α))
    (hf : ∀ u, ((f u).map Prod.fst).Sublist u.outs) : (((h.groupsOn m gs).flatMap f).map Prod.fst).Nodup := by
  rw [List.map_flatMap]
  refine List.Nodup.sublist ?_ hd
  exact (List.Sublist.flatMap_right _ fun u _ => hf u).trans (List.filter_sublist.flatMap Group.outs)

end Sys2Proof.Machine
end

section
/-! Butterflies in floating-point and modular formats (07 R169-R171, R173, R174): each output element is written alone. -/
namespace Sys2Proof.Machine

/-- Instruction i writes the outputs of groups in a complex floating-point format, raises their flags, and sets TWG := g (07 R171). -/
def State.butterfliesF (s : State) (i : Instr) (c : CFmt) (on : List Group) (g : Word) : Prop :=
  let ys := on.flatMap (groupF s.hart c)
  s.doneOrTraps i (on.map fun u => (u.low, anyFlag ((groupF s.hart c u).map fun z => z.2.2)))
    (s.writesAt i (2 * c.comp) (ys.map fun u => (u.1, u.2.1)) (anyFlag (ys.map fun u => u.2.2)) g)

/-- The same in a modular format: a group that a poisoned element feeds is poisoned and raises no flag (07 R173, 02 R52). -/
def State.butterfliesM (s : State) (i : Instr) (k : MWidth) (p1 : Bool) (on : List Group) (g : Word) : Prop :=
  let p := s.hart.modulus p1
  let ys := on.map fun u => (u.isBad s.hart k.bits, groupM s.hart k.bits p (modOk k p && (p - 1) % s.hart.twg.n == 0) u)
  s.doneOrTraps i ((on.map (·.low)).zip (ys.map fun u => if u.1 then 0 else u.2.2))
    (s.writesAt i k.bits (ys.flatMap fun u => u.2.1.map fun v => (v.1, (⟨v.2, u.1⟩ : Elt)))
      (anyFlag ((ys.filter fun u => !u.1).map fun u => u.2.2)) g)

/-! ### Effects on the vector registers -/

theorem State.doneOrTraps_imp {s : State} {i : Instr} {fl : List (Nat × FlagSet)} {p q : Prop} (h : p → q) (hd : s.doneOrTraps i fl p) :
    s.doneOrTraps i fl q := ⟨fun hq => h (hd.1 hq), hd.2⟩

section
variable {s : State} {i : Instr} {rs ds : List VIdx} {legal : Hart → M Unit} {f : Hart → M Hart} {adv : Hart → Hart} {g : Word}

/-- An effect that raises flags, changes the vector registers, and then TWG by adv. -/
theorem doneOrTraps_of_vectors {V : Vector VReg 32 → Vector VReg 32} {fl : List (Nat × FlagSet)} (e : exec i s = vecH rs ds legal f s)
    (hd : s.hart.detached) (hl : legal s.hart = .ok ())
    (hf : f s.hart = ((s.hart.raiseAll fl).map fun t => { t with regs := { t.regs with v := V t.regs.v } }).map adv)
    (hadv : ∀ v x, adv (s.hart.withV v x s.hart.regs.h.twg) = s.hart.withV v x g) :
    s.doneOrTraps i fl (exec i s = .next (s.goesOn (s.hart.withV (V s.hart.regs.v) (anyFlag (fl.map (·.2))) g) 4)) := by
  have step (x : FlagSet) : adv { s.hart.orFlags x with regs := { (s.hart.orFlags x).regs with v := V s.hart.regs.v } }
      = s.hart.withV (V s.hart.regs.v) x g := hadv _ x
  refine doneOrTraps_of_raiseAll (g := fun t => adv { t with regs := { t.regs with v := V t.regs.v } }) s.hart fl e hd hl ?_ rfl
    (fun x => ?_) fun done => ?_
  · rw [hf]
    cases s.hart.raiseAll fl <;> rfl
  · exact (congrArg Hart.detached (step x)).mpr hd
  · have advanced := step (anyFlag (fl.map (·.2)))
    rw [← advanced]
    exact done

/-- An effect that raises flags, writes single elements, and then changes TWG by adv. -/
theorem doneOrTraps_of_putAt {w : Nat} {es : List ((VIdx × Nat) × Elt)} {fl : List (Nat × FlagSet)} {x : FlagSet}
    (e : exec i s = vecH rs ds legal f s) (hd : s.hart.detached) (hl : legal s.hart = .ok ())
    (hf : f s.hart = ((s.hart.raiseAll fl).map fun t => { t with regs := t.regs.putAt w es }).map adv)
    (hadv : ∀ v x, adv (s.hart.withV v x s.hart.regs.h.twg) = s.hart.withV v x g) (hw : 8 ∣ w ∧ 0 < w)
    (hn : (es.map (·.1)).Nodup) (hx : anyFlag (fl.map (·.2)) = x) : s.doneOrTraps i fl (s.writesAt i w es x g) := by
  simp only [putAt_eq] at hf
  refine State.doneOrTraps_imp (fun done => ?_) (doneOrTraps_of_vectors e hd hl hf hadv)
  rw [hx] at done
  exact ⟨_, done, updated_writtenAt s.hart.regs.v hw hn⟩

/-! ### Floating-point formats (07 R171) -/

variable {m : MIdx} {gs : Hart → List Group} (e : exec i s = vecH rs ds legal f s) (hd : s.hart.detached) (hm : s.hart.maskSound m)
  (hl : legal s.hart = .ok ()) (hadv : ∀ v x, adv (s.hart.withV v x s.hart.regs.h.twg) = s.hart.withV v x g)
  (hlow : s.hart.groupsBelow (gs s.hart))
include e hd hm hl hadv hlow

/-- Groups in a complex floating-point format (07 R171). -/
theorem butterfliesF_of_runF (c : CFmt) (hf : f s.hart = (runF c gs m s.hart).map adv) (hn : outputsDistinct (gs s.hart)) :
    s.butterfliesF i c (s.hart.groupsOn m (gs s.hart)) g := by
  have outputs (u : Group) : ((groupF s.hart c u).map Prod.fst).Sublist u.outs := fst_zip_sublist ..
  refine doneOrTraps_of_putAt e hd hl ?_ hadv (cfmtWidth_pos c) ?_ ?_
  · rw [hf]
    simp only [runF, activeGroups_ok hm hlow, List.map_map, List.flatMap_map, List.map_flatMap]
    rfl
  · rw [List.map_map]
    exact nodup_outputs hn _ outputs
  · rw [List.map_map, List.map_flatMap, anyFlag_flatMap]
    rfl

/-! ### Modular formats (07 R173) -/

/-- Groups in a modular format (07 R173). -/
theorem butterfliesM_of_runM (k : MWidth) (p1 : Bool) (hf : f s.hart = (runM k p1 gs m s.hart).map adv) (hn : outputsDistinct (gs s.hart)) :
    s.butterfliesM i k p1 (s.hart.groupsOn m (gs s.hart)) g := by
  have outputs (u : Group) (ok bad : Bool) :
      (((groupM s.hart k.bits (s.hart.modulus p1) ok u).1.map fun v => (v.1, (⟨v.2, bad⟩ : Elt))).map Prod.fst).Sublist u.outs := by
    rw [List.map_map]
    cases ok with
    | true => exact fst_zip_sublist ..
    | false => simp [groupM, Function.comp_def]
  refine doneOrTraps_of_putAt e hd hl ?_ hadv (mwidth_pos k) ?_ ?_
  · rw [hf]
    simp only [runM, activeGroups_ok hm hlow, List.map_map, List.flatMap_map, List.zip_map']
    rfl
  · simp only [List.flatMap_map]
    exact nodup_outputs hn _ fun u => outputs u _ _
  · simp only [List.map_map, List.zip_map', List.filter_map]
    exact anyFlag_ite_zero _ _ _
end

end Sys2Proof.Machine
end

section
/-! Butterflies in XBF formats (07 R172, R174): the output blocks, their flags, and what writing them leaves. -/
namespace Sys2Proof.Machine

/-! ### Output blocks -/

/-- Erasing duplicates leaves none, whatever the type. -/
theorem eraseDups_nodup {α : Type} [BEq α] [LawfulBEq α] (l : List α) : l.eraseDups.Nodup := by
  induction hn : l.length using Nat.strong_induction_on generalizing l with
  | _ n ih =>
    cases l with
    | nil => exact List.nodup_nil
    | cons a t =>
      have shorter : (t.filter fun b => !b == a).length < n := by
        rw [← hn]
        exact Nat.lt_succ_of_le (List.length_filter_le _ _)
      rw [List.eraseDups_cons, List.nodup_cons, List.mem_eraseDups]
      exact ⟨by simp, ih _ shorter _ rfl⟩

/-- The components of a block: one for each of its 32 elements, or two. -/
theorem components_length {α : Type} (f : Nat → List α) (c : Nat) (hf : ∀ j, (f j).length = c) :
    ((List.range 32).flatMap f).length = 32 * c := by
  refine (length_flatten_const c _ ?_).trans (by rw [List.length_map, List.length_range])
  simp only [List.forall_mem_map]
  exact fun j _ => hf j

theorem packMant_block {cplx : Bool} {l : List Int} (hl : l.length = 32 * if cplx then 2 else 1) : (packMant cplx l).length = 32 := by
  cases cplx with
  | true => exact packMant_length_complex 32 l hl
  | false => exact (packMant_length_real l).trans hl

/-- A block of outputs is whole. -/
theorem formBlock_whole (h : Hart) (cplx : Bool) (k b : Nat) (xs : List XOut) :
    (formBlock h cplx k b xs).b = b ∧ (formBlock h cplx k b xs).codes.length = 32 := by
  unfold formBlock
  extract_lets scale feeds low bad e comps lo ys q fl
  split
  · exact ⟨rfl, List.length_replicate ..⟩
  · have total : comps.length = 32 * if cplx then 2 else 1 := by
      refine components_length _ _ fun j => ?_
      split <;> cases cplx <;> rfl
    exact ⟨rfl, packMant_block (by rw [List.length_map, xbfRenorm_length, List.length_map, total])⟩

/-- A flag of a block is raised at the group of an output that lies in it (07 R165). -/
theorem formBlock_flag_low (h : Hart) (cplx : Bool) (k b : Nat) (xs : List XOut) (hx : xs ≠ []) (f : Nat × FlagSet)
    (hf : f ∈ (formBlock h cplx k b xs).fl) : ∃ x ∈ xs, f.1 = x.low := by
  have first : ∃ x ∈ xs, (xs.head?.map (·.low)).getD 0 = x.low := by
    cases xs with
    | nil => exact absurd rfl hx
    | cons x t => exact ⟨x, List.mem_cons_self, rfl⟩
  unfold formBlock at hf
  extract_lets scale feeds low bad e comps lo ys q fl at hf
  split at hf
  · rw [List.mem_singleton] at hf
    rw [hf]
    exact first
  · rcases List.mem_cons.1 hf with rfl | hf
    · exact first
    · obtain ⟨y, -, hy⟩ := List.mem_filterMap.1 hf
      obtain ⟨x, hx, rfl⟩ := Option.map_eq_some_iff.1 hy
      exact ⟨x, List.mem_of_find?_eq_some hx, rfl⟩

theorem groupX_low (h : Hart) (cplx : Bool) (u : Group) : ∀ x ∈ groupX h cplx u, x.low = u.low := by
  intro x hx
  obtain ⟨p, -, rfl⟩ := List.mem_map.1 hx
  rfl

section
variable (h : Hart) (cplx : Bool) (k : Nat) (gs : List Group)

/-- The exact outputs of groups. -/
def Hart.outputsX : List XOut := gs.flatMap (groupX h cplx)

/-- The outputs of groups that lie in block n of register r. -/
def Hart.outputsIn (r : VIdx) (n : Nat) : List XOut := (h.outputsX cplx gs).filter fun x => x.at_.1 == r && x.at_.2 / 32 == n

/-- The output blocks of groups with their registers, in the order in which the outputs reach them. -/
def Hart.blocksX : List (VIdx × Block) :=
  ((h.outputsX cplx gs).map fun x => (x.at_.1, x.at_.2 / 32)).eraseDups.map fun key =>
    (key.1, formBlock h cplx k key.2 (h.outputsIn cplx gs key.1 key.2))

theorem Hart.mem_blocksX (r : VIdx) (b : Block) : (r, b) ∈ h.blocksX cplx k gs ↔
    ∃ x ∈ h.outputsX cplx gs, x.at_.1 = r ∧ formBlock h cplx k (x.at_.2 / 32) (h.outputsIn cplx gs r (x.at_.2 / 32)) = b := by
  simp only [Hart.blocksX, List.mem_map, List.mem_eraseDups, exists_exists_and_eq_and, Prod.mk.injEq]
  exact exists_congr fun x => and_congr_right fun _ => and_congr_right fun hr => by rw [hr]

theorem Hart.mem_outBlocks (r : VIdx) (b : Block) : b ∈ h.outBlocks cplx k gs r ↔
    ∃ x ∈ h.outputsX cplx gs, x.at_.1 = r ∧ formBlock h cplx k (x.at_.2 / 32) (h.outputsIn cplx gs r (x.at_.2 / 32)) = b := by
  simp only [Hart.outBlocks, List.mem_map, List.mem_eraseDups, List.mem_filter, beq_iff_eq]
  constructor
  · rintro ⟨n, ⟨x, ⟨hx, hr⟩, rfl⟩, hb⟩
    exact ⟨x, hx, hr, hb⟩
  · rintro ⟨x, hx, hr, hb⟩
    exact ⟨_, ⟨x, ⟨hx, hr⟩, rfl⟩, hb⟩

/-- The blocks of one register are those that its outputs lie in (07 R172). -/
theorem Hart.mem_blocksX_iff (r : VIdx) (b : Block) : (r, b) ∈ h.blocksX cplx k gs ↔ b ∈ h.outBlocks cplx k gs r :=
  (h.mem_blocksX cplx k gs r b).trans (h.mem_outBlocks cplx k gs r b).symm

theorem Hart.outBlocks_whole (r : VIdx) : ∀ b ∈ h.outBlocks cplx k gs r, b.codes.length = 32 := by
  intro b hb
  obtain ⟨x, -, -, rfl⟩ := (h.mem_outBlocks cplx k gs r b).1 hb
  exact (formBlock_whole ..).2

/-- A register's blocks are formed once each. -/
theorem Hart.blocksX_distinct (r : VIdx) : (((h.blocksX cplx k gs).filter fun x => x.1 == r).map Prod.snd).Pairwise fun b c => b.b ≠ c.b := by
  unfold Hart.blocksX
  rw [List.filter_map, List.map_map, List.pairwise_map]
  refine ((eraseDups_nodup _).filter _).imp_of_mem fun {x y} hx hy hne => ?_
  have hx : (x.1 == r) = true := (List.mem_filter.1 hx).2
  have hy : (y.1 == r) = true := (List.mem_filter.1 hy).2
  simp only [Function.comp_apply, (formBlock_whole _ _ _ _ _).1]
  exact fun e => hne (Prod.ext ((eq_of_beq hx).trans (eq_of_beq hy).symm) e)

/-! ### Flags -/

/-- The flags of the output blocks, by register. -/
def Hart.blockFlagsX : List (Nat × FlagSet) := (List.finRange 32).flatMap fun r => flagsOfBlocks (h.outBlocks cplx k gs r)

theorem Hart.mem_blockFlagsX (f : Nat × FlagSet) :
    f ∈ flagsOfBlocks ((h.blocksX cplx k gs).map Prod.snd) ↔ f ∈ h.blockFlagsX cplx k gs := by
  unfold Hart.blockFlagsX flagsOfBlocks
  simp only [List.mem_flatMap, List.mem_map, List.mem_finRange, true_and, ← h.mem_blocksX_iff]
  constructor
  · rintro ⟨b, ⟨⟨r, b'⟩, hb, rfl⟩, hf⟩
    exact ⟨r, b', hb, hf⟩
  · rintro ⟨r, b, hb, hf⟩
    exact ⟨b, ⟨(r, b), hb, rfl⟩, hf⟩

theorem Hart.blockFlagsX_low (f : Nat × FlagSet) (hf : f ∈ h.blockFlagsX cplx k gs) : ∃ u ∈ gs, f.1 = u.low := by
  obtain ⟨r, -, hf⟩ := List.mem_flatMap.1 hf
  obtain ⟨b, hb, hf⟩ := List.mem_flatMap.1 hf
  obtain ⟨x, hx, hr, rfl⟩ := (h.mem_outBlocks cplx k gs r b).1 hb
  have own : x ∈ h.outputsIn cplx gs r (x.at_.2 / 32) := List.mem_filter.2 ⟨hx, by simp [hr]⟩
  split at hf
  · cases hf
  · obtain ⟨y, hy, low⟩ := formBlock_flag_low _ _ _ _ _ (List.ne_nil_of_mem own) f hf
    obtain ⟨u, hu, hyu⟩ := List.mem_flatMap.1 (List.mem_filter.1 hy).1
    exact ⟨u, hu, low.trans (groupX_low h cplx u y hyu)⟩

/-- The flags that an instruction raises at its groups: those of the blocks, at the lowest element of each (07 R165). -/
theorem Hart.flagsX_eq : (gs.map fun u => (u.low, ((flagsOfBlocks ((h.blocksX cplx k gs).map Prod.snd)).filter fun f => f.1 == u.low).foldl
    (fun x f => x ||| f.2) 0)) = h.flagsX cplx k gs := by
  refine List.map_congr_left fun u _ => Prod.ext rfl ?_
  have raised (l : List (Nat × FlagSet)) : l.foldl (fun x f => x ||| f.2) 0 = anyFlag (l.map Prod.snd) := List.foldl_map.symm
  refine (raised _).trans (anyFlag_ext fun i => exists_congr fun g => and_congr_left' ?_)
  simp only [List.mem_map, List.mem_filter, h.mem_blockFlagsX]
  rfl

/-- Together they are the flags of the blocks. -/
theorem Hart.anyFlag_flagsX :
    anyFlag ((h.flagsX cplx k gs).map Prod.snd) = anyFlag ((List.finRange 32).map fun r => blocksFlag (h.outBlocks cplx k gs r)) := by
  have groups : anyFlag ((h.flagsX cplx k gs).map Prod.snd)
      = anyFlag (gs.flatMap fun u => ((h.blockFlagsX cplx k gs).filter fun f => f.1 == u.low).map Prod.snd) := by
    rw [anyFlag_flatMap]
    exact congrArg anyFlag List.map_map
  have blocks : anyFlag ((List.finRange 32).map fun r => blocksFlag (h.outBlocks cplx k gs r))
      = anyFlag ((h.blockFlagsX cplx k gs).map Prod.snd) := by
    simp only [← anyFlag_blocks]
    rw [← anyFlag_flatMap, Hart.blockFlagsX, List.map_flatMap]
  rw [groups, blocks]
  refine anyFlag_ext fun i => exists_congr fun g => and_congr_left' ?_
  simp only [List.mem_flatMap, List.mem_map, List.mem_filter, beq_iff_eq]
  constructor
  · rintro ⟨u, hu, f, ⟨hf, -⟩, rfl⟩
    exact ⟨f, hf, rfl⟩
  · rintro ⟨f, hf, rfl⟩
    obtain ⟨u, hu, low⟩ := h.blockFlagsX_low cplx k gs f hf
    exact ⟨u, hu, f, ⟨hf, low⟩, rfl⟩

/-! ### What is written -/

theorem VReg.writtenInBlocks_congr {old new : VReg} {w : Nat} {bs cs : List Block} (hb : ∀ b, b ∈ bs ↔ b ∈ cs)
    (hw : old.writtenInBlocks new w bs) : old.writtenInBlocks new w cs := by
  unfold VReg.writtenInBlocks at hw ⊢
  simpa only [hb] using hw

/-- Vector registers v after the output blocks of groups are written. -/
def Hart.writeX (v : Vector VReg 32) : Vector VReg 32 := updated Prod.fst (fun r b => r.putBlock (xbfWidth cplx) b.2) (h.blocksX cplx k gs) v

theorem xbfWidth_cases : EltWidth (xbfWidth cplx) := by
  cases cplx <;> exact .inr (by decide)

theorem Hart.writeX_written (v : Vector VReg 32) (r : VIdx) :
    (v[r]).writtenInBlocks (h.writeX cplx k gs v)[r] (xbfWidth cplx) (h.outBlocks cplx k gs r) := by
  have members (b : Block) : b ∈ ((h.blocksX cplx k gs).filter fun x => x.1 == r).map Prod.snd ↔ b ∈ h.outBlocks cplx k gs r := by
    rw [← h.mem_blocksX_iff]
    simp only [List.mem_map, List.mem_filter, beq_iff_eq]
    constructor
    · rintro ⟨⟨r', b'⟩, ⟨hb, rfl⟩, rfl⟩
      exact hb
    · exact fun hb => ⟨(r, b), ⟨hb, rfl⟩, rfl⟩
  have fold : (h.writeX cplx k gs v)[r] = (v[r]).putBlocks (xbfWidth cplx) (((h.blocksX cplx k gs).filter fun x => x.1 == r).map Prod.snd) :=
    (updated_get _ _ _ v r).trans List.foldl_map.symm
  rw [fold]
  exact VReg.writtenInBlocks_congr members (putBlocks_writtenInBlocks _ (xbfWidth_cases cplx) (h.blocksX_distinct cplx k gs r)
    fun b hb => h.outBlocks_whole cplx k gs r b ((members b).1 hb))
end

section
variable {s : State} {i : Instr} {rs ds : List VIdx} {legal : Hart → M Unit} {f : Hart → M Hart} {adv : Hart → Hart} {g : Word}
  {m : MIdx} {gs : Hart → List Group}

theorem runX_ok {h : Hart} (cplx : Bool) (k : Nat) (hm : h.maskSound m) (hlow : h.groupsBelow (gs h)) :
    runX cplx k gs m h = (h.raiseAll (h.flagsX cplx k (h.groupsOn m (gs h)))).map fun t =>
      { t with regs := { t.regs with v := h.writeX cplx k (h.groupsOn m (gs h)) t.regs.v } } := by
  simp only [runX, activeGroups_ok hm hlow, ← h.flagsX_eq]
  have write (x : Regs) := foldl_setV (α := VIdx × Block) Prod.fst (fun r b => r.putBlock (xbfWidth cplx) b.2)
    (h.blocksX cplx k (h.groupsOn m (gs h))) x
  have flags : flagsOfBlocks ((h.blocksX cplx k (h.groupsOn m (gs h))).map Prod.snd)
      = (h.blocksX cplx k (h.groupsOn m (gs h))).flatMap fun b => if b.2.bad then [] else b.2.fl := List.flatMap_map ..
  simp only [Hart.writeX, ← write, flags]
  rfl

/-- Groups in an XBF format (07 R172). -/
theorem doneOrTraps_of_runX (e : exec i s = vecH rs ds legal f s) (hd : s.hart.detached) (hm : s.hart.maskSound m)
    (hl : legal s.hart = .ok ()) (hadv : ∀ v x, adv (s.hart.withV v x s.hart.regs.h.twg) = s.hart.withV v x g)
    (hlow : s.hart.groupsBelow (gs s.hart)) (cplx : Bool) (k : Nat) (hf : f s.hart = (runX cplx k gs m s.hart).map adv) :
    let on := s.hart.groupsOn m (gs s.hart)
    s.doneOrTraps i (s.hart.flagsX cplx k on) (s.writesX i cplx k on g) := by
  intro on
  rw [runX_ok cplx k hm hlow] at hf
  refine State.doneOrTraps_imp (fun done => ?_) (doneOrTraps_of_vectors e hd hl hf hadv)
  rw [s.hart.anyFlag_flagsX] at done
  exact ⟨_, done, fun r => s.hart.writeX_written cplx k on s.hart.regs.v r⟩
end

end Sys2Proof.Machine
end

section
/-! The transform instructions (07 R164-R178): what each writes. -/
namespace Sys2Proof.Machine

/-! ### Butterflies (07 R169-R174) -/

/-- Instruction i writes the outputs of groups in the format of its type, raises their flags, and sets TWG := g. -/
def State.butterflies (s : State) (i : Instr) (y : BflyT) (k : Nat) (on : List Group) (g : Word) : Prop :=
  match y with
  | .cbf16 => s.butterfliesF i .cbf16 on g
  | .cfp32 => s.butterfliesF i .cfp32 on g
  | .xbf => s.doneOrTraps i (s.hart.flagsX true k on) (s.writesX i true k on g)
  | .rxbf => s.doneOrTraps i (s.hart.flagsX false k on) (s.writesX i false k on g)

section
variable {s : State} {d a : VIdx} {b : BOpB} {m : MIdx} (hd : s.hart.detached) (hm : s.hart.maskSound m)
include hd hm

theorem butterflies_of_runT {i : Instr} {rs ds : List VIdx} {legal : Hart → M Unit} {f : Hart → M Hart} {adv : Hart → Hart} {g : Word}
    {gs : Hart → List Group} (e : exec i s = vecH rs ds legal f s) (hl : legal s.hart = .ok ())
    (hadv : ∀ v x, adv (s.hart.withV v x s.hart.regs.h.twg) = s.hart.withV v x g) (hlow : s.hart.groupsBelow (gs s.hart))
    (hn : outputsDistinct (gs s.hart)) (y : BflyT) (k : Nat) (hf : f s.hart = (runT y k gs m s.hart).map adv) :
    s.butterflies i y k (s.hart.groupsOn m (gs s.hart)) g := by
  cases y with
  | cbf16 => exact butterfliesF_of_runF e hd hm hl hadv hlow .cbf16 hf hn
  | cfp32 => exact butterfliesF_of_runF e hd hm hl hadv hlow .cfp32 hf hn
  | xbf => exact doneOrTraps_of_runX e hd hm hl hadv hlow true k hf
  | rxbf => exact doneOrTraps_of_runX e hd hm hl hadv hlow false k hf

theorem bfly2_butterflies {y : BflyT} (hw : s.hart.ew = bflyWidth y) (hb : bflyLimit false d a b = true)
    (hg : y ≠ .rxbf → s.hart.twgLegal false = .ok ()) :
    s.butterflies (.bfly2 y d a b m) y 1 (s.hart.groupsOn m (bflyGroups s.hart false (y == .rxbf) d a b))
      (if y = .rxbf then s.hart.regs.h.twg else s.hart.twgAfter b) := by
  have e := exec_bfly2 y d a b m s
  unfold execBfly2 at e
  refine butterflies_of_runT (gs := fun h => bflyGroups h false (y == .rxbf) d a b) (adv := advanceIf b (y != .rxbf)) hd hm e
    ?_ ?_ (bflyGroups_below _ _ _ _ _ _) (bflyGroups_distinct ..) y 1 ?_
  · rw [hb, ewIn_self hw]
    cases y with
    | rxbf => rfl
    | cbf16 | cfp32 | xbf => exact hg (by decide)
  · intro v x
    refine (s.hart.advanceIf_withV b (y != .rxbf) v x).trans ?_
    cases y <;> rfl
  · cases y <;> rfl

theorem bfly4_butterflies {y : BflyT} (hw : s.hart.ew = bflyWidth y) (hb : bflyLimit true d a b = true) (hy : y ≠ .rxbf)
    (hg : s.hart.twgLegal true = .ok ()) :
    s.butterflies (.bfly4 y d a b m) y 2 (s.hart.groupsOn m (bflyGroups s.hart true false d a b)) (s.hart.twgAfter b) := by
  refine butterflies_of_runT (gs := fun h => bflyGroups h true false d a b) hd hm (exec_bfly4 y d a b m s) ?_
    (s.hart.advanceIf_withV b true) (bflyGroups_below _ _ _ _ _ _) (bflyGroups_distinct ..) y 2 rfl
  rw [hb, ewIn_self hw, beq_false_of_ne hy]
  exact hg

theorem bflyg_butterflies {y : BflyT} {b : VIdx} (hw : s.hart.ew = bflyWidth y) (hb : b.val ≤ 30) :
    s.butterflies (.bflyg y d a b m) y 1 (s.hart.groupsOn m (pairGroups s.hart d a b)) s.hart.regs.h.twg := by
  refine butterflies_of_runT (gs := fun h => pairGroups h d a b) (adv := id) hd hm (exec_bflyg y d a b m s) ?_ (fun _ _ => rfl)
    (pairGroups_below _ _ _ _) (pairGroups_distinct ..) y 1 ?_
  · rw [if_neg (show ¬ 30 < b.val by omega)]
    exact ewIn_self hw
  · cases runT y 1 (fun h => pairGroups h d a b) m s.hart <;> rfl

/-- The modular butterflies (07 R173). -/
theorem butterfliesM_of_bflyM {r4 : Bool} {i : Instr} {k : MWidth} {p1 : Bool} (e : exec i s = vecH (bflyIn r4 a b) (bflyOut r4 d b)
      (fun h => if !bflyLimit r4 d a b then .error illegal else (ewIn [k.bits] h).bind fun _ => h.twgLegal r4)
      (fun h => (runM k p1 (fun h => bflyGroups h r4 false d a b) m h).map (advanceIf b true)) s)
    (hw : s.hart.ew = k.bits) (hb : bflyLimit r4 d a b = true) (hg : s.hart.twgLegal r4 = .ok ()) :
    s.butterfliesM i k p1 (s.hart.groupsOn m (bflyGroups s.hart r4 false d a b)) (s.hart.twgAfter b) := by
  refine butterfliesM_of_runM (gs := fun h => bflyGroups h r4 false d a b) e hd hm ?_ (s.hart.advanceIf_withV b true) (bflyGroups_below _ _ _ _ _ _)
    k p1 rfl (bflyGroups_distinct ..)
  rw [hb, ewIn_self hw]
  exact hg
end

/-! ### Twiddles (07 R166-R168) -/

theorem exec_twset_writes {s : State} {x : SReg} (hd : s.hart.detached) (hw : s.hart.ewWide) (hx : s.hart.bad x = false) :
    exec (.twset x) s = .next (s.goesOn (s.hart.setTwg (s.hart.s x)) 4) := by
  refine (exec_twset x s).trans (vecH_detached _ _ _ _ _ _ hd ?_ rfl hd)
  rw [ewIn_bind_ok _ _ (Hart.ewWide_mem hw)]
  exact Hart.clean_ok _ x hx

/-- MOD0 does not serve the format of a twiddle, or has no root of order N (07 R167). -/
def Hart.noRoot (h : Hart) (t : TwFmt) : Bool :=
  match t with
  | .m32 => !modOk .m32 (h.modulus false) || (h.modulus false - 1) % h.twg.n != 0
  | .m64 => !modOk .m64 (h.modulus false) || (h.modulus false - 1) % h.twg.n != 0
  | _ => false

/-- The twiddle of element i (07 R168). -/
def Hart.twiddleAt (h : Hart) (t : TwFmt) (i : Nat) : Nat := if h.noRoot t then 0 else twElt h t h.twg (h.twg.e i)

/-- The flag of `twget`: raised once, where an element is active (07 R167, R168). -/
def Hart.twFlag (h : Hart) (t : TwFmt) (m : MIdx) : FlagSet := if h.noRoot t && !(h.active m).isEmpty then flMrange else 0

/-- A block of twiddles: an element that is not active is 0 (07 R168). -/
def Hart.twBlock (h : Hart) (u : Nat × List Nat) : Block :=
  ⟨u.1, (List.range 32).map fun j => if 32 * u.1 + j ∈ u.2 then twElt h .xbf h.twg (h.twg.e (32 * u.1 + j)) else 0, 0x80, false, []⟩

theorem Hart.raiseAll_single (h : Hart) (n : Nat) (fl : FlagSet) : h.raiseAll [(n, fl)] = h.raise fl n := by
  unfold Hart.raiseAll
  cases h.raise fl n <;> rfl

theorem Hart.raise_zero (h : Hart) (n : Nat) : h.raise 0 n = .ok h := by
  refine (if_pos ?_).trans (congrArg Except.ok h.orFlags_zero)
  simp [Hart.enabled]

/-- The flag of `twget` is raised at the lowest active element. -/
theorem Hart.raiseAll_twFlag (h : Hart) (t : TwFmt) (m : MIdx) : h.raiseAll [((h.active m).headD 0, h.twFlag t m)] =
    if h.noRoot t && !(h.active m).isEmpty then h.raise flMrange ((h.active m).head?.getD 0) else .ok h := by
  rw [h.raiseAll_single, List.headD_eq_head?_getD]
  unfold Hart.twFlag
  split
  · rfl
  · exact h.raise_zero _

theorem twWidth_pos (t : TwFmt) : 8 ∣ twWidth t ∧ 0 < twWidth t := by cases t <;> decide

section
variable {s : State} {d : VIdx} {m : MIdx} (hd : s.hart.detached) (hm : s.hart.maskSound m) (hg : s.hart.twgLegal false = .ok ())
include hd hm hg

/-- `twget` of single elements raises its flag, writes, and moves TWG on (07 R168). -/
theorem twget_elements {t : TwFmt} (hw : s.hart.ew = twWidth t) (ht : t ≠ .xbf) :
    s.doneOrTraps (.twget t d m) [((s.hart.active m).headD 0, s.hart.twFlag t m)]
      (s.writesAt (.twget t d m) (twWidth t) ((s.hart.active m).map fun i => ((d, i), (⟨s.hart.twiddleAt t i, false⟩ : Elt)))
        (s.hart.twFlag t m) s.hart.movedTwg) := by
  refine State.doneOrTraps_imp (fun done => ?_) (doneOrTraps_of_vectors (adv := Hart.advanceTwg) (V := fun v => v.set d ((v[d]).setElts
    (twWidth t) ((s.hart.active m).map fun i => (i, (⟨s.hart.twiddleAt t i, false⟩ : Elt))))) (exec_twget t d m s) hd ?_ ?_
    s.hart.advanceTwg_withV)
  · have flag : anyFlag ([((s.hart.active m).headD 0, s.hart.twFlag t m)].map (·.2)) = s.hart.twFlag t m := BitVec.zero_or
    rw [flag] at done
    exact ⟨_, done, setElts_writtenAt _ (twWidth_pos t) d _ _⟩
  · rw [ewIn_self hw]
    exact hg
  · have bad : ((t == .m32 || t == .m64) && (!modOk (if t == .m32 then .m32 else .m64) (s.hart.modulus false)
        || (s.hart.modulus false - 1) % s.hart.twg.n != 0)) = s.hart.noRoot t := by cases t <;> rfl
    simp only [maskClean_ok _ _ hm, bad, if_neg ht, ← s.hart.raiseAll_twFlag]
    cases s.hart.raiseAll [((s.hart.active m).headD 0, s.hart.twFlag t m)] <;> rfl

/-- `twget.xbf` writes the blocks that hold an active element, raises no flag, and moves TWG on (07 R168). -/
theorem twget_blocks (hw : s.hart.ew = 32) :
    s.writesBlocks (.twget .xbf d m) s.hart 32 d ((blocksOf (s.hart.active m)).map s.hart.twBlock) s.hart.movedTwg := by
  have none' : flagsOfBlocks ((blocksOf (s.hart.active m)).map s.hart.twBlock) = [] := by
    refine List.flatMap_eq_nil_iff.2 ?_
    simp only [List.forall_mem_map]
    exact fun _ _ => rfl
  have flag : blocksFlag ((blocksOf (s.hart.active m)).map s.hart.twBlock) = 0 := by
    rw [← anyFlag_blocks, none']
    rfl
  have done := (doneOrTraps_of_vectors (adv := Hart.advanceTwg) (fl := []) (V := fun v => v.set d ((v[d]).putBlocks 32
    ((blocksOf (s.hart.active m)).map s.hart.twBlock))) (exec_twget .xbf d m s) hd ?_ ?_ s.hart.advanceTwg_withV).1 (by simp)
  · refine ⟨_, flag ▸ done, putBlocks_writtenInBlocks _ (.inr (by decide)) ?_ ?_⟩
    · rw [List.pairwise_map]
      exact blocksOf_distinct _
    · simp only [List.forall_mem_map]
      exact fun u _ => by simp [Hart.twBlock]
  · rw [ewIn_self (w := twWidth .xbf) hw]
    exact hg
  · have residue : (TwFmt.xbf == .m32 || TwFmt.xbf == .m64) = false := rfl
    simp only [maskClean_ok _ _ hm, residue, Bool.false_and, Bool.false_eq_true, if_false, if_true, List.contains_iff_mem]
    show (((s.hart.raiseAll (flagsOfBlocks ((blocksOf (s.hart.active m)).map s.hart.twBlock))).map _).map Hart.advanceTwg) = _
    rw [none']
    rfl
end

/-! ### Permutations and block alignment (07 R175-R178) -/

section
variable {s : State} {d a : VIdx} {m : MIdx} (hd : s.hart.detached) (hm : s.hart.maskSound m) (hw : s.hart.ewWide)
include hd hm hw

theorem writesV_of_permute {i : Instr} {src : Nat → Nat → Nat} (e : exec i s = permute d a m true src s) :
    s.writesV i s.hart.ew d (s.hart.writes m) (fun j =>
      (s.hart.regs.v[a]).elt s.hart.ew (if j < 2 ^ Nat.log2 s.hart.vl then src (Nat.log2 s.hart.vl) j else j)) 0 :=
  writesV_of_ewMap hd hw hm (f := fun h j => (h.regs.v[a]).elt h.ew (if j < 2 ^ Nat.log2 h.vl then src (Nat.log2 h.vl) j else j)) e

/-- Digit reversal of the index (07 R175). -/
theorem vdrev_writes {im : BitVec 5} (h1 : 1 ≤ im.toNat) (h8 : im.toNat ≤ 8) :
    let n := Nat.log2 s.hart.vl
    s.writesV (.vdrev d a im m) s.hart.ew d (s.hart.writes m) (fun j =>
      (s.hart.regs.v[a]).elt s.hart.ew (if j < 2 ^ n then revSource n im.toNat j else j)) 0 := by
  refine writesV_of_permute (src := fun n j => revSource n im.toNat j) hd hm hw ?_
  rw [exec_vdrev, execVdrev, decide_eq_true h1, decide_eq_true h8, Bool.true_and]

/-- Rotation of the index; a count above its length leaves it (07 R176). -/
theorem vtrn_writes {im : BitVec 5} :
    let n := Nat.log2 s.hart.vl
    s.writesV (.vtrn d a im m) s.hart.ew d (s.hart.writes m) (fun j =>
      (s.hart.regs.v[a]).elt s.hart.ew (if j < 2 ^ n ∧ im.toNat ≤ n
        then j % 2 ^ (n - im.toNat) * 2 ^ im.toNat + j / 2 ^ (n - im.toNat) else j)) 0 := by
  have written := writesV_of_permute hd hm hw (exec_vtrn d a im m s)
  refine State.writesV_ext (fun j => congrArg ((s.hart.regs.v[a]).elt s.hart.ew) ?_) written
  generalize Nat.log2 s.hart.vl = n
  by_cases hj : j < 2 ^ n
  · by_cases hc : im.toNat ≤ n
    · simp only [hj, hc, Nat.not_lt.2 hc, if_true, if_false, and_self]
    · simp only [hj, hc, Nat.lt_of_not_le hc, if_true, if_false, and_false]
  · simp only [hj, if_false, false_and]
end

/-- An aligned block is whole. -/
theorem alignBlock_whole (h : Hart) (cplx : Bool) (a : VIdx) (top : Nat) (nan bad : Bool) (b : Nat) (act : List Nat) :
    (alignBlock h cplx a top nan bad b act).b = b ∧ (alignBlock h cplx a top nan bad b act).codes.length = 32 := by
  unfold alignBlock
  extract_lets r w poisoned comps qs
  split
  · exact ⟨rfl, List.length_replicate ..⟩
  · have total : comps.length = 32 * if cplx then 2 else 1 := components_length _ _ fun j => by cases cplx <;> rfl
    exact ⟨rfl, packMant_block (by rw [List.length_map, List.length_map, total])⟩

/-- `xbfn` brings the blocks that hold an active element to the largest of their scales (07 R178). -/
theorem xbfn_blocks {s : State} {cplx : Bool} {d a : VIdx} {m : MIdx} (hd : s.hart.detached) (hm : s.hart.maskSound m)
    (hw : s.hart.ew = xbfWidth cplx) :
    let bs := blocksOf (s.hart.active m)
    let es := bs.map fun u => (s.hart.regs.v[a]).scaleAt u.1
    let bad := bs.any fun u => (s.hart.regs.v[a]).scaleIsBad u.1
    let blocks := bs.map fun u => alignBlock s.hart cplx a (es.foldl max 0) (es.contains 0xFF) bad u.1 u.2
    s.doneOrTraps (.xbfn cplx d a m) (flagsOfBlocks blocks)
      (s.writesBlocks (.xbfn cplx d a m) s.hart (xbfWidth cplx) d blocks s.hart.regs.h.twg) := by
  intro bs es bad blocks
  refine doneOrTraps_of_putBlocks s.hart (exec_xbfn cplx d a m s) hd (ewIn_self hw) s.hart.drawn_refl ?_ (xbfWidth_cases cplx) ?_ ?_
  · simp only [maskClean_ok _ _ hm]
    rfl
  · simp only [blocks, List.pairwise_map, (alignBlock_whole _ _ _ _ _ _ _ _).1]
    exact blocksOf_distinct _
  · simp only [blocks, List.forall_mem_map]
    exact fun u _ => (alignBlock_whole ..).2

/-- Settles O41: butterflies by the outputs of their active groups, `twget` by its twiddles, permutations and `xbfn` by what they move. -/
theorem transformCompletes : Obligations.TransformCompletes := by
  unfold Obligations.TransformCompletes
  intro t y k cplx p1 d a e b im m x s hd hm h g moved legal2 legal4 after n on outF outT p outM p0 noRoot tw twFlag
  have ok2 (hg : legal2) : h.twgLegal false = .ok () := h.twgLegal_ok hg.1 hg.2
  have ok4 (hg : legal4) : h.twgLegal true = .ok () := h.twgLegal_radix4 hg.1 hg.2
  have moved' : after = h.twgAfter b := by cases b <;> rfl
  have types (i : Instr) (k : Nat) (gs : List Group) (g : Word) (q : s.butterflies i y k (h.groupsOn m gs) g) : outT i k gs g := by
    cases y <;> exact q
  refine ⟨fun hw hx => exec_twset_writes hd hw hx, fun hw hg ht => ?elements, fun hw hg => twget_blocks hd hm (ok2 hg) hw,
    fun hw hb hg => ?radix2, fun hw hb hy hg => ?radix4, fun hw hb => types _ _ _ _ (bflyg_butterflies hd hm hw hb),
    fun hw hb hg => ?modular2, fun hw hb hg => ?modular4, fun hw h1 h8 => vdrev_writes hd hm hw h1 h8,
    fun hw => vtrn_writes hd hm hw, fun hw => ?align⟩
  case elements =>
    have root : noRoot = h.noRoot t := by cases t <;> rfl
    simp only [tw, twFlag, root]
    exact twget_elements hd hm (ok2 hg) hw ht
  case radix2 =>
    rw [moved']
    exact types _ _ _ _ (bfly2_butterflies hd hm hw hb fun hy => ok2 (hg hy))
  case radix4 =>
    rw [moved']
    exact types _ _ _ _ (bfly4_butterflies hd hm hw hb hy (ok4 hg))
  case modular2 =>
    rw [moved']
    exact butterfliesM_of_bflyM (r4 := false) hd hm (exec_bfly2M k p1 d a b m s) hw hb (ok2 hg)
  case modular4 =>
    rw [moved']
    exact butterfliesM_of_bflyM (r4 := true) hd hm (exec_bfly4M k p1 d a b m s) hw hb (ok4 hg)
  case align =>
    rw [hw]
    exact xbfn_blocks hd hm hw

end Sys2Proof.Machine
end

section
/-! Elements of a tile (01 R20, 08 R184): what writing some of its words leaves in each. -/
namespace Sys2Proof.Machine

/-! ### Fields -/

/-- A field inside a replaced one is a field of the value. -/
theorem field_setField_inside (x lo w v lo' w' : Nat) (h : lo ≤ lo') (h' : lo' + w' ≤ lo + w) :
    field (setField x lo w v) lo' w' = field v (lo' - lo) w' := by
  apply Nat.eq_of_testBit_eq
  intro i
  rw [field_testBit, setField_testBit, field_testBit]
  by_cases hi : i < w'
  · rw [if_pos (by omega), show lo' + i - lo = lo' - lo + i by omega]
  · simp [hi]

/-- A field of a number is the field of its low n bits that hold it. -/
theorem field_ofNat (n x lo w : Nat) (h : lo + w ≤ n) : field (BitVec.ofNat n x).toNat lo w = field x lo w := by
  apply Nat.eq_of_testBit_eq
  intro i
  rw [field_testBit, field_testBit, BitVec.toNat_ofNat, Nat.testBit_mod_two_pow]
  by_cases hi : i < w
  · rw [decide_eq_true (show lo + i < n by omega), Bool.true_and]
  · simp [hi]

theorem field_lt (x lo w : Nat) : field x lo w < 2 ^ w := Nat.mod_lt _ (Nat.two_pow_pos w)

/-! ### Lists of words and of poison bits -/

theorem field_packWords (xs : List Nat) (n v : Nat) (h : xs[n]? = some v) : field (packWords xs) (32 * n) 32 = v % 2 ^ 32 := by
  induction xs generalizing n with
  | nil => cases h
  | cons x xs ih =>
    have low : x % 2 ^ 32 < 2 ^ 32 := Nat.mod_lt _ (by decide)
    unfold packWords
    cases n with
    | zero =>
      cases h
      unfold field
      omega
    | succ n =>
      rw [← ih n h]
      unfold field
      rw [show 32 * (n + 1) = 32 + 32 * n by omega, pow_add, ← Nat.div_div_eq_div_mul,
        show (x % 2 ^ 32 + packWords xs * 2 ^ 32) / 2 ^ 32 = packWords xs by omega]

theorem packBits_testBit (xs : List Bool) (n : Nat) (b : Bool) (h : xs[n]? = some b) : (packBits xs).testBit n = b := by
  induction xs generalizing n with
  | nil => cases h
  | cons x xs ih =>
    have low : b2n x < 2 := by cases x <;> decide
    unfold packBits
    cases n with
    | zero =>
      cases h
      rw [Nat.testBit_zero]
      cases b <;> simp [b2n]
    | succ n => rw [← ih n h, Nat.testBit_succ, show (b2n x + packBits xs * 2) / 2 = packBits xs by omega]

/-! ### Writes -/

section
variable (t : Tile)

theorem Tile.elt_lt (n : Nat) : (t.elt n).val < 2 ^ 32 := field_lt ..

theorem Tile.elt_setElt_same (n : Nat) (x : Elt) (hn : n < 4096) : (t.setElt n x).elt n = ⟨x.val % 2 ^ 32, x.bad⟩ := by
  unfold Tile.setElt Tile.elt
  rw [field_ofNat _ _ _ _ (by omega), field_setField_same, BitVec.getLsbD_ofNat, setField_testBit, if_pos (by omega), Nat.sub_self,
    b2n_testBit]
  simp [hn]

theorem Tile.elt_setElt_other (n k : Nat) (x : Elt) (hk : k < 4096) (hne : n ≠ k) : (t.setElt n x).elt k = t.elt k := by
  unfold Tile.setElt Tile.elt
  rw [field_ofNat _ _ _ _ (by omega), field_setField_other _ _ _ _ _ _ (by omega), BitVec.getLsbD_ofNat, setField_testBit,
    if_neg (by omega), decide_eq_true hk, Bool.true_and]
  rfl

/-- Elements at distinct places written one after another: each holds its own, the rest are as before. -/
theorem Tile.elt_foldl_setElt (pos : Nat → Nat) (f : Nat → Elt) (k : Nat) (hk : k < 4096) (l : List Nat)
    (hl : l.Pairwise fun i j => pos i ≠ pos j) :
    (∀ i ∈ l, pos i = k → (l.foldl (fun u i => u.setElt (pos i) (f i)) t).elt k = ⟨(f i).val % 2 ^ 32, (f i).bad⟩)
    ∧ ((∀ i ∈ l, pos i ≠ k) → (l.foldl (fun u i => u.setElt (pos i) (f i)) t).elt k = t.elt k) := by
  induction l generalizing t with
  | nil => exact ⟨fun i hi => absurd hi List.not_mem_nil, fun _ => rfl⟩
  | cons j l ih =>
    obtain ⟨hj, hl⟩ := List.pairwise_cons.1 hl
    obtain ⟨written, kept⟩ := ih (t.setElt (pos j) (f j)) hl
    rw [List.foldl_cons]
    refine ⟨fun i hi e => ?_, fun h => ?_⟩
    · rcases List.mem_cons.1 hi with rfl | hi
      · subst e
        rw [kept fun i' hi' => (hj i' hi').symm, Tile.elt_setElt_same _ _ _ hk]
      · exact written i hi e
    · rw [kept fun i hi => h i (List.mem_cons_of_mem j hi), Tile.elt_setElt_other _ _ _ _ hk (h j List.mem_cons_self)]

/-- The first elements written as a list. -/
theorem Tile.elt_putElts (xs : List Elt) (n : Nat) (x : Elt) (hn : n < 4096) (hx : xs[n]? = some x) :
    (t.putElts xs).elt n = ⟨x.val % 2 ^ 32, x.bad⟩ := by
  have hlen : n < xs.length := (List.getElem?_eq_some_iff.1 hx).1
  have hv : (xs.map (·.val))[n]? = some x.val := by rw [List.getElem?_map, hx]; rfl
  have hb : (xs.map (·.bad))[n]? = some x.bad := by rw [List.getElem?_map, hx]; rfl
  unfold Tile.putElts Tile.elt
  rw [field_ofNat _ _ _ _ (by omega), field_setField_inside _ _ _ _ _ _ (by omega) (by omega), Nat.sub_zero, field_packWords _ _ _ hv,
    BitVec.getLsbD_ofNat, setField_testBit, if_pos (by omega), Nat.sub_zero, packBits_testBit _ _ _ hb, decide_eq_true hn, Bool.true_and]

theorem Tile.elt_putElts_past (xs : List Elt) (n : Nat) (hn : n < 4096) (hx : xs.length ≤ n) : (t.putElts xs).elt n = t.elt n := by
  unfold Tile.putElts Tile.elt
  rw [field_ofNat _ _ _ _ (by omega), field_setField_other _ _ _ _ _ _ (by omega), BitVec.getLsbD_ofNat, setField_testBit,
    if_neg (by omega), decide_eq_true hn, Bool.true_and]
  rfl
end

/-! ### The side of a tile (01 Table 1-1) -/

theorem Hart.side_pos (h : Hart) : 0 < h.side := by
  have hp := h.pmode.isLt
  have : 2 ^ h.pmode.toNat ≤ 2 ^ 3 := Nat.pow_le_pow_right (by decide) (by omega)
  have : 0 < 32 / 2 ^ h.pmode.toNat := Nat.div_pos (by omega) (Nat.two_pow_pos _)
  unfold Hart.side Hart.lanes
  omega

theorem Hart.side_le (h : Hart) : h.side ≤ 64 := by
  have := Nat.div_le_self 32 (2 ^ h.pmode.toNat)
  unfold Hart.side Hart.lanes
  omega

theorem Hart.side_square_le (h : Hart) : h.side * h.side ≤ 4096 := Nat.mul_le_mul h.side_le h.side_le

end Sys2Proof.Machine
end

section
/-! Outer products and tile moves (08 R185-R189): what each leaves in its tile or its vector register. -/
namespace Sys2Proof.Machine

/-! ### The panels of an outer product (08 R187, R188) -/

/-- Elements that raise no flag can be left out (01 R25). -/
theorem Hart.raiseAll_nonzero (h : Hart) (l : List (Nat × FlagSet)) : h.raiseAll (l.filter fun x => x.2 != 0) = h.raiseAll l := by
  induction l generalizing h with
  | nil => rfl
  | cons x l ih =>
    obtain ⟨n, fl⟩ := x
    by_cases hf : fl = 0
    · subst hf
      rw [List.filter_cons_of_neg (by simp), Hart.raiseAll, h.raise_zero]
      exact ih h
    · rw [List.filter_cons_of_pos (by simpa using hf), Hart.raiseAll, Hart.raiseAll]
      cases h.raise fl n with
      | error e => rfl
      | ok h' => exact ih h'

theorem signed_fp32_lt (neg : Bool) (mag : Nat) (h : mag ≤ 0x7F800000) : fpFP32.signed neg mag < 2 ^ 32 := by
  have : b2n neg ≤ 1 := by cases neg <;> decide
  have e : fpFP32.sb = 31 := rfl
  unfold Fp.signed
  rw [e]
  omega

/-- A magnitude that overflows becomes the largest finite one or infinity (02 R47). -/
theorem ovfMag_cases (F : Fp) (r : Rnd) (neg : Bool) : F.ovfMag r neg = F.maxE ∨ F.ovfMag r neg = F.infE := by
  unfold Fp.ovfMag
  split
  · exact .inl rfl
  · cases r <;> cases neg <;> simp

theorem ovfMag_fp32_le (r : Rnd) (neg : Bool) : fpFP32.ovfMag r neg ≤ 0x7F800000 := by
  rcases ovfMag_cases fpFP32 r neg with e | e <;> rw [e] <;> decide

/-- An FP32 result is a word. -/
theorem pack_fp32_lt (r : Rnd) (fz : Bool) (v : FVal) : (fpFP32.pack r fz v).1 < 2 ^ 32 := by
  cases v with
  | nan q => exact (by decide : fpFP32.cnan < 2 ^ 32)
  | inf neg => exact signed_fp32_lt neg _ (by decide)
  | fin neg m e =>
    unfold Fp.pack Fp.roundFin
    simp only
    split
    · exact signed_fp32_lt neg _ (ovfMag_fp32_le r neg)
    · next hmax =>
      split
      · exact signed_fp32_lt neg 0 (by decide)
      · refine signed_fp32_lt neg _ ?_
        have e : fpFP32.maxE = 0x7F7FFFFF := rfl
        rw [e] at hmax
        omega

theorem cround_fp32_lt (r : Rnd) (fz : Bool) (terms : List (FVal × FlagSet)) (ops : List FVal) :
    (cround fpFP32 r fz terms ops).1 < 2 ^ 32 := by
  cases terms with
  | nil => exact (by decide : 0 < 2 ^ 32)
  | cons t ts => exact pack_fp32_lt ..

theorem wrapI_lt (w : Nat) (x : Int) : wrapI w x < 2 ^ w := by
  rw [wrapI_eq_ofInt]
  exact BitVec.isLt _

section
variable (h : Hart) (t : OpaT) (sub : Bool)

/-- A tile element stays a word. -/
theorem opaElt_lt (acc : Elt) (ts : List (Elt × Elt)) (hacc : acc.val < 2 ^ 32) : (opaElt h t sub acc ts).1.val < 2 ^ 32 := by
  unfold opaElt
  split
  · exact hacc
  · simp only
    split
    · exact wrapI_lt 32 _
    · exact cround_fp32_lt ..

variable (x y : VIdx) (m : MIdx)

/-- A panel keeps the number of the tile's elements. -/
theorem length_opaPanel (cells : List Elt) (p : Nat) (hc : cells.length = h.side * h.side) :
    (opaPanel h t sub x y m cells p).length = h.side * h.side := by
  have length_panel (r : VIdx) : (panel h t r m p).length = h.side := by simp [panel]
  simp [opaPanel, List.length_flatMap, length_panel, hc]

theorem opaPanel_lt (cells : List Elt) (p : Nat) (hc : ∀ e ∈ cells, e.val < 2 ^ 32) :
    ∀ e ∈ opaPanel h t sub x y m cells p, e.1.val < 2 ^ 32 := by
  unfold opaPanel
  intro e he
  obtain ⟨i, hi, rfl⟩ := List.mem_iff_getElem.1 he
  rw [List.getElem_zipWith]
  exact opaElt_lt h t sub _ _ (hc _ (List.getElem_mem _))

/-- After the panels a tile has as many elements as before, each of them a word. -/
theorem opaPanels_words (ps : List Nat) (cells : List Elt) (hlen : cells.length = h.side * h.side) (hc : ∀ e ∈ cells, e.val < 2 ^ 32) :
    (opaPanels h t sub x y m ps cells).1.length = h.side * h.side ∧ ∀ e ∈ (opaPanels h t sub x y m ps cells).1, e.val < 2 ^ 32 := by
  induction ps generalizing cells with
  | nil => exact ⟨hlen, hc⟩
  | cons p ps ih =>
    refine ih _ ?_ (List.forall_mem_map.2 (opaPanel_lt h t sub x y m cells p hc))
    rw [List.length_map, length_opaPanel h t sub x y m cells p hlen]
end

/-- The panels of VL elements. -/
def Hart.panels (h : Hart) (t : OpaT) : Nat := ceilDiv h.vl (h.side * opaGroup t)

/-- What an outer product makes of tile d, with the flags of its elements in panel order (08 R187, R188). -/
def Hart.outerOf (h : Hart) (t : OpaT) (sub : Bool) (d : AIdx) (x y : VIdx) (m : MIdx) : List Elt × List (Nat × FlagSet) :=
  opaPanels h t sub x y m (List.range (h.panels t)) ((h.regs.a[d]).elts (h.side * h.side))

theorem Hart.outerOf_words (h : Hart) (t : OpaT) (sub : Bool) (d : AIdx) (x y : VIdx) (m : MIdx) :
    (h.outerOf t sub d x y m).1.length = h.side * h.side ∧ ∀ e ∈ (h.outerOf t sub d x y m).1, e.val < 2 ^ 32 := by
  refine opaPanels_words h t sub x y m _ _ (by simp [Tile.elts]) ?_
  unfold Tile.elts
  exact List.forall_mem_map.2 fun n _ => Tile.elt_lt _ n

/-! ### Lines of a tile (08 R189) -/

/-- The active elements below the side of a tile. -/
def Hart.lineElements (h : Hart) (m : MIdx) : List Nat := (h.active m).filter fun j => decide (j < h.side)

theorem Hart.mem_lineElements (h : Hart) (m : MIdx) (j : Nat) : j ∈ h.lineElements m ↔ h.writes m j ∧ j < h.side := by
  unfold Hart.lineElements
  rw [List.mem_filter, mem_active, decide_eq_true_eq]

/-- The positions of a line are distinct. -/
theorem lineAt_injective (h : Hart) (row : Bool) (k : Nat) {i j : Nat} (e : lineAt h row k i = lineAt h row k j) : i = j := by
  unfold lineAt at e
  cases row with
  | true =>
    simp only [if_true] at e
    omega
  | false =>
    simp only [Bool.false_eq_true, if_false] at e
    exact Nat.eq_of_mul_eq_mul_left h.side_pos (by omega)

/-! ### Effects -/

section
variable {s : State} {i : Instr} {d : AIdx} {x : VIdx} {m : MIdx} (hd : s.hart.detached) (hm : s.hart.maskSound m)
include hd hm

/-- An outer product leaves the sums of its panels in tile d, or traps on the first element that raises an enabled flag. -/
theorem outer_doneOrTraps {t : OpaT} {sub : Bool} {y : VIdx} (e : exec i s = outer sub t d x y m s) (hw : s.hart.ew = opaWidth t) :
    let h := s.hart
    let r := h.outerOf t sub d x y m
    s.doneOrTraps i r.2 (∃ u, exec i s = .next (s.goesOn { h.orFlags (anyFlag (r.2.map fun x => x.2)) with
        regs := (h.orFlags (anyFlag (r.2.map fun x => x.2))).regs.setA d u } 4)
      ∧ (∀ n, n < h.side * h.side → r.1[n]? = some (u.elt n))
      ∧ ∀ n, h.side * h.side ≤ n → n < 4096 → u.elt n = (h.regs.a[d]).elt n) := by
  intro h r
  obtain ⟨hlen, hlt⟩ := h.outerOf_words t sub d x y m
  refine doneOrTraps_of_raiseAll (g := fun k => { k with regs := k.regs.setA d ((k.regs.a[d]).putElts r.1) }) h r.2 e hd (ewIn_self hw) ?_ rfl
    (fun _ => hd) fun done => ⟨_, done, fun n hn => ?_, fun n hn h4 => Tile.elt_putElts_past _ _ n h4 (hlen ▸ hn)⟩
  · simp only [maskClean_ok _ _ hm, Hart.raiseAll_nonzero]
    rfl
  · have hget : r.1[n]? = some (r.1[n]'(hlen ▸ hn)) := List.getElem?_eq_getElem _
    rw [hget, Tile.elt_putElts _ _ n _ (Nat.lt_of_lt_of_le hn h.side_square_le) hget, Nat.mod_eq_of_lt (hlt _ (List.getElem_mem _))]

variable {c : SReg} (hw : s.hart.ew = 32) (hc : s.hart.bad c = false)

omit hd hm in
include hw hc in
theorem tileIx_ok : tileIx c s.hart = .ok () := by
  unfold tileIx
  rw [ewIn_self hw]
  exact s.hart.clean_ok c hc

include hw hc

/-- A line goes into a vector register, zeros where it lies past the side. -/
theorem tileRead_writesV {row : Bool} {a : AIdx} (e : exec i s = tileRead row x a c m s) :
    s.writesV i 32 x (fun j => s.hart.writes m j ∧ j < s.hart.side)
      (fun j => if s.hart.side ≤ (s.hart.s c).toNat then ⟨0, false⟩ else (s.hart.regs.a[a]).elt (lineAt s.hart row (s.hart.s c).toNat j)) 0 := by
  refine writesV_of_setElts (s.hart.lineElements m) _ e hd (tileIx_ok hw hc) (by decide) (by decide) ?_ fun j =>
    (s.hart.mem_lineElements m j).symm
  simp only [maskClean_ok _ _ hm]
  rfl

/-- A vector register goes into a line; nothing changes where it lies past the side. -/
theorem tileWrite_writes {row : Bool} (e : exec i s = tileWrite row d x c m s) :
    ∃ u : Tile, exec i s = .next (s.goesOn { s.hart with regs := s.hart.regs.setA d u } 4)
      ∧ ∀ n, n < 4096 →
        (∀ j, s.hart.writes m j → j < s.hart.side → n = lineAt s.hart row (s.hart.s c).toNat j →
          u.elt n = if s.hart.side ≤ (s.hart.s c).toNat then (s.hart.regs.a[d]).elt n else (s.hart.regs.v[x]).elt 32 j)
        ∧ ((∀ j, s.hart.writes m j → j < s.hart.side → n ≠ lineAt s.hart row (s.hart.s c).toNat j) → u.elt n = (s.hart.regs.a[d]).elt n) := by
  by_cases hk : s.hart.side ≤ (s.hart.s c).toNat
  · have self : s.hart.regs.setA d s.hart.regs.a[d] = s.hart.regs := by
      unfold Regs.setA
      rw [show s.hart.regs.a.set d s.hart.regs.a[d] = s.hart.regs.a from Vector.set_getElem_self _]
    refine ⟨s.hart.regs.a[d], ?_, fun n _ => ⟨fun j _ _ _ => (if_pos hk).symm, fun _ => rfl⟩⟩
    rw [self]
    refine e.trans (vecH_detached _ _ _ _ s _ hd (tileIx_ok hw hc) ?_ hd)
    simp only [maskClean_ok _ _ hm, hk, if_true]
    rfl
  · let pos := lineAt s.hart row (s.hart.s c).toNat
    refine ⟨(s.hart.lineElements m).foldl (fun t j => t.setElt (pos j) ((s.hart.regs.v[x]).elt 32 j)) s.hart.regs.a[d], ?_, fun n hn => ?_⟩
    · refine e.trans (vecH_detached _ _ _ _ s _ hd (tileIx_ok hw hc) ?_ hd)
      simp only [maskClean_ok _ _ hm, hk, if_false]
      rfl
    · have distinct : (s.hart.lineElements m).Pairwise fun i j => pos i ≠ pos j :=
        ((s.hart.active_rising m).filter _).imp fun hlt e => absurd (lineAt_injective s.hart row _ e) (Nat.ne_of_lt hlt)
      obtain ⟨written, kept⟩ := Tile.elt_foldl_setElt s.hart.regs.a[d] pos (fun j => (s.hart.regs.v[x]).elt 32 j) n hn _ distinct
      refine ⟨fun j hj hs e => ?_, fun h => kept fun j hj e => ?_⟩
      · rw [written j ((s.hart.mem_lineElements m j).2 ⟨hj, hs⟩) e.symm, Nat.mod_eq_of_lt (elt_lt _ 32 j), if_neg hk]
      · obtain ⟨hj, hs⟩ := (s.hart.mem_lineElements m j).1 hj
        exact h j hj hs e.symm
end

/-- Settles O44: outer products by the words that the panels leave, moves by the elements of the line that they copy. -/
theorem tilesComplete : Obligations.TilesComplete := by
  unfold Obligations.TilesComplete
  intro t d a x y c m s hd h side word line outer reads writes
  have write {i : Instr} {row : Bool} (hm : h.maskSound m) (hw : h.ew = 32) (hc : h.bad c = false) (e : exec i s = tileWrite row d x c m s) :
      writes i row := by
    obtain ⟨u, done, hu⟩ := tileWrite_writes hd hm hw hc e
    refine ⟨u, done, fun n hn => ?_⟩
    obtain ⟨written, kept⟩ := hu n hn
    split
    · next j hj =>
      have hmem := List.mem_of_find?_eq_some hj
      have hon := List.find?_some hj
      simp only [Bool.and_eq_true, beq_iff_eq, decide_eq_true_eq] at hon
      obtain ⟨⟨hpos, hvl⟩, hon⟩ := hon
      exact written j ⟨hvl, hon⟩ (List.mem_range.1 hmem) hpos
    · next hnone =>
      refine kept fun j hj hs e => List.find?_eq_none.1 hnone j (List.mem_range.2 hs) ?_
      simp only [Bool.and_eq_true, beq_iff_eq, decide_eq_true_eq]
      exact ⟨⟨e, hj.1⟩, hj.2⟩
  exact ⟨fun hm hw => ⟨outer_doneOrTraps hd hm (exec_opa ..) hw, outer_doneOrTraps hd hm (exec_ops ..) hw⟩,
    (exec_azero ..).trans (plainH_ok s _ _ rfl), (exec_amov ..).trans (plainH_ok s _ _ rfl),
    fun hm hw hc => ⟨tileRead_writesV hd hm hw hc (exec_arow ..), tileRead_writesV hd hm hw hc (exec_acol ..), write hm hw hc (exec_awrow ..),
      write hm hw hc (exec_awcol ..)⟩⟩

end Sys2Proof.Machine
end

section
/-! Tile loads and stores (08 R190): the pieces of a tile's rows, its words as bytes, and what `ald` and `ast` leave. -/
namespace Sys2Proof.Machine

/-! ### Ranges cut into rows -/

/-- A range of k rows of n elements is its rows, one after another. -/
theorem range_map_rows {α : Type} (n k : Nat) (f : Nat → α) :
    (List.range (n * k)).map f = (List.range k).flatMap fun i => (List.range n).map fun j => f (n * i + j) := by
  induction k with
  | zero => rfl
  | succ k ih =>
    rw [Nat.mul_succ, List.range_add, List.map_append, ih, List.range_succ, List.flatMap_append, List.flatMap_singleton, List.map_map]
    rfl

theorem enumElts_map_range {α : Type} (n : Nat) (f : Nat → α) : enumElts ((List.range n).map f) = (List.range n).map fun i => (i, f i) := by
  refine List.ext_getElem (by simp [enumElts]) fun i hi _ => ?_
  simp [enumElts]

/-! ### Pieces in a hart's own scratchpad -/

section
variable (s : State) (w : Who) (cls : AccClass) (kind : AccKind) (perm : Perm)

theorem Belfry.joined_self (b : Belfry) (x : Nat) : b.joined x x = true := by
  unfold Belfry.joined
  rw [beq_self_eq_true]
  rfl

theorem State.farFrom_spad (p o n : Nat) : s.farFrom p (.spad p o) n = false := congrArg not (s.belfry.joined_self (dieOf p))

/-- A resident byte of the scratchpad is at home. -/
theorem State.home_spad (a : Nat) (ha : a < 0x200000) (hr : s.resident w.phys a w.ctx w.lsid = true) :
    s.home w .loc cls kind perm a = .ok (.spad w.phys a) := by
  have ha' : a < Config.spadBytes := ha
  unfold State.home State.spadLoc
  simp only [ha', hr, if_true]

/-- An access to resident bytes of the scratchpad reaches them in order, in one page or two. -/
theorem State.pieces_spad (a n : Nat) (hn : n ≤ 4096) (ha : a + n ≤ 0x200000)
    (hr : ∀ j, j < n → s.resident w.phys (a + j) w.ctx w.lsid = true) :
    ∃ ps, s.pieces w .loc cls kind perm a n = .ok ps
      ∧ ∀ rd, readPieces rd ps = (List.range n).map fun j => rd (.spad w.phys (a + j)) := by
  by_cases h0 : n = 0
  · subst h0
    exact ⟨[], rfl, fun _ => rfl⟩
  have target : oneTarget .loc a n = true := by
    have region (x : Nat) (hx : x < 0x200000) : locRegion x = 0 := if_pos hx
    unfold oneTarget
    rw [region a (by omega), Nat.mod_eq_of_lt (by omega), region _ (by omega), beq_self_eq_true]
  have home (j : Nat) (hj : j < n) := s.home_spad w cls kind perm (a + j) (by omega) (hr j hj)
  have first := home 0 (by omega)
  rw [Nat.add_zero] at first
  unfold State.pieces
  simp only [h0, if_false, target, Bool.not_true, Bool.false_eq_true, first, s.farFrom_spad, Bool.and_false]
  by_cases h1 : min n (4096 - a % 4096) = n
  · simp only [h1, if_true]
    refine ⟨_, rfl, fun rd => ?_⟩
    simp only [readPieces, List.flatMap_singleton]
    rfl
  · obtain ⟨k, hk⟩ : ∃ k, min n (4096 - a % 4096) = k := ⟨_, rfl⟩
    rw [hk] at h1
    have hlt : k < n := by omega
    simp only [hk, h1, if_false, Nat.mod_eq_of_lt (show a + k < 2 ^ 64 by omega), home k hlt, s.farFrom_spad, Bool.and_false,
      Bool.false_eq_true]
    refine ⟨_, rfl, fun rd => ?_⟩
    obtain ⟨l, rfl⟩ : ∃ l, n = k + l := ⟨n - k, by omega⟩
    rw [List.range_add, List.map_append, List.map_map, Nat.add_sub_cancel_left]
    simp only [readPieces, List.flatMap_cons, List.flatMap_nil, List.append_nil]
    refine congrArg _ (List.map_congr_left fun j _ => ?_)
    show rd (.spad w.phys (a + k + j)) = rd (.spad w.phys (a + (k + j)))
    rw [Nat.add_assoc]
end

/-! ### The rows of a tile -/

section
variable (s : State) (x : Nat) (kind : AccKind)

/-- Every byte of a tile at x is resident in the hart's own scratchpad. -/
def State.tileResident : Prop :=
  x + 4 * s.hart.side * s.hart.side ≤ 0x200000
    ∧ ∀ i, i < 4 * s.hart.side * s.hart.side → s.resident s.hart.phys (x + i) s.hart.id.ctx s.hart.lsid = true

theorem State.tileRows_resident (hr : s.tileResident x) (l : List Nat) (hl : ∀ i ∈ l, i < s.hart.side) :
    ∃ ps, s.tileRows x kind l = .ok ps ∧ ∀ rd, readPieces rd ps
      = l.flatMap fun i => (List.range (4 * s.hart.side)).map fun j => rd (.spad s.hart.phys (x + (4 * s.hart.side * i + j))) := by
  obtain ⟨hend, hres⟩ := hr
  induction l with
  | nil => exact ⟨[], rfl, fun _ => rfl⟩
  | cons i l ih =>
    obtain ⟨qs, hqs, hread⟩ := ih fun j hj => hl j (List.mem_cons_of_mem i hj)
    have hi := hl i List.mem_cons_self
    have hrow : 4 * s.hart.side * i + 4 * s.hart.side ≤ 4 * s.hart.side * s.hart.side := by
      rw [← Nat.mul_succ]
      exact Nat.mul_le_mul_left _ hi
    have hside := s.hart.side_le
    obtain ⟨ps, hps, hrd⟩ := s.pieces_spad s.hart.who (if kind = .load then .load else .store) kind (if kind = .load then permR else permW)
      (x + 4 * s.hart.side * i) (4 * s.hart.side) (by omega) (by omega) fun j hj => by
        rw [Nat.add_assoc]
        exact hres _ (by omega)
    refine ⟨ps ++ qs, ?_, fun rd => ?_⟩
    · simp only [State.tileRows, hps, hqs]
      rfl
    · have split : readPieces rd (ps ++ qs) = readPieces rd ps ++ readPieces rd qs := List.flatMap_append
      rw [split, hrd, hread, List.flatMap_cons]
      simp only [Nat.add_assoc]
      rfl

/-- The bytes of a whole tile, in order. -/
theorem State.tileRows_ok (hr : s.tileResident x) :
    ∃ ps, s.tileRows x kind (List.range s.hart.side) = .ok ps
      ∧ ∀ rd, readPieces rd ps = (List.range (4 * s.hart.side * s.hart.side)).map fun i => rd (.spad s.hart.phys (x + i)) := by
  obtain ⟨ps, hps, hrd⟩ := s.tileRows_resident x kind hr _ fun i hi => List.mem_range.1 hi
  exact ⟨ps, hps, fun rd => (hrd rd).trans (range_map_rows _ _ fun i => rd (.spad s.hart.phys (x + i))).symm⟩

theorem Hart.tileAddr_ok (h : Hart) (a : SReg) (kind : AccKind) (hb : h.bad a = false) (h64 : (h.s a).toNat % 64 = 0)
    (hend : (h.s a).toNat + 4 * h.side * h.side ≤ 0x200000) : h.tileAddr a kind = .ok (h.s a).toNat := by
  have hbad : ¬ ((h.s a).toNat % 64 ≠ 0 ∨ Config.spadBytes < (h.s a).toNat + 4 * h.side * h.side) := by
    have : Config.spadBytes = 0x200000 := rfl
    omega
  unfold Hart.tileAddr
  simp only [h.clean_ok a hb, hbad, if_false]
end

/-! ### Words of a tile -/

/-- Clean bytes, four to a word. -/
theorem wordElts_range (b : Nat → Byte × Bool) (k : Nat) (hb : ∀ i, i < 4 * k → (b i).2 = false) :
    wordElts ((List.range (4 * k)).map b)
      = (List.range k).map fun n => ⟨ofBytes ((List.range 4).map fun j => (b (4 * n + j)).1), false⟩ := by
  have words (l : List Nat) (hl : ∀ n ∈ l, n < k) : wordElts (l.flatMap fun n => (List.range 4).map fun j => b (4 * n + j))
      = l.map fun n => ⟨ofBytes ((List.range 4).map fun j => (b (4 * n + j)).1), false⟩ := by
    induction l with
    | nil => rfl
    | cons n l ih =>
      have hn := hl n List.mem_cons_self
      have clean (j : Nat) (hj : j < 4) : (b (4 * n + j)).2 = false := hb _ (by omega)
      rw [List.flatMap_cons, List.map_cons, ← ih fun i hi => hl i (List.mem_cons_of_mem n hi)]
      have four {α : Type} (f : Nat → α) : (List.range 4).map f = [f 0, f 1, f 2, f 3] := rfl
      simp only [four, List.cons_append, List.nil_append, wordElts, byteVal, List.map_cons, List.map_nil, List.any_cons, List.any_nil,
        clean 0 (by decide), clean 1 (by decide), clean 2 (by decide), clean 3 (by decide), Bool.or_false]
  rw [range_map_rows, words _ fun n hn => List.mem_range.1 hn]

/-- The store unit of clean element n of a tile at x. -/
def State.tileUnit (s : State) (x n : Nat) (e : Elt) : StoreUnit := ⟨.spad s.hart.phys (x + 4 * n), x + 4 * n, toBytes 4 e.val, false, false⟩

/-- The units of clean elements, one for each. -/
theorem tileUnits_clean (s : State) (x : Nat) (l : List (Nat × Elt)) (hl : ∀ y ∈ l, y.2.bad = false) :
    tileUnits s x l = (s, l.map fun y => s.tileUnit x y.1 y.2) := by
  induction l with
  | nil => rfl
  | cons y l ih =>
    obtain ⟨n, v, bad⟩ := y
    obtain rfl : bad = false := hl _ List.mem_cons_self
    have store : s.storeBytes 4 ⟨v, false⟩ = (s, toBytes 4 v) := rfl
    simp only [tileUnits, store, ih fun z hz => hl z (List.mem_cons_of_mem _ hz), List.map_cons, State.tileUnit]

/-! ### Loads and stores -/

section
variable {s : State} {d : AIdx} {a : SReg} (hb : s.hart.bad a = false) (h64 : (s.hart.s a).toNat % 64 = 0)
  (hr : s.tileResident (s.hart.s a).toNat)
include hb h64 hr

/-- A load of clean bytes writes the words that they form. -/
theorem execAld_clean (b : Nat → Byte × Bool) (hrd : ∀ i, s.ownByte s.hart (.spad s.hart.phys ((s.hart.s a).toNat + i)) = b i)
    (hc : ∀ i, i < 4 * s.hart.side * s.hart.side → (b i).2 = false) :
    execAld d a s = .next (s.goesOn { s.hart with regs := s.hart.regs.setA d ((s.hart.regs.a[d]).putElts
      ((List.range (s.hart.side * s.hart.side)).map fun n => ⟨ofBytes ((List.range 4).map fun j => (b (4 * n + j)).1), false⟩)) } 4) := by
  obtain ⟨ps, hps, hread⟩ := s.tileRows_ok (s.hart.s a).toNat .load hr
  have hbytes : readPieces (s.ownByte s.hart) ps = (List.range (4 * s.hart.side * s.hart.side)).map b := by
    rw [hread]
    exact List.map_congr_left fun i _ => hrd i
  have hclean : ((List.range (4 * s.hart.side * s.hart.side)).map b).any (·.2) = false := by
    rw [List.any_map, List.any_eq_false]
    intro i hi
    simp [hc i (List.mem_range.1 hi)]
  rw [Nat.mul_assoc] at hc
  refine plain_ok s { s with hart := { s.hart with regs := s.hart.regs.setA d _ } } _ ?_
  simp only [s.hart.tileAddr_ok a .load hb h64 hr.1, hps, hbytes, hclean, Bool.false_eq_true, if_false]
  rw [Nat.mul_assoc, wordElts_range b _ hc]

/-- A store of a clean tile enters the buffer, a unit for each element (log 37). -/
theorem execAst_clean (hcap : s.hart.charge + 4 * (s.hart.side * s.hart.side) ≤ s.hart.capacity)
    (hc : ∀ n, n < s.hart.side * s.hart.side → ((s.hart.regs.a[d]).elt n).bad = false) :
    execAst d a s = .next (s.goesOn { s.hart with
      charge := s.hart.charge + 4 * (s.hart.side * s.hart.side)
      buf := s.hart.buf ++ [.store ((List.range (s.hart.side * s.hart.side)).map fun n =>
        s.tileUnit (s.hart.s a).toNat n ((s.hart.regs.a[d]).elt n))] } 4) := by
  obtain ⟨ps, hps, -⟩ := s.tileRows_ok (s.hart.s a).toNat .store hr
  have hcap' : ¬ s.hart.capacity < s.hart.charge + 4 * (s.hart.side * s.hart.side) := Nat.not_lt.2 hcap
  have units : tileUnits s (s.hart.s a).toNat (((s.hart.regs.a[d]).elts (s.hart.side * s.hart.side)).zipIdx.map fun y => (y.2, y.1))
      = (s, (List.range (s.hart.side * s.hart.side)).map fun n => s.tileUnit (s.hart.s a).toNat n ((s.hart.regs.a[d]).elt n)) := by
    have numbered : ((s.hart.regs.a[d]).elts (s.hart.side * s.hart.side)).zipIdx.map (fun y => (y.2, y.1))
        = (List.range (s.hart.side * s.hart.side)).map fun n => (n, (s.hart.regs.a[d]).elt n) := enumElts_map_range _ _
    rw [numbered, tileUnits_clean _ _ _ (List.forall_mem_map.2 fun n hn => hc n (List.mem_range.1 hn)), List.map_map]
    rfl
  refine plain_ok s { s with hart := { s.hart with charge := _, buf := _ } } _ ?_
  simp only [s.hart.tileAddr_ok a .store hb h64 hr.1, hcap', hps, if_false, units, Hart.push]
  rfl
end

end Sys2Proof.Machine
end

section
/-! Rows of a tile written to an affine output stream in the scalar data memory (08 R193, 09 R199-R201). -/
namespace Sys2Proof.Machine

/-! ### The bytes of a store, draw by draw (log 10) -/

/-- The n bytes that a store writes for an element when draw d is the next. -/
def Elt.bytesAt (x : Elt) (n d : Nat) : List Byte := if x.bad then (List.range n).map (Config.poisonByte d) else toBytes n x.val

theorem Elt.bytesAt_stores (x : Elt) (n d : Nat) : x.stores n (x.bytesAt n d) := by
  obtain ⟨v, bad⟩ := x
  cases bad with
  | false => exact ⟨length_toBytes n v, fun _ => rfl⟩
  | true => exact ⟨by simp [Elt.bytesAt], fun h => Bool.noConfusion h⟩

/-- The bytes of an element of n bytes rest on its low 8 n bits. -/
theorem Elt.bytesAt_mod (x : Elt) (n d : Nat) : (⟨x.val % 2 ^ (8 * n), x.bad⟩ : Elt).bytesAt n d = x.bytesAt n d := by
  unfold Elt.bytesAt
  simp only [toBytes_mod]

theorem State.storeBytes_eq (s : State) (n : Nat) (x : Elt) : s.storeBytes n x = (s.withDraw (s.draw + b2n x.bad), x.bytesAt n s.draw) := by
  obtain ⟨v, bad⟩ := x
  cases bad <;> rfl

/-- The draws that the first k elements take: one for each that is poisoned. -/
def drawsOf (x : Nat → Elt) : Nat → Nat
  | 0 => 0
  | k + 1 => drawsOf x k + b2n (x k).bad

/-! ### One element in the scalar data memory -/

section
variable (s : State) (a n : Nat) (h0 : 0 < n) (hlo : 0x200000 ≤ a) (hhi : a + n ≤ 0x210000) (hpage : a % 4096 + n ≤ 4096)
include h0 hlo hhi hpage

/-- A store within a page of the scalar data memory has one piece. -/
theorem State.pieces_sdm (w : Who) (kind : AccKind) (perm : Perm) :
    s.pieces w .loc .store kind perm a n = .ok [⟨.sdm w.phys (a - 0x200000), a, n⟩] := by
  have target : oneTarget .loc a n = true := by
    have region (x : Nat) (hx : 0x200000 ≤ x ∧ x < 0x210000) : locRegion x = 1 := by
      unfold locRegion
      rw [if_neg (by omega), if_pos hx.2]
    unfold oneTarget
    rw [region a (by omega), Nat.mod_eq_of_lt (by omega), region _ (by omega), beq_self_eq_true]
  have home : s.home w .loc .store kind perm a = .ok (.sdm w.phys (a - 0x200000)) := by
    have hspad : ¬ a < Config.spadBytes := Nat.not_lt.2 hlo
    have hsdm : a < 0x210000 := by omega
    unfold State.home
    simp only [hspad, hsdm, if_false, or_true, and_self, if_true]
  have h0' : n ≠ 0 := by omega
  unfold State.pieces
  simp only [h0', if_false, target, Bool.not_true, Bool.false_eq_true, home, Nat.min_eq_left (show n ≤ 4096 - a % 4096 by omega), if_true]
  rfl

theorem State.storeUnits_sdm (d elem : Nat) (x : Elt) : (s.withDraw d).storeUnits .loc a n elem .store x
    = .ok (s.withDraw (d + b2n x.bad), [⟨.sdm s.hart.phys (a - 0x200000), a, x.bytesAt n d, x.bad, false⟩]) := by
  have take : (x.bytesAt n d).take n = x.bytesAt n d := List.take_of_length_le (Nat.le_of_eq (x.bytesAt_stores n d).1)
  unfold State.storeUnits
  rw [(s.withDraw d).pieces_sdm a n h0 hlo hhi hpage]
  simp only [State.storeBytes_eq]
  exact congrArg (fun bs => Except.ok (s.withDraw (d + b2n x.bad), [StoreUnit.mk (.sdm s.hart.phys (a - 0x200000)) a bs x.bad false])) take
end

/-! ### A row -/

/-- Address of the element k places after the next one of an affine stream (09 R201). -/
def Stream.eaAt (q : Stream) (k : Nat) : Nat := q.ea (q.n.toNat + k) (q.i3 (q.n.toNat + k) * q.str 3)

/-- The stream k elements on. -/
def Stream.wrote (q : Stream) (k : Nat) : Stream := { q with n := q.n + BitVec.ofNat 64 k }

/-- An affine stream of elements of w bits that takes k more, each within a page of the scalar data memory. -/
structure Stream.takes (q : Stream) (w k : Nat) : Prop where
  affine : q.kind = kAffine
  going : q.done = false
  loc : q.sp = .loc
  width : q.width = w
  room : q.n.toNat + k < min q.total (2 ^ 64)
  reach : ∀ j, j < k → 0x200000 ≤ q.eaAt j ∧ q.eaAt j + w / 8 ≤ 0x210000 ∧ q.eaAt j % 4096 + w / 8 ≤ 4096

/-- The store unit of element k of those that a stream takes on Spire p, when draw d is the next at the first of them. -/
def Stream.unitAt (q : Stream) (p n d : Nat) (x : Nat → Elt) (k : Nat) : StoreUnit :=
  ⟨.sdm p (q.eaAt k - 0x200000), q.eaAt k, (x k).bytesAt n (d + drawsOf x k), (x k).bad, false⟩

section
variable {q : Stream} {w total : Nat} (hq : q.takes w total) (hw : 8 ∣ w ∧ 0 < w) (x : Nat → Elt)
include hq

theorem Stream.takes.n_wrote {k : Nat} (hk : k ≤ total) : (q.wrote k).n.toNat = q.n.toNat + k := by
  have := hq.room
  unfold Stream.wrote
  rw [BitVec.toNat_add, BitVec.toNat_ofNat]
  omega

include hw

/-- The units of elements i to i + k - 1 of the row that begins b elements on, which register r holds. -/
theorem Stream.takes.patternUnits (s : State) (r : VReg) (b d k i : Nat) (hk : b + i + k ≤ total)
    (hr : ∀ j, i ≤ j → j < i + k → r.elt w j = ⟨(x (b + j)).val % 2 ^ w, (x (b + j)).bad⟩) :
    (s.withDraw (d + drawsOf x (b + i))).patternUnits (q.wrote b) r 1 (q.n.toNat + b) k i
      = .ok (s.withDraw (d + drawsOf x (b + i + k)), (List.range' i k).map fun j => q.unitAt s.hart.phys (w / 8) d x (b + j)) := by
  induction k generalizing i with
  | zero => rfl
  | succ k ih =>
    obtain ⟨hlo, hhi, hpage⟩ := hq.reach (b + i) (by omega)
    have hw8 : 8 * (w / 8) = w := Nat.mul_div_cancel' hw.1
    have ea (t : State) (e : Nat) : t.patternEa (q.wrote b) (q.n.toNat + b + i) e = .ok (t, q.eaAt (b + i)) := by
      have hkind : ¬ (q.wrote b).kind = kIndirect := by
        show ¬ q.kind = kIndirect
        rw [hq.affine]
        decide
      unfold State.patternEa
      simp only [hkind, if_false]
      rw [Nat.add_assoc]
      rfl
    have hwidth : (q.wrote b).width = w := hq.width
    have hsp : (q.wrote b).sp = .loc := hq.loc
    have unit := s.storeUnits_sdm (q.eaAt (b + i)) (w / 8) (by omega) hlo hhi hpage (d + drawsOf x (b + i)) (1 * i)
      ⟨(x (b + i)).val % 2 ^ w, (x (b + i)).bad⟩
    have bytes := (x (b + i)).bytesAt_mod (w / 8) (d + drawsOf x (b + i))
    rw [hw8] at bytes
    rw [bytes] at unit
    have next := ih (i + 1) (by omega) fun j hj hj' => hr j (by omega) (by omega)
    unfold State.patternUnits
    simp only [ea, hwidth, hsp, hr i (Nat.le_refl i) (by omega), unit]
    have draws : d + drawsOf x (b + i) + b2n (x (b + i)).bad = d + drawsOf x (b + (i + 1)) := Nat.add_assoc ..
    rw [draws, next, List.range'_succ, List.map_cons, show b + (i + 1) + k = b + i + (k + 1) by omega]
    rfl
end

/-- The elements of a row of n, b elements on, as a register holds them. -/
def rowReg (w n : Nat) (x : Nat → Elt) (b : Nat) : VReg := VReg.zero.setElts w (enumElts ((List.range n).map fun j => x (b + j)))

theorem elt_rowReg {w n : Nat} (hw : 8 ∣ w ∧ 0 < w) (hn : w * n ≤ 16384) (x : Nat → Elt) (b j : Nat) (hj : j < n) :
    (rowReg w n x b).elt w j = ⟨(x (b + j)).val % 2 ^ w, (x (b + j)).bad⟩ := by
  have fits : w * j + w ≤ 16384 := by
    rw [← Nat.mul_succ]
    exact (Nat.mul_le_mul_left w hj).trans hn
  unfold rowReg
  rw [enumElts_map_range]
  obtain ⟨-, -, written, -⟩ := VReg.setElts_writtenAs VReg.zero w (List.range n) (fun j => x (b + j)) (· < n) hw.1 hw.2 fun i =>
    List.mem_range.symm
  exact written j fits hj

/-! ### The rows of a tile -/

/-- Entry of the strip buffer for row i of n elements: its units, those in one aligned word joined. -/
def Stream.rowEntry (q : Stream) (p n : Nat) (w d : Nat) (x : Nat → Elt) (i : Nat) : BufEntry :=
  .store (joinWords ((List.range n).map fun j => q.unitAt p (w / 8) d x (n * i + j)))

/-- The state once i rows of n elements of w bits have entered the strip buffer through stream register d. -/
def State.afterRows (s : State) (d : QIdx) (w n : Nat) (x : Nat → Elt) (i : Nat) : State :=
  { s.withDraw (s.draw + drawsOf x (n * i)) with hart := { s.hart with
      charge := s.hart.charge + i * vecCharge n w
      buf := s.hart.buf ++ (List.range i).map fun i => (s.hart.regs.q[d]).rowEntry s.hart.phys n w s.draw x i
      regs := s.hart.regs.setQ d ((s.hart.regs.q[d]).wrote (n * i)) } }

theorem Regs.q_setQ_same (x : Regs) (d : QIdx) (q : Stream) : (x.setQ d q).q[d] = q := Vector.getElem_set_self _

theorem Regs.setQ_setQ (x : Regs) (d : QIdx) (q q' : Stream) : (x.setQ d q).setQ d q' = x.setQ d q' := by
  unfold Regs.setQ
  simp

theorem Regs.setQ_self (x : Regs) (d : QIdx) : x.setQ d x.q[d] = x := by
  unfold Regs.setQ
  rw [show x.q.set d x.q[d] = x.q from Vector.set_getElem_self _]

theorem State.afterRows_zero (s : State) (d : QIdx) (w n : Nat) (x : Nat → Elt) : s.afterRows d w n x 0 = s := by
  have stays : (s.hart.regs.q[d]).wrote 0 = s.hart.regs.q[d] := by
    unfold Stream.wrote
    rw [show BitVec.ofNat 64 0 = 0#64 from rfl, BitVec.add_zero]
  unfold State.afterRows
  rw [Nat.mul_zero, stays, Regs.setQ_self, Nat.zero_mul, List.range_zero, List.map_nil, List.append_nil]
  rfl

/-- A row of n elements that its stream takes enters the strip buffer with its units (09 R199). -/
theorem emitPattern_ok {s t : State} {i : QIdx} {q : Stream} {r : VReg} {n : Nat} {us : List StoreUnit} (hgoing : q.done = false)
    (h4 : q.width ≠ 4) (hroom : q.n.toNat + n < q.total) (hc : s.hart.charge + vecCharge n q.width ≤ s.hart.capacity)
    (hu : s.patternUnits q r 1 q.n.toNat n 0 = .ok (t, us)) (ht : t.hart = s.hart) :
    emitPattern s i q r n = .ok { t with hart := { s.hart with
      charge := s.hart.charge + vecCharge n q.width, buf := s.hart.buf ++ [.store (joinWords us)], regs := s.hart.regs.setQ i (q.wrote n) } } := by
  have fits : ¬ s.hart.capacity < s.hart.charge + vecCharge n q.width := Nat.not_lt.2 hc
  have count : (if q.done then 0 else min n (q.total - q.n.toNat)) = n := by
    rw [hgoing, if_neg Bool.false_ne_true]
    omega
  have going : (q.done || decide (q.total ≤ q.n.toNat + n)) = q.done := by
    rw [decide_eq_false (show ¬ q.total ≤ q.n.toNat + n by omega), Bool.or_false]
  have moved : BitVec.ofNat 64 (q.n.toNat + n) = q.n + BitVec.ofNat 64 n := by
    rw [BitVec.ofNat_add, BitVec.ofNat_toNat, BitVec.setWidth_eq]
  unfold emitPattern
  simp only [beq_eq_false_iff_ne.2 h4, Bool.false_eq_true, if_false, fits, count, hu, Hart.push, ht, going, moved]
  rfl

section
variable {s : State} {d : QIdx} {w n total : Nat} (hq : (s.hart.regs.q[d]).takes w total) (hw : 8 ∣ w ∧ 0 < w) (hn : w * n ≤ 16384)
  (x : Nat → Elt) {i : Nat}
include hq hw hn

/-- The next row of a tile (08 R193). -/
theorem emitPattern_row (hi : n * (i + 1) ≤ total) (hc : s.hart.charge + (i + 1) * vecCharge n w ≤ s.hart.capacity) :
    emitPattern (s.afterRows d w n x i) d ((s.hart.regs.q[d]).wrote (n * i)) (rowReg w n x (n * i)) n = .ok (s.afterRows d w n x (i + 1)) := by
  rw [Nat.mul_succ] at hi
  have charge : s.hart.charge + i * vecCharge n w + vecCharge n w = s.hart.charge + (i + 1) * vecCharge n w := by
    rw [Nat.succ_mul, Nat.add_assoc]
  have hroom := hq.room
  have hpos := hq.n_wrote (k := n * i) (by omega)
  have hwidth : ((s.hart.regs.q[d]).wrote (n * i)).width = w := hq.width
  have units := hq.patternUnits hw x (s.afterRows d w n x i) (rowReg w n x (n * i)) (n * i) s.draw n 0 (by omega)
    fun j _ hj => elt_rowReg hw hn x (n * i) j (by omega)
  rw [← hpos, ← List.range_eq_range'] at units
  have wrote (q : Stream) : (q.wrote (n * i)).wrote n = q.wrote (n * (i + 1)) := by
    unfold Stream.wrote
    rw [Nat.mul_succ, BitVec.ofNat_add, ← BitVec.add_assoc]
  have htotal : ((s.hart.regs.q[d]).wrote (n * i)).total = (s.hart.regs.q[d]).total := rfl
  rw [emitPattern_ok (s := s.afterRows d w n x i) (q := (s.hart.regs.q[d]).wrote (n * i)) hq.going (by rw [hwidth]; omega)
    (by rw [hpos, htotal]; omega) (by rw [hwidth]; exact charge ▸ hc) units rfl, hwidth]
  unfold State.afterRows
  simp only [Regs.setQ_setQ, wrote, ← charge, List.range_succ, List.map_append, ← List.append_assoc]
  rfl

/-- The rows of a tile enter the strip buffer in rising order (08 R193). -/
theorem epiRows_emits (side : Nat) (hside : n * side ≤ total) (hc : s.hart.charge + side * vecCharge n w ≤ s.hart.capacity) (k : Nat) :
    ∀ i, i + k = side → epiRows d n w ((List.range' i k).map fun i => (List.range n).map fun j => x (n * i + j)) (s.afterRows d w n x i)
      = .ok (s.afterRows d w n x side) := by
  induction k with
  | zero =>
    rintro i rfl
    rfl
  | succ k ih =>
    intro i hi
    have stream : (s.afterRows d w n x i).hart.regs.q[d] = (s.hart.regs.q[d]).wrote (n * i) := Regs.q_setQ_same ..
    have port : ¬ ((s.hart.regs.q[d]).wrote (n * i)).kind = kPortOut := by
      show ¬ (s.hart.regs.q[d]).kind = kPortOut
      rw [hq.affine]
      decide
    have row := emitPattern_row hq hw hn x (i := i) ((Nat.mul_le_mul_left n (by omega)).trans hside)
      ((Nat.add_le_add_left (Nat.mul_le_mul_right _ (by omega)) _).trans hc)
    rw [List.range'_succ, List.map_cons, epiRows]
    simp only [stream, port, if_false]
    have reg : VReg.zero.setElts w (enumElts ((List.range n).map fun j => x (n * i + j))) = rowReg w n x (n * i) := rfl
    rw [reg, row]
    exact ih (i + 1) (by omega)
end

end Sys2Proof.Machine
end

section
/-! Tile loads and stores, and the epilogue into an affine stream (08 R190-R194). -/
namespace Sys2Proof.Machine

/-! ### The epilogue (08 R192, R193) -/

/-- A range of k rows of n elements, cut into its rows. -/
theorem chunks_range {α : Type} (n k : Nat) (h0 : 0 < n) (f : Nat → α) :
    chunks n k ((List.range (n * k)).map f) = (List.range k).map fun i => (List.range n).map fun j => f (n * i + j) := by
  have next (k : Nat) (l : List α) (hl : l ≠ []) : chunks n (k + 1) l = l.take n :: chunks n k (l.drop n) := by
    cases l with
    | nil => exact absurd rfl hl
    | cons x l => rfl
  induction k generalizing f with
  | zero => rfl
  | succ k ih =>
    have split : (List.range (n * (k + 1))).map f = (List.range n).map f ++ (List.range (n * k)).map fun i => f (n + i) := by
      rw [Nat.mul_succ, Nat.add_comm, List.range_add, List.map_append, List.map_map]
      rfl
    have hlen : ((List.range n).map f).length = n := by rw [List.length_map, List.length_range]
    rw [split, next _ _ (List.append_ne_nil_of_left_ne_nil (List.ne_nil_of_length_pos (hlen.symm ▸ h0)) _), List.take_left' hlen,
      List.drop_left' hlen, ih, List.range_succ_eq_map, List.map_cons, List.map_map]
    refine congrArg₂ List.cons (by simp) (List.map_congr_left fun i _ => List.map_congr_left fun j _ => congrArg f ?_)
    rw [Nat.succ_eq_add_one, Nat.mul_succ]
    omega

/-- Element k of the epilogue's output, with its flags. -/
def Hart.epilogueOf (h : Hart) (out : AepiOut) (i32 : Bool) (a : AIdx) (b : SReg) (k : Nat) : Elt × FlagSet :=
  let z := epiElt h out i32 ((h.s b).toNat % 2 ^ 32) h.rnd ((h.regs.a[a]).elt k).val
  (⟨z.1, ((h.regs.a[a]).elt k).bad⟩, z.2)

/-- The flags of the epilogue's elements in order: none of a poisoned one (02 R52). -/
def Hart.epilogueFlags (h : Hart) (out : AepiOut) (i32 : Bool) (a : AIdx) (b : SReg) : List (Nat × FlagSet) :=
  (List.range (h.side * h.side)).map fun k =>
    (k, if (h.epilogueOf out i32 a b k).1.bad then 0 else (h.epilogueOf out i32 a b k).2)

/-- The hart with tile a cleared under a condition. -/
def Hart.clearedIf (h : Hart) (a : AIdx) (c : Bool) : Hart :=
  { h with regs := { h.regs with a := if c then h.regs.a.set a Tile.zero else h.regs.a } }

theorem Hart.clearedIf_eq (h : Hart) (a : AIdx) (c : Bool) :
    h.clearedIf a c = if c then { h with regs := h.regs.setA a Tile.zero } else h := by
  cases c <;> rfl

theorem bitAt_toNat {n : Nat} (x : BitVec n) (i : Nat) : bitAt x.toNat i = x.getLsbD i := by
  unfold bitAt BitVec.getLsbD
  rw [Nat.testBit_eq_decide_div_mod_eq]
  rfl

theorem epiWidth (out : AepiOut) : (8 ∣ fmtWidth (epiFormat out) ∧ 0 < fmtWidth (epiFormat out)) ∧ fmtWidth (epiFormat out) ≤ 32 := by
  cases out <;> decide

/-- The conditions under which the epilogue of a hart reaches its rows: an affine output stream of its format, the scale clean, no
stochastic rounding, and room for the charge (08 R191-R193). -/
structure Hart.epilogueReady (h : Hart) (out : AepiOut) (d : QIdx) (b : SReg) : Prop where
  rounding : h.regs.h.rmode ≠ 4#3
  scale : h.bad b = false
  affine : (h.regs.q[d]).kind = 1#4
  output : (h.regs.q[d]).dir = true
  complete : (h.regs.q[d]).complete = true
  format : (h.regs.q[d]).fmt = BitVec.ofNat 5 (epiFormat out).code
  capacity : h.charge + h.side * vecCharge h.side (fmtWidth (epiFormat out)) ≤ h.capacity

section
variable {out : AepiOut} {i32 : Bool} {d : QIdx} {a : AIdx} {b : SReg} {s : State}

theorem Stream.format_epilogue {q : Stream} (hf : q.fmt = BitVec.ofNat 5 (epiFormat out).code) :
    Format.ofCode q.fmt.toNat = some (epiFormat out) := by
  rw [hf]
  cases out <;> rfl

/-- The epilogue raises the flags of its elements, clears the tile where bit 32 of s_b says so, and emits its rows. -/
theorem execAepi_rows (hr : s.hart.epilogueReady out d b) :
    ∃ f, execAepi out i32 d a b s = plain s f ∧ f s = (s.hart.raiseAll (s.hart.epilogueFlags out i32 a b)).bind fun h =>
      epiRows d s.hart.side (fmtWidth (epiFormat out))
        ((List.range s.hart.side).map fun i => (List.range s.hart.side).map fun j => (s.hart.epilogueOf out i32 a b (s.hart.side * i + j)).1)
        { s with hart := h.clearedIf a ((s.hart.s b).getLsbD 32) } := by
  refine ⟨_, rfl, ?_⟩
  have hfmt := Stream.format_epilogue hr.format
  have hkind : (s.hart.regs.q[d]).kind = kAffine := hr.affine
  have hsto : s.hart.stochastic = false := beq_eq_false_iff_ne.2 hr.rounding
  have hcap : ¬ s.hart.capacity < s.hart.charge + s.hart.side * vecCharge s.hart.side (fmtWidth (epiFormat out)) := Nat.not_lt.2 hr.capacity
  have flags : flagsOf ((List.range (s.hart.side * s.hart.side)).map fun k => (k, s.hart.epilogueOf out i32 a b k))
      = s.hart.epilogueFlags out i32 a b := by
    unfold flagsOf
    rw [List.map_map]
    rfl
  rw [← flags, ← chunks_range _ _ s.hart.side_pos fun k => (s.hart.epilogueOf out i32 a b k).1]
  simp only [hkind, hr.output, hr.complete, hfmt, beq_self_eq_true, Bool.true_or, Bool.true_and, Bool.or_true, Bool.not_true,
    bne_self_eq_false, Bool.or_self, Bool.false_eq_true, s.hart.clean_ok b hr.scale, hcap, hsto, if_false, Bool.false_and, withDraws_off,
    List.map_map, Function.comp_def, Hart.epilogueOf]
  generalize s.hart.raiseAll (flagsOf _) = raised
  cases raised with
  | error e => rfl
  | ok h =>
    simp only [bitAt_toNat, ← h.clearedIf_eq]
    rfl

/-- The hart with the flags of the epilogue set, and its tile cleared where bit 32 of s_b says so. -/
def Hart.epilogued (h : Hart) (out : AepiOut) (i32 : Bool) (a : AIdx) (b : SReg) : Hart :=
  (h.orFlags (anyFlag ((h.epilogueFlags out i32 a b).map (·.2)))).clearedIf a ((h.s b).getLsbD 32)

/-- The state once the epilogue has written the rows of its tile. -/
def State.afterEpilogue (s : State) (out : AepiOut) (i32 : Bool) (d : QIdx) (a : AIdx) (b : SReg) : State :=
  State.afterRows { s with hart := s.hart.epilogued out i32 a b } d (fmtWidth (epiFormat out)) s.hart.side
    (fun k => (s.hart.epilogueOf out i32 a b k).1) s.hart.side

/-- The epilogue leaves the memories and the other harts as they are: its rows stand in the strip buffer (08 R193). -/
theorem State.afterEpilogue_frame (h : Hart) (n : Nat) : let t := (s.afterEpilogue out i32 d a b).goesOn h n
    t.dev = s.dev ∧ t.host = s.host ∧ t.spad = s.spad ∧ t.sdm = s.sdm ∧ t.others = s.others := by
  unfold State.afterEpilogue State.afterRows State.withDraw
  simp only [State.goesOn_dev, State.goesOn_host, State.goesOn_spad, State.goesOn_sdm, State.goesOn_others, and_self]

/-- The epilogue writes the rows of its tile, or traps on the lowest element that raises an enabled flag. -/
theorem aepi_doneOrTraps (hr : s.hart.epilogueReady out d b)
    (hq : (s.hart.regs.q[d]).takes (fmtWidth (epiFormat out)) (s.hart.side * s.hart.side)) :
    let t := s.afterEpilogue out i32 d a b
    s.doneOrTraps (.aepi out i32 d a b) (s.hart.epilogueFlags out i32 a b) (exec (.aepi out i32 d a b) s = .next (t.goesOn t.hart 4)) := by
  intro t
  obtain ⟨f, e, hf⟩ := execAepi_rows (i32 := i32) (a := a) hr
  refine ⟨fun quiet => ?_, fun x hx => ?_⟩
  · obtain ⟨hw, h32⟩ := epiWidth out
    have fits : fmtWidth (epiFormat out) * s.hart.side ≤ 16384 := (Nat.mul_le_mul h32 s.hart.side_le).trans (by decide)
    have rows := epiRows_emits (s := { s with hart := s.hart.epilogued out i32 a b }) hq hw fits
      (fun k => (s.hart.epilogueOf out i32 a b k).1) s.hart.side (Nat.le_refl _) hr.capacity s.hart.side 0 (Nat.zero_add _)
    rw [State.afterRows_zero, ← List.range_eq_range'] at rows
    refine ((exec_aepi ..).trans e).trans (plain_ok s t f ?_)
    rw [hf, s.hart.raiseAll_quiet _ quiet]
    exact rows
  · refine ((exec_aepi ..).trans e).trans (plain_error f _ ?_)
    rw [hf, Hart.raiseAll_first _ _ x hx]
    rfl
end

/-- Settles O48: a tile's bytes by its rows, the epilogue by the rows that enter the strip buffer one after another. -/
theorem tileStoresComplete : Obligations.TileStoresComplete := by
  unfold Obligations.TileStoresComplete
  constructor
  · intro d a s h side x word byte hb h64 hend hres
    have hr : s.tileResident x := ⟨hend, hres⟩
    refine ⟨fun hc => ⟨_, (exec_ald ..).trans (execAld_clean hb h64 hr byte (fun _ => rfl) hc), fun n hn => ?_, fun n hn h4 => ?_⟩,
      fun hcap hc => (exec_ast ..).trans (execAst_clean hb h64 hr hcap hc)⟩
    · have hlt : ofBytes ((List.range 4).map fun j => (byte (4 * n + j)).1) < 2 ^ 32 :=
        (ofBytes_lt _).trans_le (by rw [List.length_map, List.length_range]; decide)
      refine (Tile.elt_putElts h.regs.a[d] _ n _ (Nat.lt_of_lt_of_le hn h.side_square_le)
        (by rw [List.getElem?_map, List.getElem?_range (show n < h.side * h.side from hn)]; rfl)).trans ?_
      exact congrArg (Elt.mk · false) (Nat.mod_eq_of_lt hlt)
    · exact Tile.elt_putElts_past _ _ n h4 (by rw [List.length_map, List.length_range]; exact hn)
  · intro out i32 d a b s h q side w charge hexact hscale hkind hdir hcomplete hgoing hfmt hspace hroom hcap ea elt y fl hreach
    have hr : h.epilogueReady out d b := ⟨hexact, hscale, hkind, hdir, hcomplete, hfmt, hcap⟩
    have hq : q.takes w (side * side) := by
      refine ⟨hkind, hgoing, ?_, ?_, hroom, hreach⟩
      · unfold Stream.sp
        rw [hspace]
        rfl
      · have plain : q.indexed = false := by
          unfold Stream.indexed
          rw [hkind]
          rfl
        unfold Stream.width Stream.format
        rw [plain, Stream.format_epilogue hfmt]
        rfl
    have flags : anyFlag ((h.epilogueFlags out i32 a b).map (·.2)) = fl := by
      unfold Hart.epilogueFlags
      rw [List.map_map]
      exact anyFlag_ite_zero (List.range (side * side)) (fun k => (elt k).bad) fun k => (y k).2
    let elements := fun (k : Nat) => (h.epilogueOf out i32 a b k).1
    let t := s.afterEpilogue out i32 d a b
    have hregs : t.hart.regs.h = { h.regs.h with fflags := h.regs.h.fflags ||| (fl &&& 0x00FF#16) } := by
      rw [← flags]
      rfl
    exact State.doneOrTraps_imp (fun done => ⟨t.goesOn t.hart 4, fun k => (elements k).bytesAt (w / 8) (s.draw + drawsOf elements k), done,
      rfl, rfl, rfl, fun k _ => (elements k).bytesAt_stores (w / 8) _, rfl, rfl, hregs, rfl, rfl, rfl, s.afterEpilogue_frame t.hart 4⟩)
      (aepi_doneOrTraps (i32 := i32) (a := a) hr hq)

end Sys2Proof.Machine
end

section
/-! What a canonical memory holds (10 R249, 00 R5; log 3): it is determined by its bytes, and a little-endian number that is written is
read back; package reset leaves every memory canonical (00 R8). -/
namespace Sys2Proof.Machine

/-! ### A canonical memory is determined by its bytes -/

theorem lookupKey_of_mem {α : Type} {l : List (Nat × α)} (h : (l.map (·.1)).Pairwise (· < ·)) {k : Nat} {v : α} (hm : (k, v) ∈ l) :
    lookupKey k l = some v := by
  induction l with
  | nil => cases hm
  | cons c l ih =>
    simp only [List.map_cons, List.pairwise_cons] at h
    rcases List.mem_cons.1 hm with rfl | hm
    · exact if_pos rfl
    · exact (if_neg (Nat.ne_of_lt (h.1 k (List.mem_map_of_mem hm)))).trans (ih h.2 hm)

theorem mem_of_lookupKey {α : Type} {l : List (Nat × α)} {k : Nat} {v : α} (h : lookupKey k l = some v) : (k, v) ∈ l := by
  induction l with
  | nil => cases h
  | cons c l ih =>
    unfold lookupKey at h
    split at h
    · next hk => cases h; exact hk ▸ List.mem_cons_self
    · exact List.mem_cons_of_mem _ (ih h)

/-- The cells of a canonical memory are its bytes that are not 0. -/
theorem Mem.mem_cells {m : Mem} (h : m.wf = true) (a : Nat) (x : Byte) : (a, x) ∈ m.cells ↔ m.get a = x ∧ x ≠ 0 := by
  obtain ⟨sorted, nonzero, -⟩ := m.wf_iff.1 h
  constructor
  · intro hm
    refine ⟨?_, nonzero _ hm⟩
    unfold Mem.get
    rw [lookupKey_of_mem sorted hm]
    rfl
  · rintro ⟨rfl, hx⟩
    unfold Mem.get at hx ⊢
    cases hl : lookupKey a m.cells with
    | none => rw [hl] at hx; exact absurd rfl hx
    | some x => exact mem_of_lookupKey hl

theorem Mem.cells_ext {m n : Mem} (hm : m.wf = true) (hn : n.wf = true) (h : ∀ a, m.get a = n.get a) : m.cells = n.cells := by
  have sorted {m : Mem} (h : m.wf = true) : m.cells.Pairwise (fun c d => c.1 < d.1) := List.pairwise_map.1 (m.wf_iff.1 h).1
  have : Std.Irrefl (fun c d : Host.Cell => c.1 < d.1) := ⟨fun c => Nat.lt_irrefl c.1⟩
  have : Std.Antisymm (fun c d : Host.Cell => c.1 < d.1) := ⟨fun c d h k => absurd h (Nat.lt_asymm k)⟩
  refine List.Pairwise.eq_of_mem_iff (sorted hm) (sorted hn) fun c => ?_
  rw [Mem.mem_cells hm, Mem.mem_cells hn, h]

/-! ### Little-endian numbers -/

theorem ofBytes_toBytes (n v : Nat) : ofBytes (toBytes n v) = v % 256 ^ n := by
  induction n generalizing v with
  | zero => exact (Nat.mod_one v).symm
  | succ n ih =>
    rw [toBytes, ofBytes, ih, BitVec.toNat_ofNat, pow_succ' 256 n, Nat.mod_mul]

/-- The bytes of a range are those of a list when each of its addresses reads as the list does. -/
theorem Mem.getBytes_eq {m : Mem} {a : Nat} {bs : List Byte} (h : ∀ i (hi : i < bs.length), m.get (a + i) = bs[i]) :
    m.getBytes a bs.length = bs := by
  induction bs generalizing a with
  | nil => rfl
  | cons b bs ih =>
    refine congrArg₂ List.cons (h 0 (Nat.succ_pos _)) (ih fun i hi => ?_)
    rw [Nat.add_assoc, Nat.add_comm 1]
    exact h (i + 1) (Nat.succ_lt_succ hi)

theorem Mem.getN_setN {m : Mem} (h : m.wf = true) (a n v : Nat) : (m.setN a n v).getN a n = v % 256 ^ n := by
  have bytes : (m.setN a n v).getBytes a n = toBytes n v := by
    have read := Mem.getBytes_eq (m := m.setN a n v) (a := a) (bs := toBytes n v) fun i hi => by
      unfold Mem.setN
      rw [Mem.get_setBytes _ _ _ _ h, if_pos (by omega), Nat.add_sub_cancel_left, List.getElem?_eq_getElem hi]
      rfl
    rwa [length_toBytes] at read
  unfold Mem.getN
  rw [bytes, ofBytes_toBytes]

/-! ### Package reset -/

theorem State.reset_memOk : State.reset.memOk := ⟨Mem.empty_wf, Mem.empty_wf, Mem.empty_wf, Mem.empty_wf⟩

/-- Settles O7: no memory lists anything. -/
theorem resetMemoryCanonical : Obligations.ResetMemoryCanonical := State.reset_memOk

/-- Settles O9: reads by the cells of the canonical form, poison by the words that a store touches or covers. -/
theorem memoryContents : Obligations.MemoryContents := by
  unfold Obligations.MemoryContents
  exact ⟨⟨fun m a b x h => m.get_set a b x h, fun m a b bs p h => m.get_store a b bs p h, fun _ _ hm hn h => Mem.cells_ext hm hn h,
      fun _ a n v h => Mem.getN_setN h a n v⟩,
    fun m a b bs hb => ⟨m.isBad_store_poisoned a b bs hb, m.isBad_store_clean a b bs⟩⟩

end Sys2Proof.Machine
end

section
/-! What a computation answers with keeps the canonical form of the memories (10 R249): the shapes from which the steps are made, the
accesses of a hart, its streams, and the ends of a meaning. -/
namespace Sys2Proof.Machine

/-! ### Properties of an answer -/

/-- P holds of what a computation answers with, when it does not stop. -/
def yields {ε α : Type} (P : α → Prop) : Except ε α → Prop
  | .ok a => P a
  | .error _ => True

section
variable {ε ε' α β : Type} {P : α → Prop} {Q : β → Prop}

theorem yields_of {r : Except ε α} (h : ∀ a, r = .ok a → P a) : yields P r := by
  cases r with
  | ok a => exact h a rfl
  | error => trivial

theorem yields.of_ok {r : Except ε α} {a : α} (h : yields P r) (e : r = .ok a) : P a := by
  subst e
  exact h

theorem yields.fst_ok {r : Except ε (State × α)} {t : State} {a : α} (h : yields (·.1.memOk) r) (e : r = .ok (t, a)) : t.memOk :=
  h.of_ok e

theorem yields.bind {r : Except ε α} {f : α → Except ε β} (h : yields P r) (hf : ∀ a, P a → yields Q (f a)) : yields Q (r.bind f) := by
  cases r with
  | ok a => exact hf a h
  | error => trivial

theorem yields.map {r : Except ε α} {f : α → β} (h : yields P r) (hf : ∀ a, P a → Q (f a)) : yields Q (r.map f) := by
  cases r with
  | ok a => exact hf a h
  | error => trivial

theorem yields.mapError {r : Except ε α} {f : ε → ε'} (h : yields P r) : yields P (r.mapError f) := by
  cases r with
  | ok a => exact h
  | error => trivial

/-- A result that no property is asked of. -/
theorem yields_true (r : Except ε α) : yields (fun _ => True) r := yields_of fun _ _ => trivial

/-- Steps made one after another, up to one that stops. -/
theorem yields_foldl {f : α → β → Except ε α} (hf : ∀ a b, P a → yields P (f a b)) (l : List β) {r : Except ε α} (h : yields P r) :
    yields P (l.foldl (fun r b => r.bind fun a => f a b) r) :=
  List.foldlRecOn (motive := yields P) l _ h fun _ hr b _ => hr.bind fun a ha => hf a b ha
end

/-- The memories of the state that a step goes on with are canonical. -/
def nextMemOk : Out → Prop
  | .next t => t.memOk
  | _ => True

theorem nextMemOk_of {o : Out} (h : ∀ t, o = .next t → t.memOk) : nextMemOk o := by
  cases o with
  | next t => exact h t rfl
  | fault => trivial
  | refused => trivial

theorem nextMemOk.of_next {o : Out} {t : State} (h : nextMemOk o) (e : o = .next t) : t.memOk := by
  subst e
  exact h

/-! ### Accesses of a hart -/

section
variable {s : State} (h : s.memOk)
include h

theorem warm_memOk (w : Who) (space : Space) (ps : List Piece) : (s.warm w space ps).memOk := (warm_sameMem s w space ps).memOk h

theorem loadVal_memOk (space : Space) (a n elem : Nat) (kind : AccKind) : yields (·.1.memOk) (s.loadVal space a n elem kind) := by
  unfold State.loadVal
  split
  · trivial
  · next ps _ =>
    have := warm_memOk h s.hart.who space ps
    dsimp only
    split <;> exact this

theorem storeBytes_memOk (n : Nat) (x : Elt) : (s.storeBytes n x).1.memOk := by
  unfold State.storeBytes
  split <;> exact h

theorem storeUnits_memOk (space : Space) (a n elem : Nat) (kind : AccKind) (x : Elt) :
    yields (·.1.memOk) (s.storeUnits space a n elem kind x) := by
  unfold State.storeUnits
  split
  · trivial
  · exact storeBytes_memOk (warm_memOk h _ _ _) n x

/-- An entry that enters the strip buffer is not in a memory. -/
theorem push_memOk (e : BufEntry) (charge : Nat) (h' : Hart) :
    yields State.memOk ((h'.push e charge).map fun x => { s with hart := x }) := (yields_true _).map fun _ _ => h

theorem scalarLoad_memOk (glb : Bool) (n : Nat) (signed : Bool) (d a : SReg) (off : BitVec 13) :
    yields State.memOk (scalarLoad glb n signed d a off s) := by
  unfold scalarLoad
  split
  · trivial
  split
  · trivial
  split
  · trivial
  · next e =>
    have ht := (loadVal_memOk h _ _ _ _ _).fst_ok e
    exact ht

theorem scalarStore_memOk (glb : Bool) (n : Nat) (d a : SReg) (off : BitVec 13) : yields State.memOk (scalarStore glb n d a off s) := by
  unfold scalarStore
  split
  · trivial
  split
  · trivial
  split
  · trivial
  · next e => exact push_memOk ((storeUnits_memOk h _ _ _ _ _ _).fst_ok e) _ _ _

/-! ### Streams -/

theorem drawn_memOk (bs : List (Byte × Bool)) : (s.drawn bs).1.memOk := by
  unfold State.drawn
  dsimp only
  generalize byteVal _ = v
  split <;> exact h

theorem streamRead_memOk (space : Space) (a n elem : Nat) : yields (·.1.memOk) (s.streamRead space a n elem) := by
  unfold State.streamRead
  split
  · trivial
  · trivial
  · exact drawn_memOk (warm_memOk h _ _ _) _

theorem streamGet_memOk (q : Stream) (index : Bool) (pos a n elem : Nat) : yields (·.1.memOk) (s.streamGet q index pos a n elem) := by
  unfold State.streamGet
  split
  · split
    · exact h
    · trivial
  · split
    · exact drawn_memOk h _
    · exact streamRead_memOk h _ _ _ _

theorem patternEa_memOk (q : Stream) (j elem : Nat) : yields (·.1.memOk) (s.patternEa q j elem) := by
  unfold State.patternEa
  dsimp only
  split
  · split
    · trivial
    · next e =>
      split
      · trivial
      · exact (streamGet_memOk h _ _ _ _ _ _).fst_ok e
  · exact h

theorem patternElt_memOk (q : Stream) (j elem : Nat) : yields (·.1.memOk) (s.patternElt q j elem) := by
  unfold State.patternElt
  split
  · trivial
  · next e =>
    have ht := (patternEa_memOk h _ _ _).fst_ok e
    split
    · trivial
    · next e => exact (streamGet_memOk ht _ _ _ _ _ _).fst_ok e
end

theorem patternElts_memOk (q : Stream) (j0 k : Nat) : ∀ (s : State) (i : Nat), s.memOk → yields (·.1.memOk) (s.patternElts q j0 k i) := by
  induction k with
  | zero => exact fun s i h => h
  | succ k ih =>
    intro s i h
    unfold State.patternElts
    split
    · trivial
    · next e =>
      have ht := ih _ (i + 1) ((patternElt_memOk h _ _ _).fst_ok e)
      split
      · trivial
      · next e => exact ht.fst_ok e

theorem patternUnits_memOk (q : Stream) (r : VReg) (per n k : Nat) :
    ∀ (s : State) (i : Nat), s.memOk → yields (·.1.memOk) (s.patternUnits q r per n k i) := by
  induction k with
  | zero => exact fun s i h => h
  | succ k ih =>
    intro s i h
    unfold State.patternUnits
    split
    · trivial
    · next e =>
      have ht := (patternEa_memOk h _ _ _).fst_ok e
      split
      · trivial
      · next e =>
        have hu := ih _ (i + 1) ((storeUnits_memOk ht _ _ _ _ _ _).fst_ok e)
        split
        · trivial
        · next e => exact hu.fst_ok e

section
variable {s : State} (h : s.memOk)
include h

theorem deliverPattern_memOk (i : QIdx) (q : Stream) : yields State.memOk (deliverPattern s i q) := by
  unfold deliverPattern
  dsimp only
  split
  · trivial
  · next e =>
    have ht := (patternElts_memOk _ _ _ _ _ h).fst_ok e
    split <;> exact ht

theorem finishRows_memOk (i : QIdx) (q : Stream) (g : Got) : yields State.memOk (finishRows s i q g) := by
  unfold finishRows
  dsimp only
  repeat' split
  all_goals trivial

theorem deliverFibre_memOk (i : QIdx) (q : Stream) : yields State.memOk (deliverFibre s i q) := by
  unfold deliverFibre
  dsimp only
  split
  · exact h
  · split
    · exact finishRows_memOk h _ _ _
    · exact finishRows_memOk h _ _ _

theorem deliverPort_memOk (i : QIdx) (q : Stream) : yields State.memOk (deliverPort s i q) := by
  unfold deliverPort
  split
  · trivial
  · dsimp only
    split
    · trivial
    · split
      · trivial
      · exact h

theorem deliverOne_memOk (v : VIdx) (i : QIdx) : yields State.memOk (deliverOne s v i) := by
  unfold deliverOne
  dsimp only
  repeat' split
  · exact h
  · trivial
  · exact h
  · trivial
  · exact deliverPort_memOk h _ _
  · exact deliverPattern_memOk h _ _
  · exact deliverFibre_memOk h _ _

theorem deliverReads_memOk (reads : List VIdx) : yields State.memOk (deliver s reads) :=
  List.foldlRecOn (motive := yields State.memOk) reads _ h fun _ hr v _ => yields_foldl (fun _ i hs => deliverOne_memOk hs v i) _ hr

theorem emitPattern_memOk (i : QIdx) (q : Stream) (r : VReg) (vl : Nat) : yields State.memOk (emitPattern s i q r vl) := by
  unfold emitPattern
  dsimp only
  split
  · trivial
  split
  · trivial
  · next e =>
    have ht := (patternUnits_memOk _ _ _ _ _ _ _ h).fst_ok e
    exact (yields_true _).map fun _ _ => ht

theorem emitPort_memOk (i : QIdx) (q : Stream) (r : VReg) (vl : Nat) : yields State.memOk (emitPort s i q r vl) := by
  unfold emitPort
  dsimp only
  split
  · exact (yields_true _).map fun _ _ => h
  · repeat' split
    · trivial
    · exact (yields_true _).map fun _ _ => h
    · trivial
    · exact (yields_true _).map fun _ _ => h

theorem emitOne_memOk (v : VIdx) (vl : Nat) (i : QIdx) : yields State.memOk (emitOne s v vl i) := by
  unfold emitOne
  dsimp only
  repeat' split
  · exact h
  · trivial
  · exact emitPort_memOk h _ _ _ _
  · trivial
  · exact emitPattern_memOk h _ _ _ _

theorem emit_memOk (writes : List VIdx) : yields State.memOk (emit s writes) :=
  List.foldlRecOn (motive := yields State.memOk) writes _ h fun _ hr v _ => yields_foldl (fun s i hs => emitOne_memOk hs v s.hart.vl i) _ hr
end

theorem streamed_memOk {s : State} (h : s.memOk) (reads writes : List VIdx) (legal : Hart → M Unit) {f : State → M State}
    (hf : ∀ u, u.memOk → yields State.memOk (f u)) : yields State.memOk (streamed reads writes legal f s) := by
  unfold streamed
  split
  · trivial
  · trivial
  · exact ((deliverReads_memOk h _).bind fun t ht => (hf t ht).bind fun u hu => emit_memOk hu _).mapError

/-! ### The ends of a meaning -/

section
variable {s : State} (h : s.memOk)
include h

theorem nextMemOk_take (x : Exc) : nextMemOk (s.take x) := nextMemOk_of fun t e => take_memOk s t x h e

theorem nextMemOk_plainN {n : Nat} {f : State → M State} (hf : yields State.memOk (f s)) : nextMemOk (plainN n s f) :=
  nextMemOk_of fun t e => plainN_memOk n s t f (fun _ hu => hf.of_ok hu) h e

theorem nextMemOk_plain {f : State → M State} (hf : yields State.memOk (f s)) : nextMemOk (plain s f) := nextMemOk_plainN h hf

theorem nextMemOk_plainH (f : Hart → M Hart) : nextMemOk (plainH s f) := nextMemOk_of fun t e => plainH_memOk s t f h e

theorem nextMemOk_jumpH (f : Hart → M Hart) : nextMemOk (jumpH s f) := nextMemOk_of fun t e => jumpH_memOk s t f h e

/-- A vector instruction whose effect is on its hart alone. -/
theorem nextMemOk_vecH (reads writes : List VIdx) (legal : Hart → M Unit) (f : Hart → M Hart) :
    nextMemOk (vecH reads writes legal f s) :=
  nextMemOk_plain h (streamed_memOk h _ _ _ fun _ hu => (yields_true _).map fun _ _ => hu)

theorem nextMemOk_closeThen {f : State → Out} (hf : ∀ u, u.memOk → nextMemOk (f u)) : nextMemOk (closeThen s f) :=
  nextMemOk_of fun t e => closeThen_memOk s t f (fun u hu k => (hf u hu).of_next k) h e

theorem nextMemOk_closing (pre : Hart → M Unit) {f : State → M State} (hf : ∀ u, u.memOk → yields State.memOk (f u)) :
    nextMemOk (closing s pre f) :=
  nextMemOk_of fun t e => closing_memOk s t pre f (fun u _ hu k => (hf u hu).of_ok k) h e

theorem nextMemOk_terminal (i : Instr) {f : State → M State} (hf : ∀ u, u.memOk → yields State.memOk (f u)) :
    nextMemOk (terminal i s f) :=
  nextMemOk_of fun t e => terminal_memOk i s t f (fun u _ hu k => (hf u hu).of_ok k) h e

/-- What a step of the part comes to. -/
theorem nextMemOk_outcome {r : Except Halt State} (hr : ∀ t, r = .ok t → t.memOk) : nextMemOk (s.outcome r) := by
  unfold State.outcome
  split
  · exact hr _ rfl
  · trivial
  · exact (snoop_sameMem s _).memOk h
  · exact h
end

/-- A strip-terminal access: its elements, its results, and the commit of its own strip (05 R128). -/
theorem nextMemOk_access {s : State} (h : s.memOk) (i : Instr) {run : State → M (State × Bool)}
    {fin : State → M (State × List (Nat × FlagSet))} (hr : ∀ u, u.memOk → yields (·.1.memOk) (run u))
    (hf : ∀ u, u.memOk → yields (·.1.memOk) (fin u)) : nextMemOk (access i s run fin) := by
  refine nextMemOk_closeThen h fun t ht => ?_
  have ht : (t.inTerm i).memOk := ht
  have hr := hr _ ht
  split
  · exact nextMemOk_take ht _
  · next e => exact hr.fst_ok e
  · next e =>
    have hf := hf _ (hr.fst_ok e)
    split
    · exact nextMemOk_take ht _
    · next v fl e =>
      have hv : v.memOk := hf.fst_ok e
      split
      · exact nextMemOk_take ht _
      · next w e =>
        have hw : w.memOk := completeTerm_memOk _ w (by exact hv) e
        split
        · exact hw
        · split
          · next e => exact programTrap_memOk _ _ _ _ _ hw e
          · trivial

end Sys2Proof.Machine
end

section
/-! Instructions keep the canonical form of the memories (10 R249): those that close strips, order accesses, or move data between registers
and memory. -/
namespace Sys2Proof.Machine

/-! ### System and synchronisation (04 R112-R114, 05 R115-R118, 09 R216-R226) -/

section
variable {s : State} (h : s.memOk)
include h

theorem execHcrr_memOk (d : SReg) (num : BitVec 16) : nextMemOk (execHcrr d num s) := by
  refine nextMemOk_plain h ?_
  split
  · trivial
  · split
    · trivial
    · exact h

theorem execHcrw_memOk (a : SReg) (num : BitVec 16) : nextMemOk (execHcrw a num s) := by
  refine nextMemOk_plain h ?_
  dsimp only
  split
  · trivial
  · split
    · trivial
    · split
      · trivial
      · exact (yields_true _).map fun _ _ => h

theorem softTrap_memOk (cause : Nat) : nextMemOk (softTrap cause s) := by
  refine nextMemOk_closeThen h fun t ht => ?_
  split
  · next e => exact deliver_memOk _ _ _ _ _ _ (by exact ht) e
  · trivial

theorem performed_memOk (sc : Scope) : yields State.memOk (s.performed sc) := by
  have drained : yields State.memOk (s.drain fun f => f.onPath s.hart.phys) := yields_of fun t e => drain_memOk s t _ h e
  cases sc with
  | hart | spire | cupola => exact h
  | die | package => exact drained
  | system => exact drained.map fun t ht => drainHost_memOk t _ ht

theorem execAwait_memOk (a : SReg) : nextMemOk (execAwait a s) := by
  refine nextMemOk_terminal h _ fun u hu => ?_
  split
  · trivial
  · exact (yields_true _).map fun _ _ => hu

theorem execBarArrive_memOk (id : BitVec 6) : nextMemOk (execBarArrive id s) := by
  refine nextMemOk_terminal h _ fun u hu => ?_
  split
  · trivial
  · split
    · trivial
    · next e =>
      have hv := (performed_memOk hu _).of_ok e
      dsimp only
      split
      · trivial
      · exact hv

theorem execBarWait_memOk (id : BitVec 6) : nextMemOk (execBarWait id s) := by
  refine nextMemOk_terminal h _ fun u hu => ?_
  split
  · trivial
  · split
    · trivial
    · exact hu

theorem serveFarm_memOk : s.serveFarm.1.memOk := by
  unfold State.serveFarm
  dsimp only
  split
  · exact h
  · split <;> exact h

theorem execFarmNext_memOk (d : SReg) : nextMemOk (execFarmNext d s) := by
  refine nextMemOk_plain h ?_
  split
  · trivial
  · exact serveFarm_memOk h
end

/-! ### Vector loads and stores (05 R119-R127) -/

theorem loadElts_memOk (h' : Hart) (a : SReg) (md : EaMode) (ff : Bool) (l : List Nat) :
    ∀ s : State, s.memOk → yields (·.1.memOk) (loadElts h' a md ff l s) := by
  induction l with
  | nil => exact fun s h => h
  | cons i l ih =>
    intro s h
    unfold loadElts
    split
    · split
      · exact h
      · trivial
    · trivial
    · next e =>
      have ht := ih _ ((loadVal_memOk h _ _ _ _ _).fst_ok e)
      split
      · trivial
      · next e => exact ht.fst_ok e

theorem storeElts_memOk (h' : Hart) (a : SReg) (md : EaMode) (d : VIdx) (l : List Nat) :
    ∀ s : State, s.memOk → yields (·.1.memOk) (storeElts h' a md d l s) := by
  induction l with
  | nil => exact fun s h => h
  | cons i l ih =>
    intro s h
    unfold storeElts
    split
    · trivial
    · next e =>
      have ht := ih _ ((storeUnits_memOk h _ _ _ _ _ _).fst_ok e)
      split
      · trivial
      · next e => exact ht.fst_ok e

section
variable {s : State} (h : s.memOk)
include h

theorem vecLoad_memOk (d : VIdx) (a : SReg) (md : EaMode) (m : MIdx) (ff : Bool) : yields State.memOk (vecLoad d a md m ff s) := by
  refine streamed_memOk h _ _ _ fun u hu => ?_
  split
  · trivial
  · split
    · trivial
    · next e =>
      have ht := (loadElts_memOk _ _ _ _ _ _ hu).fst_ok e
      exact ht

theorem vecStore_memOk (d : VIdx) (a : SReg) (md : EaMode) (m : MIdx) : yields State.memOk (vecStore d a md m s) := by
  refine streamed_memOk h _ _ _ fun u hu => ?_
  split
  · trivial
  · dsimp only
    split
    · trivial
    · split
      · trivial
      · next e =>
        have ht := (storeElts_memOk _ _ _ _ _ _ hu).fst_ok e
        exact push_memOk ht _ _ _

/-! ### Elements at their homes (05 R128-R142) -/

theorem atHome_memOk (l : Loc) : yields State.memOk (s.atHome l) := by
  unfold State.atHome
  split
  · trivial
  · split
    · exact yields_of fun t e => drain_memOk s t _ h e
    · exact h

theorem homeRead_memOk (t : Target) (n : Nat) : (s.homeRead t n).1.memOk := by
  unfold State.homeRead
  dsimp only
  split <;> exact h

theorem homeWrite_memOk (t : Target) (n : Nat) (x : Elt) (keep : Option HartId) : yields State.memOk (s.homeWrite t n x keep) := by
  unfold State.homeWrite
  dsimp only
  split
  · trivial
  · split
    · trivial
    · exact writeAll_memOk _ _ _ _ ((shadow_sameMem _ _ _).memOk (storeBytes_memOk h n x))

theorem putElts_memOk (d : VIdx) (w : Nat) (xs : List (Nat × Elt)) : (s.putElts d w xs).memOk := h

theorem finishLoad_memOk (d : VIdx) : yields (·.1.memOk) (finishLoad d s) :=
  (emit_memOk (putElts_memOk h _ _ _) _).map fun _ hu => hu

theorem drawTickets_memOk (ts : List Target) : yields State.memOk (drawTickets ts s) := by
  unfold drawTickets
  split
  · exact h
  · split
    · trivial
    · exact h

theorem accessCheck_memOk (ws : List Nat) (cls : AccClass) (kind : AccKind) (perm : Perm) (reads writes data : List VIdx) (a : SReg)
    (ix : VIdx) (m : MIdx) : yields (·.1.memOk) (accessCheck ws cls kind perm reads writes data a ix m s) := by
  unfold accessCheck
  split
  · trivial
  · trivial
  · split
    · trivial
    · next e =>
      have ht := (deliverReads_memOk h _).of_ok e
      split
      · trivial
      · exact (yields_true _).map fun _ _ => warm_memOk ht _ _ _
end

/-- An action on one element keeps the canonical form. -/
def actsOk (f : Target → State → M (State × Option Elt)) : Prop := ∀ t s, s.memOk → yields (·.1.memOk) (f t s)

theorem performEach_memOk {f : Target → State → M (State × Option Elt)} (hf : actsOk f) (l : List Target) :
    ∀ (k : Nat) (s : State), s.memOk → yields (·.1.memOk) (performEach f l k s) := by
  induction l with
  | nil => exact fun k s h => h
  | cons t l ih =>
    intro k s h
    unfold performEach
    split
    · trivial
    · next e =>
      have hs := hf t _ ((atHome_memOk h _).of_ok e)
      split
      · trivial
      · next e => exact hs.fst_ok e
      · next u x e =>
        have hu : u.memOk := hs.fst_ok e
        dsimp only
        split
        · exact hu
        · exact ih _ _ (by exact hu)

theorem accessRun_memOk {s : State} (h : s.memOk) (cls : AccClass) (kind : AccKind) (perm : Perm) {check : State → M (State × List Target)}
    {start : List Target → State → M State} {f : Target → State → M (State × Option Elt)} (hc : yields (·.1.memOk) (check s))
    (hs : ∀ ts u, u.memOk → yields State.memOk (start ts u)) (hf : actsOk f) : yields (·.1.memOk) (accessRun cls kind perm check start f s) := by
  unfold accessRun
  split
  · exact performEach_memOk (fun t u hu => (yields_true _).bind fun t _ => hf t u hu) _ _ _ h
  · split
    · trivial
    · next v ts e =>
      have ht := hs ts v (hc.fst_ok e)
      split
      · trivial
      · next e => exact performEach_memOk hf _ _ _ (ht.of_ok e)

/-- What an access does before its first element, when it does nothing. -/
theorem noStart_memOk (_ : List Target) (u : State) (h : u.memOk) : yields (ε := Exc) State.memOk (.ok u) := h

theorem dropLinks_memOk (ts : List Target) (u : State) (h : u.memOk) : yields State.memOk (dropLinks ts u) := by
  unfold dropLinks
  split <;> exact h

theorem breakLinks_memOk {s : State} (h : s.memOk) (g : Granule) (k : Option HartId) : (s.breakLinks g k).memOk :=
  (breakLinks_sameMem s g k).memOk h

theorem link_memOk {s : State} (h : s.memOk) (g : Granule) : (s.link g).memOk := by
  unfold State.link
  dsimp only
  generalize (_ && _ : Bool) = full
  split <;> exact h

theorem atomOne_actsOk (op : AtomOp) (d : VIdx) : actsOk (atomOne op d) := by
  intro t s h
  have hr := homeRead_memOk h t (s.hart.ew / 8)
  unfold atomOne
  dsimp only
  split
  · split
    · exact hr
    · exact hr
    · exact breakLinks_memOk hr _ _
  · split
    · exact (homeWrite_memOk hr _ _ _ _).map fun _ hu => hu
    · exact hr

theorem scOne_actsOk (d : VIdx) : actsOk (scOne d) := by
  intro t s h
  unfold scOne
  dsimp only
  split
  · exact (homeWrite_memOk h _ _ _ _).map fun _ hu => hu
  · exact h

theorem presOne_actsOk (k : Pres) (d : VIdx) : actsOk (presOne k d) := by
  intro t s h
  unfold presOne
  dsimp only
  split
  · split
    · exact (homeWrite_memOk (by exact h) _ _ _ _).map fun _ hu => hu
    · split
      · trivial
      · exact homeRead_memOk (by exact h) _ _
    · exact homeRead_memOk (by exact h) _ _
  · exact (request_sameMem _ _).memOk h

theorem finishSc_memOk {s : State} (h : s.memOk) (m : MIdx) : yields (·.1.memOk) (finishSc m s) := by
  unfold finishSc
  dsimp only
  split <;> exact h

section
variable {s : State} (h : s.memOk) (d : VIdx) (a : SReg) (ix : VIdx) (m : MIdx)
include h

theorem execVldsc_memOk : nextMemOk (execVldsc d a ix m s) :=
  nextMemOk_access h _
    (fun _ hu => accessRun_memOk hu _ _ _ (accessCheck_memOk hu ..) (fun ts _ hv => drawTickets_memOk hv ts) fun t _ hv => homeRead_memOk hv t _)
    fun _ hu => finishLoad_memOk hu d

theorem execVstsc_memOk : nextMemOk (execVstsc d a ix m s) :=
  nextMemOk_access h _
    (fun _ hu => accessRun_memOk hu _ _ _ (accessCheck_memOk hu ..) (fun ts _ hv => drawTickets_memOk hv ts)
      fun t _ hv => (homeWrite_memOk hv t _ _ _).map fun _ hw => hw)
    fun _ hu => hu

theorem execVatom_memOk (op : AtomOp) : nextMemOk (execVatom op d a ix m s) := by
  refine nextMemOk_access h _ (fun u hu => ?_) fun u hu => (finishLoad_memOk hu d).map fun _ hv => hv
  split
  · trivial
  · exact accessRun_memOk hu _ _ _ (accessCheck_memOk hu ..) noStart_memOk (atomOne_actsOk op d)

theorem execVgl_memOk : nextMemOk (execVgl d a ix m s) := by
  refine nextMemOk_access h _ (fun u hu => ?_) fun u hu => finishLoad_memOk hu d
  refine accessRun_memOk hu _ _ _ (accessCheck_memOk hu ..) dropLinks_memOk fun t v hv => ?_
  have hr := homeRead_memOk hv t (v.hart.ew / 8)
  dsimp only
  split
  · exact link_memOk hr _
  · exact hr

theorem execVsc_memOk : nextMemOk (execVsc d a ix m s) :=
  nextMemOk_access h _ (fun _ hu => accessRun_memOk hu _ _ _ (accessCheck_memOk hu ..) noStart_memOk (scOne_actsOk d))
    fun _ hu => finishSc_memOk hu m

theorem presence_memOk (k : Pres) : nextMemOk (presence k d a ix m s) := by
  refine nextMemOk_access h _ (fun u hu => accessRun_memOk hu _ _ _ (accessCheck_memOk hu ..) noStart_memOk (presOne_actsOk k d)) fun u hu => ?_
  split
  · exact hu
  · exact finishLoad_memOk hu d
end

/-! ### Tiles (08 R190-R194) -/

theorem tileUnits_memOk (base : Nat) (l : List (Nat × Elt)) : ∀ s : State, s.memOk → (tileUnits s base l).1.memOk := by
  induction l with
  | nil => exact fun s h => h
  | cons x l ih => exact fun s h => ih _ (storeBytes_memOk h _ _)

theorem epiRows_memOk (q : QIdx) (side w : Nat) (l : List (List Elt)) :
    ∀ s : State, s.memOk → yields State.memOk (epiRows q side w l s) := by
  induction l with
  | nil => exact fun s h => h
  | cons row l ih =>
    intro s h
    unfold epiRows
    dsimp only
    split
    · trivial
    · next e =>
      split at e
      · exact ih _ ((emitPort_memOk h _ _ _ _).of_ok e)
      · exact ih _ ((emitPattern_memOk h _ _ _ _).of_ok e)

section
variable {s : State} (h : s.memOk)
include h

theorem execAld_memOk (d : AIdx) (a : SReg) : nextMemOk (execAld d a s) := by
  refine nextMemOk_plain h ?_
  split
  · trivial
  · split
    · trivial
    · exact h

theorem execAst_memOk (d : AIdx) (a : SReg) : nextMemOk (execAst d a s) := by
  refine nextMemOk_plain h ?_
  split
  · trivial
  · dsimp only
    split
    · trivial
    · split
      · trivial
      · exact push_memOk (tileUnits_memOk _ _ _ h) _ _ _

theorem execAepi_memOk (out : AepiOut) (i32 : Bool) (d : QIdx) (a : AIdx) (b : SReg) : nextMemOk (execAepi out i32 d a b s) := by
  refine nextMemOk_plain h ?_
  dsimp only
  split
  · trivial
  · split
    · trivial
    · split
      · trivial
      · split
        · trivial
        · exact epiRows_memOk _ _ _ _ _ (by exact h)

/-! ### Stream registers and engine commands (09 R195-R215) -/

theorem nextMemOk_streamOp (bad : State → Bool) (ops : List SReg) {f : State → M State} (hf : yields State.memOk (f s)) :
    nextMemOk (streamOp bad ops f s) := by
  refine nextMemOk_plain h ?_
  split
  · trivial
  · split
    · trivial
    · exact hf

theorem setQ_memOk (i : QIdx) (x : Stream) : (s.setQ i x).memOk := h

theorem execSunbind_memOk (d : QIdx) : nextMemOk (execSunbind d s) := by
  refine nextMemOk_streamOp h _ _ ?_
  dsimp only
  split
  · exact h
  · split <;> exact h

theorem derive_memOk (kind : BitVec 4) (d a b : QIdx) : nextMemOk (derive kind d a b s) := nextMemOk_streamOp h _ _ h
end

theorem skipAll_memOk (t : Nat) (l : List QIdx) : ∀ s : State, s.memOk → yields State.memOk (s.skipAll t l) := by
  induction l with
  | nil => exact fun s h => h
  | cons i l ih =>
    intro s h
    unfold State.skipAll
    split
    · exact ih _ (setQ_memOk h _ _)
    · trivial
    · trivial
    · exact ih _ h

section
variable {s : State} (h : s.memOk)
include h

theorem execSskip_memOk (d : QIdx) (a : SReg) : nextMemOk (execSskip d a s) :=
  nextMemOk_streamOp h _ _ ((skipAll_memOk _ _ _ h).map fun _ ht => ht)

theorem saveUnits_memOk (a : Nat) (q : Stream) : yields (·.1.memOk) (s.saveUnits a q) := by
  unfold State.saveUnits
  dsimp only
  split
  · exact storeUnits_memOk h _ _ _ _ _ _
  · split
    · trivial
    · next e =>
      have ht := (storeUnits_memOk h _ _ _ _ _ _).fst_ok e
      split
      · trivial
      · next e =>
        have hu := (storeUnits_memOk ht _ _ _ _ _ _).fst_ok e
        exact (storeUnits_memOk hu _ _ _ _ _ _).map fun _ hv => hv

theorem execSsave_memOk (d : QIdx) (a : SReg) : nextMemOk (execSsave d a s) := by
  refine nextMemOk_streamOp h _ _ ?_
  dsimp only
  split
  · trivial
  · split
    · trivial
    · split
      · trivial
      · next e =>
        have ht := (saveUnits_memOk h _ _).fst_ok e
        exact push_memOk ht _ _ _

theorem execSrest_memOk (d : QIdx) (a : SReg) : nextMemOk (execSrest d a s) := by
  refine nextMemOk_streamOp h _ _ ?_
  dsimp only
  split
  · trivial
  · split
    · trivial
    · next e =>
      have ht := (loadVal_memOk h _ _ _ _ _).fst_ok e
      split
      · trivial
      · split
        · trivial
        · exact ht

theorem execSaff_memOk (q : QIdx) (base stride : SReg) (lv : Fin 4) (go : Bool) (cnt : BitVec 32) (fmt : Format) (out : Bool) (sp : Space) :
    nextMemOk (execSaff q base stride lv go cnt fmt out sp s) := by
  refine nextMemOk_plainN h ?_
  dsimp only
  repeat' split
  all_goals trivial

theorem execSidx_memOk (q : QIdx) (a : SReg) (go iw : Bool) : nextMemOk (execSidx q a go iw s) := by
  refine nextMemOk_plainN h ?_
  dsimp only
  repeat' split
  all_goals trivial

theorem execSfib_memOk (q : QIdx) (a b : SReg) (lvk : Fin 4) (iw : Bool) (size len : BitVec 32) (p : SReg) (sp : Space) :
    nextMemOk (execSfib q a b lvk iw size len p sp s) := by
  refine nextMemOk_plainN h ?_
  dsimp only
  split
  · trivial
  · split
    · trivial
    · exact setQ_memOk h _ _

theorem issue_memOk (i : Instr) (d a b : SReg) : nextMemOk (issue i d a b s) := by
  refine nextMemOk_plainN h ?_
  split
  · trivial
  · split
    · trivial
    · exact push_memOk h _ _ _
end

end Sys2Proof.Machine
end

section
/-! Steps of the part that end a wait of a hart or act on its strip, and those of memory and translation, keep the canonical form of the
memories (10 R249). -/
namespace Sys2Proof.Machine

/-! ### A hart in focus that tries its instruction again (05 R128) -/

section
variable {s : State} (h : s.memOk)
include h

theorem focus_memOk (i : HartId) : (s.focus i).memOk := by
  unfold State.focus
  split
  · exact h
  · split <;> exact h

theorem waiter_memOk {t : State} (i : HartId) (p : Stall → Bool) (e : s.waiter i p = some t) : t.memOk := by
  have hf := focus_memOk h i
  simp only [State.waiter, Option.bind_eq_some_iff, Option.ite_none_right_eq_some, Option.some.injEq] at e
  obtain ⟨_, _, _, _, _, rfl⟩ := e
  exact hf

theorem nextMemOk_retry (i : HartId) (p : Stall → Bool) {f : Instr → State → Out} (hf : ∀ j u, u.memOk → nextMemOk (f j u)) :
    nextMemOk (retry s i p f) := by
  unfold retry
  split
  · exact h
  · next e =>
    have ht := waiter_memOk h i p e
    split
    · exact nextMemOk_take ht _
    · split
      · exact h
      · exact hf _ _ ht

theorem execFence_memOk (sc : Scope) : nextMemOk (execFence sc s) := nextMemOk_terminal h _ fun _ hu => performed_memOk hu sc

theorem runPresence_memOk {u : State} (hu : u.memOk) (i : Instr) : nextMemOk ((runPresence i u).getD (.next s)) := by
  unfold runPresence
  split
  · exact presence_memOk hu ..
  · exact presence_memOk hu ..
  · exact presence_memOk hu ..
  · exact h

theorem execAwaitComplete_memOk : nextMemOk (execAwaitComplete s) := by
  refine nextMemOk_retry h _ _ fun i u hu => ?_
  split
  · exact execAwait_memOk hu _
  · exact h

theorem execTkwaitSatisfied_memOk : nextMemOk (execTkwaitSatisfied s) := by
  refine nextMemOk_retry h _ _ fun i u hu => ?_
  split
  · exact nextMemOk_plainH hu _
  · exact h

theorem execStripTerminalComplete_memOk : nextMemOk (execStripTerminalComplete s) := by
  refine nextMemOk_retry h _ _ fun i u hu => ?_
  split
  · exact execFence_memOk hu _
  · exact execAwait_memOk hu _
  · exact execBarArrive_memOk hu _
  · exact execBarWait_memOk hu _
  · exact execVldsc_memOk hu ..
  · exact execVstsc_memOk hu ..
  · exact execVatom_memOk hu ..
  · exact execVgl_memOk hu ..
  · exact execVsc_memOk hu ..
  · exact runPresence_memOk h hu _

theorem execPresenceDeferralServe_memOk : nextMemOk (execPresenceDeferralServe s) := by
  unfold execPresenceDeferralServe
  split
  · split
    · exact h
    · exact nextMemOk_retry h _ _ fun i u hu => runPresence_memOk h hu i
  · exact h

theorem runGlbLoad_memOk {o : Out} (i : Instr) (e : runGlbLoad i s = some o) : nextMemOk o := by
  unfold runGlbLoad at e
  split at e
  case h_8 => cases e
  all_goals
    cases e
    exact nextMemOk_plain h (scalarLoad_memOk h ..)

theorem execScalarLoadReturn_memOk : nextMemOk (execScalarLoadReturn s) := by
  unfold execScalarLoadReturn
  dsimp only
  split
  · exact h
  · refine nextMemOk_retry h _ _ fun i u hu => ?_
    split
    · next e =>
      have hv := runGlbLoad_memOk (by exact hu) _ e
      exact hv
    · next e => exact runGlbLoad_memOk (by exact hu) _ e
    · exact h

theorem execFarmNextServe_memOk : nextMemOk (execFarmNextServe s) := by
  unfold execFarmNextServe
  dsimp only
  split
  · exact h
  split
  · exact h
  split
  · exact execFarmNext_memOk (focus_memOk h _) _
  · exact h

/-! ### Slots (09 R198, R199) -/

theorem slotWaiter_memOk {t : State} (i : HartId) (q : QIdx) (c : Stall) (e : s.slotWaiter i q c = some t) : t.memOk := by
  unfold State.slotWaiter at e
  split at e
  · exact waiter_memOk h _ _ e
  · cases e

theorem execStreamDelivery_memOk : nextMemOk (execStreamDelivery s) := by
  unfold execStreamDelivery
  split
  · split
    · exact h
    · next e =>
      split
      · exact h
      · split
        · next e' => exact (deliverPort_memOk (slotWaiter_memOk h _ _ _ e) _ _).of_ok e'
        · exact h
  · exact h

theorem execSlotReservation_memOk : nextMemOk (execSlotReservation s) := by
  unfold execSlotReservation
  split
  · split
    · exact h
    · next e =>
      have ht := slotWaiter_memOk h _ _ _ e
      split
      · exact h
      split
      · exact h
      split
      · exact h
      · exact ht
  · exact h

/-! ### The strip (01 R29-R33) -/

theorem execStripCommit_memOk : nextMemOk (execStripCommit s) := by
  have hf := focus_memOk h s.argHart
  unfold execStripCommit
  dsimp only
  split
  · exact h
  split
  · exact h
  split
  · next t e => exact commit_memOk _ t hf e
  · exact nextMemOk_take hf _

theorem execCommitEnd_memOk : nextMemOk (execCommitEnd s) := by
  unfold execCommitEnd
  dsimp only
  split
  · exact h
  · split <;> exact h

theorem execStripWatchdog_memOk : nextMemOk (execStripWatchdog s) := by
  unfold execStripWatchdog
  dsimp only
  split
  · exact h
  split
  · exact h
  split
  · next e => exact programTrap_memOk _ _ _ _ _ (focus_memOk h _) e
  · trivial

/-! ### Fault rings, links and vector arrays (11 R271, 05 R137, 15 R350) -/

theorem withRing_memOk (c : Nat) (f : FaultRing → FaultRing) : yields State.memOk (s.withRing c f) := by
  unfold State.withRing
  split
  · exact h
  · exact yields_of fun t e => drainRing_memOk _ _ _ t (by exact h) e

theorem updRing_memOk (c : Nat) (f : FaultRing → FaultRing) : nextMemOk (s.updRing c f) := by
  unfold State.updRing
  split
  · trivial
  · next e => exact (withRing_memOk h _ _).of_ok e

theorem execFqbaseWrite_memOk : nextMemOk (execFqbaseWrite s) := by
  unfold execFqbaseWrite
  split
  · exact updRing_memOk h _ _
  · exact h

theorem execFqheadWrite_memOk : nextMemOk (execFqheadWrite s) := by
  unfold execFqheadWrite
  split
  · exact updRing_memOk h _ _
  · exact h

theorem execLinkReservationExpiry_memOk : nextMemOk (execLinkReservationExpiry s) := by
  unfold execLinkReservationExpiry
  split <;> exact h

theorem execLazyVectorMove_memOk : nextMemOk (execLazyVectorMove s) := by
  unfold execLazyVectorMove
  split
  · exact h
  · split <;> exact h

/-! ### Pages and their backing (11 R258-R261) -/

theorem restorePage_memOk {t : State} (f : Frame) (own : Nat × Nat) (e : s.restorePage f own = .ok t) : t.memOk := by
  have saved : ∀ u, (if f.dirty && f.resident then s.savePage f else .ok s) = .ok u → u.memOk := by
    intro u k
    split at k
    · exact savePage_memOk s u f h k
    · cases k
      exact h
  unfold State.restorePage at e
  dsimp only at e
  split at e
  · cases e
  · next u k =>
    cases l : u.loadPage (f.key / 64) (f.key % 64) own.1 own.2 with
    | error => simp [l, Except.map] at e
    | ok v =>
      have hv := loadPage_memOk _ _ _ _ _ _ (saved u k) l
      simp only [l, Except.map, Except.ok.injEq] at e
      exact e ▸ hv

theorem execPageRestoreComplete_memOk : nextMemOk (execPageRestoreComplete s) := by
  unfold execPageRestoreComplete
  split
  · split
    · exact h
    split
    · exact h
    · exact nextMemOk_outcome h fun _ => restorePage_memOk h _ _
  · exact h
end

theorem startSaves_memOk (p : Nat) (v : Word) (l : List Frame) : ∀ s t : State, s.memOk → s.startSaves p v l = .ok t → t.memOk := by
  induction l with
  | nil =>
    intro s t h e
    cases e
    exact h
  | cons f l ih =>
    intro s t h e
    unfold State.startSaves at e
    split at e
    · cases k : s.startSave f with
      | error => simp [k, Except.bind] at e
      | ok u =>
        simp only [k, Except.bind] at e
        exact ih u t (startSave_memOk s u f h k) e
    · exact ih s t h e

section
variable {s : State} (h : s.memOk)
include h

theorem execSpsave_memOk : nextMemOk (execSpsave s) := by
  unfold execSpsave
  split
  · exact nextMemOk_outcome h fun t => startSaves_memOk _ _ _ s t h
  · exact h

theorem execSpsaveComplete_memOk : nextMemOk (execSpsaveComplete s) := by
  unfold execSpsaveComplete
  split
  · split
    · next f _ =>
      have k := fun t => startSave_memOk s t f h
      generalize s.startSave f = r at k ⊢
      exact nextMemOk_outcome h k
    · exact h
  · exact h

/-! ### Scrubbing and translation (11 R256, R266-R272) -/

theorem corrected_memOk (g : ScrubSite) : (s.corrected g).memOk := by
  unfold State.corrected
  dsimp only
  split <;> exact h

theorem execPatrolScrub_memOk : nextMemOk (execPatrolScrub s) := by
  unfold execPatrolScrub
  split
  · next g bad _ =>
    show (if bad then s.spoil g else s.corrected g).memOk
    split
    · exact spoil_memOk s g h
    · exact corrected_memOk h g
  · exact h

theorem fillWalk_memOk (p ctx : Nat) (host : Bool) (va : Nat) (l : Leaf) (nl : List NonLeaf) : (s.fillWalk p ctx host va l nl).memOk :=
  (fillWalk_sameMem s p ctx host va l nl).memOk h

theorem execTranslationWalk_memOk : nextMemOk (execTranslationWalk s) := by
  unfold execTranslationWalk
  split
  · split
    · exact h
    split
    · exact fillWalk_memOk h ..
    split
    · exact h
    split
    · exact h
    · exact h
    · exact fillWalk_memOk h ..
  · exact h

theorem writeInv_memOk (d : Nat) (x : InvBlock) (v : BitVec 64) : (s.writeInv d x v).memOk := by
  unfold State.writeInv
  split <;> exact h

theorem execInvctlGo_memOk : nextMemOk (execInvctlGo s) := by
  unfold execInvctlGo
  split
  · split
    · exact h
    · next x _ =>
      show (if x.busy then _ else s.writeInv _ x _).memOk
      split
      · exact h
      · exact writeInv_memOk h _ _ _
  · exact h
end

theorem nextInv_memOk (d : Nat) (x : InvBlock) (l : List (BitVec 64)) : ∀ s : State, s.memOk → (s.nextInv d x l).memOk := by
  induction l with
  | nil => exact fun s h => h
  | cons v l ih =>
    intro s h
    have ht := writeInv_memOk h d x v
    unfold State.nextInv
    dsimp only
    split
    · exact ht
    · exact ih _ ht

section
variable {s : State} (h : s.memOk)
include h

theorem execInvalidationComplete_memOk : nextMemOk (execInvalidationComplete s) := by
  unfold execInvalidationComplete
  split
  · split
    · exact h
    split
    · exact h
    split
    · exact (request_sameMem _ _).memOk h
    · exact h
    · next e => exact nextInv_memOk _ _ _ _ (drain_memOk _ _ _ (by exact h) e)
  · exact h

/-! ### Accepted stores and the host (10 R230, R232, 16 R372) -/

theorem land_memOk (f : Flight) : (s.land f).memOk := writeUnits_memOk _ _ _ _ h

theorem execStoreWrittenAtHome_memOk : nextMemOk (execStoreWrittenAtHome s) := by
  unfold execStoreWrittenAtHome
  split
  · split
    · exact h
    split
    · split <;> exact h
    split
    · exact h
    split
    · exact (snoop_sameMem _ _).memOk h
    · exact land_memOk (by exact h) _
  · exact h

theorem execHostStoreCompletion_memOk : nextMemOk (execHostStoreCompletion s) := by
  unfold execHostStoreCompletion
  split
  · split
    · exact h
    split
    · exact h
    · exact land_memOk (by exact h) _
  · exact h

theorem execHostCxlMemAccess_memOk : nextMemOk (execHostCxlMemAccess s) := by
  unfold execHostCxlMemAccess
  split
  · dsimp only
    split
    · exact h
    · next x _ _ =>
      show (if x.write then _ else _ : State).memOk
      split
      · exact ⟨Mem.store_wf _ _ _ _ h.1, h.2⟩
      · exact h
  · exact h

theorem drainRings_memOk : yields State.memOk s.drainRings := yields_foldl (fun _ _ ht => withRing_memOk ht _ _) _ h

theorem relink_memOk (ctx : Nat) : (s.relink ctx).memOk := by
  unfold State.relink
  split
  · exact h
  · refine List.foldlRecOn (motive := State.memOk) _ _ h fun t ht x _ => ?_
    split
    · exact ht
    split
    · exact (snoop_sameMem _ _).memOk ht
    · exact ht
    · exact devStore_memOk _ _ _ ht

theorem execBackInvalidateResponse_memOk : nextMemOk (execBackInvalidateResponse s) := by
  unfold execBackInvalidateResponse
  split
  · split
    · split
      · next e =>
        have ht := (drainRings_memOk (by exact h)).of_ok e
        exact List.foldlRecOn (motive := State.memOk) _ _ ht fun t ht c _ => relink_memOk ht c.id
      · trivial
    · exact h
  · exact h
end

end Sys2Proof.Machine
end

section
/-! The engines and the landings of `put.e` keep the canonical form of the memories (10 R249). -/
namespace Sys2Proof.Machine

section
variable {s : State} (h : s.memOk)
include h

/-! ### Landings (13 R301, R311) -/

theorem landed_memOk (tag n : Nat) : (s.landed tag n).memOk := by
  unfold State.landed
  split
  · exact h
  · dsimp only
    split <;> exact h

theorem behindPort_memOk (l : Loc) : (s.behindPort l).memOk := by
  unfold State.behindPort
  split
  · exact drainHost_memOk s _ h
  · exact h
end

theorem landUnits_memOk (home : State → Nat → Except AccErr Loc) (o : Origin) (log : Bool) (l : List (Nat × List (Byte × Bool))) :
    ∀ (n : Nat) (s : State), s.memOk → (landUnits home o log l n s).1.memOk := by
  induction l with
  | nil => exact fun n s h => h
  | cons x l ih =>
    intro n s h
    unfold landUnits
    split
    · exact h
    · dsimp only
      split
      · exact h
      split
      · exact h
      · exact ih _ _ (writeAll_memOk _ _ _ _ (behindPort_memOk h _))

section
variable {s : State} (h : s.memOk)
include h

/-! ### Commands (09 R211, R212) -/

theorem yields_record (c : Nat) (x : FaultRec) : yields State.memOk (s.record c x) := yields_of fun t e => record_memOk s t c x h e

theorem parkCmd_memOk (c : Cmd) (space : Space) (write : Bool) (detail addr : Nat) : yields State.memOk (s.parkCmd c space write detail addr) :=
  (yields_record (by exact h) _ _).mapError

theorem request_memOk (r : Req) : (s.request r).memOk := (request_sameMem s r).memOk h

theorem stopCmd_memOk (c : Cmd) (space : Space) (write : Bool) (e : EngStop) : yields State.memOk (s.stopCmd c space write e) := by
  cases e with
  | wait r => exact request_memOk h r
  | access => exact h
  | park cause detail addr => exact parkCmd_memOk h _ _ _ _ _

theorem runCopy_memOk (c : Cmd) : yields State.memOk (s.runCopy c) := by
  unfold State.runCopy
  split
  · exact h
  dsimp only
  split
  · exact request_memOk (by exact h) _
  · generalize groupWords _ = ws
    have hl := landUnits_memOk (fun s a => s.engHome c.hart c.phys c.words.dspace true a) c.origin (c.words.dspace == .glb) ws 0 s h
    split
    · exact stopCmd_memOk (by exact hl) _ _ _ _
    · exact stopCmd_memOk (by exact hl) _ _ _ _
    · exact hl

theorem execCopyExecute_memOk : nextMemOk (execCopyExecute s) := by
  unfold execCopyExecute
  split
  · split
    · exact h
    split
    · exact h
    · exact nextMemOk_outcome h fun _ => (runCopy_memOk h _).of_ok
  · exact h

theorem updGroup_memOk (ctx team k : Nat) (g : Fabric → Fabric) : (s.updGroup ctx team k g).memOk := h

theorem bump_memOk (i : HartId) (n : TkIdx) : (s.bump i n).memOk := by
  unfold State.bump
  dsimp only
  split
  · exact h
  · split
    · exact h
    · exact updGroup_memOk (by exact h) _ _ _ _

theorem putStatus_memOk (c : Cmd) (code : Nat) : (s.putStatus c code).memOk := by
  unfold State.putStatus
  dsimp only
  split
  · exact h
  split
  · exact h
  · exact writeAll_memOk _ _ _ _ h
end

/-! ### Overflow chunks (13 R310) -/

theorem devWords_memOk (l : List (List (Byte × Bool))) : ∀ (s : State) (a : Nat), s.memOk → (s.devWords a l).memOk := by
  induction l with
  | nil => exact fun s a h => h
  | cons x l ih => exact fun s a h => ih _ _ ⟨Mem.store_wf _ _ _ _ h.1, h.2⟩

section
variable {s : State} (h : s.memOk)
include h

theorem overflowPut_memOk {t : State} (o : Overflow) (bs : List (Byte × Bool)) (e : s.overflowPut o bs = .ok (some t)) : t.memOk := by
  unfold State.overflowPut at e
  split at e
  · cases e
  split at e
  · cases e
  dsimp only at e
  generalize chunks 4096 _ _ = cs at e
  generalize List.foldl _ (Except.ok ()) _ = r at e
  cases r with
  | error => cases e
  | ok u =>
    cases e
    refine relink_memOk ?_ _
    exact memOk_foldl _ _ (fun u x hu => devWords_memOk _ u _ hu) s h

theorem overflowFree_memOk (ctx : Nat) (p : Overflow → Bool) : (s.overflowFree ctx p).memOk := relink_memOk (by exact h) _

/-! ### `put.e` (09 R214, 13 R311) -/

theorem landPut_memOk (x : PutIn) (skip : Nat) : (s.landPut x skip).1.memOk := by
  unfold State.landPut
  split
  · exact h
  dsimp only
  generalize groupWords _ = ws
  have hl := fun home o n => landed_memOk (landUnits_memOk home o true ws 0 s h) x.tag n
  split <;> exact hl _ _ _
end

theorem finishPut_memOk (x : PutIn) (n0 : Nat) {r : State × PutEnd} (h : r.1.memOk) : yields (·.1.memOk) (State.finishPut x n0 r) := by
  have count : ∀ n, (match x.cmd with
      | some k => r.1.updCmd k fun c => { c with landed := n0 + n, st := .begun }
      | none => r.1).memOk := by
    intro n
    split <;> exact h
  unfold State.finishPut
  dsimp only
  split
  · split <;> exact h
  · split <;> exact h
  · exact request_memOk (count _) _
  · split
    · trivial
    · exact (snoop_sameMem _ _).memOk (count _)
    · exact count _
    · exact count _
    · next t e =>
      have ht := overflowPut_memOk (count _) _ _ e
      refine yields.map (P := State.memOk) (yields.mapError (yields_record ?_ _ _)) fun _ hu => hu
      split <;> exact ht

section
variable {s : State} (h : s.memOk)
include h

theorem takePut_memOk (x : PutIn) (n : Nat) : yields State.memOk (s.takePut x n) := by
  refine (finishPut_memOk x n (landPut_memOk h x n)).map fun r hr => ?_
  split <;> exact hr

theorem sendPut_memOk (c : Cmd) : yields State.memOk (s.sendPut c) := by
  unfold State.sendPut
  dsimp only
  split
  · exact stopCmd_memOk h _ _ _ _
  · exact h

theorem runPut_memOk (c : Cmd) : yields State.memOk (s.runPut c) := by
  unfold State.runPut
  dsimp only
  split
  · exact h
  split
  · exact sendPut_memOk h _
  split
  · exact h
  split
  · exact request_memOk h _
  · exact parkCmd_memOk h _ _ _ _ _
  · exact takePut_memOk (by exact h) _ _

theorem tryHeld_memOk (k : Nat) : yields State.memOk (s.tryHeld k) := by
  unfold State.tryHeld
  split
  · exact h
  split
  · exact h
  · refine (finishPut_memOk _ _ (landPut_memOk h _ _)).map fun r hr => ?_
    split <;> exact hr

theorem retryLanding_memOk (l : Landing) : yields State.memOk (s.retryLanding l) := by
  unfold State.retryLanding
  dsimp only
  refine takePut_memOk ?_ _ _
  split
  · exact overflowFree_memOk (by exact h) _ _
  · exact overflowFree_memOk (by exact h) _ _

theorem failLanding_memOk (l : Landing) : (s.failLanding l).memOk := by
  unfold State.failLanding
  dsimp only
  split
  · exact overflowFree_memOk (by exact h) _ _
  · exact overflowFree_memOk (by exact h) _ _
end

end Sys2Proof.Machine
end

section
/-! Collectives and fetches ahead keep the canonical form of the memories (10 R249). -/
namespace Sys2Proof.Machine

section
variable {s : State} (h : s.memOk)
include h

/-! ### Episodes (13 R305, R310) -/

theorem endEpisode_memOk (e : Episode) (code : Nat) : (s.endEpisode e code).memOk := by
  have ht := memOk_foldl (fun s (r : CollRank) => s.endCmd r.cmd code) e.ranks (fun _ _ hu => hu) s h
  exact overflowFree_memOk (by exact ht) _ _

theorem consume_memOk (e : Episode) (rank : Nat) : (s.consume e rank).memOk := by
  unfold State.consume
  dsimp only
  split
  · exact h
  · exact overflowFree_memOk (by exact h) _ _

theorem join_memOk (c : Cmd) (rank size : Nat) : (s.join c rank size).memOk := by
  unfold State.join
  extract_lets ctx team id n s1 s2 s3 eps s4
  have h2 : s2.memOk := by
    simp only [s2]
    split <;> exact h
  split
  · exact h2
  · next e _ =>
    have h5 := consume_memOk (s := s4) h2 e rank
    dsimp only
    split
    · exact h5
    split
    · exact h5
    · exact endEpisode_memOk h5 _ _

theorem execCollExecute_memOk : nextMemOk (execCollExecute s) := by
  unfold execCollExecute
  split
  · split
    · exact h
    split
    · exact h
    split
    · split
      · exact h
      split
      · exact h
      · exact join_memOk h _ _ _
    · exact h
  · exact h

/-! ### Chunks (13 R306-R309) -/

theorem parkRank_memOk (e : Episode) (c : Cmd) (rank : Nat) (chunk : Option Nat) (space : Space) (detail addr : Nat) :
    yields State.memOk (s.parkRank e c rank chunk space detail addr) :=
  (yields_record (by exact h) _ _).mapError

theorem form_memOk (e : Episode) (size : Nat) : yields State.memOk (s.form e size) := by
  unfold State.form
  dsimp only
  split
  · exact request_memOk h _
  · exact endEpisode_memOk h _ _
  · exact parkRank_memOk h _ _ _ _ _ _ _
  · exact h
  · have ht := memOk_foldl (fun s (x : Nat × Cmd) => s.updCmd x.2.k fun y => { y with full := true }) (s.rankCmds e size) (fun _ _ hu => hu) s h
    exact ht

theorem yields_overflowPut (o : Overflow) (bs : List (Byte × Bool)) : yields (fun r => ∀ t ∈ r, t.memOk) (s.overflowPut o bs) := by
  apply yields_of
  rintro r e t rfl
  exact overflowPut_memOk h o bs e

theorem landRank_memOk (e : Episode) (rank : Nat) (c : Cmd) : yields State.memOk (s.landRank e rank c) := by
  unfold State.landRank
  dsimp only
  generalize groupWords _ = ws
  have hl := landUnits_memOk (fun s a => s.engHome c.hart c.phys c.words.dspace true a) c.origin (c.words.dspace == .glb) ws 0 s h
  split
  · repeat' split
    all_goals exact hl
  · exact request_memOk (by exact hl) _
  · exact endEpisode_memOk (by exact hl) _ _
  · refine (yields_overflowPut (by exact hl) _ _).bind fun o ho => ?_
    split
    · exact hl
    · next u => exact parkRank_memOk (ho u rfl) _ _ _ _ _ _ _

theorem unexpected_memOk (e : Episode) (rank chunk dst : Nat) : yields State.memOk (s.unexpected e rank chunk dst) := by
  unfold State.unexpected
  split
  · exact h
  split
  · exact h
  dsimp only
  split
  · exact h
  · refine (yields_overflowPut h _ _).map fun o ho => ?_
    cases o with
    | none => exact h
    | some u => exact ho u rfl

theorem execCollChunkArrival_memOk : nextMemOk (execCollChunkArrival s) := by
  unfold execCollChunkArrival
  split
  · split
    · exact h
    · next e _ =>
      have formed : yields State.memOk (if !e.result.isEmpty then .ok s
          else if (s.rankCmds e (s.episodeSize e)).any fun x => s.behindColl x.2 then .ok s else s.form e (s.episodeSize e)) := by
        split
        · exact h
        split
        · exact h
        · exact form_memOk h _ _
      dsimp only
      split
      · exact h
      split
      · split
        · exact nextMemOk_outcome h fun _ => (unexpected_memOk h _ _ _ _).of_ok
        · exact h
      split
      · exact h
      split
      · exact nextMemOk_outcome h fun _ k => nomatch k
      · next k =>
        have ht := formed.of_ok k
        split
        · exact ht
        split
        · exact ht
        split
        · exact ht
        · exact nextMemOk_outcome ht fun _ => (landRank_memOk ht _ _ _).of_ok
  · exact h

/-! ### Verdicts and fetches ahead (13 R293, R294, R304) -/

theorem failTicket_memOk (p : Nat → Bool) : (s.failTicket p).memOk := by
  unfold State.failTicket
  split
  · exact failLanding_memOk h _
  split
  · exact h
  split
  · exact endEpisode_memOk h _ _
  · exact h

theorem execPkrespFail_memOk : nextMemOk (execPkrespFail s) := by
  unfold execPkrespFail
  split
  · exact failTicket_memOk h _
  · exact h

theorem execStreamFetchAhead_memOk : nextMemOk (execStreamFetchAhead s) := by
  unfold execStreamFetchAhead
  split
  · split
    · exact h
    dsimp only
    split
    · exact h
    split
    · exact h
    split
    · next k =>
      have hu := (streamGet_memOk (focus_memOk h _) _ _ _ _ _ _).fst_ok k
      exact focus_memOk (by exact hu) _
    · exact h
    · exact request_memOk h _
    · exact h
  · exact h
end

end Sys2Proof.Machine
end

section
/-! The fabric, the placement of teams and the loads of fabric images keep the canonical form of the memories (10 R249). -/
namespace Sys2Proof.Machine

/-- Changes made one after another, each of which keeps the memories canonical. -/
theorem foldl_memOk {α : Type} {f : State → α → State} (hf : ∀ t x, t.memOk → (f t x).memOk) (l : List α) {s : State} (h : s.memOk) :
    (l.foldl f s).memOk :=
  memOk_foldl f l hf s h

section
variable {s : State} (h : s.memOk)
include h

/-! ### The fabric (14 R315, R326-R329, R342) -/

theorem fabricFault_memOk (f : Fabric) (kind node addr : Nat) : yields State.memOk (s.fabricFault f kind node addr) := by
  unfold State.fabricFault
  refine yields_record (foldl_memOk (fun t x ht => ?_) _ (by exact h)) _ _
  dsimp only
  split <;> exact ht

theorem clearSlots_memOk (f : Fabric) : (s.clearSlots f).memOk := by
  refine foldl_memOk (fun t l ht => foldl_memOk (fun u x hu => ?_) _ ht) _ h
  split <;> exact hu

theorem fabricPort_memOk (f : Fabric) (l q : Nat) (bad : Bool) : (s.emitPort f l q bad).memOk := (emitPort_sameMem s f l q bad).memOk h

theorem landSlot_memOk (c i : Nat) : (s.landSlot c i).memOk := by
  unfold State.landSlot
  split
  · exact h
  split
  · exact h
  · dsimp only
    split
    · refine fabricPort_memOk ?_ _ _ _ _
      split <;> exact h
    · exact h

theorem execSlotLands_memOk : nextMemOk (execSlotLands s) := by
  unfold execSlotLands
  split
  · next c i _ _ =>
    show (if s.movesAt c then s.landSlot c i else s).memOk
    split
    · exact landSlot_memOk h c i
    · exact h
  · exact h

theorem execNodeFire_memOk : nextMemOk (execNodeFire s) := by
  unfold execNodeFire
  split
  · split
    · exact h
    split
    · exact h
    split
    · exact h
    · exact nextMemOk_outcome h fun _ => ((fabricFault_memOk h _ _ _ _).mapError).of_ok
    · split <;> exact h
  · exact h

theorem landToken_memOk (c i : Nat) : yields State.memOk (s.landToken c i) := by
  unfold State.landToken
  split
  · exact h
  split
  · exact h
  · dsimp only
    split
    · split
      · exact fabricFault_memOk (by exact h) _ _ _ _
      split
      · exact h
      · next l k n _ _ _ t _ =>
        show State.memOk (if t.perSpire ≤ k then _ else _)
        split
        · exact h
        · exact bump_memOk (by exact h) _ _
    · split
      · exact fabricFault_memOk (by exact h) _ _ _ _
      · split <;> exact h
    · exact h

theorem execControlTokenArrival_memOk : nextMemOk (execControlTokenArrival s) := by
  unfold execControlTokenArrival
  split
  · split
    · exact nextMemOk_outcome h fun _ => ((landToken_memOk h _ _).mapError).of_ok
    · exact h
  · exact h
end

theorem landAll_memOk (c n : Nat) : ∀ s : State, s.memOk → yields State.memOk (State.landAll c n s) := by
  induction n with
  | zero => exact fun s h => h
  | succ n ih =>
    intro s h
    unfold State.landAll
    split
    · exact h
    split
    · exact ih _ (landSlot_memOk h _ _)
    split
    · exact h
    · exact (landToken_memOk h _ _).bind ih

/-! ### Teams (12 R286, R287, 15 R349-R352, R359) -/

section
variable {s : State} (h : s.memOk)
include h

theorem removeHarts_memOk (p : Hart → Bool) : (s.removeHarts p).memOk := by
  unfold State.removeHarts
  split <;> exact h

theorem settleStores_memOk (p : Flight → Bool) : yields State.memOk (s.settleStores p) := by
  unfold State.settleStores
  split
  · next e => exact drain_memOk s _ p h e
  · trivial
  · trivial
  · trivial

theorem clearPresence_memOk (ctx order ls p : Nat) : yields State.memOk (s.clearPresence ctx order ls p) := by
  have ht : ∀ l : List Frame, (l.foldl (fun s f => s.setTags (f.key / 64) (f.key % 64) 0) s).memOk :=
    fun l => foldl_memOk (by exact fun _ _ hu => hu) l h
  unfold State.clearPresence
  dsimp only
  split
  · exact ht _
  · generalize State.devFree _ _ _ _ = r
    exact (yields_true r).map fun _ _ => ⟨Mem.paste_empty_wf _ _ _ (ht _).1, (ht _).2⟩

theorem moveFrames_memOk (ctx ls p : Nat) : yields State.memOk (s.moveFrames ctx ls p) := by
  refine yields_foldl (fun t f ht => ?_) _ h
  have saved : ∀ u, (if f.dirty then t.savePage f else .ok t) = .ok u → u.memOk := by
    intro u e
    split at e
    · exact savePage_memOk t u f ht e
    · cases e
      exact ht
  generalize (if f.dirty then t.savePage f else .ok t) = r at saved ⊢
  exact (yields_of saved).map fun _ hu => hu

theorem launchSpire_memOk (t : Team) (c : Context) (ls p : Nat) : yields State.memOk (s.launchSpire t c ls p) :=
  (clearPresence_memOk (by exact h) _ _ _ _).map fun _ hu => hu

theorem resumeSpire_memOk (t : Team) (ls p : Nat) : (s.resumeSpire t ls p).memOk := by
  obtain ⟨hdev, hhost, hspad, hsdm⟩ := h
  unfold State.resumeSpire
  refine foldl_memOk (by exact fun _ _ hu => hu) _ ⟨hdev, hhost, hspad, ?_⟩
  exact Mem.copyRange_wf _ _ _ _ _ hsdm hsdm (by omega) (by omega)

theorem bringIn_memOk (t : Team) (l : List (Nat × Nat)) : yields State.memOk (s.bringIn t l) := by
  unfold State.bringIn
  split
  · exact h
  · refine (yields_foldl (fun u x hu => ?_) _ (settleStores_memOk h _)).map fun _ hu => hu
    refine (moveFrames_memOk hu _ _ _).bind fun v hv => ?_
    split
    · exact resumeSpire_memOk hv _ _ _
    · exact launchSpire_memOk hv _ _ _ _

theorem takeSlot_memOk (t : Team) : (s.takeSlot t).memOk := by
  unfold State.takeSlot
  split
  · exact h
  · split <;> exact h

theorem replace_memOk (t : Team) : (s.replace t).memOk := by
  have hc := foldl_memOk (f := fun s c => match s.findHart ⟨t.task.ctx, t.task.order, c.1⟩ with
    | some h => s.place h c.2
    | none => s) (fun u c hu => by split <;> exact hu) t.cmds h
  exact hc

theorem installArrivals_memOk (t : Team) : (s.installArrivals t).memOk := by
  have ha := fun f hf => foldl_memOk (f := f) hf t.arrs h
  exact ha _ fun _ _ hu => hu

theorem startTeam_memOk (ctx order : Nat) : yields State.memOk (s.startTeam ctx order) := by
  unfold State.startTeam
  split
  · exact h
  · next t _ =>
    refine (bringIn_memOk h _ _).map fun u hu => ?_
    have hf : (if t.place.all Option.isSome then u.freeSlot t else u).memOk := by
      split <;> exact hu
    have hi := installArrivals_memOk (replace_memOk hf t) t
    exact hi

theorem dropTeam_memOk (t : Team) : (s.dropTeam t).memOk := by
  have hw := foldl_memOk (f := fun s (h : Hart) => s.withdraw h.id) (fun _ _ hu => hu)
    (s.harts.filter fun (h : Hart) => h.id.ctx == t.task.ctx && h.id.team == t.task.order) h
  have hr := removeHarts_memOk (s := State.freeSlot _ t) (by exact hw) fun h => h.id.ctx == t.task.ctx && h.id.team == t.task.order
  exact hr

/-! ### Loads of fabric images (14 R331-R341) -/

theorem startIfActive_memOk (t : Team) : yields State.memOk (s.startIfActive t) := by
  unfold State.startIfActive
  split
  · exact h
  · refine (startTeam_memOk h _ _).map fun u hu => ?_
    have hp := fun l : List Fabric => foldl_memOk (f := State.portsOf) (fun _ _ hu => hu) l hu
    exact hp _

theorem failLoad_memOk (f : Fabric) (code widx detail : Nat) (addr : Word) (rec : Bool) :
    yields State.memOk (s.failLoad f code widx detail addr rec) := by
  unfold State.failLoad
  dsimp only
  split
  · refine yields_record ?_ _ _
    split
    · exact h
    · split <;> exact h
  · split
    · exact h
    · split <;> exact h

theorem nextMemOk_failLoad (f : Fabric) (code widx detail : Nat) (addr : Word) (rec : Bool) :
    nextMemOk (s.outcome (stopOnly (s.failLoad f code widx detail addr rec))) :=
  nextMemOk_outcome h fun _ => ((failLoad_memOk h _ _ _ _ _ _).mapError).of_ok

theorem execFabricLoadComplete_memOk : nextMemOk (execFabricLoadComplete s) := by
  unfold execFabricLoadComplete
  split
  · split
    · exact h
    split
    · dsimp only
      split
      · exact h
      · exact nextMemOk_failLoad h _ _ _ _ _ _
      split
      · split
        · exact nextMemOk_failLoad h _ _ _ _ _ _
        split
        · exact h
        split
        · exact nextMemOk_outcome h fun _ => (startIfActive_memOk (clearSlots_memOk (by exact h) _) _).of_ok
        · exact h
      · exact nextMemOk_failLoad h _ _ _ _ _ _
    · exact h
  · exact h

theorem execFcmdLoad_memOk : nextMemOk (execFcmdLoad s) := by
  unfold execFcmdLoad
  split <;> exact h

theorem execFcmdAbort_memOk : nextMemOk (execFcmdAbort s) := by
  unfold execFcmdAbort
  split
  · split
    · exact h
    split
    · exact nextMemOk_failLoad h _ _ _ _ _ _
    · exact h
  · exact h

theorem execFabricFlip_memOk : nextMemOk (execFabricFlip s) := by
  unfold execFabricFlip
  split
  · split
    · exact h
    · split <;> exact h
  · exact h
end

end Sys2Proof.Machine
end

section
/-! The distributor, the way of a team off its Spires and team management keep the canonical form of the memories (10 R249). -/
namespace Sys2Proof.Machine

section
variable {s : State} (h : s.memOk)
include h

/-! ### The distributor (12 R278-R291) -/

theorem acceptTask_memOk (ctx : Nat) (b : List Byte) (enq : Option Nat) : (s.acceptTask ctx b enq).memOk := h

theorem endCmd_memOk (k code : Nat) : (s.endCmd k code).memOk := h

theorem execPktstatGo_memOk : nextMemOk (execPktstatGo s) := by
  unfold execPktstatGo
  split <;> exact h

theorem runTaskPut_memOk (c : Cmd) : yields State.memOk (s.runTaskPut c) := by
  unfold State.runTaskPut
  dsimp only
  split
  · exact stopCmd_memOk h _ _ _ _
  split
  · exact h
  split
  · exact stopCmd_memOk h _ _ _ _
  split
  · exact h
  split
  · exact h
  split
  · exact h
  split
  · exact h
  · exact endCmd_memOk (acceptTask_memOk h _ _ _) _ _

theorem askLoads_memOk (t : Team) : (s.askLoads t).memOk := by
  refine foldl_memOk (fun u k hu => ?_) _ h
  split <;> exact hu

theorem placeCand_memOk (c : Cand) (l : List (Nat × Nat)) : yields State.memOk (s.placeCand c l) := by
  unfold State.placeCand
  dsimp only
  split
  · split
    · exact startTeam_memOk (by exact h) _ _
    · exact askLoads_memOk (by exact h) _
  · split
    · refine (bringIn_memOk (by exact h) _ _).map fun u hu => ?_
      split <;> exact hu
    split
    · exact startTeam_memOk (by exact h) _ _
    · exact askLoads_memOk (by exact h) _

theorem preemptFor_memOk (c : Cand) (vs : List (Nat × List Nat)) : (s.preemptFor c vs).memOk := by
  have hv := fun f hf => foldl_memOk (f := f) hf vs h
  refine hv _ fun u v hu => ?_
  split
  · exact hu
  · next t _ =>
    have ht := takeSlot_memOk hu t
    dsimp only
    split <;> exact ht

theorem logBarrier_memOk (ctx : Nat) (rec : List Nat) : yields State.memOk (s.logBarrier ctx rec) := by
  unfold State.logBarrier
  split
  · exact h
  dsimp only
  split
  · exact h
  split
  · exact h
  · exact (yields_true _).map fun _ _ => devStore_memOk _ _ _ (by exact h)

theorem execEpisodeComplete_memOk : nextMemOk (execEpisodeComplete s) := by
  unfold execEpisodeComplete
  split
  · split
    · exact h
    dsimp only
    split
    · exact h
    · exact nextMemOk_outcome h fun _ => ((logBarrier_memOk h _ _).map (by exact fun _ hu => hu)).of_ok
  · exact h
end

/-! ### Spire records (15 R351, R355) -/

/-- The words of a Spire's scalar data memory at index p that satisfy q. -/
def spireWords (q : Nat → Bool) (p : Nat) : List Nat := ((List.range 8192).filter q).map fun i => p * 8192 + i

theorem spireWords_sorted (q : Nat → Bool) (p : Nat) : (spireWords q p).Pairwise (· < ·) := by
  unfold spireWords
  rw [List.pairwise_map]
  refine (List.pairwise_lt_range.filter _).imp fun hij => ?_
  omega

theorem mem_spireWords {q : Nat → Bool} {p w : Nat} (hw : w ∈ spireWords q p) : p * 2 ^ 16 ≤ 8 * w ∧ 8 * w < p * 2 ^ 16 + 65536 := by
  simp only [spireWords, List.mem_map, List.mem_filter, List.mem_range] at hw
  obtain ⟨i, ⟨hi, -⟩, rfl⟩ := hw
  omega

theorem readSpire_eq (m sdm : Mem) (a p : Nat) : readSpire m sdm a p =
    sdm.paste { m.slice a 65536 (p * 2 ^ 16) with bad := spireWords (bitAt (m.getN (a + 65536) 1024)) p } (p * 2 ^ 16) 65536 := by
  rw [readSpire, spireWords]

theorem readSpire_wf (m sdm : Mem) (a p : Nat) (hm : m.wf = true) (hs : sdm.wf = true) : (readSpire m sdm a p).wf = true := by
  rw [readSpire_eq]
  have hl := spireWords_sorted (bitAt (m.getN (a + 65536) 1024)) p
  have hb : ∀ w ∈ spireWords (bitAt (m.getN (a + 65536) 1024)) p, _ := fun _ => mem_spireWords
  generalize spireWords _ p = l at hl hb ⊢
  exact Mem.paste_wf _ _ _ _ hs (Mem.slice_wf_bad m a 65536 (p * 2 ^ 16) l hm hl)
    (fun c hc => Mem.slice_cells m a 65536 (p * 2 ^ 16) c hc) hb

section
variable {s : State} (h : s.memOk)
include h

theorem loadRecords_memOk (t : Team) : (s.loadRecords t).memOk := by
  obtain ⟨hdev, hhost, hspad, hsdm⟩ := h
  unfold State.loadRecords
  split
  · refine ⟨hdev, hhost, hspad, ?_⟩
    exact List.foldlRecOn (motive := fun m : Mem => m.wf = true) _ _ hsdm fun m hm l _ => readSpire_wf _ _ _ _ hdev hm
  · exact ⟨hdev, hhost, hspad, hsdm⟩

/-! ### Teams leave their Spires (15 R347-R352) -/

theorem writeImage_memOk (a : Nat) (b : List Byte) : yields State.memOk (s.writeImage a b) := by
  unfold State.writeImage
  generalize s.devFree _ _ _ = r
  exact (yields_true r).map fun _ _ => devStore_memOk _ _ _ h

theorem evictSet_memOk (x : Nat × Nat × Nat × Nat) : yields State.memOk (s.evictSet x) := by
  unfold State.evictSet
  dsimp only
  split
  · exact h
  split
  · exact h
  · refine (writeImage_memOk (by exact h) _ _).bind fun u hu => ?_
    generalize spireRec _ _ = b
    exact writeImage_memOk hu _ b

theorem storeSet_memOk (p ctx order ls : Nat) : yields State.memOk (s.storeSet p ctx order ls) :=
  (yields_foldl (fun _ _ hu => evictSet_memOk hu _) _ (by exact h)).map fun _ hu => hu

theorem releaseSpire_memOk (ctx order ls : Nat) (store : Bool) : yields State.memOk (s.releaseSpire ctx order ls store) := by
  unfold State.releaseSpire
  split
  · exact h
  split
  · exact h
  · next p _ =>
    have hs : yields State.memOk (if store then s.storeSet p ctx order ls else .ok s) := by
      split
      · exact storeSet_memOk h _ _ _ _
      · exact h
    refine hs.map fun u hu => ?_
    obtain ⟨hdev, hhost, hspad, hsdm⟩ := hu
    exact ⟨hdev, hhost, hspad, Mem.copyRange_wf _ _ _ _ _ hsdm hsdm (by omega) (by omega)⟩

theorem releaseSpires_memOk (ctx order : Nat) (store : Bool) (l : List Nat) : yields State.memOk (s.releaseSpires ctx order store l) :=
  yields_foldl (fun _ _ hu => releaseSpire_memOk hu _ _ _ _) _ h

theorem releaseAll_memOk (ctx order : Nat) (store : Bool) : yields State.memOk (s.releaseAll ctx order store) := by
  unfold State.releaseAll
  refine ((yields_foldl (fun _ _ hu => landAll_memOk _ _ _ hu) _ (by exact h)).mapError).bind fun u hu => ?_
  dsimp only
  split
  · exact hu
  · exact releaseSpires_memOk (by exact hu) _ _ _ _

theorem toReady_memOk (ctx order since : Nat) : (s.toReady ctx order since).memOk := h

theorem afterOut_memOk (ctx order : Nat) : yields State.memOk (s.afterOut ctx order) := by
  unfold State.afterOut
  split
  · exact h
  refine (releaseSpires_memOk h _ _ _ _).bind fun u hu => ?_
  dsimp only
  split
  · exact (releaseAll_memOk hu _ _ _).map fun _ hv => hv
  split
  · exact hu
  · split
    · exact toReady_memOk (by exact hu) _ _ _
    · exact hu

theorem execHartSwitchOut_memOk : nextMemOk (execHartSwitchOut s) := by
  unfold execHartSwitchOut
  dsimp only
  split
  · exact h
  split
  · exact h
  · next x _ _ =>
    have ht : (if x.takeable then s.takeOut s.argHart (!x.fabricReq) else s).memOk := by
      split <;> exact h
    refine nextMemOk_outcome ht fun _ => ((settleStores_memOk ht _).bind fun u hu => ?_).of_ok
    exact afterOut_memOk (by exact drainHost_memOk u _ hu) _ _

/-! ### Team management (15 R353-R363) -/

theorem nextMemOk_tmWrite (p : Nat → Bool) {f again : State → Out} (hf : ∀ u, u.memOk → nextMemOk (f u))
    (ha : ∀ u, u.memOk → nextMemOk (again u)) : nextMemOk (tmWrite p f again s) := by
  unfold tmWrite
  split
  · dsimp only
    split
    · exact h
    split
    · exact h
    split
    · exact hf _ h
    · exact h
  · split
    · exact ha _ h
    · exact h
  · exact h

theorem tmBusy_memOk : s.tmBusy.memOk := h

theorem unplaceResume_memOk (t : Team) : (s.unplaceResume t).memOk := by
  unfold State.unplaceResume
  split <;> exact h

theorem beginFreeze_memOk (t : Team) : (s.beginFreeze t).memOk := by
  have hu := unplaceResume_memOk (loadRecords_memOk (takeSlot_memOk h t) t) t
  exact hu

theorem execTmFreeze_memOk : nextMemOk (execTmFreeze s) := by
  refine nextMemOk_tmWrite h _ (fun u hu => ?_) fun u hu => hu
  split
  · exact hu
  split
  · exact hu
  split
  · exact hu
  split
  · exact hu
  · exact beginFreeze_memOk hu _

theorem withdrawColls_memOk (t : Team) : (s.withdrawColls t).memOk := by
  unfold State.withdrawColls
  dsimp only
  split
  · exact overflowFree_memOk (by exact h) _ _
  · exact h

theorem saveFrames_memOk (t : Team) : yields State.memOk (s.saveFrames t) := by
  refine yields_foldl (fun u f hu => ?_) _ h
  have saved := fun v => savePage_memOk u v f hu
  generalize u.savePage f = r at saved ⊢
  exact (yields_of saved).map fun _ hv => hv

theorem freezeTeam_memOk (t : Team) : yields State.memOk (s.freezeTeam t) := by
  unfold State.freezeTeam
  refine (saveFrames_memOk h _).bind fun u hu => (releaseAll_memOk hu _ _ _).bind fun v hv => ?_
  extract_lets w x y
  have hy : y.memOk := by
    simp only [y]
    split <;> exact hv
  split
  · split
    · exact writeImage_memOk hy _ _
    · exact hy
  · exact hy

theorem execFreezeComplete_memOk : nextMemOk (execFreezeComplete s) := by
  unfold execFreezeComplete
  split
  · split
    · exact h
    dsimp only
    split
    · exact h
    split
    · exact withdrawColls_memOk h _
    · exact nextMemOk_outcome h fun _ =>
        ((settleStores_memOk (withdrawColls_memOk h _) _).bind fun u hu => freezeTeam_memOk (drainHost_memOk u _ hu) _).of_ok
  · exact h

theorem tmImage_memOk : nextMemOk s.tmImage := by
  unfold State.tmImage
  split
  · exact h
  split
  · exact h
  split
  · exact h
  split
  · exact h
  dsimp only
  split
  · exact h
  · exact nextMemOk_outcome (by exact h) fun _ => ((writeImage_memOk h _ _).map (by exact fun _ hu => hu)).of_ok

theorem execTmWriteImage_memOk : nextMemOk (execTmWriteImage s) :=
  nextMemOk_tmWrite h _ (fun _ hu => tmImage_memOk hu) fun _ hu => tmImage_memOk hu

theorem tmCode_memOk (code fstat : Nat) : (s.tmCode code fstat).memOk := by
  unfold State.tmCode
  split <;> exact h

theorem resumeInPlace_memOk (t : Team) : ∀ y ∈ s.resumeInPlace t, y.2.memOk := by
  intro y hy
  unfold State.resumeInPlace at hy
  dsimp only at hy
  split at hy
  · cases hy
    exact h
  · obtain ⟨x, -, rfl⟩ := Option.map_eq_some_iff.1 hy
    split <;> exact h

theorem resumeImage_memOk (img desc ctx : Nat) : (s.resumeImage img desc ctx).memOk := by
  unfold State.resumeImage
  dsimp only
  split
  · exact tmCode_memOk h _ _
  split
  · exact tmCode_memOk h _ _
  split
  · exact tmCode_memOk h _ _
  split
  · exact h
  split
  · exact tmCode_memOk h _ _
  split
  · exact h
  · exact tmCode_memOk (by exact h) _ _

theorem tmBack_memOk : s.tmBack.memOk := by
  unfold State.tmBack
  split
  · split
    · exact h
    split
    · exact h
    split
    · exact h
    split
    · exact h
    · next y hy => exact tmCode_memOk (resumeInPlace_memOk h _ y hy) _ _
  · exact resumeImage_memOk h _ _ _

theorem execTmResume_memOk : nextMemOk (execTmResume s) :=
  nextMemOk_tmWrite h _ (fun _ hu => tmBack_memOk hu) fun _ hu => tmBack_memOk hu

theorem failAll_memOk (ts : List Nat) : (s.failAll ts).memOk := foldl_memOk (fun _ _ hu => failTicket_memOk hu _) _ h

theorem tmSettle_memOk : s.tmSettle.memOk := by
  unfold State.tmSettle
  split
  · exact h
  · next t _ =>
    have hu := fun fs => dropTeam_memOk (s := { s with frames := fs }) (by exact h) t
    dsimp only
    split <;> exact hu _

theorem beginEnd_memOk (t : Team) : (s.beginEnd t).memOk := by
  have hw := foldl_memOk (f := fun s (h : Hart) => s.withdraw h.id) (fun _ _ hu => hu)
    (s.harts.filter fun (h : Hart) => h.id.ctx == t.task.ctx && h.id.team == t.task.order) h
  have hr := removeHarts_memOk hw fun (h : Hart) => h.id.ctx == t.task.ctx && h.id.team == t.task.order
  have hf := fun ts => failAll_memOk (withdrawColls_memOk (unplaceResume_memOk hr t) t) ts
  exact hf _

theorem execTmEnd_memOk : nextMemOk (execTmEnd s) := by
  refine nextMemOk_tmWrite h _ (fun u hu => ?_) fun u hu => hu
  split
  · exact hu
  split
  · exact hu
  · exact tmSettle_memOk (tmBusy_memOk (beginEnd_memOk hu _))

theorem execCommandEnd_memOk : nextMemOk (execCommandEnd s) := by
  unfold execCommandEnd
  split
  · split
    · exact h
    split
    · split
      · exact h
      · refine tmSettle_memOk ?_
        split
        · exact bump_memOk (putStatus_memOk (by exact h) _ _) _ _
        · exact putStatus_memOk (by exact h) _ _
    · exact h
  · exact h

theorem tmHart_memOk (f : Hart → FaultRec → Option Hart) : nextMemOk (tmHart f s) := by
  unfold tmHart
  dsimp only
  split
  · exact h
  split
  · exact h
  split <;> exact h

theorem execTmRestart_memOk : nextMemOk (execTmRestart s) := nextMemOk_tmWrite h _ (fun _ hu => tmHart_memOk hu _) fun _ hu => hu

theorem execTmReflect_memOk : nextMemOk (execTmReflect s) := nextMemOk_tmWrite h _ (fun _ hu => tmHart_memOk hu _) fun _ hu => hu

theorem execTmUnassignedOp_memOk : nextMemOk (execTmUnassignedOp s) := nextMemOk_tmWrite h _ (fun _ hu => hu) fun _ hu => hu
end

end Sys2Proof.Machine
end

section
/-! The distributor's events, the Belfry, registers and inputs keep the canonical form of the memories (10 R249). -/
namespace Sys2Proof.Machine

section
variable {s : State} (h : s.memOk)
include h

/-! ### Cancelling and completion (12 R281, R283) -/

theorem cancelTeam_memOk (t : Team) : (s.cancelTeam t).memOk := by
  unfold State.cancelTeam
  split
  · exact dropTeam_memOk h t
  · have hb := beginEnd_memOk h t
    generalize s.beginEnd t = u at hb ⊢
    exact tmSettle_memOk (by exact hb)

theorem cancelDone_memOk (r : Nat) : (s.cancelDone r).memOk := h

theorem cancelPending_memOk : s.cancelPending.memOk := by
  unfold State.cancelPending
  dsimp only
  split
  · exact h
  split
  · exact h
  · split
    · exact h
    · exact cancelDone_memOk (cancelTeam_memOk h _) _
  · split <;> exact h

theorem execDcancel_memOk : nextMemOk (execDcancel s) := by
  unfold execDcancel
  split
  · show State.memOk (if s.dist.cBusy then _ else _)
    split <;> exact h
  · exact cancelPending_memOk h
  · exact h

theorem completeTeam_memOk (t : Team) : yields State.memOk (s.completeTeam t) :=
  (settleStores_memOk h _).map fun u hu => dropTeam_memOk (drainHost_memOk u _ hu) t

theorem execTaskComplete_memOk : nextMemOk (execTaskComplete s) := by
  have hc := cancelPending_memOk h
  unfold execTaskComplete
  split
  · dsimp only
    split
    · exact hc
    split
    · exact hc
    · exact nextMemOk_outcome hc fun _ => (completeTeam_memOk hc _).of_ok
  · exact h

/-! ### Landings, acceptance and selection (12 R277-R288, 13 R311) -/

theorem execPutELanding_memOk : nextMemOk (execPutELanding s) := by
  have hc := cancelPending_memOk h
  unfold execPutELanding
  dsimp only
  split
  · split
    · split
      · exact hc
      · exact nextMemOk_outcome hc fun _ => (takePut_memOk hc _ _).of_ok
    split
    · exact hc
    split
    · exact hc
    · exact nextMemOk_outcome hc fun _ => (runPut_memOk hc _).of_ok
  · exact nextMemOk_outcome hc fun _ => (tryHeld_memOk hc _).of_ok
  · exact hc

theorem execPkrespRetry_memOk : nextMemOk (execPkrespRetry s) := by
  have hc := cancelPending_memOk h
  unfold execPkrespRetry
  dsimp only
  split
  · split
    · exact nextMemOk_outcome hc fun _ => (retryLanding_memOk hc _).of_ok
    split
    · split
      · exact nextMemOk_outcome hc fun _ => (runCopy_memOk (by exact hc) _).of_ok
      · exact nextMemOk_outcome hc fun _ => (runPut_memOk (by exact hc) _).of_ok
      · exact hc
    split
    · exact hc
    split
    · have hf : ∀ e f ctx p, ((s.cancelPending.updEpisode e f).overflowFree ctx p).memOk :=
        fun _ _ _ _ => overflowFree_memOk (by exact hc) _ _
      split
      · exact nextMemOk_outcome (hf _ _ _ _) fun _ => (landRank_memOk (hf _ _ _ _) _ _ _).of_ok
      · exact hf _ _ _ _
    · exact hc
  · exact hc

theorem endSlot_memOk (n code : Nat) : (s.endSlot n code).memOk := h

theorem acceptSlot_memOk (n : Nat) : (s.acceptSlot n).memOk := by
  unfold State.acceptSlot
  split
  · exact h
  dsimp only
  split
  · exact h
  split
  · exact h
  split
  · exact h
  split
  · exact h
  split
  · exact h
  · exact endSlot_memOk (acceptTask_memOk h _ _ _) _ _

theorem execTaskPacketAccept_memOk : nextMemOk (execTaskPacketAccept s) := by
  have hc := cancelPending_memOk h
  unfold execTaskPacketAccept
  dsimp only
  split
  · exact acceptSlot_memOk hc _
  · split
    · exact hc
    split
    · exact hc
    · exact nextMemOk_outcome hc fun _ => (runTaskPut_memOk hc _).of_ok
  · show State.memOk (if _ then _ else _)
    split
    · exact hc
    · exact acceptTask_memOk hc _ _ _
  · exact hc

theorem execAgeingStep_memOk : nextMemOk (execAgeingStep s) := h

theorem execQuantumExpiry_memOk : nextMemOk (execQuantumExpiry s) := h

theorem select_memOk : s.select.1.memOk := h

theorem execTaskPlacement_memOk : nextMemOk (execTaskPlacement s) := by
  have hs := select_memOk (cancelPending_memOk h)
  unfold execTaskPlacement
  split
  · next e =>
    rw [e] at hs
    split
    · exact h
    · exact nextMemOk_outcome hs fun _ => (placeCand_memOk hs _ _).of_ok
  · next e =>
    rw [e] at hs
    exact preemptFor_memOk hs _ _
  · next e =>
    rw [e] at hs
    exact hs

theorem execResumePlacement_memOk : nextMemOk (execResumePlacement s) := by
  have hs := select_memOk (cancelPending_memOk h)
  unfold execResumePlacement
  split
  · next e =>
    rw [e] at hs
    split
    · exact h
    split
    · exact h
    · exact nextMemOk_outcome hs fun _ => (placeCand_memOk (loadRecords_memOk hs _) _ _).of_ok
  · exact h

/-! ### Speed, alarms, power and wear (16 R366-R369, R380, R384) -/

theorem execSpeedChange_memOk : nextMemOk (execSpeedChange s) := by
  unfold execSpeedChange
  split <;> exact h

theorem execSpdAgeWrite_memOk : nextMemOk (execSpdAgeWrite s) := by
  unfold execSpdAgeWrite
  split <;> exact h

theorem execDroopDetect_memOk : nextMemOk (execDroopDetect s) := by
  unfold execDroopDetect
  split <;> exact h

theorem execSupplyRecovery_memOk : nextMemOk (execSupplyRecovery s) := by
  unfold execSupplyRecovery
  split <;> exact h

theorem execSagStepDown_memOk : nextMemOk (execSagStepDown s) := by
  unfold execSagStepDown
  split <;> exact h

/-- A reset empties the memories of the part and leaves the host's (log 38). -/
theorem toReset_memOk : s.toReset.memOk :=
  ⟨State.reset_memOk.1, h.2.1, State.reset_memOk.2.2⟩

theorem updMail_memOk (mgr : Bool) (f : Mailbox → Mailbox) : (s.updMail mgr f).memOk := h

theorem endMail_memOk (mgr : Bool) (status : Nat) : (s.endMail mgr status).memOk := h

theorem stopSigning_memOk : s.stopSigning.memOk := by
  unfold State.stopSigning
  split
  · exact h
  · split <;> exact h

theorem zeroize_memOk : s.zeroize.memOk := h

theorem stopSpires_memOk : s.stopSpires.memOk := by
  have ht := foldl_memOk (f := fun (t : State) (h : Hart) => t.takeOut h.id false) (by exact fun _ _ hu => hu)
    (s.harts.filter fun h => h.hcr.run == 1 && !h.out && (h.hcr.sstate == 0 || h.hcr.sstate == 2)) h
  exact ht

theorem alarm_memOk (n : Nat) : (s.alarm n).memOk := by
  unfold State.alarm
  split
  · exact h
  · have ht := stopSigning_memOk (s := { s with belfry := { s.belfry with almsrc := s.belfry.almsrc ||| (1#5 <<< n) } }) h
    dsimp only
    split
    · exact ht
    · exact zeroize_memOk ht
    · obtain ⟨hdev, hhost, hspad, hsdm⟩ := toReset_memOk (zeroize_memOk ht)
      exact ⟨hdev, hhost, hspad, hsdm⟩
    · exact stopSpires_memOk (zeroize_memOk ht)

theorem execSecurityAlarm_memOk : nextMemOk (execSecurityAlarm s) := by
  unfold execSecurityAlarm
  split
  · exact alarm_memOk h _
  · exact h

theorem execPowerMeasurement_memOk : nextMemOk (execPowerMeasurement s) := by
  unfold execPowerMeasurement
  split
  · show State.memOk (if _ then _ else _)
    split
    · exact alarm_memOk (by exact h) _
    · exact h
  · exact h

theorem execPwrlimWrite_memOk : nextMemOk (execPwrlimWrite s) := by
  unfold execPwrlimWrite
  split <;> exact h

theorem execWearPrediction_memOk : nextMemOk (execWearPrediction s) := by
  unfold execWearPrediction
  split <;> exact h

/-! ### Links (16 R373-R377) -/

theorem execTramontaneCrcFail_memOk : nextMemOk (execTramontaneCrcFail s) := by
  unfold execTramontaneCrcFail
  split <;> exact h

theorem execTramontaneRetrainEnd_memOk : nextMemOk (execTramontaneRetrainEnd s) := by
  unfold execTramontaneRetrainEnd
  split <;> exact h

theorem deliverFlit_memOk (x : FlitLoad) (port pkg : Nat) : yields (·.1.memOk) (s.deliverFlit x port pkg) := by
  have hc := cancelPending_memOk h
  unfold State.deliverFlit
  split
  · dsimp only
    split
    · exact hc
    · refine (finishPut_memOk _ _ (landPut_memOk hc _ _)).map fun r hr => ?_
      split <;> exact hr
  · show State.memOk (Prod.fst (if _ then _ else _))
    split
    · exact hc
    split
    · exact hc
    split
    · exact hc
    · exact acceptTask_memOk hc _ _ _
  · exact h
  · show State.memOk (Prod.fst (if _ then _ else _))
    split <;> exact h
  · exact h

theorem execFlitReceive_memOk : nextMemOk (execFlitReceive s) := by
  unfold execFlitReceive
  split
  · exact h
  · show State.memOk (if _ then _ else _)
    split <;> exact h
  · dsimp only
    split
    · exact h
    split
    · exact h
    · refine nextMemOk_outcome (by exact h) fun _ => ((deliverFlit_memOk (by exact h) _ _ _).map fun r hr => ?_).of_ok
      split <;> exact hr
  · exact h

theorem execEtesianCrcFail_memOk : nextMemOk (execEtesianCrcFail s) := by
  unfold execEtesianCrcFail
  split <;> exact h

theorem execLaneAutoRetire_memOk : nextMemOk (execLaneAutoRetire s) := by
  unfold execLaneAutoRetire
  split <;> exact h

theorem execSpareSwitchComplete_memOk : nextMemOk (execSpareSwitchComplete s) := by
  unfold execSpareSwitchComplete
  split <;> exact h

theorem execPortDownTimeout_memOk : nextMemOk (execPortDownTimeout s) := by
  unfold execPortDownTimeout
  split <;> exact h

theorem execE2eResendTimeout_memOk : nextMemOk (execE2eResendTimeout s) := by
  unfold execE2eResendTimeout
  split
  · show State.memOk (if _ then _ else _)
    split <;> exact h
  · exact h

theorem execUnreachableTimeout_memOk : nextMemOk (execUnreachableTimeout s) := by
  unfold execUnreachableTimeout
  split
  · split
    · exact h
    · exact foldl_memOk (by exact fun _ e hu => endEpisode_memOk hu e 7) _ (by exact h)
  · exact h

/-! ### Retirement (16 R378, R379) -/

theorem retDone_memOk (code : Nat) : (s.retDone code).memOk := h

theorem setRet_memOk (j : RetJob) : (s.setRet j).memOk := by
  unfold State.setRet
  dsimp only
  split <;> exact h

theorem unplaceLaunch_memOk (t : Team) : (s.unplaceLaunch t).memOk := by
  have hd := dropTeam_memOk h t
  exact hd
end

theorem retFreeze_memOk (l : List Team) : ∀ s : State, s.memOk → ∀ t ∈ s.retFreeze l, t.memOk := by
  induction l with
  | nil =>
    intro s h t ht
    cases ht
    exact h
  | cons x l ih =>
    intro s h
    unfold State.retFreeze
    split
    · exact ih s h
    split
    · exact ih s h
    split
    · exact ih _ (unplaceLaunch_memOk h _)
    split
    · exact fun _ ht => nomatch ht
    · exact ih _ (beginFreeze_memOk h _)

theorem retResume_memOk (l : List (Nat × Nat × Bool)) : ∀ (s : State) (code : Nat), s.memOk → (s.retResume l code).1.memOk := by
  induction l with
  | nil => exact fun s code h => h
  | cons x l ih =>
    intro s code h
    unfold State.retResume
    split
    · exact ih s code h
    split
    · exact ih s code h
    split
    · exact ih s code h
    · next e =>
      have hu := resumeInPlace_memOk h _ _ e
      exact ih _ _ hu
    · next e =>
      have hu := resumeInPlace_memOk h _ _ e
      exact ih _ _ (by exact hu)

section
variable {s : State} (h : s.memOk)
include h

theorem retFinish_memOk (j : RetJob) : (retFinish j s).memOk := by
  unfold retFinish
  split
  · exact h
  dsimp only
  split
  · exact h
  · have ht := setRet_memOk h j
    exact retDone_memOk (retResume_memOk _ _ _ (by exact ht)) _

theorem retBegin_memOk (cls p : Nat) : (retBegin cls p s).memOk := by
  unfold retBegin
  dsimp only
  split
  · exact h
  split
  · exact h
  split
  · exact h
  split
  · exact h
  · next e =>
    have ht := retFreeze_memOk _ s h _ e
    split
    · exact retDone_memOk (setRet_memOk ht _) _
    · exact ht

theorem retLane_memOk (i : Nat) : (retLane i s).memOk := by
  unfold retLane
  split
  · exact h
  · split <;> exact h

theorem retLink_memOk (i : Nat) : (retLink i s).memOk := by
  unfold retLink
  dsimp only
  split
  · exact h
  · split <;> exact h

theorem retRow_memOk (i row : Nat) : (retRow i row s).memOk := by
  unfold retRow
  split
  · exact h
  split
  · exact h
  · split <;> exact h

theorem retRowEnd_memOk (j : RetJob) : (retRowEnd j s).memOk := by
  have ht := foldl_memOk (f := fun s w => s.spoil (.dev w)) (fun u w hu => spoil_memOk u (.dev w) hu) (s.lostWords j)
    (s := { s with draw := s.draw + 1 }) h
  exact ht

theorem retAct_memOk (cls i row : Nat) : (retAct cls i row s).memOk := by
  unfold retAct
  split
  · exact retBegin_memOk h _ _
  · exact retBegin_memOk h _ _
  · exact retLane_memOk h _
  · exact retLink_memOk h _
  · exact retRow_memOk h _ _
  · exact h

theorem writeRetcmd_memOk (p : Nat → Bool) (v : Word) : (s.writeRetcmd p v).memOk := by
  unfold State.writeRetcmd
  split
  · exact h
  dsimp only
  split
  · exact h
  split
  · exact retAct_memOk (by exact h) _ _ _
  · exact h

theorem retStep_memOk (p : Nat → Bool) : nextMemOk (retStep p s) := by
  unfold retStep
  split
  · exact writeRetcmd_memOk h _ _
  · show State.memOk (if _ then _ else _)
    split
    · exact h
    split
    · exact retRowEnd_memOk h _
    · exact retFinish_memOk h _
  · exact h

/-! ### Resets, mailboxes and registers (00 R7, 16 R381-R385) -/

theorem restart_memOk : s.restart.memOk := by
  have ht := toReset_memOk h
  exact ht

theorem execPackageReset_memOk : nextMemOk (execPackageReset s) := by
  show State.memOk (if s.belfry.inReset then s else s.restart)
  split
  · exact h
  · exact restart_memOk h

theorem execPowerRemoval_memOk : nextMemOk (execPowerRemoval s) := restart_memOk h

theorem execDctlWrite_memOk : nextMemOk (execDctlWrite s) := by
  unfold execDctlWrite
  split <;> exact h

theorem nextMemOk_mailWrite (p : Nat → Bool) {finish : Bool → State → Out} (hf : ∀ m u, u.memOk → nextMemOk (finish m u)) :
    nextMemOk (mailWrite p finish s) := by
  unfold mailWrite
  split
  · dsimp only
    split <;> exact h
  · split
    · exact hf _ _ h
    · exact h
  · exact h

theorem execMailboxReport_memOk : nextMemOk (execMailboxReport s) := by
  refine nextMemOk_mailWrite h _ fun m u hu => ?_
  split
  · exact endMail_memOk hu _ _
  · exact endMail_memOk (updMail_memOk (by exact hu) _ _) _ _

theorem execMailboxFirmwareUpdate_memOk : nextMemOk (execMailboxFirmwareUpdate s) := by
  refine nextMemOk_mailWrite h _ fun m u hu => ?_
  dsimp only
  split
  · exact endMail_memOk (by exact hu) _ _
  · exact endMail_memOk hu _ _

theorem execMailboxUnassignedOp_memOk : nextMemOk (execMailboxUnassignedOp s) :=
  nextMemOk_mailWrite h _ fun m _ hu => endMail_memOk hu m 2

theorem writeReg_memOk (r : MgrReg) (v : Word) : (s.writeReg r v).memOk := by
  cases r with
  | retcmd => exact writeRetcmd_memOk h _ v
  | tmarg | tmimg | tmlen | tmdesc | cxsave | cxslots =>
    unfold State.writeReg
    dsimp only
    split <;> exact h
  | _ => exact h

theorem execRegisterWrite_memOk : nextMemOk (execRegisterWrite s) := by
  unfold execRegisterWrite
  split
  · split
    · exact writeReg_memOk h _ _
    · split <;> exact h
  · exact h

/-! ### Inputs (log 1, log 2) -/

theorem evict_memOk (line : Nat) : (s.evict line).memOk := by
  unfold State.evict
  dsimp only
  split <;> exact h

theorem rotate_memOk : s.rotate.memOk := by
  unfold State.rotate
  split
  · split <;> exact h
  · exact h
end

theorem writeSlots_memOk (l : List Byte) : ∀ (s : State) (a : Nat), s.memOk → (s.writeSlots a l).memOk := by
  induction l with
  | nil => exact fun s a h => h
  | cons b l ih =>
    intro s a h
    refine ih _ _ ?_
    split <;> exact h

theorem input_memOk {s : State} (h : s.memOk) (a : Input) : (s.input a).memOk := by
  cases a with
  | run i =>
    have hf := focus_memOk h i
    unfold State.input
    dsimp only
    split <;> exact hf
  | keepBlock p ctx va =>
    unfold State.input
    dsimp only
    split
    · exact h
    split
    · split <;> exact h
    · exact h
  | miss p ctx host va => exact (addMiss_sameMem s p ctx host va).memOk h
  | evict line => exact evict_memOk h line
  | mgrStore c addr bytes =>
    unfold State.input
    dsimp only
    split <;> exact h
  | mgrLoad c addr n =>
    unfold State.input
    dsimp only
    split <;> exact h
  | hostWrite addr bytes => exact writeSlots_memOk bytes s addr h
  | _ => exact h

end Sys2Proof.Machine
end

section
/-! Every step keeps the memories in canonical form (10 R249): the meanings of the instructions and events together, the inputs of the
agenda, and the step. -/
namespace Sys2Proof.Machine

theorem execStripRel_memOk {s : State} (h : s.memOk) (d : SReg) (sc : Scope) : nextMemOk (execStripRel d sc s) :=
  nextMemOk_closing h _ fun _ hu => (performed_memOk hu sc).map fun _ hv => hv

section
variable {s : State} (h : s.memOk)
include h

theorem vecInt3_memOk (w : IWidth) (d a : VIdx) (b : BOp3) (m : MIdx) (f : Nat → Nat → Nat → Nat) : nextMemOk (vecInt3 w d a b m f s) :=
  nextMemOk_vecH h _ _ _ _

theorem vecShift_memOk (w : IWidth) (d a : VIdx) (b : BOp3) (m : MIdx) (f : Nat → Nat → Nat → Nat) : nextMemOk (vecShift w d a b m f s) :=
  nextMemOk_vecH h _ _ _ _

theorem vecIntCmp_memOk (w : IWidth) (d : MIdx) (a : VIdx) (b : BOp3) (m : MIdx) (f : Nat → Nat → Nat → Bool) :
    nextMemOk (vecIntCmp w d a b m f s) :=
  nextMemOk_vecH h _ _ _ _

theorem vecFp2_memOk (w : Nat) (d a : VIdx) (b : BOp2) (m : MIdx) (f : Rnd → Bool → Nat → Nat → Nat × FlagSet) :
    nextMemOk (vecFp2 w d a b m f s) :=
  nextMemOk_vecH h _ _ _ _

theorem vecFma_memOk (F : Fp) (w : Nat) (np nc : Bool) (d a b : VIdx) (m : MIdx) : nextMemOk (vecFma F w np nc d a b m s) :=
  nextMemOk_vecH h _ _ _ _

theorem vecFp1_memOk (w : Nat) (d a : VIdx) (m : MIdx) (f : Rnd → Bool → Nat → Nat × FlagSet) : nextMemOk (vecFp1 w d a m f s) :=
  nextMemOk_vecH h _ _ _ _

theorem vecFCmp_memOk (k : FFmt) (c : FCmp) (d : MIdx) (a : VIdx) (b : BOp2) (m : MIdx) : nextMemOk (vecFCmp k c d a b m s) :=
  nextMemOk_vecH h _ _ _ _

theorem vecC2_memOk (t : CFmt) (op : COp) (d a : VIdx) (b : BOp2) (m : MIdx) : nextMemOk (vecC2 t op d a b m s) :=
  vecFp2_memOk h _ _ _ _ _ _

theorem maskOp2_memOk (d a b m : MIdx) (f : Bool → Bool → Bool) : nextMemOk (maskOp2 d a b m f s) :=
  nextMemOk_vecH h _ _ _ _

theorem slide_memOk (up keep : Bool) (d a : VIdx) (b : BOpS) (m : MIdx) : nextMemOk (slide up keep d a b m s) :=
  nextMemOk_vecH h _ _ _ _

theorem reduce_memOk (w : Nat) (d a : VIdx) (m : MIdx) (id : Nat) (f : Hart → Nat → Nat → Nat × FlagSet) :
    nextMemOk (reduce w d a m id f s) :=
  nextMemOk_vecH h _ _ _ _

theorem modOp2_memOk (w : MWidth) (p1 : Bool) (d a : VIdx) (b : BOp2) (m : MIdx) (f : Nat → Nat → Nat → Nat) :
    nextMemOk (modOp2 w p1 d a b m f s) :=
  nextMemOk_vecH h _ _ _ _

theorem permute_memOk (d a : VIdx) (m : MIdx) (legal : Bool) (src : Nat → Nat → Nat) : nextMemOk (permute d a m legal src s) :=
  nextMemOk_vecH h _ _ _ _

theorem outer_memOk (sub : Bool) (t : OpaT) (d : AIdx) (a b : VIdx) (m : MIdx) : nextMemOk (outer sub t d a b m s) :=
  nextMemOk_vecH h _ _ _ _

theorem tileRead_memOk (row : Bool) (d : VIdx) (a : AIdx) (c : SReg) (m : MIdx) : nextMemOk (tileRead row d a c m s) :=
  nextMemOk_vecH h _ _ _ _

theorem tileWrite_memOk (row : Bool) (d : AIdx) (a : VIdx) (c : SReg) (m : MIdx) : nextMemOk (tileWrite row d a c m s) :=
  nextMemOk_vecH h _ _ _ _

theorem execBfly2_memOk (t : BflyT) (d a : VIdx) (b : BOpB) (m : MIdx) : nextMemOk (execBfly2 t d a b m s) := by
  unfold execBfly2
  exact nextMemOk_vecH h _ _ _ _
end

/-- Each meaning by the shape that it is made of. -/
theorem exec_memOk {s : State} (h : s.memOk) (i : Instr) : nextMemOk (exec i s) := by
  unfold exec
  cases i with
  | add | sub | and | or | xor | sll | srl | sra | slt | sltu | seq | min | max | minu | maxu | clz | ctz | popc | mul | mulh | mulhu |
    mulhsu | div | divu | rem | remu | addi | slli | srli | srai | andi | ori | lui | fadd | fsub | fmul | fdiv | fmadd | fmin | fmax |
    fsqrt | fneg | fabs | fsgnj | feq | flt | fle | fcvtFp64Fp32 | fcvtFp32Fp64 | fcvtFp32I64 | fcvtFp64I64 | fcvtFp32Ui64 |
    fcvtFp64Ui64 | fcvtI64Fp32 | fcvtI64Fp64 | fcvtUi64Fp32 | fcvtUi64Fp64 | fcvtFp16Fp32 | fcvtFp32Fp16 | fcvtBf16Fp32 | fcvtFp32Bf16 |
    tkwait | farmInit | azero | amov | hint =>
    exact nextMemOk_plainH h _
  | beq | bne | bmany | bmnone | jalr | jr | jal =>
    exact nextMemOk_jumpH h _
  | vmadd | vabsI | vfmaC | vmfirst | vpopc | viota | mset | mclr | vmerge | vperm | vmv | vmvXs | vmvSx | vext | vcvt | vmxq | vmxd |
    bfly4 | bflyg | mred | mlift | bfly2M | bfly4M | mcrt | mchk | twset | twget | xbfn =>
    exact nextMemOk_vecH h _ _ _ _
  | vaddI | vsubI | vmulI | vmulh | vmulhu | vminI | vmaxI | vminu | vmaxu | vand | vor | vxor | vsadd | vsaddu | vssub | vssubu | vdivI
    | vdivu | vrem | vremu =>
    exact vecInt3_memOk h ..
  | vsll | vsrl | vsra =>
    exact vecShift_memOk h ..
  | vceqI | vcneI | vcltI | vcltu | vcleI | vcleu =>
    exact vecIntCmp_memOk h ..
  | vaddF | vsubF | vmulF | vdivF | vminF | vmaxF | vsgnj | vaddF8 | vsubF8 | vmulF8 | vminF8 | vmaxF8 =>
    exact vecFp2_memOk h ..
  | vfmaF | vfms | vfnma | vfmaF8 =>
    exact vecFma_memOk h ..
  | vsqrt | vabsF | vneg | vconj | vmuli =>
    exact vecFp1_memOk h ..
  | vceqF | vcneF | vcltF | vcleF | vcun =>
    exact vecFCmp_memOk h ..
  | vaddC | vsubC | vmulC | vmulc =>
    exact vecC2_memOk h ..
  | mand | mor | mxor | mandn | mnot =>
    exact maskOp2_memOk h ..
  | vslideup | vslidedown | vslideupk | vslidedownk =>
    exact slide_memOk h ..
  | vredsum | vredmin | vredmax | vredminu | vredmaxu | vredand | vredor | vredxor =>
    exact reduce_memOk h ..
  | mmul | madd | msub =>
    exact modOp2_memOk h ..
  | vdrev | vtrn =>
    exact permute_memOk h ..
  | opa | ops =>
    exact outer_memOk h ..
  | arow | acol =>
    exact tileRead_memOk h ..
  | awrow | awcol =>
    exact tileWrite_memOk h ..
  | ldb | ldh | ldw | ldd | ldbu | ldhu | ldwu =>
    exact nextMemOk_plain h (scalarLoad_memOk h ..)
  | stb | sth | stw | std =>
    exact nextMemOk_plain h (scalarStore_memOk h ..)
  | vld | vlds | vldx | vldff =>
    exact nextMemOk_plain h (vecLoad_memOk h ..)
  | vst | vsts | vstx =>
    exact nextMemOk_plain h (vecStore_memOk h ..)
  | trap | brk =>
    exact softTrap_memOk h _
  | stripRel => exact execStripRel_memOk h ..
  | setvl | setvlAcq | strip | teret | halt =>
    exact nextMemOk_closing h _ fun _ hu => hu
  | bfly2 => exact execBfly2_memOk h ..
  | vtake | vread | vput =>
    exact presence_memOk h ..
  | sbind => exact nextMemOk_streamOp h _ _ h
  | sisect | sunite =>
    exact derive_memOk h ..
  | copy | coll | putE | taskPut =>
    exact issue_memOk h ..
  | retireSpire | retireRouter | retireEtesianLane | retireTramontaneLink | retireHbmRow | retireInvalidClass =>
    exact retStep_memOk h _
  | hostSnoop => exact h
  | hcrr => exact execHcrr_memOk h ..
  | hcrw => exact execHcrw_memOk h ..
  | fence => exact execFence_memOk h ..
  | barArrive => exact execBarArrive_memOk h ..
  | barWait => exact execBarWait_memOk h ..
  | await => exact execAwait_memOk h ..
  | farmNext => exact execFarmNext_memOk h ..
  | vldsc => exact execVldsc_memOk h ..
  | vgl => exact execVgl_memOk h ..
  | vstsc => exact execVstsc_memOk h ..
  | vsc => exact execVsc_memOk h ..
  | vatom => exact execVatom_memOk h ..
  | ald => exact execAld_memOk h ..
  | ast => exact execAst_memOk h ..
  | aepi => exact execAepi_memOk h ..
  | sunbind => exact execSunbind_memOk h ..
  | sskip => exact execSskip_memOk h ..
  | ssave => exact execSsave_memOk h ..
  | srest => exact execSrest_memOk h ..
  | saff => exact execSaff_memOk h ..
  | sidx => exact execSidx_memOk h ..
  | sfib => exact execSfib_memOk h ..
  | stripCommit => exact execStripCommit_memOk h
  | commitEnd => exact execCommitEnd_memOk h
  | stripWatchdog => exact execStripWatchdog_memOk h
  | fqbaseWrite => exact execFqbaseWrite_memOk h
  | fqheadWrite => exact execFqheadWrite_memOk h
  | scalarLoadReturn => exact execScalarLoadReturn_memOk h
  | stripTerminalComplete => exact execStripTerminalComplete_memOk h
  | presenceDeferralServe => exact execPresenceDeferralServe_memOk h
  | linkReservationExpiry => exact execLinkReservationExpiry_memOk h
  | awaitComplete => exact execAwaitComplete_memOk h
  | tkwaitSatisfied => exact execTkwaitSatisfied_memOk h
  | lazyVectorMove => exact execLazyVectorMove_memOk h
  | pageRestoreComplete => exact execPageRestoreComplete_memOk h
  | spsave => exact execSpsave_memOk h
  | spsaveComplete => exact execSpsaveComplete_memOk h
  | patrolScrub => exact execPatrolScrub_memOk h
  | translationWalk => exact execTranslationWalk_memOk h
  | invctlGo => exact execInvctlGo_memOk h
  | invalidationComplete => exact execInvalidationComplete_memOk h
  | copyExecute => exact execCopyExecute_memOk h
  | commandEnd => exact execCommandEnd_memOk h
  | pkrespRetry => exact execPkrespRetry_memOk h
  | pkrespFail => exact execPkrespFail_memOk h
  | collExecute => exact execCollExecute_memOk h
  | collChunkArrival => exact execCollChunkArrival_memOk h
  | putELanding => exact execPutELanding_memOk h
  | streamDelivery => exact execStreamDelivery_memOk h
  | streamFetchAhead => exact execStreamFetchAhead_memOk h
  | slotReservation => exact execSlotReservation_memOk h
  | slotLands => exact execSlotLands_memOk h
  | nodeFire => exact execNodeFire_memOk h
  | controlTokenArrival => exact execControlTokenArrival_memOk h
  | fcmdLoad => exact execFcmdLoad_memOk h
  | fcmdAbort => exact execFcmdAbort_memOk h
  | fabricLoadComplete => exact execFabricLoadComplete_memOk h
  | fabricFlip => exact execFabricFlip_memOk h
  | episodeComplete => exact execEpisodeComplete_memOk h
  | farmNextServe => exact execFarmNextServe_memOk h
  | pktstatGo => exact execPktstatGo_memOk h
  | taskPacketAccept => exact execTaskPacketAccept_memOk h
  | taskComplete => exact execTaskComplete_memOk h
  | taskPlacement => exact execTaskPlacement_memOk h
  | ageingStep => exact execAgeingStep_memOk h
  | quantumExpiry => exact execQuantumExpiry_memOk h
  | hartSwitchOut => exact execHartSwitchOut_memOk h
  | dcancel => exact execDcancel_memOk h
  | tmFreeze => exact execTmFreeze_memOk h
  | freezeComplete => exact execFreezeComplete_memOk h
  | tmWriteImage => exact execTmWriteImage_memOk h
  | tmResume => exact execTmResume_memOk h
  | resumePlacement => exact execResumePlacement_memOk h
  | tmEnd => exact execTmEnd_memOk h
  | tmRestart => exact execTmRestart_memOk h
  | tmReflect => exact execTmReflect_memOk h
  | tmUnassignedOp => exact execTmUnassignedOp_memOk h
  | speedChange => exact execSpeedChange_memOk h
  | spdAgeWrite => exact execSpdAgeWrite_memOk h
  | droopDetect => exact execDroopDetect_memOk h
  | sagStepDown => exact execSagStepDown_memOk h
  | powerMeasurement => exact execPowerMeasurement_memOk h
  | pwrlimWrite => exact execPwrlimWrite_memOk h
  | hostCxlMemAccess => exact execHostCxlMemAccess_memOk h
  | hostStoreCompletion => exact execHostStoreCompletion_memOk h
  | tramontaneCrcFail => exact execTramontaneCrcFail_memOk h
  | flitReceive => exact execFlitReceive_memOk h
  | etesianCrcFail => exact execEtesianCrcFail_memOk h
  | laneAutoRetire => exact execLaneAutoRetire_memOk h
  | spareSwitchComplete => exact execSpareSwitchComplete_memOk h
  | portDownTimeout => exact execPortDownTimeout_memOk h
  | e2eResendTimeout => exact execE2eResendTimeout_memOk h
  | unreachableTimeout => exact execUnreachableTimeout_memOk h
  | wearPrediction => exact execWearPrediction_memOk h
  | packageReset => exact execPackageReset_memOk h
  | dctlWrite => exact execDctlWrite_memOk h
  | mailboxReport => exact execMailboxReport_memOk h
  | mailboxFirmwareUpdate => exact execMailboxFirmwareUpdate_memOk h
  | mailboxUnassignedOp => exact execMailboxUnassignedOp_memOk h
  | securityAlarm => exact execSecurityAlarm_memOk h
  | powerRemoval => exact execPowerRemoval_memOk h
  | registerWrite => exact execRegisterWrite_memOk h
  | storeWrittenAtHome => exact execStoreWrittenAtHome_memOk h
  | tramontaneRetrainEnd => exact execTramontaneRetrainEnd_memOk h
  | supplyRecovery => exact execSupplyRecovery_memOk h
  | backInvalidateResponse => exact execBackInvalidateResponse_memOk h

theorem fetched_memOk {s : State} (h : s.memOk) : s.fetched.memOk := by
  obtain ⟨_, _, _, e⟩ := s.fetched_frame
  rw [e]
  exact h

theorem awayWait_memOk {s : State} (h : s.memOk) {o : Out} (ho : nextMemOk o) : nextMemOk (s.awayWait o) := by
  unfold State.awayWait
  split
  · split
    · exact ho
    · exact nextMemOk_take h _
  · exact nextMemOk_take h _

theorem stepHart_memOk {s : State} (h : s.memOk) : nextMemOk (stepHart s) := by
  have hf := fetched_memOk h
  unfold stepHart
  split
  · exact nextMemOk_take h _
  · dsimp only
    split
    · exact awayWait_memOk hf (exec_memOk hf _)
    · exact exec_memOk hf _

theorem stepInput_memOk {s : State} (h : s.memOk) (a : Input) : nextMemOk (stepInput a s) := by
  unfold stepInput
  split
  · exact h
  split
  · split
    · exact exec_memOk (by exact h) _
    · exact h
  split
  · exact exec_memOk (by exact h) _
  · exact input_memOk h _

theorem step_memOk {s : State} (h : s.memOk) : nextMemOk (step s) := by
  unfold step
  split
  · exact stepInput_memOk (by exact h) _
  split
  · exact stepHart_memOk h
  · exact rotate_memOk h

/-- Settles O8: every write to a memory goes through an operation that keeps its lists sorted, and a copied or cleared range starts and ends
at whole 8-byte words. -/
theorem stepKeepsMemoryCanonical : Obligations.StepKeepsMemoryCanonical :=
  fun _ _ h e => (step_memOk h).of_next e

end Sys2Proof.Machine
end
